-- ==== Sys2Proof/Word.lean ====
section
/-!
DEFINITION. The words of the device: bytes, and the sorted sparse lists that hold indexed state.
-/
namespace Sys2Proof

/-- A byte. -/
abbrev Byte := BitVec 8

/-- A string of bytes, lowest address first (R5: little-endian fields). -/
abbrev Bytes := List Byte

/-- Indexed state: pairs of index and value, indices strictly rising. -/
abbrev SMap (α : Type) := List (Nat × α)

end Sys2Proof
end

