-- ==== Sys2Proof/Syntax.lean ====
section
/-!
DEFINITION. The commands the block takes, one constructor per row of spec/opcode_table.json, and the data they carry.
-/
namespace Sys2Proof

/-- A Speuc session: a local slot (R54) or a remote slot (R73). -/
inductive Sess where
  | loc (i : Fin 64)
  | rem (i : Fin 64)
deriving DecidableEq, Repr

/-- Items of the function's configuration space (R42): vendor and device ID, class code and revision, subsystem IDs, BAR0 or
BAR2, payload size, read request size, power state, MSI-X control, the uncorrectable error status of AER. -/
inductive CfgItem where
  | ids
  | cls
  | subsys
  | bar (two : Bool)
  | payload
  | readReq
  | power
  | msix
  | aer
deriving DecidableEq, Repr

/-- A configuration request (R42, R43): a read of an item, or a write of one. -/
inductive CfgReq where
  | read (item : CfgItem)
  | write (item : CfgItem) (value : BitVec 64)
deriving DecidableEq, Repr

/-- What the PMBus write of VCORE gives: no acknowledgement, or the voltage read back in mV (R34, R505). -/
inductive PmbFate where
  | nack
  | readback (mv : Nat)
deriving DecidableEq, Repr

/-- A DDR4 training result of one byte lane: read delay and eye, write delay and eye, VrefDQ code (R404, R429). -/
structure TrainRes where
  rd : Nat := 0
  re : Nat := 0
  wd : Nat := 0
  we : Nat := 0
  vref : Nat := 0
deriving DecidableEq, Repr

/-- What the centring of one byte lane finds (R404): for the read and for the write, whether 256 bursts passed at each step of 1/64 UI from step
0 on, and the VrefDQ code. -/
structure Sweep where
  read : List Bool
  write : List Bool
  vref : Nat := 0
deriving DecidableEq, Repr

/-- How the training of one enabled channel ends (R403, R406): a step cannot complete, or the sweeps of its lanes, rank by rank. -/
inductive TrainFate where
  | failed
  | trained (lanes : List Sweep)
deriving DecidableEq, Repr

/-- What a DDR4 read meets: no error, a corrected bit, a double error gone or still there on the second read (R420, R421). -/
inductive ReadFate where
  | clean
  | corrected
  | cleared
  | poisoned
deriving DecidableEq, Repr

/-- A request of a DDR4 channel (R411 to R416): its port, granule within the channel, write or read, a write of less than 64 bytes, its age in
ns when it enters, and of a read the initiator, the command it serves and the window it fills (slot, row group, line, granule of the plane line
or of the payload of the record that the ring named brings). -/
structure DdrReq where
  port : Fin 12
  granule : Nat
  write : Bool := false
  part : Bool := false
  age : Nat := 0
  master : BitVec 8 := 0
  who : Option (Sess × BitVec 32) := none
  win : Option (Fin 160 × Fin 2 × Nat × Nat × Option (Fin 16)) := none
deriving DecidableEq, Repr

/-- The comparison of the two descriptors of a line (R210, R211): they match, the active offers none in time,
or they differ: which of the active's and the standby's agrees with DAMPER's model, whether the two derived again agree with
each other, and which of them then agrees with the model. -/
inductive DescCompare where
  | agree
  | differ (active : List (BitVec 8)) (standby : Option (List (BitVec 8))) (active2 standby2 : List (BitVec 8))
deriving DecidableEq, Repr

/-- A memory error a line meets, as the number of wrong bits of one word (R133, R165, R176, R183, R554). -/
inductive Upset where
  | easel (slot rg back word bits : Nat)
  | table (bank word bits : Nat) (matrix : Bool)
  | ember (index bits : Nat)
  | emberTable (cls word bits : Nat)
  | ledger (index bits : Nat)
deriving DecidableEq, Repr

/-- One DRAUGHT monitor of a line: the times of its release, its deadline and its completion (R30, R31). -/
structure MonRec where
  mon : Nat
  release : Nat
  deadline : Nat
  completion : Nat
deriving DecidableEq, Repr

/-- A CSI-2 long packet (R345 to R352): data type, header 0 good 1 corrected 2 uncorrectable,
3 good but with a parity error of the camera FIFO on its line (R431), payload and whether its CRC holds. -/
structure CsiPacket where
  dataType : Nat
  hdr : Nat
  bytes : Bytes
  crcOk : Bool
deriving DecidableEq, Repr

/-- The word a board sensor answers, with the VOUT_MODE exponent of a LINEAR16 device (R475). -/
structure SensorWord where
  word : BitVec 16
  exp : BitVec 5 := 0
deriving DecidableEq, Repr

/-- What a conversion reads: on-die temperatures in 0.1 °C, monitors in mV and board sensors (R334, R473, R475). -/
structure Readings where
  tj : List Int := []
  mv : List Nat := []
  boards : List (Nat × Option SensorWord) := []
deriving DecidableEq, Repr

/-- What IEEE 1588's best master clock algorithm decides at a message (R331): no change, no master selected,
the master with a clockIdentity, or this clock. -/
inductive Bmca where
  | keep
  | none
  | master (id : Bytes)
  | self
deriving DecidableEq, Repr

/-- An IEEE 1149.1 instruction of the TAP (R490); `priv` is a private one. -/
inductive TapInstr where
  | bypass
  | idcode
  | samplePreload
  | extest
  | highz
  | clamp
  | priv (code : BitVec 8)
deriving DecidableEq, Repr

/-- The commands and events of spec/opcode_table.json, one constructor per row.
The first operand `dt` is the time since the command before, in TCLK periods of 1.6 ns (log 2). -/
inductive Instr where
  /-- PORST_N_RISE (R503). Rise of PORST_N starts KINDLING at stage 3: TCLK PLL lock, fault collector running, T32 and Device Time started. -/
  | porstNRise (dt : Nat) (lock : Option Nat)
  /-- PORST_N_FALL (R502). Fall of PORST_N puts every output into its held state within 1 µs and loses all work in flight. -/
  | porstNFall (dt : Nat)
  /-- POWER_RAILS_DOWN (R514). Groups 2–5 go down while VBAT stays up, and the device enters BANKED standby. -/
  | powerRailsDown (dt : Nat)
  /-- VBAT_RETENTION_LOSS (R513). VBAT falls below its retention level; the VBAT domain resets and its valid marker is lost. -/
  | vbatRetentionLoss (dt : Nat)
  /-- KINDLING_STAGE_4_DONE (R482). The boot ROM finishes verifying and loading an image under the boot directory, or enters UPDATING. -/
  | kindlingStage4Done (dt : Nat) (flashOk : Bool) (sigA : Bool) (sigB : Bool)
  /-- KINDLING_STAGE_5_DONE (R505). The trim record is read, VCORE is set over PMBus, the rails are checked and the PCIe endpoint is released. -/
  | kindlingStage5Done (dt : Nat) (pmb : PmbFate) (mon0 : Nat) (railsOk : Bool)
  /-- KINDLING_STAGE_6_DONE (R406). DDR4 training of every enabled channel ends; failed channels are excluded, or KINDLING stops if none trained. -/
  | kindlingStage6Done (dt : Nat) (trained : List TrainFate)
  /-- KINDLING_STAGE_7_DONE (R503). Scratchpads are zeroed and wiped, the life cycle is compared, the log pointer is found and the processors are released. -/
  | kindlingStage7Done (dt : Nat) (testOk : Bool) (ember : List (Nat × Bool))
  /-- KINDLING_STAGE_8_DONE (R510). The 100 ms lane termination survey ends and each lane reports present and returns to OFF. -/
  | kindlingStage8Done (dt : Nat) (present : BitVec 36)
  /-- ENTER_READY (R511). Stage 8 and all trim steps are done; the host window opens, a KINDLING log entry is written and the DAC slew begins. -/
  | enterReady (dt : Nat)
  /-- TCLK_UNLOCK (R24). The TCLK PLL loses lock; fire emitters send no-fire, PHYs idle and NO_FIRE is carried until the host clears the fault. -/
  | tclkUnlock (dt : Nat)
  /-- TCLK_LOCK_RETURN (R24). TCLK lock returns and the fault collector records TCLK_UNLOCK. -/
  | tclkLockReturn (dt : Nat)
  /-- PE_PERST_N (R563). PE_PERST_N resets the PCIe PHY with the effect of a function level reset. -/
  | pePerstN (dt : Nat)
  /-- FUNCTION_LEVEL_RESET (R44). An FLR closes every local session, discards local work with an epoch change of kind FLR and disables MSI-X. -/
  | functionLevelReset (dt : Nat)
  /-- FLR_COMPLETE (R44). The function level reset completes and the closed slots are offered again. -/
  | flrComplete (dt : Nat)
  /-- PCIE_CONFIG_REQUEST (R43). A configuration request is answered with Retry Status until KINDLING makes the function ready. -/
  | pcieConfigRequest (dt : Nat) (req : CfgReq)
  /-- PCIE_LINK_DOWN (R77). The PCIe link leaves L0 and does not recover. -/
  | pcieLinkDown (dt : Nat)
  /-- POISONED_TLP (R77). A poisoned write arrives at BAR0 or BAR2 and is dropped. -/
  | poisonedTlp (dt : Nat) (bar2 : Bool)
  /-- CLAIM_READ (R54). A 64-bit read of CLAIM grants a free slot with a new token, or returns GRANTED 0. -/
  | claimRead (dt : Nat)
  /-- RELEASE (R57). A write of a token to RELEASE closes its session and offers the slot again at once. -/
  | release (dt : Nat) (token : BitVec 32)
  /-- RENEW (R56). A write of a token to RENEW renews the session's lease to its full length. -/
  | renew (dt : Nat) (token : BitVec 32)
  /-- CQ_HEAD_WRITE (R69). A write of CQ_HEAD[i] consumes completion entries, or is ignored when it would pass unposted entries. -/
  | cqHeadWrite (dt : Nat) (ix : Fin 64) (value : BitVec 32)
  /-- GSTAT_EVENTS_CLEAR (R49). A W1C write clears GSTAT_EVENTS bits, a bit set in the same cycle staying set. -/
  | gstatEventsClear (dt : Nat) (mask : BitVec 32) (same : BitVec 4)
  /-- GSTAT_DROPS_READ (R9). An RC read of GSTAT_DROPS returns and clears the drop counts. -/
  | gstatDropsRead (dt : Nat) (same : BitVec 3 := 0)
  /-- GSTAT_UDP_DROPS_READ (R9). An RC read of GSTAT_UDP_DROPS returns and clears the datagram drop count. -/
  | gstatUdpDropsRead (dt : Nat) (same : Bool := false)
  /-- FSUM_CLEAR (R457). A W1C write to FSUM clears sticky bits whose cause is gone and ends their held effects. -/
  | fsumClear (dt : Nat) (k : Fin 16) (mask : BitVec 32) (same : BitVec 32)
  /-- FER_REARM (R462). A write of 1 to FER_REARM re-arms the first-error record and clears its counts. -/
  | ferRearm (dt : Nat) (value : BitVec 32)
  /-- SNAP_TAKE (R52). A write to SNAP_TAKE latches a consistent time snapshot within 4 TCLK and increments SNAP_COUNT. -/
  | snapTake (dt : Nat)
  /-- BAR2_WRITE (R86). A posted write to BAR2 lands in the open job window image, or is dropped and counted. -/
  | bar2Write (dt : Nat) (addr : Nat) (bytes : Bytes)
  /-- BAR0_REGISTER_WRITE (R45). A write to a BAR0 register or slot area that has no behaviour of its own, subject to alignment and state rules. -/
  | bar0RegisterWrite (dt : Nat) (addr : Nat) (bytes : Bytes)
  /-- SESSION_OPEN (R73). Opcode 0x0101 opens a remote session and returns a token. -/
  | sessionOpen (dt : Nat) (who : Sess)
  /-- SESSION_CLOSE (R58). Opcode 0x0102 ends the session once its response is written. -/
  | sessionClose (dt : Nat) (who : Sess)
  /-- SESSION_LEASE (R56). Opcode 0x0103 sets a new lease length that runs from acceptance. -/
  | sessionLease (dt : Nat) (who : Sess)
  /-- SESSION_QUEUE_SETUP (R67). Opcode 0x0104 sets up a local completion queue ring. -/
  | sessionQueueSetup (dt : Nat) (who : Sess)
  /-- SESSION_COMPLETION_ACK (R75). Opcode 0x0105 acknowledges remote completion entries by sequence. -/
  | sessionCompletionAck (dt : Nat) (who : Sess)
  /-- SESSION_NOP (R524). Opcode 0x0107 renews the lease and returns the epoch and remaining lease. -/
  | sessionNop (dt : Nat) (who : Sess)
  /-- REMOTE_COMPLETION_RESEND (R75). Every 100 ms an unacknowledged remote completion entry is resent as an opcode 0x0106 datagram. -/
  | remoteCompletionResend (dt : Nat) (ix : Fin 64)
  /-- LEASE_EXPIRY (R57). A session's lease runs out; the session ends and its slot is held back for one lease length. -/
  | leaseExpiry (dt : Nat) (who : Sess)
  /-- LEASE_HOLDBACK_END (R57). The holdback of an expired slot ends and the slot is offered again. -/
  | leaseHoldbackEnd (dt : Nat) (who : Sess)
  /-- JOB_LOAD (R86). Opcode 0x0201 takes a job image by DMA into a directory entry and answers PENDING. -/
  | jobLoad (dt : Nat) (who : Sess)
  /-- JOB_WINDOW_OPEN (R86). Opcode 0x0202 opens BAR2 to one session for one directory index. -/
  | jobWindowOpen (dt : Nat) (who : Sess)
  /-- JOB_WINDOW_CLOSE (R86). Opcode 0x0203 ends a BAR2 window and, when final, completes the image. -/
  | jobWindowClose (dt : Nat) (who : Sess)
  /-- LOAD_COMPLETE (R87). A whole image has arrived and been checked; bands are stored or compressed and the job becomes LOADED or returns to EMPTY. -/
  | loadComplete (dt : Nat) (who : Sess) (seq : BitVec 32) (chain : List Bytes) (data : Bytes)
  /-- JOB_STAGE (R89). Opcode 0x0204 expands a LOADED job into the stage region and answers PENDING. -/
  | jobStage (dt : Nat) (who : Sess)
  /-- STAGE_COMPLETE (R89). Staging ends; the job becomes STAGED, or returns to LOADED on a failure. -/
  | stageComplete (dt : Nat) (who : Sess) (seq : BitVec 32) (keyOk : Bool) (plain : List (Nat × Option Bytes))
  /-- JOB_UNSTAGE (R84). Opcode 0x0205 returns a STAGED or DONE job to LOADED and frees stage space. -/
  | jobUnstage (dt : Nat) (who : Sess)
  /-- JOB_DELETE (R88). Opcode 0x0206 empties a LOADED entry and frees its library space. -/
  | jobDelete (dt : Nat) (who : Sess)
  /-- JOB_INFO (R83). Opcode 0x0207 returns a directory entry. -/
  | jobInfo (dt : Nat) (who : Sess)
  /-- JOB_EXPORT (R90). Opcode 0x0208 returns the image as delivered by DMA and answers PENDING. -/
  | jobExport (dt : Nat) (who : Sess)
  /-- EXPORT_COMPLETE (R90). The export DMA finishes and its completion entry is posted. -/
  | exportComplete (dt : Nat) (who : Sess) (seq : BitVec 32) (chain : List Bytes)
  /-- HOPPER_SETUP (R91). Opcode 0x0209 sets a HOPPER ring's record size and depth, or frees it. -/
  | hopperSetup (dt : Nat) (who : Sess)
  /-- HOPPER_PUSH (R92). Opcode 0x020A appends whole records to a ring by DMA and answers PENDING. -/
  | hopperPush (dt : Nat) (who : Sess)
  /-- HOPPER_PUSH_COMPLETE (R92). The pushed records are in the ring and the fill is reported. -/
  | hopperPushComplete (dt : Nat) (who : Sess) (seq : BitVec 32) (chain : List Bytes) (data : Bytes)
  /-- HOPPER_STATUS (R106). Opcode 0x020B returns fill, forecast and last binding of a ring. -/
  | hopperStatus (dt : Nat) (who : Sess)
  /-- JOB_DEFECTS (R134). Opcode 0x020C returns and consumes up to 7 defect records. -/
  | jobDefects (dt : Nat) (who : Sess)
  /-- SPLICE_ARM (R96). Opcode 0x0301 arms a STAGED or DONE job with a splice reference and computes its splice line. -/
  | spliceArm (dt : Nat) (who : Sess)
  /-- SPLICE_DISARM (R98). Opcode 0x0302 returns an armed job to STAGED before its commit. -/
  | spliceDisarm (dt : Nat) (who : Sess)
  /-- SPLICE_EVENTS (R105). Opcode 0x0303 reads and consumes splice event records. -/
  | spliceEvents (dt : Nat) (who : Sess)
  /-- SPLICE_STOP (R103). Opcode 0x0304 sets repeat_count so that the printing job ends after its present repeat. -/
  | spliceStop (dt : Nat) (who : Sess)
  /-- PARAM_READ (R541). Opcode 0x0401 returns the accepted values of up to 29 parameters. -/
  | paramRead (dt : Nat) (who : Sess)
  /-- PARAM_WRITE (R544). Opcode 0x0402 checks and writes up to 29 parameters, applied at their take-effect class. -/
  | paramWrite (dt : Nat) (who : Sess) (busy : List (Fin 16)) (dirOk : Bool)
  /-- PARAM_BULK_READ (R546). Opcode 0x0403 returns every defined ID in a range by DMA. -/
  | paramBulkRead (dt : Nat) (who : Sess)
  /-- PARAM_BULK_WRITE (R545). Opcode 0x0404 receives parameter entries by DMA and answers PENDING. -/
  | paramBulkWrite (dt : Nat) (who : Sess)
  /-- PARAM_BULK_RELEASE (R545). All bulk entries have been received and checked; they are released to their owners together. -/
  | paramBulkRelease (dt : Nat) (who : Sess) (seq : BitVec 32) (chain : List Bytes) (data : Bytes) (busy : List (Fin 16)) (dirOk : Bool)
  /-- LEDGER_READ (R552). Opcode 0x0501 returns up to 58 Ledger entries at one line boundary. -/
  | ledgerRead (dt : Nat) (who : Sess)
  /-- LEDGER_WRITE (R550). Opcode 0x0502 writes masked fields of up to 58 Ledger entries at one line boundary. -/
  | ledgerWrite (dt : Nat) (who : Sess)
  /-- LEDGER_LOAD (R550). Opcode 0x0503 receives Ledger entries by DMA and answers PENDING. -/
  | ledgerLoad (dt : Nat) (who : Sess)
  /-- LEDGER_LOAD_APPLIED (R550). Every loaded field has been accepted by its owner; the load takes effect at one line boundary. -/
  | ledgerLoadApplied (dt : Nat) (who : Sess) (seq : BitVec 32) (chain : List Bytes) (data : Bytes)
  /-- LEDGER_DUMP (R552). Opcode 0x0504 returns Ledger entries by DMA as they stand at one line boundary. -/
  | ledgerDump (dt : Nat) (who : Sess)
  /-- LEDGER_CHECK (R553). Opcode 0x0505 computes the CRC-32C of one bar's entries and answers PENDING. -/
  | ledgerCheck (dt : Nat) (who : Sess)
  /-- LOOP_STATUS (R529). Opcode 0x0601 returns each named bar's loop status. -/
  | loopStatus (dt : Nat) (who : Sess)
  /-- LOOP_MODE (R386). Opcode 0x0602 sets mode and check_mode of the named bars. -/
  | loopMode (dt : Nat) (who : Sess)
  /-- LOOP_ZONES_READ (R398). Opcode 0x0603 returns up to 19 zone records. -/
  | loopZonesRead (dt : Nat) (who : Sess)
  /-- LOOP_ZONES_WRITE (R387). Opcode 0x0604 sets zone targets, which ramp from the next line boundary. -/
  | loopZonesWrite (dt : Nat) (who : Sess)
  /-- LOOP_EVENTS (R396). Opcode 0x0605 reads and consumes loop event records. -/
  | loopEvents (dt : Nat) (who : Sess)
  /-- LOOP_MEMORY_READ (R393). Opcode 0x0606 returns a job's colour memory by DMA. -/
  | loopMemoryRead (dt : Nat) (who : Sess)
  /-- LOOP_MEMORY_WRITE (R395). Opcode 0x0607 replaces the colour memory of a job that is neither ARMED nor PRINTING. -/
  | loopMemoryWrite (dt : Nat) (who : Sess)
  /-- HEAD_STATUS (R195). Opcode 0x0701 returns temperature, mute and card state of named slots. -/
  | headStatus (dt : Nat) (who : Sess)
  /-- HEAD_MUTE (R197). Opcode 0x0702 sets the HOST mute source of named slots from the next boundary. -/
  | headMute (dt : Nat) (who : Sess)
  /-- HEAD_UNMUTE (R198). Opcode 0x0703 clears HOST, and TEMP where allowed, of named slots. -/
  | headUnmute (dt : Nat) (who : Sess)
  /-- HEAD_CARD_READ (R292). Opcode 0x0704 returns up to 128 bytes of a held head card. -/
  | headCardRead (dt : Nat) (who : Sess)
  /-- HEAD_CARD_REFRESH (R292). Opcode 0x0705 reads a slot's head card again and answers PENDING. -/
  | headCardRefresh (dt : Nat) (who : Sess)
  /-- LANE_STATUS (R530). Opcode 0x0801 returns state, rate, CAP fields and counters of named lanes. -/
  | laneStatus (dt : Nat) (who : Sess)
  /-- LANE_RETRAIN (R256). Opcode 0x0802 puts a lane into TRAIN. -/
  | laneRetrain (dt : Nat) (who : Sess)
  /-- LANE_TEST_START (R252). Opcode 0x0803 starts a PRBS test on an unused lane or idle spare. -/
  | laneTestStart (dt : Nat) (who : Sess)
  /-- LANE_TEST_READ (R254). Opcode 0x0804 returns test counters, optionally injecting one error first. -/
  | laneTestRead (dt : Nat) (who : Sess) (rx : List Bool)
  /-- LANE_TEST_STOP (R252). Opcode 0x0805 ends the device's generator and checker early. -/
  | laneTestStop (dt : Nat) (who : Sess) (rx : List Bool)
  /-- LANE_SPARE_SWITCH (R248). Opcode 0x0806 moves a primary lane to its READY spare. -/
  | laneSpareSwitch (dt : Nat) (who : Sess)
  /-- LANE_SPARE_RETURN (R251). Opcode 0x0807 returns a primary from its spare at a line at least 16 lines ahead. -/
  | laneSpareReturn (dt : Nat) (who : Sess)
  /-- CAMERA_STATUS (R371). Opcode 0x0901 returns a context's frame state, counters and embedded data. -/
  | cameraStatus (dt : Nat) (who : Sess)
  /-- CAMERA_DEFECT_LOAD (R358). Opcode 0x0902 replaces the defective-pixel table by DMA. -/
  | cameraDefectLoad (dt : Nat) (who : Sess)
  /-- CAMERA_SHADING_LOAD (R360). Opcode 0x0903 loads a context's shading table by DMA. -/
  | cameraShadingLoad (dt : Nat) (who : Sess)
  /-- CAMERA_PREVIEW_START (R369). Opcode 0x0904 starts preview delivery into 2 to 15 host buffers. -/
  | cameraPreviewStart (dt : Nat) (who : Sess) (chain : List Bytes)
  /-- CAMERA_PREVIEW_STOP (R369). Opcode 0x0905 stops a preview after the buffer being written. -/
  | cameraPreviewStop (dt : Nat) (who : Sess)
  /-- CAMERA_CAPTURE (R370). Opcode 0x0906 captures the next undropped frame's CAPTURE stream and answers PENDING. -/
  | cameraCapture (dt : Nat) (who : Sess) (chain : List Bytes)
  /-- CAMERA_CAPTURE_TIMEOUT (R370). No frame completes within the capture timeout; the capture completes TIMEOUT. -/
  | cameraCaptureTimeout (dt : Nat) (who : Sess) (seq : BitVec 32)
  /-- CAMERA_NOZZLE_SETUP (R368). Opcode 0x0907 sets up or frees a context's NOZZLE ring in DDR4. -/
  | cameraNozzleSetup (dt : Nat) (who : Sess)
  /-- MOTION_STATUS (R319). Opcode 0x0A01 returns encoder channels, web and fire position and the velocity model. -/
  | motionStatus (dt : Nat) (who : Sess)
  /-- MOTION_CEILING (R315). Opcode 0x0A02 returns the 40-byte ceiling message. -/
  | motionCeiling (dt : Nat) (who : Sess)
  /-- MOTION_MARKS (R319). Opcode 0x0A03 returns a mark input's state and last four marks. -/
  | motionMarks (dt : Nat) (who : Sess)
  /-- MOTION_CHANNEL_SELECT (R304). Opcode 0x0A04 makes a named OK channel the fire channel with continuity. -/
  | motionChannelSelect (dt : Nat) (who : Sess)
  /-- TIME_STATUS (R532). Opcode 0x0B01 returns servo state, offset and rate and clears the TIME causes. -/
  | timeStatus (dt : Nat) (who : Sess)
  /-- TIME_SET (R326). Opcode 0x0B02 steps Device Time, consuming the step credit. -/
  | timeSet (dt : Nat) (who : Sess) (conv : Readings)
  /-- TIME_STEP_ARM (R326). Opcode 0x0B03 grants one step credit. -/
  | timeStepArm (dt : Nat) (who : Sess)
  /-- TIME_SCHEDULE_ADD (R334). Opcode 0x0B04 writes a schedule entry. -/
  | timeScheduleAdd (dt : Nat) (who : Sess)
  /-- TIME_SCHEDULE_CANCEL (R334). Opcode 0x0B05 frees a schedule entry. -/
  | timeScheduleCancel (dt : Nat) (who : Sess)
  /-- TIME_SCHEDULE_LIST (R532). Opcode 0x0B06 returns up to 7 schedule entries. -/
  | timeScheduleList (dt : Nat) (who : Sess)
  /-- FAULT_STATUS (R469). Opcode 0x0C01 returns sticky words, the first-error record and hit counts. -/
  | faultStatus (dt : Nat) (who : Sess)
  /-- FAULT_CLEAR (R457). Opcode 0x0C02 clears named sticky bits and reports those still set. -/
  | faultClear (dt : Nat) (who : Sess)
  /-- FAULT_REARM (R462). Opcode 0x0C03 re-arms the first-error record. -/
  | faultRearm (dt : Nat) (who : Sess)
  /-- FAULT_REACTION (R456). Opcode 0x0C04 reads or writes the reactions of up to 56 sources. -/
  | faultReaction (dt : Nat) (who : Sess)
  /-- FAULT_INJECT (R469). Opcode 0x0C05 registers one hit of a named source. -/
  | faultInject (dt : Nat) (who : Sess)
  /-- LOG_READ (R533). Opcode 0x0D01 returns up to 7 log entries from RAM or flash. -/
  | logRead (dt : Nat) (who : Sess)
  /-- LOG_STATUS (R498). Opcode 0x0D02 returns the log ring pointers and lost count. -/
  | logStatus (dt : Nat) (who : Sess)
  /-- LOG_NOTE (R498). Opcode 0x0D03 writes a HOST log entry. -/
  | logNote (dt : Nat) (who : Sess)
  /-- UPDATE_BEGIN (R483). Opcode 0x0E01 opens an update of the image not running and erases its sectors. -/
  | updateBegin (dt : Nat) (who : Sess)
  /-- UPDATE_ERASE_DONE (R483). The erase for an update completes and the begin command's entry is posted. -/
  | updateEraseDone (dt : Nat) (who : Sess) (seq : BitVec 32)
  /-- UPDATE_WRITE (R483). Opcode 0x0E02 places image data at an offset. -/
  | updateWrite (dt : Nat) (who : Sess)
  /-- UPDATE_COMMIT (R483). Opcode 0x0E03 reads the image back and verifies it. -/
  | updateCommit (dt : Nat) (who : Sess)
  /-- UPDATE_VERIFY_DONE (R481). Verification of a committed image ends as VERIFIED or DENIED. -/
  | updateVerifyDone (dt : Nat) (who : Sess) (seq : BitVec 32) (sigOk : Bool) (hashOk : Bool)
  /-- UPDATE_ACTIVATE (R483). Opcode 0x0E04 writes the directory with an image preferred in TRIAL with tries 3. -/
  | updateActivate (dt : Nat) (who : Sess) (now : Bool := false)
  /-- UPDATE_CONFIRM (R484). Opcode 0x0E05 confirms the running image and blows rollback fuses. -/
  | updateConfirm (dt : Nat) (who : Sess)
  /-- UPDATE_ABORT (R483). Opcode 0x0E06 abandons an open update, leaving the target image FAILED. -/
  | updateAbort (dt : Nat) (who : Sess)
  /-- UPDATE_STATUS (R534). Opcode 0x0E07 returns the boot directory and image states. -/
  | updateStatus (dt : Nat) (who : Sess)
  /-- SECURE_STATUS (R534). Opcode 0x0F01 returns life cycle, tamper and unlock state. -/
  | secureStatus (dt : Nat) (who : Sess)
  /-- SECURE_CHALLENGE (R487). Opcode 0x0F02 returns a fresh nonce. -/
  | secureChallenge (dt : Nat) (who : Sess)
  /-- SECURE_UNLOCK (R488). Opcode 0x0F03 checks a signed token and grants its scope. -/
  | secureUnlock (dt : Nat) (who : Sess) (sigOk : Bool)
  /-- SECURE_LOCK (R488). Opcode 0x0F04 ends an unlock and clears every SL_SEL. -/
  | secureLock (dt : Nat) (who : Sess)
  /-- SECURE_LIFECYCLE (R486). Opcode 0x0F05 moves the life cycle forward, wiping and blowing a fuse. -/
  | secureLifecycle (dt : Nat) (who : Sess) (cut : Option Bool)
  /-- SECURE_KEY_INSTALL (R494). Opcode 0x0F06 unwraps a KEK and stores it in the key store. -/
  | secureKeyInstall (dt : Nat) (who : Sess) (tagOk : Bool) (kek : Bytes)
  /-- SECURE_TAMPER_CLEAR (R493). Opcode 0x0F07 clears TAMPERED and the tamper record. -/
  | secureTamperClear (dt : Nat) (who : Sess)
  /-- UNLOCK_EXPIRY (R488). An unlock's expiry passes and the opening ends. -/
  | unlockExpiry (dt : Nat)
  /-- DIAG_FIREBOX_STATUS (R228). Opcode 0x1001 returns both FIREBOX states and fail-over counters. -/
  | diagFireboxStatus (dt : Nat) (who : Sess)
  /-- DIAG_FIREBOX_SWITCH (R225). Opcode 0x1002 switches the output selector to an eligible, clean standby. -/
  | diagFireboxSwitch (dt : Nat) (who : Sess)
  /-- DIAG_FIREBOX_LOCKSTEP (R228). Opcode 0x1003 runs an eligible standby in LOCKSTEP for a number of lines. -/
  | diagFireboxLockstep (dt : Nat) (who : Sess)
  /-- DIAG_SENSORS (R535). Opcode 0x1004 returns sensor, monitor or board readings with STALE flags. -/
  | diagSensors (dt : Nat) (who : Sess)
  /-- MEMORY_STATUS (R428). Opcode 0x1101 returns a DDR4 channel's state and counters. -/
  | memoryStatus (dt : Nat) (who : Sess)
  /-- MEMORY_TRAINING_READ (R428). Opcode 0x1102 returns the training results of one channel and rank. -/
  | memoryTrainingRead (dt : Nat) (who : Sess)
  /-- MEMORY_CODEC (R440). Opcode 0x1103 queues a host compression or decompression job. -/
  | memoryCodec (dt : Nat) (who : Sess)
  /-- MEMORY_SCAN (R446). Opcode 0x1104 starts a CRC scan on an engine. -/
  | memoryScan (dt : Nat) (who : Sess)
  /-- CODEC_JOB_COMPLETE (R444). A codec job ends with its output written, NOSHRINK, NO_SPACE or FAULTED. -/
  | codecJobComplete (dt : Nat) (comp : Bool) (chain : List Bytes) (data : Bytes)
  /-- SCAN_COMPLETE (R447). A CRC scan ends with its result or FAULTED. -/
  | scanComplete (dt : Nat) (engine : Fin 4) (upsets : List (Nat × ReadFate)) (intruder : Option (BitVec 8 × BitVec 32))
  /-- DMA_ERROR (R66). A DMA read returns an error or poisoned completion; the command completes FAULTED. -/
  | dmaError (dt : Nat) (who : Sess) (seq : BitVec 32) (addr : BitVec 64)
  /-- DMA_TIMEOUT (R66). A DMA read does not complete within 50 ms; the command completes FAULTED. -/
  | dmaTimeout (dt : Nat) (who : Sess) (seq : BitVec 32) (addr : BitVec 64)
  /-- FLUE_TIMEOUT (R29). A FLUE transaction is not acknowledged within the timeout and completes TIMEOUT. -/
  | flueTimeout (dt : Nat) (master : BitVec 8) (id : BitVec 32) (access : BitVec 4) (who : Option (Sess × BitVec 32)) (waited : Nat := 0)
  /-- LINE_BOUNDARY (R169). The active FIREBOX issues the descriptor of line P; LINE items take effect and the fetch of P is released. -/
  | lineBoundary (dt : Nat) (cmp : DescCompare) (ecc : List (Nat × Bool)) (bad : Bool)
  /-- BANK_LOAD_DONE (R141). A GRATE completes loading a table bank for a new job. -/
  | bankLoadDone (dt : Nat) (bar : Fin 8)
  /-- BANK_RELOAD_DONE (R165). A GRATE completes reloading a bank after a double-bit error. -/
  | bankReloadDone (dt : Nat) (bar : Fin 8)
  /-- DDR_READ (R421). A DDR4 read returns, corrected, re-read or poisoned, to its port. -/
  | ddrRead (dt : Nat) (port : Option (Fin 12)) (ch : Fin 3) (granule : Nat) (fate : ReadFate) (age : Nat) (master : BitVec 8) (who : Option (Sess × BitVec 32)) (win : Option (Fin 160 × Fin 2 × Nat × Nat × Option (Fin 16))) (queued : List DdrReq)
  /-- LINE_PROCESS (R137). GRATE, EMBER and lane packing turn the window lines of a line into drive codes and line frames. -/
  | lineProcess (dt : Nat) (bar : Fin 8) (upsets : List Upset)
  /-- DRAUGHT_DEADLINE_MISS (R33). A stage misses its DRAUGHT deadline; the line goes out as no-fire on the bars the monitor reaches. -/
  | draughtDeadlineMiss (dt : Nat) (mon : Fin 64) (line : Nat) (late : List (Fin 20 × Fin 2))
  /-- DRAUGHT_LINE_CLOSE (R32). A line's monitors complete and its worst ratio places it in a DRAUGHT band. -/
  | draughtLineClose (dt : Nat) (line : Nat) (mons : List MonRec)
  /-- DRAUGHT_RECOVER (R36). After recover_lines good lines the DRAUGHT contribution rises one step. -/
  | draughtRecover (dt : Nat)
  /-- DRAUGHT_WINDOW_END (R35). A DRAUGHT window ends; STOKER raises or lowers VCORE one step. -/
  | draughtWindowEnd (dt : Nat)
  /-- VCORE_READBACK (R34). The PMBus readback after a VCORE step completes and the next window starts. -/
  | vcoreReadback (dt : Nat) (ack : Bool) (mv : Nat)
  /-- SCHEDULED_FIRE_LAUNCH (R190). The launch time of a scheduled line arrives and FIRE blocks leave on the lanes. -/
  | scheduledFireLaunch (dt : Nat) (unsent : List (Fin 160))
  /-- TARGET_FREEZE (R191). The scheduled target is frozen; a line not yet reached falls back to edge fire. -/
  | targetFreeze (dt : Nat)
  /-- HELD_FIRE_RELEASE (R194). A lane's held FIRE block launches with IMMEDIATE once 64 TCLK after its LINE_END have passed. -/
  | heldFireRelease (dt : Nat) (lane : Fin 36) (unsent : List (Fin 160))
  /-- ENCODER_EDGE (R298). A filtered quadrature step moves the count and web position, possibly firing a line in edge mode. -/
  | encoderEdge (dt : Nat) (ch : Fin 4) (a : Bool) (b : Bool) (unsent : List (Fin 160))
  /-- ENC_WIRE (R297). A wire disagreement lasts wire_tclk samples; an A or B fault fails the channel. -/
  | encWire (dt : Nat) (ch : Fin 4) (wire : Fin 3) (held : Nat := 65535)
  /-- INDEX_EDGE (R300). A rising Z edge latches the count and compares one revolution against cpr. -/
  | indexEdge (dt : Nat) (ch : Fin 4)
  /-- MARK_EDGE (R310). A filtered mark edge is captured and accepted or counted as spurious. -/
  | markEdge (dt : Nat) (m : Fin 4) (rising : Bool := true)
  /-- MARK_WINDOW_END (R311). W passes the window of a LOCKED input with no mark and a flywheel mark is inserted. -/
  | markWindowEnd (dt : Nat) (m : Fin 4) (mark : Bool := false)
  /-- VELOCITY_STOP (R307). No edge arrives for stop_ms and the velocity model becomes invalid. -/
  | velocityStop (dt : Nat)
  /-- HOPPER_FORECAST (R107). Every 1 ms DAMPER recomputes the HOPPER ceiling contribution. -/
  | hopperForecast (dt : Nat)
  /-- CEILING_MESSAGE_PERIOD (R315). The ceiling datagram is sent every period_ms. -/
  | ceilingMessagePeriod (dt : Nat)
  /-- CEILING_IGNORED (R317). The measured rate exceeds the ceiling for longer than stop_ms. -/
  | ceilingIgnored (dt : Nat)
  /-- HEARTBEAT_REQUEST (R215). Every 256 TCLK the collector judges both heartbeat lines and decides switches. -/
  | heartbeatRequest (dt : Nat) (aTog : Bool) (bTog : Bool)
  /-- STATE_RECORD_RECEIVE (R207). The standby receives a state record and commits it if whole and good. -/
  | stateRecordReceive (dt : Nat) (good : Bool)
  /-- PRIVATE_LINK_TIMEOUT (R214). A unit receives no good private-link frame for 4,096 TCLK and clears its partner-link flag. -/
  | privateLinkTimeout (dt : Nat) (unit : Bool)
  /-- RESYNC_RETRY (R221). Every resync_retry_lines STOKER retries resynchronisation of a STALE standby. -/
  | resyncRetry (dt : Nat)
  /-- RESYNC_COMPLETE (R222). The standby completes resync_lines matched lockstep lines and passes to COPY. -/
  | resyncComplete (dt : Nat)
  /-- FIREBOX_AUTO_RETURN (R224). A's clean-line count reaches return_lines and control returns to A between two launches. -/
  | fireboxAutoReturn (dt : Nat)
  /-- STATUS_BLOCK (R279). A STATUS block from a concentrator reports a slot's temperature and latched flags. -/
  | statusBlock (dt : Nat) (lane : Fin 36) (block : Bytes)
  /-- HEAD_TEMP_STALE (R195). No temperature report for stale_ms puts the slot in the soft state. -/
  | headTempStale (dt : Nat) (slot : Fin 160)
  /-- LEGACY_TEMP_READ (R290). Every 10 ms STOKER reads a legacy slot's board sensor as its temperature report. -/
  | legacyTempRead (dt : Nat) (slot : Fin 8)
  /-- LANE_DETECT_POLL (R237). Every 1 ms a lane in DETECT tests for far termination and signal. -/
  | laneDetectPoll (dt : Nat) (lane : Fin 36) (term : Bool) (signal : Bool)
  /-- LANE_ABSENT (R237). DETECT exceeds detect_ms. -/
  | laneAbsent (dt : Nat) (lane : Fin 36)
  /-- BIT_LOCK (R238). Clock recovery locks with 1,000,000 error-free PRBS31 bits and the lane enters BIT_LOCK. -/
  | bitLock (dt : Nat) (lane : Fin 36)
  /-- TRAIN_PERIOD_END (R238). The 100 µs of TRAIN end; the lane moves to BLOCK_LOCK or the attempt fails. -/
  | trainPeriodEnd (dt : Nat) (lane : Fin 36) (ok : Bool)
  /-- BLOCK_LOCK (R239). 64 consecutive valid headers give block lock and the lane enters CAP. -/
  | blockLock (dt : Nat) (lane : Fin 36)
  /-- BLOCK_LOCK_TIMEOUT (R237). Block lock is not found within 50 µs and the attempt fails. -/
  | blockLockTimeout (dt : Nat) (lane : Fin 36)
  /-- CAP (R242). A CAP block is received and the exchange advances or fails. -/
  | cap (dt : Nat) (lane : Fin 36) (block : Bytes)
  /-- CAP_ACK (R242). A matching CAP_ACK completes the exchange; the lane goes ACTIVE, SPARE_READY or retrains. -/
  | capAck (dt : Nat) (lane : Fin 36) (block : Bytes)
  /-- CAP_TIMEOUT (R237). A CAP attempt exceeds 100 µs and fails. -/
  | capTimeout (dt : Nat) (lane : Fin 36)
  /-- RETRAIN (R242). A RETRAIN block is received and the lane enters TRAIN at the new rate. -/
  | retrain (dt : Nat) (lane : Fin 36) (block : Bytes)
  /-- LOCK_LOSS (R244). An ACTIVE lane loses block lock, signal or clock recovery and enters RELOCK. -/
  | lockLoss (dt : Nat) (lane : Fin 36)
  /-- RELOCK_TIMEOUT (R245). relock_us expires; the lane enters DOWN and moves to its spare or mutes. -/
  | relockTimeout (dt : Nat) (lane : Fin 36)
  /-- SPARE_SWITCH_TIMEOUT (R248). The spare switch does not deliver frames within 100 µs. -/
  | spareSwitchTimeout (dt : Nat) (spare : Fin 4)
  /-- LANE_RETRY (R237). After retry_ms a DOWN, FAILED or budget-held lane tries again. -/
  | laneRetry (dt : Nat) (lane : Fin 36)
  /-- SPARE_CHECK (R247). Every check_ms a spare selects the next member and sends SPARE_CHECK. -/
  | spareCheck (dt : Nat) (spare : Fin 4)
  /-- SPARE_CHECK_TIMEOUT (R247). A checked member gives no valid CAP within 20 µs. -/
  | spareCheckTimeout (dt : Nat) (spare : Fin 4)
  /-- SPARE_AUTO_RETURN (R251). A served primary has been ACTIVE-capable for return_s and control returns to it. -/
  | spareAutoReturn (dt : Nat) (lane : Fin 36)
  /-- LANE_HDR_ERR (R256). Once per second, header errors exceed hdr_err_limit on an ACTIVE lane. -/
  | laneHdrErr (dt : Nat) (lane : Fin 36) (errs : Nat)
  /-- LANE_TEST_END (R252). A PRBS test's duration ends and both ends enter TRAIN. -/
  | laneTestEnd (dt : Nat) (lane : Fin 36) (rx : List Bool)
  /-- TEST_REPORT (R254). A TEST_REPORT block from the concentrator is stored. -/
  | testReport (dt : Nat) (lane : Fin 36) (block : Bytes)
  /-- LINK_TIME_SEND (R271). At least every 4,096 TCLK a lane sends a LINK_TIME block. -/
  | linkTimeSend (dt : Nat) (lane : Fin 36)
  /-- ECHO_MEASURE (R270). Every echo_ms a LINK_TIME with ECHO is sent to measure the lane delay. -/
  | echoMeasure (dt : Nat) (lane : Fin 36)
  /-- LT_ECHO (R270). An LT_ECHO arrives and the lane delay is recomputed. -/
  | ltEcho (dt : Nat) (lane : Fin 36) (block : Bytes) (frac : Fin 256)
  /-- INFO_DATA (R280). An INFO_DATA block and its data blocks return a head card chunk. -/
  | infoData (dt : Nat) (lane : Fin 36) (block : Bytes) (data : Bytes)
  /-- INFO_TIMEOUT (R281). An INFO_READ meets no answer within info_timeout_us and is repeated. -/
  | infoTimeout (dt : Nat) (lane : Fin 36)
  /-- CSI_FRAME_START (R354). A frame start opens a frame, switches the context bank and matches a trigger record. -/
  | csiFrameStart (dt : Nat) (port : Fin 4) (vc : Fin 16) (busy : List (Fin 16))
  /-- CSI_LONG_PACKET (R351). A long packet delivers one line into its context's FIFO and pipeline. -/
  | csiLongPacket (dt : Nat) (port : Fin 4) (vc : Fin 16) (pkt : CsiPacket) (drained : List (Fin 16 × Nat)) (busy : List (Fin 16))
  /-- CSI_FRAME_END (R351). A frame end closes the frame and its streams are delivered. -/
  | csiFrameEnd (dt : Nat) (port : Fin 4) (vc : Fin 16) (busy : List (Fin 16))
  /-- CSI_PHY_ERR (R346). A D-PHY start-of-transmission or lane synchronisation error. -/
  | csiPhyErr (dt : Nat) (port : Fin 4)
  /-- CAM_NO_FRAME (R353). No frame start arrives within frame_timeout_ms of a trigger pulse. -/
  | camNoFrame (dt : Nat) (ctx : Fin 16)
  /-- LOOP_FRAME_PROCESS (R380). LOUPE processes a MEASURE or NOZZLE frame: zone measurements, updates and nozzle checks. -/
  | loopFrameProcess (dt : Nat) (ctx : Fin 16) (nozzle : Bool)
  /-- ZONE_STALE (R385). A covered zone receives no eligible measurement for stale_lines. -/
  | zoneStale (dt : Nat) (bar : Fin 8) (zone : Fin 400)
  /-- ZONE_RAMP_END (R382). A zone's ramp reaches ramp_lines and RAMPING clears. -/
  | zoneRampEnd (dt : Nat) (bar : Fin 8) (zone : Fin 400)
  /-- PTP_SYNC (R330). A Sync drives the servo to step Device Time or set the rate. -/
  | ptpSync (dt : Nat) (port : Fin 2) (offset : Int) (delay : Nat) (conv : Readings)
  /-- PTP_EVENT_MESSAGE (R332). A PTP event or general message is timestamped and processed by the clock. -/
  | ptpEventMessage (dt : Nat) (port : Fin 2) (tx : Bool) (msg : Bytes) (taken : Nat) (bmca : Bmca) (fast : Bool := false)
  /-- PTP_TIMEOUT (R331). No Sync for timeout_ms; the servo enters HOLDOVER. -/
  | ptpTimeout (dt : Nat)
  /-- SCHEDULE_EXECUTE (R336). A schedule entry's instant arrives: trigger pulse, conversion or JOB_START arm. -/
  | scheduleExecute (dt : Nat) (ix : Fin 64) (conv : Readings)
  /-- TRIGGER_PULSE (R340). A position trigger's pulse starts delay_ns after its line's fire instant. -/
  | triggerPulse (dt : Nat) (o : Fin 8)
  /-- CA_PARITY_ALERT (R417). ALERT_N signals a CA parity error and the channel replays its unconfirmed commands. -/
  | caParityAlert (dt : Nat) (ch : Fin 3) (again : Bool)
  /-- WRITE_CRC_ALERT (R418). ALERT_N signals a write CRC error and the write is issued again. -/
  | writeCrcAlert (dt : Nat) (ch : Fin 3) (again : Bool)
  /-- DDR_REFRESH_DUE (R425). A rank's refresh interval expires and refresh is issued or postponed. -/
  | ddrRefreshDue (dt : Nat) (ch : Fin 3) (rank : Fin 2) (arrive : List DdrReq)
  /-- DDR_TEMP_READ (R424). Every 10 ms STOKER reads the DDR case temperature and sets the refresh interval. -/
  | ddrTempRead (dt : Nat)
  /-- DDR_ZQCS (R403). Every 128 ms the controller issues ZQCS. -/
  | ddrZqcs (dt : Nat)
  /-- DDR_SCRUB (R423). The scrub reads every granule once per scrub_hours. -/
  | ddrScrub (dt : Nat) (upsets : List (Fin 3 × Nat × ReadFate))
  /-- DDR_INIT_DONE (R407). Background zero initialisation of every granule completes and init_done reads 1. -/
  | ddrInitDone (dt : Nat)
  /-- LEDGER_SCRUB (R555). The background scrub reads the next Ledger entry at its slot in scrub_ms. -/
  | ledgerScrub (dt : Nat) (bits : Nat)
  /-- SENSOR_CONVERT (R473). STOKER converts the on-die temperature sensors and voltage monitors. -/
  | sensorConvert (dt : Nat) (tj : List Int) (mv : List Nat)
  /-- BOARD_SENSOR_READ (R475). A board sensor is read over I²C or PMBus every period_ms. -/
  | boardSensorRead (dt : Nat) (ix : Fin 64) (raw : Option SensorWord)
  /-- PMBUS_POLL (R476). Every 100 ms STOKER reads the regulator's current and temperature. -/
  | pmbusPoll (dt : Nat) (reading : Option (Nat × Int))
  /-- PMB_ALERT (R476). PMB_ALERT_N falls; STOKER reads STATUS_WORD and clears the faults. -/
  | pmbAlert (dt : Nat) (status : BitVec 16)
  /-- LOG_FLUSH (R478). STOKER copies RAM log entries to the flash ring within flush_ms. -/
  | logFlush (dt : Nat) (ok : Bool)
  /-- TAMPER_TRIP (R492). A tamper input or the mesh trips; the record is written and secrets are wiped. -/
  | tamperTrip (dt : Nat) (input : Fin 5) (level : Bool := false) (held : Nat := 255)
  /-- FAULT_HIT (R454). The collector registers a source hit, sets its sticky bit and carries out its reaction. -/
  | faultHit (dt : Nat) (src : Fin 512) (addr : BitVec 32) (master : BitVec 8) (access : BitVec 4)
  /-- BLOCK_RESET_COMPLETE (R463). A block's reset completes within its reset time. -/
  | blockResetComplete (dt : Nat) (blk : Nat)
  /-- SHADOW_END (R464). A shadow ends at reset completion plus settle_us; persisting level conditions are hit. -/
  | shadowEnd (dt : Nat) (blk : Nat)
  /-- HOB_WATCHDOG (R77). HOB firmware stops responding and its watchdog expires. -/
  | hobWatchdog (dt : Nat)
  /-- GRATE_WATCHDOG (R166). A GRATE core stops answering its supervisor. -/
  | grateWatchdog (dt : Nat) (b : Fin 8)
  /-- DAMPER_WATCHDOG (R471). DAMPER stops answering its watchdog for 100 µs. -/
  | damperWatchdog (dt : Nat)
  /-- LOUPE_WATCHDOG (R471). A LOUPE stops answering its watchdog. -/
  | loupeWatchdog (dt : Nat) (p : Fin 2)
  /-- DOORBELL (R61). A host write of a token to DOORBELL[i] submits the command in slot i, which is checked in the order of R61 or ignored as busy under R62. -/
  | doorbell (dt : Nat) (ix : Fin 64) (token : BitVec 32) (ecc : Option (Fin 32 × Bool))
  /-- UDP_DATAGRAM (R72). A datagram arrives on UDP port 47630 and is dropped and counted, answered from the stored response, refused for its sequence, or taken as a remote command. -/
  | udpDatagram (dt : Nat) (port : Fin 2) (peer : BitVec 48) (v4 : Bool) (bytes : Bytes)
  /-- LEGACY_LATCH (R287). The shift of 2,560 bits for a line ends and, once STROBE of the previous line has been low 40 ns, LG_LATCH rises for 32 ns. -/
  | legacyLatch (dt : Nat) (line : Nat)
  /-- LEGACY_STROBE (R287). In scheduled fire STROBE rises at the frozen target within ±1 TCLK and falls strobe_tclk later, or stays low under R289. -/
  | legacyStrobe (dt : Nat) (line : Nat)
  /-- TRIGGER_PULSE_END (R339). A TRIG output returns inactive width_ns after its pulse began. -/
  | triggerPulseEnd (dt : Nat) (o : Fin 8)
  /-- SECURE_WIPE_DONE (R439). The wipe of the secure scratchpad completes within 50 µs and reads and writes act normally again. -/
  | secureWipeDone (dt : Nat)
  /-- WIRE_DISAGREEMENT_END (R297). The two wires of an encoder pair stop reading the same single-ended level. -/
  | wireDisagreementEnd (dt : Nat) (ch : Fin 4) (wire : Fin 3)
  /-- PRIVATE_LINK_IDLE_FRAME (R214). A FIREBOX unit receives a good idle frame over the private link, which keeps or restores its partner-link flag at 1. -/
  | privateLinkIdleFrame (dt : Nat) (unit : Bool)
  /-- POWER_RAILS_UP (R501). The rails of groups 2 to 5 rise into their windows, ending BANKED standby and moving the VBAT domain onto VIO33. -/
  | powerRailsUp (dt : Nat)
  /-- TAP_INSTRUCTION (R490). An IEEE 1149.1 instruction shifted in through TCK, TMS and TDI acts, or acts as BYPASS when private and not allowed. -/
  | tapInstruction (dt : Nat) (ir : TapInstr)
  /-- PARAM_BULK_READ_COMPLETE (R546). The entries of a PARAM bulk read have been written to host memory and the completion entry is posted. -/
  | paramBulkReadComplete (dt : Nat) (who : Sess) (seq : BitVec 32) (chain : List Bytes)
  /-- LEDGER_DUMP_COMPLETE (R552). A LEDGER dump has written its entries by DMA and posts its count and CRC-32C. -/
  | ledgerDumpComplete (dt : Nat) (who : Sess) (seq : BitVec 32) (chain : List Bytes)
  /-- LEDGER_CHECK_COMPLETE (R553). A LEDGER check has read the bar's 102,400 entries and posts their CRC-32C and corrected-error count. -/
  | ledgerCheckComplete (dt : Nat) (who : Sess) (seq : BitVec 32) (upsets : List (Nat × Nat))
  /-- LOOP_MEMORY_READ_COMPLETE (R529). A LOOP memory read has written the 12,816-byte colour memory to host memory and posts its completion entry. -/
  | loopMemoryReadComplete (dt : Nat) (who : Sess) (seq : BitVec 32) (chain : List Bytes)
  /-- LOOP_MEMORY_WRITE_COMPLETE (R395). A LOOP memory write has received its 12,816 bytes, checked them and the library space, and replaces the job's memory and sets memory_valid. -/
  | loopMemoryWriteComplete (dt : Nat) (who : Sess) (seq : BitVec 32) (chain : List Bytes) (data : Bytes)
  /-- CAMERA_DEFECT_LOAD_COMPLETE (R358). The 65,536-byte defect table has arrived and is accepted, taking effect at each context's next frame start, or refused with BAD_PARAM. -/
  | cameraDefectLoadComplete (dt : Nat) (who : Sess) (seq : BitVec 32) (chain : List Bytes) (data : Bytes)
  /-- CAMERA_SHADING_LOAD_COMPLETE (R360). A context's 10,890-byte shading table has arrived and is held for the context's next frame start. -/
  | cameraShadingLoadComplete (dt : Nat) (who : Sess) (seq : BitVec 32) (chain : List Bytes) (data : Bytes)
  /-- UPDATE_WRITE_COMPLETE (R483). The DMA data of an UPDATE write has been written to flash and its completion entry gives the bytes written. -/
  | updateWriteComplete (dt : Nat) (who : Sess) (seq : BitVec 32) (chain : List Bytes) (data : Bytes)
deriving DecidableEq, Repr

end Sys2Proof
end

