-- ==== Sys2Proof/Config.lean ====
section
/-!
DEFINITION. What the spec leaves open and the model leaves free: constants without a body, applied to the
number of free values taken so far (`State.free`) or to the operands.
-/
namespace Sys2Proof.Config

/-- Bits [31:6] of a new session token, from FENDER's random generator (R55); the model keeps the limits of R55. Log 11. -/
opaque tokenBits : Nat → BitVec 26

/-- A nonce from FENDER's random generator (R487). Log 11. -/
opaque nonce : Nat → BitVec 128

/-- Length in bytes of the compressor's output for a band (R441, R442). Log 11. -/
opaque deflatedLen : Nat → Nat

/-- The compressor's output bytes (R441): any DEFLATE stream that inflates to the input. Log 11. -/
opaque deflated : Nat → List (BitVec 8)

/-- The code that SPD_DAC_OUT carries for a code under a factory gain and offset (R314, R507), whose units the spec does not give. Log 11. -/
opaque dacTrim : Nat → Int → Nat → Nat

/-- A temperature with the sensor's factory offset applied, from the offset and the sensor's own reading (R473, R507); the spec gives no unit of
the offset. Log 11. -/
opaque tempTrim : Int → Int → Int

/-- A monitor's reading with the factory gain applied, from the gain and the monitor's own reading (R507); the spec gives no unit of the gain.
Log 11. -/
opaque voltTrim : Nat → Nat → Nat

/-- The rate of an offset (R330) from the offset, the one before it and the time between their Syncs; the spec gives no unit. Log 11. -/
opaque offsetRate : Int → Int → Nat → Int

/-- The sum of the offsets in the unit of that rate (R330). Log 11. -/
opaque offsetSum : Int → Int

/-- A value the spec does not state. Log 11. -/
opaque value : Nat → Nat

end Sys2Proof.Config
end

