-- ==== Sys2Proof/Machine/State.lean ====
section
/-!
DEFINITION. The state of the device as plain data, holding all the spec gives it, and the state after reset.
Field docstrings name the chapter and rule of spec/ that gives the field. Defaults are the reset values;
where the spec gives none the log entry is named.
-/
namespace Sys2Proof.Machine

/-- Why the machine stops with a fault. -/
inductive Fault where
  /-- Raised by nothing: every event the spec describes has an effect. Safe. -/
  | none
deriving DecidableEq, Repr

/-- Why a command has no meaning. -/
inductive Refusal where
  /-- A command this model has not given its meaning yet; raised by the dispatch only. Safe. -/
  | notModelled (mnemonic : String)
deriving DecidableEq, Repr

/-- What leaves the device (the model's own record, log 10). -/
inductive Output where
  /-- The value a host read with a side effect returns (R9, R54). -/
  | read (offset : Nat) (value : BitVec 64)
  /-- An MSI-X message (R48). -/
  | msix (vector : Nat)
  /-- Bytes written to host memory by DMA or as a completion entry (R65, R68). -/
  | hostWrite (addr : BitVec 64) (bytes : Bytes)
  /-- A UDP datagram (R72 to R75, R315). -/
  | datagram (port : Nat) (peer : BitVec 48) (bytes : Bytes)
  /-- The answer to a configuration request: true is Retry Status; otherwise the value read, 0 for a write (R42, R43). -/
  | config (retry : Bool) (value : BitVec 64)
  /-- A control block sent on a lane (09). -/
  | block (lane : Nat) (bytes : Bytes)
  /-- The frame of a slot for a line, sent on a lane: its blocks in order, true a control block and false a data block (R261). -/
  | frame (lane slot line : Nat) (blocks : List (Bool × Bytes))
  /-- A FIRE block launched on a lane: the line it fires, its target and its bytes (R273). -/
  | fire (lane line target : Nat) (bytes : Bytes)
  /-- The raw pattern of a PRBS test begins on a lane (R252, R253): its code. -/
  | pattern (lane code : Nat)
  /-- The legacy port: shift data, LG_LATCH and STROBE (R286, R287). -/
  | legacy (line : Nat) (kind : Nat) (bytes : Bytes)
  /-- A TRIG output changes (R339). -/
  | trig (o : Nat) (level : Bool)
  /-- A PTP message leaves, over IEEE 802.3 when `l2`, else over UDP/IPv4 with a UDP checksum of zero (R329, R332). -/
  | ptp (port : Nat) (l2 : Bool) (bytes : Bytes)
  /-- KS_SEL or CLK control of the lane switch (R246). -/
  | ksSel (spare sel : Nat)
  /-- The IDCODE register in the TAP's shift path (R490). -/
  | idcode (value : BitVec 32)
  /-- A PMBus transaction with PEC with the core regulator (R476): its address, the page (255 none), the command code, and for VOUT_COMMAND the
  voltage in mV. -/
  | pmbus (addr page code : Nat) (mv : Option Nat)
  /-- A value driven on an output ball: name code and level (R316, R502). -/
  | ball (name : String) (level : Nat)
deriving DecidableEq, Repr

/-- Time as it passes between commands: every command carries dt, the TCLK periods (1.6 ns) since the one before it. -/
structure Clock where
  /-- 00 R12, 11 R322: nominal time in 1.6 ns periods since State.reset; the timers of the clockless fabric and the VBAT crystal; DESIGN CHOICE 0 (log 2). -/
  real : Nat := 0
  /-- 01 R24, 18 R503: the TCLK PLL is locked; false while PORST_N is low. -/
  run : Bool := false
  /-- 06 R184, 07 R201: TCLK counted since the PLL locked; 0 at the lock (R324). -/
  tclk : Nat := 0
  /-- 11 R322, R324: T32 in 1/(5*10^12) ns, counted from 0 at the first TCLK after the lock. -/
  t32u : Nat := 0
  /-- 11 R322, R324: Device Time in 1/(5*10^12) ns; starts from the VBAT seconds with ns 0. -/
  devu : Nat := 0
  /-- 11 R322, R327, R343: present rate correction; reset 0. -/
  rho : Int := 0
deriving DecidableEq, Repr

/-- The factory trim record of the OTP (R507). -/
structure TrimRec where
  /-- 18 R507: the record's CRC-16 holds. -/
  crcOk : Bool := true
  /-- 18 R507: sensor offsets. -/
  tjOff : List Int := []
  /-- 18 R507: monitor gains. -/
  vGain : List Nat := []
  /-- 18 R507: SerDes termination codes. -/
  term : List Nat := []
  /-- 18 R507: SPD_DAC_OUT gain. -/
  dacGain : Nat := 0
  /-- 18 R507: SPD_DAC_OUT offset. -/
  dacOff : Int := 0
deriving DecidableEq, Repr

/-- One-time programmable fuses. -/
structure Otp where
  /-- 02 R47 (IDENT_SERIAL): unique number, from OTP; DESIGN CHOICE 0 (log 3). -/
  serial : BitVec 64 := 0
  /-- 17 R481: key revocation bits; DESIGN CHOICE 0 (log 3). -/
  revoked : BitVec 4 := 0
  /-- 17 R481: blown rollback fuses; DESIGN CHOICE 0 (log 3). -/
  rollback : Nat := 0
  /-- 17 R481: Izsurov P-256 public keys; DESIGN CHOICE none (log 3). -/
  keys : SMap (List (BitVec 8)) := []
  /-- 17 R485: life cycle 0 BLANK 1 FACTORY 2 FIELD 3 RETURNED 4 RETIRED; BLANK has none blown; DESIGN CHOICE 0 (log 3). -/
  lc : Nat := 0
  /-- 17 R486: the next life-cycle fuse reads partly blown; DESIGN CHOICE false (log 3). -/
  lcPart : Bool := false
  /-- 18 R507: none is wholly unprogrammed; DESIGN CHOICE none (log 3). -/
  trim : Option TrimRec := none
  /-- 02 R42: subsystem vendor ID, 0x1DA7 when unprogrammed. -/
  subven : BitVec 16 := 0x1DA7
  /-- 02 R42: subsystem ID, 0x0000 when unprogrammed. -/
  subsys : BitVec 16 := 0
  /-- 17 R490: manufacturer code of the IDCODE; DESIGN CHOICE 0 (log 3). -/
  mfr : BitVec 11 := 0
deriving DecidableEq, Repr

/-- One copy of the boot directory (R482) with its RESET record (R506). -/
structure BootDir where
  /-- 17 R482: generation. -/
  gen : Nat := 0
  /-- 17 R482: 0 A 1 B. -/
  preferred : Nat := 0
  /-- 17 R482: 0 CONFIRMED 1 TRIAL. -/
  mode : Nat := 0
  /-- 17 R482: boots left in TRIAL. -/
  tries : Nat := 0
  /-- 17 R482: fallback flag. -/
  fallback : Bool := false
  /-- 17 R482: recovery IPv4 address. -/
  ip : BitVec 32 := 0
  /-- 18 R506: accepted values of RESET-class parameters that differ from their defaults. -/
  saved : SMap Nat := []
deriving DecidableEq, Repr

/-- A firmware image area of the flash (R480, R481). -/
structure Image where
  /-- 17 R480, R483: bytes placed by UPDATE write; erased elsewhere. -/
  bytes : SMap (BitVec 8) := []
  /-- 17 R483: length given at UPDATE begin. -/
  len : Nat := 0
  /-- 17 R483, 19 R534: 0 empty 1 verifies 2 does not verify. -/
  verified : Nat := 0
  /-- 17 R482: this image runs. -/
  running : Bool := false
deriving DecidableEq, Repr

/-- One 32-byte event-log entry (R477). -/
structure LogEntry where
  /-- 17 R477: sequence, wraps. -/
  seq : BitVec 32 := 0
  /-- 17 R477: T32. -/
  t32 : BitVec 32 := 0
  /-- 17 R477: Device Time seconds [31:0]. -/
  secs : BitVec 32 := 0
  /-- 17 R477: 1 FAULT 2 KINDLING 3 UPDATE 4 LIFECYCLE 5 TAMPER 6 UNLOCK 7 HOST 8 LOST. -/
  kind : Nat := 0
  /-- 17 R477: initiator ID. -/
  master : Nat := 0
  /-- 17 R477: fault source or 0xFFFF. -/
  source : Nat := 0xFFFF
  /-- 17 R477: address. -/
  addr : BitVec 32 := 0
  /-- 17 R477, 16 R459: hits it stands for. -/
  count : Nat := 0
  /-- 17 R477: epoch. -/
  epoch : BitVec 16 := 0
  /-- 17 R477: kind-specific. -/
  data : BitVec 32 := 0
deriving DecidableEq, Repr

/-- The QSPI flash (R480). -/
structure Flash where
  /-- 17 R480: copy 0 of the boot directory, none = crc bad; DESIGN CHOICE none (log 4). -/
  dir0 : Option BootDir := none
  /-- 17 R480: copy 1; DESIGN CHOICE none (log 4). -/
  dir1 : Option BootDir := none
  /-- 17 R480: image A; DESIGN CHOICE empty (log 4). -/
  imgA : Image := {}
  /-- 17 R480: image B; DESIGN CHOICE empty (log 4). -/
  imgB : Image := {}
  /-- 17 R480, R494: KEKs of the key store; DESIGN CHOICE empty (log 4). -/
  keys : SMap (List (BitVec 8)) := []
  /-- 17 R478, R480: flash log ring, newest first; DESIGN CHOICE empty (log 4). -/
  log : List LogEntry := []
deriving DecidableEq, Repr

/-- The VBAT domain (R513). -/
structure Vbat where
  /-- 18 R513: the domain has kept power; DESIGN CHOICE true (log 5). -/
  valid : Bool := true
  /-- 18 R513: seconds counter; DESIGN CHOICE 0 (log 5). -/
  sec : Nat := 0
  /-- 18 R513: 1.6 ns periods since the last whole second. -/
  sub : Nat := 0
  /-- 18 R513, 17 R485: life-cycle mirror; DESIGN CHOICE 0 (log 5). -/
  lcMirror : Nat := 0
  /-- 17 R492: TAMPERED; DESIGN CHOICE false (log 5). -/
  tampered : Bool := false
  /-- 17 R492: tamper input 0-3, 4 mesh. -/
  tInput : Nat := 0
  /-- 17 R492: VBAT seconds of the trip. -/
  tSec : Nat := 0
  /-- 17 R492: a trip made in BANKED standby waits for KINDLING. -/
  banked : Bool := false
  /-- 18 R515: a trip made during KINDLING waits for stage 7. -/
  tripKind : Bool := false
  /-- 18 R513: tamper configuration (secure.tamper, secure.mesh values that differ from the defaults). -/
  cfg : SMap Nat := []
deriving DecidableEq, Repr

/-- Rails, PORST_N and KINDLING (18). -/
structure Power where
  /-- 18 R501, R514: groups 2-5 within their windows; DESIGN CHOICE true: reset is the state held by PORST_N low (log 1). -/
  rails : Bool := true
  /-- 18 R502: PORST_N high; low at reset (log 1). -/
  porst : Bool := false
  /-- 02 R47, 18 R503: 0 KINDLING 1 READY 2 UPDATING 3 HALTED; reset 0. -/
  kind : Nat := 0
  /-- 02 R47: GSTAT_KINDLING.STAGE; reset 0. -/
  stage : Nat := 0
  /-- 02 R47, 18 R504: GSTAT_KINDLING.ERROR; reset 0x00. -/
  err : Nat := 0
  /-- 18 R503: Clock.real at the rise of PORST_N. -/
  riseAt : Nat := 0
  /-- 18 R508: sensor and monitor trim steps applied. -/
  trimSteps : Nat := 0
  /-- 18 R508: SerDes termination codes applied; none before stage 5. -/
  term : List Nat := []
  /-- 18 R511, R516: 0 APPLYING 1 APPLIED 2 UNTRIMMED. -/
  trimState : Nat := 0
  /-- 18 R516: manage.kindling.stage_ms[3..8]. -/
  stageMs : SMap Nat := []
  /-- 18 R516: manage.kindling.ready_ms; DESIGN CHOICE 0 before READY (log 6). -/
  readyMs : Nat := 0
  /-- 18 R511: VBAT seconds at stage 7. -/
  secs7 : Nat := 0
  /-- 02 R43, 18 R503: configuration requests get Retry Status. -/
  crs : Bool := true
  /-- 17 R482: this KINDLING newly set the fallback flag. -/
  fbNew : Bool := false
  /-- 18 R505: PMBus failed at stage 5; VCORE_PMBUS waits for stage 7. -/
  pmbFail : Bool := false
  /-- 18 R510, R516: link.lane.present of the survey; reset 0. -/
  present : SMap Bool := []
  /-- 02 R47 (GSTAT_TICK): Clock.real at READY. -/
  readyAt : Nat := 0
deriving DecidableEq, Repr

/-- A command as HOB copied it from its slot at acceptance (R60). -/
structure Cmd where
  /-- 02 R59: opcode. -/
  op : Nat := 0
  /-- 02 R59: DONE IRQ DMA. -/
  flags : BitVec 16 := 0
  /-- 02 R59: sequence. -/
  seq : BitVec 32 := 0
  /-- 02 R59: payload, length bytes. -/
  pay : List (BitVec 8) := []
  /-- 02 R70: epoch stamped at acceptance. -/
  epoch : BitVec 16 := 0
  /-- 02 R56: Clock.real of its acceptance. -/
  atT : Nat := 0
deriving DecidableEq, Repr

/-- A session's completion queue (R67 to R69). -/
structure Cq where
  /-- 19 R524: ring address in host memory. -/
  base : BitVec 64 := 0
  /-- 02 R67: entries; a remote queue has 64 (R75). -/
  depth : Nat := 64
  /-- 02 R69: entries reserved by PENDING answers. -/
  reserved : Nat := 0
  /-- 02 R69: posted and not yet consumed. -/
  used : Nat := 0
  /-- 19 R524: index of the next entry the device posts. -/
  tail : Nat := 0
  /-- 02 R68: phase of the present pass, 1 on the first. -/
  phase : Bool := true
deriving DecidableEq, Repr

/-- A local or remote session and its slot (R54 to R58, R73, R74). -/
structure Session where
  /-- 02 R54: slot owned. -/
  isOpen : Bool := false
  /-- 02 R55: present token. -/
  token : BitVec 32 := 0
  /-- 02 R55: last token the slot carried. -/
  last : BitVec 32 := 0
  /-- 02 R56: lease length. -/
  lease : Nat := 0
  /-- 02 R56: Clock.real at which the lease runs out. -/
  ends : Nat := 0
  /-- 02 R57: end of the holdback of an expired slot. -/
  held : Option Nat := none
  /-- 02 R60, R62: command accepted and still in its slot. -/
  cmd : Option Cmd := none
  /-- 02 R67: completion queue. -/
  cq : Option Cq := none
  /-- 02 R47 (CQ_HEAD): CQ_HEAD[i]; reset 0. -/
  head : BitVec 12 := 0
  /-- 02 R74: last accepted sequence (remote). -/
  lastSeq : Option (BitVec 32) := none
  /-- 02 R74: stored response (remote). -/
  stored : List (BitVec 8) := []
  /-- 02 R75: remote entries sent and not acknowledged, with the Clock.real of the last sending. -/
  entries : List (BitVec 32 × List (BitVec 8) × Nat) := []
  /-- 02 R73: address and port replies go to. -/
  peer : BitVec 48 := 0
  /-- 02 R72: Ethernet port. -/
  port : Nat := 0
deriving DecidableEq, Repr

/-- A command that answered PENDING and has not completed (R67, R70). -/
structure Pend where
  /-- 02 R67: session. -/
  who : Sess := .loc 0
  /-- 02 R60: the accepted command. -/
  cmd : Cmd := {}
  /-- 02 R68: object of its entry. -/
  obj : BitVec 32 := 0
  /-- 02 R70: it has applied its effect. -/
  applied : Bool := false
  /-- 03 R90: what the command took at its acceptance (an export's image). -/
  data : List (BitVec 8) := []
deriving DecidableEq, Repr

/-- The open BAR2 job window (R86). -/
structure Bar2Win where
  /-- 03 R86: session that holds BAR2. -/
  who : Sess := .loc 0
  /-- 03 R86: directory index. -/
  index : Nat := 0
  /-- 03 R86: image byte offset of the window. -/
  off : Nat := 0
  /-- 03 R86: bytes of the image delivered so far. -/
  bytes : SMap (BitVec 8) := []
  /-- 03 R86, 19 R525: the window is open (false between successive windows). -/
  isOpen : Bool := false
deriving DecidableEq, Repr

/-- The configuration space of the PCI Express function, but for its constants (R42). -/
structure PcieCfg where
  /-- 02 R42: base of BAR0 (4 MB); PCI Express: 0 until assigned; PRESUMED 0 (log 7). -/
  bar0 : BitVec 64 := 0
  /-- 02 R42: base of BAR2 (256 MB); PRESUMED 0 (log 7). -/
  bar2 : BitVec 64 := 0
  /-- 02 R42: max payload size; PCI Express default; PRESUMED 128 (log 7). -/
  payload : Nat := 128
  /-- 02 R42: max read request size; PCI Express default; PRESUMED 512 (log 7). -/
  readReq : Nat := 512
  /-- 02 R42: the function is in D3hot; PCI Express resets it to D0; PRESUMED false (log 7). -/
  d3 : Bool := false
  /-- 02 R42: MSI-X function mask; PRESUMED false (log 7). -/
  msixMask : Bool := false
  /-- 02 R42: AER uncorrectable error status; PRESUMED 0 (log 7). -/
  aer : BitVec 32 := 0
deriving DecidableEq, Repr

/-- The host window (02). -/
structure Hostif where
  /-- 02 R42: configuration space. -/
  cfg : PcieCfg := {}
  /-- 02 R70: GSTAT.EPOCH, wraps; reset 0x0000. -/
  epoch : BitVec 16 := 0
  /-- 02 R47: GSTAT_EPOCH_CAUSE.KIND; reset 0. -/
  ecKind : Nat := 0
  /-- 02 R47: GSTAT_EPOCH_CAUSE.SOURCE; reset 0. -/
  ecSource : Nat := 0
  /-- 02 R47: GSTAT_EPOCH_CAUSE.EPOCH; reset 0. -/
  ecEpoch : BitVec 16 := 0
  /-- 16 R468: Clock.real of the last epoch change. -/
  epochAt : Option Nat := none
  /-- 02 R47, R49: GSTAT_EVENTS; reset 0. -/
  events : BitVec 4 := 0
  /-- 02 R47: GSTAT_DROPS.BAR2; reset 0. -/
  dropBar2 : Nat := 0
  /-- 02 R47: GSTAT_DROPS.DOORBELL_BUSY; reset 0. -/
  dropBusy : Nat := 0
  /-- 02 R47: GSTAT_DROPS.BAD_TOKEN; reset 0. -/
  dropTok : Nat := 0
  /-- 02 R47: GSTAT_UDP_DROPS; reset 0. -/
  dropUdp : Nat := 0
  /-- 02 R44: a function level reset is in progress. -/
  flr : Bool := false
  /-- 02 R42, R44: MSI-X enable (PCI Express default 0); PRESUMED 0 (log 7). -/
  msixOn : Bool := false
  /-- 02 R47: MSI-X table bytes; PCI Express: every vector masked; PRESUMED (log 7). -/
  msix : SMap (BitVec 8) := []
  /-- 02 R47: MSI-X pending bits. -/
  pba : List Nat := []
  /-- 02 R54: local sessions; reset none owned. -/
  loc : SMap Session := []
  /-- 02 R73: remote sessions; reset none. -/
  rem : SMap Session := []
  /-- 02 R69, R70: commands that answered PENDING, oldest first. -/
  pends : List Pend := []
  /-- 03 R86: the open job window. -/
  bar2 : Option Bar2Win := none
  /-- 02 R52: SNAP_COUNT, wraps; reset 0. -/
  snapCount : BitVec 32 := 0
  /-- 02 R52: SNAP_SEC; reset 0. -/
  snapSec : BitVec 48 := 0
  /-- 02 R52: SNAP_NS; reset 0. -/
  snapNs : BitVec 32 := 0
  /-- 02 R52: SNAP_T32; reset 0. -/
  snapT32 : BitVec 32 := 0
  /-- 02 R53, 17 R489: SL_SEL[k]; reset 0x0000. -/
  slSel : SMap (BitVec 16) := []
deriving DecidableEq, Repr

/-- The parameters a write can set (20). -/
structure Params where
  /-- 20 R541: accepted values that differ from the default, by ID. -/
  acc : SMap Nat := []
  /-- 20 R540: LINE values in force that differ from the default. -/
  line : SMap Nat := []
  /-- 01 R28, 20 R540: (line, ID, value) waiting for a line boundary. -/
  pendLine : List (Nat × Nat × Nat) := []
  /-- 12 R349: FRAME values in force (active banks). -/
  frame : SMap Nat := []
  /-- 18 R506, 20 R540: RESET values in force, from the RESET record. -/
  reset : SMap Nat := []
deriving DecidableEq, Repr

/-- One section-table entry (R79). -/
structure Section where
  /-- 03 R79: section type. -/
  ty : Nat := 0
  /-- 03 R79: plane or 0xFF. -/
  plane : Nat := 0
  /-- 03 R79: band number. -/
  index : Nat := 0
  /-- 03 R79: byte offset. -/
  off : Nat := 0
  /-- 03 R79: length. -/
  len : Nat := 0
  /-- 03 R79: CRC-32C as delivered. -/
  crc : BitVec 32 := 0
deriving DecidableEq, Repr

/-- One directory entry (R83) and what the device holds of its job. -/
structure Job where
  /-- 03 R83, R84: 0 EMPTY 1 LOADING 2 LOADED 3 STAGING 4 STAGED 5 ARMED 6 PRINTING 7 DONE; EMPTY at READY (R512). -/
  state : Nat := 0
  /-- 03 R83: job_id. -/
  jobId : BitVec 32 := 0
  /-- 03 R83: planes. -/
  planes : Nat := 0
  /-- 03 R83: header flags. -/
  flags : BitVec 16 := 0
  /-- 03 R83: repeat_lines. -/
  repLines : Nat := 0
  /-- 03 R83: repeat_count. -/
  repCount : Nat := 0
  /-- 03 R83: stored_bytes. -/
  stored : Nat := 0
  /-- 03 R83: image_bytes. -/
  imgBytes : Nat := 0
  /-- 03 R83: noshrink_bands. -/
  noshrink : Nat := 0
  /-- 03 R83: repeats_printed. -/
  printed : Nat := 0
  /-- 03 R83: bars_on. -/
  barsOn : BitVec 8 := 0
  /-- 03 R83: memory_valid. -/
  memValid : Bool := false
  /-- 03 R83: image_crc. -/
  imgCrc : BitVec 32 := 0
  /-- 03 R78: 0 1,200 1 900 2 600 lpi. -/
  pitch : Nat := 0
  /-- 03 R78: band_lines. -/
  bandLines : Nat := 0
  /-- 03 R78: plane width. -/
  width : Nat := 0
  /-- 03 R78: plane_map. -/
  planeMap : List Nat := []
  /-- 03 R79: section table. -/
  secs : List Section := []
  /-- 03 R90: image as delivered. -/
  image : List (BitVec 8) := []
  /-- 03 R89: expanded bands by 65,536 plane + band. -/
  staged : SMap (List (BitVec 8)) := []
  /-- 03 R89: stage region the job takes. -/
  stageBytes : Nat := 0
  /-- 13 R393: colour memory. -/
  memory : List (BitVec 8) := []
deriving DecidableEq, Repr

/-- A pushed HOPPER record (R92). -/
structure HopRec where
  /-- 03 R92: tag. -/
  tag : BitVec 32 := 0
  /-- 03 R92: payload length. -/
  len : Nat := 0
  /-- 03 R92: payload crc. -/
  crc : BitVec 32 := 0
  /-- 03 R92: record bytes after the header. -/
  pay : List (BitVec 8) := []
deriving DecidableEq, Repr

/-- A record bound to a repeat and not yet released (R94, R95). -/
structure Bound where
  /-- 03 R94: directory index. -/
  job : Nat := 0
  /-- 03 R94: splice line of the run. -/
  lam : Nat := 0
  /-- 03 R94: repeat index. -/
  rep : Nat := 0
  /-- 03 R95: the bound record. -/
  saved : HopRec := {}
deriving DecidableEq, Repr

/-- One HOPPER ring (R91). -/
structure Ring where
  /-- 03 R91: record_bytes, 0 = not set up; no ring set up at READY (R512). -/
  recBytes : Nat := 0
  /-- 03 R91: depth. -/
  depth : Nat := 0
  /-- 03 R92: pushed and not yet bound, oldest first. -/
  recs : List HopRec := []
  /-- 03 R95: bound and not yet released. -/
  bound : List Bound := []
  /-- 03 R108: time to empty is below low_ms. -/
  lowHeld : Bool := false
deriving DecidableEq, Repr

/-- The most recent binding (R105, R525 HOPPER status). -/
structure Binding where
  /-- 19 R525: directory index. -/
  job : Nat := 0
  /-- 19 R525: repeat. -/
  rep : Nat := 0
  /-- 19 R525: rings bound. -/
  mask : Nat := 0
  /-- 19 R525: tags. -/
  tags : SMap (BitVec 32) := []
deriving DecidableEq, Repr

/-- Jobs, library and HOPPER (03). -/
structure Library where
  /-- 03 R83: directory; every entry EMPTY. -/
  dir : SMap Job := []
  /-- 03 R91: HOPPER rings. -/
  rings : SMap Ring := []
  /-- 19 R525: last binding. -/
  binding : Binding := {}
  /-- 03 R94: (splice line, repeat) starved. -/
  starved : List (Nat × Nat) := []
  /-- 03 R112: library_mb_now; DESIGN CHOICE 0 before KINDLING sizes it (log 6). -/
  libMb : Nat := 0
  /-- 03 R112: stage_mb_now; DESIGN CHOICE 0 (log 6). -/
  stgMb : Nat := 0
deriving DecidableEq, Repr

/-- One splice event record (R105). -/
structure SpliceEvent where
  /-- 03 R105: 1 to 10. -/
  kind : Nat := 0
  /-- 03 R105: bar or 0xFF. -/
  bar : Nat := 0xFF
  /-- 03 R105: directory index. -/
  index : Nat := 0
  /-- 03 R105: fire position. -/
  line : BitVec 32 := 0
  /-- 03 R105: repeat index or tag. -/
  rep : BitVec 32 := 0
  /-- 03 R105: T32. -/
  t32 : BitVec 32 := 0
deriving DecidableEq, Repr

/-- An armed splice before its commit (R96). -/
structure Armed where
  /-- 19 R526: splice entry. -/
  entry : Nat := 0
  /-- 03 R96: directory index. -/
  job : Nat := 0
  /-- 03 R96: splice line, none until a MARK reference is computed. -/
  lam : Option Nat := none
  /-- 03 R96: LINE MARK REPEAT. -/
  ref : Nat := 0
  /-- 03 R96: mark input. -/
  input : Nat := 0
  /-- 03 R96: marks still to come. -/
  left : Nat := 0
  /-- 03 R96: offset. -/
  off : Int := 0
deriving DecidableEq, Repr

/-- A committed splice: a job from its splice line on (R98, R99). -/
structure Run where
  /-- 07 R206: splice entry. -/
  entry : Nat := 0
  /-- 03 R98: directory index. -/
  job : Nat := 0
  /-- 03 R96: splice line. -/
  lam : Nat := 0
  /-- 10 R312: mark input of a MARK reference. -/
  mark : Option Nat := none
  /-- 04 R129, 05 R160: SPLICE-class values fixed at the commit. -/
  geo : SMap Nat := []
  /-- 04 R117: pitch of the job. -/
  pitch : Nat := 1200
  /-- 03 R94: next repeat to bind or starve. -/
  nextRep : Nat := 0
  /-- 07 R206: bars that have begun their switch. -/
  begun : BitVec 8 := 0
  /-- 07 R206: bars that have completed it. -/
  done : BitVec 8 := 0
  /-- 03 R102: the job has entered PRINTING in this run. -/
  printing : Bool := false
  /-- 03 R103: the splice line or run-out at which the datum leaves the job. -/
  ended : Option Nat := none
  /-- 03 R103: it reached its own end. -/
  ranOut : Bool := false
  /-- 13 R395: bars whose loop state has been copied. -/
  left : BitVec 8 := 0
  /-- 03 R102: no bar prints it any longer. -/
  finished : Bool := false
  /-- 04 R120: line at which it was finished; lines in flight before it still read it. -/
  gone : Nat := 0
deriving DecidableEq, Repr

/-- The splice state of the FIRE domain (03). -/
structure Splice where
  /-- 03 R97: armed, not committed, oldest first. -/
  armed : List Armed := []
  /-- 03 R99, R120: committed, newest first. -/
  runs : List Run := []
  /-- 03 R105: event ring, oldest first. -/
  events : List SpliceEvent := []
  /-- 03 R105, R527: overflow count. -/
  lost : Nat := 0
  /-- 03 R100: min_gap_lines as last computed; at reset that of the default geometry. -/
  minGap : Nat := 240
deriving DecidableEq, Repr

/-- One EASEL window line with its tag (R124). -/
structure WinLine where
  /-- 04 R123: fire position of the pointer's line. -/
  line : Nat := 0
  /-- 04 R124: directory index, none on a blank line. -/
  tag : Option Nat := none
  /-- 04 R120: splice line of the job. -/
  lam : Nat := 0
  /-- 04 R124: repeat index. -/
  rep : Nat := 0
  /-- 04 R120: job line at delay 0. -/
  k : Nat := 0
  /-- 04 R122, R130: plane position of the window's first position. -/
  base : Int := 0
  /-- 04 R582: pixels in window order. -/
  pix : List Nat := []
  /-- 04 R132, R133: positions poisoned. -/
  bad : List Nat := []
deriving DecidableEq, Repr

/-- One defect record (R134). -/
structure Defect where
  /-- 04 R134: 1 to 5. -/
  kind : Nat := 0
  /-- 04 R134: bar. -/
  bar : Nat := 0
  /-- 04 R134: slot or 0xFF. -/
  slot : Nat := 0xFF
  /-- 04 R134: row group or 0xFF. -/
  rg : Nat := 0xFF
  /-- 04 R134: directory index. -/
  index : Nat := 0xFFFF
  /-- 04 R134: pixels. -/
  pixels : Nat := 0
  /-- 04 R134: repeat. -/
  rep : Nat := 0
  /-- 04 R134: plane line. -/
  pl : Nat := 0
  /-- 04 R134: first pixel. -/
  pixel : Nat := 0
  /-- 04 R134: fire position. -/
  line : Nat := 0
  /-- 04 R134: lines affected. -/
  count : Nat := 0
  /-- 04 R134: T32. -/
  t32 : BitVec 32 := 0
deriving DecidableEq, Repr

/-- Fetch and EASEL (04). -/
structure Raster where
  /-- 04 R121: window of pointer 2(20b+s)+g, newest first; every line blank (R124). -/
  win : SMap (List WinLine) := []
  /-- 04 R134: defect ring, oldest first. -/
  defects : List Defect := []
  /-- 04 R134: records overwritten since the previous call. -/
  lost : Nat := 0
  /-- 04 R134: DEFECT_OVERFLOW recorded in this call interval. -/
  ovf : Bool := false
  /-- 01 R33: (line, bar) late. -/
  late : List (Nat × Nat) := []
  /-- 01 R33: lines late on every bar. -/
  lateAll : List Nat := []
  /-- 13 R380: every defect record posted, which the colour loop consults. -/
  posted : List Defect := []
deriving DecidableEq, Repr

/-- One table bank of a GRATE (R141). -/
structure Bank where
  /-- 05 R141: directory index; reset 0xFFFF. -/
  tag : Nat := 0xFFFF
  /-- 05 R141: the load has completed. -/
  loaded : Bool := false
  /-- 05 R141: tone curve. -/
  tone : List Nat := []
  /-- 05 R141: matrix cells as section bytes. -/
  cells : List (BitVec 8) := []
  /-- 05 R165: damaged tone words. -/
  badTone : List Nat := []
  /-- 05 R165: damaged matrix cells. -/
  badCell : List Nat := []
deriving DecidableEq, Repr

/-- One row chain (R151). -/
structure Chain where
  /-- 05 R151: error in quarters; 0 at KINDLING. -/
  e : Nat := 0
  /-- 05 R152: tag of the last nozzle that took part. -/
  tag : Option Nat := none
deriving DecidableEq, Repr

/-- One GRATE (05). -/
structure Grate where
  /-- 05 R141: bank 0. -/
  bank0 : Bank := {}
  /-- 05 R141: bank 1. -/
  bank1 : Bank := {}
  /-- 03 R98, 05 R166: jobs whose tables wait for a free bank or for the core, oldest first. -/
  want : List Nat := []
  /-- 05 R151: row chains. -/
  chains : SMap Chain := []
  /-- 05 R148: uncovered nozzles of the latest line. -/
  uncov : Nat := 0
  /-- 05 R165: table_ecc_corr; reset 0. -/
  corr : Nat := 0
  /-- 05 R148: uncovered nozzles stood above zero in the latest line. -/
  above : Bool := false
  /-- 05 R166: the core has stopped answering. -/
  stopped : Bool := false
  /-- 03 R100: SPLICE_BANK_LATE in progress. -/
  bankLate : Bool := false
  /-- 09 R262: packed drive codes of the slots of the latest processed line. -/
  codes : SMap (List Nat) := []
  /-- 09 R261: its line. -/
  codeLine : Nat := 0
  /-- 09 R246: lines packed and not fired, with the codes of the slots whose frames no lane carried. -/
  staged : List (Nat × SMap (List Nat)) := []
deriving DecidableEq, Repr

/-- EMBER state of one nozzle (R174). -/
structure Nozzle where
  /-- 06 R174: last drop size. -/
  h1 : Nat := 0
  /-- 06 R174: one line earlier. -/
  h2 : Nat := 0
  /-- 06 R174: two lines earlier. -/
  h3 : Nat := 0
  /-- 06 R174, R176: idle counter; 15 at KINDLING. -/
  c : Nat := 15
deriving DecidableEq, Repr

/-- EMBER (06). -/
structure Ember where
  /-- 06 R174: state by Ledger index; cold elsewhere. -/
  noz : SMap Nozzle := []
  /-- 06 R199: ecc_corr per bar. -/
  corr : SMap Nat := []
  /-- 06 R183: (class key 16b+k, line of damage) waiting for the rewrite. -/
  badTab : List (Nat × Nat) := []
deriving DecidableEq, Repr

/-- A bar's part of a descriptor (R184). -/
structure BarDesc where
  /-- 06 R184: index_a. -/
  ia : Nat := 0xFFFF
  /-- 06 R184: index_b. -/
  ib : Nat := 0xFFFF
  /-- 06 R184: base_a. -/
  ba : BitVec 32 := 0
  /-- 06 R184: base_b. -/
  bb : BitVec 32 := 0
deriving DecidableEq, Repr

/-- A line descriptor issued and not yet retired (R184). -/
structure Desc where
  /-- 06 R184: fire position P. -/
  line : Nat := 0
  /-- 06 R184: mode bit 0. -/
  edge : Bool := true
  /-- 06 R185: mode bit 1. -/
  noFire : Bool := false
  /-- 06 R184: mode bit 2 LOCKSTEP. -/
  lock : Bool := false
  /-- 06 R184: mode bit 3. -/
  unit : Nat := 0
  /-- 06 R184: splice [1:0]. -/
  splices : Nat := 0
  /-- 06 R184: splice bit 2. -/
  commit : Bool := false
  /-- 06 R184: fire target in link time. -/
  target : Nat := 0
  /-- 06 R184: target_t32. -/
  t32 : BitVec 32 := 0
  /-- 06 R184: bars. -/
  bars : List BarDesc := []
  /-- 06 R185: muted slots 20b+s. -/
  mute : List Nat := []
  /-- 06 R184: next_splice. -/
  nextLam : Nat := 0
  /-- 06 R184: next_index. -/
  nextIdx : Nat := 0xFFFF
  /-- 06 R186: its crc failed at a consumer. -/
  bad : Bool := false
  /-- 06 R190: target frozen. -/
  frozen : Bool := false
  /-- 06 R191: fires on its edge after all. -/
  fallback : Bool := false
  /-- 06 R193: an edge line postponed to its target. -/
  held : Bool := false
  /-- 09 R273: link time of the edge of a postponed line. -/
  edgeAt : Nat := 0
  /-- 09 R274: slots of negative phase whose FIRE block has left. -/
  sent : List Nat := []
deriving DecidableEq, Repr

/-- Head temperature and mutes of a slot (R195, R197). -/
structure SlotHead where
  /-- 06 R195: latest temperature; none before the first report. -/
  temp : Option Int := none
  /-- 19 R530: T32 of the report. -/
  tempT : BitVec 32 := 0
  /-- 06 R195: Clock.real of the report or of the slot's enabling. -/
  tempAt : Nat := 0
  /-- 06 R195: soft state. -/
  soft : Bool := false
  /-- 06 R195: a report has reached temp_soft and none has come below temp_soft - temp_hyst since. -/
  hot : Bool := false
  /-- 06 R195: condition of HEAD_TEMP_HARD. -/
  hard : Bool := false
  /-- 06 R195: condition of HEAD_TEMP_STALE. -/
  stale : Bool := false
  /-- 06 R197: TEMP mute. -/
  mTemp : Bool := false
  /-- 06 R197: HOST mute. -/
  mHost : Bool := false
deriving DecidableEq, Repr

/-- What GRATE and EMBER read for a line: the items as they stand at its boundary (R138). -/
structure LineView where
  /-- 06 R184: the descriptor. -/
  desc : Desc := {}
  /-- 05 R138, 06 R183: LINE parameters in force. -/
  par : SMap Nat := []
  /-- 05 R138: Ledger entries. -/
  led : SMap (BitVec 32) := []
  /-- 05 R143: effective zone offsets that are not 0, by 400b + z. -/
  zones : SMap Int := []
  /-- 06 R183, R195: slots in the soft state. -/
  soft : List Nat := []
  /-- 05 R145, R164: GRATEs in reset. -/
  resets : List Nat := []
deriving DecidableEq, Repr

/-- A FIRE block to be launched after its line (R274). -/
structure Later where
  /-- 09 R274: line. -/
  line : Nat := 0
  /-- 09 R274: lane. -/
  lane : Nat := 0
  /-- 09 R274: the group's own target. -/
  target : Nat := 0
  /-- 09 R274: slots of the group. -/
  slots : List Nat := []
deriving DecidableEq, Repr

/-- The fire schedule (06). -/
structure Fire where
  /-- 06 R187: issued and not yet fired, oldest first. -/
  descs : List Desc := []
  /-- 06 R169, R188; 10 R302: next line to issue: from position 0 the edges bring the position to 1 first. -/
  next : Nat := 1
  /-- 05 R138: the views of the lines issued last, by line. -/
  views : SMap LineView := []
  /-- 06 R171, 13 R380: (line, mask of bars) of lines that went out as no-fire. -/
  noFired : List (Nat × Nat) := []
  /-- 13 R380: (line, slot) muted in a line's descriptor. -/
  muted : List (Nat × Nat) := []
  /-- 06 R169: link time of the edge that last moved the fire position. -/
  crossAt : Option Nat := none
  /-- 09 R287: line whose STROBE is due and when. -/
  strobeDue : Option (Nat × Nat) := none
  /-- 07 R206: last line fired. -/
  lastFired : Option Nat := none
  /-- 07 R206: link time of that fire. -/
  lastLink : Nat := 0
  /-- 06 R169: the same instant as a count of TCLK periods. -/
  lastTclk : Nat := 0
  /-- 09 R274: groups of positive phase whose FIRE block is still to leave. -/
  later : List Later := []
  /-- 06 R169, 07 R206: last measured line period. -/
  period : Option Nat := none
  /-- 06 R192: AUTO mode currently SCHEDULED. -/
  sched : Bool := false
  /-- 06 R199: fire.mode_now; reset 1. -/
  modeNow : Nat := 1
  /-- 06 R199: fire.sched.fallbacks; reset 0. -/
  fallbacks : Nat := 0
  /-- 01 R24: TCLK_UNLOCK in force. -/
  unlock : Bool := false
  /-- 06 R195: slots. -/
  heads : SMap SlotHead := []
  /-- 06 R194: (lane, line, link time of the edge) of held FIRE blocks. -/
  heldL : List (Nat × Nat × Nat) := []
  /-- 09 R287: lines whose codes are ready for the legacy shift and not latched, with the time they came. -/
  shift : List (Nat × Nat) := []
  /-- 09 R287: line latched on the legacy port. -/
  latched : Option Nat := none
  /-- 09 R287: end of LG_LATCH. -/
  latchEnd : Nat := 0
  /-- 09 R287: end of STROBE. -/
  strobeEnd : Nat := 0
  /-- 09 R287: STROBE level. -/
  strobe : Bool := false
deriving DecidableEq, Repr

/-- A state record of the private link (R206). -/
structure FbRec where
  /-- 07 R206: line. -/
  line : Nat := 0
  /-- 07 R206: generation. -/
  gen : BitVec 16 := 0
  /-- 07 R206: descriptor. -/
  desc : Desc := {}
  /-- 07 R206: splices armed. -/
  armed : List Armed := []
  /-- 07 R206: splices committed or switching. -/
  runs : List Run := []
  /-- 07 R206: HOLD_FIRE, TCLK_UNLOCK, SCHEDULED. -/
  flags : Nat := 0
  /-- 07 R206: mute_temp. -/
  mTemp : List Nat := []
  /-- 07 R206: mute_fault. -/
  mFault : List Nat := []
  /-- 07 R206: mute_host. -/
  mHost : List Nat := []
  /-- 07 R206: soft. -/
  soft : List Nat := []
  /-- 07 R206: run_out. -/
  runOut : Nat := 0
  /-- 07 R206: last_fired. -/
  lastFired : Nat := 0
  /-- 07 R206: last_fired_link. -/
  lastLink : Nat := 0
  /-- 07 R206: edge_period. -/
  period : Nat := 0
  /-- 07 R208: its descriptor passed the comparison (not part of the record sent). -/
  passed : Bool := false
deriving DecidableEq, Repr

/-- The FIREBOX pair (07). -/
structure FireBox where
  /-- 07 R204, R229: state of A; reset 0. -/
  stA : Nat := 0
  /-- 07 R204, R229: state of B; reset 2. -/
  stB : Nat := 2
  /-- 07 R201: output selector, 0 A 1 B; reset 0. -/
  active : Nat := 0
  /-- 07 R213: unanswered requests of A; 100 once its heartbeat is declared lost. -/
  missA : Nat := 0
  /-- 07 R213: unanswered requests of B; 100 once its heartbeat is declared lost. -/
  missB : Nat := 0
  /-- 07 R214: partner-link flag of A; DESIGN CHOICE true (log 8). -/
  linkA : Bool := true
  /-- 07 R214: partner-link flag of B; DESIGN CHOICE true (log 8). -/
  linkB : Bool := true
  /-- 07 R213: Clock.tclk of the last heartbeat request. -/
  hbAt : Nat := 0
  /-- 07 R214: Clock.tclk of the last good frame A received. -/
  linkTA : Nat := 0
  /-- 07 R214: Clock.tclk of the last good frame B received. -/
  linkTB : Nat := 0
  /-- 07 R215: row of the table of R215 decided last. -/
  row : Nat := 0
  /-- 07 R222: the full state record of a SYNCING standby has not yet been loaded. -/
  load : Bool := false
  /-- 07 R221: the private link has failed. -/
  linkBad : Bool := false
  /-- 07 R206: generation of the next record. -/
  gen : BitVec 16 := 0
  /-- 07 R206: record on its way to the standby. -/
  sent : Option FbRec := none
  /-- 07 R207: standby's newest committed record. -/
  saved : Option FbRec := none
  /-- 07 R207: the record before it. -/
  prev : Option FbRec := none
  /-- 07 R207: asked once for a resend. -/
  asked : Bool := false
  /-- 07 R208: checkpoints of A, newest first. -/
  ckA : List FbRec := []
  /-- 07 R208: checkpoints of B. -/
  ckB : List FbRec := []
  /-- 07 R205: lines of LOCKSTEP left; 65,536 after KINDLING. -/
  lockLeft : Nat := 65536
  /-- 07 R222: matched lines a SYNCING unit still needs. -/
  syncLeft : Nat := 0
  /-- 07 R223: clean_lines; reset 0. -/
  clean : Nat := 0
  /-- 07 R229: reset 0. -/
  failovers : Nat := 0
  /-- 07 R229: reset 0. -/
  lostLines : Nat := 0
  /-- 07 R229: last_lost[0]; reset 0. -/
  lost0 : Nat := 0
  /-- 07 R229: last_lost[1]; reset 0. -/
  lost1 : Nat := 0
  /-- 07 R229: last_lost_count; reset 0. -/
  lostN : Nat := 0
  /-- 07 R229: mismatches; reset 0. -/
  mism : Nat := 0
  /-- 07 R228: T32 of the last fail-over. -/
  foT32 : BitVec 32 := 0
  /-- 07 R228: unit left. -/
  foFrom : Nat := 0
  /-- 07 R228: unit taking over. -/
  foTo : Nat := 0
  /-- 07 R228: source. -/
  foSrc : Nat := 0
  /-- 07 R226: no descriptor until the host clears the fault. -/
  halted : Bool := false
  /-- 07 R226, 09 R268: slots whose next LINE_START carries RESYNC. -/
  resync : List Nat := []
  /-- 07 R226: last issued line. -/
  lastIssue : Nat := 0
  /-- 07 R221: line of the next resynchronisation retry. -/
  retryAt : Nat := 0
  /-- 07 R223: a FIREBOX source was recorded in this line. -/
  srcRec : Bool := false
  /-- 07 R218, R219: line whose boundary had passed without an issue at the last fail-over. -/
  overdue : Option Nat := none
deriving DecidableEq, Repr

/-- The checker of a PRBS test (R254). -/
structure Checker where
  /-- 08 R253, R254: last bits received, or predicted once locked. -/
  reg : BitVec 31 := 0
  /-- 08 R254: bits received since it began to seed itself. -/
  fill : Nat := 0
  /-- 08 R254: predicted bits in a row. -/
  good : Nat := 0
  /-- 08 R254: wrong bits among the last 4,096 while locked. -/
  window : List Bool := []
deriving DecidableEq, Repr

/-- A PRBS test (R252 to R254). -/
structure LaneTest where
  /-- 08 R253: pattern. -/
  pattern : Nat := 0
  /-- 08 R252: directions. -/
  dirs : Nat := 0
  /-- 19 R530: injection. -/
  inj : Nat := 0
  /-- 08 R254: period exponent. -/
  e : Nat := 0
  /-- 08 R252: Clock.real of the end of the duration. -/
  ends : Nat := 0
  /-- 08 R254: the device's checker. -/
  chk : Checker := {}
  /-- 08 R252: the device's own generator and checker run. -/
  here : Bool := false
deriving DecidableEq, Repr

/-- A head-card read in progress (R280, R281). -/
structure InfoRead where
  /-- 09 R280: slot position. -/
  j : Nat := 0
  /-- 09 R280: chunk. -/
  chunk : Nat := 0
  /-- 09 R281: failed tries of this chunk. -/
  tries : Nat := 0
  /-- 09 R280: tag. -/
  tag : BitVec 8 := 0
  /-- 09 R281: Clock.real of the INFO_READ. -/
  sentAt : Nat := 0
  /-- 09 R291: CARD_CHANGED came: the read restarts at chunk 0 once the read outstanding is answered. -/
  again : Bool := false
  /-- 09 R280: bytes read so far. -/
  buf : List (BitVec 8) := []
deriving DecidableEq, Repr

/-- One Kazpo lane (08, 09). -/
structure Lane where
  /-- 08 R237: state code; reset OFF. -/
  state : Nat := 0
  /-- 08 R231: present rate code. -/
  rate : Nat := 0
  /-- 08 R240: failed attempts in a row. -/
  fails : Nat := 0
  /-- 08 R240: a pass started from FAILED. -/
  single : Bool := false
  /-- 08 R241: P1-P6 of the last CAP received. -/
  far : List (BitVec 8) := []
  /-- 08 R242: identical valid CAPs in a row. -/
  farN : Nat := 0
  /-- 08 R241: P1-P5 of the device's CAP. -/
  own : List (BitVec 8) := []
  /-- 08 R242: matching CAP_ACKs. -/
  acks : Nat := 0
  /-- 08 R257: slots_found; reset 0. -/
  slots : Nat := 0
  /-- 08 R242: held in CAP for LANE_BUDGET. -/
  held : Bool := false
  /-- 08 R239: hdr_errors; reset 0. -/
  hdrErr : Nat := 0
  /-- 08 R257: relocks; reset 0. -/
  relocks : Nat := 0
  /-- 08 R251: since when a served primary is ACTIVE-capable. -/
  capable : Option Nat := none
  /-- 08 R237: Clock.real of the next retry. -/
  retryAt : Nat := 0
  /-- 08 R237: Clock.real of entry to the state. -/
  since : Nat := 0
  /-- 08 R237: LANE_ABSENT recorded in this DETECT. -/
  absent : Bool := false
  /-- 08 R252: PRBS test. -/
  test : Option LaneTest := none
  /-- 08 R254: checker locked. -/
  locked : Bool := false
  /-- 08 R254: bits checked. -/
  bits : Nat := 0
  /-- 08 R254: errors. -/
  errs : Nat := 0
  /-- 08 R254: losses of lock. -/
  losses : Nat := 0
  /-- 08 R254: errors injected. -/
  injected : Nat := 0
  /-- 08 R254: last TEST_REPORT. -/
  report : List (BitVec 8) := []
  /-- 09 R270: lane delay; reset 0. -/
  delay : Nat := 0
  /-- 09 R269: a delay has been measured (CAL). -/
  delayOk : Bool := false
  /-- 09 R270: departure of the LINK_TIME that waits for LT_ECHO. -/
  echoAt : Option Nat := none
  /-- 09 R270: integer link time of that LINK_TIME. -/
  echoVal : Nat := 0
  /-- 09 R270: Clock.real of the last measurement. -/
  echoDue : Nat := 0
  /-- 09 R265, R271: Clock.tclk of the last periodic LINK_TIME. -/
  ltAt : Nat := 0
  /-- 08 R256: Clock.real at which the present second of hdr_errors began. -/
  hdrAt : Nat := 0
  /-- 08 R256: invalid headers in that second. -/
  hdrN : Nat := 0
  /-- 09 R293: frames_unsent; reset 0. -/
  unsent : Nat := 0
  /-- 09 R293: upstream_bad; reset 0. -/
  upBad : Nat := 0
  /-- 09 R281: the INFO_READ outstanding. -/
  info : Option InfoRead := none
  /-- 09 R283: slot positions whose card waits to be read. -/
  todo : List Nat := []
  /-- 09 R271: line frames have started. -/
  carry : Bool := false
  /-- 09 R271: first line whose frames the lane carries, while lines before it are in flight. -/
  start : Option Nat := none
deriving DecidableEq, Repr

/-- One warm spare (R246 to R251). -/
structure Spare where
  /-- 08 R246: KS_SEL field; DESIGN CHOICE 0 (log 9). -/
  sel : Nat := 0
  /-- 08 R247: Clock.real of each member's last passed check. -/
  passed : SMap Nat := []
  /-- 08 R247: member under check. -/
  checking : Option Nat := none
  /-- 08 R247: Clock.real of the last SPARE_CHECK. -/
  checkAt : Nat := 0
  /-- 08 R248: primary it serves. -/
  serving : Option Nat := none
  /-- 08 R248: Clock.real of the DOWN decision of a switch under way. -/
  switching : Option Nat := none
  /-- 08 R251: return under way. -/
  ret : Option (Nat × Nat) := none
  /-- 09 R272: delay measured for each member. -/
  delays : SMap Nat := []
  /-- 09 R271: member the next LINK_TIME names; DESIGN CHOICE 0 (log 6). -/
  ltNext : Nat := 0
deriving DecidableEq, Repr

/-- What LINK holds of a slot (09). -/
structure SlotLink where
  /-- 09 R283: last whole card. -/
  card : Option (List (BitVec 8)) := none
  /-- 09 R283, R293: card_valid; reset 0. -/
  valid : Nat := 0
  /-- 09 R293: frame_errors; reset 0. -/
  frameErr : Nat := 0
  /-- 09 R293: fire_misses; reset 0. -/
  fireMiss : Nat := 0
  /-- 09 R293: status_flags; reset 0. -/
  flags : BitVec 8 := 0
  /-- 09 R271, R277: LT_VALID of the last STATUS. -/
  ltValid : Bool := false
  /-- 09 R277: alive of the last line fired, from STATUS. -/
  alive : BitVec 16 := 0
  /-- 09 R292: PENDING card refreshes (session, sequence). -/
  refresh : List (Sess × BitVec 32) := []
deriving DecidableEq, Repr

/-- One encoder channel (10). -/
structure Enc where
  /-- 10 R296: filtered A. -/
  a : Bool := false
  /-- 10 R296: filtered B. -/
  b : Bool := false
  /-- 10 R296: filtered Z. -/
  z : Bool := false
  /-- 10 R296: Clock.tclk at which A last took a new filtered level. -/
  aAt : Nat := 0
  /-- 10 R296: the same of B. -/
  bAt : Nat := 0
  /-- 10 R296: Clock.tclk of the last rising edge of filtered Z. -/
  zAt : Nat := 0
  /-- 10 R299: 0 unknown 1 forward 2 backward; unknown at KINDLING. -/
  dir : Nat := 0
  /-- 10 R298: count; reset 0. -/
  count : BitVec 32 := 0
  /-- 10 R297: FAILED. -/
  failed : Bool := false
  /-- 10 R297: wires w with a disagreement present. -/
  wires : List Nat := []
  /-- 10 R300: count at the previous compared index. -/
  ref : Option (BitVec 32) := none
  /-- 10 R300: count at the last index; DESIGN CHOICE 0 (log 6). -/
  idxCount : BitVec 32 := 0
  /-- 10 R300: T32 of the last index; DESIGN CHOICE 0 (log 6). -/
  idxT32 : BitVec 32 := 0
  /-- 10 R300: link time of the last index. -/
  idxLink : Nat := 0
  /-- 10 R300: index_dev; reset 0. -/
  dev : Int := 0
  /-- 10 R305: signed distance of the fire channel since it was chosen. -/
  pos : Int := 0
  /-- 10 R305: its maximum. -/
  maxPos : Int := 0
  /-- 10 R304: distance since the last switch or start. -/
  dist : Int := 0
deriving DecidableEq, Repr

/-- One captured mark (R309, R319). -/
structure MarkRec where
  /-- 10 R309: datum position. -/
  datum : BitVec 32 := 0
  /-- 10 R309: T32. -/
  t32 : BitVec 32 := 0
  /-- 10 R311: flywheel mark. -/
  fly : Bool := false
deriving DecidableEq, Repr

/-- One mark input (10). -/
structure Mark where
  /-- 10 R310: LOCKED. -/
  locked : Bool := false
  /-- 10 R310: expected web position of the next mark. -/
  expect : Option Int := none
  /-- 10 R309: Clock.tclk of the last filtered edge of the input. -/
  edgeAt : Nat := 0
  /-- 10 R310: consecutive accepted marks. -/
  run : Nat := 0
  /-- 10 R311: consecutive flywheel marks. -/
  fly : Nat := 0
  /-- 10 R319: last four marks, newest first. -/
  last : List MarkRec := []
  /-- 10 R312: error_wu; reset 0. -/
  err : Int := 0
  /-- 10 R310: spurious; reset 0. -/
  spur : Nat := 0
deriving DecidableEq, Repr

/-- A correction being spread over web travel (R301, R312). -/
structure Corr where
  /-- 10 R301, R312: amount to remove. -/
  total : Int := 0
  /-- 10 R301, R312: travel over which it is spread. -/
  span : Nat := 1
  /-- 10 R301, R312: travel so far. -/
  done : Nat := 0
  /-- 10 R301, R312: amount removed so far. -/
  took : Int := 0
deriving DecidableEq, Repr

/-- DAMPER (10). -/
structure Motion where
  /-- 10 R295: channels; state OFF. -/
  enc : SMap Enc := []
  /-- 10 R302: channel that moves W now. -/
  fireCh : Nat := 0
  /-- 10 R302: web position W; 0 at KINDLING. -/
  w : Int := 0
  /-- 10 R318: W before the first step of the TCLK of wAt. -/
  wWas : Int := 0
  /-- 10 R318: Clock.tclk of the last step. -/
  wAt : Nat := 0
  /-- 10 R302: W_max; 0 at KINDLING. -/
  wMax : Int := 0
  /-- 10 R301: circumference correction. -/
  corr : List Corr := []
  /-- 10 R312: registration trim. -/
  trim : List Corr := []
  /-- 10 R305: REVERSE suspension. -/
  rev : Bool := false
  /-- 10 R307: velocity model valid; reset 0. -/
  vValid : Bool := false
  /-- 10 R307: consecutive forward edges since it became invalid. -/
  vEdges : Nat := 0
  /-- 10 R307: edges counted since the model became valid. -/
  vSince : Nat := 0
  /-- 10 R307: (link time, W) of the last edges, newest first. -/
  vTimes : List (Nat × Int) := []
  /-- 10 R307: Clock.real of the last edge of the fire channel. -/
  lastEdge : Nat := 0
  /-- 10 R310: mark inputs; state OFF. -/
  marks : SMap Mark := []
  /-- 01 R36, R39: DRAUGHT contribution; DESIGN CHOICE the press maximum's default (log 6). -/
  draught : Nat := 120000
  /-- 03 R106: HOPPER contribution; none while no ring is named: it equals the press maximum. -/
  hopper : Option Nat := none
  /-- 10 R315: T32 at which the ceiling took its value. -/
  ceilT32 : BitVec 32 := 0
  /-- 10 R313, R320: ceiling last output; ceiling_lps reset 0. -/
  ceilWas : Nat := 0
  /-- 10 R314: code last driven on SPD_DAC_OUT; 0 V until READY. -/
  dacWas : Nat := 0
  /-- 10 R315: Clock.real of the last periodic ceiling datagram. -/
  msgAt : Nat := 0
  /-- 10 R317: Clock.real at which the ceiling last fell. -/
  fellAt : Nat := 0
  /-- 18 R509: start of the DAC slew. -/
  slewAt : Option Nat := none
  /-- 10 R315: sequence of the next ceiling datagram. -/
  seq : BitVec 32 := 0
  /-- 10 R315: flags last sent. -/
  flagsWas : Nat := 1
deriving DecidableEq, Repr

/-- One schedule entry (R334). -/
structure Sched where
  /-- 11 R334: action. -/
  action : Nat := 0
  /-- 11 R334: 0 T32 1 Device Time. -/
  base : Nat := 0
  /-- 11 R334: REPORT. -/
  report : Bool := false
  /-- 11 R334: target. -/
  target : Nat := 0
  /-- 11 R334: next instant: T32-axis ns since the lock (base 0) or Device Time ns (base 1). -/
  next : Nat := 0
  /-- 11 R334: directory index. -/
  index : Nat := 0
  /-- 11 R334: period_ns. -/
  period : Nat := 0
  /-- 11 R334: executions left. -/
  left : Nat := 0
  /-- 11 R334: count 0: until cancelled. -/
  forever : Bool := false
  /-- 11 R334: offset_lines. -/
  off : Int := 0
  /-- 11 R337: PENDING JOB_START's session and sequence. -/
  owner : Option (Sess × BitVec 32) := none
deriving DecidableEq, Repr

/-- One trigger output (R339). -/
structure Trig where
  /-- 11 R339: pulse in progress. -/
  active : Bool := false
  /-- 11 R343: pulses; reset 0. -/
  pulses : Nat := 0
  /-- 11 R339: Clock.tclk at the end of the pulse. -/
  ends : Nat := 0
  /-- 11 R340: (fire position, Clock.tclk) of position pulses due. -/
  due : List (Nat × Nat) := []
  /-- 11 R340: last fire position that triggered. -/
  seen : Option Nat := none
deriving DecidableEq, Repr

/-- PTP, schedules and triggers (11). -/
structure TimeUnit where
  /-- 11 R343: steps; reset 0. -/
  steps : Nat := 0
  /-- 11 R326, R343: step_credit; reset 1. -/
  credit : Bool := true
  /-- 11 R331: PTP state; reset 0. -/
  servo : Nat := 0
  /-- 11 R343: offset_ns; reset 0. -/
  offset : Int := 0
  /-- 11 R343: path_delay_ns; reset 0. -/
  delay : Nat := 0
  /-- 11 R331: consecutive Syncs within lock_ns. -/
  inLock : Nat := 0
  /-- 11 R330: sum of offsets. -/
  sum : Int := 0
  /-- 11 R330: PTP_STEP_REFUSED recorded in this excursion. -/
  refused : Bool := false
  /-- 11 R333: a timestamp was lost: the exchange it belongs to is skipped. -/
  skip : Bool := false
  /-- 19 R532: clockIdentity of the selected master. -/
  master : List (BitVec 8) := []
  /-- 11 R331: Clock.real of the last Sync. -/
  lastSync : Nat := 0
  /-- 11 R332, R333: timestamps held, oldest first, in tenths of a ns of Device Time at the balls: 2p receive, 2p+1 transmit. -/
  q : SMap (List Nat) := []
  /-- 11 R334: schedule. -/
  sched : SMap Sched := []
  /-- 11 R339: outputs; OFF. -/
  trig : SMap Trig := []
  /-- 19 R532: causes since the last read. -/
  causes : BitVec 16 := 0
deriving DecidableEq, Repr

/-- Counters of a camera port (R346). -/
structure CamPort where
  /-- 12 R374: hdr_ecc_corr; reset 0. -/
  corr : Nat := 0
  /-- 12 R374: hdr_ecc_errors; reset 0. -/
  hdr : Nat := 0
  /-- 12 R374: crc_errors; reset 0. -/
  crc : Nat := 0
  /-- 12 R374: phy_errors; reset 0. -/
  phy : Nat := 0
  /-- 12 R374: discarded; reset 0. -/
  disc : Nat := 0
deriving DecidableEq, Repr

/-- A frame (R350, R351). -/
structure Frame where
  /-- 12 R350: frame count. -/
  count : Nat := 0
  /-- 12 R351: LINE_WIDTH recorded in this frame. -/
  wide : Bool := false
  /-- 12 R350: T32 of the frame start. -/
  t0 : BitVec 32 := 0
  /-- 12 R350: T32 of the frame end or closure. -/
  t1 : BitVec 32 := 0
  /-- 12 R354: line at exposure. -/
  line : Nat := 0xFFFFFFFF
  /-- 12 R366: flags. -/
  flags : BitVec 16 := 0
  /-- 12 R357: normalised samples s of the lines received, in order. -/
  rows : List (List Nat) := []
  /-- 12 R351: lines received. -/
  lines : Nat := 0
  /-- 12 R360: shading table in force. -/
  shade : List Nat := []
  /-- 12 R358: defect table in force. -/
  defs : List (BitVec 32) := []
  /-- 12 R371: embedded data so far. -/
  emb : List (BitVec 8) := []
deriving DecidableEq, Repr

/-- A delivered stream frame (R363 to R365). -/
structure Stream where
  /-- 12 R365: frame count. -/
  frame : Nat := 0
  /-- 12 R365: flags. -/
  flags : BitVec 16 := 0
  /-- 12 R365: line at exposure. -/
  line : Nat := 0xFFFFFFFF
  /-- 12 R365: t32_start. -/
  t0 : BitVec 32 := 0
  /-- 12 R365: t32_end. -/
  t1 : BitVec 32 := 0
  /-- 12 R365: lines_in. -/
  linesIn : Nat := 0
  /-- 12 R365: output width. -/
  w : Nat := 0
  /-- 12 R365: output height. -/
  h : Nat := 0
  /-- 12 R363: crop column. -/
  x : Nat := 0
  /-- 12 R363: crop line. -/
  y : Nat := 0
  /-- 12 R363: scale. -/
  scale : Nat := 1
  /-- 12 R365: format. -/
  fmt : Nat := 0
  /-- 12 R363: plane lines by kind. -/
  planes : SMap (List (List Nat)) := []
deriving DecidableEq, Repr

/-- A running preview (R369). -/
structure Preview where
  /-- 12 R369: session. -/
  who : Sess := .loc 0
  /-- 12 R369: host buffers. -/
  bufs : List (BitVec 64 × Nat) := []
  /-- 12 R369: next buffer. -/
  next : Nat := 0
deriving DecidableEq, Repr

/-- A PENDING capture (R370). -/
structure Capture where
  /-- 12 R370: session. -/
  who : Sess := .loc 0
  /-- 12 R370: its sequence. -/
  seq : BitVec 32 := 0
  /-- 12 R370: the buffer, as the list's descriptors. -/
  bufs : List (BitVec 64 × Nat) := []
  /-- 12 R370: Clock.real of its timeout. -/
  ends : Nat := 0
  /-- 12 R370: a frame start has followed its acceptance. -/
  armed : Bool := false
deriving DecidableEq, Repr

/-- One camera context (12). -/
structure Ctx where
  /-- 12 R351: the open frame. -/
  frame : Option Frame := none
  /-- 12 R356: lines up to the frame end are discarded. -/
  dropping : Bool := false
  /-- 12 R371: header values of the last frame. -/
  lastF : Frame := {}
  /-- 12 R355, R356: bytes of each line in the FIFO, oldest first. -/
  fifoL : List Nat := []
  /-- 12 R374: frames; reset 0. -/
  frames : Nat := 0
  /-- 12 R374: short_frames; reset 0. -/
  short : Nat := 0
  /-- 12 R374: long_frames; reset 0. -/
  long : Nat := 0
  /-- 12 R374: dropped; reset 0. -/
  dropped : Nat := 0
  /-- 12 R374: lines_lost; reset 0. -/
  lost : Nat := 0
  /-- 12 R374: measure_overrun; reset 0. -/
  overrun : Nat := 0
  /-- 12 R374: preview_skipped; reset 0. -/
  skipped : Nat := 0
  /-- 12 R354: pending trigger records (fire position, T32-axis ns), oldest first. -/
  trigs : List (Nat × Nat) := []
  /-- 12 R371: embedded data of the latest complete frame. -/
  emb : List (BitVec 8) := []
  /-- 12 R371: its frame count. -/
  embF : Nat := 0
  /-- 12 R360: shading table loaded; DESIGN CHOICE gain 0 until loaded (log 6). -/
  shade : List Nat := []
  /-- 12 R367: MEASURE frames not yet released, oldest first. -/
  meas : List Stream := []
  /-- 12 R368: NOZZLE buffers. -/
  ringN : Nat := 0
  /-- 12 R368: bytes per buffer. -/
  ringB : Nat := 0
  /-- 12 R368: NOZZLE frames not yet released, oldest first. -/
  ring : List Stream := []
  /-- 12 R369: preview. -/
  prev : Option Preview := none
  /-- 12 R370: PENDING captures, oldest first. -/
  capt : List Capture := []
  /-- 12 R353: Clock.real of the last CAM_NO_FRAME. -/
  noFrameAt : Option Nat := none
  /-- 12 R353: Clock.real of a trigger pulse with no frame start yet. -/
  pulseAt : Option Nat := none
deriving DecidableEq, Repr

/-- INSPECT (12). -/
structure Cameras where
  /-- 12 R346: ports. -/
  ports : SMap CamPort := []
  /-- 12 R348: contexts; OFF. -/
  ctx : SMap Ctx := []
  /-- 12 R358: defect table without its unused entries; DESIGN CHOICE empty (log 6). -/
  defs : List (BitVec 32) := []
  /-- 12 R355: context whose line each pipeline took last. -/
  rr : SMap Nat := []
  /-- 12 R374: (pipeline, Clock.real, pixels) of the lines of the last second, for mpix_s; reset none. -/
  pix : List (Nat × Nat × Nat) := []
deriving DecidableEq, Repr

/-- One colour-loop zone (R382 to R385). -/
structure Zone where
  /-- 13 R382: target z_t. -/
  z : Int := 0
  /-- 13 R382: effective value at the start of the ramp. -/
  orig : Int := 0
  /-- 13 R382: start of the ramp. -/
  p0 : Nat := 0
  /-- 13 R382: ramp end P_end. -/
  pEnd : Nat := 0
  /-- 13 R385, R399: UNMEASURED; loop.unmeasured resets to 400. -/
  unmeas : Bool := true
  /-- 13 R385: STALE. -/
  stale : Bool := false
  /-- 13 R385: LIMIT. -/
  limit : Bool := false
  /-- 13 R385: NOT_COVERED. -/
  notCov : Bool := false
  /-- 13 R385: RAMPING. -/
  ramping : Bool := false
  /-- 13 R384: accumulated (measurement, weight). -/
  acc : List (Int × Nat) := []
  /-- 13 R393: measurements used. -/
  count : Nat := 0
  /-- 13 R398: last D. -/
  lastD : Int := 0
  /-- 13 R398: line of the last update. -/
  lastUp : Nat := 0
  /-- 13 R385: line of the last eligible measurement. -/
  lastEl : Nat := 0
  /-- 13 R384: target accepted for the next line boundary. -/
  pendZ : Option Int := none
  /-- 13 R387, R397: that target is the host's. -/
  pendHost : Bool := false
deriving DecidableEq, Repr

/-- What the loop keeps of a nozzle (R389, R391). -/
structure NozLoop where
  /-- 13 R389: candidate state. -/
  cand : Nat := 0
  /-- 13 R389: consecutive evaluations. -/
  n : Nat := 0
  /-- 13 R391: trim the ramp moves toward. -/
  goal : Option Int := none
  /-- 13 R391: trim at the start of the ramp. -/
  orig : Int := 0
  /-- 13 R391: start of the trim ramp. -/
  p0 : Nat := 0
deriving DecidableEq, Repr

/-- One loop event (R396). -/
structure LoopEvent where
  /-- 13 R396: kind. -/
  kind : Nat := 0
  /-- 13 R396: bar. -/
  bar : Nat := 0xFF
  /-- 13 R396: item. -/
  item : Nat := 0
  /-- 13 R396: value. -/
  value : BitVec 32 := 0
  /-- 13 R396: line. -/
  line : BitVec 32 := 0
  /-- 13 R396: T32. -/
  t32 : BitVec 32 := 0
deriving DecidableEq, Repr

/-- The loop of one bar (13). -/
structure BarLoop where
  /-- 13 R386, R399: mode in force at the last processed frame; reset 1. -/
  mode : Nat := 1
  /-- 13 R394: job whose colour memory the bar holds. -/
  job : Option Nat := none
  /-- 13 R385: ZONE_STALE recorded until every zone clears. -/
  staleRec : Bool := false
  /-- 13 R395: copies kept for jobs, by splice line. -/
  kept : SMap (List (BitVec 8)) := []
deriving DecidableEq, Repr

/-- LOOP (13). -/
structure LoopSt where
  /-- 13 R382: zones by 400 b + z. -/
  zones : SMap Zone := []
  /-- 13 R389: by Ledger index. -/
  noz : SMap NozLoop := []
  /-- 13 R386: bars; mode HOLD. -/
  bars : SMap BarLoop := []
  /-- 13 R396: event ring, oldest first. -/
  events : List LoopEvent := []
  /-- 13 R396: overflow count. -/
  lost : Nat := 0
deriving DecidableEq, Repr

/-- One DDR4 channel (14). -/
structure DdrChan where
  /-- 14 R413, R415: requests that wait, in the order they entered, each with the Clock.real of its entry; the first 64 writes are the write queue. -/
  reqs : List (DdrReq × Nat) := []
  /-- 14 R413: open row of each bank; none at reset. -/
  rows : SMap Nat := []
  /-- 14 R413: hits chosen in a row ahead of an older request. -/
  streak : Nat := 0
  /-- 14 R417: retry buffer: the commands issued last, oldest first. -/
  retry : List DdrReq := []
  /-- 14 R424, R425: Clock.real x 16 (tenths of a ns) at which a rank's next refresh falls due. -/
  refDue : SMap Nat := []
  /-- 14 R429: 0 DISABLED 1 TRAINING 2 ONLINE 3 FAILED 4 OFFLINE; reset 0. -/
  state : Nat := 0
  /-- 14 R429: ecc_corr; reset 0. -/
  corr : Nat := 0
  /-- 14 R429: ecc_reread; reset 0. -/
  reread : Nat := 0
  /-- 14 R429: poisoned; reset 0. -/
  pois : Nat := 0
  /-- 14 R429: ca_retries; reset 0. -/
  ca : Nat := 0
  /-- 14 R429: crc_retries; reset 0. -/
  crc : Nat := 0
  /-- 14 R424, R429: refresh_x2; reset 1. -/
  x2 : Bool := true
  /-- 14 R425: postponed refreshes by rank; reset 0. -/
  post : SMap Nat := []
  /-- 14 R419: failed replays of one command. -/
  caFails : Nat := 0
  /-- 14 R419: failed resends of one write. -/
  crcFails : Nat := 0
deriving DecidableEq, Repr

/-- The DDR4 channels (14). -/
structure Ddr where
  /-- 14 R429: channels. -/
  ch : SMap DdrChan := []
  /-- 14 R404: results by 18 ch + 9 r + l; DESIGN CHOICE 0 before training (log 6). -/
  train : SMap TrainRes := []
  /-- 14 R429: init_done; reset 0. -/
  initDone : Bool := false
  /-- 14 R424: case temperature; none before a reading. -/
  caseC : Option Int := none
  /-- 14 R424: Clock.real of the reading. -/
  caseAt : Nat := 0
  /-- 14 R414: late per port; reset 0. -/
  late : SMap Nat := []
  /-- 14 R424: Clock.real at which the next read of the case temperature falls due. -/
  tempNext : Nat := 0
  /-- 14 R423: Clock.real at which the next interval of the scrub ends. -/
  scrubNext : Nat := 0
  /-- 14 R414: Clock.real of the last DDR_QOS_LATE per port. -/
  lateAt : SMap Nat := []
deriving DecidableEq, Repr

/-- A codec job (R440). -/
structure CodecJob where
  /-- 15 R440: session and sequence. -/
  who : Option (Sess × BitVec 32) := none
  /-- 19 R535: 0 decompress 1 static 2 dynamic. -/
  mode : Nat := 0
  /-- 19 R535: input bytes. -/
  inLen : Nat := 0
  /-- 19 R535: expected output bytes. -/
  expect : Nat := 0
deriving DecidableEq, Repr

/-- A CRC scan engine (R446). -/
structure Scan where
  /-- 15 R446: session and sequence while busy. -/
  who : Option (Sess × BitVec 32) := none
  /-- 15 R446: space. -/
  space : Nat := 0
  /-- 15 R446: polynomial. -/
  poly : Nat := 0
  /-- 15 R446: start. -/
  start : Nat := 0
  /-- 15 R446: length. -/
  len : Nat := 0
deriving DecidableEq, Repr

/-- On-chip memories, codec and scan engines (15). -/
structure Chip where
  /-- 15 R432, R433: shared scratchpad; zeroed at stage 7. -/
  scratch : SMap (BitVec 8) := []
  /-- 15 R438, R439: secure scratchpad; wiped before FENDER is released. -/
  secure : SMap (BitVec 8) := []
  /-- 15 R439: a wipe runs. -/
  wiping : Bool := false
  /-- 15 R440: compressor queue. -/
  comp : List CodecJob := []
  /-- 15 R440: decompressor queue. -/
  decomp : List CodecJob := []
  /-- 15 R450: codec.jobs; reset 0. -/
  jobs : Nat := 0
  /-- 15 R450: codec.noshrink; reset 0. -/
  noshr : Nat := 0
  /-- 15 R450: codec.stream_errors; reset 0. -/
  strErr : Nat := 0
  /-- 15 R446: scan engines. -/
  scans : SMap Scan := []
  /-- 15 R450: scratch.ecc_corr; reset 0. -/
  corr : Nat := 0
deriving DecidableEq, Repr

/-- One fault source (R453 to R459). -/
structure Source where
  /-- 16 R454: sticky bit; reset 0. -/
  sticky : Bool := false
  /-- 16 R470: hits; reset 0. -/
  hits : Nat := 0
  /-- 16 R453: addresses at which a level condition holds. -/
  conds : List (BitVec 32) := []
  /-- 16 R455: slots its FAULT mute holds. -/
  slots : List Nat := []
  /-- 16 R455: HOLD_FIRE in force. -/
  hold : Bool := false
  /-- 16 R455: PRESS_HOLD in force. -/
  press : Bool := false
  /-- 16 R458: FIREBOX unit it holds FAULTY. -/
  unit : Option Nat := none
  /-- 16 R459: Clock.real of its last log entry. -/
  logAt : Option Nat := none
  /-- 16 R459: hits since that entry. -/
  unlogged : Nat := 0
deriving DecidableEq, Repr

/-- A reset or its shadow (R463, R464). -/
structure Shadow where
  /-- 16 R463: block: 0 HOB, 8+b GRATE b, 16+p LOUPE p, 40 codec, 256+p port p, 4 FIREBOX switch. -/
  block : Nat := 0
  /-- 16 R464: end of the shadow, none while the reset runs. -/
  ends : Option Nat := none
  /-- 16 R464: contexts the lists name. -/
  ctxs : List Nat := []
deriving DecidableEq, Repr

/-- The first-error record (R460). -/
structure Fer where
  /-- 02 R47: VALID; reset 0. -/
  valid : Bool := false
  /-- 02 R47: SOURCE; reset 0. -/
  source : Nat := 0
  /-- 02 R47: ADDRESS; reset 0. -/
  addr : BitVec 32 := 0
  /-- 02 R47: MASTER; reset 0. -/
  master : Nat := 0
  /-- 02 R47: ACCESS; reset 0. -/
  access : Nat := 0
  /-- 02 R47: T32; reset 0. -/
  t32 : BitVec 32 := 0
  /-- 16 R461: TCLK of the capture. -/
  atT : Nat := 0
  /-- 02 R47: CONSEQUENTIAL; reset 0. -/
  cons : Nat := 0
  /-- 02 R47: MERGED; reset 0. -/
  merged : Nat := 0
  /-- 02 R47: SIMULTANEOUS; reset 0. -/
  simul : Nat := 0
deriving DecidableEq, Repr

/-- The fault collector (16). -/
structure Faults where
  /-- 18 R503: the collector runs (from stage 3). -/
  on : Bool := false
  /-- 16 R452: sources. -/
  src : SMap Source := []
  /-- 16 R460: first-error record; empty. -/
  fer : Fer := {}
  /-- 16 R464: resets and shadows in progress. -/
  shadows : List Shadow := []
  /-- 16 R465: (block, Clock.real) of resets of the last 10 s. -/
  resets : List (Nat × Nat) := []
  /-- 16 R465: blocks held in reset. -/
  heldR : List Nat := []
deriving DecidableEq, Repr

/-- The DRAUGHT chain (01). -/
structure Draught where
  /-- 01 R39: monitor min_ratio; reset 0xFFFF. -/
  minR : SMap Nat := []
  /-- 01 R39: worst_ratio of the latest line; DESIGN CHOICE 0xFFFF before a line (log 6). -/
  worst : Nat := 0xFFFF
  /-- 01 R34: lines of the present window. -/
  lines : Nat := 0
  /-- 01 R35: the window has a line below hi_ratio. -/
  margin : Bool := false
  /-- 01 R32: every line of the window is at or above relax_ratio. -/
  allRelax : Bool := true
  /-- 01 R32: consecutive relaxed windows. -/
  relaxN : Nat := 0
  /-- 01 R34: lines closed after the end of the present window and before STOKER has ended it: (below hi_ratio or late, at or above relax_ratio). -/
  ahead : List (Bool × Bool) := []
  /-- 01 R34: the first line boundary after the readback, at which the next window begins; none: it has begun. -/
  winFrom : Option Nat := none
  /-- 01 R34: no window runs until the VCORE readback. -/
  waiting : Bool := false
  /-- 01 R34: VCORE setpoint; start_mv. -/
  setMv : Nat := 760
  /-- 01 R39: now_mv, last readback; DESIGN CHOICE start_mv (log 6). -/
  nowMv : Nat := 760
  /-- 01 R35: STOKER has stopped changing VCORE. -/
  stopped : Bool := false
  /-- 01 R36: lines since the contribution was last lowered. -/
  sinceLow : Option Nat := none
  /-- 01 R36: consecutive NORMAL or RELAX lines. -/
  good : Nat := 0
  /-- 01 R38: lines since DRAUGHT_FLOOR was last recorded. -/
  sinceFloor : Option Nat := none
  /-- 01 R33: (line, monitor) of missed deadlines of open lines. -/
  missed : List (Nat × Nat) := []
  /-- 01 R33: (line, bar or 8) that has recorded its source. -/
  recd : List (Nat × Nat) := []
deriving DecidableEq, Repr

/-- A board sensor (R475). -/
structure Sensor where
  /-- 17 R499: value; DESIGN CHOICE 0 before a good read (log 6). -/
  value : Int := 0
  /-- 17 R475: consecutive failed reads. -/
  fails : Nat := 0
  /-- 17 R475: Clock.real at which the next read falls due. -/
  nextAt : Nat := 0
  /-- 17 R475, R499: Clock.real of the last good read; none: stale reset 1. -/
  goodAt : Option Nat := none
deriving DecidableEq, Repr

/-- The firmware update in progress (R483). -/
structure Update where
  /-- 19 R534: 0 none 1 open 2 VERIFIED 3 FAILED. -/
  state : Nat := 0
  /-- 17 R483: image named by begin. -/
  img : Nat := 0
  /-- 17 R483: length. -/
  len : Nat := 0
  /-- 17 R483: session that opened it. -/
  who : Option Sess := none
  /-- 17 R483: the erase runs. -/
  erasing : Bool := false
deriving DecidableEq, Repr

/-- STOKER (17). -/
structure Manage where
  /-- 17 R499: tsense.tj; no reading before a conversion, DESIGN CHOICE 0 (log 6). -/
  tj : SMap Int := []
  /-- 17 R499: vmon.mv; DESIGN CHOICE 0 (log 6). -/
  mv : SMap Nat := []
  /-- 17 R473: Clock.real of the last TJ_WARN while above. -/
  warnAt : Option Nat := none
  /-- 17 R473: Clock.real of the last TJ_CRIT while above. -/
  critAt : Option Nat := none
  /-- 17 R474: Clock.real of the last VMON_RANGE per monitor while outside. -/
  rangeAt : SMap Nat := []
  /-- 17 R474: Clock.real of the last PMBus write of VCORE. -/
  vcoreAt : Nat := 0
  /-- 17 R475: board sensors. -/
  boards : SMap Sensor := []
  /-- 17 R473: Clock.real at which the next conversion falls due. -/
  convNext : Nat := 0
  /-- 17 R476: Clock.real at which the next read of the regulator falls due. -/
  vregNext : Nat := 0
  /-- 09 R290: Clock.real at which a legacy slot's next temperature report falls due. -/
  legacyNext : SMap Nat := []
  /-- 17 R499: iout_ma; DESIGN CHOICE 0 (log 6). -/
  iout : Nat := 0
  /-- 17 R499: vreg_temp; DESIGN CHOICE 0 (log 6). -/
  vtemp : Int := 0
  /-- 17 R478: RAM log, newest first. -/
  log : List LogEntry := []
  /-- 17 R477, R479: next sequence. -/
  nextSeq : BitVec 32 := 0
  /-- 17 R478: newest RAM entries not yet copied to flash. -/
  uncop : Nat := 0
  /-- 17 R478: entries overwritten before they were copied. -/
  lostNow : Nat := 0
  /-- 17 R498: entries lost in all. -/
  lostAll : Nat := 0
  /-- 17 R483: update. -/
  upd : Update := {}
deriving DecidableEq, Repr

/-- FENDER (17). -/
structure Fender where
  /-- 17 R487: nonce and the Clock.real at which it ends. -/
  nonce : Option (BitVec 128 × Nat) := none
  /-- 17 R488: unlock scope in force. -/
  scope : Nat := 0
  /-- 17 R488: unlock expiry, Device Time seconds. -/
  expiry : Nat := 0
  /-- 17 R490: instruction in force in the TAP; IEEE 1149.1: IDCODE after the TAP reset; PRESUMED (log 23). -/
  tap : TapInstr := .idcode
deriving DecidableEq, Repr

/-- The Nozzle Ledger (20). -/
structure Ledger where
  /-- 20 R548: entries; 0x0000_FF0F elsewhere. -/
  ent : SMap (BitVec 32) := []
  /-- 20 R550: (line, index, entry, field mask) of accepted writes; bit 6 marks an update of its owner (R20). -/
  pend : List (Nat × Nat × BitVec 32 × BitVec 7) := []
  /-- 20 R556: Ledger writes applied at the boundaries of the last 64 lines, as (line, index, entry, mask). -/
  recent : List (Nat × Nat × BitVec 32 × BitVec 7) := []
  /-- 20 R557: ecc_corr; reset 0. -/
  corr : Nat := 0
  /-- 20 R557: ecc_fallback; reset 0. -/
  fallb : Nat := 0
  /-- 20 R557: last_fallback; reset 0xFFFF_FFFF. -/
  lastFb : BitVec 32 := 0xFFFFFFFF
  /-- 20 R555: next entry of the scrub. -/
  scrub : Nat := 0
  /-- 20 R555: Clock.real at which the present interval of the scrub began. -/
  scrubAt : Option Nat := none
deriving DecidableEq, Repr

/-- The whole machine (plain data). -/
structure State where
  /-- model's own: commands that wait, first in first out; empty at reset. -/
  pending : List Instr := []
  /-- 11: time. -/
  clk : Clock := {}
  /-- 18: rails and KINDLING. -/
  pwr : Power := {}
  /-- 17, 18: fuses. -/
  otp : Otp := {}
  /-- 17 R480: flash. -/
  flash : Flash := {}
  /-- 18 R513: VBAT domain. -/
  vbat : Vbat := {}
  /-- 02: host window. -/
  host : Hostif := {}
  /-- 20: parameters. -/
  params : Params := {}
  /-- 03: jobs. -/
  lib : Library := {}
  /-- 03: splices. -/
  splice : Splice := {}
  /-- 04: EASEL. -/
  raster : Raster := {}
  /-- 05: GRATE cores. -/
  grates : SMap Grate := []
  /-- 06: EMBER. -/
  ember : Ember := {}
  /-- 06: fire schedule. -/
  fire : Fire := {}
  /-- 07: FIREBOX pair. -/
  fb : FireBox := {}
  /-- 08: lanes. -/
  lanes : SMap Lane := []
  /-- 08: spares. -/
  spares : SMap Spare := []
  /-- 09: slots on LINK. -/
  links : SMap SlotLink := []
  /-- 10: DAMPER. -/
  motion : Motion := {}
  /-- 11: TIME. -/
  time : TimeUnit := {}
  /-- 12: LOUPE. -/
  cam : Cameras := {}
  /-- 13: colour loop. -/
  loop : LoopSt := {}
  /-- 14: DDR4. -/
  ddr : Ddr := {}
  /-- 15: on-chip stores. -/
  chip : Chip := {}
  /-- 16: collector. -/
  faults : Faults := {}
  /-- 01: DRAUGHT. -/
  draught : Draught := {}
  /-- 17: STOKER. -/
  mgmt : Manage := {}
  /-- 17: FENDER. -/
  sec : Fender := {}
  /-- 20: Nozzle Ledger. -/
  ledger : Ledger := {}
  /-- model's own: what left the device, newest first; DESIGN CHOICE empty (log 10). -/
  out : List Output := []
  /-- model's own: free values taken so far; DESIGN CHOICE 0 (log 11). -/
  free : Nat := 0
deriving DecidableEq, Repr

/-- The machine right after reset: rails up, PORST_N low, before KINDLING (R502, R503); every field at the value
the spec gives, or the one its log entry names. -/
def State.reset : State := {}

end Sys2Proof.Machine
end

