-- ==== Sys2Proof/Machine/Ops.lean ====
section
/-!
DEFINITION. Named operations on the shared data: sorted sparse maps, byte strings, bit fields, byte memories,
the passing of time, what leaves the device and free values.
-/
namespace Sys2Proof.Machine

/-! ### Sorted sparse maps -/

/-- The value at an index, none when not listed. -/
def look {α : Type} (m : SMap α) (k : Nat) : Option α :=
  match m with
  | [] => none
  | (j, v) :: t => if j = k then some v else look t k

/-- The value at an index, `d` when not listed. -/
def sel {α : Type} (m : SMap α) (k : Nat) (d : α) : α := (look m k).getD d

/-- The map with index `k` holding `v`. -/
def put {α : Type} (m : SMap α) (k : Nat) (v : α) : SMap α :=
  match m with
  | [] => [(k, v)]
  | (j, w) :: t => if k < j then (k, v) :: (j, w) :: t else if k = j then (k, v) :: t else (j, w) :: put t k v

/-- The map without index `k`. -/
def cut {α : Type} (m : SMap α) (k : Nat) : SMap α := m.filter (fun (e : Nat × α) => decide (e.1 ≠ k))

/-- The value at an index changed by `f`. -/
def upd {α : Type} (m : SMap α) (k : Nat) (d : α) (f : α → α) : SMap α := put m k (f (sel m k d))

/-- The indices strictly rise. -/
def SMapWf {α : Type} (m : SMap α) : Prop := (m.map Prod.fst).Pairwise (· < ·)

/-! ### Numbers and bit fields -/

/-- A counter of `n` bits holds at its maximum (R8). -/
def sat (n x : Nat) : Nat := min x (2 ^ n - 1)

/-- Bits [lo + n - 1 : lo] of a number. -/
def bits (x lo n : Nat) : Nat := x / 2 ^ lo % 2 ^ n

/-- Bit i of a number. -/
def bit (x i : Nat) : Bool := x / 2 ^ i % 2 == 1

/-- 1 for true. -/
def b2n (b : Bool) : Nat := if b then 1 else 0

/-- The two's complement value of the low `n` bits (R6). -/
def signed (n x : Nat) : Int := if 2 ^ (n - 1) ≤ x % 2 ^ n then (x % 2 ^ n : Nat) - (2 ^ n : Nat) else (x % 2 ^ n : Nat)

/-- The low `n` bits of an integer as a number (R6). -/
def unsigned (n : Nat) (x : Int) : Nat := (x % (2 ^ n : Nat)).toNat

/-- An integer held between two bounds. -/
def clamp (lo hi x : Int) : Int := max lo (min hi x)

/-- Division rounded to the nearest, halves up, of integers by a positive number. -/
def roundDiv (a : Int) (b : Nat) : Int := (2 * a + b) / (2 * b)

/-- `a` is before `b` on a 32-bit circle or equal to it (fire positions and T32 wrap, R184). -/
def le32 (a b : Nat) : Bool := decide ((b + 2 ^ 32 - a % 2 ^ 32) % 2 ^ 32 < 2 ^ 31)

/-- The numbers of a list marked in a mask. -/
def maskOf (l : List Nat) : Nat := l.foldl (fun m i => m ||| 2 ^ i) 0

/-- The numbers below `n` whose bit is set. -/
def unmask (n m : Nat) : List Nat := (List.range n).filter (fun i => bit m i)

/-- The list with element `x` in it once. -/
def addTo {α : Type} [DecidableEq α] (l : List α) (x : α) : List α := if x ∈ l then l else l ++ [x]

/-! ### Byte strings -/

/-- Little-endian value of a byte string (R5). -/
def leN (b : Bytes) : Nat := b.foldr (fun x a => x.toNat + 256 * a) 0

/-- The `n` bytes of a number, little-endian (R5). -/
def leB (n x : Nat) : Bytes :=
  match n with
  | 0 => []
  | m + 1 => BitVec.ofNat 8 x :: leB m (x / 256)

/-- Bytes [off, off + n) of a string, zero past its end. -/
def slice (b : Bytes) (off n : Nat) : Bytes :=
  let t := (b.drop off).take n
  t ++ List.replicate (n - t.length) 0

/-- The n-byte field at an offset. -/
def fld (b : Bytes) (off n : Nat) : Nat := leN (slice b off n)

/-- The byte at an offset. -/
def u8 (b : Bytes) (off : Nat) : Nat := fld b off 1

/-- The 16-bit field at an offset. -/
def u16 (b : Bytes) (off : Nat) : Nat := fld b off 2

/-- The 32-bit field at an offset. -/
def u32 (b : Bytes) (off : Nat) : Nat := fld b off 4

/-- The 64-bit field at an offset. -/
def u64 (b : Bytes) (off : Nat) : Nat := fld b off 8

/-- A string of length `n`: cut or filled with zeros. -/
def padTo (n : Nat) (b : Bytes) : Bytes := slice b 0 n

/-- The bytes of a string replaced from an offset on. -/
def overlay (b : Bytes) (off : Nat) (new : Bytes) : Bytes := b.take off ++ new ++ b.drop (off + new.length)

/-- Strings of `n` bytes, in order; a shorter rest is dropped. -/
def chunks (n : Nat) (count : Nat) (b : Bytes) : List Bytes := (List.range count).map (fun k => slice b (n * k) n)

/-! ### Byte memories: sorted, unlisted bytes read zero, no zero byte listed -/

/-- Read one byte. -/
def memRead (m : SMap (BitVec 8)) (a : Nat) : BitVec 8 := sel m a 0

/-- Write one byte, keeping the canonical form. -/
def memWrite (m : SMap (BitVec 8)) (a : Nat) (v : BitVec 8) : SMap (BitVec 8) := if v = 0 then cut m a else put m a v

/-- Read `n` bytes. -/
def memReadN (m : SMap (BitVec 8)) (a : Nat) (n : Nat) : Bytes := (List.range n).map (fun i => memRead m (a + i))

/-- Write a string. -/
def memWriteN (m : SMap (BitVec 8)) (a : Nat) (b : Bytes) : SMap (BitVec 8) :=
  match b with
  | [] => m
  | x :: t => memWriteN (memWrite m a x) (a + 1) t

/-- The canonical form of a byte memory. -/
def MemWf (m : SMap (BitVec 8)) : Prop := SMapWf m ∧ ∀ e ∈ m, e.2 ≠ 0

/-! ### Outputs and free values -/

/-- Record what leaves the device, newest first (log 10). -/
def State.emit (s : State) (o : Output) : State := { s with out := o :: s.out }

/-- Record several outputs, the first of the list first. -/
def State.emits (s : State) (l : List Output) : State := { s with out := l.reverse ++ s.out }

/-- Take a free value (log 11). -/
def State.fresh (s : State) : State := { s with free := s.free + 1 }

/-! ### Time -/

/-- Units of 1/(5*10^12) ns in one ns. -/
def nsUnit : Nat := 5000000000000

/-- What a clock of ns gains in `dt` TCLK periods at rate correction rho (R322, R327): 1.6 ns times (10^12 + rho) / 10^12. -/
def Clock.gain (c : Clock) (dt : Nat) : Nat := dt * (8 * (1000000000000 + c.rho)).toNat

/-- `dt` TCLK periods pass on the clocks of the TIME unit (R322); they stand while the PLL does not run (R24). -/
def Clock.pass (c : Clock) (dt : Nat) : Clock :=
  let c := { c with real := c.real + dt }
  if c.run then { c with tclk := c.tclk + dt, t32u := c.t32u + c.gain dt, devu := c.devu + c.gain dt } else c

/-- 1.6 ns periods in one second. -/
def perSecond : Nat := 625000000

/-- 1.6 ns periods in one millisecond. -/
def perMs : Nat := 625000

/-- 1.6 ns periods in one microsecond. -/
def perUs : Nat := 625

/-- `dt` periods pass on the seconds counter of the VBAT domain (R513). -/
def Vbat.pass (v : Vbat) (dt : Nat) : Vbat :=
  { v with sec := (v.sec + (v.sub + dt) / perSecond) % 2 ^ 48, sub := (v.sub + dt) % perSecond }

/-- Time passes before a command (log 2). -/
def State.pass (s : State) (dt : Nat) : State := { s with clk := s.clk.pass dt, vbat := s.vbat.pass dt }

/-- T32 (R12, R322). -/
def State.t32 (s : State) : BitVec 32 := BitVec.ofNat 32 (s.clk.t32u / nsUnit)

/-- Whole nanoseconds on the T32 axis since the lock (its low 32 bits are T32). -/
def State.t32ns (s : State) : Nat := s.clk.t32u / nsUnit

/-- Device Time in ns (R322). -/
def State.devNs (s : State) : Nat := s.clk.devu / nsUnit

/-- Device Time seconds, 48 bits (R323). -/
def State.devSec (s : State) : Nat := s.devNs / 1000000000 % 2 ^ 48

/-- Device Time nanoseconds within the second (R323). -/
def State.devSub (s : State) : Nat := s.devNs % 1000000000

/-- Link time: TCLK since the lock, 32 bits (R184). -/
def State.link (s : State) : Nat := s.clk.tclk % 2 ^ 32

/-- Now, in 1.6 ns periods since reset; the time base of every deadline. -/
def State.now (s : State) : Nat := s.clk.real

end Sys2Proof.Machine
end

