-- ==== Sys2Proof/Machine/Crc.lean ====
section
/-!
DEFINITION. The CRCs of the device: CRC-32 and CRC-32C (R446), CRC-16 (R282, R507) and CRC-8 (R260); Kazpo control blocks (R233,
R234, R260) and the blocks of a line frame (R261 to R263) and of a FIRE (R273).
-/
namespace Sys2Proof.Machine

/-- One bit of a reflected 32-bit CRC. -/
def crcBit (poly c : BitVec 32) : BitVec 32 := if c.getLsbD 0 then (c >>> 1) ^^^ poly else c >>> 1

/-- One byte of a reflected 32-bit CRC. -/
def crcByte (poly c : BitVec 32) (b : Byte) : BitVec 32 :=
  let c := c ^^^ b.setWidth 32
  crcBit poly (crcBit poly (crcBit poly (crcBit poly (crcBit poly (crcBit poly (crcBit poly (crcBit poly c)))))))

/-- A reflected CRC with initial value and final XOR of all ones (R446). -/
def crc32With (poly : BitVec 32) (b : Bytes) : BitVec 32 :=
  (b.foldl (crcByte poly) 0xFFFFFFFF) ^^^ 0xFFFFFFFF

/-- CRC-32 (IEEE 802.3), code 0 of R446. -/
def crc32 (b : Bytes) : BitVec 32 := crc32With 0xEDB88320 b

/-- CRC-32C, code 1 of R446. -/
def crc32c (b : Bytes) : BitVec 32 := crc32With 0x82F63B78 b

/-- The CRC of a code of R446. -/
def crcCode (code : Nat) (b : Bytes) : BitVec 32 := if code = 0 then crc32 b else crc32c b

/-- One bit of a CRC of `n` bits, most significant bit first. -/
def crcMsbBit (n poly c : Nat) (x : Bool) : Nat :=
  let top := bit c (n - 1)
  let c := c * 2 % 2 ^ n
  if top != x then Nat.xor c poly else c

/-- A CRC of `n` bits over a byte string, most significant bit first, no final XOR. -/
def crcMsb (n poly init : Nat) (b : Bytes) : Nat :=
  b.foldl (fun c x => [7, 6, 5, 4, 3, 2, 1, 0].foldl (fun c i => crcMsbBit n poly c (bit x.toNat i)) c) init

/-! ### Blocks (R233, R234, R260) -/

/-- CRC-8 of a control block (R234). -/
def crc8 (b : Bytes) : Nat := crcMsb 8 0x07 0 b

/-- Big-endian bytes (R233). -/
def beB (n x : Nat) : Bytes := (leB n x).reverse

/-- Big-endian value (R233). -/
def beN (b : Bytes) : Nat := leN b.reverse

/-- A control block of a type with P1 to P6. -/
def kBlock (ty : Nat) (p : Bytes) : Bytes :=
  let b := padTo 7 (leB 1 ty ++ p)
  b ++ leB 1 (crc8 b)

/-- A whole control block of a type with a good crc. -/
def goodBlock (b : Bytes) (ty : Nat) : Bool := b.length == 8 && u8 b 0 == ty && crc8 (b.take 7) == u8 b 7

/-- LINE_START of slot position j (R261). -/
def lineStart (j line flags : Nat) : Bytes := kBlock 0x90 (leB 1 j ++ beB 2 line ++ leB 1 flags)

/-- LINE_END of slot position j over the bytes of the frame's data blocks (R263); a frame without data covers no bytes. -/
def lineEnd (j line : Nat) (data : Bytes) : Bytes := kBlock 0x91 (leB 1 j ++ beB 4 (crc32c data).toNat ++ leB 1 line)

/-- The blocks of a line frame in order (R261): true marks a control block, false a data block of eight bytes. -/
def lineFrame (j line flags : Nat) (data : Bytes) : List (Bool × Bytes) :=
  (true, lineStart j line flags) :: (chunks 8 (data.length / 8) data).map (fun b => (false, b)) ++ [(true, lineEnd j line data)]

/-- A FIRE block: P1, the line it fires and the target field (R273). -/
def fireBlock (mask : BitVec 8) (line target : Nat) : Bytes := kBlock 0x92 (leB 1 mask.toNat ++ beB 2 line ++ beB 3 target)

end Sys2Proof.Machine
end

