-- ==== Sys2Proof/Machine/Params.lean ====
section
/-!
DEFINITION. The parameters: for each writable one its ID and default (`PKey`), named as its path in the spec,
and the table of every parameter's instances, type, range and class, taken from the parameter tables of the chapters.
-/
namespace Sys2Proof.Machine

/-- A writable parameter: its ID (R537) and its default, as a 32-bit value. -/
structure PKey where
  id : Nat
  dflt : Nat
deriving DecidableEq, Repr

/-- Type of a parameter (R539). -/
inductive PTy where
  | u8 | u16 | u32 | s8 | s16 | s32
deriving DecidableEq, Repr

/-- Take-effect class (R540); `ro` is read-only (R539). -/
inductive PCls where
  | now | line | splice | frame | reset | ro
deriving DecidableEq, Repr

/-- A row of a parameter table: the first ID, the number of instances (0x100 apart) and of consecutive fields,
type, range (two's complement of its type) and class. -/
structure PRow where
  base : Nat
  insts : Nat
  fields : Nat
  ty : PTy
  lo : Int
  hi : Int
  cls : PCls
deriving DecidableEq, Repr

/-- Nominal voltage of a monitor in mV; monitor 0 follows the setpoint (R474). -/
def vmonNominal (i : Nat) : Nat :=
  match i with
  | 1 => 800 | 2 => 800 | 3 => 800 | 4 => 900 | 5 => 1200 | 6 => 1200 | 7 => 1200 | 8 => 1200
  | 9 => 2500 | 10 => 1800 | 11 => 3300 | 12 => 1800 | 13 => 1800 | 14 => 3000 | 15 => 1200 | _ => 760

/-- A fault source: number, default reaction, address kind (0 none, 1 slot, 2 lane, 3 bar, 4 other), level (R453). -/
structure FSrc where
  n : Nat
  react : Nat
  kind : Nat
  level : Bool
deriving DecidableEq, Repr

/-- Fault sources 0x000 to 0x083, from the source tables of the chapters. -/
def faultTab0 : List FSrc := [
  ⟨0x000, 1, 0, false⟩,
  ⟨0x001, 2, 4, false⟩,
  ⟨0x002, 2, 4, false⟩,
  ⟨0x003, 1, 0, false⟩,
  ⟨0x004, 1, 0, false⟩,
  ⟨0x005, 2, 0, false⟩,
  ⟨0x006, 6, 0, false⟩,
  ⟨0x007, 1, 4, false⟩,
  ⟨0x030, 1, 0, false⟩,
  ⟨0x031, 2, 0, false⟩,
  ⟨0x032, 2, 0, false⟩,
  ⟨0x033, 2, 0, false⟩,
  ⟨0x034, 8, 0, false⟩,
  ⟨0x035, 1, 4, false⟩,
  ⟨0x036, 5, 0, false⟩,
  ⟨0x037, 2, 0, false⟩,
  ⟨0x038, 8, 0, false⟩,
  ⟨0x039, 2, 4, false⟩,
  ⟨0x03A, 2, 4, false⟩,
  ⟨0x03B, 1, 4, false⟩,
  ⟨0x03C, 2, 0, false⟩,
  ⟨0x03D, 2, 0, false⟩,
  ⟨0x03E, 2, 4, false⟩,
  ⟨0x03F, 2, 0, false⟩,
  ⟨0x040, 2, 4, false⟩,
  ⟨0x041, 1, 4, false⟩,
  ⟨0x042, 1, 4, false⟩,
  ⟨0x043, 1, 4, false⟩,
  ⟨0x044, 8, 4, true⟩,
  ⟨0x045, 1, 4, false⟩,
  ⟨0x046, 1, 4, false⟩,
  ⟨0x047, 2, 4, false⟩,
  ⟨0x048, 1, 4, false⟩,
  ⟨0x049, 2, 4, true⟩,
  ⟨0x04A, 2, 4, true⟩,
  ⟨0x04B, 1, 4, false⟩,
  ⟨0x050, 1, 0, false⟩,
  ⟨0x051, 2, 4, false⟩,
  ⟨0x052, 2, 4, false⟩,
  ⟨0x053, 1, 4, false⟩,
  ⟨0x054, 1, 4, false⟩,
  ⟨0x080, 2, 4, false⟩,
  ⟨0x081, 2, 0, false⟩,
  ⟨0x082, 2, 0, false⟩,
  ⟨0x083, 1, 0, false⟩]

/-- Fault sources 0x084 to 0x108, from the source tables of the chapters. -/
def faultTab1 : List FSrc := [
  ⟨0x084, 2, 1, false⟩,
  ⟨0x085, 2, 0, false⟩,
  ⟨0x086, 1, 1, false⟩,
  ⟨0x087, 2, 1, false⟩,
  ⟨0x088, 1, 0, false⟩,
  ⟨0x089, 1, 0, false⟩,
  ⟨0x08A, 2, 3, false⟩,
  ⟨0x08B, 1, 4, false⟩,
  ⟨0x08C, 6, 3, false⟩,
  ⟨0x08D, 1, 4, false⟩,
  ⟨0x08E, 2, 4, false⟩,
  ⟨0x08F, 2, 3, false⟩,
  ⟨0x0C0, 2, 4, false⟩,
  ⟨0x0C1, 2, 4, false⟩,
  ⟨0x0C2, 2, 0, false⟩,
  ⟨0x0C3, 1, 1, false⟩,
  ⟨0x0C4, 2, 1, true⟩,
  ⟨0x0C5, 2, 1, true⟩,
  ⟨0x0C6, 1, 0, false⟩,
  ⟨0x0C7, 1, 4, false⟩,
  ⟨0x0C8, 2, 0, false⟩,
  ⟨0x0C9, 2, 4, false⟩,
  ⟨0x0D0, 7, 0, false⟩,
  ⟨0x0D1, 7, 0, false⟩,
  ⟨0x0D2, 2, 0, false⟩,
  ⟨0x0D3, 2, 0, false⟩,
  ⟨0x0D4, 1, 0, false⟩,
  ⟨0x0D5, 2, 0, true⟩,
  ⟨0x0D6, 5, 0, true⟩,
  ⟨0x0D7, 5, 0, true⟩,
  ⟨0x0D8, 5, 0, false⟩,
  ⟨0x0D9, 1, 4, false⟩,
  ⟨0x0DA, 1, 0, false⟩,
  ⟨0x0DB, 1, 0, false⟩,
  ⟨0x0E0, 2, 0, false⟩,
  ⟨0x0E1, 1, 4, false⟩,
  ⟨0x100, 1, 2, false⟩,
  ⟨0x101, 2, 2, false⟩,
  ⟨0x102, 2, 2, false⟩,
  ⟨0x103, 2, 2, false⟩,
  ⟨0x104, 1, 2, false⟩,
  ⟨0x105, 2, 2, false⟩,
  ⟨0x106, 3, 2, false⟩,
  ⟨0x107, 3, 2, false⟩,
  ⟨0x108, 2, 2, true⟩]

/-- Fault sources 0x109 to 0x1D1, from the source tables of the chapters. -/
def faultTab2 : List FSrc := [
  ⟨0x109, 1, 2, false⟩,
  ⟨0x10A, 1, 2, false⟩,
  ⟨0x110, 1, 1, false⟩,
  ⟨0x111, 2, 1, false⟩,
  ⟨0x112, 1, 1, false⟩,
  ⟨0x113, 2, 1, false⟩,
  ⟨0x114, 2, 1, false⟩,
  ⟨0x115, 2, 1, false⟩,
  ⟨0x116, 2, 1, false⟩,
  ⟨0x117, 1, 1, false⟩,
  ⟨0x118, 1, 2, false⟩,
  ⟨0x119, 2, 1, true⟩,
  ⟨0x11A, 2, 4, false⟩,
  ⟨0x11B, 1, 2, false⟩,
  ⟨0x180, 2, 4, true⟩,
  ⟨0x181, 1, 4, false⟩,
  ⟨0x182, 2, 4, false⟩,
  ⟨0x183, 1, 4, false⟩,
  ⟨0x184, 2, 4, false⟩,
  ⟨0x185, 2, 0, false⟩,
  ⟨0x186, 2, 0, false⟩,
  ⟨0x187, 8, 0, true⟩,
  ⟨0x188, 1, 0, false⟩,
  ⟨0x189, 1, 4, false⟩,
  ⟨0x18A, 2, 4, false⟩,
  ⟨0x18B, 8, 0, false⟩,
  ⟨0x18C, 8, 0, false⟩,
  ⟨0x1A0, 2, 0, true⟩,
  ⟨0x1A1, 2, 0, false⟩,
  ⟨0x1A2, 1, 0, false⟩,
  ⟨0x1A3, 1, 4, false⟩,
  ⟨0x1A4, 1, 4, false⟩,
  ⟨0x1A5, 1, 4, false⟩,
  ⟨0x1C0, 1, 4, false⟩,
  ⟨0x1C1, 1, 4, false⟩,
  ⟨0x1C2, 1, 4, false⟩,
  ⟨0x1C3, 1, 4, false⟩,
  ⟨0x1C4, 1, 4, false⟩,
  ⟨0x1C5, 1, 4, false⟩,
  ⟨0x1C6, 2, 4, false⟩,
  ⟨0x1C7, 1, 4, false⟩,
  ⟨0x1C8, 2, 4, false⟩,
  ⟨0x1C9, 2, 4, false⟩,
  ⟨0x1D0, 2, 3, false⟩,
  ⟨0x1D1, 2, 4, false⟩]

/-- Fault sources 0x1D2 to 0x1E6, from the source tables of the chapters. -/
def faultTab3 : List FSrc := [
  ⟨0x1D2, 1, 4, false⟩,
  ⟨0x1D3, 1, 4, false⟩,
  ⟨0x1D4, 2, 3, false⟩,
  ⟨0x1D5, 1, 4, false⟩,
  ⟨0x1D6, 2, 4, false⟩,
  ⟨0x1D7, 1, 4, false⟩,
  ⟨0x1D8, 6, 4, false⟩,
  ⟨0x1E0, 2, 4, false⟩,
  ⟨0x1E1, 2, 0, false⟩,
  ⟨0x1E2, 2, 0, false⟩,
  ⟨0x1E3, 2, 4, false⟩,
  ⟨0x1E4, 2, 0, false⟩,
  ⟨0x1E5, 1, 0, false⟩,
  ⟨0x1E6, 2, 0, false⟩]

/-- Every fault source a chapter assigns (R452). -/
def faultTab : List FSrc := faultTab0 ++ faultTab1 ++ faultTab2 ++ faultTab3

/-- The row of a source, none when unused (R452). -/
def fsrc? (n : Nat) : Option FSrc := faultTab.find? (fun r => r.n == n)

/-- Default reaction of a source; an unused number reads 0 (R452). -/
def defaultReaction (n : Nat) : Nat := ((fsrc? n).map FSrc.react).getD 0

namespace F

/-- PCIE_LINK_DOWN (chapter 02). -/
def pcieLinkDown : Nat := 0x000
/-- DMA_ERROR (chapter 02). -/
def dmaError : Nat := 0x001
/-- DMA_TIMEOUT (chapter 02). -/
def dmaTimeout : Nat := 0x002
/-- LEASE_EXPIRY (chapter 02). -/
def leaseExpiry : Nat := 0x003
/-- BAD_TOKEN (chapter 02). -/
def badToken : Nat := 0x004
/-- POISONED_TLP (chapter 02). -/
def poisonedTlp : Nat := 0x005
/-- HOB_WATCHDOG (chapter 02). -/
def hobWatchdog : Nat := 0x006
/-- REGION_SCALED (chapter 03). -/
def regionScaled : Nat := 0x007
/-- DRAUGHT_MARGIN (chapter 01). -/
def draughtMargin : Nat := 0x030
/-- DRAUGHT_CEILING (chapter 01). -/
def draughtCeiling : Nat := 0x031
/-- VCORE_AT_MAX (chapter 01). -/
def vcoreAtMax : Nat := 0x032
/-- VCORE_PMBUS (chapter 01). -/
def vcorePmbus : Nat := 0x033
/-- DRAUGHT_FLOOR (chapter 01). -/
def draughtFloor : Nat := 0x034
/-- FLUE_TIMEOUT (chapter 01). -/
def flueTimeout : Nat := 0x035
/-- TCLK_UNLOCK (chapter 01). -/
def tclkUnlock : Nat := 0x036
/-- TJ_WARN (chapter 17). -/
def tjWarn : Nat := 0x037
/-- TJ_CRIT (chapter 17). -/
def tjCrit : Nat := 0x038
/-- VMON_RANGE (chapter 17). -/
def vmonRange : Nat := 0x039
/-- VREG_ALERT (chapter 17). -/
def vregAlert : Nat := 0x03A
/-- BOARD_SENSOR_FAIL (chapter 17). -/
def boardSensorFail : Nat := 0x03B
/-- LOG_FLASH (chapter 17). -/
def logFlash : Nat := 0x03C
/-- UPDATE_VERIFY (chapter 17). -/
def updateVerify : Nat := 0x03D
/-- FAULT_RESET_LIMIT (chapter 16). -/
def faultResetLimit : Nat := 0x03E
/-- UPDATE_FALLBACK (chapter 17). -/
def updateFallback : Nat := 0x03F
/-- DDR_TRAIN_FAIL (chapter 14). -/
def ddrTrainFail : Nat := 0x040
/-- DDR_TRAIN_MARGIN (chapter 14). -/
def ddrTrainMargin : Nat := 0x041
/-- DDR_CA_PARITY (chapter 14). -/
def ddrCaParity : Nat := 0x042
/-- DDR_WRITE_CRC (chapter 14). -/
def ddrWriteCrc : Nat := 0x043
/-- DDR_CHANNEL_OFFLINE (chapter 14). -/
def ddrChannelOffline : Nat := 0x044
/-- DDR_ECC_CORR (chapter 14). -/
def ddrEccCorr : Nat := 0x045
/-- DDR_ECC_REREAD (chapter 14). -/
def ddrEccReread : Nat := 0x046
/-- DDR_ECC_POISON (chapter 14). -/
def ddrEccPoison : Nat := 0x047
/-- DDR_REFRESH_DOUBLE (chapter 14). -/
def ddrRefreshDouble : Nat := 0x048
/-- DDR_TEMP_STALE (chapter 14). -/
def ddrTempStale : Nat := 0x049
/-- DDR_OVERTEMP (chapter 14). -/
def ddrOvertemp : Nat := 0x04A
/-- DDR_QOS_LATE (chapter 14). -/
def ddrQosLate : Nat := 0x04B
/-- SCRATCH_ECC_CORR (chapter 15). -/
def scratchEccCorr : Nat := 0x050
/-- SCRATCH_ECC (chapter 15). -/
def scratchEcc : Nat := 0x051
/-- SECURE_SCRATCH_DENIED (chapter 15). -/
def secureScratchDenied : Nat := 0x052
/-- CODEC_STREAM (chapter 15). -/
def codecStream : Nat := 0x053
/-- SCAN_POISON (chapter 15). -/
def scanPoison : Nat := 0x054
/-- HOPPER_STARVED (chapter 03). -/
def hopperStarved : Nat := 0x080
/-- HOPPER_LOW (chapter 03). -/
def hopperLow : Nat := 0x081
/-- HOPPER_RECORD_BAD (chapter 03). -/
def hopperRecordBad : Nat := 0x082
/-- STAGE_CHECK (chapter 03). -/
def stageCheck : Nat := 0x083
/-- FETCH_LATE (chapter 04). -/
def fetchLate : Nat := 0x084
/-- RASTER_POISON (chapter 04). -/
def rasterPoison : Nat := 0x085
/-- EASEL_ECC_CORR (chapter 04). -/
def easelEccCorr : Nat := 0x086
/-- EASEL_ECC (chapter 04). -/
def easelEcc : Nat := 0x087
/-- DEFECT_OVERFLOW (chapter 04). -/
def defectOverflow : Nat := 0x088
/-- TABLE_ECC_CORR (chapter 05). -/
def tableEccCorr : Nat := 0x089
/-- TABLE_ECC (chapter 05). -/
def tableEcc : Nat := 0x08A
/-- SUB_UNCOVERED (chapter 05). -/
def subUncovered : Nat := 0x08B
/-- GRATE_WATCHDOG (chapter 05). -/
def grateWatchdog : Nat := 0x08C
/-- LEDGER_ECC_CORR (chapter 20). -/
def ledgerEccCorr : Nat := 0x08D
/-- LEDGER_ECC (chapter 20). -/
def ledgerEcc : Nat := 0x08E
/-- BAR_LATE (chapter 04). -/
def barLate : Nat := 0x08F
/-- LATE_LINE (chapter 06). -/
def lateLine : Nat := 0x0C0
/-- LINE_SKIP (chapter 06). -/
def lineSkip : Nat := 0x0C1
/-- FIRE_OVERSPEED (chapter 06). -/
def fireOverspeed : Nat := 0x0C2
/-- HEAD_TEMP_SOFT (chapter 06). -/
def headTempSoft : Nat := 0x0C3
/-- HEAD_TEMP_HARD (chapter 06). -/
def headTempHard : Nat := 0x0C4
/-- HEAD_TEMP_STALE (chapter 06). -/
def headTempStale : Nat := 0x0C5
/-- EMBER_ECC_CORR (chapter 06). -/
def emberEccCorr : Nat := 0x0C6
/-- EMBER_ECC (chapter 06). -/
def emberEcc : Nat := 0x0C7
/-- EMBER_TABLE_ECC (chapter 06). -/
def emberTableEcc : Nat := 0x0C8
/-- DESC_CRC (chapter 06). -/
def descCrc : Nat := 0x0C9
/-- FB_ACTIVE_HB (chapter 07). -/
def fbActiveHb : Nat := 0x0D0
/-- FB_ACTIVE_WRONG (chapter 07). -/
def fbActiveWrong : Nat := 0x0D1
/-- FB_STANDBY_HB (chapter 07). -/
def fbStandbyHb : Nat := 0x0D2
/-- FB_STANDBY_WRONG (chapter 07). -/
def fbStandbyWrong : Nat := 0x0D3
/-- FB_MISMATCH (chapter 07). -/
def fbMismatch : Nat := 0x0D4
/-- FB_LINK (chapter 07). -/
def fbLink : Nat := 0x0D5
/-- FB_BOTH_HB (chapter 07). -/
def fbBothHb : Nat := 0x0D6
/-- FB_NO_STANDBY (chapter 07). -/
def fbNoStandby : Nat := 0x0D7
/-- FB_POSITION (chapter 07). -/
def fbPosition : Nat := 0x0D8
/-- FB_LOST_LINES (chapter 07). -/
def fbLostLines : Nat := 0x0D9
/-- FB_RESYNC_FAIL (chapter 07). -/
def fbResyncFail : Nat := 0x0DA
/-- FB_RETURN (chapter 07). -/
def fbReturn : Nat := 0x0DB
/-- SPLICE_BANK_LATE (chapter 03). -/
def spliceBankLate : Nat := 0x0E0
/-- JOB_RAN_OUT (chapter 03). -/
def jobRanOut : Nat := 0x0E1
/-- LANE_ABSENT (chapter 08). -/
def laneAbsent : Nat := 0x100
/-- LANE_TRAIN_FAIL (chapter 08). -/
def laneTrainFail : Nat := 0x101
/-- LANE_CAP_FAIL (chapter 08). -/
def laneCapFail : Nat := 0x102
/-- LANE_BUDGET (chapter 08). -/
def laneBudget : Nat := 0x103
/-- LANE_RELOCK (chapter 08). -/
def laneRelock : Nat := 0x104
/-- LANE_DOWN (chapter 08). -/
def laneDown : Nat := 0x105
/-- LANE_NO_SPARE (chapter 08). -/
def laneNoSpare : Nat := 0x106
/-- SPARE_FAIL (chapter 08). -/
def spareFail : Nat := 0x107
/-- SPARE_NOT_READY (chapter 08). -/
def spareNotReady : Nat := 0x108
/-- LANE_HDR_ERR (chapter 08). -/
def laneHdrErr : Nat := 0x109
/-- LANE_RETURN (chapter 08). -/
def laneReturn : Nat := 0x10A
/-- HEAD_FRAME_CRC (chapter 09). -/
def headFrameCrc : Nat := 0x110
/-- HEAD_REPEAT (chapter 09). -/
def headRepeat : Nat := 0x111
/-- HEAD_FIRE_MISS (chapter 09). -/
def headFireMiss : Nat := 0x112
/-- FRAME_UNSENT (chapter 09). -/
def frameUnsent : Nat := 0x113
/-- HEAD_ERROR (chapter 09). -/
def headError : Nat := 0x114
/-- HEAD_CARD_BAD (chapter 09). -/
def headCardBad : Nat := 0x115
/-- HEAD_CHANGED (chapter 09). -/
def headChanged : Nat := 0x116
/-- HEAD_INFO_TIMEOUT (chapter 09). -/
def headInfoTimeout : Nat := 0x117
/-- LINK_TIME_DRIFT (chapter 09). -/
def linkTimeDrift : Nat := 0x118
/-- LINK_TIME_LOST (chapter 09). -/
def linkTimeLost : Nat := 0x119
/-- LEGACY_LATE (chapter 09). -/
def legacyLate : Nat := 0x11A
/-- UPSTREAM_BAD (chapter 09). -/
def upstreamBad : Nat := 0x11B
/-- ENC_WIRE (chapter 10). -/
def encWire : Nat := 0x180
/-- QSKIP (chapter 10). -/
def qskip : Nat := 0x181
/-- QAMBIG (chapter 10). -/
def qambig : Nat := 0x182
/-- INDEX_DRIFT (chapter 10). -/
def indexDrift : Nat := 0x183
/-- INDEX_SLIP (chapter 10). -/
def indexSlip : Nat := 0x184
/-- REVERSE (chapter 10). -/
def reverse : Nat := 0x185
/-- ENC_SWITCH (chapter 10). -/
def encSwitch : Nat := 0x186
/-- ENC_LOST (chapter 10). -/
def encLost : Nat := 0x187
/-- ENC_TRACK (chapter 10). -/
def encTrack : Nat := 0x188
/-- MARK_MISSING (chapter 10). -/
def markMissing : Nat := 0x189
/-- MARK_LOST (chapter 10). -/
def markLost : Nat := 0x18A
/-- CEILING_IGNORED (chapter 10). -/
def ceilingIgnored : Nat := 0x18B
/-- DAMPER_WATCHDOG (chapter 16). -/
def damperWatchdog : Nat := 0x18C
/-- PTP_LOST (chapter 11). -/
def ptpLost : Nat := 0x1A0
/-- PTP_STEP_REFUSED (chapter 11). -/
def ptpStepRefused : Nat := 0x1A1
/-- TIME_RATE_LIMIT (chapter 11). -/
def timeRateLimit : Nat := 0x1A2
/-- SCHED_LATE (chapter 11). -/
def schedLate : Nat := 0x1A3
/-- TRIG_OVERRUN (chapter 11). -/
def trigOverrun : Nat := 0x1A4
/-- PTP_TS_LOST (chapter 11). -/
def ptpTsLost : Nat := 0x1A5
/-- CSI_HDR_ECC (chapter 12). -/
def csiHdrEcc : Nat := 0x1C0
/-- CSI_CRC (chapter 12). -/
def csiCrc : Nat := 0x1C1
/-- CSI_PHY_ERR (chapter 12). -/
def csiPhyErr : Nat := 0x1C2
/-- FRAME_SHORT (chapter 12). -/
def frameShort : Nat := 0x1C3
/-- FRAME_LONG (chapter 12). -/
def frameLong : Nat := 0x1C4
/-- LINE_WIDTH (chapter 12). -/
def lineWidth : Nat := 0x1C5
/-- FRAME_DROPPED (chapter 12). -/
def frameDropped : Nat := 0x1C6
/-- TRIG_UNMATCHED (chapter 12). -/
def trigUnmatched : Nat := 0x1C7
/-- CAM_NO_FRAME (chapter 12). -/
def camNoFrame : Nat := 0x1C8
/-- NOZZLE_RING_FULL (chapter 12). -/
def nozzleRingFull : Nat := 0x1C9
/-- ZONE_STALE (chapter 13). -/
def zoneStale : Nat := 0x1D0
/-- ZONE_LIMIT (chapter 13). -/
def zoneLimit : Nat := 0x1D1
/-- NOZZLE_OUT (chapter 13). -/
def nozzleOut : Nat := 0x1D2
/-- NOZZLE_WEAK (chapter 13). -/
def nozzleWeak : Nat := 0x1D3
/-- CHECK_SUSPECT (chapter 13). -/
def checkSuspect : Nat := 0x1D4
/-- LOOP_CONFIG (chapter 13). -/
def loopConfig : Nat := 0x1D5
/-- MEMORY_SAVE_FAIL (chapter 13). -/
def memorySaveFail : Nat := 0x1D6
/-- CHECK_AGE (chapter 13). -/
def checkAge : Nat := 0x1D7
/-- LOUPE_WATCHDOG (chapter 16). -/
def loupeWatchdog : Nat := 0x1D8
/-- TAMPER (chapter 17). -/
def tamper : Nat := 0x1E0
/-- TAMPER_RECORDED (chapter 17). -/
def tamperRecorded : Nat := 0x1E1
/-- LC_MISMATCH (chapter 17). -/
def lcMismatch : Nat := 0x1E2
/-- DECRYPT_AUTH (chapter 17). -/
def decryptAuth : Nat := 0x1E3
/-- KEY_UNWRAP (chapter 17). -/
def keyUnwrap : Nat := 0x1E4
/-- UNLOCK_FAIL (chapter 17). -/
def unlockFail : Nat := 0x1E5
/-- VBAT_LOST (chapter 17). -/
def vbatLost : Nat := 0x1E6

end F

namespace P

/-- `manage.draught.hi_ratio` (chapter 01). -/
def manageDraughtHiRatio : PKey := ⟨0xA0300001, 295⟩
/-- `manage.draught.lo_ratio` (chapter 01). -/
def manageDraughtLoRatio : PKey := ⟨0xA0300002, 269⟩
/-- `manage.draught.relax_ratio` (chapter 01). -/
def manageDraughtRelaxRatio : PKey := ⟨0xA0300003, 333⟩
/-- `manage.draught.window_lines` (chapter 01). -/
def manageDraughtWindowLines : PKey := ⟨0xA0300004, 1024⟩
/-- `manage.draught.relax_windows` (chapter 01). -/
def manageDraughtRelaxWindows : PKey := ⟨0xA0300005, 64⟩
/-- `manage.draught.monitor[m].min_ratio` (chapter 01). -/
def manageDraughtMonitorMinRatio (i : Nat) : PKey := ⟨0xA0300020 + 256 * i, 65535⟩
/-- `manage.vcore.step_mv` (chapter 01). -/
def manageVcoreStepMv : PKey := ⟨0xA0300010, 5⟩
/-- `manage.vcore.min_mv` (chapter 01). -/
def manageVcoreMinMv : PKey := ⟨0xA0300011, 680⟩
/-- `manage.vcore.max_mv` (chapter 01). -/
def manageVcoreMaxMv : PKey := ⟨0xA0300012, 860⟩
/-- `manage.vcore.start_mv` (chapter 01). -/
def manageVcoreStartMv : PKey := ⟨0xA0300013, 760⟩
/-- `manage.flue.timeout_us` (chapter 01). -/
def manageFlueTimeoutUs : PKey := ⟨0xA0400001, 100⟩
/-- `motion.ceiling.draught_step_pm` (chapter 01). -/
def motionCeilingDraughtStepPm : PKey := ⟨0x50400001, 20⟩
/-- `motion.ceiling.draught_min_lines` (chapter 01). -/
def motionCeilingDraughtMinLines : PKey := ⟨0x50400002, 256⟩
/-- `motion.ceiling.recover_lines` (chapter 01). -/
def motionCeilingRecoverLines : PKey := ⟨0x50400003, 65536⟩
/-- `motion.ceiling.recover_step_pm` (chapter 01). -/
def motionCeilingRecoverStepPm : PKey := ⟨0x50400004, 10⟩
/-- `motion.ceiling.draught_floor_lps` (chapter 01). -/
def motionCeilingDraughtFloorLps : PKey := ⟨0x50400005, 6000⟩
/-- `host.session.lease_ms` (chapter 02). -/
def hostSessionLeaseMs : PKey := ⟨0x10100001, 2000⟩
/-- `host.remote.enable` (chapter 02). -/
def hostRemoteEnable : PKey := ⟨0x10200001, 0⟩
/-- `host.remote.port_mask` (chapter 02). -/
def hostRemotePortMask : PKey := ⟨0x10200002, 3⟩
/-- `host.job.library_mb` (chapter 03). -/
def hostJobLibraryMb : PKey := ⟨0x10300001, 8192⟩
/-- `host.job.stage_mb` (chapter 03). -/
def hostJobStageMb : PKey := ⟨0x10300002, 16384⟩
/-- `raster.hopper[r].low_ms` (chapter 03). -/
def rasterHopperLowMs (i : Nat) : PKey := ⟨0x20100001 + 256 * i, 10000⟩
/-- `raster.hopper.report_bound` (chapter 03). -/
def rasterHopperReportBound : PKey := ⟨0x20101001, 0⟩
/-- `fire.splice.lead_lines` (chapter 03). -/
def fireSpliceLeadLines : PKey := ⟨0x30500001, 4096⟩
/-- `motion.ceiling.stop_ms` (chapter 03). -/
def motionCeilingStopMs : PKey := ⟨0x50400010, 4000⟩
/-- `motion.ceiling.guard_ms` (chapter 03). -/
def motionCeilingGuardMs : PKey := ⟨0x50400011, 500⟩
/-- `raster.bar[b].offset_wu` (chapter 04). -/
def rasterBarOffsetWu (i : Nat) : PKey := ⟨0x20200001 + 256 * i, 0⟩
/-- `raster.bar[b].x_origin` (chapter 04). -/
def rasterBarXOrigin (i : Nat) : PKey := ⟨0x20200002 + 256 * i, 0⟩
/-- `raster.bar[b].slot_mask` (chapter 04). -/
def rasterBarSlotMask (i : Nat) : PKey := ⟨0x20200003 + 256 * i, 0⟩
/-- `raster.bar[b].slot[s].x0` (chapter 04). -/
def rasterBarSlotX0 (i : Nat) : PKey := ⟨0x20300001 + 256 * i, 5120 * (i % 20)⟩
/-- `raster.bar[b].slot[s].orient` (chapter 04). -/
def rasterBarSlotOrient (i : Nat) : PKey := ⟨0x20300002 + 256 * i, 0⟩
/-- `raster.bar[b].slot[s].offset_wu` (chapter 04). -/
def rasterBarSlotOffsetWu (i : Nat) : PKey := ⟨0x20300003 + 256 * i, 0⟩
/-- `raster.bar[b].slot[s].split` (chapter 04). -/
def rasterBarSlotSplit (i : Nat) : PKey := ⟨0x20300004 + 256 * i, 0⟩
/-- `raster.bar[b].slot[s].rowgroup[g].offset_wu` (chapter 04). -/
def rasterBarSlotRowgroupOffsetWu (i : Nat) : PKey := ⟨0x20400001 + 256 * i, 0⟩
/-- `raster.bar[b].slot[s].row[row].delay_wu` (chapter 04). -/
def rasterBarSlotRowDelayWu (i : Nat) : PKey := ⟨0x20500001 + 256 * i, 0⟩
/-- `raster.fetch.lead_lines` (chapter 04). -/
def rasterFetchLeadLines : PKey := ⟨0x20600001, 6⟩
/-- `raster.bar[b].sub_enable` (chapter 05). -/
def rasterBarSubEnable (i : Nat) : PKey := ⟨0x20700001 + 256 * i, 1⟩
/-- `raster.twin[p].mode` (chapter 05). -/
def rasterTwinMode (i : Nat) : PKey := ⟨0x20800001 + 256 * i, 0⟩
/-- `raster.twin[p].bar_a` (chapter 05). -/
def rasterTwinBarA (i : Nat) : PKey := ⟨0x20800002 + 256 * i, 2 * i⟩
/-- `raster.twin[p].bar_b` (chapter 05). -/
def rasterTwinBarB (i : Nat) : PKey := ⟨0x20800003 + 256 * i, 2 * i + 1⟩
/-- `raster.twin[p].sub_quarters` (chapter 05). -/
def rasterTwinSubQuarters (i : Nat) : PKey := ⟨0x20800004 + 256 * i, 2⟩
/-- `raster.twin[p].mask_row[i]` (chapter 05). -/
def rasterTwinMaskRow (i : Nat) (j : Nat) : PKey := ⟨0x20800010 + 256 * i + j, if j % 2 = 0 then 0xAAAA else 0x5555⟩
/-- `fire.bar[b].ember.class[k].boost` (chapter 06). -/
def fireBarEmberClassBoost (i : Nat) : PKey := ⟨0x31100001 + 256 * i, 4294617088⟩
/-- `fire.bar[b].ember.class[k].tickle_idle` (chapter 06). -/
def fireBarEmberClassTickleIdle (i : Nat) : PKey := ⟨0x31100002 + 256 * i, 0⟩
/-- `fire.bar[b].ember.class[k].table[w]` (chapter 06). -/
def fireBarEmberClassTable (i : Nat) (j : Nat) : PKey := ⟨0x31100010 + 256 * i + j, if j = 0 then 0xEAEAEAEA else if j < 4 then 0x959595EA else if j % 4 = 0 then 0x95959595 else 0x40404095⟩
/-- `fire.bar[b].ember.enable` (chapter 06). -/
def fireBarEmberEnable (i : Nat) : PKey := ⟨0x31200001 + 256 * i, 1⟩
/-- `fire.bar[b].ember.fixed_variant` (chapter 06). -/
def fireBarEmberFixedVariant (i : Nat) : PKey := ⟨0x31200002 + 256 * i, 1⟩
/-- `fire.bar[b].ember.derate_map_lo` (chapter 06). -/
def fireBarEmberDerateMapLo (i : Nat) : PKey := ⟨0x31200004 + 256 * i, 1985229328⟩
/-- `fire.bar[b].ember.derate_map_hi` (chapter 06). -/
def fireBarEmberDerateMapHi (i : Nat) : PKey := ⟨0x31200005 + 256 * i, 4275878552⟩
/-- `fire.mode` (chapter 06). -/
def fireMode : PKey := ⟨0x31300001, 0⟩
/-- `fire.auto.sched_min_hz` (chapter 06). -/
def fireAutoSchedMinHz : PKey := ⟨0x31300002, 20000⟩
/-- `fire.auto.edge_below_hz` (chapter 06). -/
def fireAutoEdgeBelowHz : PKey := ⟨0x31300003, 10000⟩
/-- `fire.sched.freeze_tclk` (chapter 06). -/
def fireSchedFreezeTclk : PKey := ⟨0x31300004, 320⟩
/-- `fire.sched.advance_tclk` (chapter 06). -/
def fireSchedAdvanceTclk : PKey := ⟨0x31300005, 256⟩
/-- `fire.bar[b].slot[s].phase` (chapter 06). -/
def fireBarSlotPhase (i : Nat) : PKey := ⟨0x31400001 + 256 * i, 0⟩
/-- `fire.bar[b].slot[s].temp_soft` (chapter 06). -/
def fireBarSlotTempSoft (i : Nat) : PKey := ⟨0x31600001 + 256 * i, 450⟩
/-- `fire.bar[b].slot[s].temp_hard` (chapter 06). -/
def fireBarSlotTempHard (i : Nat) : PKey := ⟨0x31600002 + 256 * i, 500⟩
/-- `fire.bar[b].slot[s].temp_hyst` (chapter 06). -/
def fireBarSlotTempHyst (i : Nat) : PKey := ⟨0x31600003 + 256 * i, 30⟩
/-- `fire.bar[b].slot[s].auto_unmute` (chapter 06). -/
def fireBarSlotAutoUnmute (i : Nat) : PKey := ⟨0x31600004 + 256 * i, 0⟩
/-- `fire.temp.derate_pm` (chapter 06). -/
def fireTempDeratePm : PKey := ⟨0x31700001, 200⟩
/-- `fire.temp.stale_ms` (chapter 06). -/
def fireTempStaleMs : PKey := ⟨0x31700002, 100⟩
/-- `fire.fb.hb_miss` (chapter 07). -/
def fireFbHbMiss : PKey := ⟨0x31800001, 3⟩
/-- `fire.fb.auto_return` (chapter 07). -/
def fireFbAutoReturn : PKey := ⟨0x31800002, 1⟩
/-- `fire.fb.return_lines` (chapter 07). -/
def fireFbReturnLines : PKey := ⟨0x31800003, 1000000⟩
/-- `fire.fb.resync_lines` (chapter 07). -/
def fireFbResyncLines : PKey := ⟨0x31800004, 4096⟩
/-- `fire.fb.resync_retry_lines` (chapter 07). -/
def fireFbResyncRetryLines : PKey := ⟨0x31800005, 65536⟩
/-- `link.lane[lane].enable` (chapter 08). -/
def linkLaneEnable (i : Nat) : PKey := ⟨0x40100001 + 256 * i, 0⟩
/-- `link.lane[lane].rate` (chapter 08). -/
def linkLaneRate (i : Nat) : PKey := ⟨0x40100002 + 256 * i, 1⟩
/-- `link.lane[lane].first_slot` (chapter 08). -/
def linkLaneFirstSlot (i : Nat) : PKey := ⟨0x40100003 + 256 * i, 5 * (i % 4)⟩
/-- `link.lane[lane].tx_preset` (chapter 08). -/
def linkLaneTxPreset (i : Nat) : PKey := ⟨0x40100004 + 256 * i, 3⟩
/-- `link.spare[k].enable` (chapter 08). -/
def linkSpareEnable (i : Nat) : PKey := ⟨0x40200001 + 256 * i, 1⟩
/-- `link.spare[k].check_ms` (chapter 08). -/
def linkSpareCheckMs (i : Nat) : PKey := ⟨0x40200002 + 256 * i, 1000⟩
/-- `link.lane.detect_ms` (chapter 08). -/
def linkLaneDetectMs : PKey := ⟨0x40300001, 100⟩
/-- `link.lane.relock_us` (chapter 08). -/
def linkLaneRelockUs : PKey := ⟨0x40300002, 200⟩
/-- `link.lane.retry_ms` (chapter 08). -/
def linkLaneRetryMs : PKey := ⟨0x40300003, 1000⟩
/-- `link.lane.hdr_err_limit` (chapter 08). -/
def linkLaneHdrErrLimit : PKey := ⟨0x40300004, 100⟩
/-- `link.spare.auto_return` (chapter 08). -/
def linkSpareAutoReturn : PKey := ⟨0x40300005, 0⟩
/-- `link.spare.return_s` (chapter 08). -/
def linkSpareReturnS : PKey := ⟨0x40300006, 60⟩
/-- `link.head.echo_ms` (chapter 09). -/
def linkHeadEchoMs : PKey := ⟨0x40600001, 10⟩
/-- `link.head.info_timeout_us` (chapter 09). -/
def linkHeadInfoTimeoutUs : PKey := ⟨0x40600002, 100⟩
/-- `link.legacy.slot[k].enable` (chapter 09). -/
def linkLegacySlotEnable (i : Nat) : PKey := ⟨0x40700001 + 256 * i, 0⟩
/-- `link.legacy.slot[k].bar` (chapter 09). -/
def linkLegacySlotBar (i : Nat) : PKey := ⟨0x40700002 + 256 * i, 0⟩
/-- `link.legacy.slot[k].slot` (chapter 09). -/
def linkLegacySlotSlot (i : Nat) : PKey := ⟨0x40700003 + 256 * i, i⟩
/-- `link.legacy.slot[k].temp_sensor` (chapter 09). -/
def linkLegacySlotTempSensor (i : Nat) : PKey := ⟨0x40700004 + 256 * i, 255⟩
/-- `link.legacy.sck_div` (chapter 09). -/
def linkLegacySckDiv : PKey := ⟨0x40800001, 5⟩
/-- `link.legacy.strobe_tclk` (chapter 09). -/
def linkLegacyStrobeTclk : PKey := ⟨0x40800002, 1000⟩
/-- `motion.enc[c].enable` (chapter 10). -/
def motionEncEnable (i : Nat) : PKey := ⟨0x50100001 + 256 * i, 0⟩
/-- `motion.enc[c].filter` (chapter 10). -/
def motionEncFilter (i : Nat) : PKey := ⟨0x50100002 + 256 * i, 2⟩
/-- `motion.enc[c].invert` (chapter 10). -/
def motionEncInvert (i : Nat) : PKey := ⟨0x50100003 + 256 * i, 0⟩
/-- `motion.enc[c].wire_tclk` (chapter 10). -/
def motionEncWireTclk (i : Nat) : PKey := ⟨0x50100004 + 256 * i, 625⟩
/-- `motion.enc[c].count_wu` (chapter 10). -/
def motionEncCountWu (i : Nat) : PKey := ⟨0x50100005 + 256 * i, 16777216⟩
/-- `motion.enc[c].cpr` (chapter 10). -/
def motionEncCpr (i : Nat) : PKey := ⟨0x50100006 + 256 * i, 0⟩
/-- `motion.enc[c].index_tol` (chapter 10). -/
def motionEncIndexTol (i : Nat) : PKey := ⟨0x50100007 + 256 * i, 4⟩
/-- `motion.enc[c].index_correct` (chapter 10). -/
def motionEncIndexCorrect (i : Nat) : PKey := ⟨0x50100008 + 256 * i, 0⟩
/-- `motion.fire.channel` (chapter 10). -/
def motionFireChannel : PKey := ⟨0x50200001, 0⟩
/-- `motion.fire.backup` (chapter 10). -/
def motionFireBackup : PKey := ⟨0x50200002, 255⟩
/-- `motion.fire.pitch` (chapter 10). -/
def motionFirePitch : PKey := ⟨0x50200003, 1200⟩
/-- `motion.fire.revwin` (chapter 10). -/
def motionFireRevwin : PKey := ⟨0x50200004, 2⟩
/-- `motion.fire.track_tol_wu` (chapter 10). -/
def motionFireTrackTolWu : PKey := ⟨0x50200005, 720⟩
/-- `motion.vel.window_edges` (chapter 10). -/
def motionVelWindowEdges : PKey := ⟨0x50300001, 64⟩
/-- `motion.vel.stop_ms` (chapter 10). -/
def motionVelStopMs : PKey := ⟨0x50300002, 20⟩
/-- `motion.ceiling.press_max_lps` (chapter 10). -/
def motionCeilingPressMaxLps : PKey := ⟨0x50400020, 120000⟩
/-- `motion.ceiling.hold_lps` (chapter 10). -/
def motionCeilingHoldLps : PKey := ⟨0x50400022, 0⟩
/-- `motion.ceiling.over_tol_pm` (chapter 10). -/
def motionCeilingOverTolPm : PKey := ⟨0x50400023, 20⟩
/-- `motion.mark[k].enable` (chapter 10). -/
def motionMarkEnable (i : Nat) : PKey := ⟨0x50500001 + 256 * i, 0⟩
/-- `motion.mark[k].polarity` (chapter 10). -/
def motionMarkPolarity (i : Nat) : PKey := ⟨0x50500002 + 256 * i, 0⟩
/-- `motion.mark[k].filter` (chapter 10). -/
def motionMarkFilter (i : Nat) : PKey := ⟨0x50500003 + 256 * i, 16⟩
/-- `motion.mark[k].to_datum_wu` (chapter 10). -/
def motionMarkToDatumWu (i : Nat) : PKey := ⟨0x50500004 + 256 * i, 0⟩
/-- `motion.mark[k].pitch_wu` (chapter 10). -/
def motionMarkPitchWu (i : Nat) : PKey := ⟨0x50500005 + 256 * i, 72000⟩
/-- `motion.mark[k].window_wu` (chapter 10). -/
def motionMarkWindowWu (i : Nat) : PKey := ⟨0x50500006 + 256 * i, 360⟩
/-- `motion.mark[k].lock_marks` (chapter 10). -/
def motionMarkLockMarks (i : Nat) : PKey := ⟨0x50500007 + 256 * i, 3⟩
/-- `motion.mark[k].flywheel_max` (chapter 10). -/
def motionMarkFlywheelMax (i : Nat) : PKey := ⟨0x50500008 + 256 * i, 4⟩
/-- `motion.mark[k].trim` (chapter 10). -/
def motionMarkTrim (i : Nat) : PKey := ⟨0x50500009 + 256 * i, 0⟩
/-- `motion.mark[k].trim_max_wu` (chapter 10). -/
def motionMarkTrimMaxWu (i : Nat) : PKey := ⟨0x5050000A + 256 * i, 36⟩
/-- `motion.dac.full_lps` (chapter 10). -/
def motionDacFullLps : PKey := ⟨0x50600001, 120000⟩
/-- `motion.msg.enable` (chapter 10). -/
def motionMsgEnable : PKey := ⟨0x50600002, 0⟩
/-- `motion.msg.port_mask` (chapter 10). -/
def motionMsgPortMask : PKey := ⟨0x50600003, 1⟩
/-- `motion.msg.ip` (chapter 10). -/
def motionMsgIp : PKey := ⟨0x50600004, 4294967295⟩
/-- `motion.msg.udp_port` (chapter 10). -/
def motionMsgUdpPort : PKey := ⟨0x50600005, 47631⟩
/-- `motion.msg.period_ms` (chapter 10). -/
def motionMsgPeriodMs : PKey := ⟨0x50600006, 10⟩
/-- `time.clock.rate_set_ppt` (chapter 11). -/
def timeClockRateSetPpt : PKey := ⟨0x60100002, 0⟩
/-- `time.ptp.enable` (chapter 11). -/
def timePtpEnable : PKey := ⟨0x60200001, 0⟩
/-- `time.ptp.port` (chapter 11). -/
def timePtpPort : PKey := ⟨0x60200002, 0⟩
/-- `time.ptp.domain` (chapter 11). -/
def timePtpDomain : PKey := ⟨0x60200003, 0⟩
/-- `time.ptp.options` (chapter 11). -/
def timePtpOptions : PKey := ⟨0x60200004, 0⟩
/-- `time.ptp.step_threshold_ns` (chapter 11). -/
def timePtpStepThresholdNs : PKey := ⟨0x60200005, 1000⟩
/-- `time.ptp.lock_ns` (chapter 11). -/
def timePtpLockNs : PKey := ⟨0x60200006, 100⟩
/-- `time.ptp.timeout_ms` (chapter 11). -/
def timePtpTimeoutMs : PKey := ⟨0x60200007, 3000⟩
/-- `time.ptp.kp` (chapter 11). -/
def timePtpKp : PKey := ⟨0x60200008, 45875⟩
/-- `time.ptp.ki` (chapter 11). -/
def timePtpKi : PKey := ⟨0x60200009, 19661⟩
/-- `time.port[e].asymmetry_ns` (chapter 11). -/
def timePortAsymmetryNs (i : Nat) : PKey := ⟨0x60210001 + 256 * i, 0⟩
/-- `time.trig[k].mode` (chapter 11). -/
def timeTrigMode (i : Nat) : PKey := ⟨0x60400001 + 256 * i, 0⟩
/-- `time.trig[k].polarity` (chapter 11). -/
def timeTrigPolarity (i : Nat) : PKey := ⟨0x60400002 + 256 * i, 0⟩
/-- `time.trig[k].width_ns` (chapter 11). -/
def timeTrigWidthNs (i : Nat) : PKey := ⟨0x60400003 + 256 * i, 1000⟩
/-- `time.trig[k].start_line` (chapter 11). -/
def timeTrigStartLine (i : Nat) : PKey := ⟨0x60400004 + 256 * i, 0⟩
/-- `time.trig[k].pitch_lines` (chapter 11). -/
def timeTrigPitchLines (i : Nat) : PKey := ⟨0x60400005 + 256 * i, 1000⟩
/-- `time.trig[k].delay_ns` (chapter 11). -/
def timeTrigDelayNs (i : Nat) : PKey := ⟨0x60400006 + 256 * i, 0⟩
/-- `inspect.port[p].enable` (chapter 12). -/
def inspectPortEnable (i : Nat) : PKey := ⟨0x70100001 + 256 * i, 0⟩
/-- `inspect.port[p].lanes` (chapter 12). -/
def inspectPortLanes (i : Nat) : PKey := ⟨0x70100002 + 256 * i, 4⟩
/-- `inspect.port[p].max_mbps` (chapter 12). -/
def inspectPortMaxMbps (i : Nat) : PKey := ⟨0x70100003 + 256 * i, 2500⟩
/-- `inspect.ctx[c].enable` (chapter 12). -/
def inspectCtxEnable (i : Nat) : PKey := ⟨0x70200001 + 256 * i, 0⟩
/-- `inspect.ctx[c].port` (chapter 12). -/
def inspectCtxPort (i : Nat) : PKey := ⟨0x70200002 + 256 * i, i % 4⟩
/-- `inspect.ctx[c].vc` (chapter 12). -/
def inspectCtxVc (i : Nat) : PKey := ⟨0x70200003 + 256 * i, i / 4⟩
/-- `inspect.ctx[c].data_type` (chapter 12). -/
def inspectCtxDataType (i : Nat) : PKey := ⟨0x70200004 + 256 * i, 44⟩
/-- `inspect.ctx[c].width` (chapter 12). -/
def inspectCtxWidth (i : Nat) : PKey := ⟨0x70200005 + 256 * i, 2048⟩
/-- `inspect.ctx[c].height` (chapter 12). -/
def inspectCtxHeight (i : Nat) : PKey := ⟨0x70200006 + 256 * i, 1024⟩
/-- `inspect.ctx[c].pipe` (chapter 12). -/
def inspectCtxPipe (i : Nat) : PKey := ⟨0x70200007 + 256 * i, i % 2⟩
/-- `inspect.ctx[c].priority` (chapter 12). -/
def inspectCtxPriority (i : Nat) : PKey := ⟨0x70200008 + 256 * i, 1⟩
/-- `inspect.ctx[c].trig` (chapter 12). -/
def inspectCtxTrig (i : Nat) : PKey := ⟨0x70200009 + 256 * i, 255⟩
/-- `inspect.ctx[c].trig_latency_ns` (chapter 12). -/
def inspectCtxTrigLatencyNs (i : Nat) : PKey := ⟨0x7020000A + 256 * i, 1000000⟩
/-- `inspect.ctx[c].pat_w` (chapter 12). -/
def inspectCtxPatW (i : Nat) : PKey := ⟨0x7020000B + 256 * i, 2⟩
/-- `inspect.ctx[c].pat_h` (chapter 12). -/
def inspectCtxPatH (i : Nat) : PKey := ⟨0x7020000C + 256 * i, 2⟩
/-- `inspect.ctx[c].pattern_row[i]` (chapter 12). -/
def inspectCtxPatternRow (i : Nat) (j : Nat) : PKey := ⟨0x7020000D + 256 * i + j, if j = 0 then 0x0010 else if j = 1 then 0x0021 else 0⟩
/-- `inspect.ctx[c].black[j]` (chapter 12). -/
def inspectCtxBlack (i : Nat) (j : Nat) : PKey := ⟨0x70200011 + 256 * i + j, 0⟩
/-- `inspect.ctx[c].shading_enable` (chapter 12). -/
def inspectCtxShadingEnable (i : Nat) : PKey := ⟨0x70200021 + 256 * i, 0⟩
/-- `inspect.ctx[c].frame_timeout_ms` (chapter 12). -/
def inspectCtxFrameTimeoutMs (i : Nat) : PKey := ⟨0x70200022 + 256 * i, 0⟩
/-- `inspect.ctx[c].stream[t].enable` (chapter 12). -/
def inspectCtxStreamEnable (i : Nat) : PKey := ⟨0x70300001 + 256 * i, 0⟩
/-- `inspect.ctx[c].stream[t].x` (chapter 12). -/
def inspectCtxStreamX (i : Nat) : PKey := ⟨0x70300002 + 256 * i, 0⟩
/-- `inspect.ctx[c].stream[t].y` (chapter 12). -/
def inspectCtxStreamY (i : Nat) : PKey := ⟨0x70300003 + 256 * i, 0⟩
/-- `inspect.ctx[c].stream[t].w` (chapter 12). -/
def inspectCtxStreamW (i : Nat) : PKey := ⟨0x70300004 + 256 * i, 256⟩
/-- `inspect.ctx[c].stream[t].h` (chapter 12). -/
def inspectCtxStreamH (i : Nat) : PKey := ⟨0x70300005 + 256 * i, 256⟩
/-- `inspect.ctx[c].stream[t].scale` (chapter 12). -/
def inspectCtxStreamScale (i : Nat) : PKey := ⟨0x70300006 + 256 * i, 1⟩
/-- `inspect.ctx[c].stream[t].planes` (chapter 12). -/
def inspectCtxStreamPlanes (i : Nat) : PKey := ⟨0x70300007 + 256 * i, 2⟩
/-- `inspect.ctx[c].stream[t].format` (chapter 12). -/
def inspectCtxStreamFormat (i : Nat) : PKey := ⟨0x70300008 + 256 * i, 0⟩
/-- `inspect.fifo.pressure_pm` (chapter 12). -/
def inspectFifoPressurePm : PKey := ⟨0x70500001, 750⟩
/-- `loop.bar[b].mode` (chapter 13). -/
def loopBarMode (i : Nat) : PKey := ⟨0x80100001 + 256 * i, 1⟩
/-- `loop.bar[b].check_mode` (chapter 13). -/
def loopBarCheckMode (i : Nat) : PKey := ⟨0x80100002 + 256 * i, 1⟩
/-- `loop.ctx[c].datum_wu` (chapter 13). -/
def loopCtxDatumWu (i : Nat) : PKey := ⟨0x80200001 + 256 * i, 0⟩
/-- `loop.ctx[c].line_wu` (chapter 13). -/
def loopCtxLineWu (i : Nat) : PKey := ⟨0x80200002 + 256 * i, 65536⟩
/-- `loop.ctx[c].col0_q` (chapter 13). -/
def loopCtxCol0Q (i : Nat) : PKey := ⟨0x80200003 + 256 * i, 0⟩
/-- `loop.ctx[c].col_q` (chapter 13). -/
def loopCtxColQ (i : Nat) : PKey := ⟨0x80200004 + 256 * i, 65536⟩
/-- `loop.zone.ki` (chapter 13). -/
def loopZoneKi : PKey := ⟨0x80300001, 64⟩
/-- `loop.zone.step_max` (chapter 13). -/
def loopZoneStepMax : PKey := ⟨0x80300002, 10⟩
/-- `loop.zone.limit` (chapter 13). -/
def loopZoneLimit : PKey := ⟨0x80300003, 300⟩
/-- `loop.zone.deadband` (chapter 13). -/
def loopZoneDeadband : PKey := ⟨0x80300004, 3⟩
/-- `loop.zone.meas_per_update` (chapter 13). -/
def loopZoneMeasPerUpdate : PKey := ⟨0x80300005, 4⟩
/-- `loop.zone.min_overlap` (chapter 13). -/
def loopZoneMinOverlap : PKey := ⟨0x80300006, 128⟩
/-- `loop.ramp_lines` (chapter 13). -/
def loopRampLines : PKey := ⟨0x80300007, 4096⟩
/-- `loop.stale_lines` (chapter 13). -/
def loopStaleLines : PKey := ⟨0x80300008, 262144⟩
/-- `loop.check.out_pm` (chapter 13). -/
def loopCheckOutPm : PKey := ⟨0x80300009, 300⟩
/-- `loop.check.weak_pm` (chapter 13). -/
def loopCheckWeakPm : PKey := ⟨0x8030000A, 750⟩
/-- `loop.check.dev_16ths` (chapter 13). -/
def loopCheckDev16ths : PKey := ⟨0x8030000B, 6⟩
/-- `loop.check.confirm` (chapter 13). -/
def loopCheckConfirm : PKey := ⟨0x8030000C, 2⟩
/-- `loop.check.out_per_check` (chapter 13). -/
def loopCheckOutPerCheck : PKey := ⟨0x8030000D, 64⟩
/-- `loop.trim.gain` (chapter 13). -/
def loopTrimGain : PKey := ⟨0x8030000E, 500⟩
/-- `loop.trim.step_max` (chapter 13). -/
def loopTrimStepMax : PKey := ⟨0x8030000F, 10⟩
/-- `loop.trim.limit` (chapter 13). -/
def loopTrimLimit : PKey := ⟨0x80300010, 200⟩
/-- `loop.trim.deadband` (chapter 13). -/
def loopTrimDeadband : PKey := ⟨0x80300011, 20⟩
/-- `memory.ddr.mts` (chapter 14). -/
def memoryDdrMts : PKey := ⟨0x90100001, 3200⟩
/-- `memory.ddr.width` (chapter 14). -/
def memoryDdrWidth : PKey := ⟨0x90100002, 8⟩
/-- `memory.ddr.density_gbit` (chapter 14). -/
def memoryDdrDensityGbit : PKey := ⟨0x90100003, 16⟩
/-- `memory.ddr.ranks` (chapter 14). -/
def memoryDdrRanks : PKey := ⟨0x90100004, 2⟩
/-- `memory.ddr.map_order` (chapter 14). -/
def memoryDdrMapOrder : PKey := ⟨0x90100005, 0⟩
/-- `memory.ddr.write_crc` (chapter 14). -/
def memoryDdrWriteCrc : PKey := ⟨0x90100006, 1⟩
/-- `memory.ddr.dbi` (chapter 14). -/
def memoryDdrDbi : PKey := ⟨0x90100007, 1⟩
/-- `memory.ddr.min_eye_steps` (chapter 14). -/
def memoryDdrMinEyeSteps : PKey := ⟨0x90100008, 16⟩
/-- `memory.ddr.temp_sensor` (chapter 14). -/
def memoryDdrTempSensor : PKey := ⟨0x90100009, 255⟩
/-- `memory.ddr.scrub_hours` (chapter 14). -/
def memoryDdrScrubHours : PKey := ⟨0x9010000A, 24⟩
/-- `memory.ddr.u1_pm` (chapter 14). -/
def memoryDdrU1Pm : PKey := ⟨0x9010000D, 500⟩
/-- `memory.ddr.u2_pm` (chapter 14). -/
def memoryDdrU2Pm : PKey := ⟨0x9010000E, 750⟩
/-- `memory.ddr.u3_pm` (chapter 14). -/
def memoryDdrU3Pm : PKey := ⟨0x9010000F, 900⟩
/-- `memory.ch[ch].enable` (chapter 14). -/
def memoryChEnable (i : Nat) : PKey := ⟨0x90200001 + 256 * i, 1⟩
/-- `memory.port[q].target_ns` (chapter 14). -/
def memoryPortTargetNs (i : Nat) : PKey := ⟨0x90300001 + 256 * i, if i = 8 then 10000 else if i = 9 then 20000 else if i = 10 then 50000 else if i = 11 then 1000 else 0⟩
/-- `manage.fault.source[n].reaction` (chapter 16). -/
def manageFaultSourceReaction (i : Nat) : PKey := ⟨0xA0500001 + 256 * i, defaultReaction i⟩
/-- `manage.fault.settle_us` (chapter 16). -/
def manageFaultSettleUs : PKey := ⟨0xA0600001, 100⟩
/-- `manage.fault.log_gap_us` (chapter 16). -/
def manageFaultLogGapUs : PKey := ⟨0xA0600002, 1000⟩
/-- `manage.fault.reset_limit` (chapter 16). -/
def manageFaultResetLimit : PKey := ⟨0xA0600003, 3⟩
/-- `manage.tsense.tj_warn` (chapter 17). -/
def manageTsenseTjWarn : PKey := ⟨0xA0700011, 1000⟩
/-- `manage.tsense.tj_crit` (chapter 17). -/
def manageTsenseTjCrit : PKey := ⟨0xA0700012, 1150⟩
/-- `manage.tsense.period_ms` (chapter 17). -/
def manageTsensePeriodMs : PKey := ⟨0xA0700013, 1⟩
/-- `manage.vmon[i].low_mv` (chapter 17). -/
def manageVmonLowMv (i : Nat) : PKey := ⟨0xA0800002 + 256 * i, vmonNominal i * 95 / 100⟩
/-- `manage.vmon[i].high_mv` (chapter 17). -/
def manageVmonHighMv (i : Nat) : PKey := ⟨0xA0800003 + 256 * i, vmonNominal i * 105 / 100⟩
/-- `manage.board[i].config` (chapter 17). -/
def manageBoardConfig (i : Nat) : PKey := ⟨0xA0900001 + 256 * i, 0⟩
/-- `manage.board[i].period_ms` (chapter 17). -/
def manageBoardPeriodMs (i : Nat) : PKey := ⟨0xA0900002 + 256 * i, 10⟩
/-- `manage.pmbus.vcore_addr` (chapter 17). -/
def managePmbusVcoreAddr : PKey := ⟨0xA0A00001, 64⟩
/-- `manage.pmbus.page` (chapter 17). -/
def managePmbusPage : PKey := ⟨0xA0A00002, 255⟩
/-- `manage.log.flush_ms` (chapter 17). -/
def manageLogFlushMs : PKey := ⟨0xA0B00001, 1000⟩
/-- `secure.tamper[k].enable` (chapter 17). -/
def secureTamperEnable (i : Nat) : PKey := ⟨0xB0100001 + 256 * i, 0⟩
/-- `secure.tamper[k].polarity` (chapter 17). -/
def secureTamperPolarity (i : Nat) : PKey := ⟨0xB0100002 + 256 * i, 0⟩
/-- `secure.tamper[k].filter` (chapter 17). -/
def secureTamperFilter (i : Nat) : PKey := ⟨0xB0100003 + 256 * i, 16⟩
/-- `secure.mesh.enable` (chapter 17). -/
def secureMeshEnable : PKey := ⟨0xB0200001, 0⟩
/-- `secure.mesh.miss` (chapter 17). -/
def secureMeshMiss : PKey := ⟨0xB0200002, 2⟩
/-- `manage.trim.dac_slew_mv_ms` (chapter 18). -/
def manageTrimDacSlewMvMs : PKey := ⟨0xA0D00001, 25⟩
/-- `raster.ledger.scrub_ms` (chapter 20). -/
def rasterLedgerScrubMs : PKey := ⟨0x20900004, 1000⟩

end P

/-- Parameter table of chapter 01. -/
def pTab01 : List PRow := [
  ⟨0x50400001, 1, 1, .u16, 5, 100, .now⟩,
  ⟨0x50400002, 1, 1, .u16, 16, 4096, .now⟩,
  ⟨0x50400003, 1, 1, .u32, 4096, 16777216, .now⟩,
  ⟨0x50400004, 1, 1, .u16, 1, 100, .now⟩,
  ⟨0x50400005, 1, 1, .u32, 1000, 120000, .now⟩,
  ⟨0x50400006, 1, 1, .u32, 0, 4294967295, .ro⟩,
  ⟨0xA0300001, 1, 1, .u16, 0, 65535, .now⟩,
  ⟨0xA0300002, 1, 1, .u16, 256, 65535, .now⟩,
  ⟨0xA0300003, 1, 1, .u16, 0, 1024, .now⟩,
  ⟨0xA0300004, 1, 1, .u32, 256, 65536, .now⟩,
  ⟨0xA0300005, 1, 1, .u16, 1, 1024, .now⟩,
  ⟨0xA0300006, 1, 1, .u16, 0, 65535, .ro⟩,
  ⟨0xA0300010, 1, 1, .u8, 1, 20, .now⟩,
  ⟨0xA0300011, 1, 1, .u16, 680, 65535, .now⟩,
  ⟨0xA0300012, 1, 1, .u16, 0, 860, .now⟩,
  ⟨0xA0300013, 1, 1, .u16, 0, 65535, .reset⟩,
  ⟨0xA0300014, 1, 1, .u16, 0, 65535, .ro⟩,
  ⟨0xA0300020, 64, 1, .u16, 65535, 65535, .now⟩,
  ⟨0xA0400001, 1, 1, .u16, 10, 10000, .now⟩]

/-- Parameter table of chapter 02. -/
def pTab02 : List PRow := [
  ⟨0x10100001, 1, 1, .u32, 100, 60000, .now⟩,
  ⟨0x10200001, 1, 1, .u8, 0, 1, .now⟩,
  ⟨0x10200002, 1, 1, .u8, 0, 3, .now⟩]

/-- Parameter table of chapter 03. -/
def pTab03 : List PRow := [
  ⟨0x10300001, 1, 1, .u32, 256, 65536, .reset⟩,
  ⟨0x10300002, 1, 1, .u32, 256, 65536, .reset⟩,
  ⟨0x10300003, 1, 1, .u32, 0, 4294967295, .ro⟩,
  ⟨0x10300004, 1, 1, .u32, 0, 4294967295, .ro⟩,
  ⟨0x20100001, 16, 1, .u32, 0, 600000, .now⟩,
  ⟨0x20100002, 16, 1, .u32, 0, 4294967295, .ro⟩,
  ⟨0x20101001, 1, 1, .u8, 0, 1, .now⟩,
  ⟨0x30500001, 1, 1, .u32, 1024, 1048576, .now⟩,
  ⟨0x30500002, 1, 1, .u32, 0, 4294967295, .ro⟩,
  ⟨0x50400010, 1, 1, .u32, 10, 60000, .now⟩,
  ⟨0x50400011, 1, 1, .u32, 0, 10000, .now⟩,
  ⟨0x50400012, 1, 1, .u32, 0, 4294967295, .ro⟩]

/-- Parameter table of chapter 04. -/
def pTab04 : List PRow := [
  ⟨0x20200001, 8, 1, .u32, 0, 1200000, .splice⟩,
  ⟨0x20200002, 8, 1, .s32, -102399, 102399, .line⟩,
  ⟨0x20200003, 8, 1, .u32, 0, 1048575, .splice⟩,
  ⟨0x20300001, 160, 1, .u32, 0, 97280, .splice⟩,
  ⟨0x20300002, 160, 1, .u8, 0, 1, .splice⟩,
  ⟨0x20300003, 160, 1, .u32, 0, 24576, .splice⟩,
  ⟨0x20300004, 160, 1, .u8, 0, 1, .splice⟩,
  ⟨0x20400001, 320, 1, .u32, 0, 24576, .splice⟩,
  ⟨0x20400002, 320, 1, .u32, 0, 4294967295, .ro⟩,
  ⟨0x20500001, 640, 1, .u16, 0, 768, .splice⟩,
  ⟨0x20600001, 1, 1, .u8, 4, 16, .reset⟩,
  ⟨0x20600002, 1, 1, .u32, 0, 4294967295, .ro⟩,
  ⟨0x20600003, 1, 1, .u32, 0, 4294967295, .ro⟩]

/-- Parameter table of chapter 05. -/
def pTab05 : List PRow := [
  ⟨0x20700001, 8, 1, .u8, 0, 1, .line⟩,
  ⟨0x20700002, 8, 1, .u32, 0, 4294967295, .ro⟩,
  ⟨0x20700003, 8, 1, .u32, 0, 4294967295, .ro⟩,
  ⟨0x20700004, 8, 1, .u32, 0, 4294967295, .ro⟩,
  ⟨0x20800001, 4, 1, .u8, 0, 3, .splice⟩,
  ⟨0x20800002, 4, 1, .u8, 0, 6, .splice⟩,
  ⟨0x20800003, 4, 1, .u8, 1, 7, .splice⟩,
  ⟨0x20800004, 4, 1, .u8, 0, 4, .line⟩,
  ⟨0x20800010, 4, 16, .u16, 0, 65535, .splice⟩]

/-- Parameter table of chapter 06. -/
def pTab06 : List PRow := [
  ⟨0x31100001, 128, 1, .u32, 0, 4294967295, .line⟩,
  ⟨0x31100002, 128, 1, .u8, 0, 15, .line⟩,
  ⟨0x31100010, 128, 16, .u32, 0, 4294967295, .line⟩,
  ⟨0x31200001, 8, 1, .u8, 0, 1, .line⟩,
  ⟨0x31200002, 8, 1, .u8, 0, 3, .line⟩,
  ⟨0x31200003, 8, 1, .u32, 0, 4294967295, .ro⟩,
  ⟨0x31200004, 8, 1, .u32, 0, 4294967295, .line⟩,
  ⟨0x31200005, 8, 1, .u32, 0, 4294967295, .line⟩,
  ⟨0x31300001, 1, 1, .u8, 0, 1, .line⟩,
  ⟨0x31300002, 1, 1, .u32, 100, 25000000, .line⟩,
  ⟨0x31300003, 1, 1, .u32, 50, 4294967295, .line⟩,
  ⟨0x31300004, 1, 1, .u16, 96, 4096, .line⟩,
  ⟨0x31300005, 1, 1, .u16, 64, 65535, .line⟩,
  ⟨0x31300006, 1, 1, .u32, 0, 4294967295, .ro⟩,
  ⟨0x31300007, 1, 1, .u8, 0, 255, .ro⟩,
  ⟨0x31400001, 160, 1, .s8, -128, 127, .line⟩,
  ⟨0x31600001, 160, 1, .s16, 0, 32767, .now⟩,
  ⟨0x31600002, 160, 1, .s16, -32768, 1000, .now⟩,
  ⟨0x31600003, 160, 1, .u16, 5, 200, .now⟩,
  ⟨0x31600004, 160, 1, .u8, 0, 1, .now⟩,
  ⟨0x31600005, 160, 1, .s16, -32768, 32767, .ro⟩,
  ⟨0x31600006, 160, 1, .u8, 0, 255, .ro⟩,
  ⟨0x31700001, 1, 1, .u16, 0, 900, .now⟩,
  ⟨0x31700002, 1, 1, .u16, 10, 10000, .now⟩,
  ⟨0x50400013, 1, 1, .u32, 0, 4294967295, .ro⟩]

/-- Parameter table of chapter 07. -/
def pTab07 : List PRow := [
  ⟨0x31800001, 1, 1, .u8, 2, 4, .now⟩,
  ⟨0x31800002, 1, 1, .u8, 0, 1, .now⟩,
  ⟨0x31800003, 1, 1, .u32, 65536, 16777216, .now⟩,
  ⟨0x31800004, 1, 1, .u32, 1024, 65536, .now⟩,
  ⟨0x31800005, 1, 1, .u32, 4096, 1048576, .now⟩,
  ⟨0x31800006, 1, 1, .u32, 0, 4294967295, .ro⟩,
  ⟨0x31800007, 1, 1, .u32, 0, 4294967295, .ro⟩,
  ⟨0x31800008, 1, 2, .u32, 0, 4294967295, .ro⟩,
  ⟨0x3180000A, 1, 1, .u8, 0, 255, .ro⟩,
  ⟨0x3180000B, 1, 1, .u32, 0, 4294967295, .ro⟩,
  ⟨0x3180000C, 1, 1, .u32, 0, 4294967295, .ro⟩,
  ⟨0x31900001, 2, 1, .u8, 0, 255, .ro⟩]

/-- Parameter table of chapter 08. -/
def pTab08 : List PRow := [
  ⟨0x40100001, 36, 1, .u8, 0, 1, .now⟩,
  ⟨0x40100002, 36, 1, .u8, 0, 1, .now⟩,
  ⟨0x40100003, 36, 1, .u8, 0, 19, .now⟩,
  ⟨0x40100004, 36, 1, .u8, 0, 7, .now⟩,
  ⟨0x40100005, 36, 1, .u8, 0, 255, .ro⟩,
  ⟨0x40100006, 36, 1, .u8, 0, 255, .ro⟩,
  ⟨0x40100007, 36, 1, .u32, 0, 4294967295, .ro⟩,
  ⟨0x40100008, 36, 1, .u32, 0, 4294967295, .ro⟩,
  ⟨0x40100009, 36, 1, .u32, 0, 4294967295, .ro⟩,
  ⟨0x4010000A, 36, 1, .u8, 0, 255, .ro⟩,
  ⟨0x40200001, 4, 1, .u8, 0, 1, .now⟩,
  ⟨0x40200002, 4, 1, .u32, 10, 60000, .now⟩,
  ⟨0x40200003, 4, 1, .u8, 0, 255, .ro⟩,
  ⟨0x40200004, 4, 1, .u8, 0, 255, .ro⟩,
  ⟨0x40300001, 1, 1, .u32, 10, 10000, .now⟩,
  ⟨0x40300002, 1, 1, .u16, 10, 240, .now⟩,
  ⟨0x40300003, 1, 1, .u32, 100, 60000, .now⟩,
  ⟨0x40300004, 1, 1, .u32, 1, 1000000, .now⟩,
  ⟨0x40300005, 1, 1, .u8, 0, 1, .now⟩,
  ⟨0x40300006, 1, 1, .u32, 1, 3600, .now⟩,
  ⟨0x40300007, 1, 1, .u32, 0, 4294967295, .ro⟩]

/-- Parameter table of chapter 09. -/
def pTab09 : List PRow := [
  ⟨0x40400001, 160, 1, .u8, 0, 255, .ro⟩,
  ⟨0x40400002, 160, 1, .u32, 0, 4294967295, .ro⟩,
  ⟨0x40400003, 160, 1, .u32, 0, 4294967295, .ro⟩,
  ⟨0x40400004, 160, 1, .u8, 0, 255, .ro⟩,
  ⟨0x40500001, 36, 1, .u32, 0, 4294967295, .ro⟩,
  ⟨0x40500002, 36, 1, .u32, 0, 4294967295, .ro⟩,
  ⟨0x40500003, 36, 1, .u32, 0, 4294967295, .ro⟩,
  ⟨0x40600001, 1, 1, .u16, 1, 1000, .now⟩,
  ⟨0x40600002, 1, 1, .u16, 60, 10000, .now⟩,
  ⟨0x40700001, 8, 1, .u8, 0, 1, .splice⟩,
  ⟨0x40700002, 8, 1, .u8, 0, 7, .splice⟩,
  ⟨0x40700003, 8, 1, .u8, 0, 19, .splice⟩,
  ⟨0x40700004, 8, 1, .u8, 0, 63, .now⟩,
  ⟨0x40800001, 1, 1, .u8, 5, 20, .reset⟩,
  ⟨0x40800002, 1, 1, .u16, 10, 10000, .line⟩,
  ⟨0x40800003, 1, 1, .u32, 0, 4294967295, .ro⟩]

/-- Parameter table of chapter 10. -/
def pTab10 : List PRow := [
  ⟨0x50100001, 4, 1, .u8, 0, 1, .now⟩,
  ⟨0x50100002, 4, 1, .u8, 0, 15, .now⟩,
  ⟨0x50100003, 4, 1, .u8, 0, 1, .now⟩,
  ⟨0x50100004, 4, 1, .u16, 16, 65535, .now⟩,
  ⟨0x50100005, 4, 1, .u32, 1, 4294967295, .line⟩,
  ⟨0x50100006, 4, 1, .u32, 0, 2147483647, .now⟩,
  ⟨0x50100007, 4, 1, .u16, 1, 65535, .now⟩,
  ⟨0x50100008, 4, 1, .u8, 0, 1, .now⟩,
  ⟨0x50100009, 4, 1, .s32, -2147483648, 2147483647, .ro⟩,
  ⟨0x5010000A, 4, 1, .u32, 0, 4294967295, .ro⟩,
  ⟨0x5010000B, 4, 1, .u8, 0, 255, .ro⟩,
  ⟨0x50200001, 1, 1, .u8, 0, 3, .line⟩,
  ⟨0x50200002, 1, 1, .u8, 0, 3, .line⟩,
  ⟨0x50200003, 1, 1, .u16, 600, 1200, .line⟩,
  ⟨0x50200004, 1, 1, .u16, 0, 1024, .now⟩,
  ⟨0x50200005, 1, 1, .u32, 1, 1000000, .now⟩,
  ⟨0x50200006, 1, 1, .u32, 0, 4294967295, .ro⟩,
  ⟨0x50300001, 1, 1, .u16, 16, 1024, .line⟩,
  ⟨0x50300002, 1, 1, .u16, 1, 1000, .now⟩,
  ⟨0x50300003, 1, 1, .u32, 0, 4294967295, .ro⟩,
  ⟨0x50300004, 1, 1, .u32, 0, 4294967295, .ro⟩,
  ⟨0x50300005, 1, 1, .u8, 0, 255, .ro⟩,
  ⟨0x50400020, 1, 1, .u32, 1000, 120000, .now⟩,
  ⟨0x50400021, 1, 1, .u32, 0, 4294967295, .ro⟩,
  ⟨0x50400022, 1, 1, .u32, 0, 120000, .now⟩,
  ⟨0x50400023, 1, 1, .u16, 0, 200, .now⟩,
  ⟨0x50500001, 4, 1, .u8, 0, 1, .now⟩,
  ⟨0x50500002, 4, 1, .u8, 0, 1, .now⟩,
  ⟨0x50500003, 4, 1, .u8, 0, 255, .now⟩,
  ⟨0x50500004, 4, 1, .u32, 0, 1200000, .now⟩,
  ⟨0x50500005, 4, 1, .u32, 720, 120000000, .now⟩,
  ⟨0x50500006, 4, 1, .u32, 1, 4294967295, .now⟩,
  ⟨0x50500007, 4, 1, .u8, 1, 16, .now⟩,
  ⟨0x50500008, 4, 1, .u8, 1, 255, .now⟩,
  ⟨0x50500009, 4, 1, .u8, 0, 1, .now⟩,
  ⟨0x5050000A, 4, 1, .u16, 1, 7200, .now⟩,
  ⟨0x5050000B, 4, 1, .u8, 0, 255, .ro⟩,
  ⟨0x5050000C, 4, 1, .s32, -2147483648, 2147483647, .ro⟩,
  ⟨0x5050000D, 4, 1, .u32, 0, 4294967295, .ro⟩,
  ⟨0x50600001, 1, 1, .u32, 1000, 120000, .now⟩,
  ⟨0x50600002, 1, 1, .u8, 0, 1, .now⟩,
  ⟨0x50600003, 1, 1, .u8, 0, 3, .now⟩,
  ⟨0x50600004, 1, 1, .u32, 1, 4294967295, .now⟩,
  ⟨0x50600005, 1, 1, .u16, 1, 65535, .now⟩,
  ⟨0x50600006, 1, 1, .u16, 1, 1000, .now⟩]

/-- Parameter table of chapter 11. -/
def pTab11 : List PRow := [
  ⟨0x60100001, 1, 1, .s32, -2147483648, 2147483647, .ro⟩,
  ⟨0x60100002, 1, 1, .s32, -500000000, 500000000, .now⟩,
  ⟨0x60100003, 1, 1, .u32, 0, 4294967295, .ro⟩,
  ⟨0x60100004, 1, 1, .u8, 0, 255, .ro⟩,
  ⟨0x60200001, 1, 1, .u8, 0, 1, .now⟩,
  ⟨0x60200002, 1, 1, .u8, 0, 1, .now⟩,
  ⟨0x60200003, 1, 1, .u8, 0, 127, .now⟩,
  ⟨0x60200004, 1, 1, .u8, 0, 15, .now⟩,
  ⟨0x60200005, 1, 1, .u32, 100, 1000000000, .now⟩,
  ⟨0x60200006, 1, 1, .u32, 10, 100000, .now⟩,
  ⟨0x60200007, 1, 1, .u16, 100, 60000, .now⟩,
  ⟨0x60200008, 1, 1, .u16, 0, 65535, .now⟩,
  ⟨0x60200009, 1, 1, .u16, 0, 65535, .now⟩,
  ⟨0x6020000A, 1, 1, .u8, 0, 255, .ro⟩,
  ⟨0x6020000B, 1, 1, .s32, -2147483648, 2147483647, .ro⟩,
  ⟨0x6020000C, 1, 1, .u32, 0, 4294967295, .ro⟩,
  ⟨0x60210001, 2, 1, .s32, -1000000, 1000000, .now⟩,
  ⟨0x60400001, 8, 1, .u8, 0, 2, .line⟩,
  ⟨0x60400002, 8, 1, .u8, 0, 1, .line⟩,
  ⟨0x60400003, 8, 1, .u32, 16, 1000000, .line⟩,
  ⟨0x60400004, 8, 1, .u32, 0, 4294967295, .line⟩,
  ⟨0x60400005, 8, 1, .u32, 1, 16777215, .line⟩,
  ⟨0x60400006, 8, 1, .u32, 0, 1000000, .line⟩,
  ⟨0x60400007, 8, 1, .u32, 0, 4294967295, .ro⟩]

/-- Parameter table of chapter 12. -/
def pTab12 : List PRow := [
  ⟨0x70100001, 4, 1, .u8, 0, 1, .now⟩,
  ⟨0x70100002, 4, 1, .u8, 1, 4, .now⟩,
  ⟨0x70100003, 4, 1, .u16, 80, 2500, .now⟩,
  ⟨0x70100004, 4, 1, .u32, 0, 4294967295, .ro⟩,
  ⟨0x70100005, 4, 1, .u32, 0, 4294967295, .ro⟩,
  ⟨0x70100006, 4, 1, .u32, 0, 4294967295, .ro⟩,
  ⟨0x70100007, 4, 1, .u32, 0, 4294967295, .ro⟩,
  ⟨0x70100008, 4, 1, .u32, 0, 4294967295, .ro⟩,
  ⟨0x70200001, 16, 1, .u8, 0, 1, .frame⟩,
  ⟨0x70200002, 16, 1, .u8, 0, 3, .frame⟩,
  ⟨0x70200003, 16, 1, .u8, 0, 15, .frame⟩,
  ⟨0x70200004, 16, 1, .u8, 42, 46, .frame⟩,
  ⟨0x70200005, 16, 1, .u16, 16, 8192, .frame⟩,
  ⟨0x70200006, 16, 1, .u16, 1, 16384, .frame⟩,
  ⟨0x70200007, 16, 1, .u8, 0, 1, .frame⟩,
  ⟨0x70200008, 16, 1, .u8, 0, 3, .frame⟩,
  ⟨0x70200009, 16, 1, .u8, 0, 7, .frame⟩,
  ⟨0x7020000A, 16, 1, .u32, 100, 100000000, .frame⟩,
  ⟨0x7020000B, 16, 1, .u8, 1, 4, .frame⟩,
  ⟨0x7020000C, 16, 1, .u8, 1, 4, .frame⟩,
  ⟨0x7020000D, 16, 4, .u16, 0, 65535, .frame⟩,
  ⟨0x70200011, 16, 16, .u16, 0, 65535, .frame⟩,
  ⟨0x70200021, 16, 1, .u8, 0, 1, .frame⟩,
  ⟨0x70200022, 16, 1, .u32, 0, 60000, .frame⟩,
  ⟨0x70200030, 16, 1, .u32, 0, 4294967295, .ro⟩,
  ⟨0x70200031, 16, 1, .u32, 0, 4294967295, .ro⟩,
  ⟨0x70200032, 16, 1, .u32, 0, 4294967295, .ro⟩,
  ⟨0x70200033, 16, 1, .u32, 0, 4294967295, .ro⟩,
  ⟨0x70200034, 16, 1, .u32, 0, 4294967295, .ro⟩,
  ⟨0x70200035, 16, 1, .u32, 0, 4294967295, .ro⟩,
  ⟨0x70200036, 16, 1, .u32, 0, 4294967295, .ro⟩,
  ⟨0x70300001, 64, 1, .u8, 0, 1, .frame⟩,
  ⟨0x70300002, 64, 1, .u16, 0, 65535, .frame⟩,
  ⟨0x70300003, 64, 1, .u16, 0, 65535, .frame⟩,
  ⟨0x70300004, 64, 1, .u16, 0, 65535, .frame⟩,
  ⟨0x70300005, 64, 1, .u16, 0, 65535, .frame⟩,
  ⟨0x70300006, 64, 1, .u8, 1, 8, .frame⟩,
  ⟨0x70300007, 64, 1, .u8, 1, 31, .frame⟩,
  ⟨0x70300008, 64, 1, .u8, 0, 1, .frame⟩,
  ⟨0x70400001, 2, 1, .u32, 0, 4294967295, .ro⟩,
  ⟨0x70500001, 1, 1, .u16, 500, 950, .now⟩]

/-- Parameter table of chapter 13. -/
def pTab13 : List PRow := [
  ⟨0x80100001, 8, 1, .u8, 0, 2, .now⟩,
  ⟨0x80100002, 8, 1, .u8, 0, 2, .now⟩,
  ⟨0x80100003, 8, 1, .u16, 0, 65535, .ro⟩,
  ⟨0x80100004, 8, 1, .u16, 0, 65535, .ro⟩,
  ⟨0x80200001, 16, 1, .u32, 0, 2400000, .now⟩,
  ⟨0x80200002, 16, 1, .s32, -2147483648, 2147483647, .now⟩,
  ⟨0x80200003, 16, 1, .s32, -2147483648, 2147483647, .now⟩,
  ⟨0x80200004, 16, 1, .u32, 1, 4294967295, .now⟩,
  ⟨0x80300001, 1, 1, .u16, 1, 256, .now⟩,
  ⟨0x80300002, 1, 1, .u16, 1, 100, .now⟩,
  ⟨0x80300003, 1, 1, .u16, 1, 1000, .now⟩,
  ⟨0x80300004, 1, 1, .u16, 0, 100, .now⟩,
  ⟨0x80300005, 1, 1, .u8, 1, 64, .now⟩,
  ⟨0x80300006, 1, 1, .u16, 16, 256, .now⟩,
  ⟨0x80300007, 1, 1, .u32, 1, 1048576, .now⟩,
  ⟨0x80300008, 1, 1, .u32, 4096, 16777216, .now⟩,
  ⟨0x80300009, 1, 1, .u16, 0, 65535, .now⟩,
  ⟨0x8030000A, 1, 1, .u16, 0, 1000, .now⟩,
  ⟨0x8030000B, 1, 1, .u8, 1, 16, .now⟩,
  ⟨0x8030000C, 1, 1, .u8, 1, 3, .now⟩,
  ⟨0x8030000D, 1, 1, .u16, 1, 1024, .now⟩,
  ⟨0x8030000E, 1, 1, .u16, 0, 1000, .now⟩,
  ⟨0x8030000F, 1, 1, .u8, 1, 50, .now⟩,
  ⟨0x80300010, 1, 1, .u16, 1, 511, .now⟩,
  ⟨0x80300011, 1, 1, .u16, 0, 200, .now⟩]

/-- Parameter table of chapter 14. -/
def pTab14 : List PRow := [
  ⟨0x90100001, 1, 1, .u16, 2400, 3200, .reset⟩,
  ⟨0x90100002, 1, 1, .u8, 8, 16, .reset⟩,
  ⟨0x90100003, 1, 1, .u8, 8, 16, .reset⟩,
  ⟨0x90100004, 1, 1, .u8, 1, 2, .reset⟩,
  ⟨0x90100005, 1, 1, .u8, 0, 3, .reset⟩,
  ⟨0x90100006, 1, 1, .u8, 0, 1, .reset⟩,
  ⟨0x90100007, 1, 1, .u8, 0, 1, .reset⟩,
  ⟨0x90100008, 1, 1, .u8, 8, 32, .reset⟩,
  ⟨0x90100009, 1, 1, .u8, 0, 63, .now⟩,
  ⟨0x9010000A, 1, 1, .u16, 0, 1000, .now⟩,
  ⟨0x9010000B, 1, 1, .u8, 0, 255, .ro⟩,
  ⟨0x9010000C, 1, 1, .u8, 0, 255, .ro⟩,
  ⟨0x9010000D, 1, 1, .u16, 100, 998, .now⟩,
  ⟨0x9010000E, 1, 1, .u16, 101, 999, .now⟩,
  ⟨0x9010000F, 1, 1, .u16, 102, 1000, .now⟩,
  ⟨0x90200001, 3, 1, .u8, 0, 1, .reset⟩,
  ⟨0x90200002, 3, 1, .u8, 0, 255, .ro⟩,
  ⟨0x90200003, 3, 1, .u32, 0, 4294967295, .ro⟩,
  ⟨0x90200004, 3, 1, .u32, 0, 4294967295, .ro⟩,
  ⟨0x90200005, 3, 1, .u32, 0, 4294967295, .ro⟩,
  ⟨0x90200006, 3, 1, .u32, 0, 4294967295, .ro⟩,
  ⟨0x90200007, 3, 1, .u32, 0, 4294967295, .ro⟩,
  ⟨0x90200008, 3, 1, .u8, 0, 255, .ro⟩,
  ⟨0x90200009, 3, 1, .u8, 0, 255, .ro⟩,
  ⟨0x9020000A, 3, 1, .s16, -32768, 32767, .ro⟩,
  ⟨0x90300001, 12, 1, .u32, 200, 1000000, .now⟩,
  ⟨0x90300002, 12, 1, .u32, 0, 4294967295, .ro⟩,
  ⟨0x90400001, 54, 1, .u8, 0, 255, .ro⟩,
  ⟨0x90400002, 54, 1, .u8, 0, 255, .ro⟩,
  ⟨0x90400003, 54, 1, .u16, 0, 65535, .ro⟩,
  ⟨0x90400004, 54, 1, .u8, 0, 255, .ro⟩,
  ⟨0x90400005, 54, 1, .u8, 0, 255, .ro⟩]

/-- Parameter table of chapter 15. -/
def pTab15 : List PRow := [
  ⟨0x90500001, 1, 1, .u32, 0, 4294967295, .ro⟩,
  ⟨0x90500002, 2, 1, .u16, 0, 65535, .ro⟩,
  ⟨0x90600001, 1, 1, .u32, 0, 4294967295, .ro⟩,
  ⟨0x90600002, 1, 1, .u32, 0, 4294967295, .ro⟩,
  ⟨0x90600003, 1, 1, .u32, 0, 4294967295, .ro⟩,
  ⟨0x90600004, 1, 1, .u8, 0, 255, .ro⟩,
  ⟨0x90700001, 4, 1, .u8, 0, 255, .ro⟩]

/-- Parameter table of chapter 16. -/
def pTab16 : List PRow := [
  ⟨0xA0500001, 512, 1, .u8, 0, 8, .now⟩,
  ⟨0xA0500002, 512, 1, .u16, 0, 65535, .ro⟩,
  ⟨0xA0500003, 512, 1, .u8, 0, 255, .ro⟩,
  ⟨0xA0600001, 1, 1, .u16, 0, 10000, .now⟩,
  ⟨0xA0600002, 1, 1, .u32, 0, 1000000, .now⟩,
  ⟨0xA0600003, 1, 1, .u8, 1, 16, .now⟩]

/-- Parameter table of chapter 17. -/
def pTab17 : List PRow := [
  ⟨0xA0700001, 24, 1, .s16, -32768, 32767, .ro⟩,
  ⟨0xA0700010, 1, 1, .s16, -32768, 32767, .ro⟩,
  ⟨0xA0700011, 1, 1, .s16, 600, 32767, .now⟩,
  ⟨0xA0700012, 1, 1, .s16, -32768, 1250, .now⟩,
  ⟨0xA0700013, 1, 1, .u16, 1, 1000, .now⟩,
  ⟨0xA0800001, 16, 1, .u16, 0, 65535, .ro⟩,
  ⟨0xA0800002, 16, 1, .u16, 0, 65535, .now⟩,
  ⟨0xA0800003, 16, 1, .u16, 0, 4000, .now⟩,
  ⟨0xA0900001, 64, 1, .u32, 0, 4294967295, .now⟩,
  ⟨0xA0900002, 64, 1, .u16, 10, 10000, .now⟩,
  ⟨0xA0900003, 64, 1, .s32, -2147483648, 2147483647, .ro⟩,
  ⟨0xA0900004, 64, 1, .u8, 0, 255, .ro⟩,
  ⟨0xA0A00001, 1, 1, .u8, 8, 119, .reset⟩,
  ⟨0xA0A00002, 1, 1, .u8, 0, 31, .reset⟩,
  ⟨0xA0A00003, 1, 1, .u32, 0, 4294967295, .ro⟩,
  ⟨0xA0A00004, 1, 1, .s16, -32768, 32767, .ro⟩,
  ⟨0xA0B00001, 1, 1, .u32, 10, 60000, .now⟩,
  ⟨0xA0C00001, 1, 1, .u8, 0, 255, .ro⟩,
  ⟨0xB0100001, 4, 1, .u8, 0, 1, .now⟩,
  ⟨0xB0100002, 4, 1, .u8, 0, 1, .now⟩,
  ⟨0xB0100003, 4, 1, .u8, 1, 255, .now⟩,
  ⟨0xB0200001, 1, 1, .u8, 0, 1, .now⟩,
  ⟨0xB0200002, 1, 1, .u8, 1, 16, .now⟩]

/-- Parameter table of chapter 18. -/
def pTab18 : List PRow := [
  ⟨0x4010000B, 36, 1, .u8, 0, 255, .ro⟩,
  ⟨0xA0D00001, 1, 1, .u16, 1, 2500, .now⟩,
  ⟨0xA0D00002, 1, 1, .u8, 0, 255, .ro⟩,
  ⟨0xA0D00003, 1, 1, .u16, 0, 65535, .ro⟩,
  ⟨0xA0D00013, 1, 6, .u16, 0, 65535, .ro⟩]

/-- Parameter table of chapter 20. -/
def pTab20 : List PRow := [
  ⟨0x20900001, 1, 1, .u32, 0, 4294967295, .ro⟩,
  ⟨0x20900002, 1, 1, .u32, 0, 4294967295, .ro⟩,
  ⟨0x20900003, 1, 1, .u32, 0, 4294967295, .ro⟩,
  ⟨0x20900004, 1, 1, .u32, 10, 60000, .now⟩]

/-- Every parameter of the device (R538). -/
def pTable : List PRow :=
  pTab01 ++
  pTab02 ++
  pTab03 ++
  pTab04 ++
  pTab05 ++
  pTab06 ++
  pTab07 ++
  pTab08 ++
  pTab09 ++
  pTab10 ++
  pTab11 ++
  pTab12 ++
  pTab13 ++
  pTab14 ++
  pTab15 ++
  pTab16 ++
  pTab17 ++
  pTab18 ++
  pTab20

/-- The row covers the ID. -/
def PRow.has (r : PRow) (id : Nat) : Bool :=
  decide (r.base ≤ id ∧ (id - r.base) / 256 < r.insts ∧ (id - r.base) % 256 < r.fields)

/-- The row of an ID; none when the ID is reserved or undefined (R538). -/
def pRow? (id : Nat) : Option PRow := pTable.find? (·.has id)

/-- Defaults of chapter 01 by first ID. -/
def pDef01 (b : Nat) (key : Nat → (Nat → Nat → PKey) → Option Nat) : Option Nat :=
  match b with
  | 0x50400001 => key 0x50400001 (fun _ _ => P.motionCeilingDraughtStepPm)
  | 0x50400002 => key 0x50400002 (fun _ _ => P.motionCeilingDraughtMinLines)
  | 0x50400003 => key 0x50400003 (fun _ _ => P.motionCeilingRecoverLines)
  | 0x50400004 => key 0x50400004 (fun _ _ => P.motionCeilingRecoverStepPm)
  | 0x50400005 => key 0x50400005 (fun _ _ => P.motionCeilingDraughtFloorLps)
  | 0xA0300001 => key 0xA0300001 (fun _ _ => P.manageDraughtHiRatio)
  | 0xA0300002 => key 0xA0300002 (fun _ _ => P.manageDraughtLoRatio)
  | 0xA0300003 => key 0xA0300003 (fun _ _ => P.manageDraughtRelaxRatio)
  | 0xA0300004 => key 0xA0300004 (fun _ _ => P.manageDraughtWindowLines)
  | 0xA0300005 => key 0xA0300005 (fun _ _ => P.manageDraughtRelaxWindows)
  | 0xA0300010 => key 0xA0300010 (fun _ _ => P.manageVcoreStepMv)
  | 0xA0300011 => key 0xA0300011 (fun _ _ => P.manageVcoreMinMv)
  | 0xA0300012 => key 0xA0300012 (fun _ _ => P.manageVcoreMaxMv)
  | 0xA0300013 => key 0xA0300013 (fun _ _ => P.manageVcoreStartMv)
  | 0xA0300020 => key 0xA0300020 (fun i _ => P.manageDraughtMonitorMinRatio i)
  | 0xA0400001 => key 0xA0400001 (fun _ _ => P.manageFlueTimeoutUs)
  | _ => none

/-- Defaults of chapter 02 by first ID. -/
def pDef02 (b : Nat) (key : Nat → (Nat → Nat → PKey) → Option Nat) : Option Nat :=
  match b with
  | 0x10100001 => key 0x10100001 (fun _ _ => P.hostSessionLeaseMs)
  | 0x10200001 => key 0x10200001 (fun _ _ => P.hostRemoteEnable)
  | 0x10200002 => key 0x10200002 (fun _ _ => P.hostRemotePortMask)
  | _ => none

/-- Defaults of chapter 03 by first ID. -/
def pDef03 (b : Nat) (key : Nat → (Nat → Nat → PKey) → Option Nat) : Option Nat :=
  match b with
  | 0x10300001 => key 0x10300001 (fun _ _ => P.hostJobLibraryMb)
  | 0x10300002 => key 0x10300002 (fun _ _ => P.hostJobStageMb)
  | 0x20100001 => key 0x20100001 (fun i _ => P.rasterHopperLowMs i)
  | 0x20101001 => key 0x20101001 (fun _ _ => P.rasterHopperReportBound)
  | 0x30500001 => key 0x30500001 (fun _ _ => P.fireSpliceLeadLines)
  | 0x50400010 => key 0x50400010 (fun _ _ => P.motionCeilingStopMs)
  | 0x50400011 => key 0x50400011 (fun _ _ => P.motionCeilingGuardMs)
  | _ => none

/-- Defaults of chapter 04 by first ID. -/
def pDef04 (b : Nat) (key : Nat → (Nat → Nat → PKey) → Option Nat) : Option Nat :=
  match b with
  | 0x20200001 => key 0x20200001 (fun i _ => P.rasterBarOffsetWu i)
  | 0x20200002 => key 0x20200002 (fun i _ => P.rasterBarXOrigin i)
  | 0x20200003 => key 0x20200003 (fun i _ => P.rasterBarSlotMask i)
  | 0x20300001 => key 0x20300001 (fun i _ => P.rasterBarSlotX0 i)
  | 0x20300002 => key 0x20300002 (fun i _ => P.rasterBarSlotOrient i)
  | 0x20300003 => key 0x20300003 (fun i _ => P.rasterBarSlotOffsetWu i)
  | 0x20300004 => key 0x20300004 (fun i _ => P.rasterBarSlotSplit i)
  | 0x20400001 => key 0x20400001 (fun i _ => P.rasterBarSlotRowgroupOffsetWu i)
  | 0x20500001 => key 0x20500001 (fun i _ => P.rasterBarSlotRowDelayWu i)
  | 0x20600001 => key 0x20600001 (fun _ _ => P.rasterFetchLeadLines)
  | _ => none

/-- Defaults of chapter 05 by first ID. -/
def pDef05 (b : Nat) (key : Nat → (Nat → Nat → PKey) → Option Nat) : Option Nat :=
  match b with
  | 0x20700001 => key 0x20700001 (fun i _ => P.rasterBarSubEnable i)
  | 0x20800001 => key 0x20800001 (fun i _ => P.rasterTwinMode i)
  | 0x20800002 => key 0x20800002 (fun i _ => P.rasterTwinBarA i)
  | 0x20800003 => key 0x20800003 (fun i _ => P.rasterTwinBarB i)
  | 0x20800004 => key 0x20800004 (fun i _ => P.rasterTwinSubQuarters i)
  | 0x20800010 => key 0x20800010 (fun i j => P.rasterTwinMaskRow i j)
  | _ => none

/-- Defaults of chapter 06 by first ID. -/
def pDef06 (b : Nat) (key : Nat → (Nat → Nat → PKey) → Option Nat) : Option Nat :=
  match b with
  | 0x31100001 => key 0x31100001 (fun i _ => P.fireBarEmberClassBoost i)
  | 0x31100002 => key 0x31100002 (fun i _ => P.fireBarEmberClassTickleIdle i)
  | 0x31100010 => key 0x31100010 (fun i j => P.fireBarEmberClassTable i j)
  | 0x31200001 => key 0x31200001 (fun i _ => P.fireBarEmberEnable i)
  | 0x31200002 => key 0x31200002 (fun i _ => P.fireBarEmberFixedVariant i)
  | 0x31200004 => key 0x31200004 (fun i _ => P.fireBarEmberDerateMapLo i)
  | 0x31200005 => key 0x31200005 (fun i _ => P.fireBarEmberDerateMapHi i)
  | 0x31300001 => key 0x31300001 (fun _ _ => P.fireMode)
  | 0x31300002 => key 0x31300002 (fun _ _ => P.fireAutoSchedMinHz)
  | 0x31300003 => key 0x31300003 (fun _ _ => P.fireAutoEdgeBelowHz)
  | 0x31300004 => key 0x31300004 (fun _ _ => P.fireSchedFreezeTclk)
  | 0x31300005 => key 0x31300005 (fun _ _ => P.fireSchedAdvanceTclk)
  | 0x31400001 => key 0x31400001 (fun i _ => P.fireBarSlotPhase i)
  | 0x31600001 => key 0x31600001 (fun i _ => P.fireBarSlotTempSoft i)
  | 0x31600002 => key 0x31600002 (fun i _ => P.fireBarSlotTempHard i)
  | 0x31600003 => key 0x31600003 (fun i _ => P.fireBarSlotTempHyst i)
  | 0x31600004 => key 0x31600004 (fun i _ => P.fireBarSlotAutoUnmute i)
  | 0x31700001 => key 0x31700001 (fun _ _ => P.fireTempDeratePm)
  | 0x31700002 => key 0x31700002 (fun _ _ => P.fireTempStaleMs)
  | _ => none

/-- Defaults of chapter 07 by first ID. -/
def pDef07 (b : Nat) (key : Nat → (Nat → Nat → PKey) → Option Nat) : Option Nat :=
  match b with
  | 0x31800001 => key 0x31800001 (fun _ _ => P.fireFbHbMiss)
  | 0x31800002 => key 0x31800002 (fun _ _ => P.fireFbAutoReturn)
  | 0x31800003 => key 0x31800003 (fun _ _ => P.fireFbReturnLines)
  | 0x31800004 => key 0x31800004 (fun _ _ => P.fireFbResyncLines)
  | 0x31800005 => key 0x31800005 (fun _ _ => P.fireFbResyncRetryLines)
  | _ => none

/-- Defaults of chapter 08 by first ID. -/
def pDef08 (b : Nat) (key : Nat → (Nat → Nat → PKey) → Option Nat) : Option Nat :=
  match b with
  | 0x40100001 => key 0x40100001 (fun i _ => P.linkLaneEnable i)
  | 0x40100002 => key 0x40100002 (fun i _ => P.linkLaneRate i)
  | 0x40100003 => key 0x40100003 (fun i _ => P.linkLaneFirstSlot i)
  | 0x40100004 => key 0x40100004 (fun i _ => P.linkLaneTxPreset i)
  | 0x40200001 => key 0x40200001 (fun i _ => P.linkSpareEnable i)
  | 0x40200002 => key 0x40200002 (fun i _ => P.linkSpareCheckMs i)
  | 0x40300001 => key 0x40300001 (fun _ _ => P.linkLaneDetectMs)
  | 0x40300002 => key 0x40300002 (fun _ _ => P.linkLaneRelockUs)
  | 0x40300003 => key 0x40300003 (fun _ _ => P.linkLaneRetryMs)
  | 0x40300004 => key 0x40300004 (fun _ _ => P.linkLaneHdrErrLimit)
  | 0x40300005 => key 0x40300005 (fun _ _ => P.linkSpareAutoReturn)
  | 0x40300006 => key 0x40300006 (fun _ _ => P.linkSpareReturnS)
  | _ => none

/-- Defaults of chapter 09 by first ID. -/
def pDef09 (b : Nat) (key : Nat → (Nat → Nat → PKey) → Option Nat) : Option Nat :=
  match b with
  | 0x40600001 => key 0x40600001 (fun _ _ => P.linkHeadEchoMs)
  | 0x40600002 => key 0x40600002 (fun _ _ => P.linkHeadInfoTimeoutUs)
  | 0x40700001 => key 0x40700001 (fun i _ => P.linkLegacySlotEnable i)
  | 0x40700002 => key 0x40700002 (fun i _ => P.linkLegacySlotBar i)
  | 0x40700003 => key 0x40700003 (fun i _ => P.linkLegacySlotSlot i)
  | 0x40700004 => key 0x40700004 (fun i _ => P.linkLegacySlotTempSensor i)
  | 0x40800001 => key 0x40800001 (fun _ _ => P.linkLegacySckDiv)
  | 0x40800002 => key 0x40800002 (fun _ _ => P.linkLegacyStrobeTclk)
  | _ => none

/-- Defaults of chapter 10 by first ID. -/
def pDef10 (b : Nat) (key : Nat → (Nat → Nat → PKey) → Option Nat) : Option Nat :=
  match b with
  | 0x50100001 => key 0x50100001 (fun i _ => P.motionEncEnable i)
  | 0x50100002 => key 0x50100002 (fun i _ => P.motionEncFilter i)
  | 0x50100003 => key 0x50100003 (fun i _ => P.motionEncInvert i)
  | 0x50100004 => key 0x50100004 (fun i _ => P.motionEncWireTclk i)
  | 0x50100005 => key 0x50100005 (fun i _ => P.motionEncCountWu i)
  | 0x50100006 => key 0x50100006 (fun i _ => P.motionEncCpr i)
  | 0x50100007 => key 0x50100007 (fun i _ => P.motionEncIndexTol i)
  | 0x50100008 => key 0x50100008 (fun i _ => P.motionEncIndexCorrect i)
  | 0x50200001 => key 0x50200001 (fun _ _ => P.motionFireChannel)
  | 0x50200002 => key 0x50200002 (fun _ _ => P.motionFireBackup)
  | 0x50200003 => key 0x50200003 (fun _ _ => P.motionFirePitch)
  | 0x50200004 => key 0x50200004 (fun _ _ => P.motionFireRevwin)
  | 0x50200005 => key 0x50200005 (fun _ _ => P.motionFireTrackTolWu)
  | 0x50300001 => key 0x50300001 (fun _ _ => P.motionVelWindowEdges)
  | 0x50300002 => key 0x50300002 (fun _ _ => P.motionVelStopMs)
  | 0x50400020 => key 0x50400020 (fun _ _ => P.motionCeilingPressMaxLps)
  | 0x50400022 => key 0x50400022 (fun _ _ => P.motionCeilingHoldLps)
  | 0x50400023 => key 0x50400023 (fun _ _ => P.motionCeilingOverTolPm)
  | 0x50500001 => key 0x50500001 (fun i _ => P.motionMarkEnable i)
  | 0x50500002 => key 0x50500002 (fun i _ => P.motionMarkPolarity i)
  | 0x50500003 => key 0x50500003 (fun i _ => P.motionMarkFilter i)
  | 0x50500004 => key 0x50500004 (fun i _ => P.motionMarkToDatumWu i)
  | 0x50500005 => key 0x50500005 (fun i _ => P.motionMarkPitchWu i)
  | 0x50500006 => key 0x50500006 (fun i _ => P.motionMarkWindowWu i)
  | 0x50500007 => key 0x50500007 (fun i _ => P.motionMarkLockMarks i)
  | 0x50500008 => key 0x50500008 (fun i _ => P.motionMarkFlywheelMax i)
  | 0x50500009 => key 0x50500009 (fun i _ => P.motionMarkTrim i)
  | 0x5050000A => key 0x5050000A (fun i _ => P.motionMarkTrimMaxWu i)
  | 0x50600001 => key 0x50600001 (fun _ _ => P.motionDacFullLps)
  | 0x50600002 => key 0x50600002 (fun _ _ => P.motionMsgEnable)
  | 0x50600003 => key 0x50600003 (fun _ _ => P.motionMsgPortMask)
  | 0x50600004 => key 0x50600004 (fun _ _ => P.motionMsgIp)
  | 0x50600005 => key 0x50600005 (fun _ _ => P.motionMsgUdpPort)
  | 0x50600006 => key 0x50600006 (fun _ _ => P.motionMsgPeriodMs)
  | _ => none

/-- Defaults of chapter 11 by first ID. -/
def pDef11 (b : Nat) (key : Nat → (Nat → Nat → PKey) → Option Nat) : Option Nat :=
  match b with
  | 0x60100002 => key 0x60100002 (fun _ _ => P.timeClockRateSetPpt)
  | 0x60200001 => key 0x60200001 (fun _ _ => P.timePtpEnable)
  | 0x60200002 => key 0x60200002 (fun _ _ => P.timePtpPort)
  | 0x60200003 => key 0x60200003 (fun _ _ => P.timePtpDomain)
  | 0x60200004 => key 0x60200004 (fun _ _ => P.timePtpOptions)
  | 0x60200005 => key 0x60200005 (fun _ _ => P.timePtpStepThresholdNs)
  | 0x60200006 => key 0x60200006 (fun _ _ => P.timePtpLockNs)
  | 0x60200007 => key 0x60200007 (fun _ _ => P.timePtpTimeoutMs)
  | 0x60200008 => key 0x60200008 (fun _ _ => P.timePtpKp)
  | 0x60200009 => key 0x60200009 (fun _ _ => P.timePtpKi)
  | 0x60210001 => key 0x60210001 (fun i _ => P.timePortAsymmetryNs i)
  | 0x60400001 => key 0x60400001 (fun i _ => P.timeTrigMode i)
  | 0x60400002 => key 0x60400002 (fun i _ => P.timeTrigPolarity i)
  | 0x60400003 => key 0x60400003 (fun i _ => P.timeTrigWidthNs i)
  | 0x60400004 => key 0x60400004 (fun i _ => P.timeTrigStartLine i)
  | 0x60400005 => key 0x60400005 (fun i _ => P.timeTrigPitchLines i)
  | 0x60400006 => key 0x60400006 (fun i _ => P.timeTrigDelayNs i)
  | _ => none

/-- Defaults of chapter 12 by first ID. -/
def pDef12 (b : Nat) (key : Nat → (Nat → Nat → PKey) → Option Nat) : Option Nat :=
  match b with
  | 0x70100001 => key 0x70100001 (fun i _ => P.inspectPortEnable i)
  | 0x70100002 => key 0x70100002 (fun i _ => P.inspectPortLanes i)
  | 0x70100003 => key 0x70100003 (fun i _ => P.inspectPortMaxMbps i)
  | 0x70200001 => key 0x70200001 (fun i _ => P.inspectCtxEnable i)
  | 0x70200002 => key 0x70200002 (fun i _ => P.inspectCtxPort i)
  | 0x70200003 => key 0x70200003 (fun i _ => P.inspectCtxVc i)
  | 0x70200004 => key 0x70200004 (fun i _ => P.inspectCtxDataType i)
  | 0x70200005 => key 0x70200005 (fun i _ => P.inspectCtxWidth i)
  | 0x70200006 => key 0x70200006 (fun i _ => P.inspectCtxHeight i)
  | 0x70200007 => key 0x70200007 (fun i _ => P.inspectCtxPipe i)
  | 0x70200008 => key 0x70200008 (fun i _ => P.inspectCtxPriority i)
  | 0x70200009 => key 0x70200009 (fun i _ => P.inspectCtxTrig i)
  | 0x7020000A => key 0x7020000A (fun i _ => P.inspectCtxTrigLatencyNs i)
  | 0x7020000B => key 0x7020000B (fun i _ => P.inspectCtxPatW i)
  | 0x7020000C => key 0x7020000C (fun i _ => P.inspectCtxPatH i)
  | 0x7020000D => key 0x7020000D (fun i j => P.inspectCtxPatternRow i j)
  | 0x70200011 => key 0x70200011 (fun i j => P.inspectCtxBlack i j)
  | 0x70200021 => key 0x70200021 (fun i _ => P.inspectCtxShadingEnable i)
  | 0x70200022 => key 0x70200022 (fun i _ => P.inspectCtxFrameTimeoutMs i)
  | 0x70300001 => key 0x70300001 (fun i _ => P.inspectCtxStreamEnable i)
  | 0x70300002 => key 0x70300002 (fun i _ => P.inspectCtxStreamX i)
  | 0x70300003 => key 0x70300003 (fun i _ => P.inspectCtxStreamY i)
  | 0x70300004 => key 0x70300004 (fun i _ => P.inspectCtxStreamW i)
  | 0x70300005 => key 0x70300005 (fun i _ => P.inspectCtxStreamH i)
  | 0x70300006 => key 0x70300006 (fun i _ => P.inspectCtxStreamScale i)
  | 0x70300007 => key 0x70300007 (fun i _ => P.inspectCtxStreamPlanes i)
  | 0x70300008 => key 0x70300008 (fun i _ => P.inspectCtxStreamFormat i)
  | 0x70500001 => key 0x70500001 (fun _ _ => P.inspectFifoPressurePm)
  | _ => none

/-- Defaults of chapter 13 by first ID. -/
def pDef13 (b : Nat) (key : Nat → (Nat → Nat → PKey) → Option Nat) : Option Nat :=
  match b with
  | 0x80100001 => key 0x80100001 (fun i _ => P.loopBarMode i)
  | 0x80100002 => key 0x80100002 (fun i _ => P.loopBarCheckMode i)
  | 0x80200001 => key 0x80200001 (fun i _ => P.loopCtxDatumWu i)
  | 0x80200002 => key 0x80200002 (fun i _ => P.loopCtxLineWu i)
  | 0x80200003 => key 0x80200003 (fun i _ => P.loopCtxCol0Q i)
  | 0x80200004 => key 0x80200004 (fun i _ => P.loopCtxColQ i)
  | 0x80300001 => key 0x80300001 (fun _ _ => P.loopZoneKi)
  | 0x80300002 => key 0x80300002 (fun _ _ => P.loopZoneStepMax)
  | 0x80300003 => key 0x80300003 (fun _ _ => P.loopZoneLimit)
  | 0x80300004 => key 0x80300004 (fun _ _ => P.loopZoneDeadband)
  | 0x80300005 => key 0x80300005 (fun _ _ => P.loopZoneMeasPerUpdate)
  | 0x80300006 => key 0x80300006 (fun _ _ => P.loopZoneMinOverlap)
  | 0x80300007 => key 0x80300007 (fun _ _ => P.loopRampLines)
  | 0x80300008 => key 0x80300008 (fun _ _ => P.loopStaleLines)
  | 0x80300009 => key 0x80300009 (fun _ _ => P.loopCheckOutPm)
  | 0x8030000A => key 0x8030000A (fun _ _ => P.loopCheckWeakPm)
  | 0x8030000B => key 0x8030000B (fun _ _ => P.loopCheckDev16ths)
  | 0x8030000C => key 0x8030000C (fun _ _ => P.loopCheckConfirm)
  | 0x8030000D => key 0x8030000D (fun _ _ => P.loopCheckOutPerCheck)
  | 0x8030000E => key 0x8030000E (fun _ _ => P.loopTrimGain)
  | 0x8030000F => key 0x8030000F (fun _ _ => P.loopTrimStepMax)
  | 0x80300010 => key 0x80300010 (fun _ _ => P.loopTrimLimit)
  | 0x80300011 => key 0x80300011 (fun _ _ => P.loopTrimDeadband)
  | _ => none

/-- Defaults of chapter 14 by first ID. -/
def pDef14 (b : Nat) (key : Nat → (Nat → Nat → PKey) → Option Nat) : Option Nat :=
  match b with
  | 0x90100001 => key 0x90100001 (fun _ _ => P.memoryDdrMts)
  | 0x90100002 => key 0x90100002 (fun _ _ => P.memoryDdrWidth)
  | 0x90100003 => key 0x90100003 (fun _ _ => P.memoryDdrDensityGbit)
  | 0x90100004 => key 0x90100004 (fun _ _ => P.memoryDdrRanks)
  | 0x90100005 => key 0x90100005 (fun _ _ => P.memoryDdrMapOrder)
  | 0x90100006 => key 0x90100006 (fun _ _ => P.memoryDdrWriteCrc)
  | 0x90100007 => key 0x90100007 (fun _ _ => P.memoryDdrDbi)
  | 0x90100008 => key 0x90100008 (fun _ _ => P.memoryDdrMinEyeSteps)
  | 0x90100009 => key 0x90100009 (fun _ _ => P.memoryDdrTempSensor)
  | 0x9010000A => key 0x9010000A (fun _ _ => P.memoryDdrScrubHours)
  | 0x9010000D => key 0x9010000D (fun _ _ => P.memoryDdrU1Pm)
  | 0x9010000E => key 0x9010000E (fun _ _ => P.memoryDdrU2Pm)
  | 0x9010000F => key 0x9010000F (fun _ _ => P.memoryDdrU3Pm)
  | 0x90200001 => key 0x90200001 (fun i _ => P.memoryChEnable i)
  | 0x90300001 => key 0x90300001 (fun i _ => P.memoryPortTargetNs i)
  | _ => none

/-- Defaults of chapter 15 by first ID. -/
def pDef15 (b : Nat) (key : Nat → (Nat → Nat → PKey) → Option Nat) : Option Nat :=
  match b with
  | _ => none

/-- Defaults of chapter 16 by first ID. -/
def pDef16 (b : Nat) (key : Nat → (Nat → Nat → PKey) → Option Nat) : Option Nat :=
  match b with
  | 0xA0500001 => key 0xA0500001 (fun i _ => P.manageFaultSourceReaction i)
  | 0xA0600001 => key 0xA0600001 (fun _ _ => P.manageFaultSettleUs)
  | 0xA0600002 => key 0xA0600002 (fun _ _ => P.manageFaultLogGapUs)
  | 0xA0600003 => key 0xA0600003 (fun _ _ => P.manageFaultResetLimit)
  | _ => none

/-- Defaults of chapter 17 by first ID. -/
def pDef17 (b : Nat) (key : Nat → (Nat → Nat → PKey) → Option Nat) : Option Nat :=
  match b with
  | 0xA0700011 => key 0xA0700011 (fun _ _ => P.manageTsenseTjWarn)
  | 0xA0700012 => key 0xA0700012 (fun _ _ => P.manageTsenseTjCrit)
  | 0xA0700013 => key 0xA0700013 (fun _ _ => P.manageTsensePeriodMs)
  | 0xA0800002 => key 0xA0800002 (fun i _ => P.manageVmonLowMv i)
  | 0xA0800003 => key 0xA0800003 (fun i _ => P.manageVmonHighMv i)
  | 0xA0900001 => key 0xA0900001 (fun i _ => P.manageBoardConfig i)
  | 0xA0900002 => key 0xA0900002 (fun i _ => P.manageBoardPeriodMs i)
  | 0xA0A00001 => key 0xA0A00001 (fun _ _ => P.managePmbusVcoreAddr)
  | 0xA0A00002 => key 0xA0A00002 (fun _ _ => P.managePmbusPage)
  | 0xA0B00001 => key 0xA0B00001 (fun _ _ => P.manageLogFlushMs)
  | 0xB0100001 => key 0xB0100001 (fun i _ => P.secureTamperEnable i)
  | 0xB0100002 => key 0xB0100002 (fun i _ => P.secureTamperPolarity i)
  | 0xB0100003 => key 0xB0100003 (fun i _ => P.secureTamperFilter i)
  | 0xB0200001 => key 0xB0200001 (fun _ _ => P.secureMeshEnable)
  | 0xB0200002 => key 0xB0200002 (fun _ _ => P.secureMeshMiss)
  | _ => none

/-- Defaults of chapter 18 by first ID. -/
def pDef18 (b : Nat) (key : Nat → (Nat → Nat → PKey) → Option Nat) : Option Nat :=
  match b with
  | 0xA0D00001 => key 0xA0D00001 (fun _ _ => P.manageTrimDacSlewMvMs)
  | _ => none

/-- Defaults of chapter 20 by first ID. -/
def pDef20 (b : Nat) (key : Nat → (Nat → Nat → PKey) → Option Nat) : Option Nat :=
  match b with
  | 0x20900004 => key 0x20900004 (fun _ _ => P.rasterLedgerScrubMs)
  | _ => none

/-- Default of the parameter at an ID: `i` its instance, `j` its field offset within the row. -/
def pDefault (id : Nat) : Nat :=
  let key (base : Nat) (k : Nat → Nat → PKey) : Option Nat := some (k ((id - base) / 256) ((id - base) % 256)).dflt
  match pRow? id with
  | none => 0
  | some r =>
    let v : Option Nat := pDef01 r.base key <|> pDef02 r.base key <|> pDef03 r.base key <|> pDef04 r.base key <|> pDef05 r.base key <|> pDef06 r.base key <|> pDef07 r.base key <|> pDef08 r.base key <|> pDef09 r.base key <|> pDef10 r.base key <|> pDef11 r.base key <|> pDef12 r.base key <|> pDef13 r.base key <|> pDef14 r.base key <|> pDef15 r.base key <|> pDef16 r.base key <|> pDef17 r.base key <|> pDef18 r.base key <|> pDef20 r.base key
    v.getD 0

end Sys2Proof.Machine
end

