-- ==== Sys2Proof/Machine/Operands.lean ====
section
/-!
DEFINITION. Operand forms: the values of parameters (accepted and in force), the fields of a command's payload and
the DMA descriptor lists of R65.
-/
namespace Sys2Proof.Machine

/-! ### Parameter values (R540, R541) -/

/-- The accepted value, which a read returns (R541) and which a NOW parameter has in force. -/
def State.par (s : State) (k : PKey) : Nat := sel s.params.acc k.id k.dflt

/-- The accepted value as a signed number of `n` bits (R6). -/
def State.parS (s : State) (n : Nat) (k : PKey) : Int := signed n (s.par k)

/-- The LINE value in force (R540). -/
def State.parLine (s : State) (k : PKey) : Nat := sel s.params.line k.id k.dflt

/-- The LINE value in force as a signed number. -/
def State.parLineS (s : State) (n : Nat) (k : PKey) : Int := signed n (s.parLine k)

/-- The RESET value in force since KINDLING (R506, R540). -/
def State.parReset (s : State) (k : PKey) : Nat := sel s.params.reset k.id k.dflt

/-- STOKER's transactions with the core regulator, at its address and page (R476): the codes in order, with the voltage of a VOUT_COMMAND. -/
def State.vcoreBus (s : State) (l : List (Nat × Option Nat)) : State :=
  s.emits (l.map (fun e => .pmbus (s.parReset P.managePmbusVcoreAddr) (s.parReset P.managePmbusPage) e.1 e.2))

/-- The FRAME value in force (R349). -/
def State.parFrame (s : State) (k : PKey) : Nat := sel s.params.frame k.id k.dflt

/-- The LINE value in force at the boundary of a view's line (R138). -/
def LineView.val (v : LineView) (k : PKey) : Nat := sel v.par k.id k.dflt

/-- The same as a signed number of `n` bits. -/
def LineView.valS (v : LineView) (n : Nat) (k : PKey) : Int := signed n (v.val k)

/-- The view of a line in flight (R138). -/
def State.view (s : State) (line : Nat) : LineView := sel s.fire.views line {}

/-- A value of a bank or geometry fixed earlier. -/
def pick (m : SMap Nat) (k : PKey) : Nat := sel m k.id k.dflt

/-- A fixed value as a signed number. -/
def pickS (m : SMap Nat) (n : Nat) (k : PKey) : Int := signed n (pick m k)

/-- Accept a value: one equal to the default is not listed. -/
def accept (m : SMap Nat) (id v : Nat) : SMap Nat := if v = pDefault id then cut m id else put m id v

/-! ### DMA descriptors (R65) -/

/-- A DMA descriptor. -/
structure DmaDesc where
  addr : Nat
  bytes : Nat
  last : Bool
  chain : Bool
deriving DecidableEq, Repr

/-- The 16 bytes of a descriptor, none when a field breaks R65. -/
def parseDesc (b : Bytes) : Option DmaDesc :=
  let d : DmaDesc := ⟨u64 b 0, u32 b 8, bit (u16 b 12) 0, bit (u16 b 12) 1⟩
  if d.addr % 4 ≠ 0 ∨ u16 b 12 ≥ 4 ∨ u16 b 14 ≠ 0 ∨ (d.last ∧ d.chain) then none
  else if d.chain then (if 16 ≤ d.bytes ∧ d.bytes ≤ 4096 ∧ d.bytes % 16 = 0 then some d else none)
  else if 4 ≤ d.bytes ∧ d.bytes ≤ 0x40000000 ∧ d.bytes % 4 = 0 then some d else none

/-- A list of descriptors up to the one with LAST or CHAIN, of at most `n`; none when it breaks R65. The rest follows it. -/
def parseList (n : Nat) (b : Bytes) : Option (List DmaDesc × Bytes) :=
  match n with
  | 0 => none
  | m + 1 =>
    if b.length < 16 then none else
    match parseDesc (b.take 16) with
    | none => none
    | some d =>
      if d.last || d.chain then some ([d], b.drop 16)
      else (parseList m (b.drop 16)).map (fun p => (d :: p.1, p.2))

/-- The data descriptors of a list, its CHAIN descriptor left out. -/
def dataDescs (l : List DmaDesc) : List DmaDesc := l.filter (fun d => !d.chain)

/-- The CHAIN descriptor that ends a list. -/
def chainOf (l : List DmaDesc) : Option DmaDesc := l.find? (fun d => d.chain)

/-- Follow the chained lists, whose bytes the DMA read gives in order (R65); none when a list breaks R65. -/
def follow (l : List DmaDesc) (lists : List Bytes) : Option (List DmaDesc) :=
  match chainOf l, lists with
  | none, _ => some (dataDescs l)
  | some _, [] => none
  | some d, b :: t =>
    match parseList 256 (b.take d.bytes) with
    | none => none
    | some (l', _) => (follow l' t).map (fun r => dataDescs l ++ r)

/-- The bytes a list of descriptors moves. -/
def total (l : List DmaDesc) : Nat := (l.map DmaDesc.bytes).sum

/-- The writes of a DMA out: the data over the descriptors in order (R65). -/
def scatter (l : List DmaDesc) (data : Bytes) : List Output :=
  match l with
  | [] => []
  | d :: t => if data.isEmpty then [] else
      .hostWrite (BitVec.ofNat 64 d.addr) (data.take d.bytes) :: scatter t (data.drop d.bytes)

/-- The list and argument block of a DMA command's payload (R520): its block has `argLen` bytes. -/
def dmaPayload (argLen : Nat) (p : Bytes) : Option (List DmaDesc × Bytes) :=
  match parseList 15 p with
  | none => none
  | some (l, rest) => if rest.length = argLen then some (l, rest) else none

end Sys2Proof.Machine

namespace Sys2Proof

/-- A monitor's ratio (R31), (deadline − release) / (completion − release) as unsigned 8.8, truncated toward zero and saturating. -/
def MonRec.ratio (r : MonRec) : Nat :=
  if r.completion ≤ r.release then 0xFFFF else min 0xFFFF (256 * (r.deadline - r.release) / (r.completion - r.release))

end Sys2Proof
end

