-- ==== Sys2Proof/Machine/Flags.lean ====
section
/-!
DEFINITION. Flags the host sees: MSI-X messages, the event bits of GSTAT_EVENTS, PRESS_HOLD_N, the life cycle and
the event log.
-/
namespace Sys2Proof.Machine

/-! ### MSI-X (R42, R48, PCI Express) -/

/-- The vector's mask bit in the table: PCI Express resets it to 1 (log 7); bit 0 of the stored byte 12 is its complement. -/
def Hostif.masked (h : Hostif) (v : Nat) : Bool := h.cfg.msixMask || !(memRead h.msix (16 * v + 12)).getLsbD 0

/-- Send the message of a vector: sent when MSI-X is enabled and the vector unmasked, held pending when masked. -/
def State.signal (s : State) (v : Nat) : State :=
  if !s.host.msixOn then s
  else if s.host.masked v then { s with host := { s.host with pba := addTo s.host.pba v } }
  else s.emit (.msix v)

/-- Raise an event bit: its vector is sent when the bit changes from 0 to 1 (R49). -/
def State.event (s : State) (k : Nat) : State :=
  if s.host.events.getLsbD k then s
  else { s with host := { s.host with events := s.host.events ||| BitVec.ofNat 4 (2 ^ k) } }.signal k

/-- GSTAT_EVENTS.FAULT (R48). -/
def evFault : Nat := 0
/-- GSTAT_EVENTS.SPLICE (R105). -/
def evSplice : Nat := 1
/-- GSTAT_EVENTS.LOOP (R396). -/
def evLoop : Nat := 2
/-- GSTAT_EVENTS.TIME. -/
def evTime : Nat := 3

/-! ### Device state -/

/-- GSTAT.STATE reads READY (R47). -/
def State.ready (s : State) : Bool := s.pwr.kind == 1

/-- The life cycle is BLANK or FACTORY (R485). -/
def State.lcOpen (s : State) : Bool := decide (s.otp.lc ≤ 1)

/-- The life cycle is FIELD, RETURNED or RETIRED (R485). -/
def State.lcField (s : State) : Bool := decide (2 ≤ s.otp.lc)

/-- A source's record. -/
def State.src (s : State) (n : Nat) : Source := sel s.faults.src n {}

/-- Change a source's record. -/
def State.setSrc (s : State) (n : Nat) (x : Source) : State :=
  { s with faults := { s.faults with src := put s.faults.src n x } }

/-- The reaction a source has now (R454, R470). -/
def State.reaction (s : State) (n : Nat) : Nat := s.par (P.manageFaultSourceReaction n)

/-- A PRESS_HOLD reaction is in force (R455). -/
def State.pressHeld (s : State) : Bool := s.faults.src.any (fun p => p.2.press)

/-- A HOLD_FIRE reaction is in force (R455). -/
def State.fireHeld (s : State) : Bool := s.faults.src.any (fun p => p.2.hold)

/-- A slot is muted by the FAULT source of R197. -/
def State.faultMuted (s : State) (slot : Nat) : Bool := s.faults.src.any (fun p => p.2.slots.contains slot)

/-! ### Event log (R477, R478) -/

/-- The bytes of a log entry, its CRC last. -/
def LogEntry.bytes (e : LogEntry) : Bytes :=
  let b := leB 4 e.seq.toNat ++ leB 4 e.t32.toNat ++ leB 4 e.secs.toNat ++ leB 1 e.kind ++ leB 1 e.master ++
    leB 2 e.source ++ leB 4 e.addr.toNat ++ leB 2 e.count ++ leB 2 e.epoch.toNat ++ leB 4 e.data.toNat
  b ++ leB 4 (crc32c b).toNat

/-- Entries the RAM ring holds. -/
def ramLogSize : Nat := 8192

/-- Write an entry into the RAM log; an address, count or data that the spec does not state for its kind is free (log 11). -/
def State.log (s : State) (kind master source : Nat) (addr : Option (BitVec 32)) (count : Option Nat) (data : Option (BitVec 32)) : State :=
  let e : LogEntry :=
    { seq := s.mgmt.nextSeq, t32 := s.t32, secs := BitVec.ofNat 32 s.devSec, kind := kind, master := master,
      source := source, addr := addr.getD (BitVec.ofNat 32 (Config.value s.free)), count := count.getD (Config.value (s.free + 1) % 65536),
      epoch := s.host.epoch, data := data.getD (BitVec.ofNat 32 (Config.value (s.free + 2))) }
  let lost := if ramLogSize ≤ s.mgmt.uncop then 1 else 0
  { s with mgmt := { s.mgmt with log := (e :: s.mgmt.log).take ramLogSize, nextSeq := s.mgmt.nextSeq + 1,
                                 uncop := min ramLogSize (s.mgmt.uncop + 1), lostNow := s.mgmt.lostNow + lost,
                                 lostAll := sat 32 (s.mgmt.lostAll + lost) },
           free := s.free + 3 }

/-- Initiator IDs (R16). -/
def idHob : Nat := 0x00
/-- STOKER. -/
def idStoker : Nat := 0x01
/-- FENDER. -/
def idFender : Nat := 0x02
/-- DAMPER. -/
def idDamper : Nat := 0x03
/-- FIREBOX A; B is the next. -/
def idFirebox : Nat := 0x04
/-- GRATE 0. -/
def idGrate : Nat := 0x08
/-- LOUPE 0. -/
def idLoupe : Nat := 0x10
/-- Host, local session. -/
def idLocal : Nat := 0x20
/-- Host, remote session. -/
def idRemote : Nat := 0x21
/-- Codec. -/
def idCodec : Nat := 0x28
/-- CRC scan engine 0. -/
def idScan : Nat := 0x30
/-- Fault collector: a condition without initiator. -/
def idNone : Nat := 0x3F

/-- Initiator of a session's commands. -/
def Sess.initiator (w : Sess) : Nat :=
  match w with
  | .loc _ => idLocal
  | .rem _ => idRemote

end Sys2Proof.Machine
end

