-- ==== Sys2Proof/Machine/Session.lean ====
section
/-!
DEFINITION. Speuc sessions: slots and their responses (R59 to R64), completion queues (R67 to R69, R75), the end of a
session (R57, R58) and the device epoch (R70, R71).
-/
namespace Sys2Proof.Machine

/-! ### Status codes (R64) -/
namespace St
/-- done -/
def ok : Nat := 0x0000
/-- accepted; the result follows -/
def pending : Nat := 0x0001
/-- not accepted -/
def busy : Nat := 0x0002
/-- unknown opcode -/
def badOpcode : Nat := 0x0010
/-- wrong length -/
def badLength : Nat := 0x0011
/-- a field out of range -/
def badParam : Nat := 0x0012
/-- target state -/
def state : Nat := 0x0013
/-- header token does not match -/
def noSession : Nat := 0x0020
/-- the lease ran out -/
def leaseExpired : Nat := 0x0021
/-- dropped by an epoch change -/
def discarded : Nat := 0x0030
/-- no gain -/
def noshrink : Nat := 0x0031
/-- the device store is full -/
def noSpace : Nat := 0x0032
/-- life-cycle or security state forbids -/
def denied : Nat := 0x0040
/-- an internal transaction was not acknowledged -/
def timeout : Nat := 0x0050
/-- a fault stopped the command -/
def faulted : Nat := 0x0060
end St

/-- The known opcodes (R519): 0x0106 is sent by the device only. -/
def opcodes : List Nat :=
  [0x0101, 0x0102, 0x0103, 0x0104, 0x0105, 0x0107] ++ (List.range 12).map (0x0201 + ·) ++ (List.range 4).map (0x0301 + ·) ++
  (List.range 4).map (0x0401 + ·) ++ (List.range 5).map (0x0501 + ·) ++ (List.range 7).map (0x0601 + ·) ++
  (List.range 5).map (0x0701 + ·) ++ (List.range 7).map (0x0801 + ·) ++ (List.range 7).map (0x0901 + ·) ++
  (List.range 4).map (0x0A01 + ·) ++ (List.range 6).map (0x0B01 + ·) ++ (List.range 5).map (0x0C01 + ·) ++
  (List.range 3).map (0x0D01 + ·) ++ (List.range 7).map (0x0E01 + ·) ++ (List.range 7).map (0x0F01 + ·) ++
  (List.range 4).map (0x1001 + ·) ++ (List.range 4).map (0x1101 + ·)

/-! ### Sessions and slots -/

/-- A session's record. -/
def State.ses (s : State) (w : Sess) : Session :=
  match w with
  | .loc i => sel s.host.loc i.val {}
  | .rem i => sel s.host.rem i.val {}

/-- Replace a session's record. -/
def State.setSes (s : State) (w : Sess) (x : Session) : State :=
  match w with
  | .loc i => { s with host := { s.host with loc := put s.host.loc i.val x } }
  | .rem i => { s with host := { s.host with rem := put s.host.rem i.val x } }

/-- Scratchpad address of a session's slot image (R434). -/
def slotBase (w : Sess) : Nat :=
  match w with
  | .loc i => 256 * i.val
  | .rem i => 0x4000 + 256 * i.val

/-- A session's vector (R48); a remote session has none. -/
def State.slotSignal (s : State) (w : Sess) : State :=
  match w with
  | .loc i => s.signal (8 + i.val)
  | .rem _ => s

/-- Read the shared scratchpad. -/
def State.scratch (s : State) (a n : Nat) : Bytes := memReadN s.chip.scratch a n

/-- Write the shared scratchpad. -/
def State.setScratch (s : State) (a : Nat) (b : Bytes) : State :=
  { s with chip := { s.chip with scratch := memWriteN s.chip.scratch a b } }

/-- The command that a slot image holds, stamped with an epoch (R59, R60, R70); of its flags only IRQ and DMA are kept (R7, R63). -/
def parseCmd (b : Bytes) (epoch : BitVec 16) : Cmd :=
  { op := u16 b 0, flags := BitVec.ofNat 16 (u16 b 2) &&& 0x5000, seq := BitVec.ofNat 32 (u32 b 4),
    pay := slice b 16 (min 240 (u16 b 12)), epoch := epoch }

/-- The flag DMA of a command (R59). -/
def Cmd.dma (c : Cmd) : Bool := c.flags.getLsbD 12

/-- The flag IRQ of a command (R59). -/
def Cmd.irq (c : Cmd) : Bool := c.flags.getLsbD 14

/-- Write a response into a slot (R63): payload, then status, sequence and length, then opcode and flags with DONE. -/
def State.writeSlot (s : State) (w : Sess) (c : Cmd) (status : Nat) (pay : Bytes) : State :=
  let b := slotBase w
  let s := s.setScratch (b + 16) pay
  let s := s.setScratch (b + 12) (leB 2 pay.length ++ leB 2 status)
  let s := s.setScratch (b + 4) (leB 4 c.seq.toNat)
  s.setScratch b (leB 2 c.op ++ leB 2 (c.flags ||| 0x8000).toNat)

/-- Answer a command in its slot (R50, R63); a remote answer is sent to its peer and stored (R73, R74). The slot is then free. -/
def State.deliver (s : State) (w : Sess) (c : Cmd) (status : Nat) (pay : Bytes) : State :=
  let s := s.writeSlot w c status pay
  let img := s.scratch (slotBase w) 256
  let x := s.ses w
  match w with
  | .loc _ =>
    let s := s.setSes w { x with cmd := none }
    if c.irq then s.slotSignal w else s
  | .rem _ =>
    (s.setSes w { x with cmd := none, stored := img }).emit (.datagram x.port x.peer img)

/-! ### Completion queues -/

/-- The 32 bytes of a completion entry (R68). -/
def entryBytes (seq : BitVec 32) (op status : Nat) (epoch : BitVec 16) (unit : Nat) (phase : Bool) (obj : Nat) (result : Nat)
    (t : BitVec 32) : Bytes :=
  leB 4 seq.toNat ++ leB 2 op ++ leB 2 status ++ leB 2 epoch.toNat ++ leB 1 unit ++ leB 1 (b2n phase) ++
    leB 4 obj ++ leB 8 result ++ leB 4 t.toNat ++ leB 4 0

/-- The slot image that carries a remote completion entry (R75). -/
def remoteImage (token : BitVec 32) (entry : Bytes) : Bytes :=
  padTo 256 (leB 2 0x0106 ++ leB 2 0x8000 ++ entry.take 4 ++ leB 4 token.toNat ++ leB 2 32 ++ leB 2 0 ++ entry)

/-- Post a completion entry (R50, R68, R69, R75): into the ring in host memory, or kept and sent to the remote client. -/
def State.post (s : State) (w : Sess) (c : Cmd) (status obj result unit : Nat) : State :=
  let x := s.ses w
  match x.cq with
  | none => s
  | some q =>
    let e := entryBytes c.seq c.op status c.epoch unit q.phase obj result s.t32
    let wrap := q.tail + 1 == q.depth
    let q' : Cq := { q with reserved := q.reserved - 1, used := q.used + 1, tail := if wrap then 0 else q.tail + 1,
                            phase := if wrap then !q.phase else q.phase }
    match w with
    | .loc _ =>
      ((s.setSes w { x with cq := some q' }).emit (.hostWrite (q.base + BitVec.ofNat 64 (32 * q.tail)) e)).slotSignal w
    | .rem i =>
      let s := s.setScratch (0x10000 + 2048 * i.val + 32 * q.tail) e
      (s.setSes w { x with cq := some q', entries := x.entries ++ [(c.seq, e, s.now)] }).emit
        (.datagram x.port x.peer (remoteImage x.token e))

/-- Whether a command that may answer PENDING can reserve an entry: STATE without a queue (R67), BUSY when full (R69). -/
def State.queueCheck (s : State) (w : Sess) : Nat :=
  match (s.ses w).cq with
  | none => St.state
  | some q => if q.depth < q.reserved + q.used + 1 then St.busy else St.ok

/-- The PENDING command of a session with a sequence. -/
def State.pend? (s : State) (w : Sess) (seq : BitVec 32) : Option Pend :=
  s.host.pends.find? (fun p => p.who == w && p.cmd.seq == seq)

/-- Drop a PENDING command from the list. -/
def State.unpend (s : State) (w : Sess) (seq : BitVec 32) : State :=
  { s with host := { s.host with pends := s.host.pends.eraseP (fun p => p.who == w && p.cmd.seq == seq) } }

/-- Complete a PENDING command: its entry is posted and it is done. -/
def State.complete (s : State) (p : Pend) (status result unit : Nat) : State :=
  (s.unpend p.who p.cmd.seq).post p.who p.cmd status p.obj.toNat result unit

/-- Complete a PENDING command whose entry names another object. -/
def State.completeObj (s : State) (p : Pend) (status obj result unit : Nat) : State :=
  (s.unpend p.who p.cmd.seq).post p.who p.cmd status obj result unit

/-! ### The answer of a command -/

/-- What executing an accepted command gives: a final answer, or PENDING with the object of its entry, what the command took
and the payload of the answer. -/
inductive Reply where
  | done (status : Nat) (pay : Bytes) (s : State)
  | pend (obj : Nat) (s : State) (data : Bytes := []) (pay : Bytes := [])

/-- Answer a status other than OK, changing nothing (R522). -/
def refuse (s : State) (status : Nat) : Reply := .done status [] s

/-- A command of the slot's payload form (R518, R520): DMA 0 and exactly `n` bytes. -/
def plain (s : State) (c : Cmd) (n : Nat) (k : Reply) : Reply :=
  if c.dma then refuse s St.badParam else if c.pay.length ≠ n then refuse s St.badLength else k

/-- A DMA command (R65, R520): the list and an argument block of `n` bytes. -/
def dmaForm (s : State) (c : Cmd) (n : Nat) (k : List DmaDesc → Bytes → Reply) : Reply :=
  if !c.dma then refuse s St.badParam
  else if c.pay.length % 16 ≠ 0 then refuse s St.badLength
  else match parseList 15 c.pay with
    | none => refuse s St.badParam
    | some (l, rest) => if rest.length ≠ n then refuse s St.badLength else k l rest

/-- Check a condition of a status (R61). -/
def need (s : State) (b : Bool) (status : Nat) (k : Reply) : Reply := if b then k else refuse s status

/-- A command that may answer PENDING needs a completion queue (R67). -/
def hasQueue (s : State) (w : Sess) (k : Reply) : Reply := if (s.ses w).cq.isNone then refuse s St.state else k

/-- While the device is UPDATING it admits the SESSION and UPDATE commands of R482 only; every other command completes STATE (R523). -/
def vet (s : State) (k : Reply) : Reply := if s.pwr.kind == 2 then refuse s St.state else k

/-- A command that R485 denies while the life cycle is RETIRED (R523). -/
def notRetired (s : State) (k : Reply) : Reply := if s.otp.lc = 4 then refuse s St.denied else k

/-- Reserve an entry and list the command as PENDING. -/
def State.reserve (s : State) (w : Sess) (c : Cmd) (obj : Nat) (data : Bytes) : State :=
  let x := s.ses w
  let s := s.setSes w { x with cq := x.cq.map (fun q => { q with reserved := q.reserved + 1 }) }
  { s with host := { s.host with pends := s.host.pends ++ [{ who := w, cmd := c, obj := BitVec.ofNat 32 obj, data := data }] } }

/-- Deliver the answer of a command, or mark it PENDING when its queue has room. -/
def State.reply (s : State) (w : Sess) (c : Cmd) (r : Reply) : State :=
  match r with
  | .done status pay s' => s'.deliver w c status pay
  | .pend obj s' data pay =>
    if s.queueCheck w = St.ok then (s'.reserve w c obj data).deliver w c St.pending pay else s.deliver w c (s.queueCheck w) []

/-- Execute the accepted command of a session when it has the opcode: answer it, or mark it PENDING. -/
def State.runCmd (s : State) (w : Sess) (op : Nat) (f : Cmd → Reply) : State :=
  match (s.ses w).cmd with
  | none => s
  | some c => if c.op ≠ op then s else s.reply w c (f c)

/-- The descriptors of a DMA command and its argument block (R65, R520). -/
def Cmd.list (c : Cmd) : List DmaDesc × Bytes := (parseList 15 c.pay).getD ([], [])

/-- The argument block. -/
def Cmd.arg (c : Cmd) : Bytes := c.list.2

/-- A length fixed by row and argument that the slot's own descriptors do not carry (R581). -/
def fixedLen (s : State) (l : List DmaDesc) (n : Nat) (k : Reply) : Reply :=
  if (chainOf l).isNone ∧ total l ≠ n then refuse s St.badParam else k

/-- The data descriptors of a PENDING command with its chained lists; none when a list breaks R65. -/
def Pend.descs (p : Pend) (chain : List Bytes) : Option (List DmaDesc) := follow p.cmd.list.1 chain

/-- The data a DMA in brings, as long as its descriptors say. -/
def Pend.dataIn (p : Pend) (chain : List Bytes) (data : Bytes) : Option Bytes := (p.descs chain).map (fun l => padTo (total l) data)

/-- The work of a PENDING command ends. -/
def State.finish (s : State) (who : Sess) (seq : BitVec 32) (ops : List Nat) (f : Pend → State) : State :=
  match s.pend? who seq with
  | some p => if ops.contains p.cmd.op then f p else s
  | none => s

/-- Complete a DMA out: its data over the descriptors; NO_SPACE when the list is shorter (R581), BAD_PARAM when a chained list is bad. -/
def State.finishOut (s : State) (p : Pend) (chain : List Bytes) (data : Bytes) (result unit : Nat) : State :=
  match p.descs chain with
  | none => s.complete p St.badParam 0 idHob
  | some l =>
    if total l < data.length then s.complete p St.noSpace 0 idHob
    else (s.emits (scatter l data)).complete p St.ok result unit

/-- The command in a session's slot has applied its effect: an epoch change that this effect brings does not discard it (R70). -/
def State.taken (s : State) (w : Sess) : State := s.setSes w { s.ses w with cmd := none }

/-- The rest `k` of a PENDING command's work, unless an epoch change has discarded it meanwhile (R70). -/
def State.still (s : State) (p : Pend) (k : State) : State := if (s.pend? p.who p.cmd.seq).isSome then k else s

/-! ### Failing paths of commands that are cut off (R70, R84, R92, R109) -/

/-- A directory entry. -/
def State.job (s : State) (i : Nat) : Job := sel s.lib.dir i {}

/-- Replace a directory entry. -/
def State.setJob (s : State) (i : Nat) (j : Job) : State := { s with lib := { s.lib with dir := put s.lib.dir i j } }

/-- Empty a directory entry. -/
def State.emptyJob (s : State) (i : Nat) : State := { s with lib := { s.lib with dir := cut s.lib.dir i } }

/-- Leave the target of a PENDING command as its failing path does. -/
def State.undo (s : State) (p : Pend) : State :=
  let i := p.obj.toNat
  let mine : Option (Sess × BitVec 32) := some (p.who, p.cmd.seq)
  if p.cmd.op = 0x0201 ∨ p.cmd.op = 0x0203 then (if (s.job i).state = 1 then s.emptyJob i else s)
  else if p.cmd.op = 0x0204 then
    (if (s.job i).state = 3 then s.setJob i { s.job i with state := 2, staged := [], stageBytes := 0 } else s)
  else if p.cmd.op = 0x1103 then
    { s with chip := { s.chip with comp := s.chip.comp.filter (fun j => j.who != mine),
                                   decomp := s.chip.decomp.filter (fun j => j.who != mine) } }
  else if p.cmd.op = 0x1104 then
    { s with chip := { s.chip with scans := s.chip.scans.map (fun (e : Nat × Scan) => if e.2.who == mine then (e.1, {}) else e) } }
  else if p.cmd.op = 0x0906 then
    { s with cam := { s.cam with ctx := s.cam.ctx.map (fun (e : Nat × Ctx) => (e.1,
        { e.2 with capt := e.2.capt.filter (fun q => some (q.who, q.seq) != mine) })) } }
  else if p.cmd.op = 0x0705 then
    { s with links := s.links.map (fun (e : Nat × SlotLink) => (e.1, { e.2 with refresh := e.2.refresh.filter (fun q => some q != mine) })) }
  else if p.cmd.op = 0x0B04 then
    { s with time := { s.time with sched := s.time.sched.filter (fun (e : Nat × Sched) => e.2.owner != mine) } }
  else if p.cmd.op = 0x0E01 then { s with mgmt := { s.mgmt with upd := { s.mgmt.upd with state := 3, who := none, erasing := false } } }
  else s

/-! ### The end of a session (R57, R58) -/

/-- The image that is not running: 0 A, 1 B. -/
def Flash.img (f : Flash) (k : Nat) : Image := if k = 0 then f.imgA else f.imgB

/-- Replace an image. -/
def Flash.setImg (f : Flash) (k : Nat) (x : Image) : Flash := if k = 0 then { f with imgA := x } else { f with imgB := x }

/-- Abandon an open update: its target image is left FAILED (R483). -/
def State.abandonUpdate (s : State) : State :=
  let k := s.mgmt.upd.img
  { s with mgmt := { s.mgmt with upd := { s.mgmt.upd with state := 3, who := none, erasing := false } },
           flash := s.flash.setImg k { s.flash.img k with verified := 2 } }

/-- Close the job window of a session without a commit: its entry returns to EMPTY (R109). -/
def State.closeWindow (s : State) (w : Sess) : State :=
  match s.host.bar2 with
  | some b => if b.who == w then { s.emptyJob b.index with host := { s.host with bar2 := none } } else s
  | none => s

/-- End a session (R58): its commands complete without a report, its windows, previews and update end, its queue goes. -/
def State.endSession (s : State) (w : Sess) : State :=
  -- a scheduled JOB_START still executes (R337)
  let mine := s.host.pends.filter (fun p => p.who == w && p.cmd.op != 0x0B04)
  let s := mine.foldl State.undo s
  let s := { s with host := { s.host with pends := s.host.pends.filter (fun p => !(p.who == w)) } }
  let s := s.closeWindow w
  let s := { s with cam := { s.cam with ctx := s.cam.ctx.map (fun (e : Nat × Ctx) =>
              (e.1, { e.2 with prev := e.2.prev.filter (fun p => !(p.who == w)) })) } }
  let s := if s.mgmt.upd.who == some w then s.abandonUpdate else s
  let x := s.ses w
  s.setSes w { x with isOpen := false, cmd := none, cq := none, lastSeq := none, stored := [], entries := [], last := x.token }

/-! ### The device epoch (R70, R71) -/

/-- The command in a session's slot is discarded when its stamp is older than `e`. -/
def State.discardSlot (s : State) (e : BitVec 16) (w : Sess) : State :=
  match (s.ses w).cmd with
  | some c => if c.epoch = e then s else s.deliver w c St.discarded []
  | none => s

/-- A PENDING command is discarded when its stamp is older and it has not applied its effect. -/
def State.discardPend (s : State) (e : BitVec 16) (p : Pend) : State :=
  if p.cmd.epoch = e ∨ p.applied then s else (s.undo p).complete p St.discarded 0 idHob

/-- The epoch increments and older work is discarded; kind FLR discards local work only (R70). -/
def State.epochUp (s : State) (kind source : Nat) : State :=
  let e := s.host.epoch + 1
  let s := { s with host := { s.host with epoch := e, ecKind := kind, ecSource := source, ecEpoch := e, epochAt := some s.now } }
  let locs := (s.host.loc.map Prod.fst).filterMap (fun i => if h : i < 64 then some (Sess.loc ⟨i, h⟩) else none)
  let rems := if kind = 4 then [] else
    (s.host.rem.map Prod.fst).filterMap (fun i => if h : i < 64 then some (Sess.rem ⟨i, h⟩) else none)
  let s := (locs ++ rems).foldl (fun s w => s.discardSlot e w) s
  let ps := s.host.pends.filter (fun p => match p.who with | .loc _ => true | .rem _ => decide (kind ≠ 4))
  ps.foldl (fun s p => s.discardPend e p) s

end Sys2Proof.Machine
end

