-- ==== Sys2Proof/Machine/Web.lean ====
section
/-!
DEFINITION. Web position, fire position, the velocity model (R302 to R308) and the speed ceiling with its outputs
(R37, R196, R313 to R316, R509).
-/
namespace Sys2Proof.Machine

/-- One web unit in the units of W (R302). -/
def wuUnit : Nat := 2 ^ 24

/-- Line length L in web units at a pitch in lines per inch (R302). -/
def lineWu (pitch : Nat) : Nat := if pitch = 600 then 12 else if pitch = 900 then 8 else 6

/-- Line length L in the units of W, at the pitch in force (R302). -/
def State.lineLen (s : State) : Nat := lineWu (s.parLine P.motionFirePitch) * wuUnit

/-- Fire position before wrapping: floor(W_max / L). -/
def State.posRaw (s : State) : Nat := (s.motion.wMax / (s.lineLen : Int)).toNat

/-- Fire position P (R302). -/
def State.pos (s : State) : Nat := s.posRaw % 2 ^ 32

/-- An encoder channel. -/
def State.enc (s : State) (c : Nat) : Enc := sel s.motion.enc c {}

/-- Replace an encoder channel. -/
def State.setEnc (s : State) (c : Nat) (e : Enc) : State := { s with motion := { s.motion with enc := put s.motion.enc c e } }

/-- State of a channel: 0 OFF, 1 OK, 2 FAILED (R320). -/
def State.encState (s : State) (c : Nat) : Nat :=
  if s.par (P.motionEncEnable c) = 0 then 0 else if (s.enc c).failed then 2 else 1

/-! ### Velocity (R307, R308) -/

/-- Edges in a velocity window: the smaller of `window_edges` and the edges counted since the model became valid (R307). -/
def State.velN (s : State) : Nat := min (s.parLine P.motionVelWindowEdges) s.motion.vSince

/-- Distance (units of W) and time (TCLK) of the N edges that end k edges back; none before the first edge of a valid model (log 13). -/
def State.velSpan (s : State) (k : Nat) : Option (Int × Nat) :=
  match s.motion.vTimes[k]?, s.motion.vTimes[k + s.velN]? with
  | some (t1, w1), some (t0, w0) => if t0 < t1 then some (w1 - w0, t1 - t0) else none
  | _, _ => none

/-- `motion.vel.lps`, 0 while the model is invalid. -/
def State.lps (s : State) : Nat :=
  if !s.motion.vValid then 0 else
  match s.velSpan 0 with
  | some (d, t) => sat 32 ((d * 625000000) / ((s.lineLen : Int) * t)).toNat
  | none => 0

/-- `motion.vel.edge_hz`, 0 while the model is invalid. -/
def State.edgeHz (s : State) : Nat :=
  if !s.motion.vValid then 0 else
  match s.velSpan 0 with
  | some (_, t) => min 25000000 (s.velN * 625000000 / t)
  | none => 0

/-- Distance gained after `t` TCLK with velocity d1/t1 and the acceleration of the last two windows, times 2 * t1 * t0 * (t1 + t0). -/
def travel (d1 : Int) (t1 : Nat) (d0 : Int) (t0 : Nat) (t : Int) : Int :=
  2 * d1 * t0 * (t1 + t0) * t + 2 * (d1 * t0 - d0 * t1) * t * t

/-- The least time up to 2^n at which the travel reaches a goal, by halving. -/
def reachTime (n : Nat) (f : Int → Bool) (t : Int) : Option Int :=
  match n with
  | 0 => if f t then some t else none
  | m + 1 => if f (t + (2 ^ m : Nat) - 1) then reachTime m f t else reachTime m f (t + (2 ^ m : Nat))

/-- Predicted link time at which W_max reaches line p (R308); none when the model is invalid or never reaches it. -/
def State.predict (s : State) (p : Nat) : Option Nat :=
  if !s.motion.vValid then none else
  match s.velSpan 0, s.motion.vTimes[0]? with
  | some (d1, t1), some (last, w) =>
    let raw := s.posRaw / 2 ^ 32 * 2 ^ 32 + p
    let raw := if raw + 2 ^ 31 < s.posRaw then raw + 2 ^ 32 else raw
    let goal := (raw : Int) * s.lineLen - w
    let prev := s.velSpan s.velN
    let d0 := (prev.map Prod.fst).getD d1
    let t0 := (prev.map Prod.snd).getD t1
    if d1 ≤ 0 then none else
    let need := goal * (2 * t1 * t0 * (t1 + t0))
    -- while the press slows, the model holds up to the moment it would stand
    let f := fun t => decide (need ≤ travel d1 t1 d0 t0 t) ||
      decide (d1 * t0 * (t1 + t0) + 2 * (d1 * t0 - d0 * t1) * t < 0)
    match reachTime 40 f 0 with
    | some t => if need ≤ travel d1 t1 d0 t0 t then some (last + t.toNat) else none
    | none => none
  | _, _ => none

/-! ### The speed ceiling -/

/-- The configured press maximum. -/
def State.pressMax (s : State) : Nat := s.par P.motionCeilingPressMaxLps

/-- Head temperature record of a slot. -/
def State.head (s : State) (slot : Nat) : SlotHead := sel s.fire.heads slot {}

/-- Replace it. -/
def State.setHead (s : State) (slot : Nat) (h : SlotHead) : State := { s with fire := { s.fire with heads := put s.fire.heads slot h } }

/-- The head-temperature contribution (R196). -/
def State.headLps (s : State) : Nat :=
  if s.fire.heads.any (fun p => p.2.soft) then s.pressMax * (1000 - s.par P.fireTempDeratePm) / 1000 else s.pressMax

/-- The HOPPER contribution; the press maximum while no ring is named (R106). -/
def State.hopperLps (s : State) : Nat := min 120000 (s.motion.hopper.getD s.pressMax)

/-- The DRAUGHT contribution (R36). -/
def State.draughtLps (s : State) : Nat := s.motion.draught

/-- The speed ceiling (R37, R313). -/
def State.ceiling (s : State) : Nat :=
  if s.pressHeld then 0 else min (min s.pressMax s.draughtLps) (min s.hopperLps s.headLps)

/-- PRESS_HOLD_N is asserted (R316). -/
def State.pressHoldN (s : State) : Bool :=
  !s.ready || s.pressHeld || decide (s.ceiling < s.par P.motionCeilingHoldLps)

/-- Code of SPD_DAC_OUT for a ceiling (R314). -/
def State.dacCode (s : State) (ceil : Nat) : Nat :=
  let f := s.par P.motionDacFullLps
  min 65535 ((2 * 65535 * ceil + f) / (2 * f))

/-- Code the slew of R509 has reached: `dac_slew_mv_ms` from READY on, 2.5 V at code 65,535. -/
def State.slewCode (s : State) (since : Nat) : Nat :=
  (s.now - since) * s.par P.manageTrimDacSlewMvMs * 65535 / (2500 * perMs)

/-- Code at SPD_DAC_OUT now (R314, R509). -/
def State.dacNow (s : State) : Nat :=
  if !s.ready then 0 else
  match s.motion.slewAt with
  | some t => min (s.slewCode t) (s.dacCode s.motion.ceilWas)
  | none => s.dacCode s.motion.ceilWas

/-- What SPD_DAC_OUT carries for a code, with the factory gain and offset applied (R314); an unprogrammed trim record is neutral (R507). -/
def State.dacTrimmed (s : State) (code : Nat) : Nat :=
  match s.otp.trim with
  | some r => Config.dacTrim r.dacGain r.dacOff code
  | none => code

/-- Flags of the ceiling message (R315). -/
def State.ceilFlags (s : State) : Nat :=
  b2n s.pressHoldN + 2 * b2n s.motion.vValid + 4 * b2n s.motion.rev + 8 * b2n (s.src F.encLost).sticky

/-- The 40 bytes of the ceiling message (R315). -/
def State.ceilMsg (s : State) : Bytes :=
  leB 4 0x4D535043 ++ leB 4 s.motion.seq.toNat ++ leB 4 s.ceiling ++ leB 4 s.pressMax ++ leB 4 s.draughtLps ++
    leB 4 s.hopperLps ++ leB 4 s.headLps ++ leB 4 s.lps ++ leB 1 s.ceilFlags ++ leB 3 0 ++ leB 4 s.motion.ceilT32.toNat

/-- Send one ceiling datagram; the sequence rises by 1 (R315). -/
def State.sendCeilOn (s : State) (port : Nat) : State :=
  let peer := BitVec.ofNat 48 (s.par P.motionMsgIp * 65536 + s.par P.motionMsgUdpPort)
  let s := s.emit (.datagram port peer s.ceilMsg)
  { s with motion := { s.motion with seq := s.motion.seq + 1 } }

/-- Send the ceiling datagram from each selected port (R315). -/
def State.sendCeil (s : State) : State :=
  if s.par P.motionMsgEnable = 0 then s else
  (unmask 2 (s.par P.motionMsgPortMask)).foldl State.sendCeilOn s

/-- After a change of a contribution, a reaction or a limit: the outputs follow the ceiling (R314 to R316, R509). -/
def State.refresh (s : State) : State :=
  let c := s.ceiling
  let was := s.motion.ceilWas
  let out := s.dacNow
  let s := if c = was then s else
    { s with motion := { s.motion with ceilWas := c, ceilT32 := s.t32, fellAt := if c < was then s.now else s.motion.fellAt,
                                       slewAt := if s.dacCode c < out then none else s.motion.slewAt } }
  let f := s.ceilFlags
  let code := s.dacNow
  let s := if code ≠ s.motion.dacWas then
    { s with motion := { s.motion with dacWas := code } }.emit (.ball "SPD_DAC_OUT" (s.dacTrimmed code)) else s
  let s := if bit f 0 != bit s.motion.flagsWas 0 then s.emit (.ball "PRESS_HOLD_N" (1 - b2n (bit f 0))) else s
  if c ≠ was ∨ f ≠ s.motion.flagsWas then
    { s with motion := { s.motion with flagsWas := f } }.sendCeil else s

end Sys2Proof.Machine
end

