-- ==== Sys2Proof/Machine/Streams.lean ====
section
/-!
DEFINITION. The image pipeline of LOUPE (R357 to R366) and where its streams go when a frame closes or is dropped (R351, R356,
R367 to R371). A hit of the fault collector is an argument, since a block's reset closes frames itself.
-/
namespace Sys2Proof.Machine

/-! ### Corrections and reconstruction -/

/-- What the pipeline reads for a frame: its samples, its context's geometry, pattern, black levels, shading and defects. -/
structure Pipe where
  w : Nat
  height : Nat
  rows : List (List Nat)
  patW : Nat
  patH : Nat
  pat : List Nat
  black : List Nat
  shadeOn : Bool
  shade : List Nat
  defs : List (BitVec 32)
deriving DecidableEq, Repr

/-- Lines the frame has. -/
def Pipe.lines (p : Pipe) : Nat := p.rows.length

/-- Kind of the cell at a column and line (R361). -/
def Pipe.kind (p : Pipe) (x y : Nat) : Nat := bits ((p.pat[y % p.patH]?).getD 0) (4 * (x % p.patW)) 4

/-- The black-corrected sample s' (R357). -/
def Pipe.dark (p : Pipe) (x y : Nat) : Nat :=
  ((p.rows[y]?).bind (fun r => r[x]?)).getD 0 - (p.black[4 * (y % p.patH) + x % p.patW]?).getD 0

/-- A sample the defective-pixel table names (R358). -/
def Pipe.bad (p : Pipe) (x y : Nat) : Bool :=
  p.defs.any (fun d => d.toNat / 2 ^ 14 % 2 ^ 13 == x && (d.getLsbD 27 || d.toNat % 2 ^ 14 == y))

/-- A position outside [0, n) as its mirror inside, about the edge sample (R359). -/
def mirror (i : Int) (n : Nat) : Nat :=
  let a := i.natAbs
  min (n - 1) (if n ≤ a then 2 * (n - 1) - a else a)

/-- The mean (sum + n div 2) div n, none over no samples (R359). -/
def meanOf (l : List Nat) : Option Nat := if l.isEmpty then none else some ((l.sum + l.length / 2) / l.length)

/-- The positions of the square of radius r about a sample, the sample left out, mirrored at the edges (R359, R362). -/
def Pipe.near (p : Pipe) (r x y : Nat) : List (Nat × Nat) :=
  (List.range (2 * r + 1)).flatMap (fun j => (List.range (2 * r + 1)).filterMap (fun i =>
    if i = r ∧ j = r then none else some (mirror ((x : Int) + i - r) p.w, mirror ((y : Int) + j - r) p.lines)))

/-- A sample with a defective one replaced (R359). -/
def Pipe.whole (p : Pipe) (x y : Nat) : Nat :=
  if !p.bad x y then p.dark x y else
  let m := fun r => meanOf (((p.near r x y).filter (fun q => p.kind q.1 q.2 == p.kind x y && !p.bad q.1 q.2)).map (fun q => p.dark q.1 q.2))
  ((m 1).orElse (fun _ => m 2)).getD 0

/-- Gain of a node (u, v) for a kind (R360). -/
def Pipe.node (p : Pipe) (u v k : Nat) : Nat := (p.shade[5 * (33 * v + u) + k]?).getD 0

/-- The node at or before a column or line of an axis of n, and the part of a cell beyond it, in 1/(n - 1). -/
def nodeAt (i n : Nat) : Nat × Nat := if n ≤ 1 then (0, 0) else let u := min 31 (32 * i / (n - 1)); (u, 32 * i - u * (n - 1))

/-- A sample after lens shading: (s' * g) div 4,096 with the bilinear gain g, at most 65,535 (R360). -/
def Pipe.shaded (p : Pipe) (x y : Nat) : Nat :=
  let s := p.whole x y
  if !p.shadeOn then min 65535 s else
  let (u, fx) := nodeAt x p.w
  let (v, fy) := nodeAt y p.height
  let dx := max 1 (p.w - 1)
  let dy := max 1 (p.height - 1)
  let k := p.kind x y
  let g := p.node u v k * (dx - fx) * (dy - fy) + p.node (u + 1) v k * fx * (dy - fy) +
    p.node u (v + 1) k * (dx - fx) * fy + p.node (u + 1) (v + 1) k * fx * fy
  min 65535 (s * g / (4096 * dx * dy))

/-- A pixel's value for a kind (R362). -/
def Pipe.value (p : Pipe) (x y k : Nat) : Nat :=
  if p.kind x y = k then p.shaded x y else
  let m := fun r => meanOf (((p.near r x y).filter (fun q => p.kind q.1 q.2 == k)).map (fun q => p.shaded q.1 q.2))
  ((m 1).orElse (fun _ => m 2)).getD 0

/-- The mean of a block of scale x scale pixels for a kind (R363). -/
def Pipe.block (p : Pipe) (x y scale k : Nat) : Nat :=
  (meanOf ((List.range scale).flatMap (fun j => (List.range scale).map (fun i => p.value (x + i) (y + j) k)))).getD 0

/-! ### Streams -/

/-- FRAME_SHORT and the other flags of R366. -/
def flShort : BitVec 16 := 1
/-- FRAME_LONG. -/
def flLong : BitVec 16 := 2
/-- FE_MISSING. -/
def flNoEnd : BitVec 16 := 4
/-- LINE_WIDTH. -/
def flWidth : BitVec 16 := 8
/-- LINE_LOST. -/
def flLost : BitVec 16 := 16
/-- CRC_ERR. -/
def flCrc : BitVec 16 := 32
/-- UNTRIGGERED. -/
def flUntrig : BitVec 16 := 64
/-- DROPPED. -/
def flDropped : BitVec 16 := 128
/-- EXCLUDE. -/
def flExclude : BitVec 16 := 0x8000

/-- EXCLUDE follows from every flag but FRAME_LONG and FE_MISSING (R366). -/
def withExclude (f : BitVec 16) : BitVec 16 := if f &&& 0x00F9 = 0 then f else f ||| flExclude

/-- A camera context. -/
def State.ctx (s : State) (c : Nat) : Ctx := sel s.cam.ctx c {}

/-- Replace it. -/
def State.setCtx (s : State) (c : Nat) (x : Ctx) : State := { s with cam := { s.cam with ctx := put s.cam.ctx c x } }

/-- What the pipeline reads for a frame of a context, under its active bank. -/
def State.pipeOf (s : State) (c : Nat) (f : Frame) : Pipe :=
  { w := s.parFrame (P.inspectCtxWidth c), height := s.parFrame (P.inspectCtxHeight c), rows := f.rows,
    patW := max 1 (s.parFrame (P.inspectCtxPatW c)), patH := max 1 (s.parFrame (P.inspectCtxPatH c)),
    pat := (List.range 4).map (fun i => s.parFrame (P.inspectCtxPatternRow c i)),
    black := (List.range 16).map (fun j => s.parFrame (P.inspectCtxBlack c j)),
    shadeOn := s.parFrame (P.inspectCtxShadingEnable c) == 1, shade := f.shade, defs := f.defs }

/-- The stream t of a closed frame, when it is enabled (R363). -/
def State.stream (s : State) (c t : Nat) (f : Frame) : Option Stream :=
  let i := 4 * c + t
  if s.parFrame (P.inspectCtxStreamEnable i) = 0 then none else
  let p := s.pipeOf c f
  let (x, y) := (s.parFrame (P.inspectCtxStreamX i), s.parFrame (P.inspectCtxStreamY i))
  let scale := s.parFrame (P.inspectCtxStreamScale i)
  let w := s.parFrame (P.inspectCtxStreamW i) / scale
  let h := (min (y + s.parFrame (P.inspectCtxStreamH i)) p.lines - y) / scale
  let fmt := s.parFrame (P.inspectCtxStreamFormat i)
  let out (v : Nat) : Nat := if fmt = 1 then min 255 ((v + 128) / 256) else v
  let plane (k : Nat) : List (List Nat) := (List.range h).map (fun j => (List.range w).map (fun q => out (p.block (x + scale * q) (y + scale * j) scale k)))
  some { frame := f.count, flags := f.flags, line := f.line, t0 := f.t0, t1 := f.t1, linesIn := f.lines, w := w, h := h, x := x, y := y,
         scale := scale, fmt := fmt,
         planes := (unmask 5 (s.parFrame (P.inspectCtxStreamPlanes i))).map (fun k => (k, plane k)) }

/-- Stride of a plane line (R365). -/
def strideOf (w fmt : Nat) : Nat := (w * (if fmt = 1 then 1 else 2) + 63) / 64 * 64

/-- The plane data of a stream (R365); the spec gives no value to a line's padding: a free byte (log 11). -/
def Stream.data (x : Stream) (pad : Byte) : Bytes :=
  let n := if x.fmt = 1 then 1 else 2
  let line (l : List Nat) : Bytes := l.flatMap (leB n) ++ List.replicate (strideOf x.w x.fmt - n * l.length) pad
  x.planes.flatMap (fun p => p.2.flatMap line)

/-- The 64-byte header of a stream frame (R365). -/
def Stream.header (x : Stream) (c t : Nat) (data : Bytes) : Bytes :=
  leB 1 c ++ leB 1 t ++ leB 2 x.flags.toNat ++ leB 4 x.frame ++ leB 4 x.t0.toNat ++ leB 4 x.line ++ leB 2 x.w ++ leB 2 x.h ++
    leB 1 (maskOf (x.planes.map Prod.fst)) ++ leB 1 x.fmt ++ leB 2 x.linesIn ++ leB 4 x.t1.toNat ++ leB 4 (crc32c data).toNat ++
    leB 4 0 ++ leB 28 0

/-- Bytes a stream frame takes at most: header and planes of w x h pixels (R365). -/
def streamSize (w h scale planes fmt : Nat) : Nat := 64 + (unmask 5 planes).length * (strideOf (w / scale) fmt * (h / scale))

/-- A string over buffers in order. -/
def spread (l : List (BitVec 64 × Nat)) (data : Bytes) : List Output :=
  match l with
  | [] => []
  | (a, n) :: t => if data.isEmpty then [] else .hostWrite a (data.take n) :: spread t (data.drop n)

/-! ### Delivery -/

/-- MEASURE frames a LOUPE core holds of a context (R367). -/
def measDepth : Nat := 2

/-- A MEASURE frame enters the measurement memory: one not released is overwritten (R367). -/
def Ctx.measure (x : Ctx) (m : Stream) : Ctx :=
  if measDepth ≤ x.meas.length then { x with meas := x.meas.drop 1 ++ [m], overrun := sat 32 (x.overrun + 1) }
  else { x with meas := x.meas ++ [m] }

/-- A NOZZLE frame enters the ring, when the next buffer is free (R368). -/
def State.nozzleOut (hit : State → Nat → Nat → State) (s : State) (c : Nat) (m : Stream) : State :=
  let x := s.ctx c
  if x.ringN = 0 then s
  else if x.ring.length < x.ringN then s.setCtx c { x with ring := x.ring ++ [m] }
  else hit s F.nozzleRingFull c

/-- A PREVIEW frame goes to the next host buffer, or is skipped when its ready word reads 1 (R369). -/
def State.previewOut (s : State) (c : Nat) (m : Stream) (busy : Bool) : State :=
  let x := s.ctx c
  match x.prev with
  | none => s
  | some p =>
    if busy then s.setCtx c { x with skipped := sat 32 (x.skipped + 1) } else
    match p.bufs[p.next]? with
    | none => s
    | some (a, _) =>
      let data := m.data (BitVec.ofNat 8 (Config.value s.free))
      let s := s.setCtx c { x with prev := some { p with next := if p.next + 1 < p.bufs.length then p.next + 1 else 0 } }
      (s.emits [.hostWrite (a + 64) data, .hostWrite a (m.header c 2 data), .hostWrite (a + 0x20) (leB 4 1)]).fresh

/-- A capture takes its frame: its buffer and its completion entry (R370). -/
def State.captureOut (s : State) (c : Nat) (m : Stream) (q : Capture) : State :=
  match s.pend? q.who q.seq with
  | none => s
  | some p =>
    let data := m.data (BitVec.ofNat 8 (Config.value s.free))
    let all := m.header c 3 data ++ data
    if (q.bufs.map Prod.snd).sum < all.length then s.complete p St.noSpace 0 (idLoupe + s.parFrame (P.inspectCtxPipe c))
    else ((s.emits (spread q.bufs all)).fresh).complete p St.ok (m.frame + m.flags.toNat * 2 ^ 32) (idLoupe + s.parFrame (P.inspectCtxPipe c))

/-- Where the streams of a closed or dropped frame go (R367 to R371); `busy` when the preview's ready word reads 1. -/
def State.deliverFrame (hit : State → Nat → Nat → State) (s : State) (c : Nat) (f : Frame) (busy : Bool) : State :=
  let st := fun t => s.stream c t f
  let s : State := match st 0 with | some m => s.setCtx c ((s.ctx c).measure m) | none => s
  let s : State := match st 1 with | some m => s.nozzleOut hit c m | none => s
  let s : State := match st 2 with | some m => s.previewOut c m busy | none => s
  match st 3 with
  | none => s
  | some m =>
    if f.flags &&& flDropped ≠ 0 then s else
    let go := (s.ctx c).capt.filter Capture.armed
    let s := s.setCtx c { s.ctx c with capt := (s.ctx c).capt.filter (fun q => !q.armed) }
    go.foldl (fun s q => s.captureOut c m q) s

/-- The open frame of a context closes (R351). -/
def State.closeFrame (hit : State → Nat → Nat → State) (s : State) (c : Nat) (noEnd busy : Bool) : State :=
  let x := s.ctx c
  match x.frame with
  | none => s
  | some f =>
    let short := decide (f.lines < s.parFrame (P.inspectCtxHeight c))
    let fl := f.flags ||| (if short then flShort else 0) ||| (if noEnd then flNoEnd else 0)
    let f := { f with flags := withExclude fl, t1 := s.t32 }
    let s := s.setCtx c { x with frame := none, lastF := { f with rows := [] }, short := if short then sat 32 (x.short + 1) else x.short,
                                 emb := f.emb, embF := f.count }
    let s := if short then hit s F.frameShort c else s
    s.deliverFrame hit c f busy

/-- The open frame of a context is dropped (R356): lines still in its FIFO are flushed, its outputs closed with DROPPED. -/
def State.dropFrame (hit : State → Nat → Nat → State) (s : State) (c : Nat) (busy : Bool) : State :=
  let x := s.ctx c
  match x.frame with
  | none => s
  | some f =>
    let f := { f with flags := withExclude (f.flags ||| flDropped), t1 := s.t32, rows := f.rows.take (f.rows.length - x.fifoL.length) }
    let s := s.setCtx c { x with frame := none, dropping := true, fifoL := [], dropped := sat 32 (x.dropped + 1), lastF := { f with rows := [] } }
    (hit s F.frameDropped c).deliverFrame hit c f busy

/-- Frames in progress on a port close with the lines received so far (R347). -/
def State.closePort (hit : State → Nat → Nat → State) (s : State) (p : Nat) (busy : List Nat) : State :=
  ((List.range 16).filter (fun c => s.parFrame (P.inspectCtxPort c) == p)).foldl (fun s c => s.closeFrame hit c false (busy.contains c)) s

end Sys2Proof.Machine
end

