-- ==== Sys2Proof/Machine/Faults.lean ====
section
/-!
DEFINITION. The fault collector: hits and reactions (R454 to R461), block resets and shadows (R463 to R465), the
fail-over (R217 to R219), clearing (R457, R458) and the restart of the FIREBOX pair (R226).
-/
namespace Sys2Proof.Machine

/-! ### Names that an address gives (R453, R454, R464) -/

/-- Address kind of a source (R453). -/
def addrKind (n : Nat) : Nat := ((fsrc? n).map FSrc.kind).getD 0

/-- The source is a level source (R453). -/
def isLevel (n : Nat) : Bool := ((fsrc? n).map FSrc.level).getD false

/-- A lane's record. -/
def State.lane (s : State) (l : Nat) : Lane := sel s.lanes l {}

/-- Replace a lane's record. -/
def State.setLane (s : State) (l : Nat) (x : Lane) : State := { s with lanes := put s.lanes l x }

/-- A spare's record. -/
def State.spare (s : State) (k : Nat) : Spare := sel s.spares k {}

/-- Replace a spare's record. -/
def State.setSpare (s : State) (k : Nat) (x : Spare) : State := { s with spares := put s.spares k x }

/-- The primary lane whose slots a lane carries: itself, or the primary that a spare is SERVING (R454). -/
def State.primaryOf (s : State) (l : Nat) : Option Nat := if l < 32 then some l else (s.spare (l - 32)).serving

/-- First slot of a primary lane: its CAP's P4, or the parameter before a CAP was sent (R241, R243). -/
def State.firstSlot (s : State) (l : Nat) : Nat :=
  match (s.lane l).own[3]? with
  | some x => x.toNat
  | none => s.par (P.linkLaneFirstSlot l)

/-- Slots of a primary lane as 20b + s (R243). -/
def State.primarySlots (s : State) (l : Nat) : List Nat :=
  ((List.range (s.lane l).slots).map (fun j => s.firstSlot l + j)).filterMap (fun j => if j < 20 then some (20 * (l / 4) + j) else none)

/-- Slots that a named lane serves (R454). -/
def State.laneSlots (s : State) (l : Nat) : List Nat := ((s.primaryOf l).map s.primarySlots).getD []

/-- Slots a MUTE_SLOT reaction mutes (R454). -/
def State.muteSlots (s : State) (n a : Nat) : List Nat := if addrKind n = 1 then [a] else s.laneSlots a

/-- Bar a MUTE_BAR reaction names (R454). -/
def State.muteBar (s : State) (n a : Nat) : Option Nat :=
  match addrKind n with
  | 1 => some (a / 20)
  | 2 => (s.primaryOf a).map (· / 4)
  | _ => some a

/-- Slots of a bar. -/
def barSlots (b : Nat) : List Nat := (List.range 20).map (20 * b + ·)

/-- Bar named by an address when the shadow lists are judged (R464). -/
def shadowBar (n a : Nat) : Nat := if addrKind n = 1 then a / 20 else if n = F.subUncovered then a / 102400 else a

/-- The twin bar of a bar in the pairs as configured (R157). -/
def State.twinBar (s : State) (b : Nat) : Option Nat :=
  (List.range 4).findSome? (fun p =>
    if s.par (P.rasterTwinMode p) = 0 then none
    else if s.par (P.rasterTwinBarA p) = b then some (s.par (P.rasterTwinBarB p))
    else if s.par (P.rasterTwinBarB p) = b then some (s.par (P.rasterTwinBarA p)) else none)

/-! ### Blocks and shadows -/

/-- Block of a RESET_BLOCK reaction (R463): 0 HOB, 8 + b GRATE, 16 + p LOUPE, 40 codec, 256 + p camera port. -/
def State.blockOf (s : State) (n a : Nat) : Option Nat :=
  if [0x001, 0x002, 0x005, 0x006].contains n then some 0
  else if n = 0x084 then some (8 + a / 20)
  else if n = 0x08A ∨ n = 0x08C then some (8 + a)
  else if n = 0x1C6 then some (16 + s.parFrame (P.inspectCtxPipe a))
  else if n = 0x1D8 then some (16 + a % 2)
  else if n = 0x053 then some 40
  else if n = 0x1C0 ∨ n = 0x1C2 then some (256 + a)
  else none

/-- Contexts whose shadow-list entries a block has (R464). -/
def State.blockCtxs (s : State) (blk : Nat) : List Nat :=
  (List.range 16).filter (fun c =>
    if 256 ≤ blk then s.parFrame (P.inspectCtxPort c) == blk - 256
    else if blk = 16 ∨ blk = 17 then s.parFrame (P.inspectCtxPipe c) == blk - 16 else false)

/-- A hit is in the shadow list of a shadow (R463, R464). Block 4 is the fail-over. -/
def State.covers (s : State) (h : Shadow) (n a master : Nat) : Bool :=
  let b := shadowBar n a
  if h.block = 0 then n == 0x002 || n == 0x003 || n == 0x004 || (n == 0x035 && master == idHob)
  else if h.block = 4 then n == 0x0C0 || n == 0x113 || n == 0x112
  else if h.block < 16 then
    ((n == 0x084 || n == 0x087 || n == 0x08F) && b == h.block - 8) || (n == 0x08B && s.twinBar (h.block - 8) == some b)
  else if h.block < 18 then
    ((n == 0x1C6 || n == 0x1C9) && h.ctxs.contains a) || (n == 0x1D0 && a % 2 == h.block - 16)
  else if h.block = 40 then n == 0x053 || n == 0x083
  else ((n == 0x1C0 || n == 0x1C2) && a == h.block - 256) || ((n == 0x1C3 || n == 0x1C8) && h.ctxs.contains a)

/-- A hit is masked (R464). -/
def State.shadowed (s : State) (n a master : Nat) : Bool := s.faults.shadows.any (fun h => s.covers h n a master)

/-- A block is in its reset. -/
def State.inReset (s : State) (blk : Nat) : Bool := s.faults.shadows.any (fun h => h.block == blk && h.ends.isNone)

/-- A block is in its reset or its shadow. -/
def State.inShadow (s : State) (blk : Nat) : Bool := s.faults.shadows.any (fun h => h.block == blk)

/-! ### Rings of records -/

/-- Post a splice event (R105): the oldest is lost when the ring of 64 is full. -/
def State.spliceEvent (s : State) (kind bar index line rep : Nat) : State :=
  let e : SpliceEvent := { kind := kind, bar := bar, index := index, line := BitVec.ofNat 32 line, rep := BitVec.ofNat 32 rep, t32 := s.t32 }
  let full := decide (64 ≤ s.splice.events.length)
  ({ s with splice := { s.splice with events := (if full then s.splice.events.drop 1 else s.splice.events) ++ [e],
                                      lost := if full then sat 16 (s.splice.lost + 1) else s.splice.lost } }).event evSplice

/-! ### Hits -/

/-- A FIREBOX source: recorded in a line, it ends the run of clean lines (R223). -/
def isFbSource (n : Nat) : Bool := decide (0x0D0 ≤ n ∧ n ≤ 0x0DB)

/-- The sources whose HOLD_FIRE stops the issue of descriptors (R226). -/
def isFbStop (n : Nat) : Bool := n == F.fbBothHb || n == F.fbNoStandby || n == F.fbPosition

/-- The first-error record takes a hit of reaction LOG or higher (R460, R461). -/
def State.record (s : State) (n a master access : Nat) : State :=
  let f := s.faults.fer
  let f : Fer :=
    if !f.valid then { valid := true, source := n, addr := BitVec.ofNat 32 a, master := master, access := access, t32 := s.t32, atT := s.now }
    else if f.atT = s.now then { f with simul := sat 16 (f.simul + 1) }
    else { f with merged := sat 16 (f.merged + 1) }
  { s with faults := { s.faults with fer := f } }

/-- The event-log entry of a hit: at most one per `log_gap_us`, carrying the hits it stands for (R459, R477). -/
def State.logHit (s : State) (n a master : Nat) : State :=
  let x := s.src n
  let free := x.logAt.all (fun (t : Nat) => decide (t + s.par P.manageFaultLogGapUs * perUs ≤ s.now))
  if free then
    (s.setSrc n { x with logAt := some s.now, unlogged := 0 }).log 1 master n (some (BitVec.ofNat 32 a)) (some (sat 16 (x.unlogged + 1))) none
  else s.setSrc n { x with unlogged := x.unlogged + 1 }

/-- The reactions 0 to 5 and 8 of a hit that no shadow masks (R454, R455). -/
def State.react (s : State) (n a master access : Nat) : State :=
  let r := s.reaction n
  let x := s.src n
  let s := s.setSrc n { x with sticky := true, hits := sat 16 (x.hits + 1) }
  let s := if isFbSource n then { s with fb := { s.fb with srcRec := true } } else s
  if r = 0 then s else
  let s := (s.record n a master access).logHit n a master
  let s := if 2 ≤ r then s.event evFault else s
  let x := s.src n
  if r = 3 then s.setSrc n { x with slots := (s.muteSlots n a).foldl addTo x.slots }
  else if r = 4 then s.setSrc n { x with slots := (((s.muteBar n a).map barSlots).getD []).foldl addTo x.slots }
  else if r = 5 then
    let s := s.setSrc n { x with hold := true }
    if isFbStop n then { s with fb := { s.fb with halted := true } } else s
  else if r = 8 then (s.setSrc n { x with press := true }).refresh
  else s

/-- A hit masked by a shadow (R464). -/
def State.maskHit (s : State) : State :=
  if s.faults.fer.valid then
    { s with faults := { s.faults with fer := { s.faults.fer with cons := sat 16 (s.faults.fer.cons + 1) } } }
  else s

/-- A level source's condition begins at an address (R453). -/
def State.addCond (s : State) (n a : Nat) : State :=
  if isLevel n then s.setSrc n { s.src n with conds := addTo (s.src n).conds (BitVec.ofNat 32 a) } else s

/-- A hit without the reactions that order a reset or a fail-over; nothing while the collector does not run. -/
def State.hitBasic (s : State) (n a master access : Nat) : State :=
  if !s.faults.on then s
  else
    let s := s.addCond n a
    if s.shadowed n a master then s.maskHit else s.react n a master access

/-! ### Defect records (R134) -/

/-- Post a defect record; when the ring of 256 is full the oldest is overwritten. -/
def State.defect (s : State) (d : Defect) : State :=
  let full := decide (256 ≤ s.raster.defects.length)
  let first := full && !s.raster.ovf
  let s := { s with raster := { s.raster with
    defects := (if full then s.raster.defects.drop 1 else s.raster.defects) ++ [{ d with t32 := s.t32 }],
    lost := if full then sat 32 (s.raster.lost + 1) else s.raster.lost,
    ovf := s.raster.ovf || full
    posted := s.raster.posted ++ [d] } }
  if first then s.hitBasic F.defectOverflow 0 idNone 0 else s

/-! ### RESET_BLOCK (R463 to R465) -/

/-- Initiator ID that names a block in FAULT_RESET_LIMIT (R465). -/
def blockId (blk : Nat) : Nat := if 256 ≤ blk then 0x100 + (blk - 256) else blk

/-- The line and bar are late (R33, R131). -/
def State.barLate (s : State) (line bar : Nat) : State :=
  { s with raster := { s.raster with late := addTo s.raster.late (line, bar) } }

/-- Slots of a bar that the `slot_mask` in force enables: that of the splice the bar switched to last (R129); none before one. -/
def State.enabledSlots (s : State) (b : Nat) : List Nat :=
  match s.splice.runs.find? (fun r => r.begun.getLsbD b) with
  | some r => unmask 20 (pick r.geo (P.rasterBarSlotMask b))
  | none => []

/-- A bar of a descriptor's outstanding lines, and the job it prints there. -/
def Desc.barIndex (d : Desc) (b : Nat) : Nat := ((d.bars[b]?).map BarDesc.ia).getD 0xFFFF

/-- What a GRATE's reset does to the lines issued before it (R131): no-fire on the bar, one FETCH_LATE record, a hit each. -/
def State.resetGrate (s : State) (b : Nat) : State :=
  let lines := if (s.enabledSlots b).isEmpty then [] else s.fire.descs.map Desc.line
  let slot := 20 * b + (s.enabledSlots b).headD 0
  let s := lines.foldl (fun s l => s.barLate l b) s
  let g := sel s.grates b {}
  let s := { s with grates := put s.grates b { g with stopped := false, chains := [] } }
  let s := match s.fire.descs, lines with
    | [], _ => s
    | _, [] => s
    | d :: _, _ => s.defect { kind := 4, bar := b, index := d.barIndex b, line := d.line, count := lines.length }
  let s := { s with draught := { s.draught with recd := s.draught.recd ++ lines.map (fun l => (l, b)) } }
  lines.foldl (fun s _ => s.hitBasic F.fetchLate slot (idGrate + b) 1) s

/-- A hit inside a block's reset. -/
def innerHit (s : State) (n a : Nat) : State := s.hitBasic n a idNone 0

/-- What a LOUPE's reset discards: its contexts' open frames are dropped and its unprocessed measurements go (R397, R464). -/
def State.resetLoupe (s : State) (ctxs : List Nat) : State :=
  ctxs.foldl (fun s c =>
    let s := s.dropFrame innerHit c false
    s.setCtx c { s.ctx c with meas := [], fifoL := [] }) s

/-- A reaction of RESET_BLOCK or SWITCH_FIREBOX has changed the epoch at this instant (R468); a function level reset, kind 4, is none. -/
def State.epochMerged (s : State) : Bool := s.host.epochAt == some s.now && s.host.ecKind != 4

/-- The epoch change of a reaction; reactions of one instant increment once (R468). -/
def State.epochOnce (s : State) (kind source : Nat) : State := if s.epochMerged then s else s.epochUp kind source

/-- The reset of a block begins (R463, R465). -/
def State.resetBlock (s : State) (n blk : Nat) : State :=
  let recent := s.faults.resets.filter (fun p => decide (s.now < p.2 + 10 * perSecond))
  let count := (recent.filter (fun p => p.1 == blk)).length + 1
  let held := blk ≠ 0 ∧ s.par P.manageFaultResetLimit < count
  let ctxs := s.blockCtxs blk
  let s := { s with
    faults := { s.faults with
      shadows := s.faults.shadows ++ [({ block := blk, ends := none, ctxs := ctxs } : Shadow)]
      resets := recent ++ [(blk, s.now)]
      heldR := if held then addTo s.faults.heldR blk else s.faults.heldR } }
  let s := s.epochOnce (if blk = 0 then 3 else 1) n
  let s := if 8 ≤ blk ∧ blk < 16 then s.resetGrate (blk - 8)
    else if blk = 16 ∨ blk = 17 then s.resetLoupe ctxs
    else if 256 ≤ blk then s.closePort innerHit (blk - 256) []
    else if blk = 40 then { s with chip := { s.chip with comp := [], decomp := [] } } else s
  if held then s.hitBasic F.faultResetLimit (blockId blk) idNone 0 else s

/-! ### SWITCH_FIREBOX (R217 to R220) -/

/-- Count of unanswered requests that stands for a heartbeat declared lost (R213). -/
def lostMark : Nat := 100

/-- State of a FIREBOX unit. -/
def FireBox.st (f : FireBox) (u : Nat) : Nat := if u = 0 then f.stA else f.stB

/-- Replace it. -/
def FireBox.setSt (f : FireBox) (u v : Nat) : FireBox := if u = 0 then { f with stA := v } else { f with stB := v }

/-- The unit that is not selected. -/
def FireBox.standby (f : FireBox) : Nat := 1 - f.active

/-- The standby is eligible (R204). -/
def FireBox.eligible (f : FireBox) : Bool := f.st f.standby == 1 || f.st f.standby == 2

/-- A unit becomes FAULTY and is held by a source (R217, R458). -/
def State.fbFaulty (s : State) (u n : Nat) : State :=
  { s with fb := s.fb.setSt u 5 }.setSrc n { s.src n with unit := some u }

/-- Line period in TCLK: the last measured, or that of the press maximum (R169). -/
def State.linePeriod (s : State) : Nat := s.fire.period.getD (625000000 / s.pressMax)

/-- A descriptor whose launch lies at or before now (R190, R219). -/
def State.launchPassed (s : State) (d : Desc) : Bool :=
  !d.edge && !d.fallback && le32 ((d.target + 2 ^ 32 - (s.view d.line).val P.fireSchedAdvanceTclk) % 2 ^ 32) s.link

/-- A group's launch time has come (R274). -/
def State.groupDue (s : State) (g : Later) : Bool :=
  le32 ((g.target + 2 ^ 32 - (s.view g.line).val P.fireSchedAdvanceTclk) % 2 ^ 32) s.link

/-- Count and name lines lost (R219). -/
def State.lostLines (s : State) (lines : List Nat) : State :=
  match lines with
  | [] => { s with fb := { s.fb with lost0 := 0, lost1 := 0, lostN := 0 } }
  | l :: _ =>
    let k := lines.length
    ({ s with fb := { s.fb with lostLines := sat 32 (s.fb.lostLines + k), lost0 := l, lost1 := (lines[1]?).getD 0,
                                lostN := min 2 k },
              fire := { s.fire with noFired := s.fire.noFired ++ lines.map (fun l => (l, 255)) } }).hitBasic F.fbLostLines l idNone 0

/-- Requests the selected unit has left unanswered (R213). -/
def FireBox.activeMiss (f : FireBox) : Nat := if f.active = 0 then f.missA else f.missB

/-- The selected unit has left the last request unanswered: it launches and issues nothing (log 17). -/
def FireBox.stalled (f : FireBox) : Bool := f.activeMiss != 0 || f.st f.active == 5

/-- A descriptor whose moment to fire lies at or before now (R189, R190, R219). -/
def State.duePassed (s : State) (d : Desc) : Bool :=
  if d.edge || d.fallback then le32 d.line s.pos else s.launchPassed d

/-- The instant at which a line is to fire lies at or before now. -/
def State.targetPassed (s : State) (d : Desc) : Bool := if d.edge || d.fallback then le32 d.line s.pos else le32 d.target s.link

/-- The fail-over (R217 to R220). -/
def State.failover (s : State) (n : Nat) : State :=
  let u := s.fb.active
  let v := s.fb.standby
  let gone := (s.fire.descs.filter s.duePassed).map Desc.line
  let left := s.fire.descs.filter (fun d => !gone.contains d.line)
  -- a line boundary that the failed unit has let pass without an issue (R218)
  let live := s.fire.descs.filter (fun d => !s.targetPassed d)
  let due := if live.length < s.parReset P.rasterFetchLeadLines ∧ s.ready ∧ !s.fire.descs.isEmpty ∧ s.fire.lastTclk ≤ s.clk.tclk then
    some s.fire.next else none
  let last := (s.fire.descs.filter (fun d => gone.contains d.line && !s.targetPassed d)).foldl (fun m d =>
    max m ((s.clk.tclk : Int) + signed 32 (d.target + 2 ^ 32 - s.link)).toNat) s.fire.lastTclk
  let fb := (s.fb.setSt u 5).setSt v 0
  let s := { s with fb := { fb with active := v, failovers := sat 32 (fb.failovers + 1), foT32 := s.t32, foFrom := u, foTo := v,
                                    foSrc := n, clean := 0, overdue := due, saved := none, prev := none, sent := none } }
  let s := s.setSrc n { s.src n with unit := some u }
  let s := s.epochOnce 2 n
  let sh : Shadow := { block := 4, ends := some (s.now + 2 * s.linePeriod + s.par P.manageFaultSettleUs * perUs) }
  let s := { s with faults := { s.faults with shadows := s.faults.shadows ++ [sh] } }
  -- no FIRE whose launch time lies at or before the switch leaves after it (R220)
  let s := { s with fire := { s.fire with descs := left, lastTclk := last, heldL := [], later := s.fire.later.filter (fun g => !s.groupDue g) } }
  s.lostLines gone

/-- One registration of a source by the collector (R454, R464, R465). -/
def State.register (s : State) (n a master access : Nat) : State :=
  if !s.faults.on then s else
  if s.shadowed n a master then s.maskHit else
  let r := s.reaction n
  let s := s.react n a master access
  if r = 6 then
    match s.blockOf n a with
    | some blk => if s.inShadow blk then s else s.resetBlock n blk
    | none => s
  else if r = 7 then
    if s.fb.eligible then s.failover n
    else s.hitBasic F.fbNoStandby 0 idNone 0
  else s

/-- A source raises its condition: a level source's holds from now on (R453), and the collector registers a hit. -/
def State.hit (s : State) (n a master access : Nat) : State :=
  if !s.faults.on then s else (s.addCond n a).register n a master access

/-- A condition that no initiator raised. -/
def State.fault (s : State) (n a : Nat) : State := s.hit n a idNone 0

/-- A level condition begins at an address: it hits when it was not there (R453). -/
def State.raise (s : State) (n a : Nat) : State :=
  if (s.src n).conds.contains (BitVec.ofNat 32 a) then s else s.fault n a

/-- A level condition ends at an address. -/
def State.lower (s : State) (n a : Nat) : State :=
  s.setSrc n { s.src n with conds := (s.src n).conds.filter (· != BitVec.ofNat 32 a) }

/-! ### The fire channel (R304, R307) -/

/-- The velocity model becomes invalid (R307); the next lines are EDGE (R192). -/
def State.invalidate (s : State) : State :=
  ({ s with motion := { s.motion with vValid := false, vEdges := 0, vSince := 0, vTimes := [] }, fire := { s.fire with sched := false } }).refresh

/-- The backup channel, when one other than the fire channel is named. -/
def State.backup (s : State) : Option Nat :=
  let b := s.parLine P.motionFireBackup
  if b = 0xFF ∨ b = s.motion.fireCh then none else some b

/-- The fire channel has failed and no backup is OK (R304). -/
def State.fireLost (s : State) : Bool :=
  s.encState s.motion.fireCh == 2 && !(match s.backup with | some b => s.encState b == 1 | none => false)

/-- ENC_LOST follows its condition (R304, R318). -/
def State.lostCheck (s : State) : State := if s.fireLost then (s.raise F.encLost 0).refresh else s.lower F.encLost 0

/-- Another channel moves W from now on (R304, R307). -/
def State.setFire (s : State) (c : Nat) : State :=
  if s.motion.fireCh = c then s else
  let enc := s.motion.enc.map (fun (e : Nat × Enc) => (e.1, { e.2 with dist := 0 }))
  let s := { s with motion := { s.motion with fireCh := c, enc := enc } }
  let s := s.setEnc c { s.enc c with pos := 0, maxPos := 0, dist := 0 }
  s.invalidate.lostCheck

/-! ### Clearing -/

/-- Restart of both units from A's last checkpoint (R226). -/
def State.fbRestart (s : State) : State :=
  let next := s.fb.lastIssue + 1
  -- lines between the one after the last issued and the first whose fetch can be released in time, on the 32-bit circle
  let gap := (signed 32 (s.pos + s.parReset P.rasterFetchLeadLines + 2 ^ 32 - next % 2 ^ 32)).toNat
  let first := next + gap
  let lost := (List.range gap).map (fun k => (next + k) % 2 ^ 32)
  let fb := { s.fb with stA := 0, stB := 2, active := 0, halted := false, lockLeft := s.par P.fireFbResyncLines, syncLeft := 0,
                        clean := 0, resync := List.range 160, missA := 0, missB := 0, saved := none, prev := none, sent := none }
  let s := { s with fb := fb, fire := { s.fire with next := first % 2 ^ 32 } }
  if lost.isEmpty then s else s.lostLines lost

/-- The effects of a source whose sticky bit clears end (R458 and the rules of single sources). -/
def State.endEffects (s : State) (n : Nat) : State :=
  let x := s.src n
  let s := s.setSrc n { x with sticky := false, slots := [], hold := false, press := false, unit := none }
  let s := if x.press || n == F.encLost then s.refresh else s
  -- a FIREBOX unit leaves reset and resynchronises (R222, R458)
  let s : State := match x.unit with
    | some u => if s.fb.st u = 5 then
        let f := { s.fb.setSt u 3 with syncLeft := s.par P.fireFbResyncLines, load := true }
        { s with fb := if u = 0 then { f with missA := 0 } else { f with missB := 0 } } else s
    | none => s
  let stopped := s.faults.src.any (fun (e : Nat × Source) => isFbStop e.1 && e.2.hold)
  let s := if isFbStop n ∧ s.fb.halted ∧ !stopped then s.fbRestart else s
  -- blocks held by FAULT_RESET_LIMIT leave reset (R465)
  let s := if n = F.faultResetLimit then
    { s with faults := { s.faults with
        shadows := s.faults.shadows.map (fun h => if s.faults.heldR.contains h.block ∧ h.ends.isNone then
          { h with ends := some (s.now + s.par P.manageFaultSettleUs * perUs) } else h), heldR := [] } } else s
  -- a FAILED channel returns with its direction unknown and a fresh index reference (R297)
  let s := if n = F.encWire then
    { s with motion := { s.motion with enc := s.motion.enc.map (fun (e : Nat × Enc) =>
        if !e.2.wires.isEmpty then e else
        (e.1, { e.2 with failed := false, dir := if e.2.failed then 0 else e.2.dir, ref := if e.2.failed then none else e.2.ref })) } }.lostCheck
    else s
  -- DRAUGHT voltage control resumes (R35)
  let s := if n = F.vcorePmbus then { s with draught := { s.draught with stopped := false, waiting := false } } else s
  if n = F.tclkUnlock then { s with fire := { s.fire with unlock := !s.clk.run } } else s

/-- The host clears a sticky bit (R457); `same` marks a hit in the same TCLK, which keeps it (R10). -/
def State.clearSource (s : State) (n : Nat) (same : Bool) : State :=
  if !(s.src n).sticky ∨ same ∨ (isLevel n ∧ !(s.src n).conds.isEmpty) then s else s.endEffects n

/-- Sticky bits of a word of FSUM (R47, R457). -/
def State.fsum (s : State) (k : Nat) : Nat :=
  maskOf ((List.range 32).filter (fun i => (s.src (32 * k + i)).sticky))

end Sys2Proof.Machine
end

