-- ==== Sys2Proof/Machine/HostCommands.lean ====
section
/-!
DEFINITION. The host window and the SESSION commands (chapter 02, R524): registers, claim and release, doorbells,
datagrams, leases, completion queues, DMA and FLUE failures.
-/
namespace Sys2Proof.Machine

/-- What a meaning answers: every command of this device takes effect. -/
abbrev Next := Host.Outcome State Fault Refusal

/-- The registers behind the identity and global status regions are open (R43, R44); in D3hot the function takes no memory request
(PCI Express, log 7). -/
def State.windowOpen (s : State) : Bool := s.ready && !s.host.flr && !s.host.cfg.d3

/-- LOCK of SL_STATUS (R47, R485, R488). -/
def State.slLock (s : State) : Nat := if s.lcOpen then 2 else if s.sec.scope % 2 = 1 then 1 else 0

/-- A signal inside the device that SL_SEL can route to a SAFE ball (R489). -/
inductive SafeSignal where
  | low
  | request (monitor : Nat)
  | acknowledge (monitor : Nat)
  | hit (source : Nat)
  | boundary
  | launch
  | strobe
  | heartbeat (unit : Bool)
  | selector
  | encA (ch : Nat)
  | encB (ch : Nat)
  | encZ (ch : Nat)
  | tclk64
deriving DecidableEq, Repr

/-- The signal of a code of SL_SEL (R489); 0x0000 and a reserved code hold the ball low. -/
def safeSignal (code : Nat) : SafeSignal :=
  if 0x100 ≤ code ∧ code < 0x180 then (if code % 2 = 0 then .request ((code - 0x100) / 2) else .acknowledge ((code - 0x100) / 2))
  else if 0x200 ≤ code ∧ code < 0x400 then .hit (code - 0x200)
  else if code = 0x400 then .boundary
  else if code = 0x401 then .launch
  else if code = 0x402 then .strobe
  else if code = 0x403 then .heartbeat false
  else if code = 0x404 then .heartbeat true
  else if code = 0x405 then .selector
  else if 0x410 ≤ code ∧ code < 0x414 then .encA (code - 0x410)
  else if 0x414 ≤ code ∧ code < 0x418 then .encB (code - 0x414)
  else if 0x418 ≤ code ∧ code < 0x41C then .encZ (code - 0x418)
  else if code = 0x440 then .tclk64
  else .low

/-- Levels of the signals that pass within one command of the model (R489): a monitor's request and acknowledge, a source's hit, the line boundary,
the launch, STROBE, the heartbeat lines and the divided clock. -/
structure SafeProbe where
  request : BitVec 64 := 0
  acknowledge : BitVec 64 := 0
  hits : BitVec 512 := 0
  boundary : Bool := false
  launch : Bool := false
  strobe : Bool := false
  heartbeat : BitVec 2 := 0
  tclk64 : Bool := false
deriving DecidableEq, Repr

/-- The level of SAFE[k] (R489): held low while PORST_N is low (R502) and while SAFELIGHT is locked (R53). -/
def State.safeBall (s : State) (p : SafeProbe) (k : Nat) : Bool :=
  if s.slLock = 0 ∨ !s.pwr.porst then false else
  match safeSignal (sel s.host.slSel k 0).toNat with
  | .low => false
  | .request m => p.request.getLsbD m
  | .acknowledge m => p.acknowledge.getLsbD m
  | .hit n => p.hits.getLsbD n
  | .boundary => p.boundary
  | .launch => p.launch
  | .strobe => p.strobe
  | .heartbeat u => p.heartbeat.getLsbD (b2n u)
  | .selector => s.fb.active == 1
  | .encA c => (sel s.motion.enc c {}).a
  | .encB c => (sel s.motion.enc c {}).b
  | .encZ c => (sel s.motion.enc c {}).z
  | .tclk64 => p.tclk64

/-! ### Registers read without a side effect (R47) -/

/-- The running image. -/
def State.running (s : State) : Option (Nat × Image) :=
  if s.flash.imgA.running then some (0, s.flash.imgA) else if s.flash.imgB.running then some (1, s.flash.imgB) else none

/-- IDENT_FW (R47, R481): zero while UPDATING. -/
def State.identFw (s : State) : Nat :=
  if s.pwr.kind = 2 then 0 else
  match s.running with
  | some (k, i) => k * 2 ^ 31 + leN (memReadN i.bytes 8 3)
  | none => 0

/-- A channel trained at KINDLING: ONLINE, or OFFLINE since (R406, R419). -/
def State.trained (s : State) (c : Nat) : Bool := (sel s.ddr.ch c {}).state == 2 || (sel s.ddr.ch c {}).state == 4

/-- DDR4 attached and trained, in GB (R47, R401). -/
def State.dramGb (s : State) : Nat :=
  ((List.range 3).filter (fun c => s.trained c)).length * s.parReset P.memoryDdrRanks *
    s.parReset P.memoryDdrDensityGbit * (if s.parReset P.memoryDdrWidth = 16 then 4 else 8) / 8

/-- GSTAT (R47). -/
def State.gstat (s : State) : Nat :=
  s.host.epoch.toNat * 65536 + b2n (s.faults.src.any (fun p => p.2.sticky)) * 2 ^ 15 + b2n s.pressHoldN * 2 ^ 14 +
    b2n s.fireHeld * 2 ^ 13 + s.fb.active * 2 ^ 12 + b2n (s.lib.dir.any (fun p => p.2.state == 6)) * 2 ^ 11 +
    b2n (s.slLock != 0) * 2 ^ 10 + s.pwr.kind

/-- Sessions open. -/
def openSessions (m : SMap Session) : Nat := (m.filter (fun p => p.2.isOpen)).length

/-- The mask of owned slots (R54). -/
def State.owned (s : State) : Nat := maskOf ((s.host.loc.filter (fun p => p.2.isOpen)).map Prod.fst)

/-- GSTAT_DROPS (R47). -/
def State.drops (s : State) : Nat := s.host.dropBar2 * 2 ^ 24 + s.host.dropBusy * 2 ^ 16 + s.host.dropTok

/-- Identity and global status registers (R47). -/
def State.readStatus (s : State) (off : Nat) : Nat :=
  match off with
  | 0x0000 => 0x28080110
  | 0x0004 => s.identFw
  | 0x0008 => 0x0100
  | 0x000C => s.dramGb * 2 ^ 24 + 36 * 2 ^ 16 + 160 * 2 ^ 8 + 8
  | 0x0010 => s.otp.serial.toNat % 2 ^ 32
  | 0x0014 => s.otp.serial.toNat / 2 ^ 32
  | 0x0018 => s.otp.lc
  | 0x1000 => s.gstat
  | 0x1004 => s.pwr.err * 2 ^ 24 + s.pwr.stage
  | 0x1008 => openSessions s.host.rem * 65536 + openSessions s.host.loc
  | 0x100C => if s.pwr.kind = 1 then (s.now - s.pwr.readyAt) / perMs % 2 ^ 32 else 0
  | 0x1010 => s.host.ecKind * 2 ^ 28 + s.host.ecSource * 65536 + s.host.ecEpoch.toNat
  | 0x1020 => s.host.events.toNat
  | 0x1028 => s.drops
  | 0x102C => s.host.dropUdp
  | _ => 0

/-- The first-error record and the other single registers (R47). -/
def State.readRecord (s : State) (off : Nat) : Nat :=
  let f := s.faults.fer
  match off with
  | 0x15010 => s.owned % 2 ^ 32
  | 0x15014 => s.owned / 2 ^ 32
  | 0x30040 => maskOf ((List.range 16).filter (fun k => s.fsum k != 0))
  | 0x30100 => b2n f.valid * 2 ^ 31 + f.source
  | 0x30104 => f.addr.toNat
  | 0x30108 => f.master * 256 + f.access
  | 0x3010C => f.t32.toNat
  | 0x30110 => f.cons * 65536 + f.merged
  | 0x30114 => f.simul
  | 0x40004 => s.host.snapCount.toNat
  | 0x40008 => s.host.snapSec.toNat % 2 ^ 32
  | 0x4000C => s.host.snapSec.toNat / 2 ^ 32
  | 0x40010 => s.host.snapNs.toNat
  | 0x40014 => s.host.snapT32.toNat
  | 0x40018 => s.t32.toNat
  | 0x50000 => s.slLock
  | _ => 0

/-- The MSI-X table byte as the host reads it: the mask bit resets to 1 (log 7). -/
def Hostif.msixByte (h : Hostif) (a : Nat) : Byte :=
  let b := memRead h.msix a
  if a % 16 = 12 then b ^^^ 1 else b

/-- A 32-bit read of BAR0 without a side effect, 4-byte aligned (R43 to R47). -/
def State.bar0Read (s : State) (off : Nat) : Nat :=
  if off % 4 ≠ 0 then 0
  else if off < 0x2000 then s.readStatus off
  else if !s.windowOpen then 0
  else if 0x10000 ≤ off ∧ off < 0x14000 then leN (s.scratch (off - 0x10000) 4)
  else if 0x15100 ≤ off ∧ off < 0x15200 then (sel s.host.loc ((off - 0x15100) / 4) {}).head.toNat
  else if 0x20000 ≤ off ∧ off < 0x20480 then leN ((List.range 4).map (fun i => s.host.msixByte (off - 0x20000 + i)))
  else if 0x20800 ≤ off ∧ off < 0x20810 then bits (maskOf s.host.pba) (8 * (off - 0x20800)) 32
  else if 0x30000 ≤ off ∧ off < 0x30040 then s.fsum ((off - 0x30000) / 4)
  else if 0x50100 ≤ off ∧ off < 0x50140 then
    (if s.slLock = 0 then 0 else (sel s.host.slSel ((off - 0x50100) / 4) 0).toNat)
  else s.readRecord off

/-- A read of `n` bytes of BAR0 without a side effect (R45): any size and alignment within one slot, naturally aligned 32-bit or
64-bit for the MSI-X table and PBA, naturally aligned 32-bit elsewhere; a read that breaks this returns 0. -/
def State.bar0ReadN (s : State) (off n : Nat) : Nat :=
  if 0x10000 ≤ off ∧ off + n ≤ 0x14000 ∧ 0 < n ∧ off / 256 = (off + n - 1) / 256 then
    (if s.windowOpen then leN (s.scratch (off - 0x10000) n) else 0)
  else if n = 4 then s.bar0Read off
  else if n = 8 ∧ off % 8 = 0 ∧ 0x20000 ≤ off ∧ off < 0x20810 then s.bar0Read off + 2 ^ 32 * s.bar0Read (off + 4)
  else 0

/-- A read of BAR2 returns zero (R46). -/
def State.bar2Read (_s : State) (_off _n : Nat) : Nat := 0

/-! ### Sessions -/

/-- A new token for a slot: bits [5:0] its number, the others a free value, never 0 in them and never the last token (R55). -/
def State.newToken (s : State) (i : Nat) (last : BitVec 32) : BitVec 32 :=
  let hi := (Config.tokenBits s.free).toNat
  let hi := if hi = 0 then 1 else hi
  let hi := if 64 * hi + i = last.toNat then (if hi + 1 = 2 ^ 26 then 1 else hi + 1) else hi
  BitVec.ofNat 32 (64 * hi + i)

/-- A slot can be offered: not owned, no command in it and not held back (R54, R57). -/
def Session.offered (x : Session) (now : Nat) : Bool :=
  !x.isOpen && x.cmd.isNone && (match x.held with | some t => decide (t ≤ now) | none => true)

/-- One of the slots that can be offered: the spec does not say which, so a free value picks (log 14). -/
def State.pickSlot (s : State) (m : SMap Session) : Option (Fin 64) :=
  let l := (List.range 64).filter (fun i => (sel m i {}).offered s.now)
  match l[Config.value s.free % l.length]? with
  | some i => if h : i < 64 then some ⟨i, h⟩ else none
  | none => none

/-- Open a session in a slot (R54 to R56): its lease runs from now. -/
def State.openSession (s : State) (w : Sess) (i leaseMs : Nat) (q : Option Cq) : State :=
  let x := s.ses w
  let tok := s.newToken i x.last
  (s.setSes w { x with isOpen := true, token := tok, last := tok, lease := leaseMs, ends := s.now + leaseMs * perMs, held := none,
                       cq := q, lastSeq := none, stored := [], entries := [] }).fresh

/-- The lease runs anew for its full length (R56). -/
def State.renew (s : State) (w : Sess) : State :=
  let x := s.ses w
  s.setSes w { x with ends := s.now + x.lease * perMs }

/-- A write or datagram with a wrong token is ignored and counted (R57, R61). -/
def State.badToken (s : State) (master : Nat) : State :=
  { s with host := { s.host with dropTok := sat 16 (s.host.dropTok + 1) } }.hit F.badToken 0 master 2

/-- The old token of a slot in its holdback (R57). -/
def State.expiredToken (s : State) (w : Sess) (token : BitVec 32) : Bool :=
  let x := s.ses w
  !x.isOpen && x.token == token && decide (64 ≤ token.toNat) && (match x.held with | some t => decide (s.now < t) | none => false)

/-- A read of CLAIM (R54). -/
def execClaimRead (dt : Nat) (s : State) : Next :=
  let s := s.pass dt
  if !s.windowOpen then .next (s.emit (.read 0x15000 0)) else
  match s.pickSlot s.host.loc with
  | none => .next (s.emit (.read 0x15000 0))
  | some i =>
    let s := s.fresh.openSession (.loc i) i.val (s.par P.hostSessionLeaseMs) none
    .next (s.emit (.read 0x15000 (BitVec.ofNat 64 ((s.ses (.loc i)).token.toNat * 2 ^ 32 + 2 ^ 31 + i.val))))

/-- The local slot a token names. -/
def slotOf (token : BitVec 32) : Fin 64 := ⟨token.toNat % 64, Nat.mod_lt _ (by decide)⟩

/-- A write of RELEASE (R57, R58). -/
def execRelease (dt : Nat) (token : BitVec 32) (s : State) : Next :=
  let s := s.pass dt
  if !s.windowOpen then .next s else
  let w := Sess.loc (slotOf token)
  if (s.ses w).isOpen ∧ (s.ses w).token = token then .next (s.endSession w) else .next (s.badToken idLocal)

/-- A write of RENEW (R56). -/
def execRenew (dt : Nat) (token : BitVec 32) (s : State) : Next :=
  let s := s.pass dt
  if !s.windowOpen then .next s else
  let w := Sess.loc (slotOf token)
  if (s.ses w).isOpen ∧ (s.ses w).token = token then .next (s.renew w) else .next (s.badToken idLocal)

/-- A write of CQ_HEAD[i] (R69); without a completion queue it is dropped (log 74). -/
def execCqHeadWrite (dt : Nat) (i : Fin 64) (value : BitVec 32) (s : State) : Next :=
  let s := s.pass dt
  if !s.windowOpen then .next s else
  let w := Sess.loc i
  let x := s.ses w
  match x.cq with
  | none => .next s
  | some q =>
    let head := value.toNat % 4096
    let d := (head + q.depth - x.head.toNat % q.depth) % q.depth
    let a := if d = 0 ∧ q.used = q.depth then q.depth else d
    if q.used < a then .next s
    else .next (s.setSes w { x with head := BitVec.ofNat 12 head, cq := some { q with used := q.used - a } })

/-- A W1C write of GSTAT_EVENTS; `same` are bits the device sets in the same access cycle (R10, R49). -/
def execGstatEventsClear (dt : Nat) (mask : BitVec 32) (same : BitVec 4) (s : State) : Next :=
  let s := s.pass dt
  let s := (unmask 4 same.toNat).foldl State.event s
  let keep := s.host.events &&& (~~~ (mask.setWidth 4) ||| same)
  .next { s with host := { s.host with events := keep } }

/-- An RC read of GSTAT_DROPS (R9); `same` has bit 0, 1 or 2 set where BAD_TOKEN, DOORBELL_BUSY or BAR2 counts an event in the
same access cycle: the field then holds 1 (R11). -/
def execGstatDropsRead (dt : Nat) (s : State) (same : BitVec 3 := 0) : Next :=
  let s := s.pass dt
  let s := s.emit (.read 0x1028 (BitVec.ofNat 64 s.drops))
  .next { s with host := { s.host with dropBar2 := b2n (same.getLsbD 2), dropBusy := b2n (same.getLsbD 1), dropTok := b2n (same.getLsbD 0) } }

/-- An RC read of GSTAT_UDP_DROPS (R9); `same` is whether a datagram is counted in the same access cycle (R11). -/
def execGstatUdpDropsRead (dt : Nat) (s : State) (same : Bool := false) : Next :=
  let s := s.pass dt
  let s := s.emit (.read 0x102C (BitVec.ofNat 64 s.host.dropUdp))
  .next { s with host := { s.host with dropUdp := b2n same } }

/-- A W1C write of FSUM[k]; `same` are bits hit in the same TCLK (R10, R51, R457). -/
def execFsumClear (dt : Nat) (k : Fin 16) (mask same : BitVec 32) (s : State) : Next :=
  let s := s.pass dt
  if !s.windowOpen then .next s
  else .next ((unmask 32 mask.toNat).foldl (fun s j => s.clearSource (32 * k.val + j) (same.getLsbD j)) s)

/-- The first-error record is re-armed (R462). -/
def State.rearm (s : State) : State :=
  { s with faults := { s.faults with fer := { s.faults.fer with valid := false, cons := 0, merged := 0, simul := 0 } } }

/-- A write of FER_REARM (R462). -/
def execFerRearm (dt : Nat) (value : BitVec 32) (s : State) : Next :=
  let s := s.pass dt
  if s.windowOpen ∧ value.getLsbD 0 then .next s.rearm else .next s

/-- A write of 1 to SNAP_TAKE (R52). -/
def execSnapTake (dt : Nat) (s : State) : Next :=
  let s := s.pass dt
  if !s.windowOpen then .next s else
  .next { s with host := { s.host with snapCount := s.host.snapCount + 1, snapSec := BitVec.ofNat 48 s.devSec,
                                       snapNs := BitVec.ofNat 32 s.devSub, snapT32 := s.t32 } }

/-- Pending vectors that are no longer masked are sent, once MSI-X is enabled (PCI Express; log 7). -/
def State.sendPending (s : State) : State :=
  if !s.host.msixOn then s else
  let go := s.host.pba.filter (fun v => !s.host.masked v)
  { s with host := { s.host with pba := s.host.pba.filter (fun v => s.host.masked v) } }.emits (go.map Output.msix)

/-- Write MSI-X table bytes. -/
def Hostif.writeMsix (h : Hostif) (a : Nat) (b : Bytes) : Hostif :=
  match b with
  | [] => h
  | x :: t => Hostif.writeMsix { h with msix := memWrite h.msix a (if a % 16 = 12 then x ^^^ 1 else x) } (a + 1) t

/-- A write to a BAR0 register or the slot area without a behaviour of its own (R43, R45, R53): slots, the MSI-X table and SL_SEL keep it. -/
def execBar0RegisterWrite (dt addr : Nat) (bytes : Bytes) (s : State) : Next :=
  let s := s.pass dt
  let n := bytes.length
  if !s.windowOpen ∨ n = 0 then .next s
  else if 0x10000 ≤ addr ∧ addr + n ≤ 0x14000 ∧ addr / 256 = (addr + n - 1) / 256 then .next (s.setScratch (addr - 0x10000) bytes)
  else if 0x20000 ≤ addr ∧ addr + n ≤ 0x20480 ∧ (n = 4 ∨ n = 8) ∧ addr % n = 0 then
    .next { s with host := s.host.writeMsix (addr - 0x20000) bytes }.sendPending
  else if 0x50100 ≤ addr ∧ addr + n ≤ 0x50140 ∧ n = 4 ∧ addr % 4 = 0 ∧ s.slLock ≠ 0 then
    .next { s with host := { s.host with slSel := put s.host.slSel ((addr - 0x50100) / 4) (BitVec.ofNat 16 (leN bytes)) } }
  else .next s

/-- What an item of the configuration space reads (R42); the two low bits of a power state and the places of the bits are PCI
Express's (log 7). -/
def State.cfgValue (s : State) (item : CfgItem) : BitVec 64 :=
  let c := s.host.cfg
  match item with
  | .ids => 0x28081DA7
  | .cls => 0x11800010
  | .subsys => BitVec.ofNat 64 (s.otp.subsys.toNat * 65536 + s.otp.subven.toNat)
  | .bar two => if two then c.bar2 ||| 0xC else c.bar0 ||| 0x4
  | .payload => BitVec.ofNat 64 c.payload
  | .readReq => BitVec.ofNat 64 c.readReq
  | .power => if c.d3 then 3 else 0
  | .msix => BitVec.ofNat 64 (b2n s.host.msixOn * 2 ^ 15 + b2n c.msixMask * 2 ^ 14 + 71)
  | .aer => c.aer.setWidth 64

/-- A write of an item of the configuration space (R42): a value the table does not allow, and a write of a constant, leave it. -/
def State.cfgWrite (s : State) (item : CfgItem) (v : BitVec 64) : State :=
  let c := s.host.cfg
  let set (c : PcieCfg) : State := { s with host := { s.host with cfg := c } }
  match item with
  | .ids | .cls | .subsys => s
  | .bar two => if two then set { c with bar2 := v &&& ~~~(0xFFFFFFF : BitVec 64) } else set { c with bar0 := v &&& ~~~(0x3FFFFF : BitVec 64) }
  | .payload => if v = 128 ∨ v = 256 ∨ v = 512 then set { c with payload := v.toNat } else s
  | .readReq => if v.toNat ∈ [128, 256, 512, 1024, 2048, 4096] then set { c with readReq := v.toNat } else s
  | .power => if v = 3 then set { c with d3 := true } else if v = 0 then set { c with d3 := false } else s
  | .msix => { s with host := { s.host with msixOn := v.getLsbD 15, cfg := { c with msixMask := v.getLsbD 14 } } }.sendPending
  | .aer => set { c with aer := c.aer &&& ~~~(v.setWidth 32) }

/-- A configuration request: Retry Status until KINDLING has made the function ready (R43), then the item's value or its write (R42). -/
def execPcieConfigRequest (dt : Nat) (req : CfgReq) (s : State) : Next :=
  let s := s.pass dt
  if s.pwr.crs then .next (s.emit (.config true 0)) else
  match req with
  | .read item => .next (s.emit (.config false (s.cfgValue item)))
  | .write item v => .next ((s.emit (.config false 0)).cfgWrite item v)

/-- The link leaves L0 and does not recover (R77). -/
def execPcieLinkDown (dt : Nat) (s : State) : Next := .next ((s.pass dt).fault F.pcieLinkDown 0)

/-- A poisoned write arrives and is dropped (R77); AER holds Poisoned TLP Received (R42, log 7). -/
def execPoisonedTlp (dt : Nat) (_bar2 : Bool) (s : State) : Next := 
  let s := s.pass dt
  .next ({ s with host := { s.host with cfg := { s.host.cfg with aer := s.host.cfg.aer ||| 0x1000 } } }.hit F.poisonedTlp 0 idLocal 2)

/-- The effect of a function level reset (R44, R70): epoch change of kind FLR, every local session ends, MSI-X off. -/
def State.flrBegin (s : State) : State :=
  let s := s.epochUp 4 0
  let s := (s.host.loc.map Prod.fst).foldl (fun s i =>
    if h : i < 64 then
      let w := Sess.loc ⟨i, h⟩
      let s := if (s.ses w).isOpen then s.endSession w else s
      s.setSes w { s.ses w with head := 0, token := 0 }
    else s) s
  { s with host := { s.host with flr := true, msixOn := false, msix := [], pba := [], cfg := { s.host.cfg with bar0 := 0, bar2 := 0, readReq := 512, d3 := false, msixMask := false } } }

/-- A function level reset is received (R44). -/
def execFunctionLevelReset (dt : Nat) (s : State) : Next := .next (s.pass dt).flrBegin

/-- PE_PERST_N resets the PCIe PHY with the effect of a function level reset; until PORST_N rises it has none (R563). -/
def execPePerstN (dt : Nat) (s : State) : Next :=
  let s := s.pass dt
  if s.pwr.porst then .next s.flrBegin else .next s

/-- The function level reset completes (R44). -/
def execFlrComplete (dt : Nat) (s : State) : Next :=
  let s := s.pass dt
  .next { s with host := { s.host with flr := false } }

/-! ### Acceptance of a command -/

/-- HOB accepts the command of a slot image: checks 2 to 4 of R61 after the lease is renewed; a remote session has no DMA (R73). -/
def State.acceptCmd (s : State) (w : Sess) (img : Bytes) : State :=
  let s := s.renew w
  let x := s.ses w
  let c := { parseCmd img s.host.epoch with atT := s.now }
  let s := s.setSes w { x with cmd := some c }
  if BitVec.ofNat 32 (u32 img 8) ≠ x.token ∧ x.isOpen then s.deliver w c St.noSession []
  else if 240 < u16 img 12 then s.deliver w c St.badLength []
  else if !opcodes.contains c.op then s.deliver w c St.badOpcode []
  else match w with
    | .rem _ => if c.dma then s.deliver w c St.badParam [] else s
    | .loc _ => s

/-- A doorbell carrying the old token of an expired slot: LEASE_EXPIRED is written into the slot's status, and DONE (R57, R63). -/
def State.answerExpired (s : State) (i : Fin 64) : State :=
  let w := Sess.loc i
  let c := parseCmd (s.scratch (slotBase w) 256) s.host.epoch
  let s := (s.setScratch (slotBase w + 14) (leB 2 St.leaseExpired)).setScratch (slotBase w + 2) (leB 2 (c.flags ||| 0x8000).toNat)
  if c.irq then s.slotSignal w else s

/-- A write of a doorbell (R57, R60 to R62, R436); `ecc` is a scratchpad error HOB meets reading the slot: its word, and true when double. -/
def execDoorbell (dt : Nat) (i : Fin 64) (token : BitVec 32) (ecc : Option (Fin 32 × Bool)) (s : State) : Next :=
  let s := s.pass dt
  if !s.windowOpen then .next s else
  let w := Sess.loc i
  let x := s.ses w
  if s.expiredToken w token then .next (s.answerExpired i)
  else if !x.isOpen ∨ x.token ≠ token then .next (s.badToken idLocal)
  else if x.cmd.isSome then .next { s with host := { s.host with dropBusy := sat 8 (s.host.dropBusy + 1) } }
  else
    let img := s.scratch (slotBase w) 256
    match ecc with
    | none => .next (s.acceptCmd w img)
    | some (k, double) =>
      let a := slotBase w + 8 * k.val
      if double then
        let s := (s.hit F.scratchEcc a idHob 1).renew w
        .next (s.deliver w (parseCmd img s.host.epoch) St.faulted [])
      else
        let s := { s with chip := { s.chip with corr := sat 32 (s.chip.corr + 1) } }.hit F.scratchEccCorr 0 idHob 1
        .next (s.acceptCmd w img)

/-- A slot image answered with a status and no payload, without a session. -/
def refusalImage (img : Bytes) (status : Nat) : Bytes :=
  overlay (overlay img 12 (leB 2 0 ++ leB 2 status)) 2 (leB 2 ((u16 img 2 &&& 0x5000) ||| 0x8000))

/-- Speuc-over-UDP is open on a port (R72), and always while UPDATING (R482). -/
def State.udpOpen (s : State) (port : Nat) : Bool :=
  s.pwr.kind == 2 || (s.ready && s.par P.hostRemoteEnable == 1 && bit (s.par P.hostRemotePortMask) port)

/-- A remote request for a new session takes a free remote slot; with none free it is answered BUSY (log 14). -/
def State.remoteOpen (s : State) (port : Nat) (peer : BitVec 48) (img : Bytes) : State :=
  match s.pickSlot s.host.rem with
  | none => s.emit (.datagram port peer (refusalImage img St.busy))
  | some i =>
    let w := Sess.rem i
    let s := s.fresh
    let s := s.setSes w { s.ses w with peer := peer, port := port, stored := [], entries := [], held := none }
    (s.setScratch (slotBase w) img).acceptCmd w img

/-- A datagram arrives on UDP port 47630 (R57, R62, R72 to R74); `v4` is false for another protocol. One with a wrong token counts
BAD_TOKEN, one that meets its slot's command still executing counts DOORBELL_BUSY, and one with a repeated or wrong sequence does
not renew the lease (log 76). -/
def execUdpDatagram (dt : Nat) (port : Fin 2) (peer : BitVec 48) (v4 : Bool) (bytes : Bytes) (s : State) : Next :=
  let s := s.pass dt
  if !s.udpOpen port.val then .next s
  else if !v4 ∨ bytes.length ≠ 256 then .next { s with host := { s.host with dropUdp := sat 32 (s.host.dropUdp + 1) } }
  else
    let token := BitVec.ofNat 32 (u32 bytes 8)
    if token = 0 ∧ u16 bytes 0 = 0x0101 then .next (s.remoteOpen port.val peer bytes) else
    let i := slotOf token
    let w := Sess.rem i
    let x := s.ses w
    if s.expiredToken w token then .next (s.emit (.datagram port.val peer (refusalImage bytes St.leaseExpired)))
    else if !x.isOpen ∨ x.token ≠ token then .next (s.badToken idRemote)
    else if x.cmd.isSome then .next { s with host := { s.host with dropBusy := sat 8 (s.host.dropBusy + 1) } }
    else
      let seq := BitVec.ofNat 32 (u32 bytes 4)
      let fits := match x.lastSeq with | none => true | some l => seq == l + 1
      if x.lastSeq = some seq then .next (s.emit (.datagram port.val peer x.stored))
      else if !fits then .next (s.emit (.datagram port.val peer (refusalImage bytes St.state)))
      else
        let s := s.setSes w { x with lastSeq := some seq, peer := peer, port := port.val }
        .next ((s.setScratch (slotBase w) bytes).acceptCmd w bytes)

/-! ### SESSION commands (R524) -/

/-- 0x0101 open (R73). -/
def execSessionOpen (dt : Nat) (who : Sess) (s : State) : Next :=
  let s := s.pass dt
  .next (s.runCmd who 0x0101 (fun c =>
    let ms := u32 c.pay 0
    plain s c 4 (need s (decide (ms = 0 ∨ (100 ≤ ms ∧ ms ≤ 60000))) St.badParam (
      match who with
      | .loc _ => refuse s St.state
      | .rem i =>
        if (s.ses who).isOpen then refuse s St.state else
        let ms := if ms = 0 then s.par P.hostSessionLeaseMs else ms
        let s := s.openSession who i.val ms (some {})
        .done St.ok (leB 4 (s.ses who).token.toNat ++ leB 4 ms ++ leB 2 s.host.epoch.toNat ++ leB 1 1 ++ leB 1 0) s))))

/-- 0x0102 close (R58): the session ends once the response is written. -/
def execSessionClose (dt : Nat) (who : Sess) (s : State) : Next :=
  let s := s.pass dt
  let t := s.runCmd who 0x0102 (fun c => plain s c 0 (.done St.ok [] s))
  match (s.ses who).cmd with
  | some c => if c.op = 0x0102 ∧ !c.dma ∧ c.pay.length = 0 then .next (t.endSession who) else .next t
  | none => .next t

/-- 0x0103 lease (R56): the new length runs from the command's acceptance. -/
def execSessionLease (dt : Nat) (who : Sess) (s : State) : Next :=
  let s := s.pass dt
  .next (s.runCmd who 0x0103 (fun c =>
    let ms := u32 c.pay 0
    plain s c 4 (need s (decide (100 ≤ ms ∧ ms ≤ 60000)) St.badParam (vet s (
      .done St.ok (leB 4 ms) (s.setSes who { s.ses who with lease := ms, ends := c.atT + ms * perMs }))))))

/-- 0x0104 queue setup (R67). -/
def execSessionQueueSetup (dt : Nat) (who : Sess) (s : State) : Next :=
  let s := s.pass dt
  .next (s.runCmd who 0x0104 (fun c =>
    let base := u64 c.pay 0
    let n := u16 c.pay 8
    plain s c 16 (need s (decide (base % 64 = 0 ∧ n ∈ [64, 128, 256, 512, 1024, 2048, 4096] ∧ fld c.pay 10 6 = 0)) St.badParam (
      vet s (need s (match who with | .loc _ => true | .rem _ => false) St.state (
        need s (!s.host.pends.any (fun p => p.who == who)) St.state (
          .done St.ok [] (s.setSes who { s.ses who with cq := some { base := BitVec.ofNat 64 base, depth := n }, head := 0 }))))))))

/-- Acknowledge one remote entry (R75). -/
def Session.ack (x : Session) (seq : BitVec 32) : Session :=
  if x.entries.any (fun e => e.1 == seq) then
    { x with entries := x.entries.eraseP (fun e => e.1 == seq), cq := x.cq.map (fun q => { q with used := q.used - 1 }) }
  else x

/-- 0x0105 completion ack (R75). -/
def execSessionCompletionAck (dt : Nat) (who : Sess) (s : State) : Next :=
  let s := s.pass dt
  .next (s.runCmd who 0x0105 (fun c =>
    let n := u8 c.pay 0
    plain s c (4 + 4 * n) (need s (decide (1 ≤ n ∧ n ≤ 29 ∧ fld c.pay 1 3 = 0)) St.badParam (vet s (
      need s (match who with | .loc _ => false | .rem _ => true) St.state (
        let seqs := (List.range n).map (fun k => BitVec.ofNat 32 (u32 c.pay (4 + 4 * k)))
        .done St.ok [] (s.setSes who (seqs.foldl Session.ack (s.ses who)))))))))

/-- 0x0107 NOP: its acceptance renewed the lease (R56). -/
def execSessionNop (dt : Nat) (who : Sess) (s : State) : Next :=
  let s := s.pass dt
  .next (s.runCmd who 0x0107 (fun c => plain s c 0 (
    .done St.ok (leB 2 s.host.epoch.toNat ++ leB 2 0 ++ leB 4 (((s.ses who).ends - s.now) / perMs)) s)))

/-- An entry was last sent 100 ms ago or earlier (R75). -/
def resendDue (now : Nat) (e : BitVec 32 × Bytes × Nat) : Bool := decide (e.2.2 + 100 * perMs ≤ now)

/-- Every 100 ms each entry of a remote session not yet acknowledged is sent again (R75). -/
def execRemoteCompletionResend (dt : Nat) (i : Fin 64) (s : State) : Next :=
  let s := s.pass dt
  let x := s.ses (.rem i)
  let s' := s.setSes (.rem i) { x with entries := x.entries.map (fun e => if resendDue s.now e then (e.1, e.2.1, s.now) else e) }
  .next (s'.emits ((x.entries.filter (resendDue s.now)).map (fun e => .datagram x.port x.peer (remoteImage x.token e.2.1))))

/-- A lease runs out (R57): the session ends and its slot is held back for one lease length. -/
def execLeaseExpiry (dt : Nat) (who : Sess) (s : State) : Next :=
  let s := s.pass dt
  let x := s.ses who
  if !x.isOpen ∨ s.now < x.ends then .next s else
  let s := s.endSession who
  let s := s.setSes who { s.ses who with held := some (s.now + x.lease * perMs) }
  .next (s.fault F.leaseExpiry 0)

/-- The holdback of an expired slot ends (R57). -/
def execLeaseHoldbackEnd (dt : Nat) (who : Sess) (s : State) : Next :=
  let s := s.pass dt
  let x := s.ses who
  match x.held with
  | some t => if t ≤ s.now then .next (s.setSes who { x with held := none }) else .next s
  | none => .next s

/-! ### DMA and FLUE failures -/

/-- A preview of a session has a buffer that holds an address. -/
def Ctx.previews (x : Ctx) (who : Sess) (addr : BitVec 64) : Bool :=
  match x.prev with
  | some p => p.who == who && p.bufs.any (fun b => decide (b.1.toNat ≤ addr.toNat ∧ addr.toNat < b.1.toNat + b.2))
  | none => false

/-- The command with a sequence that is still in its slot fails with a status. -/
def State.failSlot (s : State) (who : Sess) (seq : BitVec 32) (status : Nat) : State :=
  match (s.ses who).cmd with
  | some c => if c.seq = seq then s.deliver who c status [] else s
  | none => s

/-- A DMA read of a command fails: it stops and completes FAULTED (R66), in its slot while it is still there; one of a preview
stops the preview (R369). The record's address is the low 32 bits of the descriptor's (log 75). -/
def State.dmaFail (s : State) (n : Nat) (who : Sess) (seq : BitVec 32) (addr : BitVec 64) : State :=
  match s.pend? who seq with
  | none =>
    if s.cam.ctx.any (fun e => e.2.previews who addr) then
      { s with cam := { s.cam with ctx := s.cam.ctx.map (fun (e : Nat × Ctx) =>
          if e.2.previews who addr then (e.1, { e.2 with prev := none }) else e) } }.hit n (addr.toNat % 2 ^ 32) idLocal 4
    else match (s.ses who).cmd with
      | some c => if c.seq = seq ∧ c.dma then (s.hit n (addr.toNat % 2 ^ 32) idLocal 4).failSlot who seq St.faulted else s
      | none => s
  | some p =>
    let s := s.hit n (addr.toNat % 2 ^ 32) idLocal 4
    s.still p ((s.undo p).complete p St.faulted 0 idHob)

/-- A DMA read returns an error or a poisoned completion (R66). -/
def execDmaError (dt : Nat) (who : Sess) (seq : BitVec 32) (addr : BitVec 64) (s : State) : Next :=
  .next ((s.pass dt).dmaFail F.dmaError who seq addr)

/-- A DMA read does not complete within 50 ms (R66). -/
def execDmaTimeout (dt : Nat) (who : Sess) (seq : BitVec 32) (addr : BitVec 64) (s : State) : Next :=
  .next ((s.pass dt).dmaFail F.dmaTimeout who seq addr)

/-- A FLUE transaction is not acknowledged within `timeout_us` (R29): recorded, and the command it serves completes TIMEOUT, in its
slot or as a PENDING one. `waited` is how long it has waited, in TCLK. -/
def execFlueTimeout (dt : Nat) (master : BitVec 8) (id : BitVec 32) (access : BitVec 4)
    (who : Option (Sess × BitVec 32)) (s : State) (waited : Nat := 0) : Next :=
  let s := s.pass dt
  if waited < s.par P.manageFlueTimeoutUs * perUs then .next s else
  let s := s.hit F.flueTimeout id.toNat master.toNat access.toNat
  match who with
  | none => .next s
  | some (w, seq) =>
    match s.pend? w seq with
    | some p => .next ((s.undo p).complete p St.timeout 0 idHob)
    | none => .next (s.failSlot w seq St.timeout)

end Sys2Proof.Machine
end

