-- ==== Sys2Proof/Machine/Geometry.lean ====
section
/-!
DEFINITION. Raster geometry: positions across the web (R114 to R116), offsets along it (R117 to R120), the fetch demand
and limit (R127, R410), switch lines (R99) and the least gap between splices (R100).
-/
namespace Sys2Proof.Machine

/-! ### Fire positions -/

/-- A fire position `d` lines back. -/
def back (p d : Nat) : Nat := (p + 2 ^ 32 - d % 2 ^ 32) % 2 ^ 32

/-- A fire position `d` lines on. -/
def fwd (p d : Nat) : Nat := (p + d) % 2 ^ 32

/-- Lines from `l` to `p`, negative when `p` lies before it. -/
def since (p l : Nat) : Int := signed 32 (back p l)

/-! ### Offsets along the web -/

/-- A distance in web units in lines at a pitch (R117). -/
def conv (w p : Nat) : Nat := (w * p + 3600) / 7200

/-- A signed distance in lines (R117). -/
def convS (w : Int) (p : Nat) : Int := (w * p + 3600) / 7200

/-- A geometry: the value of each parameter, as accepted or as fixed at a commit. -/
abbrev Geo := PKey → Nat

/-- The accepted geometry. -/
def State.geo (s : State) : Geo := s.par

/-- The geometry of a run. -/
def Run.g (r : Run) : Geo := pick r.geo

/-- Enabled slots of a bar. -/
def gSlots (g : Geo) (b : Nat) : List Nat := unmask 20 (g (P.rasterBarSlotMask b))

/-- Line offset of a bar, D_b (R118). -/
def gBar (g : Geo) (b p : Nat) : Nat := conv (g (P.rasterBarOffsetWu b)) p

/-- A slot is split (R120). -/
def gSplit (g : Geo) (b sl : Nat) : Bool := g (P.rasterBarSlotSplit (20 * b + sl)) == 1

/-- Offset of a row group, D(b,s,g) (R118). -/
def gGroup (g : Geo) (b sl rg p : Nat) : Nat :=
  conv (g (P.rasterBarOffsetWu b) + g (P.rasterBarSlotOffsetWu (20 * b + sl)) +
    g (P.rasterBarSlotRowgroupOffsetWu (40 * b + 2 * sl + rg))) p

/-- Offset of the fetch pointer of a row group (R120): in an unsplit slot the slot's own offset. -/
def gPtr (g : Geo) (b sl rg p : Nat) : Nat :=
  if gSplit g b sl then gGroup g b sl rg p
  else conv (g (P.rasterBarOffsetWu b) + g (P.rasterBarSlotOffsetWu (20 * b + sl))) p

/-- Delay of a row in lines (R119). -/
def gDelay (g : Geo) (b sl row p : Nat) : Nat :=
  let d := g (P.rasterBarSlotRowDelayWu (80 * b + 4 * sl + row))
  if gSplit g b sl then conv d p else conv (d + g (P.rasterBarSlotRowgroupOffsetWu (40 * b + 2 * sl + row / 2))) p

/-- Row groups that have a fetch pointer of their own. -/
def gGroups (g : Geo) (b sl : Nat) : List Nat := if gSplit g b sl then [0, 1] else [0]

/-- Offset from the splice line at which a bar's switch begins (R99): its first row group, or D_b without an enabled slot. -/
def gFirst (g : Geo) (b p : Nat) : Nat :=
  let l := (gSlots g b).flatMap (fun sl => [gGroup g b sl 0 p, gGroup g b sl 1 p])
  match l with
  | [] => gBar g b p
  | x :: t => t.foldl min x

/-- Offset at which every row of a bar has switched (R99). -/
def gLast (g : Geo) (b p : Nat) : Nat :=
  let l := (gSlots g b).flatMap (fun sl => [0, 1, 2, 3].map (fun row => gPtr g b sl (row / 2) p + gDelay g b sl row p))
  l.foldl max (gFirst g b p)

/-- Offset at which the first fetch pointer of a bar reaches a line (R94, R120). -/
def gFetch (g : Geo) (b p : Nat) : Option Nat :=
  let l := (gSlots g b).flatMap (fun sl => (gGroups g b sl).map (fun rg => gPtr g b sl rg p))
  match l with
  | [] => none
  | x :: t => some (t.foldl min x)

/-- The last fetch pointer of a bar (R95). -/
def gFetchLast (g : Geo) (b p : Nat) : Nat :=
  ((gSlots g b).flatMap (fun sl => (gGroups g b sl).map (fun rg => gPtr g b sl rg p))).foldl max 0

/-! ### Positions across the web -/

/-- Bar position of nozzle n of a slot (R114). -/
def gX (g : Geo) (b sl n : Nat) : Nat :=
  let i := 20 * b + sl
  if g (P.rasterBarSlotOrient i) = 0 then g (P.rasterBarSlotX0 i) + n else g (P.rasterBarSlotX0 i) + 5119 - n

/-- Nozzle of a slot at a bar position, if any (R114). -/
def gNozzle (g : Geo) (b sl x : Nat) : Option Nat :=
  let i := 20 * b + sl
  let x0 := g (P.rasterBarSlotX0 i)
  if x < x0 ∨ x0 + 5119 < x then none
  else some (if g (P.rasterBarSlotOrient i) = 0 then x - x0 else x0 + 5119 - x)

/-- x_origin as a signed value. -/
def originOf (v : Nat) : Int := signed 32 v

/-! ### Fetch demand (R127) -/

/-- Granules that hold the pixels `a` to `b` at `n` pixels a granule. -/
def granules (a b : Int) (n : Nat) : Nat := (b / n - a / n + 1).toNat

/-- Granules a pointer touches in a plane line when the plane covers it. -/
def ptrGranules (g : Geo) (origin : Int) (b sl rg : Nat) (pre : Bool) : Nat :=
  let i := 20 * b + sl
  let q0 : Int := (g (P.rasterBarSlotX0 i) : Int) - origin
  let split := gSplit g b sl
  let lowest : Int := if split then q0 + 2 * (if g (P.rasterBarSlotOrient i) = 0 then rg else 1 - rg : Nat) else q0
  if pre then granules lowest (if split then lowest + 5117 else lowest + 5119) 256
  else if split then granules (lowest / 2) ((lowest + 5116) / 2) 64
  else granules (lowest / 2) (lowest / 2 + 2559) 64

/-- The raster demand of a geometry in bytes per print line, in one mode (R127). -/
def gDemand (g : Geo) (pre : Bool) : Nat :=
  let sum := ((List.range 8).map (fun b => ((gSlots g b).map (fun sl =>
    ((gGroups g b sl).map (fun rg => 64 * ptrGranules g (originOf (g (P.rasterBarXOrigin b))) b sl rg pre)).sum)).sum)).sum
  if pre then sum else sum / 2

/-- Jobs that are ARMED or PRINTING. -/
def State.activeJobs (s : State) : List (Nat × Job) := s.lib.dir.filter (fun p => p.2.state == 5 || p.2.state == 6)

/-- A job is pre-screened (R78). -/
def Job.pre (j : Job) : Bool := j.flags.getLsbD 1

/-- A job is encrypted (R78). -/
def Job.encrypted (j : Job) : Bool := j.flags.getLsbD 0

/-- The demand of a geometry over the modes of a list of jobs: contone when there are none (R127). -/
def demandOf (g : Geo) (pres : List Bool) : Nat :=
  match pres with
  | [] => gDemand g false
  | _ => pres.foldl (fun m p => max m (gDemand g p)) 0

/-- `raster.fetch.demand_bpl` (R127). -/
def State.demand (s : State) : Nat := demandOf s.geo (s.activeJobs.map (fun p => p.2.pre))

/-- Channels trained at KINDLING. -/
def State.channels (s : State) : Nat := ((List.range 3).filter s.trained).length

/-- The numerator of the fetch limit (R127, R410). -/
def State.fetchConst (s : State) : Nat := if s.parReset P.memoryDdrMapOrder = 3 then 8192000000 else 8192000000 * s.channels

/-- The fetch limit of a demand (R127). -/
def State.limitOf (s : State) (demand : Nat) : Nat := if demand = 0 then 120000 else min 120000 (s.fetchConst / demand)

/-- `raster.fetch.max_lps` (R127). -/
def State.fetchLimit (s : State) : Nat := s.limitOf s.demand

/-! ### The least gap between splices (R100) -/

/-- The span of a bar's switch in a geometry. -/
def gSpan (g : Geo) (b p : Nat) : Nat := gLast g b p - gFirst g b p

/-- `fire.splice.min_gap_lines` as last computed (R100). -/
def State.minGap (s : State) : Nat := s.splice.minGap

/-- The least gap of the geometry as it stands now (R100). -/
def State.gapNow (s : State) : Nat :=
  let p := s.par P.motionFirePitch
  let now := (List.range 8).map (fun b => gSpan s.geo b p)
  let runs := (s.splice.runs.filter (fun r => r.done.toNat != 255)).flatMap (fun r => (List.range 8).map (fun b => gSpan r.g b p))
  240 + (now ++ runs).foldl max 0

/-- The gap is computed again, at an accepted geometry write or a commit (R100). -/
def State.keepGap (s : State) : State := { s with splice := { s.splice with minGap := s.gapNow } }

end Sys2Proof.Machine
end

