-- ==== Sys2Proof/Machine/Inflate.lean ====
section
/-!
DEFINITION. The decompressor: raw DEFLATE (RFC 1951) as R443 accepts it.
-/
namespace Sys2Proof.Machine

/-- The bits of a byte string in DEFLATE order, least significant first. -/
def bitsOf (b : Bytes) : List Bool := b.flatMap (fun x => (List.range 8).map (fun i => x.getLsbD i))

/-- Take an `n`-bit number, least significant bit first. -/
def takeBits (n : Nat) (l : List Bool) : Option (Nat × List Bool) :=
  match n, l with
  | 0, l => some (0, l)
  | _ + 1, [] => none
  | m + 1, x :: t => (takeBits m t).map (fun p => (b2n x + 2 * p.1, p.2))

/-- A canonical Huffman code: the number of codes of each length 1 to 15 and the symbols in code order. -/
structure Huff where
  counts : List Nat
  syms : List Nat

/-- The code of a list of code lengths (0 for no code). -/
def huffOf (lens : List Nat) : Huff :=
  let at' (n : Nat) : List Nat := (lens.zipIdx.filter (fun p => p.1 == n)).map (fun p => p.2)
  let ls := (List.range 15).map (fun i => at' (i + 1))
  ⟨ls.map List.length, ls.flatten⟩

/-- Code space left over after the codes, in units of the longest code; none when over-subscribed. -/
def huffLeft (counts : List Nat) : Option Nat :=
  counts.foldl (fun a c => a.bind (fun x => if 2 * x < c then none else some (2 * x - c))) (some 1)

/-- A code-length table is valid: not over-subscribed, and complete unless it holds at most one code (RFC 1951). Log 12. -/
def huffValid (lens : List Nat) : Bool :=
  let h := huffOf lens
  match huffLeft h.counts with
  | none => false
  | some 0 => true
  | some _ => decide (h.syms.length ≤ 1)

/-- Decode one symbol: `code` and `first` are the code so far and the first code of its length. -/
def huffDecode (counts : List Nat) (syms : List Nat) (code first : Nat) (l : List Bool) : Option (Nat × List Bool) :=
  match counts, l with
  | [], _ => none
  | _, [] => none
  | c :: ct, x :: t =>
    let code := 2 * code + b2n x
    let first := 2 * first
    if code < first + c then (syms[code - first]?).map (fun s => (s, t))
    else huffDecode ct (syms.drop c) code (first + c) t

/-- Decode one symbol of a code. -/
def Huff.next (h : Huff) (l : List Bool) : Option (Nat × List Bool) := huffDecode h.counts h.syms 0 0 l

/-- Base length and extra bits of length symbols 257 to 285. -/
def lenTable : List (Nat × Nat) :=
  [(3, 0), (4, 0), (5, 0), (6, 0), (7, 0), (8, 0), (9, 0), (10, 0), (11, 1), (13, 1), (15, 1), (17, 1), (19, 2), (23, 2),
   (27, 2), (31, 2), (35, 3), (43, 3), (51, 3), (59, 3), (67, 4), (83, 4), (99, 4), (115, 4), (131, 5), (163, 5), (195, 5),
   (227, 5), (258, 0)]

/-- Base distance and extra bits of distance symbols 0 to 29. -/
def distTable : List (Nat × Nat) :=
  [(1, 0), (2, 0), (3, 0), (4, 0), (5, 1), (7, 1), (9, 2), (13, 2), (17, 3), (25, 3), (33, 4), (49, 4), (65, 5), (97, 5),
   (129, 6), (193, 6), (257, 7), (385, 7), (513, 8), (769, 8), (1025, 9), (1537, 9), (2049, 10), (3073, 10), (4097, 11),
   (6145, 11), (8193, 12), (12289, 12), (16385, 13), (24577, 13)]

/-- Copy `n` bytes from distance `d`; the output is held newest first. -/
def copyBack (d n : Nat) (out : Bytes) : Option Bytes :=
  match n with
  | 0 => some out
  | m + 1 => (out[d - 1]?).bind (fun x => copyBack d m (x :: out))

/-- The symbols of a block up to its end. -/
def inflateSyms (fuel : Nat) (lit dist : Huff) (l : List Bool) (out : Bytes) : Option (List Bool × Bytes) :=
  match fuel with
  | 0 => none
  | f + 1 =>
    (lit.next l).bind fun p =>
    if p.1 < 256 then inflateSyms f lit dist p.2 (BitVec.ofNat 8 p.1 :: out)
    else if p.1 = 256 then some (p.2, out)
    else (lenTable[p.1 - 257]?).bind fun le =>
      (takeBits le.2 p.2).bind fun x =>
      (dist.next x.2).bind fun q =>
      (distTable[q.1]?).bind fun de =>
      (takeBits de.2 q.2).bind fun y =>
      (copyBack (de.1 + y.1) (le.1 + x.1) out).bind fun o => inflateSyms f lit dist y.2 o

/-- The fixed literal and length code of type 1 blocks. -/
def fixedLit : Huff :=
  huffOf (List.replicate 144 8 ++ List.replicate 112 9 ++ List.replicate 24 7 ++ List.replicate 8 8)

/-- The fixed distance code of type 1 blocks. -/
def fixedDist : Huff := huffOf (List.replicate 30 5)

/-- `n` code lengths under a code-length code. -/
def readLens (fuel : Nat) (h : Huff) (n : Nat) (acc : List Nat) (l : List Bool) : Option (List Nat × List Bool) :=
  match fuel with
  | 0 => if acc.length = n then some (acc.reverse, l) else none
  | f + 1 =>
    if acc.length = n then some (acc.reverse, l) else if n < acc.length then none else
    (h.next l).bind fun p =>
    if p.1 < 16 then readLens f h n (p.1 :: acc) p.2
    else if p.1 = 16 then
      (takeBits 2 p.2).bind fun x => (acc[0]?).bind fun v => readLens f h n (List.replicate (3 + x.1) v ++ acc) x.2
    else if p.1 = 17 then (takeBits 3 p.2).bind fun x => readLens f h n (List.replicate (3 + x.1) 0 ++ acc) x.2
    else (takeBits 7 p.2).bind fun x => readLens f h n (List.replicate (11 + x.1) 0 ++ acc) x.2

/-- `n` three-bit numbers. -/
def readTriples (n : Nat) (l : List Bool) : Option (List Nat × List Bool) :=
  match n with
  | 0 => some ([], l)
  | m + 1 => (takeBits 3 l).bind fun p => (readTriples m p.2).map fun q => (p.1 :: q.1, q.2)

/-- The order in which code-length code lengths are sent. -/
def clOrder : List Nat := [16, 17, 18, 0, 8, 7, 9, 6, 10, 5, 11, 4, 12, 3, 13, 2, 14, 1, 15]

/-- The tables of a type 2 block. -/
def dynTables (l : List Bool) : Option (Huff × Huff × List Bool) :=
  (takeBits 5 l).bind fun a => (takeBits 5 a.2).bind fun b => (takeBits 4 b.2).bind fun c =>
  (readTriples (c.1 + 4) c.2).bind fun t =>
  let cl := (List.range 19).map (fun s => ((clOrder.zip t.1).find? (fun p => p.1 == s)).elim 0 Prod.snd)
  if !huffValid cl then none else
  (readLens 320 (huffOf cl) (a.1 + 257 + b.1 + 1) [] t.2).bind fun r =>
  let ll := r.1.take (a.1 + 257)
  let dl := r.1.drop (a.1 + 257)
  if huffValid ll && huffValid dl then some (huffOf ll, huffOf dl, r.2) else none

/-- The blocks of a stream; `used` is the bits before `l`, `out` the output newest first. -/
def inflateBlocks (fuel : Nat) (all : Nat) (l : List Bool) (out : Bytes) : Option (List Bool × Bytes) :=
  match fuel with
  | 0 => none
  | f + 1 =>
    (takeBits 1 l).bind fun fin => (takeBits 2 fin.2).bind fun ty =>
    let body : Option (List Bool × Bytes) :=
      if ty.1 = 0 then
        let l0 := ty.2.drop (ty.2.length % 8)
        (takeBits 16 l0).bind fun len => (takeBits 16 len.2).bind fun nlen =>
        if len.1 + nlen.1 ≠ 65535 ∨ nlen.2.length < 8 * len.1 then none
        else some (nlen.2.drop (8 * len.1), ((List.range len.1).map
          (fun i => BitVec.ofNat 8 ((takeBits 8 (nlen.2.drop (8 * i))).elim 0 Prod.fst))).reverse ++ out)
      else if ty.1 = 1 then inflateSyms (all + 1) fixedLit fixedDist ty.2 out
      else if ty.1 = 2 then (dynTables ty.2).bind fun t => inflateSyms (all + 1) t.1 t.2.1 t.2.2 out
      else none
    body.bind fun r => if fin.1 = 1 then some r else inflateBlocks f all r.1 r.2

/-- Inflate a whole stream (R443); none where R443 completes FAULTED. The output length is the expected one. -/
def inflate (b : Bytes) (expect : Nat) : Option Bytes :=
  let l := bitsOf b
  match inflateBlocks (l.length + 1) l.length l [] with
  | none => none
  | some (rest, out) => if rest.length < 8 ∧ out.length = expect then some out.reverse else none

end Sys2Proof.Machine
end

