-- ==== Sys2Proof/Machine/Jobs.lean ====
section
/-!
DEFINITION. Jobs: the image (R78 to R82), the directory (R83 to R85), loading, staging, storing and export (R86 to R90,
R496), with the commands of R525 that act on them.
-/
namespace Sys2Proof.Machine

/-! ### The image -/

/-- Bits a pixel takes (R81). -/
def Job.bpp (j : Job) : Nat := if j.pre then 2 else 8

/-- Row stride of a plane line in bytes: a multiple of 64 (R81). -/
def Job.stride (j : Job) : Nat := (j.width * j.bpp + 511) / 512 * 64

/-- Plane lines per repeat (R81, R82). -/
def Job.planeLines (j : Job) : Nat := if j.pre then j.repLines else j.repLines / 2

/-- Bands of a plane (R82). -/
def Job.bands (j : Job) : Nat := (j.planeLines + j.bandLines - 1) / j.bandLines

/-- Plane lines of a band: the last holds the remainder (R81). -/
def Job.bandSize (j : Job) (i : Nat) : Nat := min j.bandLines (j.planeLines - i * j.bandLines)

/-- Bytes of an expanded band. -/
def Job.bandBytes (j : Job) (i : Nat) : Nat := j.bandSize i * j.stride

/-- Lines per inch of the job's pitch (R78). -/
def Job.lpi (j : Job) : Nat := if j.pitch = 0 then 1200 else if j.pitch = 1 then 900 else 600

/-- Bands arrive as DEFLATE streams (R78). -/
def Job.deflated (j : Job) : Bool := j.flags.getLsbD 4

/-- STORE (R78). -/
def Job.store (j : Job) : Nat := bits j.flags.toNat 2 2

/-- The job of a header (R78). -/
def headerJob (b : Bytes) : Job :=
  { jobId := BitVec.ofNat 32 (u32 b 8), planes := u8 b 0xC, flags := BitVec.ofNat 16 (u16 b 6), repLines := u32 b 0x10,
    repCount := u32 b 0x14, pitch := u8 b 0xD, bandLines := u16 b 0xE, width := u32 b 0x18,
    planeMap := (List.range 8).map (fun p => u8 b (0x1C + p)), imgBytes := u64 b 0x28 }

/-- The plane_map rule of R78: a bar for each plane, all different, then 0xFF. -/
def planeMapOk (m : List Nat) (planes : Nat) : Bool :=
  let used := m.take planes
  used.all (· < 8) && decide (used.eraseDups.length = planes) && (m.drop planes).all (· == 0xFF)

/-- The header's fields lie in range (R78, R82). -/
def headerOk (b : Bytes) : Bool :=
  let j := headerJob b
  decide (u32 b 0 = 0x424A4741 ∧ u16 b 4 = 1 ∧ j.flags.toNat < 32 ∧ j.store ≠ 3 ∧ 1 ≤ j.planes ∧ j.planes ≤ 8 ∧ j.pitch ≤ 2 ∧
    j.bandLines ∈ [16, 32, 64, 128, 256, 512, 1024, 2048, 4096] ∧ 1 ≤ j.repLines ∧ j.repLines ≤ 16777215 ∧ 1 ≤ j.width ∧
    j.width ≤ (if j.pre then 94488 else 47244) ∧ (j.pre ∨ j.repLines % 2 = 0) ∧ 1 ≤ u32 b 0x24 ∧ u32 b 0x24 ≤ 65535 ∧
    fld b 0x30 16 = 0 ∧ j.bands ≤ 65536 ∧ j.planes * j.bands ≤ 65535) && planeMapOk j.planeMap j.planes

/-- Section k of the table (R79). -/
def sectionAt (b : Bytes) (k : Nat) : Section :=
  let o := 0x40 + 16 * k
  { ty := u8 b o, plane := u8 b (o + 1), index := u16 b (o + 2), off := u32 b (o + 4), len := u32 b (o + 8), crc := BitVec.ofNat 32 (u32 b (o + 12)) }

/-- The bytes of a section. -/
def Section.bytes (x : Section) (img : Bytes) : Bytes := slice img x.off x.len

/-- A window entry of an OVERLAY section (R93). -/
structure Window where
  x : Nat
  width : Nat
  y : Nat
  height : Nat
  off : Nat
  ring : Nat
  keyed : Bool
  num : Nat
  stride : Nat
deriving DecidableEq, Repr

/-- The window entry at the start of 32 bytes. -/
def parseWindow (b : Bytes) : Window :=
  { x := u32 b 0, width := u32 b 4, y := u32 b 8, height := u32 b 12, off := u32 b 16, ring := u8 b 20, keyed := u8 b 21 == 1,
    num := u16 b 22, stride := u32 b 24 }

/-- The windows of an OVERLAY section. -/
def parseWindows (b : Bytes) : List Window := (chunks 32 (b.length / 32) b).map parseWindow

/-- The fields of an OVERLAY section lie in range (R93). -/
def overlayOk (j : Job) (b : Bytes) : Bool :=
  let ws := parseWindows b
  decide (b.length % 32 = 0 ∧ ws.length ≤ 64 ∧ (ws.map Window.num).eraseDups.length = ws.length) &&
  (chunks 32 (b.length / 32) b).all (fun e => u8 e 21 ≤ 1 && u32 e 28 == 0) &&
  ws.all (fun w => decide (1 ≤ w.width ∧ 1 ≤ w.height ∧ w.ring ≤ 15 ∧ w.num ≤ 63 ∧ w.stride % 4 = 0 ∧ (w.width * j.bpp + 7) / 8 ≤ w.stride))

/-- An entry of a TARGETS section (R378). -/
structure Target where
  kind : Nat
  plane : Nat
  ctx : Nat
  chan : Nat
  x : Nat
  width : Nat
  y : Nat
  height : Nat
  target : Nat
  slope : Int
  weight : Nat
  margin : Nat
deriving DecidableEq, Repr

/-- The entry at the start of 32 bytes; a CHECK's slope field is its pitch. -/
def parseTarget (b : Bytes) : Target :=
  { kind := u8 b 0, plane := u8 b 1, ctx := u8 b 2, chan := u8 b 3, x := u32 b 4, width := u32 b 8, y := u32 b 12, height := u32 b 16,
    target := u16 b 20, slope := signed 16 (u16 b 22), weight := u16 b 24, margin := u16 b 26 }

/-- The entries of a TARGETS section. -/
def parseTargets (b : Bytes) : List Target := (chunks 32 (u16 b 0) (b.drop 16)).map parseTarget

/-- The fields of a TARGETS section lie in range (R378). -/
def targetsOk (j : Job) (b : Bytes) : Bool :=
  let n := u16 b 0
  decide (1 ≤ n ∧ n ≤ 1024 ∧ b.length = 16 + 32 * n ∧ u16 b 2 = 1 ∧ fld b 4 12 = 0) &&
  (chunks 32 n (b.drop 16)).all (fun e => u32 e 28 == 0) &&
  (parseTargets b).all (fun t => decide (1 ≤ t.kind ∧ t.kind ≤ 3 ∧ t.plane < j.planes ∧ t.ctx ≤ 15 ∧ t.chan ≤ 4 ∧ 1 ≤ t.width ∧ 1 ≤ t.height ∧
    2 * t.margin < t.width ∧ 2 * t.margin < t.height) &&
    (if t.kind = 3 then decide (t.target = 0 ∧ 2 ≤ t.slope ∧ t.slope ≤ 32 ∧ 1 ≤ t.weight ∧ t.weight ≤ 256)
     else decide (t.slope ≠ 0 ∧ 1 ≤ t.weight ∧ t.weight ≤ 1000)))

/-- The fields of a SCREEN section lie in range (R140). -/
def screenOk (j : Job) (b : Bytes) : Bool :=
  let m := u8 b 0
  decide (1 ≤ m ∧ m ≤ 4 ∧ b.length = 16 + 524288 * m ∧ fld b 9 7 = 0) &&
  (List.range j.planes).all (fun p => u8 b (1 + p) < m) &&
  (chunks 8 (65536 * m) (b.drop 16)).all (fun c => decide (u16 c 0 ≤ u16 c 2 ∧ u16 c 2 ≤ u16 c 4 ∧ u16 c 4 ≤ 4094 ∧ u16 c 6 = 0))

/-- A colour memory is well formed (R393). -/
def memoryOk (b : Bytes) : Bool :=
  decide (b.length = 12816 ∧ u32 b 0 = 0x4D434F4C ∧ u16 b 4 = 1 ∧ u8 b 7 = 0 ∧ u32 b 12 = (crc32c (b.drop 16)).toNat) &&
  (List.range 3200).all (fun i => decide (-1000 ≤ signed 16 (u16 b (16 + 4 * i)) ∧ signed 16 (u16 b (16 + 4 * i)) ≤ 1000))

/-- A section's place in the image and its own fields are right (R79, R80, R87 and the rule of its type). -/
def sectionOk (j : Job) (img : Bytes) (x : Section) : Bool :=
  let b := x.bytes img
  decide (x.off + x.len ≤ img.length ∧ 1 ≤ x.ty ∧ x.ty ≤ 7 ∧ (x.ty = 1 ∨ x.index = 0)) && decide (x.crc = crc32c b) &&
  (if x.ty = 1 ∨ x.ty = 2 ∨ x.ty = 4 then decide (x.plane < 8) else x.plane == 0xFF) &&
  (match x.ty with
   | 1 => decide (x.plane ≥ j.planes) || (decide (x.index < j.bands) &&
            (j.deflated || decide (x.len = j.bandBytes x.index + if j.encrypted then 28 else 0)))
   | 2 => !j.pre && x.len == 512 && (List.range 256).all (fun i => u16 b (2 * i) ≤ 4095)
   | 3 => !j.pre && screenOk j b
   | 4 => overlayOk j b
   | 5 => targetsOk j b
   | 6 => memoryOk b
   | _ => x.len == 64 && fld b 1 3 == 0)

/-- The sections of a type. -/
def ofType (l : List Section) (ty : Nat) : List Section := l.filter (fun x => x.ty == ty)

/-- Every required section is there (R80, R495). -/
def sectionsComplete (j : Job) (l : List Section) : Bool :=
  let band := ofType l 1
  (List.range j.planes).all (fun p => (List.range j.bands).all (fun i => band.any (fun x => x.plane == p && x.index == i))) &&
  (j.pre || ((List.range j.planes).all (fun p => ((ofType l 2).filter (fun x => x.plane == p)).length == 1) && (ofType l 3).length == 1)) &&
  (!j.encrypted || (ofType l 7).length == 1)

/-- The windows of a plane have numbers of their own, over all its OVERLAY sections (R93). -/
def windowsApart (img : Bytes) (l : List Section) : Bool :=
  (List.range 8).all (fun p => decide (((ofType l 4).filter (fun x => x.plane == p)).flatMap (fun x => (parseWindows (x.bytes img)).map Window.num)).Nodup)

/-- The checks of R87 on a delivered image: its job, or none. -/
def checkImage (img : Bytes) : Option Job :=
  let j := headerJob img
  let n := u32 img 0x24
  if img.length < 64 ∨ !headerOk img ∨ j.imgBytes ≠ img.length ∨ img.length < 64 + 16 * n then none else
  let secs := (List.range n).map (sectionAt img)
  if secs.all (sectionOk j img) && sectionsComplete j secs && windowsApart img secs then
    some { j with secs := secs, image := img, imgCrc := crc32c img, memValid := !(ofType secs 6).isEmpty,
                  memory := ((ofType secs 6).map (fun x => x.bytes img)).headD [] }
  else none

/-! ### The library and the stage region (R88, R89, R91) -/

/-- Bytes of the library in use. -/
def State.libUsed (s : State) : Nat := (s.lib.dir.map (fun p => p.2.stored)).sum

/-- Bytes of the library. -/
def State.libSize (s : State) : Nat := s.lib.libMb * 2 ^ 20

/-- Bytes of the stage region in use: staged jobs, HOPPER rings and NOZZLE rings (R368). -/
def State.stageUsed (s : State) : Nat :=
  (s.lib.dir.map (fun p => p.2.stageBytes)).sum + (s.lib.rings.map (fun p => p.2.recBytes * p.2.depth)).sum +
    (s.cam.ctx.map (fun e => e.2.ringN * e.2.ringB)).sum

/-- Bytes of the stage region. -/
def State.stageSize (s : State) : Nat := s.lib.stgMb * 2 ^ 20

/-- Bytes saved by storing bands as STORE selects, and the bands that do not shrink (R87); each compressed length is a free value. -/
def storeBands (j : Job) (bands : List Section) (free : Nat) : Nat × Nat × Nat :=
  match bands with
  | [] => (0, 0, free)
  | x :: t =>
    let (saved, bad, f) := storeBands j t (free + 1)
    if Config.deflatedLen free < x.len then (saved + (x.len - Config.deflatedLen free), bad, f) else (saved, bad + 1, f)

/-- The codec compresses the bands of a job (R87, R495). -/
def Job.compresses (j : Job) : Bool := (j.store == 1 || j.store == 2) && !j.deflated && !j.encrypted

/-- The codec's counters after jobs of its own work (R450): jobs run, NOSHRINK results and stream errors. -/
def State.codecRan (s : State) (jobs noshr errs : Nat) : State :=
  { s with chip := { s.chip with jobs := sat 32 (s.chip.jobs + jobs), noshr := sat 32 (s.chip.noshr + noshr), strErr := sat 32 (s.chip.strErr + errs) } }

/-- Store a checked image in the library: NO_SPACE with the entry EMPTY, or LOADED (R84, R87, R88). -/
def State.storeJob (s : State) (p : Pend) (i : Nat) (j : Job) : State :=
  let (saved, bad, free) := if j.compresses then storeBands j (ofType j.secs 1) s.free else (0, 0, s.free)
  let s := { s with free := free }
  let s := if j.compresses then s.codecRan (ofType j.secs 1).length bad 0 else s
  let stored := j.image.length - saved
  let s := s.emptyJob i
  if s.libSize < s.libUsed + stored then s.complete p St.noSpace 0 idHob
  else (s.setJob i { j with state := 2, stored := stored, noshrink := bad }).complete p St.ok stored
    (if j.compresses then idCodec else idHob)

/-- A load fails: the entry returns to EMPTY (R84). -/
def State.loadFails (s : State) (p : Pend) (i status : Nat) : State := (s.emptyJob i).complete p status 0 idHob

/-! ### Loading -/

/-- A directory index field in range. -/
def indexOk (n : Nat) : Bool := decide (n < 4096)

/-- 0x0201 load (R86). -/
def execJobLoad (dt : Nat) (who : Sess) (s : State) : Next :=
  let s := s.pass dt
  .next (s.runCmd who 0x0201 (fun c => dmaForm s c 16 (fun _ a =>
    let i := u16 a 0
    need s (indexOk i && fld a 2 14 == 0) St.badParam (vet s (hasQueue s who (
      need s ((s.job i).state == 0) St.state (notRetired s (
        .pend i (s.setJob i { state := 1 })))))))))

/-- 0x0202 window open (R86). -/
def execJobWindowOpen (dt : Nat) (who : Sess) (s : State) : Next :=
  let s := s.pass dt
  .next (s.runCmd who 0x0202 (fun c =>
    let i := u16 c.pay 0
    let off := u64 c.pay 4
    plain s c 12 (need s (indexOk i && u16 c.pay 2 == 0 && off % 4096 == 0) St.badParam (vet s (
      match s.host.bar2 with
      | none => need s ((s.job i).state == 0) St.state (
          .done St.ok [] { s.setJob i { state := 1 } with host := { s.host with bar2 := some { who := who, index := i, off := off, isOpen := true } } })
      | some b =>
        if b.who ≠ who then refuse s St.busy
        else need s (b.index == i && (s.job i).state == 1 && decide (b.off < off)) St.state (
          .done St.ok [] { s with host := { s.host with bar2 := some { b with off := off, isOpen := true } } }))))))

/-- Put delivered bytes at their image offsets. -/
def deliverBytes (m : SMap (BitVec 8)) (a : Nat) (b : Bytes) : SMap (BitVec 8) :=
  match b with
  | [] => m
  | x :: t => deliverBytes (put m a x) (a + 1) t

/-- A posted write to BAR2 (R43, R46, R86). -/
def execBar2Write (dt addr : Nat) (bytes : Bytes) (s : State) : Next :=
  let s := s.pass dt
  match s.host.bar2 with
  | some b =>
    if b.isOpen ∧ s.windowOpen then .next { s with host := { s.host with bar2 := some { b with bytes := deliverBytes b.bytes (b.off + addr) bytes } } }
    else .next { s with host := { s.host with dropBar2 := sat 8 (s.host.dropBar2 + 1) } }
  | none => .next { s with host := { s.host with dropBar2 := sat 8 (s.host.dropBar2 + 1) } }

/-- The image of the windows when every byte of it was delivered; empty otherwise. -/
def windowImage (m : SMap (BitVec 8)) (len : Nat) : Bytes :=
  if m.map Prod.fst = List.range len then m.map Prod.snd else []

/-- 0x0203 window close (R86). -/
def execJobWindowClose (dt : Nat) (who : Sess) (s : State) : Next :=
  let s := s.pass dt
  .next (s.runCmd who 0x0203 (fun c =>
    let i := u16 c.pay 0
    let final := u8 c.pay 2
    let len := u64 c.pay 4
    plain s c 16 (need s (indexOk i && final ≤ 1 && u8 c.pay 3 == 0 && (final == 1 || (len == 0 && u32 c.pay 12 == 0))) St.badParam (vet s (
      match s.host.bar2 with
      | none => refuse s St.state
      | some b => need s (b.who == who && b.index == i && b.isOpen) St.state (
          if final = 0 then .done St.ok [] { s with host := { s.host with bar2 := some { b with isOpen := false } } }
          else hasQueue s who (.pend i { s with host := { s.host with bar2 := none } } (windowImage b.bytes len))))))))

/-- A whole image has arrived (R86 to R88): checked, then stored; BAD_PARAM leaves the entry EMPTY. -/
def execLoadComplete (dt : Nat) (who : Sess) (seq : BitVec 32) (chain : List Bytes) (data : Bytes) (s : State) : Next :=
  let s := s.pass dt
  .next (s.finish who seq [0x0201, 0x0203] (fun p =>
    let i := p.obj.toNat
    let img : Option Bytes := if p.cmd.op = 0x0203 then
        (if crc32c p.data = BitVec.ofNat 32 (u32 p.cmd.pay 12) then some p.data else none)
      else p.dataIn chain data
    match img.bind checkImage with
    | none => s.loadFails p i St.badParam
    | some j => s.storeJob p i j))

/-! ### Staging -/

/-- 0x0204 stage (R89). -/
def execJobStage (dt : Nat) (who : Sess) (s : State) : Next :=
  let s := s.pass dt
  .next (s.runCmd who 0x0204 (fun c =>
    let i := u16 c.pay 0
    plain s c 4 (need s (indexOk i && u16 c.pay 2 == 0) St.badParam (vet s (hasQueue s who (
      need s ((s.job i).state == 2) St.state (notRetired s (
        .pend i (s.setJob i { s.job i with state := 3 })))))))))

/-- The expanded bytes of a band, none on a crc or stream error (R89, R443). -/
def expandBand (j : Job) (x : Section) (plain : Bytes) : Option Bytes :=
  let n := j.bandBytes x.index
  if !j.encrypted ∧ crc32c plain ≠ x.crc then none
  else if j.deflated then inflate plain n
  else if plain.length = n then some plain else none

/-- Every overlay window and target region lies inside its plane and the repeat (R89, R378). -/
def Job.regionsOk (j : Job) : Bool :=
  (ofType j.secs 4).all (fun x => (parseWindows (x.bytes j.image)).all (fun w => decide (w.x + w.width ≤ j.width ∧ w.y + w.height ≤ j.planeLines))) &&
  (ofType j.secs 5).all (fun x => (parseTargets (x.bytes j.image)).all (fun t => decide (t.x + t.width ≤ j.width ∧ t.y + t.height ≤ j.planeLines)))

/-- Key of a band among the staged ones. -/
def bandKey (plane band : Nat) : Nat := 65536 * plane + band

/-- How the bands of a job expand: every band, or the number of the source that stops them. Of two BAND sections for one plane and band the later
stands, and bands of an unused plane are kept unread (log 79). -/
def expandAll (j : Job) (bands : List Section) (plain : List (Nat × Option Bytes)) (acc : SMap (List (BitVec 8))) :
    Except Nat (SMap (List (BitVec 8))) :=
  match bands with
  | [] => .ok acc
  | x :: t =>
    let k := bandKey x.plane x.index
    let src : Option Bytes := if j.encrypted then ((plain.find? (fun e => e.1 == k)).bind Prod.snd) else some (x.bytes j.image)
    match src with
    | none => .error F.decryptAuth
    | some b =>
      match expandBand j x b with
      | some out => expandAll j t plain (put acc k out)
      | none => .error (if j.deflated then F.codecStream else F.stageCheck)

/-- Staging fails: the job returns to LOADED (R84, R89). -/
def State.stageFails (s : State) (p : Pend) (i status unit : Nat) : State :=
  (s.setJob i { s.job i with state := 2, staged := [], stageBytes := 0 }).complete p status 0 unit

/-- The KEK slot that the KEY section of a job names is empty (R495, R496). -/
def State.kekMissing (s : State) (j : Job) : Bool :=
  match ofType j.secs 7 with
  | x :: _ => (look s.flash.keys (u8 (x.bytes j.image) 0)).isNone
  | [] => true

/-- Staging an encrypted job is denied (R485, R496). -/
def State.encDenied (s : State) : Bool := s.otp.lc == 0 || s.otp.lc == 3 || s.otp.lc == 4 || s.vbat.tampered

/-- Staging ends (R89, R496). `keyOk` is whether the job key unwraps; `plain` gives each decrypted band, none when its tag fails. -/
def execStageComplete (dt : Nat) (who : Sess) (seq : BitVec 32) (keyOk : Bool) (plain : List (Nat × Option Bytes)) (s : State) : Next :=
  let s := s.pass dt
  .next (s.finish who seq [0x0204] (fun p =>
    let i := p.obj.toNat
    let j := s.job i
    let unit := if j.encrypted then idFender else if j.deflated then idCodec else idHob
    if j.encrypted ∧ s.encDenied then s.stageFails p i St.denied idFender
    else if j.encrypted ∧ (s.kekMissing j ∨ !keyOk) then (s.hit F.keyUnwrap 0 idFender 0).stageFails p i St.denied idFender
    else
      let bands := (ofType j.secs 1).filter (fun x => decide (x.plane < j.planes))
      let need := (bands.map (fun x => j.bandBytes x.index)).sum
      if s.stageSize < s.stageUsed + need then s.stageFails p i St.noSpace idHob else
      match expandAll j bands plain [] with
      | .error n =>
        let s := if n = F.codecStream then (s.codecRan 1 0 1).hit F.codecStream i idCodec 0 else s
        let s := if n = F.decryptAuth then s.hit n i idFender 0 else s.hit F.stageCheck 0 idCodec 0
        s.still p (s.stageFails p i St.faulted unit)
      | .ok m =>
        if !j.regionsOk then (s.hit F.stageCheck 0 idHob 0).stageFails p i St.faulted unit
        else
          let s := if j.deflated then s.codecRan bands.length 0 0 else s
          (s.setJob i { j with state := 4, staged := m, stageBytes := need }).complete p St.ok need unit))

/-- A command on one directory index (R525). -/
def indexForm (s : State) (c : Cmd) (k : Nat → Reply) : Reply :=
  plain s c 4 (need s (indexOk (u16 c.pay 0) && u16 c.pay 2 == 0) St.badParam (vet s (k (u16 c.pay 0))))

/-- 0x0205 unstage (R84). -/
def execJobUnstage (dt : Nat) (who : Sess) (s : State) : Next :=
  let s := s.pass dt
  .next (s.runCmd who 0x0205 (fun c => indexForm s c (fun i =>
    need s ((s.job i).state == 4 || (s.job i).state == 7) St.state (
      .done St.ok [] (s.setJob i { s.job i with state := 2, staged := [], stageBytes := 0 })))))

/-- 0x0206 delete (R84, R88). -/
def execJobDelete (dt : Nat) (who : Sess) (s : State) : Next :=
  let s := s.pass dt
  .next (s.runCmd who 0x0206 (fun c => indexForm s c (fun i =>
    need s ((s.job i).state == 2) St.state (.done St.ok [] (s.emptyJob i)))))

/-- The 48 bytes of a directory entry (R83); an EMPTY entry reads zero. -/
def Job.info (j : Job) : Bytes :=
  if j.state = 0 then List.replicate 48 0 else
  leB 4 j.jobId.toNat ++ leB 1 j.state ++ leB 1 j.planes ++ leB 2 j.flags.toNat ++ leB 4 j.repLines ++ leB 4 j.repCount ++
    leB 8 j.stored ++ leB 8 j.imgBytes ++ leB 4 j.noshrink ++ leB 4 j.printed ++ leB 1 j.barsOn.toNat ++ leB 1 (b2n j.memValid) ++
    leB 2 0 ++ leB 4 j.imgCrc.toNat

/-- 0x0208 export (R90): the image as it stands at acceptance. -/
def execJobExport (dt : Nat) (who : Sess) (s : State) : Next :=
  let s := s.pass dt
  .next (s.runCmd who 0x0208 (fun c => dmaForm s c 16 (fun _ a =>
    let i := u16 a 0
    need s (indexOk i && fld a 2 14 == 0) St.badParam (vet s (hasQueue s who (
      need s (decide (2 ≤ (s.job i).state)) St.state (.pend i s (s.job i).image)))))))

/-- The image of an export has been written (R90). -/
def execExportComplete (dt : Nat) (who : Sess) (seq : BitVec 32) (chain : List Bytes) (s : State) : Next :=
  let s := s.pass dt
  .next (s.finish who seq [0x0208] (fun p => s.finishOut p chain p.data p.data.length idHob))

/-- The 32 bytes of a defect record (R134). -/
def Defect.bytes (d : Defect) : Bytes :=
  leB 1 d.kind ++ leB 1 d.bar ++ leB 1 d.slot ++ leB 1 d.rg ++ leB 2 d.index ++ leB 2 d.pixels ++ leB 4 d.rep ++ leB 4 d.pl ++
    leB 4 d.pixel ++ leB 4 d.line ++ leB 4 d.count ++ leB 4 d.t32.toNat

/-- 0x020C defects (R134): the oldest records, up to 7, and the count overwritten since the previous call. -/
def execJobDefects (dt : Nat) (who : Sess) (s : State) : Next :=
  let s := s.pass dt
  .next (s.runCmd who 0x020C (fun c => plain s c 0 (vet s (
    let l := s.raster.defects.take 7
    .done St.ok (leB 1 l.length ++ leB 3 0 ++ leB 4 s.raster.lost ++ l.flatMap Defect.bytes)
      { s with raster := { s.raster with defects := s.raster.defects.drop 7, lost := 0, ovf := false } }))))

end Sys2Proof.Machine
end

