-- ==== Sys2Proof/Machine/Splices.lean ====
section
/-!
DEFINITION. HOPPER rings (R91 to R95), the forecast (R106 to R108) and the SPLICE commands (R96 to R98, R103, R526).
-/
namespace Sys2Proof.Machine

/-! ### Which plane and which rings -/

/-- The twin of a bar in the pairing of a geometry (R157). -/
def gTwin (g : Geo) (b : Nat) : Option Nat :=
  (List.range 4).findSome? (fun p =>
    if g (P.rasterTwinMode p) = 0 then none
    else if g (P.rasterTwinBarA p) = b then some (g (P.rasterTwinBarB p))
    else if g (P.rasterTwinBarB p) = b then some (g (P.rasterTwinBarA p)) else none)

/-- The plane that a bar prints of a job: its own, or the one of its twin (R78, R161). -/
def planeFor (j : Job) (g : Geo) (b : Nat) : Option Nat :=
  let find (x : Nat) : Option Nat := (List.range j.planes).find? (fun p => (j.planeMap[p]?).getD 0xFF == x)
  match find b with
  | some p => some p
  | none => (gTwin g b).bind find

/-- The windows of a plane of a job (R93). -/
def Job.windows (j : Job) (plane : Nat) : List Window :=
  (ofType j.secs 4).flatMap (fun x => if x.plane = plane then parseWindows (x.bytes j.image) else [])

/-- The rings that a job's windows name (R94). -/
def Job.rings (j : Job) : List Nat :=
  ((List.range j.planes).flatMap (fun p => (j.windows p).map Window.ring)).eraseDups

/-- A ring. -/
def State.ring (s : State) (r : Nat) : Ring := sel s.lib.rings r {}

/-- Replace a ring. -/
def State.setRing (s : State) (r : Nat) (x : Ring) : State := { s with lib := { s.lib with rings := put s.lib.rings r x } }

/-- Fill of a ring: records pushed and not yet released (R95). -/
def Ring.fill (x : Ring) : Nat := x.recs.length + x.bound.length

/-- A ring is named by an ARMED or PRINTING job (R91, R106). -/
def State.ringNamed (s : State) (r : Nat) : Bool := s.activeJobs.any (fun p => p.2.rings.contains r)

/-! ### The forecast (R106) -/

/-- Offset at which the first pointer of any bar that prints a job reaches a line. -/
def jobFetch (j : Job) (g : Geo) (pitch : Nat) : Nat :=
  let l := ((List.range 8).filter (fun b => (planeFor j g b).isSome)).filterMap (fun b => gFetch g b pitch)
  match l with
  | [] => 0
  | x :: t => t.foldl min x

/-- A stretch of repeats of one job in print order: its splice line, first fetch offset, next repeat to bind and the repeats it prints. -/
structure Stretch where
  job : Job
  lam : Nat
  fetch : Nat
  next : Nat
  count : Option Nat

/-- Repeats a job prints from its splice line when the next splice line is `nextLam` (R103). -/
def repeatsOf (j : Job) (lam : Nat) (nextLam : Option Nat) : Option Nat :=
  let byCount : Option Nat := if j.repCount = 0 then none else some j.repCount
  let byNext : Option Nat := nextLam.map (fun l => (back l lam + j.repLines - 1) / max 1 j.repLines)
  match byCount, byNext with
  | some a, some b => some (min a b)
  | some a, none => some a
  | none, b => b

/-- The stretches to come, oldest first. -/
def State.stretches (s : State) : List Stretch :=
  let runs := s.splice.runs.reverse.filter (fun r => !r.finished)
  let a : List (Nat × Nat × Job × Nat × Nat) :=
    runs.map (fun r => (r.lam, r.nextRep, s.job r.job, jobFetch (s.job r.job) r.g r.pitch, r.job))
  let b : List (Nat × Nat × Job × Nat × Nat) := s.splice.armed.filterMap (fun x => x.lam.map (fun l =>
    (l, 0, s.job x.job, jobFetch (s.job x.job) s.geo (s.job x.job).lpi, x.job)))
  let all := a ++ b
  all.zipIdx.map (fun p =>
    let nextLam := (all[p.2 + 1]?).map (fun q => q.1)
    { job := p.1.2.2.1, lam := p.1.1, fetch := p.1.2.2.2.1, next := p.1.2.1, count := repeatsOf p.1.2.2.1 p.1.1 nextLam })

/-- First line of the first repeat of ring `r` that `n` records do not cover; none when every repeat is covered. -/
def uncovered (r n : Nat) (l : List Stretch) : Option Nat :=
  match l with
  | [] => none
  | x :: t =>
    if !x.job.rings.contains r then uncovered r n t else
    let left : Option Nat := x.count.map (fun m => m - x.next)
    match left with
    | some m => if n < m then some (fwd x.lam (x.fetch + (x.next + n) * x.job.repLines)) else uncovered r (n - m) t
    | none => some (fwd x.lam (x.fetch + (x.next + n) * x.job.repLines))

/-- A_r of R106, from the line issued last; none when the records cover every repeat. -/
def State.ringLines (s : State) (r : Nat) : Option Nat :=
  (uncovered r (s.ring r).recs.length s.stretches).map (fun l => (since l s.fb.lastIssue).toNat)

/-- Rings named by an ARMED or PRINTING job. -/
def State.namedRings (s : State) : List Nat := (List.range 16).filter s.ringNamed

/-- The HOPPER contribution (R106). -/
def State.hopperForecast (s : State) : Option Nat :=
  let t := s.par P.motionCeilingStopMs + s.par P.motionCeilingGuardMs
  (s.namedRings.filterMap (fun r => (s.ringLines r).map (fun a => a * 1000 / t))).min?

/-- Time to empty of a ring lies below `low_ms` (R108). -/
def State.ringLow (s : State) (r : Nat) : Bool :=
  match s.ringLines r with
  | some a => s.ringNamed r && decide (a * 1000 < s.par (P.rasterHopperLowMs r) * s.lps)
  | none => false

/-- DAMPER recomputes the forecast (R107, R108). -/
def State.forecast (s : State) : State :=
  let s := { s with motion := { s.motion with hopper := s.hopperForecast } }
  let s := (List.range 16).foldl (fun s r =>
    let x := s.ring r
    let low := s.ringLow r
    if low == x.lowHeld then s else
    let s := s.setRing r { x with lowHeld := low }
    if low then s.hit F.hopperLow 0 idDamper 0 else s) s
  s.refresh

/-- Every 1 ms (R107). -/
def execHopperForecast (dt : Nat) (s : State) : Next := .next (s.pass dt).forecast

/-! ### HOPPER commands (R525) -/

/-- 0x0209 HOPPER setup (R91). -/
def execHopperSetup (dt : Nat) (who : Sess) (s : State) : Next :=
  let s := s.pass dt
  .next (s.runCmd who 0x0209 (fun c =>
    let r := u8 c.pay 0
    let rb := u32 c.pay 4
    let d := u32 c.pay 8
    plain s c 12 (need s (decide (r ≤ 15 ∧ fld c.pay 1 3 = 0 ∧
        (d = 0 ∨ (2 ≤ d ∧ d ≤ 65536 ∧ 64 ≤ rb ∧ rb ≤ 2 ^ 24 ∧ rb % 64 = 0)))) St.badParam (vet s (
      need s (!s.ringNamed r) St.state (
        let free := { s with lib := { s.lib with rings := cut s.lib.rings r } }
        if d = 0 then .done St.ok [] free else
        need s (decide (free.stageUsed + rb * d ≤ s.stageSize)) St.noSpace (
          .done St.ok [] (free.setRing r { recBytes := rb, depth := d }))))))))

/-- Records of PENDING pushes on a ring. -/
def State.pushing (s : State) (r : Nat) : Nat :=
  ((s.host.pends.filter (fun p => p.cmd.op == 0x020A && u8 p.cmd.arg 0 == r)).map (fun p => u32 p.cmd.arg 4)).sum

/-- 0x020A HOPPER push (R92). -/
def execHopperPush (dt : Nat) (who : Sess) (s : State) : Next :=
  let s := s.pass dt
  .next (s.runCmd who 0x020A (fun c => dmaForm s c 16 (fun l a =>
    let r := u8 a 0
    let n := u32 a 4
    let x := s.ring r
    need s (decide (r ≤ 15 ∧ fld a 1 3 = 0 ∧ fld a 8 8 = 0)) St.badParam (vet s (hasQueue s who (
      need s (decide (x.recBytes ≠ 0)) St.state (
        fixedLen s l (n * x.recBytes) (need s (decide (x.fill + s.pushing r + n ≤ x.depth)) St.busy (.pend r s)))))))))

/-- A record as pushed (R92). -/
def parseRec (b : Bytes) : HopRec :=
  { tag := BitVec.ofNat 32 (u32 b 0), len := u32 b 4, crc := BitVec.ofNat 32 (u32 b 8), pay := b.drop 16 }

/-- The records of a push have arrived (R92, R107, R581). -/
def execHopperPushComplete (dt : Nat) (who : Sess) (seq : BitVec 32) (chain : List Bytes) (data : Bytes) (s : State) : Next :=
  let s := s.pass dt
  .next (s.finish who seq [0x020A] (fun p =>
    let r := u8 p.cmd.arg 0
    let n := u32 p.cmd.arg 4
    let x := s.ring r
    match p.dataIn chain data with
    | none => s.complete p St.badParam 0 idHob
    | some b =>
      if b.length ≠ n * x.recBytes then s.complete p St.badParam 0 idHob
      else if x.depth < x.fill + n then s.complete p St.busy 0 idHob
      else
        let y := { x with recs := x.recs ++ (chunks x.recBytes n b).map parseRec }
        ((s.setRing r y).forecast).complete p St.ok y.fill idHob))

/-- 0x020B HOPPER status (R94, R106). -/
def execHopperStatus (dt : Nat) (who : Sess) (s : State) : Next :=
  let s := s.pass dt
  .next (s.runCmd who 0x020B (fun c =>
    let r := u8 c.pay 0
    plain s c 4 (need s (decide (r ≤ 15 ∧ fld c.pay 1 3 = 0)) St.badParam (vet s (
      let x := s.ring r
      let a := if s.ringNamed r then s.ringLines r else none
      let ms := match a with
        | some v => if s.lps = 0 then 0xFFFFFFFF else sat 32 (v * 1000 / s.lps)
        | none => 0xFFFFFFFF
      let b := s.lib.binding
      .done St.ok (leB 4 x.fill ++ leB 4 x.depth ++ leB 4 x.recBytes ++ leB 4 ((a.map (sat 32)).getD 0xFFFFFFFF) ++ leB 4 ms ++
        leB 4 b.rep ++ leB 2 b.job ++ leB 2 0 ++ leB 2 b.mask ++ leB 2 0 ++
        (List.range 16).flatMap (fun k => leB 4 (sel b.tags k 0).toNat)) s)))))

/-! ### SPLICE commands -/

/-- The run printing at the datum: the newest whose splice line the fire position has reached (R96). -/
def State.datumRun (s : State) : Option Run := s.splice.runs.find? (fun r => decide (0 ≤ since s.pos r.lam) || r.done.toNat == 255)

/-- Λend of a run: the end of its last repeat at the datum (R103). -/
def State.runEnd (s : State) (r : Run) : Option Nat :=
  let j := s.job r.job
  if j.repCount = 0 then none else some (fwd r.lam (j.repCount * j.repLines))

/-- The job printing at the datum, with its run (R103): none before a splice line, and none past Λend. -/
def State.atDatum (s : State) : Option Run :=
  match s.datumRun with
  | some r => if r.ranOut then none else
      (match s.runEnd r with
       | some e => if 0 ≤ since s.pos e then none else some r
       | none => some r)
  | none => none

/-- Repeats a run has completed when the datum stands at position `p` (R83): cut at the next splice line and at its own count. -/
def State.runPrinted (s : State) (r : Run) (p : Nat) : Nat :=
  let j := s.job r.job
  let len := max 1 j.repLines
  let d := since p r.lam
  let n := if d < 0 then 0 else d.toNat / len
  let n := if j.repCount = 0 then n else min n j.repCount
  let later := s.splice.runs.takeWhile (fun x => x.lam != r.lam)
  later.foldl (fun n x => min n (back x.lam r.lam / len)) n

/-- repeats_printed of an entry: that of its run while it prints, else of its latest run. -/
def State.printedOf (s : State) (i : Nat) : Nat :=
  match s.splice.runs.find? (fun r => r.job == i && !r.finished) with
  | some r => s.runPrinted r s.pos
  | none => (s.job i).printed

/-- 0x0207 info (R83). -/
def execJobInfo (dt : Nat) (who : Sess) (s : State) : Next :=
  let s := s.pass dt
  .next (s.runCmd who 0x0207 (fun c => indexForm s c (fun i => .done St.ok ({ s.job i with printed := s.printedOf i } : Job).info s)))

/-- Splices ARMED or switching (R97). -/
def State.splicesPending (s : State) : Nat := s.splice.armed.length + (s.splice.runs.filter (fun r => r.done.toNat != 255)).length

/-- The splice line of the splice armed last (R97). -/
def State.prevLam (s : State) : Option Nat :=
  match s.splice.armed.getLast? with
  | some a => a.lam
  | none => s.splice.runs.head?.map Run.lam

/-- First line of repeat N + 1 of the preceding job (R96); none, so BAD_PARAM, when that is a MARK whose splice line is not yet
computed (log 80). -/
def State.repeatLine (s : State) (n : Nat) : Option Nat :=
  match s.splice.armed.getLast? with
  | some a => a.lam.map (fun l => fwd l ((n + 1) * (s.job a.job).repLines))
  | none =>
    match s.splice.runs.head? with
    | some r => if (since s.pos r.lam < 0) ∨ s.atDatum.isSome then some (fwd r.lam ((n + 1) * (s.job r.job).repLines)) else none
    | none => none

/-- Move a position by a signed offset. -/
def shift32 (p : Nat) (off : Int) : Nat := unsigned 32 ((p : Int) + off)

/-- Entry numbers of splices that are ARMED or switching. -/
def State.usedEntries (s : State) : List Nat :=
  s.splice.armed.map Armed.entry ++ (s.splice.runs.filter (fun r => r.done.toNat != 255)).map Run.entry

/-- The plane_map of a job names different planes for the two bars of a pair (R161). -/
def State.twinClash (s : State) (j : Job) : Bool :=
  (List.range 4).any (fun p => s.par (P.rasterTwinMode p) != 0 &&
    (j.planeMap.take j.planes).contains (s.par (P.rasterTwinBarA p)) && (j.planeMap.take j.planes).contains (s.par (P.rasterTwinBarB p)))

/-- An accepted splice stands last among the armed ones and its job is ARMED (R96, R103, R105). -/
def State.placeSplice (s : State) (a : Armed) : State :=
  let s := s.setJob a.job { s.job a.job with state := 5 }
  let s := { s with splice := { s.splice with armed := s.splice.armed ++ [a] } }
  (s.spliceEvent 1 0xFF a.job (a.lam.getD 0xFFFFFFFF) 0).forecast

/-- Arm a splice (R96, R97, R127, R161, R303): the status, or the state with its splice line and entry. Between splice lines of which
one is a MARK not yet computed, no gap is checked (log 81). -/
def State.arm (s : State) (i ref input value : Nat) (off : Int) : Nat ⊕ (State × Nat × Nat) :=
  let j := s.job i
  if !(j.state = 4 ∨ j.state = 7) then .inl St.state
  else if s.otp.lc = 4 then .inl St.denied
  else
    let lam : Option Nat := if ref = 0 then some (shift32 value off) else if ref = 2 then (s.repeatLine value).map (fun l => shift32 l off) else none
    let lead : Int := s.par P.fireSpliceLeadLines
    let demand := demandOf s.geo (j.pre :: s.activeJobs.map (fun p => p.2.pre))
    let tooSoon : Bool := match lam with
      | some l => decide (since l s.pos < lead)
      | none => decide (off < lead)
    let tooClose : Bool := match lam, s.prevLam with
      | some l, some q => decide (since l q < (s.minGap : Int))
      | _, _ => false
    if (ref = 2 ∧ lam.isNone) ∨ tooSoon ∨ tooClose ∨ (ref = 1 ∧ !(sel s.motion.marks input {}).locked) ∨ 3 ≤ s.splicesPending ∨
        (s.limitOf demand < s.pressMax ∧ s.limitOf demand < s.fetchLimit) ∨ s.twinClash j ∨ j.lpi ≠ s.par P.motionFirePitch then .inl St.badParam
    else
      let free := [0, 1, 2].filter (fun e => !s.usedEntries.contains e)
      let entry := (free[Config.value s.free % free.length]?).getD 0
      let a : Armed := { entry := entry, job := i, lam := lam, ref := ref, input := input, left := if ref = 1 then value else 0, off := off }
      .inr (s.fresh.placeSplice a, lam.getD 0xFFFFFFFF, entry)

/-- 0x0301 arm. -/
def execSpliceArm (dt : Nat) (who : Sess) (s : State) : Next :=
  let s := s.pass dt
  .next (s.runCmd who 0x0301 (fun c =>
    let i := u16 c.pay 0
    let ref := u8 c.pay 2
    let input := u8 c.pay 3
    let value := u32 c.pay 4
    let off := signed 32 (u32 c.pay 8)
    plain s c 16 (need s (decide (indexOk i ∧ ref ≤ 2 ∧ input ≤ 3 ∧ (ref = 1 ∨ input = 0) ∧ (ref ≠ 1 ∨ 1 ≤ value) ∧ u32 c.pay 12 = 0)) St.badParam (vet s (
      match s.arm i ref input value off with
      | .inl st => refuse s st
      | .inr (t, lam, entry) => .done St.ok (leB 4 lam ++ leB 1 entry ++ leB 3 0) t)))))

/-- Drop an armed splice: its job returns to STAGED (R98, R311). -/
def State.disarm (s : State) (a : Armed) : State :=
  let s := s.setJob a.job { s.job a.job with state := 4 }
  { s with splice := { s.splice with armed := s.splice.armed.filter (fun x => x.job != a.job) } }

/-- 0x0302 disarm (R98). -/
def execSpliceDisarm (dt : Nat) (who : Sess) (s : State) : Next :=
  let s := s.pass dt
  .next (s.runCmd who 0x0302 (fun c => indexForm s c (fun i =>
    match s.splice.armed.find? (fun a => a.job == i) with
    | none => refuse s St.state
    | some a => .done St.ok [] (s.disarm a).forecast)))

/-- The 16 bytes of a splice event (R105). -/
def SpliceEvent.bytes (e : SpliceEvent) : Bytes :=
  leB 1 e.kind ++ leB 1 e.bar ++ leB 2 e.index ++ leB 4 e.line.toNat ++ leB 4 e.rep.toNat ++ leB 4 e.t32.toNat

/-- The layout of an event read (R527). -/
def eventRead (l : List Bytes) (lost : Nat) : Bytes := leB 1 l.length ++ leB 1 0 ++ leB 2 lost ++ leB 4 0 ++ l.flatten

/-- 0x0303 events (R105, R527). -/
def execSpliceEvents (dt : Nat) (who : Sess) (s : State) : Next :=
  let s := s.pass dt
  .next (s.runCmd who 0x0303 (fun c => plain s c 0 (vet s (
    .done St.ok (eventRead ((s.splice.events.take 14).map SpliceEvent.bytes) s.splice.lost)
      { s with splice := { s.splice with events := s.splice.events.drop 14, lost := 0 } }))))

/-- 0x0304 stop (R103); it answers STATE for a job whose splice line has passed the datum before any bar has begun its switch, so that it is
still ARMED (log 82). -/
def execSpliceStop (dt : Nat) (who : Sess) (s : State) : Next :=
  let s := s.pass dt
  .next (s.runCmd who 0x0304 (fun c => indexForm s c (fun i =>
    let j := s.job i
    match s.atDatum with
    | some r =>
      if r.job ≠ i ∨ j.state ≠ 6 then refuse s St.state else
      let cur := back s.pos r.lam / max 1 j.repLines + 1
      let n := if j.repCount = 0 then cur else min j.repCount cur
      .done St.ok (leB 4 n ++ leB 4 (fwd r.lam (n * j.repLines))) (s.setJob i { j with repCount := n }).forecast
    | none => refuse s St.state)))

end Sys2Proof.Machine
end

