-- ==== Sys2Proof/Machine/Zones.lean ====
section
/-!
DEFINITION. The state of the colour loop that the line boundaries move: zone offsets and their ramps (R382, R384, R387),
colour memory (R393 to R395), loop events (R396) and trim ramps (R391).
-/
namespace Sys2Proof.Machine

/-- Post a loop event (R396): the oldest is lost when the ring of 64 is full. -/
def State.loopEvent (s : State) (kind bar item value line : Nat) : State :=
  let e : LoopEvent := { kind := kind, bar := bar, item := item, value := BitVec.ofNat 32 value, line := BitVec.ofNat 32 line, t32 := s.t32 }
  let full := decide (64 ≤ s.loop.events.length)
  ({ s with loop := { s.loop with
      events := (if full then s.loop.events.drop 1 else s.loop.events) ++ [e]
      lost := if full then sat 16 (s.loop.lost + 1) else s.loop.lost } }).event evLoop

/-! ### Zones -/

/-- A zone by 400 b + z. -/
def State.zone (s : State) (k : Nat) : Zone := sel s.loop.zones k {}

/-- Replace a zone. -/
def State.setZone (s : State) (k : Nat) (x : Zone) : State := { s with loop := { s.loop with zones := put s.loop.zones k x } }

/-- Effective value of a zone at a line (R382). -/
def Zone.eff (x : Zone) (p : Nat) : Int :=
  let span := back x.pEnd x.p0
  let d := since p x.p0
  if span = 0 ∨ (span : Int) ≤ d then x.z
  else if d < 0 then x.orig
  else x.orig + ((x.z - x.orig) * d).tdiv span

/-- A zone's new target begins its ramp at a line (R382, R387). -/
def Zone.start (x : Zone) (p ramp : Nat) : Zone :=
  match x.pendZ with
  | none => x
  | some z => { x with orig := x.eff p, z := z, p0 := p, pEnd := fwd p ramp, ramping := true,
                       acc := if x.pendHost then [] else x.acc, pendZ := none, pendHost := false }

/-- The accepted targets take effect at the boundary of a line. -/
def State.startZones (s : State) (p : Nat) : State :=
  let ramp := s.par P.loopRampLines
  { s with loop := { s.loop with zones := s.loop.zones.map (fun (e : Nat × Zone) => (e.1, e.2.start p ramp)) } }

/-- The effective offsets that are not 0, at a line (R143). -/
def State.zoneView (s : State) (p : Nat) : SMap Int :=
  (s.loop.zones.map (fun (e : Nat × Zone) => (e.1, e.2.eff p))).filter (fun e => e.2 != 0)

/-- The flags of a zone (R385). -/
def Zone.flags (x : Zone) : Nat := b2n x.unmeas + 2 * b2n x.stale + 4 * b2n x.limit + 8 * b2n x.notCov + 16 * b2n x.ramping

/-- A bar's loop. -/
def State.barLoop (s : State) (b : Nat) : BarLoop := sel s.loop.bars b {}

/-- Replace a bar's loop. -/
def State.setBarLoop (s : State) (b : Nat) (x : BarLoop) : State := { s with loop := { s.loop with bars := put s.loop.bars b x } }

/-! ### Targets of a job -/

/-- The entries of a job's TARGETS section (R378). -/
def Job.targets (j : Job) : List Target := (ofType j.secs 5).flatMap (fun x => parseTargets (x.bytes j.image))

/-- Plane positions a shrunk region covers: its first and the one after its last (R116, R378). -/
def Target.span (t : Target) (pre : Bool) : Nat × Nat :=
  let k := if pre then 1 else 2
  (k * (t.x + t.margin), k * (t.x + t.width - t.margin))

/-- Positions of zone z of a bar that a span of plane positions covers. -/
def zoneOverlap (span : Nat × Nat) (origin : Int) (z : Nat) : Nat :=
  let lo : Int := max ((span.1 : Int) + origin) (256 * z : Nat)
  let hi : Int := min ((span.2 : Int) + origin) (256 * z + 256 : Nat)
  (hi - lo).toNat

/-- Zones of a bar that a region has a zone part for (R381). -/
def State.zonesOf (s : State) (j : Job) (b : Nat) (t : Target) : List Nat :=
  (List.range 400).filter (fun z =>
    decide (s.par P.loopZoneMinOverlap ≤ zoneOverlap (t.span j.pre) (s.parLineS 32 (P.rasterBarXOrigin b)) z))

/-- A bar prints the plane of a region (R381). -/
def printsPlane (j : Job) (g : Geo) (b plane : Nat) : Bool := planeFor j g b == some plane

/-- Zones of a bar that some PATCH or WINDOW region of a job reaches (R385). -/
def State.reached (s : State) (j : Job) (g : Geo) (b : Nat) : List Nat :=
  ((j.targets.filter (fun t => t.kind ≤ 2 && printsPlane j g b t.plane)).flatMap (s.zonesOf j b)).eraseDups

/-! ### Colour memory -/

/-- The bar takes the colour memory of a job at its first switch line (R394). -/
def State.loadMemory (s : State) (b : Nat) (r : Run) (line : Nat) : State :=
  let j := s.job r.job
  let has := j.memValid && bit (u8 j.memory 6) b
  let cov := s.reached j r.g b
  let s := (List.range 400).foldl (fun s z =>
    let v := if has then signed 16 (u16 j.memory (16 + 1600 * b + 4 * z)) else 0
    let x := s.zone (400 * b + z)
    s.setZone (400 * b + z) { x with z := v, orig := v, p0 := line, pEnd := line, unmeas := true, notCov := !cov.contains z,
                                     ramping := false, acc := [], count := 0, lastEl := line, pendZ := none, pendHost := false }) s
  s.setBarLoop b { s.barLoop b with job := some r.job }

/-- The 1,600 bytes of a bar's block as it stands (R393). -/
def State.block (s : State) (b : Nat) : Bytes :=
  (List.range 400).flatMap (fun z =>
    let x := s.zone (400 * b + z)
    leB 2 (unsigned 16 x.z) ++ leB 1 (sat 8 x.count) ++ leB 1 x.flags)

/-- Keep a copy of a bar's loop state for the run it leaves (R395). -/
def State.keepCopy (s : State) (b : Nat) (r : Run) : State :=
  let x := s.barLoop b
  s.setBarLoop b { x with kept := put x.kept r.lam (s.block b) }

/-- A colour memory with the kept blocks written into it (R393, R395). -/
def memoryWith (old : Bytes) (blocks : List (Nat × Bytes)) (t32 : Nat) : Bytes :=
  let base := if old.length = 12816 then old else List.replicate 12816 0
  let body := blocks.foldl (fun m p => overlay m (16 + 1600 * p.1) p.2) base
  let bars := blocks.foldl (fun m p => m ||| 2 ^ p.1) (u8 base 6)
  let tail := body.drop 16
  leB 4 0x4D434F4C ++ leB 2 1 ++ leB 1 bars ++ leB 1 0 ++ leB 4 t32 ++ leB 4 (crc32c tail).toNat ++ tail

/-- A job's memory is replaced, when the library has the space (R395): the state, and whether it had. -/
def State.putMemory (s : State) (i : Nat) (m : Bytes) : State × Bool :=
  let j := s.job i
  if j.memValid then (s.setJob i { j with memory := m }, true)
  else if s.libSize < s.libUsed + 12816 then (s, false)
  else (s.setJob i { j with memory := m, memValid := true, stored := j.stored + 12816 }, true)

/-- LOUPE 0 saves the loop state of a finished run (R395). -/
def State.saveMemory (s : State) (r : Run) (line : Nat) : State :=
  let blocks := (List.range 8).filterMap (fun b => (look (s.barLoop b).kept r.lam).map (fun m => (b, m)))
  let s := (List.range 8).foldl (fun s b => s.setBarLoop b { s.barLoop b with kept := cut (s.barLoop b).kept r.lam }) s
  if blocks.isEmpty then s else
  let (s, ok) := s.putMemory r.job (memoryWith (s.job r.job).memory blocks s.t32.toNat)
  if ok then s.loopEvent 6 0xFF r.job 0 line else s.hit F.memorySaveFail r.job idLoupe 0

/-! ### The Ledger and trim ramps -/

/-- A Ledger entry; 0x0000_FF0F elsewhere (R548). -/
def State.entry (s : State) (i : Nat) : BitVec 32 := sel s.ledger.ent i 0x0000FF0F

/-- Store an entry. -/
def State.setEntry (s : State) (i : Nat) (e : BitVec 32) : State :=
  { s with ledger := { s.ledger with ent := if e = 0x0000FF0F then cut s.ledger.ent i else put s.ledger.ent i e } }

/-- Bits that a field mask selects: bit 0 state, 1 trim, 2 class, 3 stitch, 4 substitution, 5 age (R528, R548). -/
def fieldBits (m : BitVec 7) : BitVec 32 :=
  (if m.getLsbD 0 then 0xC0000000 else 0) ||| (if m.getLsbD 1 then 0x3FF00000 else 0) ||| (if m.getLsbD 2 then 0x000F0000 else 0) |||
  (if m.getLsbD 3 then 0x0000FF00 else 0) ||| (if m.getLsbD 4 then 0x000000F0 else 0) ||| (if m.getLsbD 5 then 0x0000000F else 0)

/-- An entry with the selected fields of another. -/
def merge (old new : BitVec 32) (m : BitVec 7) : BitVec 32 := (old &&& ~~~ fieldBits m) ||| (new &&& fieldBits m)

/-- TRIM of an entry (R144). -/
def trimOf (e : BitVec 32) : Int := signed 10 (bits e.toNat 20 10)

/-- An entry with another trim. -/
def withTrim (e : BitVec 32) (t : Int) : BitVec 32 := merge e (BitVec.ofNat 32 (unsigned 10 t * 2 ^ 20)) 2

/-- STATE of an entry: 0 GOOD 1 WEAK 2 OUT 3 MUTED. -/
def stateOf (e : BitVec 32) : Nat := bits e.toNat 30 2

/-- Trim of a ramp at a line: one unit at a time, evenly spaced over the ramp (R391). -/
def NozLoop.trimAt (x : NozLoop) (goal : Int) (p ramp : Nat) : Int :=
  let d := (since p x.p0).toNat
  x.orig + ((goal - x.orig) * (min d ramp : Nat)).tdiv (max 1 ramp)

/-- The trim ramps move at the boundary of a line (R391). -/
def State.moveTrims (s : State) (p : Nat) : State :=
  let ramp := s.par P.loopRampLines
  (s.loop.noz.filter (fun (e : Nat × NozLoop) => e.2.goal.isSome)).foldl (fun s e =>
    match e.2.goal with
    | none => s
    | some g =>
      let t := e.2.trimAt g p ramp
      let s := s.setEntry e.1 (withTrim (s.entry e.1) t)
      if t = g then { s with loop := { s.loop with noz := put s.loop.noz e.1 { e.2 with goal := none } } } else s) s

/-- Apply one accepted Ledger write at its boundary (R550, R551); a host's write also acts on the loop's own work. -/
def State.applyEntry (s : State) (i : Nat) (e : BitVec 32) (m : BitVec 7) : State :=
  let s := s.setEntry i (merge (s.entry i) e m)
  if m.getLsbD 6 then s else
  let x := sel s.loop.noz i {}
  let x := if m.getLsbD 0 then { x with n := 0 } else x
  let x := if m.getLsbD 1 then { x with goal := none } else x
  if m.getLsbD 0 || m.getLsbD 1 then { s with loop := { s.loop with noz := put s.loop.noz i x } } else s

/-- Ledger writes due at a line take effect: their owners' own updates first, then the requests (R20, R138, R550). -/
def State.applyLedger (s : State) (p : Nat) : State :=
  let due := s.ledger.pend.filter (fun e => decide (0 ≤ since p e.1))
  let rest := s.ledger.pend.filter (fun e => !decide (0 ≤ since p e.1))
  let recent := (s.ledger.recent ++ due.map (fun e => (p, e.2))).filter (fun e => decide (since p e.1 < 64))
  let s := { s with ledger := { s.ledger with pend := rest, recent := recent } }
  let own := due.filter (fun e => e.2.2.2.getLsbD 6)
  let host := due.filter (fun e => !e.2.2.2.getLsbD 6)
  (own ++ host).foldl (fun s e => s.applyEntry e.2.1 e.2.2.1 e.2.2.2) s

end Sys2Proof.Machine
end

