-- ==== Sys2Proof/Machine/Frames.lean ====
section
/-!
DEFINITION. The lane that carries a slot's frames (R237, R248, R251, R271, R285), the line frames and the shift of the legacy port (R261 to
R264, R268, R286).
-/
namespace Sys2Proof.Machine

/-- A GRATE. -/
def State.grate (s : State) (b : Nat) : Grate := sel s.grates b {}

/-- Replace a GRATE. -/
def State.setGrate (s : State) (b : Nat) (x : Grate) : State := { s with grates := put s.grates b x }

/-- The lane that carries a primary's slots in a line, when one is ACTIVE: from a return line on the primary itself (R237, R248, R251). -/
def State.carrier (s : State) (l line : Nat) : Option Nat :=
  match (List.range 4).find? (fun k => (s.spare k).serving == some l && (s.lane (32 + k)).state == 6) with
  | some k =>
    let back : Bool := match (s.spare k).ret with | some (r, p) => r == l && decide (0 ≤ since line p) | none => false
    if back then some l else some (32 + k)
  | none => if (s.lane l).state = 6 then some l else none

/-- Two codes a byte, the lower nozzle in bits [3:0] (R262). -/
def packCodes (l : List Nat) : Bytes :=
  match l with
  | a :: b :: t => BitVec.ofNat 8 (a + 16 * b) :: packCodes t
  | [a] => [BitVec.ofNat 8 a]
  | [] => []

/-- A frame carries no data (R264). -/
def noData (d : Desc) (slot : Nat) (codes : List Nat) : Bool := d.noFire || d.mute.contains slot || codes.all (· == 0)

/-- The geometry a bar has switched to (R129). -/
def State.barNow (s : State) (b : Nat) : Geo :=
  match s.splice.runs.find? (fun r => r.begun.getLsbD b) with
  | some r => r.g
  | none => PKey.dflt

/-- The legacy slot that serves a slot of a bar in a geometry, if any (R285). -/
def legacyIn (g : Geo) (slot : Nat) : Option Nat :=
  (List.range 8).find? (fun k => g (P.linkLegacySlotEnable k) == 1 && 20 * g (P.linkLegacySlotBar k) + g (P.linkLegacySlotSlot k) == slot)

/-- The legacy slot that serves a slot now. -/
def State.legacyOf (s : State) (slot : Nat) : Option Nat := legacyIn (s.barNow (slot / 20)) slot

/-- The primary lane whose range holds a slot. -/
def State.primaryFor (s : State) (slot : Nat) : Option Nat :=
  (List.range 4).findSome? (fun i => let l := 4 * (slot / 20) + i; if (s.primarySlots l).contains slot then some l else none)

/-- The lane that carries a slot's frame and fire of a line, when one carries any (R271). -/
def State.laneFor (s : State) (slot line : Nat) : Option Nat :=
  if (s.legacyOf slot).isSome then none else
  match (s.primaryFor slot).bind (fun l => s.carrier l line) with
  | some c =>
    let old : Bool := match (s.lane c).start with | some q => decide (since line q < 0) | none => false
    if (s.lane c).carry && !old then some c else none
  | none => none

/-- First slot position of the lane's range for a slot (R243, R273). -/
def State.slotPos (s : State) (slot : Nat) : Nat :=
  match s.primaryFor slot with
  | some l => slot % 20 - s.firstSlot l
  | none => 0

/-- Bits shifted for one legacy row: nozzles 4i + row from i = 1,279 down, bit [3] of each code before bit [2] (R286). -/
def legacyRow (codes : List Nat) (row : Nat) : List Bool :=
  (List.range 1280).flatMap (fun i =>
    let c := (codes[4 * (1279 - i) + row]?).getD 0
    [bit c 3, bit c 2])

/-- Bits packed eight a byte, the first shifted in bit 0 (the model's own form, log 10). -/
def packBits (l : List Bool) : Bytes :=
  (List.range ((l.length + 7) / 8)).map (fun i =>
    BitVec.ofNat 8 (((l.drop (8 * i)).take 8).zipIdx.foldl (fun a e => a + b2n e.1 * 2 ^ e.2) 0))

/-- Send a slot's frame of a line on its lane, or shift it on the legacy port (R261, R264, R268, R286). -/
def State.sendFrame (s : State) (d : Desc) (slot : Nat) (codes : List Nat) : State :=
  let empty := noData d slot codes
  match s.legacyOf slot with
  | some _ =>
    let l := if empty then List.replicate 5120 0 else codes
    let ready := s.fire.shift.filter (fun e => e.1 != d.line && decide (since d.line e.1 < 64))
    let s := { s with fire := { s.fire with shift := if d.noFire then ready else ready ++ [(d.line, s.clk.tclk)] } }
    s.emit (.legacy d.line slot ((List.range 4).flatMap (fun row => packBits (legacyRow l row))))
  | none =>
    match s.laneFor slot d.line with
    | none => s
    | some c =>
      let resync := s.fb.resync.contains slot
      let s := { s with fb := { s.fb with resync := s.fb.resync.filter (· != slot) } }
      s.emit (.frame c slot d.line (lineFrame (s.slotPos slot) d.line (b2n empty + 2 * b2n resync) (if empty then [] else packCodes codes)))

/-- Lines packed for a bar whose target lies ahead, oldest first, with the codes of slots whose frames have not left whole: of the line packed last
every slot, whose frame the loss of a lane may have cut (R246, log 96). -/
def State.packed (s : State) (b : Nat) : List (Nat × SMap (List Nat)) :=
  let g := s.grate b
  (g.staged.filter (fun e => e.1 != g.codeLine) ++ [(g.codeLine, (List.range 20).map (fun sl => (sl, sel g.codes sl [])))]).filter
    (fun e => s.fire.descs.any (fun d => d.line == e.1))

/-- A slot's frame of a line goes out, when it is among the codes (R246). -/
def State.resendSlot (line : Nat) (codes : SMap (List Nat)) (s : State) (i : Nat) : State :=
  match s.fire.descs.find? (fun d => d.line == line), look codes (i % 20) with
  | some d, some c => s.sendFrame d i c
  | _, _ => s

/-- The frames of a lane's slots that have not left whole go out on the lane that is back, or on the spare (R246, R291). -/
def State.resend (s : State) (l : Nat) : State :=
  let slots := s.primarySlots l
  let b := l / 4
  let s := (s.packed b).foldl (fun (s : State) e => slots.foldl (State.resendSlot e.1 e.2) s) s
  let g := s.grate b
  s.setGrate b { g with staged := g.staged.map (fun e => (e.1, e.2.filter (fun x => !slots.contains (20 * b + x.1)))) }

/-- After a line has been packed for a bar: the codes of the slots that no lane carries wait (R246); lines that have fired are forgotten. -/
def State.stageMissed (s : State) (b : Nat) : State :=
  let g := s.grate b
  let miss := ((List.range 20).filter (fun sl => (s.primaryFor (20 * b + sl)).isSome && (s.laneFor (20 * b + sl) g.codeLine).isNone)).map (fun sl => (sl, sel g.codes sl []))
  s.setGrate b { g with staged := g.staged.filter (fun e => s.fire.descs.any (fun d => d.line == e.1)) ++ [(g.codeLine, miss)] }

end Sys2Proof.Machine
end

