-- ==== Sys2Proof/Machine/Lines.lean ====
section
/-!
DEFINITION. The line boundary (R169): the comparison of the two descriptors (R210, R211), splices and their switches
(R98 to R103), repeats (R94, R95), the EASEL windows (R120 to R124), the descriptor (R184, R185) and the state record
(R206, R208); the GRATE banks (R141, R165).
-/
namespace Sys2Proof.Machine

/-! ### EASEL windows -/

/-- Job lines a run prints at most: none without a count (R103). -/
def Job.lineLimit (j : Job) : Option Nat := if j.repCount = 0 then none else some (j.repCount * j.repLines)

/-- The run whose raster a fetch pointer takes at a line (R99, R120). -/
def State.ptrRun (s : State) (b sl rg p : Nat) : Option Run :=
  s.splice.runs.find? (fun r => decide (0 ≤ since p (fwd r.lam (gPtr r.g b sl rg r.pitch))))

/-- Window of a pointer: that of an unsplit slot, or of a row group of a split one. -/
def winKey (slot rg : Nat) (split : Bool) : Nat := 3 * slot + if split then 1 + rg else 0

/-- A run splits a slot. -/
def Run.splits (r : Run) (b sl : Nat) : Bool := gSplit r.g b sl

/-- The window a row group's newest pointer writes at a line. -/
def State.newKey (s : State) (slot rg p : Nat) : Nat :=
  winKey slot rg (match s.ptrRun (slot / 20) (slot % 20) rg p with | some r => r.splits (slot / 20) (slot % 20) | none => false)

/-- The pointer's row groups have switched to a run at a line (R99, R129). -/
def Run.switched (r : Run) (b sl rg : Nat) (split : Bool) (p : Nat) : Bool :=
  (if split then [rg] else [0, 1]).all (fun g => decide (0 ≤ since p (fwd r.lam (gGroup r.g b sl g r.pitch))))

/-- The run of the split or unsplit pointers of a slot at a line: a pointer of the old job goes on until each of its row groups has switched to a
job that splits the slot otherwise (R129). -/
def State.kindRun (s : State) (b sl rg : Nat) (split : Bool) (p : Nat) : Option Run :=
  match s.splice.runs.find? (fun r => r.splits b sl == split && decide (0 ≤ since p (fwd r.lam (gPtr r.g b sl rg r.pitch)))) with
  | some r =>
    if (s.splice.runs.takeWhile (fun x => x.lam != r.lam)).any (fun x => x.splits b sl != split && x.switched b sl rg split p) then none else some r
  | none => none

/-- The bytes of plane line `y` of a staged plane (R81, R89). -/
def Job.row (j : Job) (plane y : Nat) : Bytes :=
  let band := sel j.staged (bandKey plane (y / j.bandLines)) []
  (band.drop (y % j.bandLines * j.stride)).take j.stride

/-- A pixel of a row of bytes (R81). -/
def rowPixel (pre : Bool) (row : Bytes) (p : Nat) : Nat :=
  if pre then bits (((row[p / 4]?).getD 0).toNat) (2 * (p % 4)) 2 else ((row[p]?).getD 0).toNat

/-- The record bound to a repeat on a ring (R94). -/
def State.boundRec (s : State) (r : Run) (rep ring : Nat) : Option HopRec :=
  ((s.ring ring).bound.find? (fun x => x.job == r.job && x.lam == r.lam && x.rep == rep)).map Bound.saved

/-- The pixel that a window puts in place of the job's, if any (R93). -/
def windowPixel (j : Job) (rec : Option HopRec) (w : Window) (y p : Nat) (old : Nat) : Nat :=
  if w.y ≤ y ∧ y < w.y + w.height ∧ w.x ≤ p ∧ p < w.x + w.width then
    match rec with
    | none => old
    | some x =>
      let row := (x.pay.drop (w.off + (y - w.y) * w.stride)).take w.stride
      let v := rowPixel j.pre row (p - w.x)
      if w.keyed ∧ v = 0 then old else v
  else old

/-- Windows of a plane in rising number, so that the higher number prints (R93). -/
def Job.windowsUp (j : Job) (plane : Nat) : List Window :=
  (List.range 64).flatMap (fun n => (j.windows plane).filter (fun w => w.num == n))

/-- The composed pixel of a plane line; 0 outside the plane (R93, R116). -/
def State.pixelAt (s : State) (j : Job) (r : Run) (plane rep y : Nat) (row : Bytes) (p : Int) : Nat :=
  if p < 0 ∨ (j.width : Int) ≤ p then 0
  else
    let q := p.toNat
    (j.windowsUp plane).foldl (fun v w => windowPixel j (s.boundRec r rep w.ring) w y q v) (rowPixel j.pre row q)

/-- Plane pixels of a window line, in window order (R122, R582). -/
def windowPixels (g : Geo) (pre : Bool) (b sl rg : Nat) (origin : Int) : List Int :=
  let q0 : Int := (g (P.rasterBarSlotX0 (20 * b + sl)) : Int) - origin
  if gSplit g b sl then
    (List.range 1280).flatMap (fun i =>
      let a : Int := (gX g b sl (4 * i + 2 * rg) : Int) - origin
      let c : Int := (gX g b sl (4 * i + 2 * rg + 1) : Int) - origin
      if pre then [a, c] else [min a c / 2])
  else if pre then (List.range 5120).map (fun i => q0 + (i : Nat))
  else (List.range 2560).map (fun i => q0 / 2 + (i : Nat))

/-- A plane of a job that holds windows (R94). -/
def Job.hasWindows (j : Job) (plane : Nat) : Bool := !(j.windows plane).isEmpty

/-- The window line a pointer brings for line `p` (R120, R122, R124, R130); odd contone lines read the line before again (R126), or fetch nothing
when it was not fetched. -/
def State.winLine (s : State) (b sl rg : Nat) (split : Bool) (p : Nat) (prev : Option WinLine) : WinLine :=
  let blank : WinLine := { line := p }
  match s.kindRun b sl rg split p with
  | none => blank
  | some r =>
    let j := s.job r.job
    let k := back p (fwd r.lam (gPtr r.g b sl rg r.pitch))
    let past : Bool := match j.lineLimit with | some n => decide (n ≤ k) | none => false
    match planeFor j r.g b with
    | none => blank
    | some plane =>
      let rep := k / max 1 j.repLines
      if r.finished ∨ past ∨ !(gSlots r.g b).contains sl ∨ (s.lib.starved.contains (r.lam, rep) ∧ j.hasWindows plane) then blank else
      let fresh : Unit → WinLine := fun _ =>
        let inRep := k % max 1 j.repLines
        let y := if j.pre then inRep else inRep / 2
        let origin := s.parLineS 32 (P.rasterBarXOrigin b)
        let row := j.row plane y
        { line := p, tag := some r.job, lam := r.lam, rep := rep, k := k,
          base := (r.g (P.rasterBarSlotX0 (20 * b + sl)) : Int) - origin,
          pix := (windowPixels r.g j.pre b sl rg origin).map (s.pixelAt j r plane rep y row) }
      match prev with
      | some w =>
        if j.pre ∨ k % 2 = 0 then fresh ()
        else if w.tag = some r.job ∧ w.lam = r.lam ∧ w.k + 1 = k then { w with line := p, k := k } else blank
      | none => if j.pre ∨ k % 2 = 0 then fresh () else blank

/-- Slots that some splice's geometry enables on a bar. -/
def State.anySlots (s : State) (b : Nat) : List Nat :=
  (List.range 20).filter (fun sl => s.splice.runs.any (fun r => (gSlots r.g b).contains sl))

/-- Pointers of a slot that write at a line, as (row group, split): the unsplit one writes blank lines where no run has begun. -/
def State.ptrGroups (s : State) (b sl p : Nat) : List (Nat × Bool) :=
  [(0, false)] ++ [(0, true), (1, true)].filter (fun e => (s.kindRun b sl e.1 true p).isSome)

/-- Window lines kept for a pointer: the delays 0 to 128 of the lines in flight (R121, R123). -/
def windowDepth : Nat := 146

/-- Every pointer writes its window line of line `p`; blank when the fetch engine met a bad descriptor (R124, R186). -/
def State.fetchLine (s : State) (p : Nat) (bad : Bool) : State :=
  let ptrs := (List.range 8).flatMap (fun b => (s.anySlots b).flatMap (fun sl => (s.ptrGroups b sl p).map (fun e => (b, sl, e))))
  let win := ptrs.foldl (fun m x =>
    let key := winKey (20 * x.1 + x.2.1) x.2.2.1 x.2.2.2
    let old := sel m key []
    let w := if bad then { line := p } else s.winLine x.1 x.2.1 x.2.2.1 x.2.2.2 p old.head?
    put m key ((w :: old).take windowDepth)) s.raster.win
  { s with raster := { s.raster with win := win } }

/-! ### Repeats (R94, R95) -/

/-- A record passes its length and crc check (R92, R94). -/
def HopRec.good (x : HopRec) (recBytes : Nat) : Bool :=
  decide (x.len ≤ recBytes - 16) && crc32c (x.pay.take x.len) == x.crc

/-- Records that fail at the head of a ring are discarded (R94). -/
def State.dropBad (s : State) (r : Nat) : State :=
  let x := s.ring r
  let n := (x.recs.takeWhile (fun y => !y.good x.recBytes)).length
  let s := s.setRing r { x with recs := x.recs.drop n }
  (List.range n).foldl (fun s _ => s.fault F.hopperRecordBad 0) s

/-- Planes of a job that hold windows, with the bars that print them. -/
def windowBars (j : Job) (g : Geo) : List Nat :=
  (List.range 8).filter (fun b => match planeFor j g b with | some p => j.hasWindows p | none => false)

/-- Change the run of a splice line. -/
def State.updRun (s : State) (lam : Nat) (f : Run → Run) : State :=
  { s with splice := { s.splice with runs := s.splice.runs.map (fun r => if r.lam = lam then f r else r) } }

/-- One repeat binds one good record from every named ring, or is starved (R94). -/
def State.bindRepeat (s : State) (r : Run) (n : Nat) : State :=
  let j := s.job r.job
  let rings := j.rings
  let line := fwd r.lam (jobFetch j r.g r.pitch + n * j.repLines)
  let s := rings.foldl State.dropBad s
  let s := s.updRun r.lam (fun x => { x with nextRep := n + 1 })
  if rings.all (fun k => !(s.ring k).recs.isEmpty) then
    let heads := rings.map (fun k => (k, (s.ring k).recs.headD {}))
    let s : State := heads.foldl (fun (s : State) (e : Nat × HopRec) =>
      let x := s.ring e.1
      s.setRing e.1 { x with recs := x.recs.drop 1, bound := x.bound ++ [{ job := r.job, lam := r.lam, rep := n, saved := e.2 }] }) s
    let tags : SMap (BitVec 32) := heads.foldl (fun m (e : Nat × HopRec) => put m e.1 e.2.tag) []
    let s := { s with lib := { s.lib with binding := { job := r.job, rep := n, mask := maskOf rings, tags := tags } } }
    if s.par P.rasterHopperReportBound = 1 then s.spliceEvent 7 0xFF r.job line (sel tags 0 0).toNat else s
  else
    let s := { s with lib := { s.lib with starved := s.lib.starved ++ [(r.lam, n)] } }
    let s := s.fault F.hopperStarved n
    -- an event for each bar whose windows it leaves unprinted (log 83)
    let s : State := (windowBars j r.g).foldl (fun (s : State) b => s.spliceEvent 8 b r.job line n) s
    (windowBars j r.g).foldl (fun s b =>
      s.defect { kind := 3, bar := b, index := r.job, rep := n, line := fwd r.lam (((gFetch r.g b r.pitch).getD 0) + n * j.repLines), count := j.repLines }) s

/-- A repeat lies before the job's end and before the next splice line (R103). -/
def State.repeatPrints (s : State) (r : Run) (n : Nat) : Bool :=
  let j := s.job r.job
  let first := fwd r.lam (n * j.repLines)
  (j.repCount == 0 || decide (n < j.repCount)) &&
  (s.splice.runs.takeWhile (fun x => x.lam != r.lam)).all (fun x => decide (since first x.lam < 0))

/-- Repeats whose first line the first fetch has reached at line `p` (R94). -/
def State.bindRepeats (s : State) (p : Nat) : State :=
  s.splice.runs.reverse.foldl (fun s r =>
    let j := s.job r.job
    let d := since p (fwd r.lam (jobFetch j r.g r.pitch))
    if r.finished ∨ j.rings.isEmpty ∨ d < 0 then s else
    ((List.range (d.toNat / max 1 j.repLines + 1)).filter (fun n => decide (r.nextRep ≤ n))).foldl (fun s n =>
      if s.repeatPrints r n then s.bindRepeat r n else s) s) s

/-- Offset from a repeat's first line at which the last bar has fetched the last line of its windows on a ring (R95). -/
def releaseOffset (j : Job) (g : Geo) (pitch ring : Nat) : Nat :=
  ((List.range 8).flatMap (fun b =>
    match planeFor j g b with
    | none => []
    | some p => ((j.windows p).filter (fun w => w.ring == ring)).map (fun w =>
        gFetchLast g b pitch + (if j.pre then w.y + w.height - 1 else 2 * (w.y + w.height - 1))))).foldl max 0

/-- A bound record may be released at line `p`. -/
def State.releasable (s : State) (ring p : Nat) (x : Bound) : Bool :=
  match s.splice.runs.find? (fun r => r.lam == x.lam && r.job == x.job) with
  | none => true
  | some r =>
    let j := s.job r.job
    r.finished || decide (0 ≤ since p (fwd r.lam (x.rep * j.repLines + releaseOffset j r.g r.pitch ring)))

/-- Release the records whose windows every bar has fetched (R95). -/
def State.releaseRepeats (s : State) (p : Nat) : State :=
  let rings := s.lib.rings.map (fun (e : Nat × Ring) => (e.1, { e.2 with bound := e.2.bound.filter (fun x => !s.releasable e.1 p x) }))
  let live := (s.splice.runs.filter (fun r => !r.finished)).map Run.lam
  { s with lib := { s.lib with rings := rings, starved := s.lib.starved.filter (fun e => live.contains e.1) } }

/-! ### GRATE banks (R98, R100, R141) -/

/-- A bank of a GRATE. -/
def Grate.bank (g : Grate) (k : Nat) : Bank := if k = 0 then g.bank0 else g.bank1

/-- Replace a bank. -/
def Grate.setBank (g : Grate) (k : Nat) (x : Bank) : Grate := if k = 0 then { g with bank0 := x } else { g with bank1 := x }

/-- The bank holds the tables of a job whose pixels the bar prints or may still print (R141). -/
def State.bankUsed (s : State) (b tag : Nat) : Bool :=
  let on := s.splice.runs.takeWhile (fun r => !r.done.getLsbD b)
  let old := (s.splice.runs.drop on.length).take 1
  (on ++ old).any (fun r => r.job == tag && !r.finished)

/-- The GRATE core does its own work: it answers and is not in reset (R166). -/
def State.coreRuns (s : State) (b : Nat) : Bool := !(s.grate b).stopped && !s.inReset (8 + b)

/-- GRATE b does not answer requests: it is held in reset, or its core has stopped (R166, R465). -/
def State.deaf (s : State) (b : Nat) : Bool := s.faults.heldR.contains (8 + b) || (s.grate b).stopped

/-- The load of a job's tables into a bank begins, or waits for the core (R166); a pre-screened job brings its tag only (R141). -/
def State.beginLoad (s : State) (b k job : Nat) : State :=
  let g := s.grate b
  let w := g.want.filter (· != job)
  if s.coreRuns b then s.setGrate b { g.setBank k { tag := job, loaded := (s.job job).pre } with want := w }
  else s.setGrate b { g with want := w ++ [job] }

/-- At the commit a GRATE loads the bank that is not in use, or waits for the older job's (R98, R141). -/
def State.commitBank (s : State) (b job : Nat) : State :=
  let g := s.grate b
  match s.bankUsed b g.bank0.tag, s.bankUsed b g.bank1.tag with
  | true, true => s.setGrate b { g with want := g.want.filter (· != job) ++ [job] }
  | true, false => s.beginLoad b 1 job
  | false, true => s.beginLoad b 0 job
  | false, false =>
    -- a bank that still carries the tag is loaded anew, so that its old tables stand nowhere
    if g.bank0.tag = job then s.beginLoad b 0 job else if g.bank1.tag = job then s.beginLoad b 1 job
    else s.fresh.beginLoad b (Config.value s.free % 2) job

/-- A loaded bank holds a job's tables on a bar. -/
def Grate.ready (g : Grate) (job : Nat) : Bool := (g.bank0.tag == job && g.bank0.loaded) || (g.bank1.tag == job && g.bank1.loaded)

/-- The tables of a job for a bar: tone curve and the cells of its matrix (R139, R140). -/
def tables (j : Job) (plane : Nat) : List Nat × Bytes :=
  let tone := ((ofType j.secs 2).filter (fun x => x.plane == plane)).flatMap (fun x => (List.range 256).map (fun i => u16 (x.bytes j.image) (2 * i)))
  let cells := (ofType j.secs 3).flatMap (fun x =>
    let b := x.bytes j.image
    slice b (16 + 524288 * u8 b (1 + plane)) 524288)
  (tone, cells)

/-- Banks of a GRATE whose load has begun and not completed. -/
def Grate.loading (g : Grate) : List Nat := [0, 1].filter (fun k => (g.bank k).tag != 0xFFFF && !(g.bank k).loaded)

/-- Fill a bank from the staged sections of its job. -/
def State.fillBank (s : State) (b k : Nat) : State :=
  let x := (s.grate b).bank k
  let g : Geo := match s.splice.runs.find? (fun r => r.job == x.tag) with | some r => r.g | none => s.geo
  let j := s.job x.tag
  match planeFor j g b with
  | none => s.setGrate b ((s.grate b).setBank k { x with loaded := true })
  | some p => s.setGrate b ((s.grate b).setBank k { x with loaded := true, tone := (tables j p).1, cells := (tables j p).2, badTone := [], badCell := [] })

/-- A bank load completes (R98, R141). -/
def execBankLoadDone (dt : Nat) (bar : Fin 8) (s : State) : Next :=
  let s := s.pass dt
  if !s.coreRuns bar.val then .next s else
  let s := (s.grate bar.val).loading.foldl (fun s k => s.fillBank bar.val k) s
  .next (s.setGrate bar.val { s.grate bar.val with bankLate := false })

/-- A damaged bank has been reloaded from the staged sections (R165). -/
def execBankReloadDone (dt : Nat) (bar : Fin 8) (s : State) : Next :=
  let s := s.pass dt
  if !s.coreRuns bar.val then .next s else
  .next (([0, 1].filter (fun k => let x := (s.grate bar.val).bank k
      x.loaded && (!x.badTone.isEmpty || !x.badCell.isEmpty))).foldl (fun s k => s.fillBank bar.val k) s)

/-! ### Splices at a line (R98 to R103) -/

/-- The values of class SPLICE as accepted: what a commit fixes (R129, R160). -/
def State.spliceValues (s : State) : SMap Nat := s.params.acc.filter (fun e => ((pRow? e.1).map PRow.cls) == some .splice)

/-- Commit an armed splice (R98). -/
def State.commitSplice (s : State) (a : Armed) (lam : Nat) : State :=
  let r : Run := { entry := a.entry, job := a.job, lam := lam, mark := if a.ref = 1 then some a.input else none,
                   geo := s.spliceValues, pitch := (s.job a.job).lpi }
  let bars := (List.range 8).filter (fun b => (planeFor (s.job a.job) r.g b).isSome)
  let s := bars.foldl (fun s b => s.commitBank b a.job) s
  let s := { s with splice := { s.splice with armed := s.splice.armed.filter (fun x => x.job != a.job), runs := r :: s.splice.runs } }
  let s := s.keepGap
  (s.spliceEvent 2 0xFF a.job (back lam 512) 0).forecast

/-- Splices whose commit line has come. -/
def State.commits (s : State) (p : Nat) : State :=
  s.splice.armed.foldl (fun s a =>
    match a.lam with
    | some l => if 0 ≤ since p (back l 512) then s.commitSplice a l else s
    | none => s) s

/-- The run before a run. -/
def State.prevRun (s : State) (lam : Nat) : Option Run := ((s.splice.runs.dropWhile (fun r => r.lam != lam)).drop 1).head?

/-- A bar is in service at a splice: it has an enabled slot in the old or the new geometry (R99, R102). -/
def State.inService (s : State) (r : Run) (b : Nat) : Bool :=
  !(gSlots r.g b).isEmpty || (match s.prevRun r.lam with | some q => !(gSlots q.g b).isEmpty | none => false)

/-- Set or clear a bar's bit. -/
def setBar (m : BitVec 8) (b : Nat) (v : Bool) : BitVec 8 := if v then m ||| BitVec.ofNat 8 (2 ^ b) else m &&& ~~~ BitVec.ofNat 8 (2 ^ b)

/-- A bar prints a job from now on, or no longer (R83). -/
def State.barOn (s : State) (job b : Nat) (v : Bool) : State :=
  let j := s.job job
  if j.state = 0 then s else s.setJob job { j with barsOn := setBar j.barsOn b v }

/-- A run is over: its job becomes DONE and its colour memory is saved (R102, R103, R395). -/
def State.finishRun (s : State) (r : Run) (line : Nat) : State :=
  if r.finished then s else
  let n := s.runPrinted r line
  let s := s.updRun r.lam (fun x => { x with finished := true, gone := line })
  let s := s.setJob r.job { s.job r.job with state := 7, printed := n, barsOn := 0 }
  ((s.spliceEvent 6 0xFF r.job line 0).saveMemory r line).forecast

/-- A slot leaves the `slot_mask` in force: the rows of R195 apply to it no longer, so their conditions end. -/
def State.dropLimits (s : State) (i : Nat) : State :=
  ((s.setHead i { s.head i with soft := false, hot := false, hard := false, stale := false }).lower F.headTempHard i).lower F.headTempStale i

/-- A bar's switch to a run begins (R99, R101, R394, R395; R100 when its bank is late). -/
def State.beginSwitch (s : State) (r : Run) (b line : Nat) : State :=
  let before := s.enabledSlots b
  let s := match s.prevRun r.lam with
    | some q => if q.finished ∨ q.left.getLsbD b ∨ !q.begun.getLsbD b then s
        else (s.keepCopy b q).updRun q.lam (fun x => { x with left := setBar x.left b true })
    | none => s
  let s := s.updRun r.lam (fun x => { x with begun := setBar x.begun b true })
  let new := (gSlots r.g b).filter (fun sl => !before.contains sl)
  let s := new.foldl (fun s sl => s.setHead (20 * b + sl) { s.head (20 * b + sl) with tempAt := s.now }) s
  let gone := before.filter (fun sl => !(gSlots r.g b).contains sl)
  let s := if gone.isEmpty then s else (gone.foldl (fun s sl => s.dropLimits (20 * b + sl)) s).refresh
  let s := (s.spliceEvent 3 b r.job line 0).loadMemory b r line
  if (planeFor (s.job r.job) r.g b).isSome ∧ gSlots r.g b ≠ [] then
    let s := s.barOn r.job b true
    if (s.grate b).ready r.job then s
    else (s.setGrate b { s.grate b with bankLate := true }).fault F.spliceBankLate 0
  else s

/-- A bar's switch is complete: the older job leaves the bar, and a load that waited for its bank begins (R98, R99, R141). -/
def State.endSwitch (s : State) (r : Run) (b line : Nat) : State :=
  let s := s.updRun r.lam (fun x => { x with done := setBar x.done b true })
  let s := match s.prevRun r.lam with
    | some q => if q.job = r.job then s else s.barOn q.job b false
    | none => s
  let s := s.spliceEvent 4 b r.job line 0
  let g := s.grate b
  match g.want.head?, s.prevRun r.lam with
  | some j, some q => if g.bank0.tag = q.job then s.beginLoad b 0 j else s.beginLoad b 1 j
  | some j, none => s.beginLoad b 0 j
  | none, _ => s

/-- A bar reaches its switch lines to a run (R99); a bar that is not in service passes silently at the splice line. -/
def State.barSwitch (s : State) (r : Run) (p b : Nat) : State :=
  if !s.inService r b then
    if 0 ≤ since p r.lam then s.updRun r.lam (fun x => { x with begun := setBar x.begun b true, done := setBar x.done b true }) else s
  else
    let a := fwd r.lam (gFirst r.g b r.pitch)
    let z := fwd r.lam (gLast r.g b r.pitch)
    let s := if !r.begun.getLsbD b ∧ 0 ≤ since p a then s.beginSwitch r b a else s
    if !r.done.getLsbD b ∧ 0 ≤ since p z then s.endSwitch r b z else s

/-- A job enters PRINTING at the first switch line of the lowest-numbered bar in service, or at the splice line (R102). -/
def State.startPrinting (s : State) (r : Run) (p : Nat) : State :=
  let line := match (List.range 8).find? (s.inService r) with
    | some b => fwd r.lam (gFirst r.g b r.pitch)
    | none => r.lam
  if r.printing ∨ since p line < 0 then s else
  let s := s.updRun r.lam (fun x => { x with printing := true })
  ((s.setJob r.job { s.job r.job with state := 6 }).spliceEvent 5 0xFF r.job line 0).forecast

/-- A run reaches its own end (R103, R395): it runs out at the datum, its bars run out after it, and then it is over. -/
def State.runOut (s : State) (r : Run) (p : Nat) : State :=
  match s.runEnd r with
  | none => s
  | some e =>
    let cut := (s.splice.runs.takeWhile (fun x => x.lam != r.lam)).any (fun x => decide (since x.lam e ≤ 0))
    if r.finished ∨ cut ∨ since p e < 0 then s else
    let s := if r.ranOut then s else
      let s := s.updRun r.lam (fun x => { x with ranOut := true, ended := some e })
      ((s.fault F.jobRanOut e).spliceEvent 9 0xFF r.job e 0).forecast
    let bars := (List.range 8).filter (s.inService r)
    let s : State := bars.foldl (fun (s : State) b =>
      let r : Run := (s.splice.runs.find? (fun x => x.lam == r.lam)).getD r
      let s := if 0 ≤ since p (fwd e (gBar r.g b r.pitch)) ∧ !r.left.getLsbD b ∧ r.begun.getLsbD b then
          (s.keepCopy b r).updRun r.lam (fun x => { x with left := setBar x.left b true }) else s
      if 0 ≤ since p (fwd e (gLast r.g b r.pitch)) then s.barOn r.job b false else s) s
    let last := bars.foldl (fun m b => max m (gLast r.g b r.pitch)) 0
    if 0 ≤ since p (fwd e last) then s.finishRun r (fwd e last) else s

/-- The run before a run whose switch is complete on every bar is over (R102). -/
def State.retireRuns (s : State) (r : Run) (p : Nat) : State :=
  if r.done.toNat ≠ 255 then s else
  match s.prevRun r.lam with
  | some q => s.finishRun q p
  | none => s

/-- Runs that no row prints any longer are forgotten, once no line in flight reads them (R120). -/
def State.pruneRuns (s : State) (p : Nat) : State :=
  let keep := s.splice.runs.takeWhile (fun r => r.done.toNat != 255)
  let rest := s.splice.runs.drop keep.length
  { s with splice := { s.splice with runs := keep ++ rest.take 1 ++ (rest.drop 1).filter (fun r => !r.finished || decide (since p r.gone < 64)) } }

/-- The present record of a run. -/
def State.runAt (s : State) (lam : Nat) : Run := (s.splice.runs.find? (fun r => r.lam == lam)).getD {}

/-- Everything splices do at line `p`, the oldest run first. -/
def State.spliceLine (s : State) (p : Nat) : State :=
  let s := s.commits p
  let s := (s.splice.runs.map Run.lam).reverse.foldl (fun s l =>
    let s := s.startPrinting (s.runAt l) p
    let s := s.runOut (s.runAt l) p
    let s := (List.range 8).foldl (fun s b => s.barSwitch (s.runAt l) p b) s
    s.retireRuns (s.runAt l) p) s
  s.pruneRuns p

/-! ### The comparison of the descriptors (R210 to R212, R222) -/

/-- What the arbitration of a mismatch finds. -/
inductive Verdict where
  | standbyWrong | activeWrong | mismatch | position
deriving DecidableEq, Repr

/-- Address of a checkpoint: `k` below 2 of unit A, else of unit B (R434). -/
def checkpointAddr (k : Nat) : Nat := 0x8000 + 512 * k

/-- A scratchpad error that a unit meets reading a checkpoint (R436). -/
def State.checkpointEcc (s : State) (e : Nat × Bool) : State :=
  let m := idFirebox + e.1 / 2
  if e.2 then s.hit F.scratchEcc (checkpointAddr e.1) m 1
  else { s with chip := { s.chip with corr := sat 32 (s.chip.corr + 1) } }.hit F.scratchEccCorr 0 m 1

/-- A unit has a checkpoint left to derive a line from again (R208, R436): a record whose descriptor passed the comparison. -/
def State.hasCheckpoint (s : State) (u : Nat) (ecc : List (Nat × Bool)) : Bool :=
  let l := if u = 0 then s.fb.ckA else s.fb.ckB
  l.zipIdx.any (fun e => e.1.passed && !ecc.contains (2 * u + e.2, true))

/-- The verdict of R211. -/
def verdict (a b again a2 b2 : Bool) : Verdict :=
  if a && !b then .standbyWrong
  else if !a && b then .activeWrong
  else if a && b then (if again then .mismatch else .standbyWrong)
  else if a2 && !b2 then .standbyWrong
  else if !a2 && b2 then .activeWrong
  else .position

/-- A resynchronisation ends without success (R222). -/
def State.resyncFails (s : State) : State :=
  let s := { s with fb := { s.fb.setSt s.fb.standby 4 with retryAt := fwd s.fb.lastIssue (s.par P.fireFbResyncRetryLines), clean := 0 } }
  s.fault F.fbResyncFail 0

/-- The standby is declared faulty by a source (R211, R215). -/
def State.standbyFaulty (s : State) (n : Nat) : State := (s.fbFaulty s.fb.standby n).fault n 0

/-- Arbitrate a mismatch: the state, and whether a descriptor is issued (R211, R222). -/
def State.arbitrate (s : State) (a b again a2 b2 : Bool) (ecc : List (Nat × Bool)) : State × Bool :=
  let u := s.fb.active
  let v := s.fb.standby
  let s := { s with fb := { s.fb with mism := sat 32 (s.fb.mism + 1), clean := 0 } }
  let a := a || !s.motion.vValid
  let b := b || !s.motion.vValid
  let redo := a == b
  let s := if redo then ecc.foldl State.checkpointEcc s else s
  let okA := s.hasCheckpoint u ecc
  let okB := s.hasCheckpoint v ecc
  let syncing := s.fb.st v == 3
  let w := verdict a b (again && okA && okB) (a2 && okA) (b2 && okB)
  let s := if syncing then s.resyncFails else s
  match w with
  | .standbyWrong => (if syncing then s else s.standbyFaulty F.fbStandbyWrong, true)
  | .activeWrong => let s := s.fault F.fbActiveWrong 0; (s, !s.fb.halted)
  | .mismatch => (s.fault F.fbMismatch 0, true)
  | .position => (s.fault F.fbPosition 0, false)

/-! ### The descriptor -/

/-- A slot is muted (R197). -/
def State.slotMuted (s : State) (i : Nat) : Bool := (s.head i).mTemp || (s.head i).mHost || s.faultMuted i

/-- A bar's part of the descriptor (R184): the job every row has switched to, and the committed one after it. -/
def State.barDesc (s : State) (p b : Nat) : BarDesc :=
  let new := s.splice.runs.takeWhile (fun r => !r.done.getLsbD b)
  let old := (s.splice.runs.drop new.length).head?
  let base : Run → BitVec 32 := fun r => BitVec.ofNat 32 (back p (fwd r.lam (gBar r.g b r.pitch)))
  let a := old.filter (fun r => !r.finished)
  let n := new.getLast?.filter (fun r => !r.finished)
  { ia := (a.map Run.job).getD 0xFFFF, ib := (n.map Run.job).getD 0xFFFF, ba := (a.map base).getD 0, bb := (n.map base).getD 0 }

/-- The mode of a line (R192): true when it is SCHEDULED. -/
def State.schedMode (s : State) : Bool :=
  s.parLine P.fireMode == 0 && s.motion.vValid &&
  (decide (s.parLine P.fireAutoSchedMinHz ≤ s.edgeHz) || (s.fire.sched && decide (s.parLine P.fireAutoEdgeBelowHz ≤ s.edgeHz)))

/-- Target of a line at its issue (R169, R190). -/
def State.firstTarget (s : State) (p : Nat) (sched : Bool) : Nat :=
  let edge := (s.link + s.parReset P.rasterFetchLeadLines * s.linePeriod) % 2 ^ 32
  if sched then ((s.predict p).map (· % 2 ^ 32)).getD edge else edge

/-- T32 at a link time, at the rate it advances by now (R184, R322). -/
def State.t32At (s : State) (link : Nat) : BitVec 32 :=
  let d := signed 32 (link + 2 ^ 32 - s.link)
  BitVec.ofInt 32 (((s.clk.t32u : Int) + d * (8 * (1000000000000 + s.clk.rho))) / (nsUnit : Int))

/-- The descriptor of line `p` (R184, R185). -/
def State.mkDesc (s : State) (p : Nat) (bad : Bool) : Desc :=
  let sched := s.schedMode
  let t := s.firstTarget p sched
  let next := s.splice.armed.head?
  { line := p, edge := !sched, noFire := s.fireHeld || s.fire.unlock,
    lock := s.fb.st s.fb.standby == 2 || s.fb.st s.fb.standby == 3, unit := s.fb.active,
    splices := s.splicesPending, commit := s.splice.runs.any (fun r => back r.lam 512 == p),
    target := t, t32 := s.t32At t, bars := (List.range 8).map (s.barDesc p),
    mute := (List.range 160).filter s.slotMuted, nextLam := (next.bind Armed.lam).getD 0, nextIdx := (next.map Armed.job).getD 0xFFFF,
    bad := bad }

/-- The bytes of a descriptor, its crc over the first 140 last (R184). -/
def Desc.bytes (d : Desc) : Bytes :=
  let b := leB 4 d.line ++ leB 2 d.line ++ leB 1 (b2n d.edge + 2 * b2n d.noFire + 4 * b2n d.lock + 8 * d.unit) ++
    leB 1 (d.splices + 4 * b2n d.commit) ++ leB 4 d.target ++ leB 4 d.t32.toNat ++
    d.bars.flatMap (fun x => leB 2 x.ia ++ leB 2 x.ib ++ leB 4 x.ba.toNat ++ leB 4 x.bb.toNat) ++
    leB 20 (maskOf d.mute) ++ leB 4 d.nextLam ++ leB 2 d.nextIdx ++ leB 2 0
  b ++ leB 4 (crc32c b).toNat

/-- The state record sent with a descriptor (R206). -/
def State.mkRec (s : State) (d : Desc) (passed : Bool) : FbRec :=
  { passed := passed, line := d.line, gen := s.fb.gen, desc := d, armed := s.splice.armed, runs := s.splice.runs.filter (fun r => r.done.toNat != 255),
    flags := b2n s.fireHeld + 2 * b2n s.fire.unlock + 4 * b2n s.fire.sched,
    mTemp := (List.range 160).filter (fun i => (s.head i).mTemp), mFault := (List.range 160).filter s.faultMuted,
    mHost := (List.range 160).filter (fun i => (s.head i).mHost), soft := (List.range 160).filter (fun i => (s.head i).soft),
    runOut := ((s.atDatum).bind s.runEnd).getD 0, lastFired := s.fire.lastFired.getD 0, lastLink := s.fire.lastLink,
    period := s.fire.period.getD 0 }

/-- Splice entry k of a state record (R206): Λ, job, state and the bars that have begun and completed their switch. -/
def FbRec.entry (r : FbRec) (k : Nat) : Bytes :=
  match r.armed.find? (fun a => a.entry == k), r.runs.find? (fun x => x.entry == k) with
  | some a, _ => leB 4 (a.lam.getD 0) ++ leB 2 a.job ++ leB 1 1 ++ leB 9 0
  | none, some x => leB 4 x.lam ++ leB 2 x.job ++ leB 1 (if x.begun = 0 then 2 else 3) ++ leB 1 x.begun.toNat ++ leB 1 x.done.toNat ++ leB 7 0
  | none, none => leB 16 0

/-- The 512 bytes of a state record (R206). -/
def FbRec.bytes (r : FbRec) : Bytes :=
  let b := leB 4 r.line ++ leB 2 r.gen.toNat ++ leB 1 r.flags ++ leB 1 0 ++ r.desc.bytes ++ r.entry 0 ++ r.entry 1 ++ r.entry 2 ++
    leB 20 (maskOf r.mTemp) ++ leB 20 (maskOf r.mFault) ++ leB 20 (maskOf r.mHost) ++ leB 20 (maskOf r.soft) ++ leB 4 r.runOut ++
    leB 4 r.lastFired ++ leB 4 r.lastLink ++ leB 4 r.period ++ leB 212 0
  b ++ leB 4 (crc32c b).toNat

/-- The checkpoint area of the scratchpad, the newest record of a unit first (R208, R434, log 56); none while a record is still missing. -/
def State.checkpoints (s : State) : Option Bytes :=
  if s.fb.ckA.length = 2 ∧ s.fb.ckB.length = 2 then some ((s.fb.ckA ++ s.fb.ckB).flatMap FbRec.bytes) else none

/-- The pair after an issue: the record to the standby, the checkpoints and the counts of lines (R205 to R208, R222, R223). -/
def State.pairIssue (s : State) (d : Desc) (matched : Bool) : State :=
  let v := s.fb.standby
  let st := s.fb.st v
  let rec1 := s.mkRec d (matched || st == 4 || st == 5)
  let own := rec1 :: (if s.fb.active = 0 then s.fb.ckA else s.fb.ckB).take 1
  let other := (if st = 1 then s.fb.saved.toList else if st = 2 ∨ st = 3 then [rec1] else []) ++
    (if s.fb.active = 0 then s.fb.ckB else s.fb.ckA)
  let f := { s.fb with
    ckA := if s.fb.active = 0 then own else other.take 2
    ckB := if s.fb.active = 0 then other.take 2 else own
    gen := if st = 1 then s.fb.gen + 1 else s.fb.gen
    sent := if st = 1 ∨ (st = 3 ∧ s.fb.load) then some rec1 else s.fb.sent
    asked := if st = 1 then false else s.fb.asked
    lockLeft := if st = 2 then s.fb.lockLeft - 1 else s.fb.lockLeft
    syncLeft := if st = 3 ∧ matched ∧ !s.fb.load then s.fb.syncLeft - 1 else s.fb.syncLeft
    clean := if matched ∧ !s.fb.srcRec ∧ st ≠ 3 then sat 32 (s.fb.clean + 1) else 0
    srcRec := false
    lastIssue := d.line }
  { s with fb := if st = 2 ∧ f.lockLeft = 0 then { f.setSt v 1 with saved := some rec1 } else f }

/-- The value of a descriptor that the selector compares: the CRC-32C over 0x00-0x8B with mode bit 3 taken as 0 (R210). -/
def compareCrc (b : Bytes) : BitVec 32 :=
  let d := slice b 0 140
  crc32c (overlay d 6 [BitVec.ofNat 8 (u8 d 6) &&& 0xF7])

/-- A descriptor matches DAMPER's position model (R211): its line and alive are those of line `p`, and its target lies within 2 TCLK of the
prediction. -/
def State.positionOk (s : State) (p : Nat) (b : Bytes) : Bool :=
  u32 b 0 == p && u16 b 4 == p % 65536 && decide ((since (u32 b 8) (s.firstTarget p s.schedMode)).natAbs ≤ 2)

/-- The comparison at an issue: the state, whether a descriptor is issued, and whether it matched at the first attempt. A STALE or FAULTY
standby, and one that has not loaded its state, offers none; one that offers none in another state does not match (R210, R222). -/
def State.compareDesc (s : State) (cmp : DescCompare) (ecc : List (Nat × Bool)) : State × Bool × Bool :=
  let st := s.fb.st s.fb.standby
  if st = 4 ∨ st = 5 ∨ (st = 3 ∧ s.fb.load) then (s, true, false) else
  match cmp with
  | .agree => (s, true, true)
  | .differ _ none _ _ => let r := s.arbitrate true false false false false ecc; (r.1, r.2, false)
  | .differ a (some b) a2 b2 =>
    if compareCrc a = compareCrc b then (s, true, true) else
    let ok := s.positionOk s.fire.next
    let r := s.arbitrate (ok a) (ok b) (compareCrc a2 == compareCrc b2) (ok a2) (ok b2) ecc
    (r.1, r.2, false)

/-! ### The boundary -/

/-- LINE parameters due at a line take effect (R28, R540). -/
def State.applyParams (s : State) (p : Nat) : State :=
  let due := s.params.pendLine.filter (fun e => decide (0 ≤ since p e.1))
  { s with params := { s.params with
      line := due.foldl (fun m e => accept m e.2.1 e.2.2) s.params.line
      pendLine := s.params.pendLine.filter (fun e => !decide (0 ≤ since p e.1)) } }

/-- Damaged EMBER table words are rewritten within 64 lines; which line is a free value (R183, log 11). -/
def State.rewriteTables (s : State) (p : Nat) : State :=
  if s.ember.badTab.isEmpty then s else
  let keep := s.ember.badTab.filter (fun e => decide (since p e.2 < 64) && Config.value s.free % 2 == 0)
  { s.fresh with ember := { s.ember with badTab := keep } }

/-- Lanes whose slots have all reported LT_VALID carry line frames from this boundary on (R271). -/
def State.startFrames (s : State) (p : Nat) : State :=
  (List.range 32).foldl (fun s l =>
    match s.carrier l p with
    | some c =>
      let x := s.lane c
      if x.carry then
        match x.start with
        | some q => if since p q < 64 then s else s.setLane c { x with start := none }
        | none => s
      else if (s.primarySlots l).all (fun i => (sel s.links i {}).ltValid) then
        -- frames of lines packed whose targets lie ahead go out (R246, R291)
        let s := s.setLane c { x with carry := true, start := some (((s.packed (l / 4)).head?.map Prod.fst).getD p) }
        s.resend l
      else s
    | none => s) s

/-- A return is over once the fire position has reached its line; the spare is READY again after a check of every member (R251). -/
def State.finishReturns (s : State) : State :=
  (List.range 4).foldl (fun s k =>
    match (s.spare k).ret with
    | some (l, p) =>
      if since s.pos p < 0 then s else
      let s := s.setSpare k { s.spare k with serving := none, ret := none, passed := [] }
      let s := (s.setLane (32 + k) { s.lane (32 + k) with state := 11, carry := false, info := none, todo := [] }).setLane l
        { s.lane l with capable := none }
      s.emit (.block (32 + k) (kBlock 0x84 (leB 1 0xFF)))
    | none => s) s

/-- The view of a line for GRATE and EMBER (R138). -/
def State.mkView (s : State) (d : Desc) : LineView :=
  { desc := d, par := s.params.line, led := s.ledger.ent, zones := s.zoneView d.line,
    soft := (List.range 160).filter (fun i => (s.head i).soft), resets := (List.range 8).filter (fun b => s.inReset (8 + b)) }

/-- A bar whose bank is late prints no-fire in the line (R100). -/
def State.bankLines (s : State) (p : Nat) : State :=
  ((List.range 8).filter (fun b => (s.grate b).bankLate)).foldl (fun s b => s.barLate p b) s

/-- A line boundary is due (R169, R187, R226): the device is READY, the pair runs, no REVERSE suspension, the last line
launched has fired, and fewer than `lead_lines` descriptors are outstanding. -/
def State.issueDue (s : State) : Bool :=
  s.ready && !s.fb.halted && !s.fb.stalled && !s.motion.rev && decide (s.fire.lastTclk ≤ s.clk.tclk) &&
    decide (s.fire.descs.length < s.parReset P.rasterFetchLeadLines)

/-- The line boundary of line `p` (R169). -/
def State.boundary (s : State) (p : Nat) (matched bad : Bool) : State :=
  let s := s.applyParams p
  let s := s.startZones p
  let s := (s.moveTrims p).applyLedger p
  let s := s.rewriteTables p
  let s := s.spliceLine p
  let s := (s.bindRepeats p).releaseRepeats p
  let s := s.forecast
  let s := { s with fire := { s.fire with sched := s.schedMode } }
  let s := s.finishReturns.startFrames p
  let s := s.fetchLine p bad
  let s := s.bankLines p
  let d := s.mkDesc p bad
  let s := if bad then s.fault F.descCrc p else s
  let s := { s with fire := { s.fire with
    descs := s.fire.descs ++ [d]
    next := fwd p 1
    modeNow := b2n d.edge
    views := (put s.fire.views p (s.mkView d)).filter (fun e => decide (since p e.1 < 64))
    muted := s.fire.muted ++ d.mute.map (fun i => (p, i)) } }
  s.pairIssue d matched

/-- What a LINE parameter of motion does when it takes effect at a boundary (R302): the fire channel changes; at another pitch
the fire position is another, and the lines issued at the old one go out as no-fire (log 18). -/
def State.motionParams (s was : State) : State :=
  let s := if s.parLine P.motionFireChannel = was.parLine P.motionFireChannel then s else s.setFire (s.parLine P.motionFireChannel)
  let s := if s.parLine P.motionFireBackup = was.parLine P.motionFireBackup then s else
    { s with motion := { s.motion with enc := s.motion.enc.map (fun (e : Nat × Enc) => (e.1, { e.2 with dist := 0 })) } }.lostCheck
  if s.parLine P.motionFirePitch = was.parLine P.motionFirePitch then s else
  { s with fire := { s.fire with noFired := s.fire.noFired ++ s.fire.descs.map (fun d => (d.line, 255)), descs := [],
                                 next := fwd s.pos 1, crossAt := none, period := none } }

/-- LINE_BOUNDARY: the comparison's outcome, scratchpad errors met in a second derivation, and whether a consumer finds the
descriptor's crc wrong (R186). -/
def execLineBoundary (dt : Nat) (cmp : DescCompare) (ecc : List (Nat × Bool)) (bad : Bool) (s : State) : Next :=
  let s := s.pass dt
  if !s.issueDue then .next s else
  let (s, go, matched) := s.compareDesc cmp ecc
  if go ∧ !s.fb.halted then .next ((s.boundary s.fire.next matched bad).motionParams s) else .next s

end Sys2Proof.Machine
end

