-- ==== Sys2Proof/Machine/Grate.lean ====
section
/-!
DEFINITION. GRATE: pixels of the EASEL windows (R120 to R123), tone, zone offset and trim (R142 to R144), substitution
(R145 to R150), the row chains (R151 to R153), screening (R154), stitch and pass masks (R155 to R160), pre-screened jobs
(R163) and damaged tables (R165).
-/
namespace Sys2Proof.Machine

/-! ### Where a nozzle stands -/

/-- The run whose geometry a bar uses at a line: the latest whose first switch line has passed (R129). -/
def State.barRun (s : State) (b p : Nat) : Option Run :=
  s.splice.runs.find? (fun r => decide (0 ≤ since p (fwd r.lam (gFirst r.g b r.pitch))))

/-- The geometry of a bar at a line; before any job it has no enabled slot. -/
def State.barGeo (s : State) (b p : Nat) : Geo :=
  match s.barRun b p with
  | some r => r.g
  | none => PKey.dflt

/-- Ledger index of a nozzle (R547). -/
def nozIndex (b sl n : Nat) : Nat := 5120 * (20 * b + sl) + n

/-- A nozzle's entry as it stands at the line (R138). -/
def LineView.entry (v : LineView) (b sl n : Nat) : BitVec 32 := sel v.led (nozIndex b sl n) 0x0000FF0F

/-- A nozzle can print (R145). -/
def LineView.printable (v : LineView) (b sl n : Nat) : Bool :=
  decide (stateOf (v.entry b sl n) ≤ 1) && !v.desc.mute.contains (20 * b + sl) && !v.resets.contains b

/-- The nozzles of a bar at a bar position (R114). -/
def nozzlesAt (g : Geo) (b x : Nat) : List (Nat × Nat) := (gSlots g b).filterMap (fun sl => (gNozzle g b sl x).map (fun n => (sl, n)))

/-- The pair of a bar in a geometry: its number, mode, whether the bar is bar_b, and the twin bar (R157). -/
structure Pair where
  p : Nat
  mode : Nat
  second : Bool
  twin : Nat

/-- The pair a bar belongs to. -/
def gPair (g : Geo) (b : Nat) : Option Pair :=
  (List.range 4).findSome? (fun p =>
    if g (P.rasterTwinMode p) = 0 then none
    else if g (P.rasterTwinBarA p) = b then some ⟨p, g (P.rasterTwinMode p), false, g (P.rasterTwinBarB p)⟩
    else if g (P.rasterTwinBarB p) = b then some ⟨p, g (P.rasterTwinMode p), true, g (P.rasterTwinBarA p)⟩ else none)

/-- Nozzles of another bar that serve plane position `q` in the line (R116, R159). -/
def State.serving (s : State) (v : LineView) (t : Nat) (q : Int) : List (Nat × Nat) :=
  let x := q + v.valS 32 (P.rasterBarXOrigin t)
  if x < 0 then [] else nozzlesAt (s.barGeo t v.desc.line) t x.toNat

/-- Some nozzle of a list prints. -/
def LineView.anyPrints (v : LineView) (b : Nat) (l : List (Nat × Nat)) : Bool := l.any (fun e => v.printable b e.1 e.2)

/-! ### Substitution (R146 to R150) -/

/-- An unprintable nozzle is covered (R146). -/
def State.covered (s : State) (v : LineView) (g : Geo) (b sl n : Nat) : Bool :=
  let x := gX g b sl n
  v.anyPrints b ((nozzlesAt g b x).filter (fun e => e != (sl, n))) ||
  (match gPair g b with
   | some t => t.mode == 2 && v.anyPrints t.twin (s.serving v t.twin ((x : Int) - v.valS 32 (P.rasterBarXOrigin b)))
   | none => false)

/-- A nozzle gives shares: unprintable and not covered. -/
def State.gives (s : State) (v : LineView) (g : Geo) (b : Nat) (e : Nat × Nat) : Bool :=
  !v.printable b e.1 e.2 && !s.covered v g b e.1 e.2

/-- Nozzles at the position left of x; none at the bar's end. -/
def leftOf (g : Geo) (b x : Nat) : List (Nat × Nat) := if x = 0 then [] else nozzlesAt g b (x - 1)

/-- Left and right substitution codes of an entry (R147). -/
def wl (e : BitVec 32) : Nat := bits e.toNat 6 2
/-- Right code. -/
def wr (e : BitVec 32) : Nat := bits e.toNat 4 2

/-- Quarters that a nozzle at position x receives from its own bar (R147, R150). -/
def State.barQuarters (s : State) (v : LineView) (g : Geo) (b x : Nat) : Nat :=
  if v.val (P.rasterBarSubEnable b) = 0 then 0 else
  let right := (nozzlesAt g b (x + 1)).filter (s.gives v g b)
  let left := (leftOf g b x).filter (s.gives v g b)
  let beyondR := v.anyPrints b (nozzlesAt g b (x + 2))
  let beyondL := v.anyPrints b (if x < 2 then [] else nozzlesAt g b (x - 2))
  (right.map (fun e => let w := v.entry b e.1 e.2; if beyondR then wl w else min 4 (wl w + wr w))).sum +
  (left.map (fun e => let w := v.entry b e.1 e.2; if beyondL then wr w else min 4 (wl w + wr w))).sum

/-- Quarters from the twin bar in an interlace mode (R147). -/
def State.twinQuarters (s : State) (v : LineView) (g : Geo) (b : Nat) (q : Int) : Nat :=
  match gPair g b with
  | some t =>
    if t.mode ≠ 2 ∧ v.val (P.rasterBarSubEnable t.twin) = 1 then
      v.val (P.rasterTwinSubQuarters t.p) * ((s.serving v t.twin q).filter (s.gives v (s.barGeo t.twin v.desc.line) t.twin)).length
    else 0
  | none => 0

/-- An unprintable nozzle that nothing covers and whose shares reach no target (R148). -/
def State.uncoveredNoz (s : State) (v : LineView) (g : Geo) (b sl n : Nat) : Bool :=
  let x := gX g b sl n
  s.gives v g b (sl, n) &&
  (v.val (P.rasterBarSubEnable b) == 0 ||
   !(v.anyPrints b (leftOf g b x) || v.anyPrints b (nozzlesAt g b (x + 1)) ||
     (match gPair g b with
      | some t => t.mode != 2 && v.anyPrints t.twin (s.serving v t.twin ((x : Int) - v.valS 32 (P.rasterBarXOrigin b)))
      | none => false)))

/-! ### The pixel of a nozzle -/

/-- A pixel that a nozzle reads: its value, job line, plane position, and the run it came from. -/
structure Pixel where
  v : Nat
  k : Nat
  q : Int
  run : Run

/-- The run that a row prints at a line: the latest whose switch line for the row has passed (R120). -/
def State.rowRun (s : State) (b sl row p : Nat) : Option Run :=
  s.splice.runs.find? (fun r => decide (0 ≤ since p (fwd r.lam (gPtr r.g b sl (row / 2) r.pitch + gDelay r.g b sl row r.pitch))))

/-- Index in the window of a nozzle's pixel and the plane pixel it holds (R122, R582). -/
def windowIndex (g : Geo) (pre : Bool) (b sl n : Nat) (base : Int) : Nat × Int :=
  let x0 : Int := (g (P.rasterBarSlotX0 (20 * b + sl)) : Nat)
  let q := base + (gX g b sl n : Nat) - x0
  if gSplit g b sl then
    let other := if n % 2 = 0 then n + 1 else n - 1
    let q' := base + (gX g b sl other : Nat) - x0
    if pre then (2 * (n / 4) + n % 2, q) else (n / 4, min q q' / 2)
  else if pre then ((q - base).toNat, q)
  else
    let i := min 2559 (q / 2 - base / 2)
    (i.toNat, base / 2 + i)

/-- The pixel a nozzle reads in the line: none when it is blank, outside the plane or poisoned (R116, R120, R123, R132, R152). -/
def State.pixelOf (s : State) (b sl n p : Nat) : Option Pixel :=
  let row := n % 4
  match s.rowRun b sl row p with
  | none => none
  | some r =>
    let at1 := back p (gDelay r.g b sl row r.pitch)
    match (sel s.raster.win (winKey (20 * b + sl) (row / 2) (gSplit r.g b sl)) []).find? (fun w => w.line == at1) with
    | none => none
    | some w =>
      match w.tag, s.splice.runs.find? (fun x => x.lam == w.lam) with
      | some i, some o =>
        let j := s.job i
        let (idx, pp) := windowIndex o.g j.pre b sl n w.base
        if pp < 0 ∨ (j.width : Int) ≤ pp ∨ w.bad.contains idx then none
        else some { v := (w.pix[idx]?).getD 0, k := w.k, q := w.base + (gX o.g b sl n : Nat) - (o.g (P.rasterBarSlotX0 (20 * b + sl)) : Nat), run := o }
      | _, _ => none

/-! ### Tone, trim and screening -/

/-- Coverage held to 12 bits. -/
def cover (x : Int) : Nat := (clamp 0 4095 x).toNat

/-- A coverage scaled by a relative correction in 0.1 % (R143, R144). -/
def scaled (c : Nat) (t : Int) : Nat := cover (((c : Int) * (1000 + t) + 500) / 1000)

/-- The bank that holds the tables of a job (R141). -/
def Grate.bankOf (g : Grate) (job : Nat) : Option Bank :=
  if g.bank0.tag = job ∧ g.bank0.loaded then some g.bank0 else if g.bank1.tag = job ∧ g.bank1.loaded then some g.bank1 else none

/-- Stage 5 shift h of a bar (R154). -/
def shiftOf (g : Geo) (b : Nat) : Nat :=
  match gPair g b with
  | some t => if t.second ∧ t.mode ≠ 2 then 128 else 0
  | none => 0

/-- Number of the matrix cell of a job line and plane position (R154). -/
def cellOf (k : Nat) (q : Int) (h : Nat) : Nat := 256 * ((k + h) % 256) + ((q + h) % 256).toNat

/-- Drop size from a coverage and a cell (R154). -/
def screen (cells : Bytes) (cell c4 : Nat) : Nat :=
  let b := (cells.drop (8 * cell)).take 8
  b2n (decide (u16 b 0 < c4)) + b2n (decide (u16 b 2 < c4)) + b2n (decide (u16 b 4 < c4))

/-- The ordered matrix of R155. -/
def bayer16 (i j : Nat) : Nat :=
  ((List.range 4).map (fun b => (2 * b2n (bit i b != bit j b) + b2n (bit i b)) * 4 ^ (3 - b))).sum

/-- The stitch threshold (R155). -/
def stitchT (k : Nat) (q : Int) : Nat := bayer16 (k % 16) (q % 16).toNat * 255 / 256

/-- Stitch weight of an entry (R156). -/
def stitchW (e : BitVec 32) : Nat := bits e.toNat 8 8

/-- The stitch rule selects a nozzle (R156). -/
def State.stitched (_s : State) (v : LineView) (g : Geo) (b sl n k : Nat) (q : Int) : Bool :=
  let others := (nozzlesAt g b (gX g b sl n)).filter (fun e => e.1 != sl)
  let w := stitchW (v.entry b sl n)
  others.all (fun e => !v.printable b e.1 e.2 || (if sl < e.1 then decide (stitchT k q < w) else decide (255 - w ≤ stitchT k q)))

/-- The pass mask selects a nozzle (R158), under the pairing of the pixel's job (R160). -/
def State.masked (s : State) (v : LineView) (g : Geo) (b k : Nat) (q : Int) : Bool :=
  match gPair g b with
  | none => true
  | some t =>
    if t.mode = 1 then true else
    let m := bit (g (P.rasterTwinMaskRow t.p (k % 16))) (q % 16).toNat
    m == t.second || (t.mode == 2 && !v.anyPrints t.twin (s.serving v t.twin q))

/-- A nozzle's dot: drop size, and the error its chain carries on; none when it takes no part in the chain (R152, R153, R163). -/
def State.dot (s : State) (v : LineView) (gr : Grate) (b sl n : Nat) (c : Chain) : Option (Nat × Chain) :=
  if !v.printable b sl n then none else
  match s.pixelOf b sl n v.desc.line with
  | none => none
  | some px =>
    let g := px.run.g
    let job := px.run.job
    let x := gX g b sl n
    let e := if c.tag.isSome ∧ c.tag ≠ some job then 0 else c.e
    let quarters := s.barQuarters v g b x + s.twinQuarters v g b px.q
    let keep := s.stitched v g b sl n px.k px.q && s.masked v g b px.k px.q
    if (s.job job).pre then
      let total := 4 * px.v + px.v * quarters + e
      let d := min 3 (total / 4)
      some (if keep then d else 0, { e := min 3 (total - 4 * d), tag := some job })
    else
      match gr.bankOf job with
      | none => none
      | some k =>
        let cell := cellOf px.k px.q (shiftOf g b)
        if k.badTone.contains (px.v / 4) ∨ k.badCell.contains cell then none else
        let c1 := (k.tone[px.v]?).getD 0
        let c2 := scaled c1 (sel v.zones (400 * b + x / 256) 0)
        let c3 := scaled c2 (trimOf (v.entry b sl n))
        let sum := c3 + (c2 * quarters + 2) / 4 + 1024 * e
        let out := if 4095 < sum then min 3 ((sum - 4095 + 512) / 1024) else 0
        let d := screen k.cells cell (min sum 4095)
        some (if keep then d else 0, { e := out, tag := some job })

/-! ### A line of a bar -/

/-- Merge two lists of nozzles by rising position; of two at one position the lower slot comes first. -/
def mergeX (fuel : Nat) (a b : List (Nat × Nat × Nat)) : List (Nat × Nat × Nat) :=
  match fuel with
  | 0 => a ++ b
  | f + 1 =>
    match a, b with
    | [], b => b
    | a, [] => a
    | x :: s, y :: t => if x.1 ≤ y.1 then x :: mergeX f s (y :: t) else y :: mergeX f (x :: s) t

/-- The nozzles of a row of a slot by rising position: (position, slot, nozzle). -/
def rowNozzles (g : Geo) (b sl row : Nat) : List (Nat × Nat × Nat) :=
  let up := (List.range 1280).map (fun i => (gX g b sl (4 * i + row), sl, 4 * i + row))
  if g (P.rasterBarSlotOrient (20 * b + sl)) = 0 then up else up.reverse

/-- Chain `row` of a bar (R151). -/
def chainNozzles (g : Geo) (b row : Nat) : List (Nat × Nat × Nat) :=
  (gSlots g b).foldl (fun l sl => mergeX (l.length + 1280) l (rowNozzles g b sl row)) []

/-- Run a chain over its nozzles: the drop sizes with their nozzles, and the chain it leaves (R151, R152). -/
def State.runChain (s : State) (v : LineView) (gr : Grate) (b : Nat) (l : List (Nat × Nat × Nat)) (c : Chain) : List (Nat × Nat × Nat) × Chain :=
  match l with
  | [] => ([], c)
  | x :: t =>
    match s.dot v gr b x.2.1 x.2.2 c with
    | none => let r := State.runChain s v gr b t c; ((x.2.1, x.2.2, 0) :: r.1, r.2)
    | some (d, c') => let r := State.runChain s v gr b t c'; ((x.2.1, x.2.2, d) :: r.1, r.2)

/-- The drop sizes of one row of a slot by rising nozzle number. -/
def rowDrops (g : Geo) (b sl : Nat) (chain : List (Nat × Nat × Nat)) : List Nat :=
  let l := (chain.filter (fun e => e.1 == sl)).map (fun e => e.2.2)
  if g (P.rasterBarSlotOrient (20 * b + sl)) = 0 then l else l.reverse

/-- The four row chains of a bar for a line: drop sizes by (slot, row) key 4 sl + row, and the chains they leave. -/
def State.grateLine (s : State) (v : LineView) (b : Nat) : SMap (List Nat) × SMap Chain :=
  let g := s.barGeo b v.desc.line
  let gr := s.grate b
  (List.range 4).foldl (fun (acc : SMap (List Nat) × SMap Chain) row =>
    let r := s.runChain v gr b (chainNozzles g b row) (sel gr.chains row {})
    ((gSlots g b).foldl (fun m sl => put m (4 * sl + row) (rowDrops g b sl r.1)) acc.1, put acc.2 row r.2)) ([], gr.chains)

/-- The uncovered nozzles of a bar in a line, lowest Ledger index first (R148). -/
def State.uncoveredList (s : State) (v : LineView) (b : Nat) : List Nat :=
  let g := s.barGeo b v.desc.line
  (gSlots g b).flatMap (fun sl => ((List.range 5120).filter (fun n => s.uncoveredNoz v g b sl n)).map (nozIndex b sl))

/-! ### Errors a line meets -/

/-- First pixel of a run of window indices and the plane line of a window line, for a defect record (R134). -/
def State.windowDefect (s : State) (kind b sl rg : Nat) (w : WinLine) (first count : Nat) : Defect :=
  match w.tag, s.splice.runs.find? (fun x => x.lam == w.lam) with
  | some i, some r =>
    let j := s.job i
    let px := ((windowPixels r.g j.pre b sl rg ((r.g (P.rasterBarSlotX0 (20 * b + sl)) : Int) - w.base))[first]?).getD 0
    let inRep := w.k % max 1 j.repLines
    { kind := kind, bar := b, slot := sl, rg := if gSplit r.g b sl then rg else 0xFF, index := i, pixels := count, rep := w.rep,
      pl := if j.pre then inRep else inRep / 2, pixel := px.toNat, line := w.line, count := 1 }
  | _, _ => { kind := kind, bar := b, slot := sl, rg := 0xFF, pixels := count, line := w.line, count := 1 }

/-- Mark window indices of a line as poisoned. -/
def State.poison (s : State) (key line : Nat) (idx : List Nat) : State :=
  let l := (sel s.raster.win key []).map (fun w => if w.line = line then { w with bad := idx.foldl addTo w.bad } else w)
  { s with raster := { s.raster with win := put s.raster.win key l } }

/-- The lines of a window that hold the plane line of one of them: both print lines of a contone plane line (R126). -/
def State.twins (s : State) (key : Nat) (w : WinLine) (pre : Bool) : List Nat :=
  if pre then [w.line] else
  ((sel s.raster.win key []).filter (fun v => v.tag == w.tag && v.lam == w.lam && v.k / 2 == w.k / 2)).map WinLine.line

/-- A tag's job is pre-screened. -/
def State.preTag (s : State) (t : Option Nat) : Bool := match t with | some i => (s.job i).pre | none => false

/-- An EASEL error: a single bit is corrected, two poison the pixels of the word (R133). -/
def State.easelError (s : State) (b sl rg line word bits : Nat) : State :=
  let slot := 20 * b + sl
  if bits = 1 then s.fault F.easelEccCorr slot else
  let key := s.newKey slot rg line
  match (sel s.raster.win key []).find? (fun w => w.line == line) with
  | none => s.fault F.easelEcc slot
  | some w =>
    let n := if s.preTag w.tag then 32 else 8
    let idx := (List.range n).map (n * word + ·)
    let s := ((s.twins key w (s.preTag w.tag)).foldl (fun (s : State) l => s.poison key l idx) s).fault F.easelEcc slot
    s.defect (s.windowDefect 2 b sl rg w (n * word) n)

/-- A table bank error: corrected and counted, or the word is damaged until the bank is reloaded (R165). -/
def State.tableError (s : State) (b k word bits : Nat) (matrix : Bool) : State :=
  let g := s.grate b
  if bits = 1 then
    (if s.coreRuns b then s.setGrate b { g with corr := sat 32 (g.corr + 1) } else s).fault F.tableEccCorr 0
  else
    let x := g.bank k
    let x := if matrix then { x with badCell := addTo x.badCell word } else { x with badTone := addTo x.badTone word }
    (s.setGrate b (g.setBank k x)).fault F.tableEcc b

/-- The fallback entry of a nozzle with the fields that the host wrote at the boundary of a line over it, and with `later` what
the boundaries after it wrote (R554, R556). -/
def State.fallback (s : State) (i line : Nat) (later : Bool) : BitVec 32 :=
  (s.ledger.recent.filter (fun e => e.2.1 == i && (e.1 == line && !e.2.2.2.getLsbD 6 || later && decide (0 < since e.1 line)))).foldl
    (fun e w => merge e w.2.2.1 w.2.2.2) 0x8000FFAF

/-- A Ledger error found at a line: corrected, or replaced by the fallback entry (R554). -/
def State.ledgerError (s : State) (i line bits : Nat) : State :=
  if bits = 1 then { s with ledger := { s.ledger with corr := sat 32 (s.ledger.corr + 1) } }.fault F.ledgerEccCorr i
  else
    let s := s.setEntry i (s.fallback i line true)
    { s with ledger := { s.ledger with fallb := sat 32 (s.ledger.fallb + 1), lastFb := BitVec.ofNat 32 i } }.fault F.ledgerEcc i

end Sys2Proof.Machine
end

