-- ==== Sys2Proof/Machine/Ember.lean ====
section
/-!
DEFINITION. EMBER (R172 to R183) and the line frames (R261 to R264, R268, R286): the work of a line on a bar.
-/
namespace Sys2Proof.Machine

/-! ### The drive code -/

/-- EMBER state of a nozzle; cold elsewhere (R176). -/
def State.noz (s : State) (i : Nat) : Nozzle := sel s.ember.noz i {}

/-- The class of a nozzle in the line: Ledger bits [19:16], through the derate map when its slot is soft (R179). -/
def LineView.cls (v : LineView) (b sl n : Nat) : Nat :=
  let k := bits (v.entry b sl n).toNat 16 4
  if v.soft.contains (20 * b + sl) then
    (if k < 8 then bits (v.val (P.fireBarEmberDerateMapLo b)) (4 * k) 4 else bits (v.val (P.fireBarEmberDerateMapHi b)) (4 * (k - 8)) 4)
  else k

/-- Entry e of the class table of a bar and class (R182). -/
def LineView.tableEntry (v : LineView) (b k e : Nat) : Nat := bits (v.val (P.fireBarEmberClassTable (16 * b + k) (e / 16))) (2 * (e % 16)) 2

/-- Boost entry of an idle counter (R182). -/
def LineView.boostEntry (v : LineView) (b k c : Nat) : Nat := bits (v.val (P.fireBarEmberClassBoost (16 * b + k))) (2 * c) 2

/-- The drive code of a nozzle with drop size d (R172, R178 to R181, R183); `bad` marks a damaged table of its class. -/
def LineView.code (v : LineView) (b sl n d : Nat) (z : Nozzle) (left right : Bool) (bad : Bool) : Nat :=
  let k := v.cls b sl n
  if 0 < d then
    let idx := 64 * z.h1 + 16 * z.h2 + 4 * z.h3 + 2 * b2n left + b2n right
    4 * d + (if v.val (P.fireBarEmberEnable b) = 0 ∨ bad then v.val (P.fireBarEmberFixedVariant b)
             else max (v.tableEntry b k idx) (v.boostEntry b k z.c))
  else
    let t := v.val (P.fireBarEmberClassTickleIdle (16 * b + k))
    if t ≠ 0 ∧ t ≤ z.c ∧ stateOf (v.entry b sl n) ≠ 3 ∧ !v.desc.mute.contains (20 * b + sl) then 1 else 0

/-- The idle counter after line p (R175). -/
def idleNext (c r p : Nat) : Nat :=
  if 0 < r then 0 else if c < 2 then c + 1 else if c < 15 ∧ p % 2 ^ (c - 1) = 0 then c + 1 else c

/-- A nozzle's state after line p recorded drop size r (R175). -/
def Nozzle.next (z : Nozzle) (r p : Nat) : Nozzle := { h1 := r, h2 := z.h1, h3 := z.h2, c := idleNext z.c r p }

/-- Codes of one row of a slot by rising nozzle number; the neighbours are those of the row (R178). -/
def State.rowCodes (s : State) (v : LineView) (b sl row : Nat) (orient : Nat) (prev : Nat) (i : Nat) (l : List Nat) : List Nat :=
  match l with
  | [] => []
  | d :: t =>
    let n := 4 * i + row
    let lower := decide (0 < prev)
    let upper := decide (0 < t.headD 0)
    let bad := s.ember.badTab.any (fun e => e.1 == 16 * b + v.cls b sl n)
    v.code b sl n d (s.noz (nozIndex b sl n)) (if orient = 0 then lower else upper) (if orient = 0 then upper else lower) bad ::
      State.rowCodes s v b sl row orient d (i + 1) t

/-- Four rows woven into nozzle order (R114). -/
def weave (a b c d : List Nat) : List Nat :=
  match a, b, c, d with
  | w :: a, x :: b, y :: c, z :: d => w :: x :: y :: z :: weave a b c d
  | _, _, _, _ => []

/-- Record a line in the state of a slot's nozzles; a cold nozzle is not listed (R175, R177). -/
def recordDrops (m : SMap Nozzle) (i p : Nat) (l : List Nat) : SMap Nozzle :=
  match l with
  | [] => m
  | r :: t =>
    let z : Nozzle := (sel m i {}).next r p
    recordDrops (if z = {} then cut m i else put m i z) (i + 1) p t

/-! ### Errors in the EMBER store -/

/-- A nozzle's word in its slot holds six nozzles (R174). -/
def emberWord (i : Nat) : List Nat :=
  let slot := i / 5120
  let w := i % 5120 / 6
  ((List.range 6).map (fun j => 6 * w + j)).filterMap (fun n => if n < 5120 then some (5120 * slot + n) else none)

/-- An EMBER state error: corrected, or the word's nozzles are cold (R176). -/
def State.emberError (s : State) (i bits : Nat) : State :=
  let l := emberWord i
  if bits = 1 then
    { s with ember := { s.ember with corr := upd s.ember.corr (i / 102400) 0 (fun c => sat 32 (c + 1)) } }.fault F.emberEccCorr 0
  else ({ s with ember := { s.ember with noz := l.foldl cut s.ember.noz } }).fault F.emberEcc (l.headD i)

/-- An EMBER table error: two wrong bits disable the class's table until it is rewritten (R183). -/
def State.emberTableError (s : State) (key line bits : Nat) : State :=
  if bits = 1 then s
  else ({ s with ember := { s.ember with badTab := addTo s.ember.badTab (key, line) } }).fault F.emberTableEcc 0

/-- One error that a line of a bar meets. -/
def State.upset (s : State) (b line : Nat) (u : Upset) : State :=
  match u with
  | .easel sl rg d word bits => s.easelError b (sl % 20) (rg % 2) (back line d) word bits
  | .table k word bits matrix => s.tableError b (k % 2) word bits matrix
  | .ember i bits => s.emberError (i % 819200) bits
  | .emberTable k _ bits => s.emberTableError (16 * b + k % 16) line bits
  | .ledger i bits => s.ledgerError (i % 819200) line bits

/-! ### The line of a bar -/

/-- The oldest issued line that a bar has not worked. -/
def State.nextLine (s : State) (b : Nat) : Option LineView :=
  (s.fire.views.filter (fun e => decide (0 < since e.1 (s.grate b).codeLine))).foldl (fun (m : Option LineView) e =>
    match m with
    | none => some e.2
    | some w => if since e.1 w.desc.line < 0 then some e.2 else some w) none

/-- The work of a line on one slot: codes, frame and history (R175, R177). -/
def State.slotLine (s : State) (v : LineView) (b sl : Nat) (drops : SMap (List Nat)) : State :=
  let g := s.barGeo b v.desc.line
  let orient := g (P.rasterBarSlotOrient (20 * b + sl))
  let row (r : Nat) : List Nat := sel drops (4 * sl + r) []
  let code (r : Nat) : List Nat := s.rowCodes v b sl r orient 0 0 (row r)
  let codes := weave (code 0) (code 1) (code 2) (code 3)
  let sizes := weave (row 0) (row 1) (row 2) (row 3)
  let silent := v.desc.noFire || v.desc.mute.contains (20 * b + sl)
  let s := { s with ember := { s.ember with noz := recordDrops s.ember.noz (nozIndex b sl 0) v.desc.line (if silent then sizes.map (fun _ => 0) else sizes) } }
  let s := s.setGrate b { s.grate b with codes := put (s.grate b).codes sl codes }
  s.sendFrame v.desc (20 * b + sl) codes

/-- GRATE, EMBER and lane packing work a line on a bar (R137 to R183); a slot that is not enabled has every code 0 (R261, R264). -/
def State.workLine (s : State) (v : LineView) (b : Nat) : State :=
  let (drops, chains) := s.grateLine v b
  let unc := s.uncoveredList v b
  let g := s.grate b
  let rises := !g.above && !unc.isEmpty
  let g : Grate := { g with chains := if v.resets.contains b then [] else chains, codeLine := v.desc.line, codes := [],
                            uncov := if s.coreRuns b then unc.length else g.uncov, above := !unc.isEmpty }
  let s := s.setGrate b g
  let s := if rises then s.fault F.subUncovered (unc.headD 0) else s
  let on := gSlots (s.barGeo b v.desc.line) b
  ((List.range 20).foldl (fun s sl => if on.contains sl then s.slotLine v b sl drops else s.sendFrame v.desc (20 * b + sl) []) s).stageMissed b

/-- LINE_PROCESS: the bar's oldest line that it has not worked, with the errors the line meets. -/
def execLineProcess (dt : Nat) (bar : Fin 8) (upsets : List Upset) (s : State) : Next :=
  let s := s.pass dt
  match s.nextLine bar.val with
  | none => .next s
  | some v =>
    let s := upsets.foldl (fun s u => s.upset bar.val v.desc.line u) s
    let hurt := upsets.filterMap (fun u => match u with | .ledger i n => if n = 1 then none else some (i % 819200) | _ => none)
    .next (s.workLine { v with led := hurt.foldl (fun m i => put m i (s.fallback i v.desc.line false)) v.led } bar.val)

end Sys2Proof.Machine
end

