-- ==== Sys2Proof/Machine/Fire.lean ====
section
/-!
DEFINITION. Firing (R188 to R194, R266, R273, R274), the legacy port (R287, R289), late lines (R33, R126) and the DRAUGHT
chain (R30 to R38).
-/
namespace Sys2Proof.Machine

/-! ### Position triggers (R340) -/

/-- TCLK in a time of ns, to the nearest (R339). -/
def tclkOf (ns : Nat) : Nat := (5 * ns + 4) / 8

/-- A fire position lies on the grid of an output in POSITION mode. -/
def State.trigAt (s : State) (k p : Nat) : Bool :=
  let d := back p (s.parLine (P.timeTrigStartLine k))
  s.parLine (P.timeTrigMode k) == 2 && decide (d < 2 ^ 31) && d % s.parLine (P.timeTrigPitchLines k) == 0

/-- A trigger output. -/
def State.trig (s : State) (k : Nat) : Trig := sel s.time.trig k {}

/-- Replace it. -/
def State.setTrig (s : State) (k : Nat) (x : Trig) : State := { s with time := { s.time with trig := put s.time.trig k x } }

/-- Lines have their fire instant: each output's pulse falls due once, for the last of its positions among them (R340). -/
def State.trigDue (s : State) (lines : List Nat) (fire : Nat) : State :=
  (List.range 8).foldl (fun (s : State) k =>
    let x := s.trig k
    let new := lines.filter (fun p => s.trigAt k p && (match x.seen with | some q => decide (0 < since p q) | none => true))
    match new.getLast? with
    | some p => s.setTrig k { x with seen := some p, due := x.due ++ [(p, fire + tclkOf (s.parLine (P.timeTrigDelayNs k)))] }
    | none => s) s

/-- A link time near now on the axis of Clock.tclk. -/
def State.tclkAt (s : State) (link : Nat) : Nat := ((s.clk.tclk : Int) + since link s.link).toNat

/-- Lines that an edge reaches and that are not to fire at a predicted target: their fire instant is 3 TCLK later (R189, R340). -/
def State.trigEdge (s : State) (lines : List Nat) : State :=
  let late := lines.filter (fun p => !s.fire.descs.any (fun d => d.line == p && !d.edge && !d.fallback))
  s.trigDue late (s.clk.tclk + 3)

/-! ### What a line fires -/

/-- Least distance of two fired lines in TCLK (R193). -/
def minFireGap : Nat := 5208

/-- A line is late on a bar (R33). -/
def State.isLate (s : State) (line b : Nat) : Bool := s.raster.lateAll.contains line || s.raster.late.contains (line, b)

/-- The selected unit is declared lost, so it launches nothing (R215). -/
def State.activeDead (s : State) : Bool := s.fb.activeMiss == lostMark || s.fb.st s.fb.active == 5

/-- Bars on which a line goes out as no-fire (R24, R33, R171). -/
def State.silentBars (s : State) (d : Desc) : List Nat :=
  (List.range 8).filter (fun b => d.noFire || d.bad || s.fire.unlock || s.activeDead || s.isLate d.line b)

/-- Record the bars on which a line was no-fire. -/
def State.noFireOn (s : State) (line : Nat) (bars : List Nat) : State :=
  if bars.isEmpty then s else { s with fire := { s.fire with noFired := s.fire.noFired ++ [(line, maskOf bars)] } }

/-- Forget a descriptor that has fired or gone out as no-fire. -/
def State.retire (s : State) (line : Nat) : State :=
  { s with fire := { s.fire with descs := s.fire.descs.filter (fun d => d.line != line) } }

/-- A line goes out as no-fire on every bar (R171). -/
def State.skipLine (s : State) (line : Nat) : State := (s.noFireOn line (List.range 8)).retire line

/-- Slots of a line that fire on lanes, with their lanes: every slot on a lane (R261, R273), of the bars that fire the line. -/
def State.fireSlots (s : State) (d : Desc) (silent : List Nat) : List (Nat × Nat) :=
  ((List.range 8).filter (fun b => !silent.contains b)).flatMap (fun b =>
    (List.range 20).filterMap (fun sl => (s.laneFor (20 * b + sl) d.line).map (fun c => (20 * b + sl, c))))

/-- P1 of a FIRE block for slots of one lane (R273). -/
def State.fireMask (s : State) (slots : List Nat) (now : Bool) : BitVec 8 :=
  BitVec.ofNat 8 (8 * maskOf (slots.map s.slotPos) + b2n now)

/-- A slot's frame has not left: the slot prints no-fire (R266). -/
def State.frameUnsent (line : Nat) (s : State) (slot : Nat) : State :=
  let s := match s.laneFor slot line with
    | some c => s.setLane c { s.lane c with unsent := sat 32 ((s.lane c).unsent + 1) }
    | none => s
  s.fault F.frameUnsent slot

/-- The predicted line period in TCLK as a fraction (R190, R307): the line length over the velocity of the model; the line period of
R169 while the model has none. -/
def State.predPeriod (s : State) : Nat × Nat :=
  match if s.motion.vValid then s.velSpan 0 else none with
  | some (d, t) => if 0 < d then (s.lineLen * t, d.toNat) else (s.linePeriod, 1)
  | none => (s.linePeriod, 1)

/-- A slot's own target: the frozen target plus its phase, as the line's own boundary found it (R169, R190, R274). -/
def State.slotTarget (s : State) (d : Desc) (slot : Nat) : Nat :=
  unsigned 32 ((d.target : Int) + (s.view d.line).valS 8 (P.fireBarSlotPhase slot) * s.predPeriod.1 / (256 * s.predPeriod.2 : Nat))

/-- The groups of a line's slots: a lane and one target (R273). -/
def State.groups (s : State) (d : Desc) (slots : List (Nat × Nat)) : List Later :=
  ((slots.map (fun e => (e.2, s.slotTarget d e.1))).eraseDups).map (fun g =>
    { line := d.line, lane := g.1, target := g.2,
      slots := (slots.filter (fun e => e.2 == g.1 && s.slotTarget d e.1 == g.2)).map Prod.fst })

/-- A slot's frame of a line has not left whole (R266): its bar has not worked the line, or the lane still sends it. -/
def State.unsentOf (s : State) (unsent : List Nat) (line slot : Nat) : Bool :=
  unsent.contains slot || decide (0 < since line (s.grate (slot / 20)).codeLine)

/-- Launch the FIRE block of a group, but for the slots whose frames have not left (R266, R273). -/
def State.launchGroup (unsent : List Nat) (s : State) (g : Later) : State :=
  let late := g.slots.filter (s.unsentOf unsent g.line)
  let go := g.slots.filter (fun i => !s.unsentOf unsent g.line i)
  let s := late.foldl (State.frameUnsent g.line) s
  if go.isEmpty then s else s.emit (.fire g.lane g.line g.target (fireBlock (s.fireMask go false) g.line g.target))

/-- The FIRE block of an edge-fire line on a lane; its target field is the link time of the edge (R273). -/
def State.fireEdge (s : State) (line lane at_ : Nat) (slots : List Nat) : State :=
  if slots.isEmpty then s else s.emit (.fire lane line at_ (fireBlock (s.fireMask slots true) line at_))

/-- TCLK of 200 ns, 40 ns and 32 ns (R287). -/
def tclk200ns : Nat := 125
/-- 40 ns. -/
def tclk40ns : Nat := 25
/-- 32 ns. -/
def tclk32ns : Nat := 20

/-- The legacy strobe of a line will fall due; whether the latch has ended in time is judged then (R287, R289). -/
def State.legacyDue (s : State) (d : Desc) (silent : List Nat) (due : Nat) : State :=
  let slots := ((List.range 8).filter (fun b => !silent.contains b)).flatMap (fun b =>
    (List.range 20).filter (fun sl => (s.legacyOf (20 * b + sl)).isSome))
  if slots.isEmpty then s else { s with fire := { s.fire with strobeDue := some (d.line, due) } }

/-- The fired line is the last one (R206). -/
def State.fired (s : State) (line link : Nat) : State :=
  ({ s with fire := { s.fire with lastFired := some line, lastLink := link, lastTclk := s.tclkAt link } }).retire line

/-! ### Scheduled fire -/

/-- A time on the 32-bit circle lies at or before now. -/
def State.reached32 (s : State) (t : Nat) : Bool := le32 (t % 2 ^ 32) s.link

/-- Launch of a scheduled line (R190, R266, R274): the groups whose time has come leave, those of positive phase wait. -/
def State.launch (s : State) (d : Desc) (unsent : List Nat) : State :=
  let s := s.trigDue [d.line] (s.tclkAt d.target)
  let silent := s.silentBars d
  let s := s.noFireOn d.line silent
  if silent.length = 8 then s.retire d.line else
  let gs := s.groups d ((s.fireSlots d silent).filter (fun e => !d.sent.contains e.1))
  let s := { s with fire := { s.fire with later := s.fire.later ++ gs.filter (fun g => !s.groupDue g) } }
  let s := (gs.filter s.groupDue).foldl (State.launchGroup unsent) s
  (s.legacyDue d silent (s.tclkAt d.target)).fired d.line d.target

/-- Groups of positive phase whose time has come; none leaves without TCLK lock or from a unit declared lost (R24, R215). -/
def State.launchLater (s : State) (unsent : List Nat) : State :=
  let due := s.fire.later.filter s.groupDue
  let s := { s with fire := { s.fire with later := s.fire.later.filter (fun g => !s.groupDue g) } }
  if s.fire.unlock ∨ s.activeDead then s else due.foldl (State.launchGroup unsent) s

/-- Groups of negative phase of a line with a frozen target, whose time has come before the line's own launch (R274). -/
def State.launchEarly (unsent : List Nat) (s : State) (d : Desc) : State :=
  if d.edge ∨ !d.frozen ∨ d.fallback ∨ s.launchPassed d ∨ s.fb.stalled then s else
  if s.fire.lastFired.isSome ∧ since d.target ((s.fire.lastLink + minFireGap) % 2 ^ 32) < 0 then s else
  let gs := (s.groups d ((s.fireSlots d (s.silentBars d)).filter (fun e => !d.sent.contains e.1))).filter s.groupDue
  let s := gs.foldl (State.launchGroup unsent) s
  { s with fire := { s.fire with descs := s.fire.descs.map (fun (e : Desc) =>
      if e.line = d.line then { e with sent := e.sent ++ gs.flatMap Later.slots } else e) } }

/-- How long before its target a line's target freezes: `freeze_tclk`, or the launch of its earliest group when that is sooner
(R190, R274; log 26). -/
def State.freezeLead (s : State) (d : Desc) : Nat :=
  max ((s.view d.line).val P.fireSchedFreezeTclk) ((s.view d.line).val P.fireSchedAdvanceTclk +
    ((s.fireSlots d []).map (fun e => (since d.target (s.slotTarget d e.1)).toNat)).foldl max 0)

/-- Freeze the target of a line; a line the web has not reached falls back to its edge (R190, R191). -/
def State.freeze (s : State) (line : Nat) : State :=
  let late := decide (1 < since line s.pos)
  { s with fire := { s.fire with
      descs := s.fire.descs.map (fun d => if d.line = line then { d with frozen := true, fallback := late } else d)
      fallbacks := if late then sat 32 (s.fire.fallbacks + 1) else s.fire.fallbacks } }

/-- The freeze time of the oldest unfrozen scheduled line has come. -/
def execTargetFreeze (dt : Nat) (s : State) : Next :=
  let s := s.pass dt
  match s.fire.descs.find? (fun d => !d.edge && !d.frozen) with
  | some d => if s.reached32 (back d.target (s.freezeLead d)) then .next (s.freeze d.line) else .next s
  | none => .next s

/-- DAMPER refines the targets that are not frozen (R190). -/
def State.refine (s : State) : State :=
  { s with fire := { s.fire with descs := s.fire.descs.map (fun d =>
      if d.edge ∨ d.frozen then d else
      match s.predict d.line with
      | some t => { d with target := t % 2 ^ 32, t32 := s.t32At (t % 2 ^ 32) }
      | none => d) } }

/-! ### Edge fire -/

/-- A line fires on its edge (R188): lanes whose frames have not left are held (R194). `at_` is the moment it fires, `edge` the link
time of its edge. -/
def State.edgeFire (s : State) (d : Desc) (at_ edge : Nat) (unsent : List Nat) : State :=
  let silent := s.silentBars d
  let s := s.noFireOn d.line silent
  if silent.length = 8 then s.retire d.line else
  let slots := s.fireSlots d silent
  let lanes := (slots.map Prod.snd).eraseDups
  let held := lanes.filter (fun c => slots.any (fun e => e.2 == c && s.unsentOf unsent d.line e.1))
  let s := lanes.foldl (fun s c => if held.contains c then s else s.fireEdge d.line c edge ((slots.filter (fun e => e.2 == c)).map Prod.fst)) s
  let s := { s with fire := { s.fire with heldL := s.fire.heldL ++ held.map (fun c => (c, d.line, edge)) } }
  let s := if held.isEmpty then s else s.fault F.fireOverspeed 0
  (s.legacyDue d silent (s.clk.tclk + 3)).fired d.line at_

/-- Lanes still held when the next line's edge comes print no-fire for the held line (R194). -/
def State.dropHeld (s : State) : State :=
  let lines := (s.fire.heldL.map (fun e => e.2.1)).eraseDups
  let s := { s with fire := { s.fire with heldL := [] } }
  lines.foldl (fun s l => s.fault F.lineSkip l) s

/-- A scheduled line that follows falls due before a moment, so a postponement to that moment carries the line past it (R193). -/
def State.pastNext (s : State) (line need : Nat) : Bool :=
  match s.fire.descs.find? (fun e => decide (0 < since e.line line)) with
  | some e => !e.edge && !e.fallback && decide (since e.target need < 0)
  | none => false

/-- A line reached by an edge fires, or is postponed or dropped by the overspeed rule (R188, R193). -/
def State.edgeLine (s : State) (d : Desc) (unsent : List Nat) : State :=
  let need := (s.fire.lastLink + minFireGap) % 2 ^ 32
  if s.fb.stalled ∧ !s.activeDead then s
  else if s.fire.lastFired.isSome ∧ since s.link need < 0 then
    if s.pastNext d.line need then ((s.fault F.fireOverspeed 0).skipLine d.line).fault F.lineSkip d.line else
    ({ s with fire := { s.fire with descs := s.fire.descs.map (fun (e : Desc) =>
        if e.line = d.line then { e with held := true, target := need, edgeAt := s.link } else e) } }).fault F.fireOverspeed 0
  else s.edgeFire d s.link s.link unsent

/-- A postponed line fires once 5,208 TCLK have passed since the line before it (R193). -/
def State.firePostponed (s : State) (unsent : List Nat) : State :=
  match s.fire.descs with
  | d :: rest =>
    let need := (s.fire.lastLink + minFireGap) % 2 ^ 32
    if !d.held ∨ !s.reached32 d.target then s
    else if s.fire.lastFired.isSome ∧ since d.target need < 0 then
      { s with fire := { s.fire with descs := { d with target := need } :: rest } }
    else s.edgeFire d d.target d.edgeAt unsent
  | [] => s

/-- The launch time of the oldest line has come: overspeed postpones or drops it (R193), else it launches. -/
def State.launchFront (s : State) (unsent : List Nat) : State :=
  match s.fire.descs with
  | [] => s
  | d :: rest =>
    if d.held then s.firePostponed unsent
    else if d.edge ∨ !d.frozen ∨ d.fallback ∨ !s.launchPassed d ∨ (s.fb.stalled ∧ !s.activeDead) then s else
    let need := (s.fire.lastLink + minFireGap) % 2 ^ 32
    if s.fire.lastFired.isSome ∧ since d.target need < 0 then
      let s := s.fault F.fireOverspeed 0
      let dropped := match rest with | e :: _ => !e.edge && decide (since e.target need < 0) | [] => false
      if dropped then ((s.trigDue [d.line] (s.tclkAt d.target)).skipLine d.line).fault F.lineSkip d.line
      else
        let d' := { d with target := need, t32 := s.t32At need }
        let s := { s with fire := { s.fire with descs := d' :: rest } }
        if s.launchPassed d' then s.launch d' unsent else s
    else s.launch d unsent

/-- A launch time of a scheduled line has come: its own, or that of a group of slots of another phase. -/
def execScheduledFireLaunch (dt : Nat) (unsent : List (Fin 160)) (s : State) : Next :=
  let s := s.pass dt
  let un := unsent.map Fin.val
  let s := (s.launchLater un).launchFront un
  .next (s.fire.descs.foldl (State.launchEarly un) s)

/-- The release of a held lane: its slots fire at once, but for those whose frames still have not left (R194, R266); without TCLK lock or
from a unit declared lost they print no-fire (R24, R215). -/
def execHeldFireRelease (dt : Nat) (lane : Fin 36) (unsent : List (Fin 160)) (s : State) : Next :=
  let s := s.pass dt
  match s.fire.heldL.find? (fun e => e.1 == lane.val) with
  | none => .next s
  | some e =>
    let slots := (List.range 160).filter (fun i => s.laneFor i e.2.1 == some lane.val && !s.isLate e.2.1 (i / 20))
    let un := unsent.map Fin.val
    let late := slots.filter (s.unsentOf un e.2.1)
    let go := slots.filter (fun i => !s.unsentOf un e.2.1 i)
    let s := { s with fire := { s.fire with heldL := s.fire.heldL.filter (fun x => x.1 != lane.val) } }
    if s.fire.unlock ∨ s.activeDead then .next (s.noFireOn e.2.1 ((slots.map (· / 20)).eraseDups)) else
    let s := late.foldl (State.frameUnsent e.2.1) s
    .next (s.fireEdge e.2.1 lane.val e.2.2 go)

/-! ### The legacy port (R287) -/

/-- The shift of a line, which begins once its codes are ready and LG_LATCH of the line before has ended, is over, and 16 ns have passed. -/
def State.shiftOver (s : State) (line : Nat) : Bool :=
  match s.fire.shift.find? (fun e => e.1 == line) with
  | some e => decide (max e.2 s.fire.latchEnd + (2560 * s.parReset P.linkLegacySckDiv + 10) ≤ s.clk.tclk)
  | none => false

/-- The STROBE of an earlier line is still to come. -/
def State.strobeAhead (s : State) (line : Nat) : Bool := match s.fire.strobeDue with | some (l, _) => l != line | none => false

/-- LG_LATCH rises for a line: after its shift, and 40 ns after the last STROBE ended. -/
def execLegacyLatch (dt line : Nat) (s : State) : Next :=
  let s := s.pass dt
  if !s.shiftOver line ∨ s.strobeAhead line ∨ (s.fire.strobe ∧ s.clk.tclk < s.fire.strobeEnd + tclk40ns) then .next s
  else .next (({ s with fire := { s.fire with latched := some line, latchEnd := s.clk.tclk + tclk32ns,
                                              shift := s.fire.shift.filter (fun e => decide (0 < since e.1 line)) } }).emit (.legacy line 0x1000 []))

/-- STROBE rises for a line whose strobe is due; it stays low when the latch has not ended 200 ns before (R287, R289). -/
def execLegacyStrobe (dt line : Nat) (s : State) : Next :=
  let s := s.pass dt
  match s.fire.strobeDue with
  | some (l, t) =>
    if l = line ∧ t ≤ s.clk.tclk then
      -- without TCLK lock the strobe stays low (R24)
      let s := { s with fire := { s.fire with strobeDue := none } }
      if s.fire.unlock then .next s
      else if s.fire.latched ≠ some line ∨ t < s.fire.latchEnd + tclk200ns then .next (s.fault F.legacyLate line) else
      .next (({ s with fire := { s.fire with strobe := true, strobeEnd := t + s.parLine P.linkLegacyStrobeTclk } }).emit
        (.legacy line 0x2000 []))
    else .next s
  | none => .next s

/-! ### Late lines (R33, R126) -/

/-- Bar of a monitor, if it measures one (R30). -/
def monBar (m : Nat) : Option Nat := if m < 48 then some (m / 6) else if 54 ≤ m ∧ m ≤ 61 then some (m - 54) else none

/-- GRATE b is held in reset or its reset runs, so the bar carries no work (R30, R464, R465). -/
def State.barReset (s : State) (b : Nat) : Bool :=
  s.faults.heldR.contains (8 + b) || s.inReset (8 + b)

/-- A monitor carries work in a line (R30). -/
def State.carries (s : State) (m line : Nat) : Bool :=
  match monBar m with
  | some b => !s.barReset b && !(gSlots (s.barGeo b line) b).isEmpty
  | none => if m = 48 ∨ m = 49 then m == 48 + (s.view line).desc.unit else true

/-- A line issued late after a fail-over that goes late is lost (R219). -/
def State.lateAfterFailover (s : State) (line : Nat) : State :=
  if s.fb.overdue ≠ some line then s else
  let s := { s with fb := { s.fb with overdue := none } }
  if s.fb.lostN = 0 then s.lostLines [line]
  else { s with fb := { s.fb with lostLines := sat 32 (s.fb.lostLines + 1), lost1 := line, lostN := 2 } }

/-- The record of a line is a source already (R33): bar 8 stands for LATE_LINE. -/
def State.recorded (s : State) (line b : Nat) : Bool := s.draught.recd.contains (line, b) || s.draught.recd.contains (line, 8)

/-- FETCH_LATE of a line on a bar (R126); `ptrs` are the late pointers. -/
def State.fetchLate (s : State) (line b : Nat) (ptrs : List (Nat × Nat)) : State :=
  let slots := ptrs.map Prod.fst
  let low := slots.foldl min (slots.headD ((s.enabledSlots b).headD 0))
  let one : Bool := decide (ptrs.length = 1)
  let rg := (ptrs.headD (0, 0)).2
  let split : Bool := match s.ptrRun b low rg line with | some r => gSplit r.g b low | none => false
  let w := ((sel s.raster.win (winKey (20 * b + low) rg split) []).find? (fun w => w.line == line)).getD {}
  let j := s.job (w.tag.getD 0)
  let inRep := w.k % max 1 j.repLines
  let s := s.defect { kind := 4, bar := b, slot := if one then low else 0xFF, rg := if one ∧ split then rg else 0xFF,
                      index := w.tag.getD 0xFFFF, rep := w.rep, pl := if j.pre then inRep else inRep / 2, line := line, count := 1 }
  s.fault F.fetchLate (20 * b + low)

/-- BAR_LATE of a line on a bar (R33). -/
def State.stageLate (s : State) (line b : Nat) : State :=
  let s := s.defect { kind := 5, bar := b, index := (((s.barRun b line).filter (fun r => !r.finished)).map Run.job).getD 0xFFFF, line := line, count := 1 }
  s.fault F.barLate b

/-- A monitor's deadline is missed in a line (R33). -/
def execDraughtDeadlineMiss (dt : Nat) (mon : Fin 64) (line : Nat) (late : List (Fin 20 × Fin 2)) (s : State) : Next :=
  let s := s.pass dt
  let m := mon.val
  if !s.carries m line ∨ (look s.fire.views line).isNone then .next s else
  let s := { s with draught := { s.draught with missed := addTo s.draught.missed (line, m) } }
  let s := if m = 50 ∨ m < 51 ∨ (54 ≤ m ∧ m ≤ 61) then s.lateAfterFailover line else s
  let mark (s : State) (b : Nat) : State := { s with draught := { s.draught with recd := s.draught.recd ++ [(line, b)] } }
  if m = 48 ∨ m = 49 ∨ m = 50 then
    let s := { s with raster := { s.raster with lateAll := addTo s.raster.lateAll line } }
    if s.draught.recd.contains (line, 8) then .next s else .next ((mark s 8).fault F.lateLine line)
  else match monBar m with
    | none => .next s
    | some b =>
      let s := s.barLate line b
      if s.recorded line b then .next s
      else if m < 48 ∧ m % 6 = 0 then .next ((mark s b).fetchLate line b (late.map (fun e => (e.1.val, e.2.val))))
      else .next ((mark s b).stageLate line b)

/-! ### The DRAUGHT chain (R32 to R38) -/

/-- DAMPER lowers the DRAUGHT contribution by one step, not below its floor (R36); at the floor nothing is lowered and nothing recorded. -/
def State.lowerDraught (s : State) : State :=
  let c := s.motion.draught
  if c ≤ s.par P.motionCeilingDraughtFloorLps then s else
  let low := max (s.par P.motionCeilingDraughtFloorLps) (c - c * s.par P.motionCeilingDraughtStepPm / 1000)
  let s := { s with motion := { s.motion with draught := min c low }, draught := { s.draught with sinceLow := some 0 } }
  (s.fault F.draughtCeiling 0).refresh

/-- A line of the CEILING or LATE band: the contribution falls, or DRAUGHT_FLOOR is recorded, at the cadence of R36 and R38. -/
def State.ceilingLine (s : State) : State :=
  let gap := s.par P.motionCeilingDraughtMinLines
  let due (o : Option Nat) : Bool := match o with | some n => decide (gap ≤ n) | none => true
  if s.motion.draught ≤ s.par P.motionCeilingDraughtFloorLps then
    if due s.draught.sinceFloor then
      ({ s with draught := { s.draught with sinceFloor := some 0 } }).fault F.draughtFloor 0 else s
  else if due s.draught.sinceLow then s.lowerDraught else s

/-- The smallest ratio each monitor has shown (R39). -/
def keepMin (m : SMap Nat) (l : List MonRec) : SMap Nat :=
  l.foldl (fun m r => if r.ratio < sel m r.mon 0xFFFF then put m r.mon r.ratio else m) m

/-- A closed line counts in the present window (R32, R34); one that closes when the window already has its lines waits for the next. -/
def Draught.count (d : Draught) (window : Nat) (margin relax : Bool) : Draught :=
  if window ≤ d.lines then { d with ahead := d.ahead ++ [(margin, relax)] }
  else { d with lines := d.lines + 1, margin := d.margin || margin, allRelax := d.allRelax && relax }

/-- The line lies in a window: none waits for the readback, and its boundary came after it (R34). -/
def Draught.inWindow (d : Draught) (line : Nat) : Bool :=
  !d.waiting && (match d.winFrom with | some p => decide (0 ≤ since line p) | none => true)

/-- The monitors of a line are complete: its worst ratio places it in a band (R31, R32). -/
def execDraughtLineClose (dt line : Nat) (mons : List MonRec) (s : State) : Next :=
  let s := s.pass dt
  let mons := mons.filter (fun r => decide (r.mon < 64))
  let w := ((mons.filter (fun r => s.carries r.mon line)).map MonRec.ratio).foldl min 0xFFFF
  let late := s.draught.missed.any (fun e => e.1 == line)
  let bump (o : Option Nat) : Option Nat := o.map (· + 1)
  let margin := decide (w < s.par P.manageDraughtHiRatio) || late
  let low := decide (w < s.par P.manageDraughtLoRatio) || late || (margin && s.draught.stopped)
  let d := if s.draught.inWindow line then
      s.draught.count (s.par P.manageDraughtWindowLines) margin (decide (s.par P.manageDraughtRelaxRatio ≤ w) && !late) else s.draught
  let s := { s with draught := { d with
      minR := keepMin d.minR mons
      worst := w
      sinceLow := bump d.sinceLow
      sinceFloor := bump d.sinceFloor
      good := if low then 0 else if margin then 0 else d.good + 1
      missed := d.missed.filter (fun e => e.1 != line)
      recd := d.recd.filter (fun e => e.1 != line) } }
  if low then .next s.ceilingLine else .next s

/-- The contribution rises after `recover_lines` good lines (R36). -/
def execDraughtRecover (dt : Nat) (s : State) : Next :=
  let s := s.pass dt
  if s.draught.good < s.par P.motionCeilingRecoverLines then .next s else
  let c := s.motion.draught
  let s := { s with motion := { s.motion with draught := max c (min s.pressMax (c + c * s.par P.motionCeilingRecoverStepPm / 1000)) },
                    draught := { s.draught with good := 0 } }
  .next s.refresh

/-- STOKER writes a new VCORE setpoint and waits for its readback (R34, R476): lines closed meanwhile lie in no window. -/
def State.setVcore (s : State) (mv : Nat) : State :=
  { s with draught := { s.draught with setMv := mv, waiting := true, lines := 0, margin := false, allRelax := true, ahead := [] }, mgmt := { s.mgmt with vcoreAt := s.now } }.vcoreBus
    [(0x21, some mv), (0x8B, none)]

/-- The next window begins with the lines that have closed since the last had its own (R34). -/
def Draught.nextWindow (d : Draught) (window relaxN : Nat) : Draught :=
  d.ahead.foldl (fun d e => d.count window e.1 e.2) { d with lines := 0, margin := false, allRelax := true, relaxN := relaxN, ahead := [], winFrom := none }

/-- A window ends (R32, R34, R35). A step down of VCORE starts the count of relaxed windows again (log 72); at `max_mv` the contribution
falls without regard to the cadence of R36, which it restarts (log 73). -/
def execDraughtWindowEnd (dt : Nat) (s : State) : Next :=
  let s := s.pass dt
  let d := s.draught
  if d.waiting ∨ d.lines < s.par P.manageDraughtWindowLines then .next s else
  let relaxN := if d.allRelax then d.relaxN + 1 else 0
  let s := { s with draught := d.nextWindow (s.par P.manageDraughtWindowLines) relaxN }
  if d.margin then
    let s := s.fault F.draughtMargin 0
    if s.par P.manageVcoreMaxMv ≤ d.setMv then .next ((s.fault F.vcoreAtMax 0).lowerDraught)
    else if d.stopped then .next s
    else .next (s.setVcore (min (s.par P.manageVcoreMaxMv) (d.setMv + s.par P.manageVcoreStepMv)))
  else if s.par P.manageDraughtRelaxWindows ≤ relaxN then
    let s := { s with draught := { s.draught with relaxN := 0 } }
    let low := max (s.par P.manageVcoreMinMv) (d.setMv - s.par P.manageVcoreStepMv)
    if d.stopped ∨ d.setMv ≤ low then .next s else .next (s.setVcore low)
  else .next s

/-- The PMBus readback after a step (R34, R35, R505). `now_mv` holds what was read, within its range of R39 (log 77). A setpoint whose
write or readback failed stays the base of later steps (log 78). -/
def execVcoreReadback (dt : Nat) (ack : Bool) (mv : Nat) (s : State) : Next :=
  let s := s.pass dt
  if !s.draught.waiting then .next s else
  let good := ack && decide (mv ≤ s.draught.setMv + 10 ∧ s.draught.setMv ≤ mv + 10)
  let s := { s with draught := { s.draught with nowMv := if ack then max 680 (min 860 mv) else s.draught.nowMv } }
  if good then .next { s with draught := { s.draught with waiting := false, winFrom := some s.fire.next } }
  else .next (({ s with draught := { s.draught with stopped := true, waiting := false, winFrom := some s.fire.next } }).fault F.vcorePmbus 0)

end Sys2Proof.Machine
end

