-- ==== Sys2Proof/Machine/FireboxPair.lean ====
section
/-!
DEFINITION. The FIREBOX pair outside an issue: heartbeats (R213, R215), the private link (R207, R214, R221),
resynchronisation (R222), the return to A (R224, R225) and the DIAG commands on the pair (R228, R535).
-/
namespace Sys2Proof.Machine

/-- Unanswered requests of a unit after a request (R213): `lostMark` once its heartbeat is declared lost. -/
def missNext (limit miss : Nat) (tog : Bool) : Nat :=
  if tog then 0 else if limit ≤ miss + 1 then lostMark else miss + 1

/-- The private link has failed while both heartbeats are alive (R221, R222). -/
def State.linkFails (s : State) : State :=
  let v := s.fb.standby
  let st := s.fb.st v
  let s := { s with fb := { s.fb with linkBad := true, asked := false, sent := none } }
  let s := if st = 3 then s.resyncFails
    else if st = 1 ∨ st = 2 then
      { s with fb := { s.fb.setSt v 4 with retryAt := fwd s.fb.lastIssue (s.par P.fireFbResyncRetryLines), clean := 0 } }
    else s
  s.raise F.fbLink 0

/-- The private link delivers again. -/
def State.linkReturns (s : State) : State :=
  if s.fb.linkBad then { s with fb := { s.fb with linkBad := false } }.lower F.fbLink 0 else s

/-- Row of the table of R215. -/
def State.hbRow (s : State) (lostActive lostStandby : Bool) : Nat :=
  if lostActive then (if lostStandby then 4 else if s.fb.eligible then 2 else 3) else if lostStandby then 1 else 0

/-- The decision of the table of R215; a fail-over or a lost standby is decided when its row is newly reached. -/
def State.judge (s : State) (lostActive lostStandby : Bool) : State :=
  let row := s.hbRow lostActive lostStandby
  let new := row != s.fb.row
  let s := { s with fb := { s.fb with row := row } }
  let s := if lostActive && lostStandby then s else s.lower F.fbBothHb 0
  let s := if lostActive && !lostStandby then s else s.lower F.fbNoStandby 0
  if lostActive && lostStandby then s.raise F.fbBothHb 0
  else if lostActive then
    if !s.fb.eligible then s.raise F.fbNoStandby 0 else if new then s.fault F.fbActiveHb 0 else s
  else if lostStandby then
    if new && s.fb.st s.fb.standby != 5 then s.standbyFaulty F.fbStandbyHb else s
  else if s.fb.linkA && s.fb.linkB then s.linkReturns else s.linkFails

/-- A heartbeat request, every 256 TCLK: which units have toggled their line since the request before it (R213, R215). -/
def execHeartbeatRequest (dt : Nat) (aTog bTog : Bool) (s : State) : Next :=
  let s := s.pass dt
  if s.clk.tclk < s.fb.hbAt + 256 then .next s else
  let lim := s.par P.fireFbHbMiss
  let a := missNext lim s.fb.missA aTog
  let b := missNext lim s.fb.missB bTog
  let s := { s with fb := { s.fb with missA := a, missB := b, hbAt := s.clk.tclk } }
  if s.fb.active = 0 then .next (s.judge (a == lostMark) (b == lostMark)) else .next (s.judge (b == lostMark) (a == lostMark))

/-- A unit (false A, true B) receives a good frame (R214). -/
def State.linkFrame (s : State) (unit : Bool) : State :=
  { s with fb := if unit then { s.fb with linkB := true, linkTB := s.clk.tclk } else { s.fb with linkA := true, linkTA := s.clk.tclk } }

/-- The state record reaches the standby: a good one is committed, and a SYNCING standby loads it (R222); a bad one is asked for once more,
then the link has failed (R207). -/
def execStateRecordReceive (dt : Nat) (good : Bool) (s : State) : Next :=
  let s := s.pass dt
  match s.fb.sent with
  | none => .next s
  | some r =>
    if good then
      .next ({ s with fb := { s.fb with prev := s.fb.saved, saved := some r, sent := none, asked := false, load := false } }.linkFrame (s.fb.standby == 1))
    else if s.fb.asked then .next s.linkFails
    else .next { s with fb := { s.fb with asked := true } }

/-- A unit (false A, true B) has had no good frame for 4,096 TCLK (R214). -/
def execPrivateLinkTimeout (dt : Nat) (unit : Bool) (s : State) : Next :=
  let s := s.pass dt
  if s.clk.tclk < (if unit then s.fb.linkTB else s.fb.linkTA) + 4096 then .next s else
  .next { s with fb := if unit then { s.fb with linkB := false } else { s.fb with linkA := false } }

/-- A unit (false A, true B) receives a good idle frame (R214). -/
def execPrivateLinkIdleFrame (dt : Nat) (unit : Bool) (s : State) : Next :=
  let s := s.pass dt
  .next (s.linkFrame unit)

/-- STOKER retries the resynchronisation of a STALE standby every `resync_retry_lines` lines (R221, R222). -/
def execResyncRetry (dt : Nat) (s : State) : Next :=
  let s := s.pass dt
  let v := s.fb.standby
  if s.fb.st v ≠ 4 ∨ since s.fb.lastIssue s.fb.retryAt < 0 then .next s
  else if s.fb.linkA && s.fb.linkB then
    .next { s with fb := { s.fb.setSt v 3 with syncLeft := s.par P.fireFbResyncLines, load := true } }
  else .next s.resyncFails

/-- A unit's last checkpoint: its newest record whose descriptor passed the comparison (R208). -/
def FireBox.lastCheck (f : FireBox) (u : Nat) : Option FbRec := (if u = 0 then f.ckA else f.ckB).find? FbRec.passed

/-- Resynchronisation has matched `resync_lines` lines and the standby passes to COPY (R222, R223). -/
def execResyncComplete (dt : Nat) (s : State) : Next :=
  let s := s.pass dt
  let v := s.fb.standby
  if s.fb.st v = 3 ∧ s.fb.syncLeft = 0 then
    .next { s with fb := { s.fb.setSt v 1 with clean := 0, saved := s.fb.lastCheck s.fb.active } }
  else .next s

/-- The selector moves to the standby between two launches, losing no line (R224). -/
def State.switchPair (s : State) : State :=
  let u := s.fb.active
  let v := s.fb.standby
  let fb := (s.fb.setSt u 1).setSt v 0
  { s with fb := { fb with active := v, saved := s.fb.lastCheck u, prev := none, sent := none,
                           lockLeft := 0 } }.fault F.fbReturn 0

/-- The automatic return to A (R224, R227). -/
def execFireboxAutoReturn (dt : Nat) (s : State) : Next :=
  let s := s.pass dt
  if s.par P.fireFbAutoReturn = 1 ∧ s.fb.active = 1 ∧ s.fb.eligible ∧ s.par P.fireFbReturnLines ≤ s.fb.clean ∧ !s.fb.halted then
    .next s.switchPair
  else .next s

/-- 0x1001 DIAG firebox status (R228, R535). -/
def execDiagFireboxStatus (dt : Nat) (who : Sess) (s : State) : Next :=
  let s := s.pass dt
  .next (s.runCmd who 0x1001 (fun c => plain s c 0 (vet s (
    let f := s.fb
    .done St.ok (leB 1 f.stA ++ leB 1 f.stB ++ leB 1 f.active ++ leB 1 0 ++ leB 4 f.clean ++ leB 4 f.failovers ++ leB 4 f.lostLines ++
      leB 4 f.mism ++ leB 4 f.foT32.toNat ++ leB 1 f.foFrom ++ leB 1 f.foTo ++ leB 2 f.foSrc ++ leB 4 f.lost0 ++ leB 4 f.lost1 ++
      leB 1 f.lostN ++ leB 3 0) s))))

/-- A reaction of the collector falls due at the coming line boundary: a HOLD_FIRE or a mute the line issued last does not carry (R227). -/
def State.reactionDue (s : State) : Bool :=
  match look s.fire.views s.fb.lastIssue with
  | some v => (s.fireHeld && !v.desc.noFire) || (List.range 160).any (fun i => s.faultMuted i && !v.desc.mute.contains i)
  | none => false

/-- 0x1002 DIAG firebox switch (R225, R227). -/
def execDiagFireboxSwitch (dt : Nat) (who : Sess) (s : State) : Next :=
  let s := s.pass dt
  .next (s.runCmd who 0x1002 (fun c => plain s c 0 (vet s (
    need s (s.fb.eligible && decide (65536 ≤ s.fb.clean) && !s.fb.halted && !s.reactionDue) St.state (
      .done St.ok (leB 4 s.fire.next) s.switchPair)))))

/-- 0x1003 DIAG firebox lockstep (R228). -/
def execDiagFireboxLockstep (dt : Nat) (who : Sess) (s : State) : Next :=
  let s := s.pass dt
  .next (s.runCmd who 0x1003 (fun c =>
    let n := u32 c.pay 0
    plain s c 4 (need s (decide (1024 ≤ n ∧ n ≤ 16777216)) St.badParam (vet s (need s s.fb.eligible St.state (
      .done St.ok [] { s with fb := { s.fb.setSt s.fb.standby 2 with lockLeft := if s.fb.st s.fb.standby = 2 then max s.fb.lockLeft n else n } }))))))

end Sys2Proof.Machine
end

