-- ==== Sys2Proof/Machine/Motion.lean ====
section
/-!
DEFINITION. DAMPER (chapter 10): quadrature steps, index, web and fire position, encoder faults, marks, the ceiling messages
and the MOTION commands.
-/
namespace Sys2Proof.Machine

/-! ### The web position (R301, R302, R312) -/

/-- What a correction removes over the next stretch of travel. -/
def Corr.remove (c : Corr) (by_ : Nat) : Int :=
  c.total * (min c.span (c.done + by_) : Nat) / (c.span : Int) - c.took

/-- A correction after a stretch of travel. -/
def Corr.advance (c : Corr) (by_ : Nat) : Corr :=
  { c with done := min c.span (c.done + by_), took := c.total * (min c.span (c.done + by_) : Nat) / (c.span : Int) }

/-- Corrections after a stretch of travel: the finished ones are forgotten. -/
def advanceAll (l : List Corr) (by_ : Nat) : List Corr := (l.map (fun c => c.advance by_)).filter (fun c => c.done < c.span)

/-- What all corrections remove. -/
def removeAll (l : List Corr) (by_ : Nat) : Int := (l.map (fun c => c.remove by_)).sum

/-- Points of the velocity model that are kept: two windows of 1,024 edges. -/
def velPoints : Nat := 2049

/-- One count of the fire channel moves W (R302) with its corrections (R301, R312) and feeds the velocity model (R307). -/
def State.unitStep (s : State) (forward : Bool) : State :=
  let m := s.motion
  let wu := s.parLine (P.motionEncCountWu m.fireCh)
  let trim := if forward then removeAll m.trim wu else 0
  let w := m.w + (if forward then (wu : Int) else -(wu : Int)) - removeAll m.corr 1 - trim
  let keep := forward || m.vValid
  { s with motion := { m with
      w := w
      corr := advanceAll m.corr 1
      trim := if forward then advanceAll m.trim wu else m.trim
      vSince := if m.vValid then m.vSince + 1 else 0
      vEdges := if forward then m.vEdges + 1 else if m.vValid then m.vEdges else 0
      vTimes := if keep then ((s.clk.tclk, w) :: m.vTimes).take velPoints else [] } }

/-- The model is valid after 16 consecutive forward edges (R307). -/
def State.velCheck (s : State) : State :=
  if !s.motion.vValid ∧ 16 ≤ s.motion.vEdges then { s with motion := { s.motion with vValid := true } }.refresh else s

/-- Scheduled lines that have not fired fall back to their edges (R191, R305). -/
def State.fallBack (s : State) : State :=
  let n := (s.fire.descs.filter (fun d => !d.edge && !d.fallback)).length
  { s with fire := { s.fire with
      descs := s.fire.descs.map (fun d => if d.edge then d else { d with frozen := true, fallback := true })
      fallbacks := sat 32 (s.fire.fallbacks + n) } }

/-- The count of the fire channel against its maximum (R305). -/
def State.reverseCheck (s : State) (delta : Int) : State :=
  let c := s.motion.fireCh
  let e := s.enc c
  let pos := e.pos + delta
  let s := s.setEnc c { e with pos := pos, maxPos := max e.maxPos pos }
  if !s.motion.rev ∧ (s.par P.motionFireRevwin : Int) < e.maxPos - pos then
    let s := s.setEnc c { s.enc c with ref := none }
    let s := ({ s with motion := { s.motion with rev := true } }).invalidate.fallBack
    s.fault F.reverse 0
  else s

/-- Lines that an edge reaches: the last fires, the others go out as no-fire (R188, R193, R194). -/
def State.reachLines (s : State) (unsent : List Nat) : State :=
  if s.fb.stalled ∧ !s.activeDead then s else
  let s := s.firePostponed unsent
  let s := s.dropHeld
  let due := s.fire.descs.filter (fun d => (d.edge || d.fallback) && decide (0 ≤ since s.pos d.line))
  let skip := due.filter (fun d => d.line != s.pos)
  let s : State := match skip with
    | [] => s
    | d :: _ => ((skip.map Desc.line).foldl State.skipLine s).fault F.lineSkip d.line
  match due.getLast? with
  | some d => if d.line = s.pos then s.edgeLine d unsent else s
  | none => s

/-- W has moved: W_max, the end of a REVERSE suspension and the fire position follow (R302, R305). -/
def State.reachWeb (s : State) (unsent : List Nat) : State :=
  if s.motion.w ≤ s.motion.wMax then s else
  let old := s.posRaw
  let s := { s with motion := { s.motion with wMax := s.motion.w } }
  let s := if s.motion.rev then
      let c := s.motion.fireCh
      (({ s with motion := { s.motion with rev := false } }).setEnc c { s.enc c with maxPos := (s.enc c).pos }).refresh
    else s
  let n := s.posRaw - old
  if n = 0 then s else
  let per := match s.fire.crossAt with | some t => some (max 1 ((s.clk.tclk - t) / n)) | none => s.fire.period
  let s := s.trigEdge ((List.range n).map (fun i => (old + 1 + i) % 2 ^ 32))
  ({ s with fire := { s.fire with crossAt := some s.clk.tclk, period := per } }).reachLines unsent

/-- The fire channel's count moves by 1 or 2 (R298 to R308). -/
def State.stepWeb (s : State) (delta : Int) (unsent : List Nat) : State :=
  let was := s.motion.w
  let s := (List.range delta.natAbs).foldl (fun s _ => s.unitStep (decide (0 < delta))) s
  let s := { s with motion := { s.motion with lastEdge := s.now, wAt := s.clk.tclk,
                                                      wWas := if s.motion.wAt = s.clk.tclk then s.motion.wWas else was } }
  let s := (s.velCheck).reverseCheck delta
  ((s.reachWeb unsent).refine).refresh

/-- While the fire and the backup channel are OK their distances are compared (R304). -/
def State.track (s : State) (c : Nat) (delta : Int) : State :=
  match s.backup with
  | none => s
  | some b =>
    let f := s.motion.fireCh
    if c ≠ f ∧ c ≠ b then s else
    let reset (s : State) : State := (s.setEnc f { s.enc f with dist := 0 }).setEnc b { s.enc b with dist := 0 }
    if s.encState f ≠ 1 ∨ s.encState b ≠ 1 then reset s else
    let s := s.setEnc c { s.enc c with dist := (s.enc c).dist + delta * s.parLine (P.motionEncCountWu c) }
    let d := ((s.enc f).dist - (s.enc b).dist).natAbs
    if s.par P.motionFireTrackTolWu * wuUnit < d then (reset s).fault F.encTrack 0 else s

/-- A channel's count moves; at the backup's edge it takes over from a FAILED fire channel (R298, R304). -/
def State.moveCount (s : State) (c : Nat) (delta : Int) (unsent : List Nat) : State :=
  let e := s.enc c
  let s := s.setEnc c { e with count := BitVec.ofInt 32 ((e.count.toNat : Int) + delta) }
  let s := if s.backup = some c ∧ s.encState s.motion.fireCh = 2 then (s.setFire c).fault F.encSwitch 0 else s
  let s := s.track c delta
  if s.motion.fireCh = c then s.stepWeb delta unsent else s

/-- Place of (A, B) in the forward sequence 00, 01, 11, 10 (R298). -/
def quad (a b : Bool) : Nat := if a then (if b then 2 else 3) else (if b then 1 else 0)

/-- Steps along the sequence between two states of a channel, 0 to 3 (R298). -/
def quadSteps (invert : Bool) (a b a' b' : Bool) : Nat :=
  let d := (quad a' b' + 4 - quad a b) % 4
  if invert then (4 - d) % 4 else d

/-- A line takes a new filtered level only F + 1 samples after it took the last (R296). -/
def State.filtered (s : State) (f at_ : Nat) (old new : Bool) : Bool := old != new && decide (at_ + f + 1 ≤ s.clk.tclk)

/-- A quadrature step of a channel: its new levels, of which a pulse shorter than the filter is ignored (R296), and the slots whose frames have not left by an edge fire (R194, R298, R299). -/
def execEncoderEdge (dt : Nat) (ch : Fin 4) (a b : Bool) (unsent : List (Fin 160)) (s : State) : Next :=
  let s := s.pass dt
  let c := ch.val
  let e := s.enc c
  let f := s.par (P.motionEncFilter c)
  let na := s.filtered f e.aAt e.a a
  let nb := s.filtered f e.bAt e.b b
  let d := quadSteps (s.par (P.motionEncInvert c) == 1) e.a e.b (if na then a else e.a) (if nb then b else e.b)
  let s := s.setEnc c { e with a := if na then a else e.a, b := if nb then b else e.b, aAt := if na then s.clk.tclk else e.aAt,
                               bAt := if nb then s.clk.tclk else e.bAt }
  let un := unsent.map Fin.val
  if s.encState c ≠ 1 then .next s
  else match d with
    | 0 => .next s
    | 1 => .next ((s.setEnc c { s.enc c with dir := 1 }).moveCount c 1 un)
    | 3 => .next ((s.setEnc c { s.enc c with dir := 2 }).moveCount c (-1) un)
    | _ =>
      if e.dir = 0 then
        let s := s.fault F.qambig c
        .next (if s.motion.fireCh = c then s.invalidate else s)
      else .next ((s.fault F.qskip c).moveCount c (if e.dir = 1 then 2 else -2) un)

/-! ### Encoder faults and the index -/

/-- A wire disagreement has lasted `wire_tclk` samples (R297, R577). -/
def execEncWire (dt : Nat) (ch : Fin 4) (wire : Fin 3) (s : State) (held : Nat := 65535) : Next :=
  let s := s.pass dt
  let c := ch.val
  if s.par (P.motionEncEnable c) = 0 ∨ held < s.par (P.motionEncWireTclk c) then .next s else
  let e := s.enc c
  let s := s.setEnc c { e with wires := addTo e.wires wire.val, failed := e.failed || wire.val != 2 }
  .next ((s.raise F.encWire (4 * c + wire.val)).lostCheck)

/-- A wire disagreement ends (R297). -/
def execWireDisagreementEnd (dt : Nat) (ch : Fin 4) (wire : Fin 3) (s : State) : Next :=
  let s := s.pass dt
  let c := ch.val
  let e := s.enc c
  .next ((s.setEnc c { e with wires := e.wires.filter (· != wire.val) }).lower F.encWire (4 * c + wire.val))

/-- Counts since the previous compared index, when they are compared with `cpr` (R300). -/
def indexCounts (cpr : Nat) (ref : Option (BitVec 32)) (count : BitVec 32) : Option Int :=
  match ref with
  | none => none
  | some r => if cpr = 0 ∨ 2 * cpr < (count - r).toInt.natAbs then none else some (count - r).toInt

/-- A rising edge of the filtered index (R300, R301). -/
def execIndexEdge (dt : Nat) (ch : Fin 4) (s : State) : Next :=
  let s := s.pass dt
  let c := ch.val
  let e := s.enc c
  if s.encState c ≠ 1 ∨ e.wires.contains 2 ∨ s.clk.tclk < e.zAt + 2 * (s.par (P.motionEncFilter c) + 1) then .next s else
  let s := s.setEnc c { e with zAt := s.clk.tclk, idxCount := e.count, idxT32 := s.t32, idxLink := s.link }
  if e.dir ≠ 1 then .next s else
  let cpr := s.par (P.motionEncCpr c)
  let s := s.setEnc c { s.enc c with ref := if cpr = 0 then none else some e.count }
  match indexCounts cpr e.ref e.count with
  | none => .next s
  | some n =>
    let dev : Int := n - cpr
    let s := s.setEnc c { s.enc c with dev := dev }
    if dev.natAbs ≤ s.par (P.motionEncIndexTol c) then
      let s := s.fault F.indexDrift c
      if s.par (P.motionEncIndexCorrect c) = 1 ∧ s.motion.fireCh = c then
        let k : Corr := { total := dev * s.parLine (P.motionEncCountWu c), span := 1024 }
        .next { s with motion := { s.motion with corr := s.motion.corr ++ [k] } }
      else .next s
    else .next (s.fault F.indexSlip c)

/-! ### Marks (R309 to R312) -/

/-- A mark input. -/
def State.mark (s : State) (k : Nat) : Mark := sel s.motion.marks k {}

/-- Replace it. -/
def State.setMark (s : State) (k : Nat) (x : Mark) : State := { s with motion := { s.motion with marks := put s.motion.marks k x } }

/-- Web position, in the units of W, at which the point under an input reaches the datum (R309). -/
def State.atDatumOf (s : State) (k : Nat) (w : Int) : Int := w + (s.par (P.motionMarkToDatumWu k) * wuUnit : Nat)

/-- Datum position of a mark at web position `w` (R309). -/
def State.datumOf (s : State) (k : Nat) (w : Int) : Nat := unsigned 32 (s.atDatumOf k w / (s.lineLen : Int))

/-- A mark counts for the armed splices that wait on its input (R96, R311). -/
def State.countMark (s : State) (k datum : Nat) : State :=
  { s with splice := { s.splice with armed := s.splice.armed.map (fun (a : Armed) =>
      if a.ref = 1 ∧ a.input = k ∧ a.lam.isNone then
        { a with left := a.left - 1, lam := if a.left ≤ 1 then some (shift32 datum a.off) else none }
      else a) } }

/-- Registration error of a mark at web position `w` in the units of W (R312): against the nearest first line of a repeat of the
job at the datum, when it was armed with MARK reference on this input. -/
def State.regError (s : State) (k : Nat) (w : Int) : Option Int :=
  match s.datumRun with
  | none => none
  | some r =>
    if r.mark ≠ some k ∨ r.finished then none else
    let len : Int := s.lineLen
    let first : Int := ((s.posRaw : Int) - since s.pos r.lam) * len
    let rep : Int := (max 1 (s.job r.job).repLines : Nat) * len
    -- the datum position of the mark (R309) in web units
    let x := s.atDatumOf k w / len * len
    let n := max 0 ((2 * (x - first) + rep) / (2 * rep))
    some (x - (first + n * rep))

/-- DAMPER computes and trims the registration error of a real mark (R312). -/
def State.trimMark (s : State) (k : Nat) (w : Int) : State :=
  if s.par (P.motionMarkTrim k) = 0 then s else
  match s.regError k w with
  | none => s
  | some e =>
    let lim : Int := (s.par (P.motionMarkTrimMaxWu k) * wuUnit : Nat)
    let c : Corr := { total := clamp (-lim) lim e, span := s.par (P.motionMarkPitchWu k) * wuUnit }
    let s := s.setMark k { s.mark k with err := signed 32 (unsigned 32 (roundDiv e wuUnit)) }
    { s with motion := { s.motion with trim := s.motion.trim ++ [c] } }

/-- An accepted or flywheel mark at web position `w` (R309 to R312). -/
def State.takeMark (s : State) (k : Nat) (w : Int) (fly : Bool) : State :=
  let d := s.datumOf k w
  let x := s.mark k
  let r : MarkRec := { datum := BitVec.ofNat 32 d, t32 := s.t32, fly := fly }
  let s := s.setMark k { x with last := (r :: x.last).take 4, expect := some (w + (s.par (P.motionMarkPitchWu k) * wuUnit : Nat)) }
  (s.countMark k d).forecast

/-- W lies within the window about an expected mark; a mark in the sample that ends the window lies in it (R310, R318). -/
def State.inMarkWindow (s : State) (k : Nat) (e : Int) : Bool :=
  let win : Nat := s.par (P.motionMarkWindowWu k) * wuUnit
  decide ((s.motion.w - e).natAbs ≤ win) || (s.motion.wAt == s.clk.tclk && decide ((s.motion.wWas - e).natAbs ≤ win))

/-- An edge of a mark input (R309, R310): a filtered one of the selected polarity is a mark, accepted in SEARCH, and in LOCKED within the
window; else spurious. -/
def execMarkEdge (dt : Nat) (m : Fin 4) (s : State) (rising : Bool := true) : Next :=
  let s := s.pass dt
  let k := m.val
  if s.par (P.motionMarkEnable k) = 0 ∨ s.clk.tclk < (s.mark k).edgeAt + s.par (P.motionMarkFilter k) + 1 then .next s else
  let s := s.setMark k { s.mark k with edgeAt := s.clk.tclk }
  if rising = (s.par (P.motionMarkPolarity k) == 1) then .next s else
  let x := s.mark k
  let w := s.motion.w
  let out := x.locked && (match x.expect with | some e => !s.inMarkWindow k e | none => false)
  if out then .next (s.setMark k { x with spur := sat 32 (x.spur + 1) }) else
  let run := x.run + 1
  let s := s.setMark k { x with run := run, fly := 0, locked := x.locked || decide (s.par (P.motionMarkLockMarks k) ≤ run) }
  .next ((s.takeMark k w false).trimMark k w)

/-- A splice that waits for marks of a lost input is disarmed (R311). -/
def State.loseMarks (s : State) (k : Nat) : State :=
  let gone := s.splice.armed.filter (fun a => a.ref == 1 && a.input == k && a.lam.isNone)
  (gone.foldl (fun s a => (s.disarm a).spliceEvent 10 0xFF a.job s.pos 0) s).forecast

/-- W passes the end of the window of a LOCKED input without a mark (R311); `mark`: a real mark arrives in the same sample, and no flywheel
mark stands (R318). -/
def execMarkWindowEnd (dt : Nat) (m : Fin 4) (s : State) (mark : Bool := false) : Next :=
  let s := s.pass dt
  let k := m.val
  let x := s.mark k
  match x.expect with
  | none => .next s
  | some e =>
    let win : Nat := s.par (P.motionMarkWindowWu k) * wuUnit
    if mark ∨ s.par (P.motionMarkEnable k) = 0 ∨ !x.locked ∨ s.motion.w ≤ e + win then .next s else
    let s := s.takeMark k e true
    let s := if s.par (P.motionMarkTrim k) = 1 then s.setMark k { s.mark k with err := 0 } else s
    let s := (s.setMark k { s.mark k with fly := x.fly + 1 }).fault F.markMissing k
    if x.fly + 1 < s.par (P.motionMarkFlywheelMax k) then .next s else
    let s := s.setMark k { s.mark k with locked := false, run := 0, fly := 0, expect := none }
    .next ((s.fault F.markLost k).loseMarks k)

/-! ### Velocity and ceiling -/

/-- No edge of the fire channel for `stop_ms` (R307). -/
def execVelocityStop (dt : Nat) (s : State) : Next :=
  let s := s.pass dt
  if s.now < s.motion.lastEdge + s.par P.motionVelStopMs * perMs then .next s else .next s.invalidate

/-- The ceiling message's period (R315). -/
def execCeilingMessagePeriod (dt : Nat) (s : State) : Next :=
  let s := s.pass dt
  if s.now < s.motion.msgAt + s.par P.motionMsgPeriodMs * perMs then .next s
  else .next { s with motion := { s.motion with msgAt := s.now } }.sendCeil

/-- The measured rate has exceeded the ceiling for longer than `stop_ms` after the ceiling last fell (R317). -/
def execCeilingIgnored (dt : Nat) (s : State) : Next :=
  let s := s.pass dt
  if s.ceiling * (1000 + s.par P.motionCeilingOverTolPm) < s.lps * 1000 ∧ s.motion.fellAt + s.par P.motionCeilingStopMs * perMs < s.now then
    .next (s.fault F.ceilingIgnored 0)
  else .next s

/-! ### MOTION commands (R319, R532) -/

/-- The 20 bytes of a channel. -/
def State.encBytes (s : State) (c : Nat) : Bytes :=
  let e := s.enc c
  leB 1 (s.encState c) ++ leB 1 e.dir ++ leB 2 0 ++ leB 4 e.count.toNat ++ leB 4 e.idxCount.toNat ++ leB 4 e.idxT32.toNat ++
    leB 4 (unsigned 32 e.dev)

/-- 0x0A01 MOTION status. -/
def execMotionStatus (dt : Nat) (who : Sess) (s : State) : Next :=
  let s := s.pass dt
  .next (s.runCmd who 0x0A01 (fun c => plain s c 0 (vet s (
    .done St.ok ((List.range 4).flatMap s.encBytes ++ leB 1 s.motion.fireCh ++ leB 1 (b2n s.motion.vValid) ++ leB 2 0 ++
      leB 8 (unsigned 64 s.motion.w) ++ leB 8 (unsigned 64 s.motion.wMax) ++ leB 4 s.pos ++ leB 4 s.lps ++ leB 4 s.edgeHz) s))))

/-- 0x0A02 MOTION ceiling (R315). -/
def execMotionCeiling (dt : Nat) (who : Sess) (s : State) : Next :=
  let s := s.pass dt
  .next (s.runCmd who 0x0A02 (fun c => plain s c 0 (vet s (.done St.ok s.ceilMsg s))))

/-- State of a mark input: 0 OFF, 1 SEARCH, 2 LOCKED (R310). -/
def State.markState (s : State) (k : Nat) : Nat :=
  if s.par (P.motionMarkEnable k) = 0 then 0 else if (s.mark k).locked then 2 else 1

/-- The 12 bytes of a captured mark, of kind 0xFF when there is none. -/
def markBytes (r : Option MarkRec) : Bytes :=
  match r with
  | some r => leB 4 r.datum.toNat ++ leB 4 r.t32.toNat ++ leB 1 (b2n r.fly) ++ leB 3 0
  | none => leB 4 0 ++ leB 4 0 ++ leB 1 0xFF ++ leB 3 0

/-- 0x0A03 MOTION marks. -/
def execMotionMarks (dt : Nat) (who : Sess) (s : State) : Next :=
  let s := s.pass dt
  .next (s.runCmd who 0x0A03 (fun c =>
    let k := u8 c.pay 0
    plain s c 4 (need s (decide (k < 4 ∧ fld c.pay 1 3 = 0)) St.badParam (vet s (
      let x := s.mark k
      .done St.ok (leB 1 k ++ leB 1 (s.markState k) ++ leB 2 0 ++ leB 4 (unsigned 32 x.err) ++ leB 4 x.spur ++
        (List.range 4).flatMap (fun i => markBytes x.last[i]?)) s)))))

/-- 0x0A04 MOTION channel select (R304, R319). -/
def execMotionChannelSelect (dt : Nat) (who : Sess) (s : State) : Next :=
  let s := s.pass dt
  .next (s.runCmd who 0x0A04 (fun c =>
    let k := u8 c.pay 0
    plain s c 4 (need s (decide (k < 4 ∧ fld c.pay 1 3 = 0)) St.badParam (vet s (
      need s (s.encState k == 1 && s.activeJobs.isEmpty) St.state (
        let id := P.motionFireChannel.id
        let s := { s with params := { s.params with acc := accept s.params.acc id k, line := accept s.params.line id k } }
        .done St.ok [] (s.setFire k)))))))

end Sys2Proof.Machine
end

