-- ==== Sys2Proof/Machine/Wire.lean ====
section
/-!
DEFINITION. The line coding of a lane: sync headers and 66-bit blocks (R232), the order of bits (R233), the scrambler and descrambler of
R232, and the PRBS generators and checker of the test (R253, R254).
-/
namespace Sys2Proof.Machine

/-! ### Blocks on the wire (R232, R233) -/

/-- The bits of a byte as they are sent, least significant first (R233). -/
def byteBits (b : Byte) : List Bool := (List.range 8).map b.getLsbD

/-- The bits of a payload, P0 first (R233). -/
def payloadBits (p : Bytes) : List Bool := p.flatMap byteBits

/-- One bit through the scrambler 1 + x^39 + x^58: bit i of the register is the bit sent i + 1 bits before (R232). -/
def scrBit (r : BitVec 58) (b : Bool) : Bool × BitVec 58 :=
  let o := b ^^ r.getLsbD 38 ^^ r.getLsbD 57
  (o, (r <<< 1) ||| BitVec.ofNat 58 (b2n o))

/-- One bit through the descrambler, whose register holds the bits received. -/
def dscBit (r : BitVec 58) (b : Bool) : Bool × BitVec 58 :=
  (b ^^ r.getLsbD 38 ^^ r.getLsbD 57, (r <<< 1) ||| BitVec.ofNat 58 (b2n b))

/-- Bits through one of the two. -/
def runBits (f : BitVec 58 → Bool → Bool × BitVec 58) (r : BitVec 58) (l : List Bool) : List Bool × BitVec 58 :=
  match l with
  | [] => ([], r)
  | b :: t =>
    let (o, r) := f r b
    let (u, r) := runBits f r t
    (o :: u, r)

/-- The 66 bits of a block (R232): header 01 for data and 10 for control, not scrambled, then the scrambled payload. -/
def wireBlock (r : BitVec 58) (control : Bool) (p : Bytes) : List Bool × BitVec 58 :=
  let (l, r) := runBits scrBit r (payloadBits p)
  (control :: (!control) :: l, r)

/-- A sync header is valid: 01 or 10 (R232). -/
def syncOk (l : List Bool) : Bool := match l with | a :: b :: _ => a != b | _ => false

/-- Bits back to bytes. -/
def bitsBytes (l : List Bool) : Bytes :=
  (List.range (l.length / 8)).map (fun i => BitVec.ofNat 8 (((l.drop (8 * i)).take 8).zipIdx.foldl (fun a e => a + b2n e.1 * 2 ^ e.2) 0))

/-- What a receiver takes from 66 bits: whether the block is control, and its payload; none for an invalid header (R232). -/
def unwireBlock (r : BitVec 58) (l : List Bool) : Option (Bool × Bytes) × BitVec 58 :=
  let (p, r) := runBits dscBit r (l.drop 2)
  (if syncOk l then some (l.headD false, bitsBytes p) else none, r)

/-! ### Patterns (R253) -/

/-- Stages of a pattern's register whose sum feeds it back: its length, and the other tap. -/
def prbsTaps (code : Nat) : Nat × Nat :=
  match code with
  | 0 => (7, 6)
  | 1 => (9, 5)
  | 2 => (15, 14)
  | 3 => (23, 18)
  | _ => (31, 28)

/-- The sum of the two stages; bit i of the register is stage i + 1. -/
def prbsNext (code : Nat) (r : BitVec 31) : Bool := r.getLsbD ((prbsTaps code).1 - 1) ^^ r.getLsbD ((prbsTaps code).2 - 1)

/-- A bit enters stage 1. -/
def prbsShift (r : BitVec 31) (b : Bool) : BitVec 31 := (r <<< 1) ||| BitVec.ofNat 31 (b2n b)

/-- The next bits of a generator, which outputs its last stage. -/
def prbsRun (code : Nat) (r : BitVec 31) (n : Nat) : List Bool :=
  match n with
  | 0 => []
  | m + 1 => r.getLsbD ((prbsTaps code).1 - 1) :: prbsRun code (prbsShift r (prbsNext code r)) m

/-- The first bits of a pattern: every register bit is 1 at the start. -/
def prbs (code n : Nat) : List Bool := prbsRun code (BitVec.allOnes 31) n

/-! ### The checker (R254) -/

/-- One received bit: unlocked, the checker takes it as seed and counts predicted bits in a row, up to 1,024; locked, it checks the bit
against its own sequence (log 84). `Checker.window` marks the wrong bits of the last 4,096. -/
def Lane.check (code : Nat) (x : Lane) (c : Checker) (b : Bool) : Lane × Checker :=
  let want := prbsNext code c.reg
  if !x.locked then
    let good := if c.fill < (prbsTaps code).1 then 0 else if b == want then c.good + 1 else 0
    let c := { c with reg := prbsShift c.reg b, fill := c.fill + 1, good := good }
    if 1024 ≤ good then ({ x with locked := true }, { c with window := [] }) else (x, c)
  else
    let bad := b != want
    let window := (bad :: c.window).take 4096
    let x := { x with bits := sat 48 (x.bits + 1), errs := sat 32 (x.errs + b2n bad) }
    if 512 ≤ window.countP id then ({ x with locked := false, losses := sat 32 (x.losses + 1) }, {})
    else (x, { c with reg := prbsShift c.reg want, window := window })

/-- Bits received one after another. -/
def Lane.checkAll (code : Nat) (x : Lane) (c : Checker) (l : List Bool) : Lane × Checker :=
  match l with
  | [] => (x, c)
  | b :: t => let (x, c) := x.check code c b; Lane.checkAll code x c t

end Sys2Proof.Machine
end

