-- ==== Sys2Proof/Machine/Lanes.lean ====
section
/-!
DEFINITION. Kazpo lanes (chapter 08) and the link time and head-card reads that start with a lane (R269 to R272, R280, R281):
blocks, lane limits, the lane state machine, relock, spares, the PRBS test and the LANE commands.
-/
namespace Sys2Proof.Machine

/-! ### Lane limits (R235, R236) -/

/-- φ of a lane's slots: the largest of 0 and −phase (R170). -/
def phaseLead (g : PKey → Nat) (slots : List Nat) : Nat :=
  (slots.map (fun i => (-(signed 8 (g (P.fireBarSlotPhase i)))).toNat)).foldl max 0

/-- The lane limit for k slots at a rate (R235): a block takes 4 TCLK at rate 0 and 2 at rate 1. -/
def laneLimit (g : PKey → Nat) (k rate : Nat) (slots : List Nat) : Nat :=
  let t := (322 * k + 17) * (if rate = 0 then 4 else 2) + g P.fireSchedAdvanceTclk + 64
  min 120000 ((256 - phaseLead g slots) * 625000000 / (256 * t))

/-- `link.lane[lane].lane_lps`: a serving spare takes its primary's slots and its own rate (R236). -/
def State.laneLps (s : State) (l : Nat) : Nat :=
  let p := (s.primaryOf l).getD l
  laneLimit s.par (s.lane p).slots (s.lane l).rate (s.primarySlots p)

/-- `link.lane.max_lps` under a reading of the parameters (R236). -/
def State.maxLaneLps (s : State) (g : PKey → Nat) : Nat :=
  ((List.range 32).filter (fun l => (s.lane l).state == 6)).foldl
    (fun m l => min m (laneLimit g (s.lane l).slots (s.lane l).rate (s.primarySlots l))) 120000

/-! ### Spares (R247) -/

/-- A lane may run: it is enabled, and so is its spare. -/
def State.laneOn (s : State) (l : Nat) : Bool :=
  s.par (P.linkLaneEnable l) == 1 && (l < 32 || s.par (P.linkSpareEnable (l - 32)) == 1)

/-- Members of a group whose primary is enabled. -/
def State.members (s : State) (k : Nat) : List Nat := (List.range 8).filter (fun m => s.par (P.linkLaneEnable (8 * k + m)) == 1)

/-- Every such member has passed a check within the last 8 check periods. -/
def State.allPassed (s : State) (k : Nat) : Bool :=
  (s.members k).all (fun m => match look (s.spare k).passed m with
    | some t => decide (s.now ≤ t + 8 * s.par (P.linkSpareCheckMs k) * perMs)
    | none => false)

/-- `link.spare[k].state`: 0 OFF, 1 READY, 2 SERVING, 3 TEST, 4 NOT_READY (R257). -/
def State.spareState (s : State) (k : Nat) : Nat :=
  let x := s.lane (32 + k)
  if x.state = 0 then 0
  else if (s.spare k).serving.isSome then 2
  else if x.state = 10 then 3
  else if x.state = 11 ∧ s.allPassed k then 1 else 4

/-- The spare that serves a primary. -/
def State.servedBy (s : State) (l : Nat) : Option Nat := (List.range 4).find? (fun k => (s.spare k).serving == some l)

/-- KS_SEL of a group selects a member. -/
def State.ksSel (s : State) (k m : Nat) : State := (s.setSpare k { s.spare k with sel := m }).emit (.ksSel k m)

/-- The first enabled member from `m` on, in turn. -/
def State.nextMember (s : State) (k m : Nat) : Option Nat :=
  ((List.range 8).map (fun i => (m + i) % 8)).find? (fun x => (s.members k).contains x)

/-- The first enabled member that has not yet passed. -/
def State.openMember (s : State) (k : Nat) : Option Nat := (s.members k).find? (fun m => (look (s.spare k).passed m).isNone)

/-! ### Link time (R269 to R271) -/

/-- Send a LINK_TIME, with ECHO or without, naming a member of a spare's group or none on a primary. -/
def State.sendLinkTime (s : State) (l : Nat) (echo : Bool) (member : Option Nat) : State :=
  let x := s.lane l
  let delay := match member with
    | some m => look (s.spare (l - 32)).delays m
    | none => if x.delayOk then some x.delay else none
  let v := s.link * 256 + delay.getD 0
  let p := leB 1 (128 * b2n echo + 64 * b2n delay.isSome + member.getD 0xF) ++ beB 4 (v / 256 % 2 ^ 32) ++ leB 1 (v % 256)
  let s := s.emit (.block l (kBlock 0x93 p))
  if echo then s.setLane l { x with echoAt := some s.clk.tclk, echoVal := v / 256 % 2 ^ 32, echoDue := s.now } else s

/-! ### Head-card reads (R280, R281) -/

/-- Send the INFO_READ of the chunk a read is at; the tag is the device's choice, a free value. -/
def State.sendInfo (s : State) (l : Nat) (r : InfoRead) : State :=
  let tag := BitVec.ofNat 8 (Config.value s.free)
  let s := s.fresh
  (s.setLane l { s.lane l with info := some { r with tag := tag, sentAt := s.now } }).emit
    (.block l (kBlock 0x96 (leB 1 r.j ++ leB 1 tag.toNat ++ leB 1 r.chunk)))

/-- Start the next card read of an ACTIVE lane (R281, R283). -/
def State.startInfo (s : State) (l : Nat) : State :=
  let x := s.lane l
  if x.state ≠ 6 ∨ x.info.isSome then s else
  match x.todo with
  | [] => s
  | j :: t => (s.setLane l { x with todo := t }).sendInfo l { j := j }

/-! ### Bring-up (R237 to R242) -/

/-- Block lock must be found within 50 µs, TRAIN and an attempt at CAP last 100 µs (R237). -/
def trainTime : Nat := 62500
/-- 50 µs. -/
def blockLockTime : Nat := 31250
/-- Two TCLK rates: bits a lane carries in two TCLK at its rate (R231). -/
def bitsPerTwo (rate : Nat) : Nat := if rate = 0 then 33 else 66

/-- A lane enters TRAIN at a rate. -/
def State.enterTrain (s : State) (l rate : Nat) : State :=
  s.setLane l { s.lane l with state := 2, since := s.now, rate := rate, farN := 0, acks := 0, held := false, carry := false,
                              info := none, todo := [], echoAt := none, test := none }

/-- A lane enters DETECT. -/
def State.enterDetect (s : State) (l : Nat) : State :=
  s.setLane l { s.lane l with state := 1, since := s.now, absent := false, fails := 0, single := false }

/-- A lane is switched off; the primary that a spare serves is left without one (R250). -/
def State.laneOff (s : State) (l : Nat) : State :=
  let x := s.lane l
  let s := if l < 32 then s else match (s.spare (l - 32)).serving with
    | some p => (s.setSpare (l - 32) { s.spare (l - 32) with serving := none, ret := none, switching := none, passed := [] }).fault F.laneNoSpare p
    | none => s.setSpare (l - 32) { s.spare (l - 32) with switching := none, checking := none, passed := [] }
  s.setLane l { x with state := 0, since := s.now, farN := 0, acks := 0, slots := 0, own := [], held := false, capable := none,
                       info := none, todo := [], carry := false, test := none, fails := 0, single := false, echoAt := none }

/-- An attempt fails: the next starts at TRAIN, or the lane enters FAILED, recorded at each entry (R240). -/
def State.attemptFails (s : State) (l : Nat) : State :=
  let x := s.lane l
  let failed : Lane := { x with fails := x.fails + 1, state := 9, since := s.now, retryAt := s.now + s.par P.linkLaneRetryMs * perMs, held := false }
  if x.single ∨ 3 ≤ x.fails + 1 then (s.setLane l failed).fault F.laneTrainFail l
  else (s.setLane l { x with fails := x.fails + 1 }).enterTrain l 0

/-- Slots of a bar that other lanes or the legacy port hold (R242, R285). -/
def State.takenSlots (s : State) (l : Nat) : List Nat :=
  let b := l / 4
  let others := (List.range 4).map (4 * b + ·) |>.filter (fun m => m != l && 5 ≤ (s.lane m).state)
  others.flatMap s.primarySlots ++ (barSlots b).filter (fun i => (s.legacyOf i).isSome)

/-- The rate selected by a usable CAP of a concentrator on a primary, or on the member of a spare (R242, R243). -/
def State.capRate (s : State) (l : Nat) (far : Bytes) : Option Nat :=
  let n := u8 far 0 % 16
  let p := if l < 32 then l else 8 * (l - 32) + (s.spare (l - 32)).sel
  let first := if l < 32 then s.par (P.linkLaneFirstSlot l) else s.firstSlot p
  -- a spare runs at rate 1 whenever a lane of its group does (R236)
  let fast : Bool := 32 ≤ l && (List.range 8).any (fun m => (s.lane (8 * (l - 32) + m)).rate == 1)
  let rate := if (s.par (P.linkLaneRate l) = 1 ∨ fast) ∧ bit (u8 far 1) 1 then 1 else 0
  let clash := l < 32 && (List.range n).any (fun j => (s.takenSlots l).contains (20 * (l / 4) + first + j))
  if n = 0 ∨ 5 < n ∨ u8 far 0 / 16 ≠ 1 ∨ (rate = 0 ∧ !bit (u8 far 1) 0) ∨ 20 < first + n ∨ clash then none else some rate

/-- P1 to P5 of the device's CAP (R241). -/
def State.ownCap (s : State) (l n rate : Nat) : Bytes :=
  let p := if l < 32 then l else 8 * (l - 32) + (s.spare (l - 32)).sel
  let first := if l < 32 then s.par (P.linkLaneFirstSlot l) else s.firstSlot p
  leB 1 (16 + n) ++ leB 1 l ++ leB 1 (p / 4) ++ leB 1 first ++ leB 1 rate

/-- Send the device's CAP. -/
def State.sendCap (s : State) (l : Nat) : State := s.emit (.block l (kBlock 0x82 ((s.lane l).own ++ leB 1 (b2n (decide (32 ≤ l))))))

/-- Two identical CAPs have come in CAP: the device sends its own, or the attempt fails (R242). -/
def State.capPair (s : State) (l : Nat) : State :=
  let far := (s.lane l).far
  match s.capRate l far with
  | none => (s.fault F.laneCapFail l).attemptFails l
  | some rate =>
    let n := u8 far 0 % 16
    (s.setLane l { s.lane l with own := s.ownCap l n rate, slots := n, acks := 0 }).sendCap l

/-- A lane enters ACTIVE (R237, R270, R283). -/
def State.toActive (s : State) (l : Nat) (fresh : Bool) : State :=
  let x := s.lane l
  let cap := if (s.servedBy l).isSome then some s.now else none
  let s := s.setLane l { x with state := 6, since := s.now, fails := 0, single := false, held := false, acks := 0, farN := 0,
                                todo := List.range x.slots, info := none, capable := cap }
  let s := if fresh then (s.primarySlots l).foldl (fun s i =>
      { s with links := put s.links i { sel s.links i {} with ltValid := false } }) s else s
  (s.sendLinkTime l true none).startInfo l

/-- A member of a spare's group has passed bring-up or a check (R247). -/
def State.memberPassed (s : State) (k m : Nat) : State :=
  (s.setSpare k { s.spare k with passed := put (s.spare k).passed m s.now, checking := none }).lower F.spareNotReady (8 * k + m)

/-- A spare has completed the exchange with a member: the next member in turn, or SPARE_READY (R247). -/
def State.spareUp (s : State) (k : Nat) : State :=
  let s := s.memberPassed k (s.spare k).sel
  let s := s.setLane (32 + k) { s.lane (32 + k) with fails := 0, single := false }
  match s.openMember k with
  | some m => (s.ksSel k m).enterTrain (32 + k) 0
  | none =>
    let s := s.setSpare k { s.spare k with checkAt := s.now }
    (s.setLane (32 + k) { s.lane (32 + k) with state := 11, since := s.now }).emit (.block (32 + k) (kBlock 0x84 (leB 1 0xFF)))

/-- The exchange of CAPs is complete (R242). -/
def State.exchanged (s : State) (l : Nat) : State :=
  let x := s.lane l
  let rate := u8 x.own 4
  if rate ≠ x.rate then (s.emit (.block l (kBlock 0x85 (leB 1 rate)))).enterTrain l rate
  else if 32 ≤ l then s.spareUp (l - 32)
  else if laneLimit s.par x.slots x.rate (s.primarySlots l) < s.pressMax then
    (s.setLane l { x with held := true, acks := 0, farN := 0, retryAt := s.now + s.par P.linkLaneRetryMs * perMs }).fault F.laneBudget l
  else s.toActive l true

/-! ### Relock, DOWN and the spare (R244, R245, R248, R250) -/

/-- Relock has succeeded (R245). -/
def State.relocked (s : State) (l : Nat) : State :=
  let s := s.setLane l { s.lane l with relocks := sat 32 ((s.lane l).relocks + 1) }
  ((s.toActive l false).fault F.laneRelock l).resend l

/-- The lane sequencer moves a primary to its group's spare (R248). -/
def State.beginSwitchTo (s : State) (k l : Nat) : State :=
  let s := s.ksSel k (l % 8)
  let s := s.setSpare k { s.spare k with switching := some s.now, checking := none }
  let s := s.setLane (32 + k) { s.lane (32 + k) with farN := 0 }
  s.emit (.block (32 + k) (kBlock 0x84 (leB 1 (l % 8))))

/-- The primary a switch under way moves. -/
def State.switchOf (s : State) (k : Nat) : Nat := 8 * k + (s.spare k).sel

/-- A DOWN primary takes the spare, or is muted (R248, R250); of two in one instant the lower takes it. -/
def State.seekSpare (s : State) (l : Nat) : State :=
  let k := l / 8
  if (s.servedBy l).isSome then s
  else if s.spareState k = 1 ∧ (s.spare k).switching.isNone then s.beginSwitchTo k l
  else if (s.spare k).switching = some s.now ∧ l < s.switchOf k ∧ (s.spare k).serving.isNone then
    (s.beginSwitchTo k l).fault F.laneNoSpare (s.switchOf k)
  else s.fault F.laneNoSpare l

/-- A lane goes DOWN (R245, R250). -/
def State.laneDown (s : State) (l : Nat) : State :=
  let s := s.setLane l { s.lane l with state := 8, since := s.now, fails := 0, single := false, capable := none, carry := false,
                                       retryAt := s.now + s.par P.linkLaneRetryMs * perMs }
  let s := s.fault F.laneDown l
  if l < 32 then s.seekSpare l else
  match (s.spare (l - 32)).serving with
  | some p => (s.setSpare (l - 32) { s.spare (l - 32) with serving := none, ret := none, switching := none }).fault F.laneNoSpare p
  | none => s

/-- The spare is SERVING the member and enters ACTIVE, with the delay of the member's last check (R248 step 4, R270, R272, R283). -/
def State.serve (s : State) (k : Nat) : State :=
  let l := s.switchOf k
  let n := (s.lane l).slots
  let s := s.setSpare k { s.spare k with serving := some l }
  let s := s.setLane (32 + k) { s.lane (32 + k) with state := 6, since := s.now, carry := false, slots := n, todo := List.range n, info := none,
                                                         delay := ((look (s.spare k).delays (l % 8)).getD 0) }
  let s := s.setLane l { s.lane l with capable := if (s.lane l).state = 6 then some s.now else none }
  let s := (s.primarySlots l).foldl (fun s i => { s with links := put s.links i { sel s.links i {} with ltValid := false } }) s
  (s.sendLinkTime (32 + k) true (some (l % 8))).startInfo (32 + k)

/-! ### Lane events -/

/-- A poll of DETECT: termination and a signal that have both held for 10 µs (R237). -/
def execLaneDetectPoll (dt : Nat) (lane : Fin 36) (term signal : Bool) (s : State) : Next :=
  let s := s.pass dt
  let l := lane.val
  if (s.lane l).state ≠ 1 ∨ !term ∨ !signal then .next s else
  let s := if l < 32 then s else match s.openMember (l - 32) with
    | some m => s.ksSel (l - 32) m
    | none => s
  .next (s.enterTrain l 0)

/-- DETECT has lasted longer than `detect_ms` (R237); detection goes on. -/
def execLaneAbsent (dt : Nat) (lane : Fin 36) (s : State) : Next :=
  let s := s.pass dt
  let x := s.lane lane.val
  if x.state ≠ 1 ∨ x.absent ∨ s.now < x.since + s.par P.linkLaneDetectMs * perMs then .next s
  else .next ((s.setLane lane.val { x with absent := true }).fault F.laneAbsent lane.val)

/-- Bit lock (R238): the event comes once clock recovery is locked and 1,000,000 bits in a row were error-free, which takes their time. -/
def execBitLock (dt : Nat) (lane : Fin 36) (s : State) : Next :=
  let s := s.pass dt
  let x := s.lane lane.val
  .next (if x.state = 2 ∧ 2000000 ≤ (s.now - x.since) * bitsPerTwo x.rate then s.setLane lane.val { x with state := 3 } else s)

/-- The 100 µs of TRAIN end; `ok`: bit lock still holds (R237, R238). -/
def execTrainPeriodEnd (dt : Nat) (lane : Fin 36) (ok : Bool) (s : State) : Next :=
  let s := s.pass dt
  let l := lane.val
  let x := s.lane l
  if !(x.state = 2 ∨ x.state = 3) ∨ s.now < x.since + trainTime then .next s
  else if x.state = 3 ∧ ok then .next (s.setLane l { x with state := 4, since := s.now })
  else .next (s.attemptFails l)

/-- Block lock (R239): the event comes after 64 valid headers in a row, which take the time of their blocks. -/
def execBlockLock (dt : Nat) (lane : Fin 36) (s : State) : Next :=
  let s := s.pass dt
  let x := s.lane lane.val
  .next (if x.state = 4 ∧ 2 * 64 * 66 ≤ (s.now - x.since) * bitsPerTwo x.rate then s.setLane lane.val { x with state := 5, since := s.now, farN := 0, acks := 0 } else s)

/-- No block lock within 50 µs (R237). -/
def execBlockLockTimeout (dt : Nat) (lane : Fin 36) (s : State) : Next :=
  let s := s.pass dt
  let x := s.lane lane.val
  .next (if x.state = 4 ∧ x.since + blockLockTime ≤ s.now then s.attemptFails lane.val else s)

/-- P1 to P6 of a block. -/
def blockFields (b : Bytes) : Bytes := (b.drop 1).take 6

/-- A CAP on a primary in CAP or RELOCK, or on a spare in CAP (R242, R245, R251). -/
def State.capIn (s : State) (l : Nat) (p : Bytes) : State :=
  let x := s.lane l
  let same : Bool := x.far == p
  if x.state = 5 then
    if x.held || (s.servedBy l).isSome && !same then s else
    let n := if same then x.farN + 1 else 1
    let s := s.setLane l { x with far := p, farN := n }
    if n = 2 then s.capPair l else s
  else if x.state = 7 ∧ same then
    let s := s.setLane l { x with farN := x.farN + 1 }
    if x.farN + 1 = 2 then s.sendCap l else s
  else s

/-- A CAP received (R242, R247, R248); the receiver discards a bad block (R234). -/
def execCap (dt : Nat) (lane : Fin 36) (block : Bytes) (s : State) : Next :=
  let s := s.pass dt
  let l := lane.val
  if !goodBlock block 0x82 then .next s else
  let p := blockFields block
  let x := s.lane l
  if l < 32 ∨ x.state ≠ 11 then .next (s.capIn l p) else
  let k := l - 32
  if (s.spare k).switching.isSome then
    if !bit (u8 p 1) 3 then .next s else
    let n := if x.far = p then x.farN + 1 else 1
    let s := s.setLane l { x with far := p, farN := n }
    .next (if n = 2 then s.serve k else s)
  else
    let s := s.setLane l { x with far := p }
    match (s.spare k).checking with
    | some m => .next (s.memberPassed k m)
    | none => .next s

/-- The time of a relock has not run out; a relock in the TCLK in which it does wins (R245, R256). -/
def State.relockOpen (s : State) (x : Lane) : Bool := decide (s.now ≤ x.since + s.par P.linkLaneRelockUs * perUs)

/-- A CAP_ACK (R242, R245). -/
def execCapAck (dt : Nat) (lane : Fin 36) (block : Bytes) (s : State) : Next :=
  let s := s.pass dt
  let l := lane.val
  let x := s.lane l
  if !goodBlock block 0x83 ∨ !(x.state = 5 ∨ x.state = 7 ∧ s.relockOpen x) ∨ x.farN < 2 ∨ x.own.length ≠ 5 ∨ (blockFields block).take 5 ≠ x.own then .next s else
  let s := s.setLane l { x with acks := x.acks + 1 }
  if x.acks + 1 < 2 then .next s
  else .next (if x.state = 7 then s.relocked l else s.exchanged l)

/-- An attempt at CAP exceeds 100 µs (R237, R242). -/
def execCapTimeout (dt : Nat) (lane : Fin 36) (s : State) : Next :=
  let s := s.pass dt
  let x := s.lane lane.val
  .next (if x.state = 5 ∧ !x.held ∧ x.since + trainTime ≤ s.now then s.attemptFails lane.val else s)

/-- A RETRAIN received in CAP (R242). -/
def execRetrain (dt : Nat) (lane : Fin 36) (block : Bytes) (s : State) : Next :=
  let s := s.pass dt
  .next (if goodBlock block 0x85 ∧ u8 block 1 ≤ 1 ∧ (s.lane lane.val).state = 5 then s.enterTrain lane.val (u8 block 1) else s)

/-- An ACTIVE lane loses lock and abandons its card read (R244, R281). -/
def execLockLoss (dt : Nat) (lane : Fin 36) (s : State) : Next :=
  let s := s.pass dt
  let x := s.lane lane.val
  .next (if x.state = 6 then
    s.setLane lane.val { x with state := 7, since := s.now, farN := 0, acks := 0, info := none, todo := [], echoAt := none, capable := none }
    else s)

/-- `relock_us` has passed (R245, R256). -/
def execRelockTimeout (dt : Nat) (lane : Fin 36) (s : State) : Next :=
  let s := s.pass dt
  let x := s.lane lane.val
  .next (if x.state = 7 ∧ !s.relockOpen x then s.laneDown lane.val else s)

/-- The switch has not delivered frames within 100 µs (R248). -/
def execSpareSwitchTimeout (dt : Nat) (spare : Fin 4) (s : State) : Next :=
  let s := s.pass dt
  let k := spare.val
  match (s.spare k).switching with
  | none => .next s
  | some t =>
    if s.now < t + trainTime then .next s else
    let l := s.switchOf k
    let s := s.fault F.spareFail l
    let x := s.lane (32 + k)
    let s := s.setSpare k { s.spare k with switching := none, serving := none, ret := none }
    .next (s.setLane (32 + k) { x with state := if x.state = 6 then 11 else x.state, carry := false, info := none, todo := [] })

/-- A DOWN, FAILED or budget-held lane tries again after `retry_ms` (R237, R240, R242, R251). -/
def execLaneRetry (dt : Nat) (lane : Fin 36) (s : State) : Next :=
  let s := s.pass dt
  let l := lane.val
  let x := s.lane l
  if s.now < x.retryAt then .next s
  else if x.state = 8 ∨ x.state = 9 then
    let s := s.setLane l { x with single := x.state == 9, fails := if x.state = 9 then x.fails else 0 }
    let s := if l < 32 then s else match s.nextMember (l - 32) ((s.spare (l - 32)).sel + 1) with
      | some m => s.ksSel (l - 32) m
      | none => s
    .next (s.enterTrain l 0)
  else if x.state = 5 ∧ x.held then
    .next (s.setLane l { x with held := false, since := s.now, farN := 0, acks := 0 })
  else .next s

/-- The spare checks its next member, every `check_ms` (R247, R270). -/
def execSpareCheck (dt : Nat) (spare : Fin 4) (s : State) : Next :=
  let s := s.pass dt
  let k := spare.val
  let x := s.spare k
  if (s.lane (32 + k)).state ≠ 11 ∨ x.serving.isSome ∨ x.switching.isSome ∨ s.now < x.checkAt + s.par (P.linkSpareCheckMs k) * perMs then .next s else
  match s.nextMember k (x.sel + 1) with
  | none => .next s
  | some m =>
    let s := s.ksSel k m
    let s := s.setSpare k { s.spare k with checking := some m, checkAt := s.now }
    .next ((s.emit (.block (32 + k) (kBlock 0x87 (leB 1 m)))).sendLinkTime (32 + k) true (some m))

/-- A checked member gives no valid CAP within 20 µs (R247). -/
def execSpareCheckTimeout (dt : Nat) (spare : Fin 4) (s : State) : Next :=
  let s := s.pass dt
  let k := spare.val
  match (s.spare k).checking with
  | none => .next s
  | some m => if s.now < (s.spare k).checkAt + 20 * perUs then .next s else
    .next ((s.setSpare k { s.spare k with checking := none, passed := cut (s.spare k).passed m }).raise F.spareNotReady (8 * k + m))

/-- The return of a primary from its spare begins, at a line at least 16 ahead (R251); the primary carries frames once its slots have link
time (R271). -/
def State.beginReturn (s : State) (k l : Nat) : State × Nat :=
  let p := fwd s.fire.next 16
  let s := s.setSpare k { s.spare k with ret := some (l, p) }
  let s := s.setLane l { s.lane l with carry := (s.primarySlots l).all (fun i => (sel s.links i {}).ltValid), start := none }
  let s := s.emit (.block (32 + k) (kBlock 0x84 (leB 1 (l % 8) ++ leB 1 1 ++ beB 4 p)))
  (s.fault F.laneReturn l, p)

/-- The served primary that may return now. -/
def State.mayReturn (s : State) (l : Nat) : Option Nat :=
  match s.servedBy l with
  | some k => if (s.lane l).state = 6 ∧ (s.lane l).capable.isSome ∧ (s.spare k).ret.isNone then some k else none
  | none => none

/-- The automatic return of a primary that has been ACTIVE-capable for `return_s` (R251). -/
def execSpareAutoReturn (dt : Nat) (lane : Fin 36) (s : State) : Next :=
  let s := s.pass dt
  let l := lane.val
  match s.mayReturn l, (s.lane l).capable with
  | some k, some t =>
    .next (if s.par P.linkSpareAutoReturn = 1 ∧ t + s.par P.linkSpareReturnS * perSecond ≤ s.now then (s.beginReturn k l).1 else s)
  | _, _ => .next s

/-- Invalid headers of an ACTIVE lane: each is counted (R239), and LANE_HDR_ERR is recorded once in a second that has more than
`hdr_err_limit` (R256). -/
def execLaneHdrErr (dt : Nat) (lane : Fin 36) (errs : Nat) (s : State) : Next :=
  let s := s.pass dt
  let l := lane.val
  let x := s.lane l
  if x.state ≠ 6 then .next s else
  let fresh := decide (x.hdrAt + perSecond ≤ s.now)
  let was := if fresh then 0 else x.hdrN
  let lim := s.par P.linkLaneHdrErrLimit
  let s := s.setLane l { x with hdrErr := sat 32 (x.hdrErr + errs), hdrN := was + errs, hdrAt := if fresh then s.now else x.hdrAt }
  .next (if was ≤ lim ∧ lim < was + errs then s.fault F.laneHdrErr l else s)

/-! ### The PRBS test (R252 to R254) -/

/-- Errors the device's generator has injected periodically by now: one inverted bit every 2^e (R254). -/
def State.periodic (s : State) (l : Nat) (t : LaneTest) : Nat :=
  if t.inj = 2 ∧ bit t.dirs 0 then (min s.now t.ends - (s.lane l).since) * bitsPerTwo (s.lane l).rate / 2 / 2 ^ t.e else 0

/-- The checker takes up the bits it has received, when the test has the concentrator send the pattern (R252, R254). -/
def State.seeTest (s : State) (l : Nat) (rx : List Bool) : State :=
  let x := s.lane l
  match x.test with
  | some t =>
    if !t.here || !bit t.dirs 1 then s else
    let (y, c) := x.checkAll t.pattern t.chk rx
    s.setLane l { y with test := some { t with chk := c } }
  | none => s

/-- The test's duration ends: both ends enter TRAIN (R252). -/
def execLaneTestEnd (dt : Nat) (lane : Fin 36) (rx : List Bool) (s : State) : Next :=
  let s := s.pass dt
  let l := lane.val
  match (s.lane l).test with
  | some t =>
    if (s.lane l).state ≠ 10 ∨ s.now < t.ends then .next s else
    let s := s.seeTest l rx
    let s := s.setLane l { s.lane l with injected := sat 32 ((s.lane l).injected + s.periodic l t), fails := 0, single := false }
    .next (s.enterTrain l 0)
  | none => .next s

/-- A TEST_REPORT is stored (R254). -/
def execTestReport (dt : Nat) (lane : Fin 36) (block : Bytes) (s : State) : Next :=
  let s := s.pass dt
  .next (if goodBlock block 0x88 then s.setLane lane.val { s.lane lane.val with report := block } else s)

/-! ### Link time events -/

/-- A LINK_TIME is due on an ACTIVE or SPARE_READY lane, once in 4,096 TCLK; a spare names its members in turn (R265, R271). -/
def execLinkTimeSend (dt : Nat) (lane : Fin 36) (s : State) : Next :=
  let s := s.pass dt
  let l := lane.val
  let x := s.lane l
  if !(x.state = 6 ∨ x.state = 11) ∨ !s.clk.run ∨ s.clk.tclk < x.ltAt + 4096 then .next s else
  let s := s.setLane l { x with ltAt := s.clk.tclk }
  if l < 32 then .next (s.sendLinkTime l false none)
  else
    let m := (s.spare (l - 32)).ltNext
    .next ((s.setSpare (l - 32) { s.spare (l - 32) with ltNext := (m + 1) % 8 }).sendLinkTime l false (some m))

/-- The delay of an ACTIVE lane is measured every `echo_ms` (R270). -/
def execEchoMeasure (dt : Nat) (lane : Fin 36) (s : State) : Next :=
  let s := s.pass dt
  let l := lane.val
  if (s.lane l).state ≠ 6 ∨ !s.clk.run ∨ s.now < (s.lane l).echoDue + s.par P.linkHeadEchoMs * perMs then .next s
  else .next (s.sendLinkTime l true (if l < 32 then none else some (s.spare (l - 32)).sel))

/-- A head-protocol block is discarded (R260). -/
def State.badUpstream (s : State) (l : Nat) : State :=
  (s.setLane l { s.lane l with upBad := sat 32 ((s.lane l).upBad + 1) }).fault F.upstreamBad l

/-- An LT_ECHO: the delay from the arrival, to 1/256 TCLK, the departure and the turnaround (R270). -/
def execLtEcho (dt : Nat) (lane : Fin 36) (block : Bytes) (frac : Fin 256) (s : State) : Next :=
  let s := s.pass dt
  let l := lane.val
  if !goodBlock block 0x95 ∨ 16 ≤ u8 block 1 then .next (s.badUpstream l) else
  let x := s.lane l
  match x.echoAt with
  | none => .next s
  | some dep =>
    let member := u8 block 1
    let asked := if l < 32 then 0xF else (s.spare (l - 32)).sel
    if member ≠ asked ∨ beN (slice block 2 4) ≠ x.echoVal then .next s else
    let d := min 0x00FFFFFF ((s.clk.tclk * 256 + frac.val - dep * 256 - 256 * u8 block 6) / 2)
    let old := if l < 32 then (if x.delayOk then some x.delay else none) else look (s.spare (l - 32)).delays member
    let s := s.setLane l { x with echoAt := none, delay := d, delayOk := true }
    let s := if l < 32 then s else s.setSpare (l - 32) { s.spare (l - 32) with delays := put (s.spare (l - 32)).delays member d }
    match old with
    | some o => .next (if o + 256 < d ∨ d + 256 < o then s.fault F.linkTimeDrift l else s)
    | none => .next s

/-! ### LANE commands (R530) -/

/-- A lane serves a slot enabled in the `slot_mask` in force. -/
def State.servesEnabled (s : State) (l : Nat) : Bool :=
  if l < 32 then
    ((s.lane l).state == 6 || (s.lane l).state == 7) && (s.servedBy l).isNone &&
      (s.primarySlots l).any (fun i => (s.enabledSlots (i / 20)).contains (i % 20))
  else (s.spare (l - 32)).serving.isSome

/-- The 28 bytes of a lane. -/
def State.laneBytes (s : State) (l : Nat) : Bytes :=
  let x := s.lane l
  let k := if l < 32 then l / 8 else l - 32
  leB 1 l ++ leB 1 x.state ++ leB 1 x.rate ++ leB 1 x.slots ++ padTo 6 x.far ++ leB 1 (b2n (s.servedBy l).isSome) ++ leB 1 (s.spareState k) ++
    leB 4 x.hdrErr ++ leB 4 x.relocks ++ leB 4 (s.laneLps l) ++ leB 4 x.delay

/-- 0x0801 LANE status. -/
def execLaneStatus (dt : Nat) (who : Sess) (s : State) : Next :=
  let s := s.pass dt
  .next (s.runCmd who 0x0801 (fun c =>
    let first := u8 c.pay 0
    let n := u8 c.pay 1
    plain s c 4 (need s (decide (1 ≤ n ∧ n ≤ 8 ∧ first + n ≤ 36 ∧ u16 c.pay 2 = 0)) St.badParam (vet s (
      .done St.ok (leB 1 n ++ leB 3 0 ++ (List.range n).flatMap (fun i => s.laneBytes (first + i))) s)))))

/-- A command whose payload is a lane below `n` and three zero bytes. -/
def laneForm (s : State) (c : Cmd) (n : Nat) (k : Nat → Reply) : Reply :=
  plain s c 4 (need s (decide (u8 c.pay 0 < n ∧ fld c.pay 1 3 = 0)) St.badParam (vet s (k (u8 c.pay 0))))

/-- 0x0802 LANE retrain (R256). -/
def execLaneRetrain (dt : Nat) (who : Sess) (s : State) : Next :=
  let s := s.pass dt
  .next (s.runCmd who 0x0802 (fun c => laneForm s c 36 (fun l =>
    need s (!s.servesEnabled l && (s.lane l).state != 0) St.state (
      .done St.ok [] ((s.setLane l { s.lane l with fails := 0, single := false, capable := none }).enterTrain l 0)))))

/-- 0x0803 LANE test start (R252 to R254). -/
def execLaneTestStart (dt : Nat) (who : Sess) (s : State) : Next :=
  let s := s.pass dt
  .next (s.runCmd who 0x0803 (fun c =>
    let l := u8 c.pay 0
    let pat := u8 c.pay 1
    let dirs := u8 c.pay 2
    let inj := u8 c.pay 3
    let e := u8 c.pay 4
    let ms := u16 c.pay 6
    plain s c 8 (need s (decide (l < 36 ∧ pat ≤ 4 ∧ dirs ≤ 3 ∧ (inj = 0 ∨ inj = 2) ∧ (if inj = 2 then 10 ≤ e ∧ e ≤ 40 else e = 0) ∧
        u8 c.pay 5 = 0 ∧ 1 ≤ ms)) St.badParam (vet s (
      need s (!s.servesEnabled l && (s.lane l).state != 0) St.state (
        let t : LaneTest := { pattern := pat, dirs := dirs, inj := inj, e := e, ends := s.now + ms * perMs, here := true }
        let blk := kBlock 0x86 (leB 1 pat ++ leB 1 dirs ++ beB 2 ms)
        let x := s.lane l
        let s := s.setLane l { x with state := 10, since := s.now, test := some t, locked := false, bits := 0, errs := 0, losses := 0,
                                      injected := 0, carry := false, info := none, todo := [], capable := none }
        let s := s.emits [.block l blk, .block l blk, .block l blk]
        .done St.ok [] (if bit dirs 0 then s.emit (.pattern l pat) else s)))))))

/-- 0x0804 LANE test read (R254); `rx` are the bits received since the checker was last looked at. A single error is injected by the
device's own generator only. -/
def execLaneTestRead (dt : Nat) (who : Sess) (rx : List Bool) (s : State) : Next :=
  let s := s.pass dt
  .next (s.runCmd who 0x0804 (fun c =>
    let l := u8 c.pay 0
    let flags := u8 c.pay 1
    plain s c 4 (need s (decide (l < 36 ∧ flags ≤ 1 ∧ u16 c.pay 2 = 0)) St.badParam (vet s (
      let running := (s.lane l).state == 10
      need s (flags = 0 || running) St.state (
        let s := s.seeTest l rx
        let sends : Bool := match (s.lane l).test with | some t => t.here && bit t.dirs 0 | none => false
        let s := if flags = 1 ∧ sends then s.setLane l { s.lane l with injected := sat 32 ((s.lane l).injected + 1) } else s
        let x := s.lane l
        let inj := x.injected + (match x.test with | some t => if t.here then s.periodic l t else 0 | none => 0)
        .done St.ok (leB 1 (b2n x.locked + 2 * b2n running) ++ leB 3 0 ++ leB 8 x.bits ++ leB 4 x.errs ++ leB 4 (sat 32 inj) ++ leB 4 x.losses ++
          padTo 8 x.report) s))))))

/-- 0x0805 LANE test stop: the device's own generator and checker end (R252). -/
def execLaneTestStop (dt : Nat) (who : Sess) (rx : List Bool) (s : State) : Next :=
  let s := s.pass dt
  .next (s.runCmd who 0x0805 (fun c => laneForm s c 36 (fun l =>
    let s := s.seeTest l rx
    let x := s.lane l
    match x.test with
    | some t =>
      let n := if t.here then x.injected + s.periodic l t else x.injected
      .done St.ok [] (s.setLane l { x with test := some { t with here := false, inj := 0 }, injected := sat 32 n, locked := false })
    | none => .done St.ok [] s)))

/-- 0x0806 LANE spare switch (R248). -/
def execLaneSpareSwitch (dt : Nat) (who : Sess) (s : State) : Next :=
  let s := s.pass dt
  .next (s.runCmd who 0x0806 (fun c => laneForm s c 32 (fun l =>
    need s (s.spareState (l / 8) == 1 && (s.spare (l / 8)).switching.isNone && (s.lane l).slots != 0) St.state (
      .done St.ok [] (s.beginSwitchTo (l / 8) l)))))

/-- 0x0807 LANE spare return (R251). -/
def execLaneSpareReturn (dt : Nat) (who : Sess) (s : State) : Next :=
  let s := s.pass dt
  .next (s.runCmd who 0x0807 (fun c => laneForm s c 32 (fun l =>
    match s.mayReturn l with
    | some k => .done St.ok (leB 4 (s.beginReturn k l).2) (s.beginReturn k l).1
    | none => refuse s St.state)))

end Sys2Proof.Machine
end

