-- ==== Sys2Proof/Machine/Heads.lean ====
section
/-!
DEFINITION. Heads on the lanes: STATUS blocks (R277, R279), temperatures and mutes (R195 to R198), head cards (R280 to R283)
and the HEAD commands (R292, R530).
-/
namespace Sys2Proof.Machine

/-! ### Temperatures (R195) -/

/-- What LINK holds of a slot. -/
def State.slotLink (s : State) (i : Nat) : SlotLink := sel s.links i {}

/-- Replace it. -/
def State.setLink (s : State) (i : Nat) (x : SlotLink) : State := { s with links := put s.links i x }

/-- A slot has temperature limits: it is enabled in the `slot_mask` in force, and is no legacy slot without a sensor (R195, R290). -/
def State.hasLimits (s : State) (i : Nat) : Bool :=
  (s.enabledSlots (i / 20)).contains (i % 20) &&
  (match s.legacyOf i with | some k => s.par (P.linkLegacySlotTempSensor k) != 0xFF | none => true)

/-- The limits of a slot: soft, hard, hard less hysteresis, soft less hysteresis (R199). -/
def State.limits (s : State) (i : Nat) : Int × Int × Int × Int :=
  let soft := s.parS 16 (P.fireBarSlotTempSoft i)
  let hard := s.parS 16 (P.fireBarSlotTempHard i)
  let hyst : Int := s.par (P.fireBarSlotTempHyst i)
  (soft, hard, hard - hyst, soft - hyst)

/-- The latest report of a slot against its limits (R195). -/
def State.judgeTemp (s : State) (i : Nat) (t : Int) (fresh : Bool) : State :=
  let h := s.head i
  let (soft, hard, hardOff, softOff) := s.limits i
  let nowSoft := decide (soft ≤ t) || (h.soft && decide (softOff ≤ t))
  let nowHard := decide (hard ≤ t) || (h.hard && decide (hardOff ≤ t))
  let hot := decide (soft ≤ t) || (h.hot && decide (softOff ≤ t))
  let reached := decide (soft ≤ t) && !h.hot
  let mute := if decide (hard ≤ t) then true
    else if s.par (P.fireBarSlotAutoUnmute i) = 1 ∧ t < hardOff then false else h.mTemp
  let s := s.setHead i { h with soft := nowSoft, hot := hot, hard := nowHard, mTemp := mute, stale := if fresh then false else h.stale }
  let s := if reached then s.fault F.headTempSoft i else s
  let s := if nowHard then (if h.hard then s else s.raise F.headTempHard i) else s.lower F.headTempHard i
  let s := if fresh then s.lower F.headTempStale i else s
  s.refresh

/-- A temperature report of a slot (R195). -/
def State.tempReport (s : State) (i : Nat) (t : Int) : State :=
  let s := s.setHead i { s.head i with temp := some t, tempT := s.t32, tempAt := s.now }
  if s.hasLimits i then s.judgeTemp i t true else s

/-- No report of a slot for `stale_ms` (R195). -/
def execHeadTempStale (dt : Nat) (slot : Fin 160) (s : State) : Next :=
  let s := s.pass dt
  let i := slot.val
  let h := s.head i
  if !s.hasLimits i ∨ h.stale ∨ s.now < h.tempAt + s.par P.fireTempStaleMs * perMs then .next s else
  let s := s.setHead i { h with stale := true, soft := true }
  .next ((s.raise F.headTempStale i).refresh)

/-! ### Head cards (R280 to R283) -/

/-- CRC-16 of INFO_DATA and the head card (R282). -/
def crc16 (b : Bytes) : Nat := crcMsb 16 0x1021 0xFFFF b

/-- Big-endian field of a card (R233, log 19). -/
def cardField (b : Bytes) (off n : Nat) : Nat := beN (slice b off n)

/-- `card_valid` of a card (R283). -/
def cardValid (b : Bytes) : Nat :=
  let noz := cardField b 0x28 2
  let head : Bool := decide (crc16 (slice b 0 0xEE) = cardField b 0xEE 2 ∧ cardField b 0 4 = 0x4B5A4843 ∧
    4 ≤ noz ∧ noz ≤ 5120 ∧ noz % 4 = 0 ∧ u8 b 0x2A = 4)
  let conc : Bool := decide (crc16 (slice b 0xF0 14) = cardField b 0xFE 2)
  b2n head + 2 * b2n conc

/-- The slot at a position of the lane that reaches it now. -/
def State.slotOn (s : State) (l j : Nat) : Option Nat := (s.primaryOf l).map (fun p => 20 * (p / 4) + s.firstSlot p + j)

/-- HEAD card refresh commands of a slot complete with its `card_valid` (R292). -/
def State.finishRefresh (s : State) (i : Nat) : State :=
  let x := s.slotLink i
  let s := s.setLink i { x with refresh := [] }
  x.refresh.foldl (fun s e => match s.pend? e.1 e.2 with
    | some p => s.completeObj p St.ok i x.valid 0
    | none => s) s

/-- A whole card of a slot has been read (R283). -/
def State.cardRead (s : State) (i : Nat) (b : Bytes) : State :=
  let x := s.slotLink i
  let v := cardValid b
  let other : Bool := match x.card with | some o => slice o 8 32 != slice b 8 32 | none => false
  let s := s.setLink i { x with card := some b, valid := v }
  let s := if v ≠ 3 then s.fault F.headCardBad i else if other then s.fault F.headChanged i else s
  s.finishRefresh i

/-- The read of a chunk has failed: it is repeated, and abandoned after 3 tries (R281). -/
def State.infoFails (s : State) (l : Nat) (r : InfoRead) : State :=
  if r.again then s.sendInfo l { j := r.j }
  else if r.tries + 1 < 3 then s.sendInfo l { r with tries := r.tries + 1 }
  else
    let s := s.setLane l { s.lane l with info := none }
    let s : State := match s.slotOn l r.j with
      | some i => (s.fault F.headInfoTimeout i).finishRefresh i
      | none => s
    s.startInfo l

/-- A chunk has arrived (R280). -/
def State.infoChunk (s : State) (l : Nat) (r : InfoRead) (data : Bytes) : State :=
  let buf := r.buf ++ data
  if r.again then s.sendInfo l { j := r.j }
  else if r.chunk < 7 then s.sendInfo l { r with chunk := r.chunk + 1, tries := 0, buf := buf }
  else
    let s := s.setLane l { s.lane l with info := none }
    let s : State := match s.slotOn l r.j with
      | some i => s.cardRead i buf
      | none => s
    s.startInfo l

/-- The read meets a slot without a head or a chunk the concentrator refuses: it is abandoned (log 20). -/
def State.infoRefused (s : State) (l : Nat) (r : InfoRead) : State :=
  let s := s.setLane l { s.lane l with info := none }
  let s : State := match s.slotOn l r.j with
    | some i => s.finishRefresh i
    | none => s
  s.startInfo l

/-- An INFO_DATA with its data blocks (R280, R281). -/
def execInfoData (dt : Nat) (lane : Fin 36) (block data : Bytes) (s : State) : Next :=
  let s := s.pass dt
  let l := lane.val
  let p1 := u8 block 1
  if !goodBlock block 0x97 ∨ bit p1 3 ∨ u8 block 6 ≠ 0 then .next (s.badUpstream l) else
  match (s.lane l).info with
  | none => .next s
  | some r =>
    let status := p1 / 16
    let mine := p1 % 8 == r.j && u8 block 2 == r.tag.toNat && u8 block 3 == r.chunk
    let whole := data.length == 32 && crc16 data == cardField block 4 2
    if !mine ∨ status = 2 ∨ (status = 0 ∧ !whole) then .next (s.infoFails l r)
    else if status = 0 then .next (s.infoChunk l r data)
    else .next (s.infoRefused l r)

/-- An INFO_READ has met no answer within `info_timeout_us` (R281). -/
def execInfoTimeout (dt : Nat) (lane : Fin 36) (s : State) : Next :=
  let s := s.pass dt
  match (s.lane lane.val).info with
  | some r => .next (if s.now < r.sentAt + s.par P.linkHeadInfoTimeoutUs * perUs then s else s.infoFails lane.val r)
  | none => .next s

/-- Read the card of a slot position again (R279, R283, R291): a read that runs restarts at chunk 0, once its outstanding INFO_READ is
answered or has timed out, since a lane has one outstanding (R281). -/
def State.rereadCard (s : State) (l j : Nat) : State :=
  let x := s.lane l
  match x.info with
  | some r =>
    if r.j = j then s.setLane l { x with info := some { r with again := true } }
    else s.setLane l { x with todo := addTo x.todo j }
  | none => (s.setLane l { x with todo := addTo x.todo j }).startInfo l

/-! ### STATUS (R277, R279) -/

/-- The flags of a STATUS count and record their sources (R279, R293). -/
def State.statusFlags (s : State) (i flags : Nat) : State :=
  let miss := bit flags 2 || bit flags 3 || bit flags 6
  let x := s.slotLink i
  let s := s.setLink i { x with flags := BitVec.ofNat 8 flags, frameErr := sat 32 (x.frameErr + b2n (bit flags 0) + b2n (bit flags 1)),
                                fireMiss := sat 32 (x.fireMiss + b2n miss) }
  let s := if bit flags 0 then s.fault F.headFrameCrc i else s
  let s := if bit flags 1 then s.fault F.headRepeat i else s
  let s := if miss then s.fault F.headFireMiss i else s
  if bit flags 4 || bit flags 5 then s.fault F.headError i else s

/-- A STATUS of a slot on its ACTIVE lane (R279). -/
def State.status (s : State) (l j : Nat) (b : Bytes) : State :=
  match s.slotOn l j with
  | none => s
  | some i =>
    let valid := bit (u8 b 1) 3
    let x := s.slotLink i
    let s := s.setLink i { x with ltValid := valid, alive := BitVec.ofNat 16 (beN (slice b 5 2)) }
    let raw := beN (slice b 2 2)
    let s := if raw = 0x8000 then s else s.tempReport i (signed 16 raw)
    let s := s.statusFlags i (u8 b 4)
    let s := if bit (u8 b 1) 4 then s.rereadCard l j else s
    let s := if valid then s.lower F.linkTimeLost i else s.raise F.linkTimeLost i
    -- a switch to a spare is complete when every slot has link time from it (R248)
    if l < 32 ∨ !((s.primaryOf l).map s.primarySlots |>.getD []).all (fun i => (s.slotLink i).ltValid) then s
    else s.setSpare (l - 32) { s.spare (l - 32) with switching := none }

/-- A STATUS block (R260, R277). -/
def execStatusBlock (dt : Nat) (lane : Fin 36) (block : Bytes) (s : State) : Next :=
  let s := s.pass dt
  let l := lane.val
  if !goodBlock block 0x94 ∨ 32 ≤ u8 block 1 ∨ bit (u8 block 4) 7 then .next (s.badUpstream l)
  else
    let j := u8 block 1 % 8
    let n := match s.primaryOf l with | some p => (s.lane p).slots | none => 0
    if (s.lane l).state ≠ 6 ∨ n ≤ j then .next s else .next (s.status l j block)

/-! ### HEAD commands (R530) -/

/-- `fire.bar[b].slot[s].mute`: TEMP, FAULT, HOST and the soft state (R199). -/
def State.muteBits (s : State) (i : Nat) : Nat :=
  let h := s.head i
  b2n h.mTemp + 2 * b2n (s.faultMuted i) + 4 * b2n h.mHost + 16 * b2n h.soft

/-- The 12 bytes of a slot in HEAD status. -/
def State.headBytes (s : State) (i : Nat) : Bytes :=
  let h := s.head i
  let x := s.slotLink i
  leB 2 (match h.temp with | some t => unsigned 16 t | none => 0x8000) ++ leB 1 (s.muteBits i) ++ leB 1 x.valid ++ leB 4 h.tempT.toNat ++
    leB 1 x.flags.toNat ++ leB 3 0

/-- 0x0701 HEAD status. -/
def execHeadStatus (dt : Nat) (who : Sess) (s : State) : Next :=
  let s := s.pass dt
  .next (s.runCmd who 0x0701 (fun c =>
    let b := u8 c.pay 0
    let first := u8 c.pay 1
    let n := u8 c.pay 2
    plain s c 4 (need s (decide (b < 8 ∧ 1 ≤ n ∧ n ≤ 19 ∧ first + n ≤ 20 ∧ u8 c.pay 3 = 0)) St.badParam (vet s (
      .done St.ok (leB 1 b ++ leB 1 first ++ leB 1 n ++ leB 1 0 ++ (List.range n).flatMap (fun k => s.headBytes (20 * b + first + k))) s)))))

/-- The slots of a bitmap, 20b + s (R518). -/
def bitmapSlots (p : Bytes) : List Nat := unmask 160 (fld p 0 20)

/-- The bitmap of slots. -/
def slotBitmap (l : List Nat) : Bytes := leB 20 (maskOf l)

/-- 0x0702 HEAD mute (R197). -/
def execHeadMute (dt : Nat) (who : Sess) (s : State) : Next :=
  let s := s.pass dt
  .next (s.runCmd who 0x0702 (fun c =>
    plain s c 24 (need s (decide (u32 c.pay 20 = 0)) St.badParam (vet s (
      .done St.ok (leB 4 s.fire.next) ((bitmapSlots c.pay).foldl (fun s i => s.setHead i { s.head i with mHost := true }) s))))))

/-- A slot is unmuted by the host: HOST clears, TEMP where its temperature allows (R195, R198). -/
def State.unmute (s : State) (i : Nat) : State :=
  let h := s.head i
  let cool : Bool := match h.temp with | some t => decide (t < (s.limits i).2.2.1) | none => false
  s.setHead i { h with mHost := false, mTemp := h.mTemp && !cool }

/-- 0x0703 HEAD unmute (R198). -/
def execHeadUnmute (dt : Nat) (who : Sess) (s : State) : Next :=
  let s := s.pass dt
  .next (s.runCmd who 0x0703 (fun c =>
    plain s c 24 (need s (decide (u32 c.pay 20 = 0)) St.badParam (vet s (
      let l := bitmapSlots c.pay
      let t := l.foldl State.unmute s
      let left := l.filter (fun i => (t.head i).mTemp)
      .done (if left.isEmpty then St.ok else St.state) (leB 4 s.fire.next ++ slotBitmap left) t)))))

/-- 0x0704 HEAD card read (R292). -/
def execHeadCardRead (dt : Nat) (who : Sess) (s : State) : Next :=
  let s := s.pass dt
  .next (s.runCmd who 0x0704 (fun c =>
    let i := u8 c.pay 0
    let first := u8 c.pay 1
    let n := u8 c.pay 2
    plain s c 4 (need s (decide (i < 160 ∧ first ≤ 7 ∧ 1 ≤ n ∧ n ≤ 4 ∧ first + n ≤ 8 ∧ u8 c.pay 3 = 0)) St.badParam (vet s (
      match (s.legacyOf i).isSome, (s.slotLink i).card with
      | false, some b => .done St.ok (leB 1 (s.slotLink i).valid ++ leB 3 0 ++ slice b (32 * first) (32 * n)) s
      | _, _ => refuse s St.state)))))

/-- The lane that reaches a slot's head, when it is ACTIVE. -/
def State.headLane (s : State) (i : Nat) : Option Nat :=
  if (s.legacyOf i).isSome then none else (s.primaryFor i).bind (fun l => s.carrier l s.fire.next)

/-- 0x0705 HEAD card refresh (R292). -/
def execHeadCardRefresh (dt : Nat) (who : Sess) (s : State) : Next :=
  let s := s.pass dt
  .next (s.runCmd who 0x0705 (fun c =>
    let i := u8 c.pay 0
    plain s c 4 (need s (decide (i < 160 ∧ fld c.pay 1 3 = 0)) St.badParam (vet s (hasQueue s who (
      match s.headLane i with
      | none => refuse s St.state
      | some l =>
        let s := s.setLink i { s.slotLink i with refresh := (s.slotLink i).refresh ++ [(who, c.seq)] }
        .pend i (s.rereadCard l (s.slotPos i))))))))

end Sys2Proof.Machine
end

