-- ==== Sys2Proof/Machine/Sensors.lean ====
section
/-!
DEFINITION. STOKER's sensors: on-die temperatures and voltage monitors (R473, R474, R508), board sensors (R475), the core
regulator (R476), the legacy heads' temperatures (R290) and DIAG sensors (R535).
-/
namespace Sys2Proof.Machine

/-- Trim steps that KINDLING applies (R508). -/
def trimStepCount : Nat := 16

/-- The trims are being applied: readings hold their last value and are STALE (R508). -/
def State.trimming (s : State) : Bool := s.pwr.kind == 0 && decide (s.pwr.trimSteps < trimStepCount)

/-- STOKER's conversions run: from stage 5 of KINDLING on (R473, R508), and not while UPDATING or HALTED. -/
def State.converting (s : State) : Bool := s.pwr.kind == 1 || s.pwr.kind == 0 && decide (5 ≤ s.pwr.stage)

/-- A quotient whose rounding the spec does not state: a free value picks one of its two neighbours (log 11). -/
def State.either (s : State) (num : Int) (den : Nat) : Int := num / den + (if num % den = 0 then 0 else (Config.value s.free % 2 : Nat))

/-! ### On-die sensors and monitors -/

/-- tj_max: the highest of the 24 readings (R473); 0 before a conversion (log 6). -/
def State.tjMax (s : State) : Int := ((s.mgmt.tj.map Prod.snd).max?).getD 0

/-- A hit at once and then every second while a condition holds (R473): the time of the last hit, and whether one is due. -/
def repeatHit (last : Option Nat) (holds : Bool) (now : Nat) : Option Nat × Bool :=
  if !holds then (none, false) else
  match last with
  | none => (some now, true)
  | some t => if t + perSecond ≤ now then (some now, true) else (some t, false)

/-- A sensor's reading after factory trim (R473, R508); an unprogrammed trim record is neutral (R507). -/
def State.trimTj (s : State) (i : Nat) (raw : Int) : Int :=
  match s.otp.trim with
  | some r => Config.tempTrim ((r.tjOff[i]?).getD 0) raw
  | none => raw

/-- A monitor's reading after factory trim (R508). -/
def State.trimMv (s : State) (i raw : Nat) : Nat :=
  match s.otp.trim with
  | some r => Config.voltTrim ((r.vGain[i]?).getD 0) raw
  | none => raw

/-- Conversion of the temperature sensors (R473). -/
def State.convertTj (s : State) (tj : List Int) : State :=
  if s.trimming then s else
  let m := (List.range 24).foldl (fun (m : SMap Int) i => match tj[i]? with | some t => put m i (clamp (-400) 1500 (s.trimTj i t)) | none => m) s.mgmt.tj
  let s := { s with mgmt := { s.mgmt with tj := m } }
  let (warn, hitW) := repeatHit s.mgmt.warnAt (decide ((s.par P.manageTsenseTjWarn : Int) ≤ s.tjMax)) s.now
  let (crit, hitC) := repeatHit s.mgmt.critAt (decide ((s.par P.manageTsenseTjCrit : Int) ≤ s.tjMax)) s.now
  let s := { s with mgmt := { s.mgmt with warnAt := warn, critAt := crit } }
  let s := if hitW then s.fault F.tjWarn 0 else s
  if hitC then s.fault F.tjCrit 0 else s

/-- A monitor's reading lies in its window (R474); monitor 0 is not checked for 2 ms after a PMBus write. -/
def State.monitorOk (s : State) (i mv : Nat) : Bool :=
  if i = 0 then decide (s.now < s.mgmt.vcoreAt + 2 * perMs) || decide (s.draught.setMv ≤ mv + 30 ∧ mv ≤ s.draught.setMv + 30)
  else decide (s.par (P.manageVmonLowMv i) ≤ mv ∧ mv ≤ s.par (P.manageVmonHighMv i))

/-- A reading of one monitor. -/
def State.monitor (s : State) (i mv : Nat) : State :=
  let mv := min 4000 mv
  let (last, hit) := repeatHit (look s.mgmt.rangeAt i) (!s.monitorOk i mv) s.now
  let at_ : SMap Nat := match last with | some t => put s.mgmt.rangeAt i t | none => cut s.mgmt.rangeAt i
  let s := { s with mgmt := { s.mgmt with mv := put s.mgmt.mv i mv, rangeAt := at_ } }
  if hit then s.fault F.vmonRange i else s

/-- Conversion of the voltage monitors (R473, R474). -/
def State.convertMv (s : State) (mv : List Nat) : State :=
  if s.trimming then s else
  let trimmed := s.trimMv
  (List.range 16).foldl (fun (s : State) i => match mv[i]? with | some v => s.monitor i (trimmed i v) | none => s) s

/-- A trim step is applied at each conversion (R508). -/
def State.trimStep (s : State) : State :=
  if s.trimming then { s with pwr := { s.pwr with trimSteps := s.pwr.trimSteps + 1 } } else s

/-- Every `period_ms` STOKER converts the sensors and monitors. -/
def execSensorConvert (dt : Nat) (tj : List Int) (mv : List Nat) (s : State) : Next :=
  let s := s.pass dt
  if s.converting ∧ s.mgmt.convNext ≤ s.now then
    let s := { s with mgmt := { s.mgmt with convNext := s.now + s.par P.manageTsensePeriodMs * perMs } }
    .next ((s.convertTj tj).convertMv mv).trimStep
  else .next s

/-! ### Board sensors (R475) -/

/-- A board sensor. -/
def State.board (s : State) (i : Nat) : Sensor := sel s.mgmt.boards i {}

/-- Replace it. -/
def State.setBoard (s : State) (i : Nat) (b : Sensor) : State := { s with mgmt := { s.mgmt with boards := put s.mgmt.boards i b } }

/-- The sensor is read: its BUS is I²C or PMBus. -/
def State.boardOn (s : State) (i : Nat) : Bool :=
  let bus := bits (s.par (P.manageBoardConfig i)) 30 2
  bus == 1 || bus == 2

/-- A reading is STALE: no good read for 3 periods, or while trims are applied (R475, R508). -/
def State.boardStale (s : State) (i : Nat) : Bool :=
  s.trimming || (match (s.board i).goodAt with
    | none => true
    | some t => decide (t + 3 * s.par (P.manageBoardPeriodMs i) * perMs ≤ s.now))

/-- A word of a FORMAT as a fraction of its unit times 1,000: numerator and denominator. -/
def wordValue (fmt : Nat) (w : SensorWord) : Int × Nat :=
  let scale (m : Int) (e : Int) : Int × Nat := if 0 ≤ e then (m * 1000 * (2 ^ e.toNat : Nat), 1) else (m * 1000, 2 ^ e.natAbs)
  match fmt with
  | 0 => (signed 16 w.word.toNat * 1000, 256)
  | 2 => scale (signed 11 w.word.toNat) (signed 5 (w.word.toNat / 2048))
  | 3 => scale w.word.toNat (signed 5 w.exp.toNat)
  | _ => ((w.word.toNat : Int) * 1000, 1)

/-- One read of a board sensor: a word, or none when it fails. -/
def State.readBoard (s : State) (i : Nat) (raw : Option SensorWord) : State :=
  if !s.boardOn i then s else
  let b := s.board i
  match raw with
  | some w =>
    if s.trimming then s.setBoard i { b with fails := 0 } else
    let (n, d) := wordValue (bits (s.par (P.manageBoardConfig i)) 12 3) w
    (s.setBoard i { b with value := clamp (-2147483648) 2147483647 (s.either n d), fails := 0, goodAt := some s.now }).fresh
  | none =>
    if b.fails + 1 < 3 then s.setBoard i { b with fails := b.fails + 1 }
    else (s.setBoard i { b with fails := 0 }).fault F.boardSensorFail i

/-- Every `period_ms` a board sensor is read. -/
def execBoardSensorRead (dt : Nat) (i : Fin 64) (raw : Option SensorWord) (s : State) : Next :=
  let s := s.pass dt
  let b := s.board i.val
  if s.converting ∧ s.boardOn i.val ∧ b.nextAt ≤ s.now then
    .next ((s.setBoard i.val { b with nextAt := s.now + s.par (P.manageBoardPeriodMs i.val) * perMs }).readBoard i.val raw)
  else .next s

/-- The temperature of a board sensor in 0.1 °C, none while it is STALE or off. -/
def State.boardTemp (s : State) (i : Nat) : Option Int :=
  if i < 64 ∧ s.boardOn i ∧ !s.boardStale i then some (s.either (s.board i).value 100) else none

/-- Every 10 ms a legacy slot's board sensor gives its temperature report (R290). -/
def execLegacyTempRead (dt : Nat) (slot : Fin 8) (s : State) : Next :=
  let s := s.pass dt
  if s.now < sel s.mgmt.legacyNext slot.val 0 then .next s else
  match (List.range 160).find? (fun i => s.legacyOf i == some slot.val), s.boardTemp (s.par (P.linkLegacySlotTempSensor slot.val)) with
  | some i, some t =>
    let s := { s.fresh with mgmt := { s.mgmt with legacyNext := put s.mgmt.legacyNext slot.val (s.now + 10 * perMs) } }
    .next (s.tempReport i t)
  | _, _ => .next s

/-! ### The core regulator (R476) -/

/-- Every 100 ms STOKER reads the regulator's current and temperature (READ_IOUT, READ_TEMPERATURE_1); a read that fails changes nothing. -/
def execPmbusPoll (dt : Nat) (reading : Option (Nat × Int)) (s : State) : Next :=
  let s := s.pass dt
  if s.now < s.mgmt.vregNext then .next s else
  let s := { s with mgmt := { s.mgmt with vregNext := s.now + 100 * perMs } }.vcoreBus [(0x8C, none), (0x8D, none)]
  match reading with
  | some (ma, t) => .next { s with mgmt := { s.mgmt with iout := sat 32 ma, vtemp := clamp (-32768) 32767 t } }
  | none => .next s

/-- PMB_ALERT_N falls: the status word is read and CLEAR_FAULTS sent. -/
def execPmbAlert (dt : Nat) (status : BitVec 16) (s : State) : Next :=
  .next (((s.pass dt).vcoreBus [(0x79, none), (0x03, none)]).fault F.vregAlert status.toNat)

/-! ### DIAG sensors -/

/-- 0x1004 DIAG sensors. -/
def execDiagSensors (dt : Nat) (who : Sess) (s : State) : Next :=
  let s := s.pass dt
  .next (s.runCmd who 0x1004 (fun c =>
    let part := u8 c.pay 0
    plain s c 4 (need s (decide (part ≤ 2 ∧ fld c.pay 1 3 = 0)) St.badParam (vet s (
      let all := s.trimming
      if part = 0 then
        .done St.ok ((List.range 24).flatMap (fun i => leB 2 (unsigned 16 (sel s.mgmt.tj i 0))) ++
          (List.range 16).flatMap (fun i => leB 2 (sel s.mgmt.mv i 0)) ++
          leB 4 (maskOf ((List.range 24).filter (fun i => all || (look s.mgmt.tj i).isNone))) ++
          leB 4 (maskOf ((List.range 16).filter (fun i => all || (look s.mgmt.mv i).isNone)))) s
      else
        let first := 32 * (part - 1)
        .done St.ok ((List.range 32).flatMap (fun k => leB 4 (unsigned 32 (s.board (first + k)).value)) ++
          leB 4 (maskOf ((List.range 32).filter (fun k => s.boardStale (first + k))))) s)))))

end Sys2Proof.Machine
end

