-- ==== Sys2Proof/Machine/Time.lean ====
section
/-!
DEFINITION. Device time, PTP, schedules and triggers (R322 to R344) and the TIME commands (R532).
-/
namespace Sys2Proof.Machine

/-! ### Trigger pulses (R339 to R341, R353, R354) -/

/-- Pending trigger records a context keeps (R354). -/
def trigRecords : Nat := 8

/-- A context takes a record of a pulse; a ninth discards the oldest (R353, R354). -/
def State.trigRecord (s : State) (c p : Nat) : State :=
  let x := s.ctx c
  let full := decide (trigRecords ≤ x.trigs.length)
  let pulse := if s.parFrame (P.inspectCtxEnable c) = 1 ∧ x.pulseAt.isNone then some s.now else x.pulseAt
  let s := s.setCtx c { x with trigs := (if full then x.trigs.drop 1 else x.trigs) ++ [(p, s.t32ns)], pulseAt := pulse }
  if full then s.fault F.trigUnmatched c else s

/-- Level of a pulse of an output (R339). -/
def State.trigLevel (s : State) (k : Nat) (active : Bool) : Bool := active != (s.parLine (P.timeTrigPolarity k) == 1)

/-- A pulse falls due on an output, for a fire position or, in TIME mode, 0xFFFF_FFFF (R339, R341, R354). -/
def State.pulse (s : State) (k p : Nat) : State :=
  let x := s.trig k
  if x.active then s.fault F.trigOverrun k else
  let s := s.setTrig k { x with active := true, ends := s.clk.tclk + tclkOf (s.parLine (P.timeTrigWidthNs k)), pulses := sat 32 (x.pulses + 1) }
  let s := s.emit (.trig k (s.trigLevel k true))
  ((List.range 16).filter (fun c => s.parFrame (P.inspectCtxTrig c) == k)).foldl (fun s c => s.trigRecord c p) s

/-- A position pulse of an output starts (R340). -/
def execTriggerPulse (dt : Nat) (o : Fin 8) (s : State) : Next :=
  let s := s.pass dt
  let x := s.trig o.val
  match x.due with
  | (p, t) :: rest => if t ≤ s.clk.tclk then .next ((s.setTrig o.val { x with due := rest }).pulse o.val p) else .next s
  | [] => .next s

/-- A pulse ends (R339). -/
def execTriggerPulseEnd (dt : Nat) (o : Fin 8) (s : State) : Next :=
  let s := s.pass dt
  let x := s.trig o.val
  if x.active ∧ x.ends ≤ s.clk.tclk then
    .next ((s.setTrig o.val { x with active := false }).emit (.trig o.val (s.trigLevel o.val false)))
  else .next s

/-! ### Causes of GSTAT_EVENTS.TIME -/

/-- A cause of GSTAT_EVENTS.TIME: 0 REPORT execution, 1 servo state, 2 step (R532). -/
def State.timeCause (s : State) (k : Nat) : State :=
  ({ s with time := { s.time with causes := s.time.causes ||| BitVec.ofNat 16 (2 ^ k) } }).event evTime

/-! ### Schedule (R334 to R338) -/

/-- The conversion that a CONVERT entry starts (R334, R473, R475). -/
def State.convert (s : State) (target : Nat) (r : Readings) : State :=
  if target = 0 then ((s.convertTj r.tj).convertMv r.mv).trimStep
  else if target = 1 then s.convertMv r.mv
  else r.boards.foldl (fun s b => s.readBoard b.1 b.2) s

/-- A scheduled JOB_START arms its splice; its PENDING command, when it still waits, completes (R337). -/
def State.jobStart (s : State) (x : Sched) : State :=
  let pend : Option Pend := x.owner.bind (fun o => s.pend? o.1 o.2)
  match s.arm x.index 0 0 s.pos x.off with
  | .inl st => match pend with | some p => s.complete p st (shift32 s.pos x.off) idHob | none => s
  | .inr (t, lam, _) => match pend with | some p => t.complete p St.ok lam idHob | none => t

/-- Free a schedule entry. -/
def State.freeSched (s : State) (e : Nat) : State := { s with time := { s.time with sched := cut s.time.sched e } }

/-- Now on an entry's time base, in ns. -/
def State.schedNow (s : State) (x : Sched) : Nat := if x.base = 0 then s.t32ns else s.devNs

/-- An entry executes; `late` entries go on from the first of their instants after now (R336, R338). -/
def State.runSched (s : State) (e : Nat) (x : Sched) (r : Readings) (late : Bool) : State :=
  let go := x.period ≠ 0 ∧ (x.forever ∨ 1 < x.left)
  let next := if late then x.next + ((s.schedNow x - x.next) / x.period + 1) * x.period else x.next + x.period
  let s := if go then { s with time := { s.time with sched := put s.time.sched e { x with next := next, left := x.left - 1 } } }
    else s.freeSched e
  let s := if x.action = 1 then s.jobStart x else if x.action = 2 then s.convert x.target r else s.pulse x.target 0xFFFFFFFF
  if x.report then s.timeCause 0 else s

/-- An entry of a lower number is due: it executes first (R336). -/
def State.dueBefore (s : State) (i : Nat) : Bool := s.time.sched.any (fun e => decide (e.1 < i ∧ e.2.next ≤ s.schedNow e.2))

/-- An entry's instant comes (R336). -/
def execScheduleExecute (dt : Nat) (i : Fin 64) (conv : Readings) (s : State) : Next :=
  let s := s.pass dt
  match look s.time.sched i.val with
  | some x => if x.next ≤ s.schedNow x ∧ !s.dueBefore i.val then .next (s.runSched i.val x conv false) else .next s
  | none => .next s

/-! ### Steps (R323, R326, R328, R338) -/

/-- Units of Device Time after which its 48-bit seconds wrap. -/
def devWrap : Nat := 2 ^ 48 * 1000000000 * nsUnit

/-- Device Time steps to a value: the credit is used, the VBAT seconds rewritten, entries whose instants are passed execute once. -/
def State.stepTime (s : State) (devu : Nat) (r : Readings) : State :=
  let s := { s with clk := { s.clk with devu := devu % devWrap },
                    time := { s.time with steps := sat 32 (s.time.steps + 1), credit := false } }
  let s := { s with vbat := { s.vbat with sec := s.devSec, sub := 0 } }
  let late := s.time.sched.filter (fun e => e.2.base == 1 && decide (e.2.next ≤ s.devNs))
  let s := late.foldl (fun (s : State) e => (s.runSched e.1 e.2 r true).fault F.schedLate e.1) s
  s.timeCause 2

/-! ### PTP (R327, R329 to R333) -/

/-- Limit of the rate correction in ppt (R322). -/
def rhoLimit : Int := 500000000

/-- Syncs within `lock_ns` that make LOCKED (R331). -/
def lockSyncs : Nat := 16

/-- The servo enters a state (R331); HOLDOVER records PTP_LOST. -/
def State.setServo (s : State) (v : Nat) : State :=
  if s.time.servo = v then s else
  let s := ({ s with time := { s.time with servo := v, inLock := 0 } }).timeCause 1
  if v = 4 then s.fault F.ptpLost 0 else s

/-- The controller's rate (R330): Kp times the offset rate plus Ki times the sum of the offsets, within the limits. The spec gives no unit of
the two: they are free functions (log 11). -/
def State.servoRate (s : State) (off was : Int) (gap : Nat) : Int :=
  clamp (-rhoLimit) rhoLimit
    (((s.par P.timePtpKp : Int) * Config.offsetRate off was gap + (s.par P.timePtpKi : Int) * Config.offsetSum s.time.sum) / 65536)

/-- What a Sync does to the clock (R330): a step of minus the offset, a slew at the limit or the controller's rate. -/
def State.syncRate (s : State) (off was : Int) (gap : Nat) (conv : Readings) : State :=
  let far := decide (s.par P.timePtpStepThresholdNs < off.natAbs)
  if far && s.time.credit then
    ({ s with time := { s.time with refused := false } }).stepTime (((s.clk.devu : Int) - off * nsUnit) % devWrap).toNat conv
  else if far then
    let s := { s with clk := { s.clk with rho := if 0 < off then -rhoLimit else rhoLimit } }
    if s.time.refused then s else ({ s with time := { s.time with refused := true } }).fault F.ptpStepRefused 0
  else
    { s with clk := { s.clk with rho := s.servoRate off was gap }, time := { s.time with refused := false } }

/-- The rate limit's hit (R330) and the servo's state after a Sync in state `st` (R331). -/
def State.syncState (s : State) (st : Nat) (off : Int) : State :=
  let s := if s.clk.rho.natAbs = rhoLimit.toNat then s.fault F.timeRateLimit 0 else s
  let n := if off.natAbs ≤ s.par P.timePtpLockNs then s.time.inLock + 1 else 0
  let v := if st = 3 ∧ n ≠ 0 ∨ lockSyncs ≤ n then 3 else 2
  let s := s.setServo v
  { s with time := { s.time with inLock := min lockSyncs n } }

/-- A Sync reaches the servo with the offset it measures, asymmetry not yet applied, and the path delay (R330 to R332);
one whose exchange has lost a timestamp is skipped (R333). -/
def execPtpSync (dt : Nat) (port : Fin 2) (offset : Int) (delay : Nat) (conv : Readings) (s : State) : Next :=
  let s := s.pass dt
  let st := s.time.servo
  if s.par P.timePtpEnable = 0 ∨ s.par P.timePtpPort ≠ port.val ∨ !(st = 2 ∨ st = 3 ∨ st = 4) then .next s else
  if s.time.skip then .next { s with time := { s.time with skip := false } } else
  let off := offset - s.parS 32 (P.timePortAsymmetryNs port.val)
  let was := s.time.offset
  let gap := s.now - s.time.lastSync
  let s := { s with time := { s.time with offset := clamp (-2147483648) 2147483647 off, delay := sat 32 delay,
                                          lastSync := s.now, sum := s.time.sum + off } }
  .next ((s.syncRate off was gap conv).syncState st off)

/-- Timestamps each queue holds (R333). -/
def stampDepth : Nat := 64

/-- The message belongs to the clock (R329): its domain, and the delay mechanism in use. -/
def State.ptpHeeds (s : State) (msg : Bytes) : Bool :=
  let ty := u8 msg 0 % 16
  u8 msg 4 == s.par P.timePtpDomain && (if bit (s.par P.timePtpOptions) 1 then ty != 1 && ty != 9 else ty != 2 && ty != 3 && ty != 0xA)

/-- A message as it leaves (R329): a one-step Sync has its correctionField and originTimestamp written in flight and its two-step flag clear;
a two-step one has the flag set. -/
def State.ptpSent (s : State) (msg : Bytes) : Bytes :=
  if u8 msg 0 % 16 ≠ 0 then msg
  else if bit (s.par P.timePtpOptions) 0 then
    let b := overlay msg 6 [BitVec.ofNat 8 (u8 msg 6) &&& 0xFD]
    overlay (overlay b 8 (leB 8 0)) 34 (beB 6 (s.devNs / 1000000000) ++ beB 4 (s.devNs % 1000000000))
  else overlay msg 6 [BitVec.ofNat 8 (u8 msg 6) ||| 0x02]

/-- A timestamp at the balls in tenths of a nanosecond (R332); `fast` marks 10GBASE-R. -/
def State.ptpStamp (s : State) (tx fast : Bool) : Nat :=
  let t := s.clk.devu * 10 / nsUnit
  if tx then t + (if fast then 448 else 1840) else t - (if fast then 704 else 2624)

/-- A PTP message enters or, when `tx`, leaves; an event message takes a timestamp; `taken` are those the servo took since the message
before, `bmca` what the best master clock algorithm decides, and `fast` whether the port runs 10GBASE-R (R329, R331 to R333). -/
def execPtpEventMessage (dt : Nat) (port : Fin 2) (tx : Bool) (msg : Bytes) (taken : Nat) (bmca : Bmca) (s : State) (fast : Bool := false) : Next :=
  let s := s.pass dt
  if s.par P.timePtpEnable = 0 ∨ s.par P.timePtpPort ≠ port.val ∨ !s.ptpHeeds msg then .next s else
  let s := if tx then s.emit (.ptp port.val (bit (s.par P.timePtpOptions) 2) (s.ptpSent msg)) else s
  let k := 2 * port.val + b2n tx
  let held := (sel s.time.q k []).drop taken
  let event := decide (u8 msg 0 % 16 < 4)
  let full := event && decide (stampDepth ≤ held.length)
  let s := { s with time := { s.time with q := put s.time.q k (if event && !full then held ++ [s.ptpStamp tx fast] else held), skip := s.time.skip || full } }
  let s := if full then s.fault F.ptpTsLost port.val else s
  match bmca with
  | .keep => .next s
  | .none => .next (({ s with time := { s.time with master := [] } }).setServo 1)
  | .master id => if s.time.master = padTo 8 id ∧ 2 ≤ s.time.servo ∧ s.time.servo ≤ 4 then .next s else
      .next (({ s with time := { s.time with master := padTo 8 id, lastSync := s.now } }).setServo 2)
  | .self => if bit (s.par P.timePtpOptions) 3 then .next (({ s with time := { s.time with master := [] } }).setServo 5) else .next s

/-- No Sync for `timeout_ms` (R331): HOLDOVER, with the rate as it is. -/
def execPtpTimeout (dt : Nat) (s : State) : Next :=
  let s := s.pass dt
  if (s.time.servo = 2 ∨ s.time.servo = 3) ∧ s.time.lastSync + s.par P.timePtpTimeoutMs * perMs ≤ s.now then .next (s.setServo 4)
  else .next s

/-! ### TIME commands (R532) -/

/-- 0x0B01 status: the causes are cleared. -/
def execTimeStatus (dt : Nat) (who : Sess) (s : State) : Next :=
  let s := s.pass dt
  .next (s.runCmd who 0x0B01 (fun c => plain s c 0 (vet s (
    .done St.ok (leB 1 s.time.servo ++ leB 1 (b2n s.time.credit) ++ leB 2 s.time.causes.toNat ++ leB 4 (unsigned 32 s.time.offset) ++
      leB 4 s.time.delay ++ leB 4 (unsigned 32 s.clk.rho) ++ leB 4 s.time.steps ++ padTo 8 s.time.master)
      { s with time := { s.time with causes := 0 } }))))

/-- 0x0B02 set (R323, R326); `conv` is what the CONVERT entries that the step passes read. -/
def execTimeSet (dt : Nat) (who : Sess) (conv : Readings) (s : State) : Next :=
  let s := s.pass dt
  .next (s.runCmd who 0x0B02 (fun c =>
    let sec := fld c.pay 0 6
    let ns := u32 c.pay 8
    plain s c 12 (need s (decide (u16 c.pay 6 = 0 ∧ ns < 1000000000)) St.badParam (vet s (
      need s s.time.credit St.state (
        .done St.ok (leB 4 s.t32.toNat) (s.stepTime ((sec * 1000000000 + ns) * nsUnit) conv)))))))

/-- 0x0B03 step arm (R326). -/
def execTimeStepArm (dt : Nat) (who : Sess) (s : State) : Next :=
  let s := s.pass dt
  .next (s.runCmd who 0x0B03 (fun c => plain s c 0 (vet s (.done St.ok [] { s with time := { s.time with credit := true } }))))

/-- The fields of an entry lie in their ranges (R334, R335). -/
def schedRange (b : Bytes) : Bool :=
  let a := u8 b 0
  let base := u8 b 1
  decide (1 ≤ a ∧ a ≤ 3 ∧ base ≤ 1 ∧ u8 b 2 ≤ 1 ∧ u32 b 0x1C = 0) &&
  (if a = 1 then u8 b 3 == 0 else if a = 2 then decide (u8 b 3 ≤ 2) else decide (u8 b 3 ≤ 7)) &&
  (if base = 0 then fld b 8 6 == 0 else decide (u32 b 4 < 1000000000)) &&
  (if a = 1 then indexOk (u16 b 0x0E) && u32 b 0x10 == 0 else u16 b 0x0E == 0 && (u32 b 0x10 == 0 || decide (1000 ≤ u32 b 0x10)))

/-- The instant an entry names on its base, when it lies far enough ahead (R335). -/
def State.schedAt (s : State) (b : Bytes) : Option Nat :=
  if u8 b 1 = 0 then
    let d := (u32 b 4 + 2 ^ 32 - s.t32.toNat) % 2 ^ 32
    if 10000 ≤ d ∧ d ≤ 2 ^ 31 - 1 then some (s.t32ns + d) else none
  else
    let t := fld b 8 6 * 1000000000 + u32 b 4
    if s.clk.devu + 10000 * nsUnit ≤ t * nsUnit then some t else none

/-- 0x0B04 schedule add (R334, R335, R337). -/
def execTimeScheduleAdd (dt : Nat) (who : Sess) (s : State) : Next :=
  let s := s.pass dt
  .next (s.runCmd who 0x0B04 (fun c =>
    let b := c.pay
    plain s c 32 (need s (schedRange b) St.badParam (vet s (
      match s.schedAt b with
      | none => refuse s St.badParam
      | some t =>
        if u8 b 0 = 3 ∧ s.par (P.timeTrigMode (u8 b 3)) ≠ 1 then refuse s St.badParam else
        let free := (List.range 64).filter (fun e => (look s.time.sched e).isNone)
        match free[Config.value s.free % free.length]? with
        | none => refuse s St.noSpace
        | some e =>
          let job := u8 b 0 == 1
          let x : Sched := { action := u8 b 0, base := u8 b 1, report := u8 b 2 == 1, target := u8 b 3, next := t, index := u16 b 0x0E,
                             period := u32 b 0x10, left := if u32 b 0x10 = 0 then 1 else u32 b 0x14,
                             forever := u32 b 0x10 != 0 && u32 b 0x14 == 0, off := signed 32 (u32 b 0x18),
                             owner := if job then some (who, c.seq) else none }
          let t := { s with time := { s.time with sched := put s.time.sched e x } }.fresh
          let pay := leB 1 e ++ leB 3 0
          if job then hasQueue s who (.pend e t [] pay) else .done St.ok pay t)))))

/-- 0x0B05 schedule cancel: a PENDING JOB_START completes DISCARDED. -/
def execTimeScheduleCancel (dt : Nat) (who : Sess) (s : State) : Next :=
  let s := s.pass dt
  .next (s.runCmd who 0x0B05 (fun c =>
    let e := u8 c.pay 0
    plain s c 4 (need s (decide (e < 64 ∧ fld c.pay 1 3 = 0)) St.badParam (vet s (
      match look s.time.sched e with
      | none => refuse s St.badParam
      | some x =>
        let s := s.freeSched e
        match x.owner.bind (fun o => s.pend? o.1 o.2) with
        | some p => .done St.ok [] (s.complete p St.discarded 0 idHob)
        | none => .done St.ok [] s)))))

/-- An entry as held: its next instant, the executions left and its number (R532). -/
def Sched.bytes (x : Sched) (e : Nat) : Bytes :=
  leB 1 x.action ++ leB 1 x.base ++ leB 1 (b2n x.report) ++ leB 1 x.target ++
    (if x.base = 0 then leB 4 x.next ++ leB 6 0 else leB 4 (x.next % 1000000000) ++ leB 6 (x.next / 1000000000)) ++
    leB 2 x.index ++ leB 4 x.period ++ leB 4 (if x.forever then 0 else x.left) ++ leB 4 (unsigned 32 x.off) ++ leB 1 e ++ leB 3 0

/-- 0x0B06 schedule list. -/
def execTimeScheduleList (dt : Nat) (who : Sess) (s : State) : Next :=
  let s := s.pass dt
  .next (s.runCmd who 0x0B06 (fun c =>
    let first := u8 c.pay 0
    plain s c 4 (need s (decide (first < 64 ∧ fld c.pay 1 3 = 0)) St.badParam (vet s (
      let l := (s.time.sched.filter (fun e => decide (first ≤ e.1))).take 7
      .done St.ok (leB 1 l.length ++ leB 3 0 ++ l.flatMap (fun e => e.2.bytes e.1)) s)))))

end Sys2Proof.Machine
end

