-- ==== Sys2Proof/Machine/Cameras.lean ====
section
/-!
DEFINITION. Camera ports and contexts: CSI-2 packets, frames and FIFOs (R345 to R356), and the CAMERA commands (R358, R360, R368 to
R371, R373, R530).
-/
namespace Sys2Proof.Machine

/-! ### Samples (R345, R357; the packing is MIPI CSI-2's, log 21) -/

/-- RAW10: four samples in five bytes. -/
def raw10 (b : List Nat) : List Nat :=
  match b with
  | p :: q :: r :: t :: l :: rest =>
    (4 * p + l % 4) :: (4 * q + l / 4 % 4) :: (4 * r + l / 16 % 4) :: (4 * t + l / 64) :: raw10 rest
  | _ => []

/-- RAW12: two samples in three bytes. -/
def raw12 (b : List Nat) : List Nat :=
  match b with
  | p :: q :: l :: rest => (16 * p + l % 16) :: (16 * q + l / 16) :: raw12 rest
  | _ => []

/-- RAW14: four samples in seven bytes. -/
def raw14 (b : List Nat) : List Nat :=
  match b with
  | p :: q :: r :: t :: l :: m :: n :: rest =>
    let low := l + 256 * m + 65536 * n
    (64 * p + low % 64) :: (64 * q + low / 64 % 64) :: (64 * r + low / 4096 % 64) :: (64 * t + low / 262144) :: raw14 rest
  | _ => []

/-- RAW16: two bytes a sample, the upper first. -/
def raw16 (b : List Nat) : List Nat :=
  match b with
  | h :: l :: rest => (256 * h + l) :: raw16 rest
  | _ => []

/-- The normalised samples of a line: RAWn shifted left by 16 - n (R357). -/
def samples (dataType : Nat) (b : Bytes) : List Nat :=
  let l := b.map BitVec.toNat
  match dataType with
  | 0x2A => l.map (· * 256)
  | 0x2B => (raw10 l).map (· * 64)
  | 0x2C => (raw12 l).map (· * 16)
  | 0x2D => (raw14 l).map (· * 4)
  | 0x2E => raw16 l
  | _ => []

/-! ### Contexts and their banks (R348, R349) -/

/-- Context whose parameter an ID names. -/
def ctxOfParam (id : Nat) : Option Nat :=
  if id / 65536 = 0x7020 then some (id / 256 % 256) else if id / 65536 = 0x7030 then some (id / 256 % 256 / 4) else none

/-- A context's pending bank becomes its active bank (R349). -/
def State.latchBank (s : State) (c : Nat) : State :=
  let keep := s.params.frame.filter (fun e => ctxOfParam e.1 != some c)
  let new := s.params.acc.filter (fun e => ctxOfParam e.1 == some c)
  { s with params := { s.params with frame := new.foldl (fun m e => put m e.1 e.2) keep } }

/-- Contexts bound to a port and virtual channel in their active banks. -/
def State.ctxsOn (s : State) (port vc : Nat) : List Nat :=
  (List.range 16).filter (fun c => s.parFrame (P.inspectCtxEnable c) == 1 && s.parFrame (P.inspectCtxPort c) == port &&
    s.parFrame (P.inspectCtxVc c) == vc)

/-- Contexts bound to them in their pending banks. -/
def State.ctxsPending (s : State) (port vc : Nat) : List Nat :=
  (List.range 16).filter (fun c => s.par (P.inspectCtxEnable c) == 1 && s.par (P.inspectCtxPort c) == port && s.par (P.inspectCtxVc c) == vc)

/-- A port's receiver runs. -/
def State.portOn (s : State) (p : Nat) : Bool := s.par (P.inspectPortEnable p) == 1 && !s.inReset (256 + p)

/-- The LOUPE that serves a context runs. -/
def State.loupeOn (s : State) (c : Nat) : Bool := !s.inReset (16 + s.parFrame (P.inspectCtxPipe c))

/-- A port's counters. -/
def State.port (s : State) (p : Nat) : CamPort := sel s.cam.ports p {}

/-- Replace them. -/
def State.setPort (s : State) (p : Nat) (x : CamPort) : State := { s with cam := { s.cam with ports := put s.cam.ports p x } }

/-- A packet is discarded and counted (R346, R351). -/
def State.discardPacket (s : State) (p : Nat) : State := s.setPort p { s.port p with disc := sat 32 ((s.port p).disc + 1) }

/-! ### Frames -/

/-- Defect-table entries of a context (R358). -/
def ctxDefs (l : List (BitVec 32)) (c : Nat) : List (BitVec 32) := l.filter (fun d => d.toNat / 2 ^ 28 == c)

/-- A context's frame start takes its trigger record (R354): the line at exposure, 0xFFFF_FFFF for none. -/
def State.matchTrigger (s : State) (c : Nat) : State × Nat :=
  let x := s.ctx c
  if s.parFrame (P.inspectCtxTrig c) = 0xFF then (s, 0xFFFFFFFF) else
  let old := fun (r : Nat × Nat) => decide (r.2 + s.parFrame (P.inspectCtxTrigLatencyNs c) < s.t32ns)
  let live := x.trigs.filter (fun r => !old r)
  let hit := live.find? (fun r => decide (r.2 ≤ s.t32ns))
  let rest := match hit with | some r => live.erase r | none => live
  let t := s.setCtx c { x with trigs := rest }
  let t := if x.trigs.any old then t.fault F.trigUnmatched c else t
  (t, match hit with | some r => r.1 | none => 0xFFFFFFFF)

/-- A frame start of a context (R349 to R351, R354, R370). -/
def State.startFrame (s : State) (port vc c : Nat) (busy : Bool) : State :=
  let s := s.closeFrame State.fault c true busy
  let s := s.latchBank c
  if !(s.ctxsOn port vc).contains c ∨ !s.loupeOn c then s else
  let (s, line) := s.matchTrigger c
  let x := s.ctx c
  let f : Frame := { count := x.frames, t0 := s.t32, line := line, flags := if line = 0xFFFFFFFF then flUntrig else 0, shade := x.shade,
                     defs := ctxDefs s.cam.defs c }
  s.setCtx c { x with frame := some f, dropping := false, frames := (x.frames + 1) % 2 ^ 32, pulseAt := none,
                      capt := x.capt.map (fun q => { q with armed := true }) }

/-- A frame-start short packet. -/
def execCsiFrameStart (dt : Nat) (port : Fin 4) (vc : Fin 16) (busy : List (Fin 16)) (s : State) : Next :=
  let s := s.pass dt
  if !s.portOn port.val then .next s else
  let mine := (s.ctxsOn port.val vc.val ++ s.ctxsPending port.val vc.val).eraseDups
  let order := (List.range 16).filter mine.contains
  .next (order.foldl (fun s c => s.startFrame port.val vc.val c (busy.any (fun b => b.val == c))) s)

/-- A frame-end short packet (R351). -/
def execCsiFrameEnd (dt : Nat) (port : Fin 4) (vc : Fin 16) (busy : List (Fin 16)) (s : State) : Next :=
  let s := s.pass dt
  if !s.portOn port.val then .next s else
  let mine := s.ctxsOn port.val vc.val
  let opened := mine.filter (fun c => (s.ctx c).frame.isSome || (s.ctx c).dropping)
  if opened.isEmpty then .next (s.discardPacket port.val) else
  .next (opened.foldl (fun s c =>
    if (s.ctx c).dropping then s.setCtx c { s.ctx c with dropping := false }
    else s.closeFrame State.fault c false (busy.any (fun b => b.val == c))) s)

/-! ### Lines -/

/-- Bytes of a context's FIFO (R356). -/
def fifoSize : Nat := 65536

/-- Fill of a context's FIFO in bytes (R356). -/
def Ctx.fifo (x : Ctx) : Nat := x.fifoL.sum

/-- The context whose frame pressure drops: the lowest priority, then the highest number (R356). -/
def State.pressureVictim (s : State) (pipe : Nat) : Option Nat :=
  let l := (List.range 16).filter (fun c => (s.ctx c).frame.isSome && s.parFrame (P.inspectCtxPipe c) == pipe)
  let low := (l.map (fun c => s.parFrame (P.inspectCtxPriority c))).min?
  (l.filter (fun c => some (s.parFrame (P.inspectCtxPriority c)) == low)).getLast?

/-- A line of `n` bytes enters a context's FIFO: pressure, then overflow (R356, R372). -/
def State.enterFifo (s : State) (c n : Nat) (busy : List Nat) : State :=
  let x := s.ctx c
  let limit := s.par P.inspectFifoPressurePm * fifoSize
  let passes := decide (1000 * x.fifo ≤ limit ∧ limit < 1000 * (x.fifo + n))
  let s : State := if passes then
      match s.pressureVictim (s.parFrame (P.inspectCtxPipe c)) with
      | some v => s.dropFrame State.fault v (busy.contains v)
      | none => s
    else s
  if (s.ctx c).frame.isSome ∧ fifoSize < (s.ctx c).fifo + n then s.dropFrame State.fault c (busy.contains c)
  else if (s.ctx c).frame.isSome then s.setCtx c { s.ctx c with fifoL := (s.ctx c).fifoL ++ [n] } else s

/-- One line joins the open frame of a context, cut or padded to its width (R351); none stands for a line that was lost (R352). -/
def State.addLine (s : State) (c : Nat) (line : Option (List Nat)) : State :=
  let x := s.ctx c
  match x.frame with
  | none => s
  | some f =>
    let w := s.parFrame (P.inspectCtxWidth c)
    if s.parFrame (P.inspectCtxHeight c) ≤ f.lines then
      if f.flags &&& flLong ≠ 0 then s
      else (s.setCtx c { x with frame := some { f with flags := f.flags ||| flLong }, long := sat 32 (x.long + 1) }).fault F.frameLong c
    else
      match line with
      | none =>
        let row := (f.rows.getLast?).getD (List.replicate w 0)
        s.setCtx c { x with frame := some { f with rows := f.rows ++ [row], lines := f.lines + 1, flags := f.flags ||| flLost }, lost := sat 32 (x.lost + 1) }
      | some l =>
        let wrong := decide (l.length ≠ w)
        let row := l.take w ++ List.replicate (w - l.length) 0
        let s := s.setCtx c { x with frame := some { f with rows := f.rows ++ [row], lines := f.lines + 1, wide := f.wide || wrong,
                                                            flags := if wrong then f.flags ||| flWidth else f.flags } }
        let pipe := s.parFrame (P.inspectCtxPipe c)
        let recent := s.cam.pix.filter (fun e => decide (s.now < e.2.1 + perSecond))
        let s := { s with cam := { s.cam with pix := recent ++ [(pipe, s.now, w)] } }
        if wrong && !f.wide then s.fault F.lineWidth c else s

/-- The payload CRC of a line fails (R352). -/
def State.crcFails (s : State) (port c : Nat) : State :=
  let x := s.ctx c
  let s := s.setPort port { s.port port with crc := sat 32 ((s.port port).crc + 1) }
  (s.setCtx c { x with frame := x.frame.map (fun f => { f with flags := f.flags ||| flCrc }) }).fault F.csiCrc c

/-- Embedded data of a frame: its first 1,024 bytes are kept (R371). -/
def State.addEmbedded (s : State) (c : Nat) (b : Bytes) : State :=
  let x := s.ctx c
  s.setCtx c { x with frame := x.frame.map (fun f => { f with emb := (f.emb ++ b).take 1024 }) }

/-- The context whose line a pipeline takes next (R355): round-robin in increasing number, skipping those that hold no whole line. -/
def State.nextCtx (s : State) (pipe : Nat) : Option Nat :=
  let l := (List.range 16).filter (fun c => s.parFrame (P.inspectCtxPipe c) == pipe && !(s.ctx c).fifoL.isEmpty)
  match look s.cam.rr pipe with
  | some k => (l.find? (fun c => decide (k < c))).orElse (fun _ => l.head?)
  | none => l.head?

/-- A pipeline takes the oldest line, of `n` bytes, from the FIFO of a context when that is the line it takes next (R355). -/
def State.takeLine (s : State) (c n : Nat) : State :=
  let pipe := s.parFrame (P.inspectCtxPipe c)
  if s.nextCtx pipe = some c ∧ (s.ctx c).fifoL.head? = some n then
    let s := s.setCtx c { s.ctx c with fifoL := (s.ctx c).fifoL.drop 1 }
    { s with cam := { s.cam with rr := put s.cam.rr pipe c } }
  else s

/-- The pipelines have taken lines from the FIFOs, as contexts and bytes in order (R355). -/
def State.drain (s : State) (l : List (Fin 16 × Nat)) : State := l.foldl (fun s e => s.takeLine e.1.val e.2) s

/-- A long packet (R346, R348, R351, R352, R356); `drained` is what the pipelines have taken from the FIFOs since the packet before. -/
def execCsiLongPacket (dt : Nat) (port : Fin 4) (vc : Fin 16) (pkt : CsiPacket) (drained : List (Fin 16 × Nat)) (busy : List (Fin 16))
    (s : State) : Next :=
  let s := (s.pass dt).drain drained
  let p := port.val
  if !s.portOn p then .next s else
  let open_ (c : Nat) : Bool := (s.ctx c).frame.isSome && s.loupeOn c
  let mine := (s.ctxsOn p vc.val).filter (fun c => pkt.dataType == 0x12 || s.parFrame (P.inspectCtxDataType c) == pkt.dataType)
  if pkt.hdr = 2 then
    let s := (s.setPort p { s.port p with hdr := sat 32 ((s.port p).hdr + 1) }).fault F.csiHdrEcc p
    if pkt.dataType = 0x12 then .next s else .next ((mine.filter open_).foldl (fun s c => s.addLine c none) s)
  else
    let s := if pkt.hdr = 1 then s.setPort p { s.port p with corr := sat 32 ((s.port p).corr + 1) } else s
    if !(pkt.dataType = 0x12 ∨ 0x2A ≤ pkt.dataType ∧ pkt.dataType ≤ 0x2E) ∨ mine.isEmpty then .next (s.discardPacket p)
    else
      .next ((mine.filter open_).foldl (fun (s : State) c =>
        let s : State :=
          if pkt.dataType = 0x12 then s.addEmbedded c pkt.bytes
          else
            let s := if ((s.ctx c).frame.map Frame.lines).getD 0 < s.parFrame (P.inspectCtxHeight c)
              then s.enterFifo c pkt.bytes.length (busy.map Fin.val) else s
            s.addLine c (if 3 ≤ pkt.hdr then none else some (samples pkt.dataType pkt.bytes))
        if pkt.crcOk then s else s.crcFails p c) s)

/-- A D-PHY start-of-transmission or lane synchronisation error (R346). -/
def execCsiPhyErr (dt : Nat) (port : Fin 4) (s : State) : Next :=
  let s := s.pass dt
  let p := port.val
  if !s.portOn p then .next s
  else .next ((s.setPort p { s.port p with phy := sat 32 ((s.port p).phy + 1) }).fault F.csiPhyErr p)

/-- No frame start within `frame_timeout_ms` of a trigger pulse (R353): recorded at most once a second. -/
def execCamNoFrame (dt : Nat) (ctx : Fin 16) (s : State) : Next :=
  let s := s.pass dt
  let c := ctx.val
  let x := s.ctx c
  let ms := s.parFrame (P.inspectCtxFrameTimeoutMs c)
  match x.pulseAt with
  | none => .next s
  | some t =>
    if ms = 0 ∨ s.parFrame (P.inspectCtxTrig c) = 0xFF ∨ s.now < t + ms * perMs then .next s else
    let s := s.setCtx c { x with pulseAt := none }
    let quiet := match x.noFrameAt with | some u => decide (s.now < u + perSecond) | none => false
    if quiet then .next s else .next ((s.setCtx c { s.ctx c with noFrameAt := some s.now }).fault F.camNoFrame c)

/-! ### CAMERA commands (R373, R530) -/

/-- The bytes of 0x0901 from 0x00 to 0x37. -/
def State.ctxHead (s : State) (c chunk : Nat) : Bytes :=
  let x := s.ctx c
  let f := x.lastF
  leB 1 c ++ leB 1 (s.parFrame (P.inspectCtxEnable c) + 2 * b2n x.frame.isSome) ++ leB 2 f.flags.toNat ++ leB 4 f.count ++ leB 4 f.t0.toNat ++
    leB 4 f.line ++ leB 1 x.trigs.length ++ leB 1 chunk ++ leB 2 x.emb.length ++ leB 4 x.embF ++
    leB 4 x.frames ++ leB 4 x.short ++ leB 4 x.long ++ leB 4 x.dropped ++ leB 4 x.lost ++ leB 4 x.overrun ++ leB 4 x.skipped ++ leB 4 0

/-- 0x0901 status. -/
def execCameraStatus (dt : Nat) (who : Sess) (s : State) : Next :=
  let s := s.pass dt
  .next (s.runCmd who 0x0901 (fun c =>
    let i := u8 c.pay 0
    let k := u8 c.pay 1
    plain s c 4 (need s (decide (i < 16 ∧ k < 8 ∧ u16 c.pay 2 = 0)) St.badParam (vet s (
      .done St.ok (s.ctxHead i k ++ slice (s.ctx i).emb (128 * k) 128) s)))))

/-- 0x0902 defect load. -/
def execCameraDefectLoad (dt : Nat) (who : Sess) (s : State) : Next :=
  let s := s.pass dt
  .next (s.runCmd who 0x0902 (fun c => dmaForm s c 0 (fun l _ => vet s (hasQueue s who (fixedLen s l 65536 (.pend 0 s))))))

/-- The table's used entries, none when it breaks R358. -/
def parseDefects (b : Bytes) : Option (List (BitVec 32)) :=
  let l := (List.range 16384).map (fun i => u32 b (4 * i))
  let used := l.takeWhile (· != 0xFFFFFFFF)
  let rest := l.dropWhile (· != 0xFFFFFFFF)
  let rising := (used.zip (used.drop 1)).all (fun p => decide (p.1 < p.2))
  let cols := used.all (fun d => !bit d 27 || d % 2 ^ 14 == 0)
  if rest.all (· == 0xFFFFFFFF) && rising && cols then some (used.map (BitVec.ofNat 32)) else none

/-- The defect table has arrived (R358). -/
def execCameraDefectLoadComplete (dt : Nat) (who : Sess) (seq : BitVec 32) (chain : List Bytes) (data : Bytes) (s : State) : Next :=
  let s := s.pass dt
  .next (s.finish who seq [0x0902] (fun p =>
    match p.dataIn chain data with
    | none => s.complete p St.badParam 0 idHob
    | some b =>
      if b.length ≠ 65536 then s.complete p St.badParam 0 idHob else
      match parseDefects b with
      | none => s.complete p St.badParam 0 idLoupe
      | some l => ({ s with cam := { s.cam with defs := l } }).complete p St.ok l.length idLoupe))

/-- Descriptor bytes of a shading load: the table's 10,890 bytes up to a multiple of 4 (R65, R581; log 22). -/
def shadeBytes : Nat := 10892

/-- The argument block that names a context, with the rest zero. -/
def ctxArg (b : Bytes) : Bool := decide (u8 b 0 < 16 ∧ fld b 1 15 = 0)

/-- 0x0903 shading load. -/
def execCameraShadingLoad (dt : Nat) (who : Sess) (s : State) : Next :=
  let s := s.pass dt
  .next (s.runCmd who 0x0903 (fun c => dmaForm s c 16 (fun l a =>
    need s (ctxArg a) St.badParam (vet s (hasQueue s who (fixedLen s l shadeBytes (.pend (u8 a 0) s)))))))

/-- A context's shading table has arrived (R360). -/
def execCameraShadingLoadComplete (dt : Nat) (who : Sess) (seq : BitVec 32) (chain : List Bytes) (data : Bytes) (s : State) : Next :=
  let s := s.pass dt
  .next (s.finish who seq [0x0903] (fun p =>
    match p.dataIn chain data with
    | none => s.complete p St.badParam 0 idHob
    | some b =>
      if b.length ≠ shadeBytes then s.complete p St.badParam 0 idHob else
      let c := p.obj.toNat
      (s.setCtx c { s.ctx c with shade := (List.range 5445).map (fun i => u16 b (2 * i)) }).complete p St.ok 0 idLoupe))

/-- The most a stream of a context may write, under the accepted parameters (R365). -/
def State.streamBytes (s : State) (c t : Nat) : Nat :=
  let i := 4 * c + t
  streamSize (s.par (P.inspectCtxStreamW i)) (s.par (P.inspectCtxStreamH i)) (s.par (P.inspectCtxStreamScale i))
    (s.par (P.inspectCtxStreamPlanes i)) (s.par (P.inspectCtxStreamFormat i))

/-- The buffers a list names. -/
def buffers (l : List DmaDesc) : List (BitVec 64 × Nat) := l.map (fun d => (BitVec.ofNat 64 d.addr, d.bytes))

/-- 0x0904 preview start (R369). -/
def execCameraPreviewStart (dt : Nat) (who : Sess) (chain : List Bytes) (s : State) : Next :=
  let s := s.pass dt
  .next (s.runCmd who 0x0904 (fun c => dmaForm s c 16 (fun l a =>
    let i := u8 a 0
    need s (ctxArg a) St.badParam (vet s (
      match follow l chain with
      | none => refuse s St.badParam
      | some l =>
        need s (decide (2 ≤ l.length ∧ l.length ≤ 15)) St.badParam (
          need s (s.ctx i).prev.isNone St.state (need s (l.all (fun d => decide (s.streamBytes i 2 ≤ d.bytes))) St.badParam (
            .done St.ok [] (s.setCtx i { s.ctx i with prev := some { who := who, bufs := buffers l } })))))))))

/-- 0x0905 preview stop (R369). -/
def execCameraPreviewStop (dt : Nat) (who : Sess) (s : State) : Next :=
  let s := s.pass dt
  .next (s.runCmd who 0x0905 (fun c =>
    let i := u8 c.pay 0
    plain s c 4 (need s (decide (i < 16 ∧ fld c.pay 1 3 = 0)) St.badParam (vet s (
      .done St.ok [] (s.setCtx i { s.ctx i with prev := none }))))))

/-- 0x0906 capture (R370). -/
def execCameraCapture (dt : Nat) (who : Sess) (chain : List Bytes) (s : State) : Next :=
  let s := s.pass dt
  .next (s.runCmd who 0x0906 (fun c => dmaForm s c 16 (fun l a =>
    let i := u8 a 0
    let ms := u16 a 2
    need s (decide (i < 16 ∧ u8 a 1 = 0 ∧ 1 ≤ ms ∧ ms ≤ 60000 ∧ fld a 4 12 = 0)) St.badParam (vet s (hasQueue s who (
      match follow l chain with
      | none => refuse s St.badParam
      | some l =>
        need s (decide (s.streamBytes i 3 ≤ total l)) St.badParam (
          let q : Capture := { who := who, seq := c.seq, bufs := buffers l, ends := s.now + ms * perMs }
          .pend i (s.setCtx i { s.ctx i with capt := (s.ctx i).capt ++ [q] }))))))))

/-- No frame has completed within a capture's timeout (R370). -/
def execCameraCaptureTimeout (dt : Nat) (who : Sess) (seq : BitVec 32) (s : State) : Next :=
  let s := s.pass dt
  .next (s.finish who seq [0x0906] (fun p =>
    let c := p.obj.toNat
    let x := s.ctx c
    match x.capt.find? (fun q => q.who == who && q.seq == seq) with
    | none => s
    | some q =>
      if s.now < q.ends then s
      else (s.setCtx c { x with capt := x.capt.filter (fun q => !(q.who == who && q.seq == seq)) }).complete p St.timeout 0
        (idLoupe + s.parFrame (P.inspectCtxPipe c))))

/-- The NOZZLE stream of a context is enabled, in the pending or the active bank. -/
def State.nozzleOn (s : State) (c : Nat) : Bool :=
  s.par (P.inspectCtxStreamEnable (4 * c + 1)) == 1 || s.parFrame (P.inspectCtxStreamEnable (4 * c + 1)) == 1

/-- 0x0907 nozzle setup (R368). -/
def execCameraNozzleSetup (dt : Nat) (who : Sess) (s : State) : Next :=
  let s := s.pass dt
  .next (s.runCmd who 0x0907 (fun c =>
    let i := u8 c.pay 0
    let n := u16 c.pay 2
    let b := u32 c.pay 4
    plain s c 8 (need s (decide (i < 16 ∧ u8 c.pay 1 = 0 ∧ (n = 0 ∨ 2 ≤ n ∧ n ≤ 1024))) St.badParam (vet s (
      need s (!s.nozzleOn i) St.state (
        let x := s.ctx i
        if n = 0 then .done St.ok [] (s.setCtx i { x with ringN := 0, ringB := 0, ring := [] }) else
        need s (decide (s.stageUsed - x.ringN * x.ringB + n * b ≤ s.stageSize)) St.noSpace (
          .done St.ok [] (s.setCtx i { x with ringN := n, ringB := b, ring := [] }))))))))

end Sys2Proof.Machine
end

