-- ==== Sys2Proof/Machine/Loop.lean ====
section
/-!
DEFINITION. The closed colour loop: where a frame's samples were printed (R376, R377), regions of a frame (R380), zone measurements and
updates (R381 to R385), nozzle checks and trims (R388 to R392), and the LOOP commands (R386, R387, R393 to R398, R529).
-/
namespace Sys2Proof.Machine

/-! ### Web geometry of a context (R376, R377) -/

/-- num / den rounded half away from zero. -/
def roundAway (num : Int) (den : Int) : Int :=
  let n := num.natAbs
  let d := den.natAbs
  let q : Int := (2 * n + d) / (2 * d)
  if (num < 0) = (den < 0) then q else -q

/-- Pitch of the press. -/
def State.pitch (s : State) : Nat := s.par P.motionFirePitch

/-- Fire position at which the web point of frame line y2/2 passed the datum. -/
def State.pdOf (s : State) (c : Nat) (m : Stream) (y2 : Nat) : Nat :=
  let wu : Int := s.par (P.loopCtxDatumWu c) + (y2 * s.parS 32 (P.loopCtxLineWu c)) / 131072
  shift32 m.line (-convS wu s.pitch)

/-- Plane position, rounded down, that frame column x2/2 images. -/
def State.qOf (s : State) (c x2 : Nat) : Int := (512 * s.parS 32 (P.loopCtxCol0Q c) + x2 * s.par (P.loopCtxColQ c)) / 131072

/-- Twice the frame line, or column, of the centre of block i of a stream. -/
def centre (first scale i : Nat) : Nat := 2 * (first + i * scale) + (scale - 1)

/-- Plane position of column X of a stream. -/
def State.colQ (s : State) (c : Nat) (m : Stream) (x : Nat) : Int := s.qOf c (centre m.x m.scale x)

/-- Datum position of line Y of a stream. -/
def State.linePd (s : State) (c : Nat) (m : Stream) (y : Nat) : Nat := s.pdOf c m (centre m.y m.scale y)

/-- The committed run whose splice line is the latest not after a datum position (R377). -/
def State.runOf (s : State) (pd : Nat) : Option Run :=
  match s.splice.runs.find? (fun r => decide (0 ≤ since pd r.lam)) with
  | some r => match s.runEnd r with
    | some e => if 0 ≤ since pd e then none else some r
    | none => some r
  | none => none

/-- A channel's sample, 8 bits as value * 257 (R380). -/
def Stream.at (m : Stream) (k x y : Nat) : Nat :=
  let v := (((look m.planes k).bind (fun p => p[y]?)).bind (fun l => l[x]?)).getD 0
  if m.fmt = 1 then 257 * v else v

/-! ### Regions (R380) -/

/-- Print lines of a plane line. -/
def Job.perLine (j : Job) : Nat := if j.pre then 1 else 2

/-- Datum positions of the shrunk region in repeat n of a run: the first, and how many. -/
def regionLines (j : Job) (r : Run) (t : Target) (n : Nat) : Nat × Nat :=
  (fwd r.lam (n * j.repLines + j.perLine * (t.y + t.margin)), j.perLine * (t.height - 2 * t.margin))

/-- Repeat of a run that a datum position lies in, with the plane line within it. -/
def placeOf (j : Job) (r : Run) (pd : Nat) : Nat × Nat :=
  let k := back pd r.lam
  (k / max 1 j.repLines, k % max 1 j.repLines / j.perLine)

/-- The shrunk region of repeat n lies wholly in a stream's crop window. -/
def State.inWindow (s : State) (c : Nat) (m : Stream) (j : Job) (r : Run) (t : Target) (n : Nat) : Bool :=
  let (lo, hi) := t.span j.pre
  let (a, k) := regionLines j r t n
  let p := s.pdOf c m (2 * m.y)
  let q := s.pdOf c m (2 * (m.y + m.h * m.scale - 1))
  let first := if since q p < 0 then q else p
  let last := if since q p < 0 then p else q
  decide (0 < m.w ∧ 0 < m.h ∧ s.qOf c (2 * m.x) ≤ (lo : Int) ∧ (hi : Int) - 1 ≤ s.qOf c (2 * (m.x + m.w * m.scale - 1)) ∧
    0 ≤ since a first ∧ 0 ≤ since last (fwd a (k - 1)))

/-- Repeats of a run that a frame shows. -/
def State.repeatsSeen (s : State) (c : Nat) (m : Stream) (j : Job) (r : Run) : List Nat :=
  ((List.range m.h).filterMap (fun y =>
    let pd := s.linePd c m y
    if since pd r.lam < 0 then none else some (placeOf j r pd).1)).eraseDups

/-- Slots of a bar that cover a part of a span of plane positions. -/
def coverSlots (g : Geo) (b : Nat) (span : Nat × Nat) : List Nat :=
  (gSlots g b).filter (fun sl =>
    let x0 : Int := g (P.rasterBarSlotX0 (20 * b + sl))
    let o := originOf (g (P.rasterBarXOrigin b))
    decide ((span.1 : Int) + o < x0 + 5120 ∧ x0 < (span.2 : Int) + o))

/-- A region may be used for a bar: one job, held by the bar, printed without a no-fire line, mute or defect (R380). -/
def State.usable (s : State) (m : Stream) (r : Run) (b : Nat) (t : Target) (n : Nat) : Bool :=
  let j := s.job r.job
  let span := t.span j.pre
  let (a, k) := regionLines j r t n
  let ends := [a, fwd a (k - 1)].all (fun pd => (s.runOf pd).map Run.lam == some r.lam)
  let slots := coverSlots r.g b span
  let starts := slots.flatMap (fun sl => [0, 1, 2, 3].map (fun row => (sl, fwd a (gPtr r.g b sl (row / 2) s.pitch + gDelay r.g b sl row s.pitch))))
  let covers := fun (line : Nat) (st : Nat × Nat) => decide (back line st.2 < k)
  let dead := s.fire.noFired.any (fun e => bit e.2 b && starts.any (covers e.1))
  let muted := s.fire.muted.any (fun e => starts.any (fun st => e.2 == 20 * b + st.1 && covers e.1 st))
  let px := j.perLine
  let defect := s.raster.posted.any (fun d => d.bar == b && d.index == r.job && d.rep == n &&
    (if d.kind ≤ 2 then decide (t.y + t.margin ≤ d.pl ∧ d.pl < t.y + t.height - t.margin ∧
        d.pixel < span.2 / px ∧ span.1 / px < d.pixel + d.pixels) else d.kind == 3))
  decide ((s.barLoop b).job = some r.job) && m.line != 0xFFFFFFFF && m.flags &&& flExclude == 0 && ends && !dead && !muted && !defect

/-- The transport delay from a bar to a context is positive (R377). -/
def State.delayOk (s : State) (c : Nat) (g : Geo) (b : Nat) : Bool :=
  decide (gBar g b s.pitch < conv (s.par (P.loopCtxDatumWu c)) s.pitch)

/-! ### Zone measurements (R381 to R385) -/

/-- What a bar's loop may do with a job: 0 OFF, 1 HOLD, 2 RUN; a pre-screened job holds (R386). -/
def State.zoneMode (s : State) (b : Nat) : Nat :=
  let mode := (s.barLoop b).mode
  let pre := match (s.barLoop b).job with | some i => (s.job i).pre | none => false
  if pre then min mode 1 else mode

/-- An update of a zone falls due (R384). -/
def State.updateZone (s : State) (b z : Nat) : State :=
  let k := 400 * b + z
  let x := s.zone k
  let d := roundAway ((x.acc.map (fun (e : Int × Nat) => e.1 * (e.2 : Int))).sum) ((x.acc.map Prod.snd).sum : Nat)
  let x := { x with acc := [], unmeas := false, lastD := d, lastUp := s.fire.next }
  if s.zoneMode b ≠ 2 then s.setZone k x else
  let max_ : Int := s.par P.loopZoneStepMax
  let step := if d.natAbs < s.par P.loopZoneDeadband then 0 else clamp (-max_) max_ (roundAway (s.par P.loopZoneKi * d) 256)
  let lim : Int := s.par P.loopZoneLimit
  let z0 := x.pendZ.getD x.z
  let z1 := clamp (-lim) lim (z0 + step)
  let isCut := decide (z1 ≠ z0 + step)
  let y := if z1 = z0 ∨ x.pendHost then x else { x with pendZ := some z1 }
  let s := s.setZone k { y with limit := isCut }
  if isCut && !x.limit then (s.fault F.zoneLimit k).loopEvent 3 b z (unsigned 32 z1) s.fire.next else s

/-- STALE of a zone clears at an eligible measurement (R385). -/
def State.resumeZone (s : State) (b z : Nat) : State :=
  let k := 400 * b + z
  if !(s.zone k).stale then s else
  let s := (s.setZone k { s.zone k with stale := false }).loopEvent 2 b z 0 s.pos
  if (List.range 400).any (fun i => (s.zone (400 * b + i)).stale) then s else s.setBarLoop b { s.barLoop b with staleRec := false }

/-- A measurement of a zone part: eligible when the web was printed after the zone's ramp (R383, R384). -/
def State.measureZone (s : State) (b z : Nat) (delta : Int) (weight printed : Nat) : State :=
  let k := 400 * b + z
  let x := s.zone k
  if since printed x.pEnd < 0 then s else
  let s := s.setZone k { x with acc := x.acc ++ [(delta, weight)], count := sat 8 (x.count + 1), lastEl := s.pos }
  let s := s.resumeZone b z
  let due := if x.unmeas then 8 else s.par P.loopZoneMeasPerUpdate
  if due ≤ x.acc.length + 1 then s.updateZone b z else s

/-- The zone parts of a region on one bar (R381). -/
def State.measureRegion (s : State) (c : Nat) (m : Stream) (r : Run) (b : Nat) (t : Target) (n : Nat) : State :=
  let j := s.job r.job
  let (lo, hi) := t.span j.pre
  let origin := s.parLineS 32 (P.rasterBarXOrigin b)
  let rows := (List.range m.h).filter (fun y =>
    let pd := s.linePd c m y
    let (rep, pl) := placeOf j r pd
    decide (0 ≤ since pd r.lam ∧ rep = n ∧ t.y + t.margin ≤ pl ∧ pl < t.y + t.height - t.margin))
  let printed := fwd (regionLines j r t n).1 (gBar r.g b s.pitch)
  (s.zonesOf j b t).foldl (fun (s : State) (z : Nat) =>
    let cols := (List.range m.w).filter (fun x =>
      let q := s.colQ c m x
      decide ((lo : Int) ≤ q ∧ q < hi ∧ (q + origin) / 256 = (z : Int)))
    match meanOf (rows.flatMap (fun y => cols.map (fun x => m.at t.chan x y))) with
    | none => s
    | some v => s.measureZone b z (clamp (-1000) 1000 (roundAway (10 * ((t.target : Int) - v)) t.slope)) t.weight printed) s

/-! ### Nozzle checks (R388 to R392) -/

/-- Ledger index of a nozzle. -/
def ledgerIndex (b sl n : Nat) : Nat := 102400 * b + 5120 * sl + n

/-- Write fields of an entry as their owner, at the next line boundary (R389, R391). -/
def State.ownWrite (s : State) (i : Nat) (e : BitVec 32) (mask : BitVec 7) : State :=
  { s with ledger := { s.ledger with pend := s.ledger.pend ++ [(s.fire.next, i, e, mask ||| 0x40)] } }

/-- The nozzles of a bar that a CHECK strip's region covers: slot, nozzle and plane position. -/
def stripNozzles (g : Geo) (b : Nat) (span : Nat × Nat) : List (Nat × Nat × Nat) :=
  let o := originOf (g (P.rasterBarXOrigin b))
  (gSlots g b).flatMap (fun sl => (List.range 5120).filterMap (fun n =>
    let q : Int := (gX g b sl n : Int) - o
    if (span.1 : Int) ≤ q ∧ q < span.2 then some (sl, n, q.toNat) else none))

/-- Other nozzles of the bar at a bar position. -/
def atPosition (g : Geo) (b x : Nat) : List (Nat × Nat) := (gSlots g b).filterMap (fun sl => (gNozzle g b sl x).map (fun n => (sl, n)))

/-- A nozzle has the state and stitch weight that R388 asks for. -/
def State.checkable (s : State) (g : Geo) (b sl n : Nat) : Bool :=
  let e := s.entry (ledgerIndex b sl n)
  decide (stateOf e ≤ 1) && ((atPosition g b (gX g b sl n)).length ≤ 1 || bits e.toNat 8 8 == 255)

/-- a(u): the mean over the nozzle's columns outside its segment row, less that in it (R388); none without samples. -/
def State.inkOf (s : State) (c : Nat) (m : Stream) (j : Job) (r : Run) (t : Target) (n q : Nat) : Option Int :=
  let cols := (List.range m.w).filter (fun x => s.colQ c m x == q)
  let seg := (((q / j.perLine : Nat) : Int) - t.x) % t.slope
  let rows := (List.range m.h).filterMap (fun y =>
    let pd := s.linePd c m y
    let (rep, pl) := placeOf j r pd
    if 0 ≤ since pd r.lam ∧ rep = n ∧ t.y + t.margin ≤ pl ∧ pl < t.y + t.height - t.margin then some (y, (pl - t.y) / t.weight) else none)
  let mean := fun (own : Bool) => meanOf ((rows.filter (fun e => ((e.2 : Int) == seg) == own)).flatMap (fun e => cols.map (fun x => m.at t.chan x e.1)))
  match mean true, mean false with
  | some v, some w => some ((w : Int) - v)
  | _, _ => none

/-- Put a number into an increasing list. -/
def insertInt (n : Int) (l : List Int) : List Int :=
  match l with
  | [] => [n]
  | x :: t => if n ≤ x then n :: x :: t else x :: insertInt n t

/-- The lower median of a list (R388). -/
def lowerMedian (l : List Int) : Option Int := (l.foldr insertInt [])[(l.length - 1) / 2]?

/-- A nozzle of a strip with its a(u). -/
structure Ink where
  sl : Nat
  n : Nat
  a : Int
deriving DecidableEq, Repr

/-- A of a nozzle: the lower median of a over the GOOD nozzles of its slot and row within 16 nozzles (R388). -/
def State.inkMedian (s : State) (b : Nat) (l : List Ink) (u : Ink) : Int :=
  (lowerMedian ((l.filter (fun v => v.sl == u.sl && v.n % 4 == u.n % 4 && decide (v.n ≤ u.n + 16 ∧ u.n ≤ v.n + 16) &&
    stateOf (s.entry (ledgerIndex b v.sl v.n)) == 0)).map Ink.a)).getD 0

/-- Candidate state of a nozzle with a, A and dx (R389): r = 1,000 a / A compared exactly. -/
def State.candidate (s : State) (a med : Int) (dx : Nat) : Nat :=
  if 1000 * a < s.par P.loopCheckOutPm * med then 2
  else if 1000 * a < s.par P.loopCheckWeakPm * med ∨ s.par P.loopCheckDev16ths < dx then 1 else 0

/-- Both neighbours at X - 1 and X + 1 have a printable nozzle (R145, R391). -/
def State.neighboursPrint (s : State) (g : Geo) (b x : Nat) : Bool :=
  decide (0 < x) && [x - 1, x + 1].all (fun p => (atPosition g b p).any (fun e => decide (stateOf (s.entry (ledgerIndex b e.1 e.2)) ≤ 1)))

/-- The trim of an evaluated nozzle moves toward a new value (R391). -/
def State.trimNozzle (s : State) (g : Geo) (b : Nat) (u : Ink) (med : Int) : State :=
  let i := ledgerIndex b u.sl u.n
  if s.par (P.loopBarCheckMode b) ≠ 2 ∨ (s.barLoop b).mode ≠ 2 ∨ !s.neighboursPrint g b (gX g b u.sl u.n) then s else
  let e := 1000 * med - 1000 * u.a
  if (e.natAbs : Int) < s.par P.loopTrimDeadband * med then s else
  let top : Int := s.par P.loopTrimStepMax
  let lim : Int := s.par P.loopTrimLimit
  let now := trimOf (s.entry i)
  let goal := clamp (-lim) lim (now + clamp (-top) top (roundAway (e * s.par P.loopTrimGain) (1000 * med)))
  if goal = now then s else
  { s with loop := { s.loop with noz := put s.loop.noz i { (sel s.loop.noz i {}) with goal := some goal, orig := now, p0 := s.fire.next } } }

/-- The candidate of an evaluated nozzle counts (R389): the nozzle's record, and whether its state is to change. -/
def State.countCheck (s : State) (i cand : Nat) : NozLoop × Bool :=
  let x := sel s.loop.noz i {}
  let n := if x.cand = cand then sat 8 (x.n + 1) else 1
  let x := { x with cand := cand, n := n }
  (x, decide (s.par P.loopCheckConfirm ≤ n ∧ cand ≠ stateOf (s.entry i)))

/-- A change of state is applied, or reported (R386, R389). -/
def State.changeState (s : State) (b : Nat) (u : Ink) (cand : Nat) (apply : Bool) : State :=
  let i := ledgerIndex b u.sl u.n
  let s := s.loopEvent 4 b (20 * b + u.sl) (cand * 2 ^ 30 + i) s.fire.next
  if !apply then s else
  let s := s.ownWrite i (BitVec.ofNat 32 (cand * 2 ^ 30)) 1
  if cand = 2 then s.fault F.nozzleOut i else if cand = 1 then s.fault F.nozzleWeak i else s

/-- Check age of a nozzle a strip covers (R392). -/
def State.checkAge (s : State) (i : Nat) (evaluated : Bool) : State :=
  let age := bits (s.entry i).toNat 0 4
  let new := if evaluated then 0 else sat 4 (age + 1)
  if new = age then s else
  let s := s.ownWrite i (BitVec.ofNat 32 new) 0x20
  if new = 15 then s.fault F.checkAge i else s

/-- A CHECK strip on one bar (R388 to R392); `fits` when its stream has scale 1 and `col_q` at most 65,536. -/
def State.checkStrip (s : State) (c : Nat) (m : Stream) (r : Run) (b : Nat) (t : Target) (n : Nat) (fits : Bool) : State :=
  let j := s.job r.job
  let all := stripNozzles r.g b (t.span j.pre)
  let inks := if !fits then [] else
    (all.filter (fun e => s.checkable r.g b e.1 e.2.1)).filterMap (fun e => (s.inkOf c m j r t n e.2.2).map (fun a => (⟨e.1, e.2.1, a⟩ : Ink)))
  let meds := (inks.map (fun u => (u, s.inkMedian b inks u))).filter (fun e => decide (0 < e.2))
  -- the spec fixes neither the extent nor the weights of a mark's centroid: its deviation is a free value (log 11)
  let judged := (List.range meds.length).filterMap (fun k => (meds[k]?).map (fun e =>
    (e.1, e.2, s.candidate e.1.a e.2 (Config.value (s.free + k)))))
  let s := { s with free := s.free + meds.length }
  let idx (u : Ink) : Nat := ledgerIndex b u.sl u.n
  let counted := judged.map (fun e => (e.1, e.2.1, e.2.2, s.countCheck (idx e.1) e.2.2))
  let outs := (counted.filter (fun e => e.2.2.2.2 && e.2.2.1 == 2)).length
  let suspect := decide (s.par P.loopCheckOutPerCheck < outs)
  let apply : Bool := s.par (P.loopBarCheckMode b) == 2 && (j.pre || (s.barLoop b).mode == 2)
  let s := if suspect then (s.fault F.checkSuspect b).loopEvent 5 b 0 0 s.fire.next else s
  let s := counted.foldl (fun (s : State) e =>
    let s := { s with loop := { s.loop with noz := put s.loop.noz (idx e.1) e.2.2.2.1 } }
    let first := apply || e.2.2.2.1.n == s.par P.loopCheckConfirm
    let s := if e.2.2.2.2 && first && !(suspect && e.2.2.1 == 2) then s.changeState b e.1 e.2.2.1 apply else s
    s.trimNozzle r.g b e.1 e.2.1) s
  all.foldl (fun (s : State) e => s.checkAge (ledgerIndex b e.1 e.2.1) (judged.any (fun k => k.1.sl == e.1 && k.1.n == e.2.1))) s

/-! ### A frame -/

/-- The targets of a job that a frame serves: PATCH and WINDOW from MEASURE, CHECK from NOZZLE (R380). -/
def frameTargets (j : Job) (c : Nat) (nozzle : Bool) : List (Nat × Target) :=
  ((List.range j.targets.length).zip j.targets).filter (fun e => e.2.ctx == c && (e.2.kind == 3) == nozzle)

/-- One target of a job on one bar, in every repeat the frame shows; a strip that R388 does not let evaluate is recorded with its entry index. -/
def State.useTarget (s : State) (c : Nat) (m : Stream) (r : Run) (b ix : Nat) (t : Target) (nozzle fits : Bool) : State :=
  let j := s.job r.job
  let used := (s.repeatsSeen c m j r).filter (fun n => s.inWindow c m j r t n && s.usable m r b t n)
  let s := if nozzle ∧ !fits ∧ !used.isEmpty then s.fault F.loopConfig ix else s
  used.foldl (fun s n =>
    if nozzle then s.checkStrip c m r b t n fits else s.measureRegion c m r b t n) s

/-- A bar's loop takes a mode (R386); the lines without a measurement of R385 count from its entry into RUN. -/
def State.enterMode (s : State) (b mode : Nat) : State :=
  let s := if mode = 2 ∧ (s.barLoop b).mode ≠ 2 then
      { s with loop := { s.loop with zones := s.loop.zones.map (fun (e : Nat × Zone) => (e.1, if e.1 / 400 = b then { e.2 with lastEl := s.pos } else e.2)) } }
    else s
  s.setBarLoop b { s.barLoop b with mode := mode }

/-- The loop of one bar takes a frame (R377, R386, R388). -/
def State.frameOnBar (s : State) (c : Nat) (m : Stream) (b : Nat) (nozzle : Bool) : State :=
  match (s.barLoop b).job.bind (fun i => s.splice.runs.find? (fun r => r.job == i && r.begun.getLsbD b)) with
  | none => s
  | some r =>
    let l := (frameTargets (s.job r.job) c nozzle).filter (fun e => printsPlane (s.job r.job) r.g b e.2.plane)
    if l.isEmpty then s else
    let s := s.enterMode b (s.par (P.loopBarMode b))
    if (s.barLoop b).mode = 0 ∨ nozzle ∧ s.par (P.loopBarCheckMode b) = 0 then s
    else if !s.delayOk c r.g b then s.fault F.loopConfig c
    else
      let fits := decide (m.scale = 1 ∧ s.par (P.loopCtxColQ c) ≤ 65536)
      l.foldl (fun (s : State) e => s.useTarget c m r b e.1 e.2 nozzle fits) s

/-- LOUPE processes the oldest MEASURE or NOZZLE frame of a context and releases it (R367, R368, R380). -/
def execLoopFrameProcess (dt : Nat) (ctx : Fin 16) (nozzle : Bool) (s : State) : Next :=
  let s := s.pass dt
  let c := ctx.val
  let x := s.ctx c
  if !s.loupeOn c then .next s else
  match (if nozzle then x.ring else x.meas) with
  | [] => .next s
  | m :: rest =>
    let s := s.setCtx c (if nozzle then { x with ring := rest } else { x with meas := rest })
    .next ((List.range 8).foldl (fun s b => s.frameOnBar c m b nozzle) s)

/-- A covered zone has received no eligible measurement for `stale_lines` (R385). -/
def execZoneStale (dt : Nat) (bar : Fin 8) (zone : Fin 400) (s : State) : Next :=
  let s := s.pass dt
  let b := bar.val
  let k := 400 * b + zone.val
  let x := s.zone k
  if x.stale ∨ x.notCov ∨ (s.barLoop b).job.isNone ∨ s.zoneMode b ≠ 2 ∨ since s.pos x.lastEl < (s.par P.loopStaleLines : Int) then .next s else
  let s := (s.setZone k { x with stale := true }).loopEvent 1 b zone.val 0 s.pos
  if (s.barLoop b).staleRec then .next s
  else .next ((s.setBarLoop b { s.barLoop b with staleRec := true }).fault F.zoneStale b)

/-- A zone's ramp has ended (R382, R385). -/
def execZoneRampEnd (dt : Nat) (bar : Fin 8) (zone : Fin 400) (s : State) : Next :=
  let s := s.pass dt
  let k := 400 * bar.val + zone.val
  let x := s.zone k
  if x.ramping ∧ 0 ≤ since s.fire.next x.pEnd then .next (s.setZone k { x with ramping := false }) else .next s

/-! ### LOOP commands (R398, R529) -/

/-- Zones of a bar with a property. -/
def State.countZones (s : State) (b : Nat) (p : Zone → Bool) : Nat := ((List.range 400).filter (fun z => p (s.zone (400 * b + z)))).length

/-- Entries of a bar in a state (R548): one not listed is GOOD. -/
def State.countState (s : State) (b v : Nat) : Nat :=
  let mine := s.ledger.ent.filter (fun e => decide (e.1 / 102400 = b))
  (mine.filter (fun e => stateOf e.2 == v)).length + (if v = 0 then 102400 - mine.length else 0)

/-- The 28 bytes of a bar's loop status. -/
def State.loopRecord (s : State) (b : Nat) : Bytes :=
  leB 1 b ++ leB 1 (s.par (P.loopBarMode b)) ++ leB 1 (s.par (P.loopBarCheckMode b)) ++ leB 1 0 ++
    leB 2 (s.countZones b Zone.unmeas) ++ leB 2 (s.countZones b Zone.stale) ++ leB 2 (s.countZones b Zone.limit) ++ leB 2 0 ++
    [0, 1, 2, 3].flatMap (fun v => leB 4 (s.countState b v))

/-- 0x0601 status. -/
def execLoopStatus (dt : Nat) (who : Sess) (s : State) : Next :=
  let s := s.pass dt
  .next (s.runCmd who 0x0601 (fun c => plain s c 4 (need s (fld c.pay 1 3 == 0) St.badParam (vet s (
    let bars := unmask 8 (u8 c.pay 0)
    .done St.ok (leB 1 bars.length ++ leB 3 0 ++ bars.flatMap s.loopRecord) s)))))

/-- Accept a value of a NOW parameter. -/
def State.setNow (s : State) (k : PKey) (v : Nat) : State := { s with params := { s.params with acc := accept s.params.acc k.id v } }

/-- 0x0602 mode (R386). -/
def execLoopMode (dt : Nat) (who : Sess) (s : State) : Next :=
  let s := s.pass dt
  .next (s.runCmd who 0x0602 (fun c =>
    let m := u8 c.pay 1
    let k := u8 c.pay 2
    plain s c 4 (need s (decide ((m ≤ 2 ∨ m = 0xFF) ∧ (k ≤ 2 ∨ k = 0xFF) ∧ u8 c.pay 3 = 0)) St.badParam (vet s (
      .done St.ok [] ((unmask 8 (u8 c.pay 0)).foldl (fun (s : State) b =>
        let s := if m = 0xFF then s else s.setNow (P.loopBarMode b) m
        if k = 0xFF then s else s.setNow (P.loopBarCheckMode b) k) s))))))

/-- A zone record (R398): its effective value at the line issued last. -/
def State.zoneRecord (s : State) (k : Nat) : Bytes :=
  let x := s.zone k
  leB 2 (unsigned 16 x.z) ++ leB 2 (unsigned 16 (x.eff (back s.fire.next 1))) ++ leB 1 x.flags ++ leB 1 (sat 8 x.count) ++
    leB 2 (unsigned 16 x.lastD) ++ leB 4 x.lastUp

/-- 0x0603 zones read. -/
def execLoopZonesRead (dt : Nat) (who : Sess) (s : State) : Next :=
  let s := s.pass dt
  .next (s.runCmd who 0x0603 (fun c =>
    let b := u8 c.pay 0
    let z := u16 c.pay 2
    let n := u8 c.pay 4
    plain s c 8 (need s (decide (b < 8 ∧ u8 c.pay 1 = 0 ∧ 1 ≤ n ∧ n ≤ 19 ∧ z + n ≤ 400 ∧ fld c.pay 5 3 = 0)) St.badParam (vet s (
      .done St.ok (leB 1 b ++ leB 1 n ++ leB 2 z ++ (List.range n).flatMap (fun i => s.zoneRecord (400 * b + z + i))) s)))))

/-- 0x0604 zones write (R387): at the next line boundary. -/
def execLoopZonesWrite (dt : Nat) (who : Sess) (s : State) : Next :=
  let s := s.pass dt
  .next (s.runCmd who 0x0604 (fun c =>
    let b := u8 c.pay 0
    let n := u8 c.pay 1
    let z := u16 c.pay 2
    let v := fun i => signed 16 (u16 c.pay (4 + 2 * i))
    let lim := s.par P.loopZoneLimit
    plain s c (4 + 2 * n) (need s (decide (b < 8 ∧ 1 ≤ n ∧ n ≤ 19 ∧ z + n ≤ 400) && (List.range n).all (fun i => decide ((v i).natAbs ≤ lim)))
      St.badParam (vet s (
        .done St.ok (leB 4 s.fire.next) ((List.range n).foldl (fun (s : State) i =>
          let k := 400 * b + z + i
          s.setZone k { s.zone k with pendZ := some (v i), pendHost := true }) s))))))

/-- The 16 bytes of a loop event (R396). -/
def LoopEvent.bytes (e : LoopEvent) : Bytes :=
  leB 1 e.kind ++ leB 1 e.bar ++ leB 2 e.item ++ leB 4 e.value.toNat ++ leB 4 e.line.toNat ++ leB 4 e.t32.toNat

/-- 0x0605 events (R396). -/
def execLoopEvents (dt : Nat) (who : Sess) (s : State) : Next :=
  let s := s.pass dt
  .next (s.runCmd who 0x0605 (fun c => plain s c 0 (vet s (
    .done St.ok (eventRead ((s.loop.events.take 14).map LoopEvent.bytes) s.loop.lost)
      { s with loop := { s.loop with events := s.loop.events.drop 14, lost := 0 } }))))

/-- The argument block that names a directory index. -/
def indexArg (a : Bytes) : Bool := indexOk (u16 a 0) && fld a 2 14 == 0

/-- 0x0606 memory read (R393, R395). -/
def execLoopMemoryRead (dt : Nat) (who : Sess) (s : State) : Next :=
  let s := s.pass dt
  .next (s.runCmd who 0x0606 (fun c => dmaForm s c 16 (fun _ a =>
    need s (indexArg a) St.badParam (vet s (hasQueue s who (
      let j := s.job (u16 a 0)
      need s j.memValid St.state (.pend (u16 a 0) s j.memory)))))))

/-- The colour memory has been written to host memory. -/
def execLoopMemoryReadComplete (dt : Nat) (who : Sess) (seq : BitVec 32) (chain : List Bytes) (s : State) : Next :=
  let s := s.pass dt
  .next (s.finish who seq [0x0606] (fun p => s.finishOut p chain p.data 12816 idLoupe))

/-- A job's memory may be replaced: it holds a job that is neither ARMED nor PRINTING (R395, R398). -/
def Job.memOpen (j : Job) : Bool := decide (2 ≤ j.state) && j.state != 5 && j.state != 6

/-- 0x0607 memory write (R395). -/
def execLoopMemoryWrite (dt : Nat) (who : Sess) (s : State) : Next :=
  let s := s.pass dt
  .next (s.runCmd who 0x0607 (fun c => dmaForm s c 16 (fun l a =>
    need s (indexArg a) St.badParam (vet s (hasQueue s who (
      need s (s.job (u16 a 0)).memOpen St.state (fixedLen s l 12816 (.pend (u16 a 0) s))))))))

/-- The 12,816 bytes of a memory have arrived (R395). -/
def execLoopMemoryWriteComplete (dt : Nat) (who : Sess) (seq : BitVec 32) (chain : List Bytes) (data : Bytes) (s : State) : Next :=
  let s := s.pass dt
  .next (s.finish who seq [0x0607] (fun p =>
    let i := p.obj.toNat
    match p.dataIn chain data with
    | none => s.complete p St.badParam 0 idHob
    | some b =>
      if b.length ≠ 12816 ∨ !memoryOk b then s.complete p St.badParam 0 idLoupe
      else if !(s.job i).memOpen then s.complete p St.state 0 idLoupe
      else
        let (t, ok) := s.putMemory i b
        if ok then t.complete p St.ok 0 idLoupe else s.complete p St.noSpace 0 idLoupe))

end Sys2Proof.Machine
end

