-- ==== Sys2Proof/Machine/Memory.lean ====
section
/-!
DEFINITION. DDR4 channels (R401 to R430): address map, urgency, errors, replays, refresh and temperature; the shared scratchpad
(R432 to R436), the codec (R440 to R445) and the CRC scan engines (R446, R447).
-/
namespace Sys2Proof.Machine

/-- A DDR4 channel. -/
def State.chan (s : State) (c : Nat) : DdrChan := sel s.ddr.ch c {}

/-- Replace it. -/
def State.setChan (s : State) (c : Nat) (x : DdrChan) : State := { s with ddr := { s.ddr with ch := put s.ddr.ch c x } }

/-! ### Address map (R408, R409) -/

/-- Trained channels, in increasing number. -/
def State.trainedList (s : State) : List Nat := (List.range 3).filter s.trained

/-- Granules of one channel: its data capacity over 64 bytes (R401, R408). -/
def State.chanGranules (s : State) : Nat := s.parReset P.memoryDdrRanks * s.parReset P.memoryDdrDensityGbit * (64 / s.parReset P.memoryDdrWidth) * 2 ^ 21

/-- Channel and granule index within it of a device granule (R408). -/
def State.mapGranule (s : State) (g : Nat) : Nat × Nat :=
  if s.parReset P.memoryDdrMapOrder = 3 then (g / s.chanGranules, g % s.chanGranules)
  else
    let l := s.trainedList
    let n := max 1 l.length
    ((l[g / 4 % n]?).getD 0, g / 4 / n * 4 + g % 4)

/-- Device fields of a granule index within its channel (R409). -/
structure DramFields where
  bg : Nat
  col : Nat
  ba : Nat
  rank : Nat
  row : Nat
deriving DecidableEq, Repr

/-- The split of a granule index into device fields, for a map order, device width, number of ranks and density (R409). -/
def dramFields (order width ranks cg : Nat) : DramFields :=
  let nb := if width = 8 then 2 else 1
  let nr := if ranks = 2 then 1 else 0
  if order = 1 then { col := cg % 128, bg := bits cg 7 nb, ba := bits cg (7 + nb) 2, rank := bits cg (9 + nb) nr, row := cg / 2 ^ (9 + nb + nr) }
  else
    let row := cg / 2 ^ (9 + nb + nr)
    let f : DramFields := { bg := cg % 2 ^ nb, col := bits cg nb 7, ba := bits cg (nb + 7) 2, rank := bits cg (nb + 9) nr, row := row }
    if order = 2 then { f with bg := Nat.xor f.bg (row % 2 ^ nb), ba := Nat.xor f.ba (row % 4) } else f

/-! ### Ports and urgency (R411, R412, R414) -/

/-- Latency target of a port in ns (R411). -/
def State.portTarget (s : State) (q : Nat) : Nat :=
  if q < 8 then (s.par P.rasterFetchLeadLines - 3) * s.linePeriod * 8 / 5 else s.par (P.memoryPortTargetNs q)

/-- Urgency of a request of an age in ns (R412). -/
def State.urgency (s : State) (q age : Nat) : Nat :=
  let t := s.portTarget q
  if s.par P.memoryDdrU3Pm * t ≤ 1000 * age then 3 else if s.par P.memoryDdrU2Pm * t ≤ 1000 * age then 2
  else if s.par P.memoryDdrU1Pm * t ≤ 1000 * age then 1 else 0

/-- Age in ns of a request that waits (R412). -/
def State.reqAge (s : State) (e : DdrReq × Nat) : Nat := e.1.age + (s.now - e.2) * 8 / 5

/-- A request of urgency 2 or 3 is among those that wait (R425). -/
def State.urgentQueued (s : State) (c : Nat) : Bool := (s.chan c).reqs.any (fun e => decide (2 ≤ s.urgency e.1.port.val (s.reqAge e)))

/-- A channel's refreshes issue: none is postponed, and every bank is closed (R413, R425). -/
def State.refreshNow (s : State) (c : Nat) : State := s.setChan c { s.chan c with post := [], rows := [] }

/-- Once no request of urgency 2 or 3 waits, a channel issues its postponed refreshes (R425). -/
def State.drainRefresh (s : State) (c : Nat) : State :=
  if (s.chan c).post.isEmpty ∨ s.urgentQueued c then s else s.refreshNow c

/-! ### The choice of the next command (R413, R415, R416) -/

/-- Requests enter a channel (R411); a write is acknowledged once it is among the first 64 (R415). -/
def State.enter (s : State) (c : Nat) (l : List DdrReq) : State :=
  if l.isEmpty then s else s.setChan c { s.chan c with reqs := (s.chan c).reqs ++ l.map (fun r => (r, s.now)) }

/-- Bank of a request within its channel, and its row (R409). -/
def State.reqRow (s : State) (r : DdrReq) : Nat × Nat :=
  let f := dramFields (s.parReset P.memoryDdrMapOrder) (s.parReset P.memoryDdrWidth) (s.parReset P.memoryDdrRanks) r.granule
  (16 * f.rank + 4 * f.bg + f.ba, f.row)

/-- A request hits an open row. -/
def State.rowHit (s : State) (c : Nat) (r : DdrReq) : Bool := look (s.chan c).rows (s.reqRow r).1 == some (s.reqRow r).2

/-- A request waits on those before it on its granule (R415, R416): a read on a write, and a write, of which one below 64 bytes holds the granule
from its read on, on every request. -/
def waitsOn (before : List (DdrReq × Nat)) (r : DdrReq) : Bool := before.any (fun e => e.1.granule == r.granule && (e.1.write || r.write))

/-- Requests with those before each. -/
def withBefore (before l : List (DdrReq × Nat)) : List (List (DdrReq × Nat) × (DdrReq × Nat)) :=
  match l with
  | [] => []
  | e :: t => (before, e) :: withBefore (before ++ [e]) t

/-- Urgency of a request that waits; a write carries that of the reads that wait on it (R412, R413). -/
def State.reqUrgency (s : State) (c : Nat) (e : DdrReq × Nat) : Nat :=
  let own := s.urgency e.1.port.val (s.reqAge e)
  if !e.1.write then own else
  ((s.chan c).reqs.filter (fun x => !x.1.write && x.1.granule == e.1.granule)).foldl (fun m x => max m (s.urgency x.1.port.val (s.reqAge x))) own

/-- The channel drains its write queue (R413): it holds 48 writes, no read waits, or a read waits on a write. -/
def State.drains (s : State) (c : Nat) : Bool :=
  let l := (s.chan c).reqs
  decide (48 ≤ l.countP (fun e => e.1.write)) || l.all (fun e => e.1.write) ||
    (withBefore [] l).any (fun p => !p.2.1.write && waitsOn p.1 p.2.1)

/-- Requests the channel may choose from, in the order they entered: none that waits on another, and of the writes those of the queue of 64
while it drains (R413, R415). -/
def State.reqChoices (s : State) (c : Nat) : List (DdrReq × Nat) :=
  let drain := s.drains c
  ((withBefore [] (s.chan c).reqs).filter (fun p => !waitsOn p.1 p.2.1 &&
    (!p.2.1.write || drain && decide (p.1.countP (fun e => e.1.write) < 64)))).map Prod.snd

/-- The next command of a channel (R413): of the highest urgency, a hit of an open row, at most 4 in a row ahead of an older one, else the
oldest. -/
def State.nextReq (s : State) (c : Nat) : Option (DdrReq × Nat) :=
  let l := s.reqChoices c
  let top := l.foldl (fun m e => max m (s.reqUrgency c e)) 0
  let l := l.filter (fun e => s.reqUrgency c e == top)
  match l.find? (fun e => s.rowHit c e.1) with
  | some e => if (s.chan c).streak < 4 then some e else l.head?
  | none => l.head?

/-- A request is issued (R413, R416): a write below 64 bytes first as its read, which leaves it a write of the whole granule. -/
def State.issueReq (s : State) (c : Nat) (e : DdrReq × Nat) : State :=
  let x := s.chan c
  let ahead := (s.reqChoices c).head? != some e && s.rowHit c e.1
  let reqs := if e.1.write && e.1.part then x.reqs.map (fun y => if y = e then ({ e.1 with part := false }, e.2) else y) else x.reqs.erase e
  s.setChan c { x with reqs := reqs, rows := put x.rows (s.reqRow e.1).1 (s.reqRow e.1).2, streak := (if ahead then x.streak + 1 else 0),
                       retry := (x.retry ++ [e.1]).drop (x.retry.length - 63) }

/-- A channel issues commands up to and with its next read (R413): the read. -/
def State.issueRead (n : Nat) (s : State) (c : Nat) : State × Option (DdrReq × Nat) :=
  match n with
  | 0 => (s, none)
  | m + 1 =>
    match s.nextReq c with
    | none => (s, none)
    | some e => if e.1.write then (s.issueReq c e).issueRead m c else (s.issueReq c e, some e)

/-- A request of ports 8 to 11 older than twice its target is counted, and recorded once per second and port (R414). -/
def State.qosCheck (s : State) (q age : Nat) : State :=
  if q < 8 ∨ age ≤ 2 * s.portTarget q then s else
  let due : Bool := match look s.ddr.lateAt q with
    | none => true
    | some t => decide (t + perSecond ≤ s.now)
  let s := { s with ddr := { s.ddr with late := put s.ddr.late q (sat 32 (sel s.ddr.late q 0 + 1)),
                                        lateAt := if due then put s.ddr.lateAt q s.now else s.ddr.lateAt } }
  if due then s.fault F.ddrQosLate q else s

/-! ### Errors (R420 to R422) -/

/-- What a read meets on a channel, counted and recorded (R420, R421); true when it is delivered poisoned. -/
def State.readEcc (s : State) (c granule : Nat) (fate : ReadFate) (master : Nat) : State × Bool :=
  let x := s.chan c
  if x.state = 4 then (s, true) else
  match fate with
  | .clean => (s, false)
  | .corrected => ((s.setChan c { x with corr := sat 32 (x.corr + 1) }).hit F.ddrEccCorr granule master 1, false)
  | .cleared => ((s.setChan c { x with reread := sat 32 (x.reread + 1) }).hit F.ddrEccReread granule master 1, false)
  | .poisoned => ((s.setChan c { x with pois := sat 32 (x.pois + 1) }).hit F.ddrEccPoison granule master 1, true)

/-- The command that an access served fails with FAULTED (R411, R89, R444): in its slot, or when it has answered PENDING. -/
def State.failCommand (s : State) (who : Option (Sess × BitVec 32)) (unit : Nat) : State :=
  match who with
  | none => s
  | some (w, seq) =>
    match s.pend? w seq with
    | some p =>
      if p.cmd.op = 0x0204 then (s.hit F.stageCheck 0 unit 1).stageFails p p.obj.toNat St.faulted unit
      else (s.undo p).complete p St.faulted 0 unit
    | none =>
      match (s.ses w).cmd with
      | some c => if c.seq = seq then s.deliver w c St.faulted [] else s
      | none => s

/-- A pixel of a plane line lies in the bytes of a granule of the record that a ring's window puts there (R93, R132). -/
def hopperHit (j : Job) (plane ring granule y : Nat) (x : Int) : Bool :=
  decide (0 ≤ x) && (j.windows plane).any (fun w =>
    w.ring == ring && decide (w.y ≤ y ∧ y < w.y + w.height ∧ w.x ≤ x.toNat ∧ x.toNat < w.x + w.width) &&
    (w.off + (y - w.y) * w.stride + (x.toNat - w.x) * j.bpp / 8) / 64 == granule)

/-- A granule of a plane line, or of the record that `ring` brings it, reaches a window poisoned (R132): its pixels print as drop size 0, one
record per pointer and plane line. -/
def State.poisonGranule (s : State) (slot rg line granule : Nat) (ring : Option Nat) : State :=
  let key := s.newKey slot rg line
  match (sel s.raster.win key []).find? (fun w => w.line == line) with
  | none => s.fault F.rasterPoison 0
  | some w =>
    match w.tag, s.splice.runs.find? (fun x => x.lam == w.lam) with
    | some i, some r =>
      let j := s.job i
      let n := if j.pre then 256 else 64
      let px := windowPixels r.g j.pre (slot / 20) (slot % 20) rg ((r.g (P.rasterBarSlotX0 slot) : Int) - w.base)
      let idx := (List.range px.length).filter (fun (q : Nat) => match px[q]?, ring with
        | some x, none => decide (0 ≤ x ∧ x / n = granule)
        | some x, some h =>
          let inRep := w.k % max 1 j.repLines
          (match planeFor j r.g (slot / 20) with
           | some plane => hopperHit j plane h granule (if j.pre then inRep else inRep / 2) x
           | none => false)
        | none, _ => false)
      -- both print lines of a contone plane line hold it
      let lines := s.twins key w j.pre
      let d := s.windowDefect 1 (slot / 20) (slot % 20) rg w (idx.headD 0) idx.length
      let again := s.raster.posted.any (fun e => e.kind == 1 && e.bar == d.bar && e.slot == d.slot && e.rg == d.rg && e.index == d.index &&
        e.rep == d.rep && e.pl == d.pl && lines.contains e.line)
      let s := (lines.foldl (fun (s : State) l => s.poison key l idx) s).fault F.rasterPoison 0
      if again then s else s.defect d
    | _, _ => s.fault F.rasterPoison 0

/-- A read of an age in ns returns to its port with what it met (R411, R414, R420 to R422). -/
def State.readReturns (s : State) (c : Nat) (r : DdrReq) (age : Nat) (fate : ReadFate) : State :=
  let (s, poison) := (s.qosCheck r.port.val age).readEcc c r.granule fate r.master.toNat
  let s := s.drainRefresh c
  if !poison then s
  else if r.port.val < 8 then
    match r.win with
    | some (slot, rg, line, g, ring) => s.poisonGranule slot.val rg.val line g (ring.map Fin.val)
    | none => s
  else if r.port.val = 8 then s
  else s.failCommand r.who (if r.port.val = 9 then idCodec else if r.port.val = 10 then idHob else r.master.toNat)

/-- The read that a port asks of a channel, when one does (R411). -/
def readOf (port : Option (Fin 12)) (granule age : Nat) (master : BitVec 8) (who : Option (Sess × BitVec 32))
    (win : Option (Fin 160 × Fin 2 × Nat × Nat × Option (Fin 16))) : List DdrReq :=
  (port.map (fun p => ({ port := p, granule := granule, age := age, master := master, who := who, win := win } : DdrReq))).toList

/-- A DDR4 channel issues commands and its next read returns (R411 to R422): `queued` are the requests that have entered it since the last
command, and after them, when `port` names one, that port's read of `granule`; `fate` is what the read that returns meets. -/
def execDdrRead (dt : Nat) (port : Option (Fin 12)) (ch : Fin 3) (granule : Nat) (fate : ReadFate) (age : Nat) (master : BitVec 8)
    (who : Option (Sess × BitVec 32)) (win : Option (Fin 160 × Fin 2 × Nat × Nat × Option (Fin 16))) (queued : List DdrReq) (s : State) : Next :=
  let s := s.pass dt
  if !s.trained ch.val then .next s else
  let s := s.enter ch.val (queued ++ readOf port granule age master who win)
  match s.issueRead (2 * (s.chan ch.val).reqs.length) ch.val with
  | (s, some e) => .next (s.readReturns ch.val e.1 (s.reqAge e) fate)
  | (s, none) => .next (s.drainRefresh ch.val)

/-! ### Replays (R417 to R419) -/

/-- A channel enters OFFLINE (R419). -/
def State.chanOffline (s : State) (c : Nat) : State := (s.setChan c { s.chan c with state := 4 }).raise F.ddrChannelOffline c

/-- ALERT_N signals a CA parity error: the channel replays (R417); `again` when it follows a replay of the same command, whose third failure
takes the channel OFFLINE (R419). -/
def execCaParityAlert (dt : Nat) (ch : Fin 3) (again : Bool) (s : State) : Next :=
  let s := s.pass dt
  let c := ch.val
  let x := s.chan c
  if x.state ≠ 2 then .next s else
  let fails := if again then x.caFails + 1 else 0
  if 3 ≤ fails then .next ((s.setChan c { x with caFails := 0, rows := [] }).chanOffline c)
  else .next ((s.setChan c { x with caFails := fails, ca := sat 32 (x.ca + 1), rows := [] }).fault F.ddrCaParity c)

/-- ALERT_N signals a write CRC error: the write is issued again (R418, R419). -/
def execWriteCrcAlert (dt : Nat) (ch : Fin 3) (again : Bool) (s : State) : Next :=
  let s := s.pass dt
  let c := ch.val
  let x := s.chan c
  if x.state ≠ 2 ∨ s.parReset P.memoryDdrWriteCrc = 0 then .next s else
  let fails := if again then x.crcFails + 1 else 0
  if 3 ≤ fails then .next ((s.setChan c { x with crcFails := 0 }).chanOffline c)
  else .next ((s.setChan c { x with crcFails := fails, crc := sat 32 (x.crc + 1) }).fault F.ddrWriteCrc c)

/-! ### Refresh and temperature (R423 to R426) -/

/-- tREFI in tenths of a ns: 7.8 µs, or 3.9 µs (R424). -/
def refreshGap (x2 : Bool) : Nat := if x2 then 39000 else 78000

/-- A rank's refresh falls due (R425): postponed while a request of urgency 2 or 3 waits, up to 8; else it and the postponed ones issue. -/
def execDdrRefreshDue (dt : Nat) (ch : Fin 3) (rank : Fin 2) (arrive : List DdrReq) (s : State) : Next :=
  let s := s.pass dt
  if (s.chan ch.val).state ≠ 2 ∨ s.parReset P.memoryDdrRanks ≤ rank.val then .next s else
  let s := s.enter ch.val arrive
  let x := s.chan ch.val
  if 16 * s.now < sel x.refDue rank.val 0 then .next s else
  let x := { x with refDue := put x.refDue rank.val (16 * s.now + refreshGap x.x2) }
  let s := s.setChan ch.val x
  if s.urgentQueued ch.val then .next (s.setChan ch.val { x with post := put x.post rank.val (min 8 (sel x.post rank.val 0 + 1)) })
  else .next (s.refreshNow ch.val)

/-- The largest count of postponed refreshes among a channel's ranks (R425). -/
def DdrChan.postponed (x : DdrChan) : Nat := ((x.post.map Prod.snd).max?).getD 0

/-- A channel doubles its refresh rate; when the temperature crossed with refreshes postponed they issue at once (R426). -/
def State.doubleRefresh (s : State) (c : Nat) (cross : Bool) : State :=
  let x := s.chan c
  if x.state ≠ 2 ∨ x.x2 then s else
  let s := s.setChan c { x with x2 := true, post := if cross then [] else x.post, refDue := if cross then [0, 1].foldl (fun m r => put m r (16 * s.now + refreshGap true)) x.refDue else x.refDue }
  if cross ∧ x.postponed ≠ 0 then s.fault F.ddrRefreshDouble c else s

/-- Channels that are ONLINE. -/
def State.online (s : State) : List Nat := (List.range 3).filter (fun c => (s.chan c).state == 2)

/-- Every 10 ms STOKER reads the case temperature (R424, R426). -/
def execDdrTempRead (dt : Nat) (s : State) : Next :=
  let s := s.pass dt
  let i := s.par P.memoryDdrTempSensor
  if s.now < s.ddr.tempNext then .next s else
  let s := { s with ddr := { s.ddr with tempNext := s.now + 10 * perMs } }
  if i = 0xFF then
    let s := { s with ddr := { s.ddr with caseC := none, caseAt := s.now } }
    let s := s.online.foldl (fun (s : State) c => ((s.doubleRefresh c false).lower F.ddrTempStale c).lower F.ddrOvertemp c) s
    .next s
  else match s.boardTemp i with
    | none =>
      if s.now < s.ddr.caseAt + 100 * perMs then .next s
      else .next (s.online.foldl (fun (s : State) c => (s.doubleRefresh c false).raise F.ddrTempStale c) s)
    | some t =>
      let s := { s.fresh with ddr := { s.ddr with caseC := some t, caseAt := s.now } }
      .next (s.online.foldl (fun (s : State) c =>
        let s := s.lower F.ddrTempStale c
        let s := if 850 < t then s.doubleRefresh c true else if t < 830 then s.setChan c { s.chan c with x2 := false } else s
        if 950 < t then s.raise F.ddrOvertemp c else s.lower F.ddrOvertemp c) s)

/-- Every 128 ms while READY the controller issues ZQCS (R403): a calibration of the devices' drivers, with no effect on the block's state. -/
def execDdrZqcs (dt : Nat) (s : State) : Next := .next (s.pass dt)

/-- The scrub has read every granule (R423): what its reads met, as (channel, granule index, fate). -/
def execDdrScrub (dt : Nat) (upsets : List (Fin 3 × Nat × ReadFate)) (s : State) : Next :=
  let s := s.pass dt
  if s.par P.memoryDdrScrubHours = 0 ∨ s.now < s.ddr.scrubNext then .next s else
  let s := { s with ddr := { s.ddr with scrubNext := s.now + s.par P.memoryDdrScrubHours * 3600 * perSecond } }
  .next (upsets.foldl (fun (s : State) u => if (s.chan u.1.val).state = 2 then (s.readEcc u.1.val u.2.1 u.2.2 idNone).1 else s) s)

/-- The background initialisation ends (R407). -/
def execDdrInitDone (dt : Nat) (s : State) : Next :=
  let s := s.pass dt
  if s.trainedList.isEmpty then .next s else .next { s with ddr := { s.ddr with initDone := true } }

/-! ### MEMORY status and training read (R428, R535) -/

/-- 0x1101 status. -/
def execMemoryStatus (dt : Nat) (who : Sess) (s : State) : Next :=
  let s := s.pass dt
  .next (s.runCmd who 0x1101 (fun c =>
    let x := s.chan (u8 c.pay 0)
    plain s c 4 (need s (decide (u8 c.pay 0 < 3 ∧ fld c.pay 1 3 = 0)) St.badParam (vet s (
      .done St.ok (leB 1 x.state ++ leB 1 (s.parReset P.memoryDdrWidth) ++ leB 1 (s.parReset P.memoryDdrDensityGbit) ++
        leB 1 (s.parReset P.memoryDdrRanks) ++ leB 2 (s.parReset P.memoryDdrMts) ++ leB 1 (s.parReset P.memoryDdrMapOrder) ++ leB 1 (b2n x.x2) ++
        leB 4 x.corr ++ leB 4 x.reread ++ leB 4 x.pois ++ leB 4 x.ca ++ leB 4 x.crc ++ leB 1 x.postponed ++ leB 1 (b2n s.ddr.initDone) ++
        leB 2 (unsigned 16 (s.ddr.caseC.getD 0)) ++ leB 1 s.dramGb ++ leB 3 0) s)))))

/-- The training result of a lane (R429). -/
def State.trainRes (s : State) (ch rank lane : Nat) : TrainRes := sel s.ddr.train (18 * ch + 9 * rank + lane) {}

/-- 0x1102 training read. -/
def execMemoryTrainingRead (dt : Nat) (who : Sess) (s : State) : Next :=
  let s := s.pass dt
  .next (s.runCmd who 0x1102 (fun c =>
    let ch := u8 c.pay 0
    let r := u8 c.pay 1
    plain s c 4 (need s (decide (ch < 3 ∧ r < 2 ∧ u16 c.pay 2 = 0)) St.badParam (vet s (
      need s (s.trained ch && decide (r < s.parReset P.memoryDdrRanks)) St.state (
        .done St.ok ((List.range 9).flatMap (fun l =>
          let t := s.trainRes ch r l
          leB 1 t.rd ++ leB 1 t.re ++ leB 2 t.wd ++ leB 1 t.we ++ leB 1 t.vref)) s))))))

/-! ### The codec (R440 to R445) -/

/-- The bits of a literal byte in the fixed code of RFC 1951, first bit first. -/
def litBits (x : Byte) : List Bool :=
  if x.toNat < 144 then (List.range 8).map (fun i => bit (0x30 + x.toNat) (7 - i)) else (List.range 9).map (fun i => bit (0x190 + (x.toNat - 144)) (8 - i))

/-- A type 1 block of literals. -/
def litBlock (final : Bool) (b : Bytes) : List Bool := [final, true, false] ++ b.flatMap litBits ++ List.replicate 7 false

/-- Bits as bytes, the first bit least significant. -/
def bitsToBytes (l : List Bool) : Bytes :=
  (List.range ((l.length + 7) / 8)).map (fun i => BitVec.ofNat 8 (((List.range 8).map (fun k => b2n ((l[8 * i + k]?).getD false) * 2 ^ k)).sum))

/-- A DEFLATE stream of literals, a new block after every 65,536 bytes (R441). -/
def literalStream (b : Bytes) : Bytes :=
  let n := max 1 ((b.length + 65535) / 65536)
  bitsToBytes ((List.range n).flatMap (fun i => litBlock (i + 1 == n) ((b.drop (65536 * i)).take 65536)))

/-- The compressor's output: a free value among the streams that decode to the input (R441, log 11). -/
def State.compressed (s : State) (b : Bytes) : Bytes :=
  if inflate (Config.deflated s.free) b.length = some b then Config.deflated s.free else literalStream b

/-- Jobs a codec queue holds (R440). -/
def codecQueue : Nat := 32

/-- 0x1103 codec. -/
def execMemoryCodec (dt : Nat) (who : Sess) (s : State) : Next :=
  let s := s.pass dt
  .next (s.runCmd who 0x1103 (fun c => dmaForm s c 32 (fun _ a =>
    let mode := u8 a 0
    need s (decide (mode ≤ 2 ∧ fld a 1 3 = 0 ∧ (mode ≠ 0 → u32 a 0x10 = 0) ∧ fld a 0x14 12 = 0)) St.badParam (vet s (hasQueue s who (
      let j : CodecJob := { who := some (who, c.seq), mode := mode, inLen := u32 a 4, expect := u32 a 0x10 }
      need s (decide ((if mode = 0 then s.chip.decomp else s.chip.comp).length < codecQueue)) St.busy (
        .pend 0 { s with chip := if mode = 0 then { s.chip with decomp := s.chip.decomp ++ [j] } else { s.chip with comp := s.chip.comp ++ [j] } })))))))

/-- The output of a codec job over its buffers (R444): NO_SPACE with what fits when the list ends before it. -/
def State.codecOut (s : State) (p : Pend) (l : List DmaDesc) (out : Bytes) (crc : Nat) : State :=
  let n := min (total l) out.length
  (s.emits (scatter l out)).complete p (if total l < out.length then St.noSpace else St.ok) (n + crc * 2 ^ 32) idCodec

/-- A codec job ends: the first of the compressor's queue, or of the decompressor's (R440 to R444). -/
def execCodecJobComplete (dt : Nat) (comp : Bool) (chain : List Bytes) (data : Bytes) (s : State) : Next :=
  let s := s.pass dt
  match if comp then s.chip.comp else s.chip.decomp with
  | [] => .next s
  | j :: t =>
    let s := { s with chip := { (if comp then { s.chip with comp := t } else { s.chip with decomp := t }) with jobs := sat 32 (s.chip.jobs + 1) } }
    match j.who.bind (fun w => s.pend? w.1 w.2) with
    | none => .next s
    | some p =>
      let input := padTo j.inLen data
      match p.descs chain with
      | none => .next (s.complete p St.badParam 0 idCodec)
      | some l =>
        if comp then
          let out := s.compressed input
          let crc := (crc32c input).toNat
          let s := s.fresh
          if input.length ≤ out.length ∧ input.length ≤ total l then
            .next (({ s with chip := { s.chip with noshr := sat 32 (s.chip.noshr + 1) } }).complete p St.noshrink (crc * 2 ^ 32) idCodec)
          else .next (s.codecOut p l out crc)
        else match inflate input j.expect with
          | none =>
            let s := { s with chip := { s.chip with strErr := sat 32 (s.chip.strErr + 1) } }
            let s := s.hit F.codecStream 0xFFFFFFFF idCodec 0
            .next (s.still p (s.complete p St.faulted 0 idCodec))
          | some out => .next (s.codecOut p l out (crc32c out).toNat)

/-! ### CRC scan engines (R446, R447) -/

/-- Bytes of a space of a scan (R446). -/
def State.spaceSize (s : State) (space : Nat) : Nat := if space = 0 then s.channels * s.chanGranules * 64 else 4194304

/-- A scan engine. -/
def State.scanEngine (s : State) (e : Nat) : Scan := sel s.chip.scans e {}

/-- Replace it. -/
def State.setScan (s : State) (e : Nat) (x : Scan) : State := { s with chip := { s.chip with scans := put s.chip.scans e x } }

/-- 0x1104 scan. -/
def execMemoryScan (dt : Nat) (who : Sess) (s : State) : Next :=
  let s := s.pass dt
  .next (s.runCmd who 0x1104 (fun c =>
    let e := u8 c.pay 0
    let space := u8 c.pay 1
    let a := u64 c.pay 4
    let n := u64 c.pay 12
    plain s c 20 (need s (decide (e < 4 ∧ space < 2 ∧ u8 c.pay 2 < 2 ∧ u8 c.pay 3 = 0 ∧ 1 ≤ n ∧ n ≤ 2 ^ 37 ∧ a + n ≤ s.spaceSize space)) St.badParam (
      vet s (hasQueue s who (need s ((s.scanEngine e).who.isNone) St.busy (
        .pend e (s.setScan e { who := some (who, c.seq), space := space, poly := u8 c.pay 2, start := a, len := n }))))))))

/-- The scratchpad bytes the model holds (R434): the slots, the remote images and completion queues, and the FIREBOX checkpoints. -/
def State.scratchBytes (s : State) (a n : Nat) : Option Bytes :=
  if a + n ≤ 0x8000 ∨ (0x10000 ≤ a ∧ a + n ≤ 0x30000) then some (s.scratch a n)
  else if 0x8000 ≤ a ∧ a + n ≤ 0x8800 then s.checkpoints.map (fun b => slice b (a - 0x8000) n)
  else none

/-- The first granule in a range of device granules whose channel is OFFLINE: every read there is poisoned (R419). -/
def State.offlineIn (s : State) (g h : Nat) : Option Nat :=
  let cand := (List.range 12).map (g + ·) ++ (List.range 3).map (· * s.chanGranules)
  ((cand.filter (fun x => decide (g ≤ x ∧ x ≤ h) && (s.chan (s.mapGranule x).1).state == 4))).min?

/-- A scan reads the granules that met errors, in increasing order, up to the first that fails (R420, R421, R436, R447):
the address of the failing one. -/
def State.scanReads (s : State) (e : Nat) (x : Scan) (stop : Option Nat) (upsets : List (Nat × ReadFate)) : State × Option Nat :=
  match upsets with
  | [] => (s, stop.map (64 * ·))
  | (g, fate) :: t =>
    if match stop with | some h => decide (h ≤ g) | none => false then (s, stop.map (64 * ·))
    else if g < x.start / 64 ∨ (x.start + x.len - 1) / 64 < g then s.scanReads e x stop t
    else if x.space = 0 then
      let (ch, cg) := s.mapGranule g
      let (s, bad) := s.readEcc ch cg fate (idScan + e)
      if bad then (s, some (64 * g)) else s.scanReads e x stop t
    else match fate with
      | .corrected =>
        (({ s with chip := { s.chip with corr := sat 32 (s.chip.corr + 1) } }).hit F.scratchEccCorr 0 (idScan + e) 1).scanReads e x stop t
      | .poisoned => (s.hit F.scratchEcc (64 * g) (idScan + e) 1, some (64 * g))
      | _ => s.scanReads e x stop t

/-- A CRC scan ends (R447). `upsets` are the granules that met errors, in increasing order; `intruder` an access of the secure scratchpad by
another initiator than FENDER in the scan's time, which is denied (R438). The spec places no data in DDR4 device addresses, so the CRC of
such a range is free (log 11), as is that of scratchpad areas whose bytes it does not lay down. -/
def execScanComplete (dt : Nat) (engine : Fin 4) (upsets : List (Nat × ReadFate)) (intruder : Option (BitVec 8 × BitVec 32)) (s : State) : Next :=
  let s := s.pass dt
  let s : State := match intruder with
    | some (m, a) => if m.toNat = idFender then s else s.hit F.secureScratchDenied a.toNat m.toNat 1
    | none => s
  let e := engine.val
  let x := s.scanEngine e
  match x.who.bind (fun w => s.pend? w.1 w.2) with
  | none => .next s
  | some p =>
    let stop := if x.space = 0 then s.offlineIn (x.start / 64) ((x.start + x.len - 1) / 64) else none
    let (s, bad) := s.scanReads e x stop upsets
    let s := s.setScan e {}
    match bad with
    | some a => .next ((s.hit F.scanPoison e (idScan + e) 1).complete p St.faulted a (idScan + e))
    | none =>
      match if x.space = 1 then s.scratchBytes x.start x.len else none with
      | some b => .next (s.complete p St.ok (crcCode x.poly b).toNat (idScan + e))
      | none => .next (s.fresh.complete p St.ok (Config.value s.free % 2 ^ 32) (idScan + e))

end Sys2Proof.Machine
end

