-- ==== Sys2Proof/Machine/Collector.lean ====
section
/-!
DEFINITION. The fault collector's own commands (R452 to R471): hits, watchdogs, the end of resets and shadows, and the
FAULT commands (R533).
-/
namespace Sys2Proof.Machine

/-! ### Hits and watchdogs -/

/-- The collector registers a hit of a source (R454); of two hits in one TCLK the lower source number takes the record. -/
def execFaultHit (dt : Nat) (src : Fin 512) (addr : BitVec 32) (master : BitVec 8) (access : BitVec 4) (s : State) : Next :=
  let s := s.pass dt
  if (fsrc? src.val).isNone then .next s else
  let t := s.hit src.val addr.toNat master.toNat access.toNat
  let f := s.faults.fer
  if s.faults.on ∧ f.valid ∧ f.atT = s.now ∧ src.val < f.source ∧ s.reaction src.val ≠ 0 ∧ !s.shadowed src.val addr.toNat master.toNat then
    .next { t with faults := { t.faults with fer := { t.faults.fer with
      source := src.val, addr := addr, master := master.toNat, access := access.toNat } } }
  else .next t

/-- Access type of a watchdog's record: handshake (R47). -/
def accHandshake : Nat := 7

/-- HOB's firmware stops responding (R77, R463). -/
def execHobWatchdog (dt : Nat) (s : State) : Next := .next ((s.pass dt).hit F.hobWatchdog 0 idHob accHandshake)

/-- A GRATE core stops answering (R166): it stands until it is reset. -/
def execGrateWatchdog (dt : Nat) (b : Fin 8) (s : State) : Next :=
  let s := s.pass dt
  let s := s.setGrate b.val { s.grate b.val with stopped := true }
  .next (s.hit F.grateWatchdog b.val (idGrate + b.val) accHandshake)

/-- DAMPER stops answering (R471); the fire position still counts. -/
def execDamperWatchdog (dt : Nat) (s : State) : Next := .next ((s.pass dt).hit F.damperWatchdog 0 idDamper accHandshake)

/-- A LOUPE stops answering (R463, R471). -/
def execLoupeWatchdog (dt : Nat) (p : Fin 2) (s : State) : Next :=
  .next ((s.pass dt).hit F.loupeWatchdog p.val (idLoupe + p.val) accHandshake)

/-! ### The end of resets and shadows (R463, R464) -/

/-- Before its bar resumes, a GRATE checks its banks and reloads one that differs (R166). -/
def State.checkBanks (s : State) (b : Nat) : State :=
  let g := s.grate b
  s.setGrate b { g with bank0 := { g.bank0 with badTone := [], badCell := [] }, bank1 := { g.bank1 with badTone := [], badCell := [] } }

/-- A GRATE's core runs again: the bank loads that waited for it begin (R100, R166). -/
def State.resumeLoads (s : State) (b : Nat) : State :=
  let s := (s.grate b).want.foldl (fun s j => s.commitBank b j) s
  let g := s.grate b
  if g.bankLate ∧ g.want.isEmpty ∧ g.loading.isEmpty then s.setGrate b { g with bankLate := false } else s

/-- A block's reset completes; its shadow lasts `settle_us` longer (R464). A block held in reset stays there (R465). -/
def execBlockResetComplete (dt blk : Nat) (s : State) : Next :=
  let s := s.pass dt
  if !s.inReset blk ∨ s.faults.heldR.contains blk then .next s else
  let ends := s.now + s.par P.manageFaultSettleUs * perUs
  let s := { s with faults := { s.faults with shadows := s.faults.shadows.map (fun (h : Shadow) =>
    if h.block = blk ∧ h.ends.isNone then { h with ends := some ends } else h) } }
  if 8 ≤ blk ∧ blk < 16 then .next ((s.checkBanks (blk - 8)).resumeLoads (blk - 8)) else .next s

/-- A shadow is over at an instant. -/
def Shadow.finished (h : Shadow) (now : Nat) : Bool := match h.ends with | some e => decide (e ≤ now) | none => false

/-- The shadow of a block ends: a level source of its list whose condition still holds is hit now (R464). -/
def execShadowEnd (dt blk : Nat) (s : State) : Next :=
  let s := s.pass dt
  match s.faults.shadows.find? (fun h => h.block == blk && h.finished s.now) with
  | none => .next s
  | some h =>
    let held := s.faults.src.flatMap (fun (e : Nat × Source) => (e.2.conds.filter (fun a => s.covers h e.1 a.toNat idNone)).map (fun a => (e.1, a.toNat)))
    let s := { s with faults := { s.faults with shadows := s.faults.shadows.filter (fun (x : Shadow) => !(x.block == blk && x.finished s.now)) } }
    .next (held.foldl (fun (s : State) e => s.register e.1 e.2 idNone 0) s)

/-! ### FAULT commands (R469, R533) -/

/-- 0x0C01 status; the seventh word of the record is FER_REARM, which reads zero (R9, R47, R533). -/
def execFaultStatus (dt : Nat) (who : Sess) (s : State) : Next :=
  let s := s.pass dt
  .next (s.runCmd who 0x0C01 (fun c =>
    let n := u8 c.pay 0
    let src := (List.range n).map (fun k => u16 c.pay (4 + 2 * k))
    plain s c (4 + 2 * n) (need s (decide (n ≤ 16 ∧ fld c.pay 1 3 = 0) && src.all (fun x => decide (x < 512))) St.badParam (vet s (
      .done St.ok ((List.range 16).flatMap (fun k => leB 4 (s.fsum k)) ++
        [0x30100, 0x30104, 0x30108, 0x3010C, 0x30110, 0x30114, 0x30118].flatMap (fun o => leB 4 (s.readRecord o)) ++
        src.flatMap (fun x => leB 2 x ++ leB 2 (s.src x).hits)) s)))))

/-- 0x0C02 clear (R457, R458). -/
def execFaultClear (dt : Nat) (who : Sess) (s : State) : Next :=
  let s := s.pass dt
  .next (s.runCmd who 0x0C02 (fun c =>
    let m := fld c.pay 0 64
    plain s c 64 (vet s (
      let s := (unmask 512 m).foldl (fun (s : State) n => s.clearSource n false) s
      .done St.ok (leB 64 (maskOf ((unmask 512 m).filter (fun n => (s.src n).sticky)))) s))))

/-- 0x0C03 rearm (R462). -/
def execFaultRearm (dt : Nat) (who : Sess) (s : State) : Next :=
  let s := s.pass dt
  .next (s.runCmd who 0x0C03 (fun c => plain s c 0 (vet s (.done St.ok [] s.rearm))))

/-- Sources that the table of R463 names. -/
def resetSources : List Nat := [0x001, 0x002, 0x005, 0x006, 0x053, 0x084, 0x08A, 0x08C, 0x1C0, 0x1C2, 0x1C6, 0x1D8]

/-- A source may be given a reaction (R452, R456). -/
def reactionOk (n r : Nat) : Bool :=
  match fsrc? n with
  | none => r == 0
  | some _ =>
    decide (r ≤ 8) &&
    !(r == 3 && addrKind n != 1 && addrKind n != 2) &&
    !(r == 4 && addrKind n != 1 && addrKind n != 2 && addrKind n != 3) &&
    !(r == 6 && !resetSources.contains n) &&
    !(r == 7 && n != 0x0D0 && n != 0x0D1) &&
    !((n == 0x0D0 || n == 0x0D1) && r != 5 && r != 7) &&
    !(n == 0x18C && r != 5 && r != 8)

/-- A SECURE source (R452). -/
def isSecureSource (n : Nat) : Bool := decide (0x1E0 ≤ n ∧ n < 0x200)

/-- A write that would change a SECURE source's reaction is DENIED from FIELD on (R456, R580). -/
def State.reactionDenied (s : State) (n r : Nat) : Bool := isSecureSource n && s.lcField && s.reaction n != r

/-- Accept a reaction. -/
def State.setReaction (s : State) (n r : Nat) : State :=
  { s with params := { s.params with acc := accept s.params.acc (P.manageFaultSourceReaction n).id r } }

/-- 0x0C04 reaction (R456): a write applies all members or none. -/
def execFaultReaction (dt : Nat) (who : Sess) (s : State) : Next :=
  let s := s.pass dt
  .next (s.runCmd who 0x0C04 (fun c =>
    let op := u8 c.pay 0
    let n := u8 c.pay 1
    let m := (List.range n).map (fun k => (u16 c.pay (4 + 4 * k), u8 c.pay (6 + 4 * k), u8 c.pay (7 + 4 * k)))
    let answer (s : State) : Bytes := leB 1 op ++ leB 1 n ++ leB 2 0 ++ m.flatMap (fun x => leB 2 x.1 ++ leB 1 (s.reaction x.1) ++ leB 1 0)
    plain s c (4 + 4 * n) (need s (decide (op ≤ 1 ∧ 1 ≤ n ∧ n ≤ 56 ∧ u16 c.pay 2 = 0) &&
        m.all (fun x => decide (x.1 < 512) && x.2.2 == 0 && if op = 0 then x.2.1 == 0 else reactionOk x.1 x.2.1)) St.badParam (vet s (
      if op = 0 then .done St.ok (answer s) s
      else if m.any (fun x => s.reactionDenied x.1 x.2.1) then refuse s St.denied
      else
        let s := m.foldl (fun (s : State) x => s.setReaction x.1 x.2.1) s
        .done St.ok (answer s) s)))))

/-- FAULT inject is denied (R469, R485, R487): from FIELD on without SAFELIGHT open and its scope, and in RETIRED. -/
def State.injectDenied (s : State) : Bool := s.lcField && (s.otp.lc == 4 || s.sec.scope % 4 != 3)

/-- 0x0C05 inject: one hit, with the command's initiator as master and access 0; no condition of a level source begins. -/
def execFaultInject (dt : Nat) (who : Sess) (s : State) : Next :=
  let s := s.pass dt
  .next (s.runCmd who 0x0C05 (fun c =>
    let n := u16 c.pay 0
    plain s c 8 (need s ((fsrc? n).isSome && u16 c.pay 2 == 0) St.badParam (vet s (need s (!s.injectDenied) St.denied (
      .done St.ok [] ((s.taken who).register n (u32 c.pay 4) (Sess.initiator who) 0)))))))

end Sys2Proof.Machine
end

