-- ==== Sys2Proof/Machine/Security.lean ====
section
/-!
DEFINITION. STOKER's event log (R477 to R479) and firmware update (R480 to R484), FENDER: life cycle (R485, R486), SAFELIGHT and
boundary scan (R487 to R490), tamper (R491 to R493), keys (R494) and the wipe of the secure scratchpad (R439).
-/
namespace Sys2Proof.Machine

/-! ### Event log -/

/-- Entries the flash ring holds (R478). -/
def flashLogSize : Nat := 522240

/-- The LOST entry that goes to flash before the next entry copied (R478); its sequence is that of the last entry lost (log 24). -/
def State.lostEntry (s : State) : LogEntry :=
  { seq := s.mgmt.nextSeq - BitVec.ofNat 32 s.mgmt.uncop - 1, t32 := s.t32, secs := BitVec.ofNat 32 s.devSec, kind := 8, master := idStoker,
    addr := BitVec.ofNat 32 (Config.value s.free), count := sat 16 s.mgmt.lostNow, epoch := s.host.epoch,
    data := BitVec.ofNat 32 (Config.value (s.free + 1)) }

/-- STOKER copies RAM log entries to the flash ring (R478); `ok` is false when a flash write or erase fails. Flushes wait for an erase (R483). -/
def execLogFlush (dt : Nat) (ok : Bool) (s : State) : Next :=
  let s := s.pass dt
  if s.mgmt.upd.erasing ∨ s.mgmt.uncop = 0 then .next s
  else if !ok then .next (s.hit F.logFlash 0 idStoker 2)
  else
    let lost := if s.mgmt.lostNow = 0 then [] else [s.lostEntry]
    .next { s with flash := { s.flash with log := (s.mgmt.log.take s.mgmt.uncop ++ lost ++ s.flash.log).take flashLogSize },
                   mgmt := { s.mgmt with uncop := 0, lostNow := 0 }, free := s.free + 2 }

/-- 0x0D01 read: the entries from a sequence on, oldest first (R479, R533); with none returned the next sequence is the one asked for. -/
def execLogRead (dt : Nat) (who : Sess) (s : State) : Next :=
  let s := s.pass dt
  .next (s.runCmd who 0x0D01 (fun c =>
    let first := u32 c.pay 0
    let most := u8 c.pay 5
    plain s c 8 (need s (decide (u8 c.pay 4 ≤ 1 ∧ 1 ≤ most ∧ most ≤ 7 ∧ u16 c.pay 6 = 0)) St.badParam (vet s (
      let ring := if u8 c.pay 4 = 0 then s.mgmt.log else s.flash.log
      let l := (ring.reverse.filter (fun e => le32 first e.seq.toNat)).take most
      let next := match l.getLast? with | some e => (e.seq + 1).toNat | none => first
      .done St.ok (leB 1 l.length ++ leB 3 0 ++ leB 4 next ++ l.flatMap LogEntry.bytes) s)))))

/-- First sequence of a ring, and the sequence that its next entry takes. -/
def ringEnds (ring : List LogEntry) (next : BitVec 32) : Nat × Nat :=
  (match ring.getLast? with | some e => e.seq.toNat | none => next.toNat, match ring.head? with | some e => (e.seq + 1).toNat | none => next.toNat)

/-- 0x0D02 status (R478, R533). -/
def execLogStatus (dt : Nat) (who : Sess) (s : State) : Next :=
  let s := s.pass dt
  .next (s.runCmd who 0x0D02 (fun c => plain s c 0 (vet s (
    let r := ringEnds s.mgmt.log s.mgmt.nextSeq
    let f := ringEnds s.flash.log (s.mgmt.nextSeq - BitVec.ofNat 32 s.mgmt.uncop)
    .done St.ok (leB 4 r.1 ++ leB 4 s.mgmt.nextSeq.toNat ++ leB 4 f.1 ++ leB 4 f.2 ++ leB 4 s.mgmt.lostAll) s))))

/-- 0x0D03 note (R498). -/
def execLogNote (dt : Nat) (who : Sess) (s : State) : Next :=
  let s := s.pass dt
  .next (s.runCmd who 0x0D03 (fun c => plain s c 8 (vet s (
    .done St.ok (leB 4 s.mgmt.nextSeq.toNat)
      (s.log 7 (Sess.initiator who) 0xFFFF (some (BitVec.ofNat 32 (u32 c.pay 0))) none (some (BitVec.ofNat 32 (u32 c.pay 4))))))))

/-! ### Boot directory and images (R481, R482) -/

/-- The directory: the copy whose crc is good and whose generation is higher, with its number (R482). -/
def Flash.dir (f : Flash) : Option (Nat × BootDir) :=
  match f.dir0, f.dir1 with
  | some a, some b => if a.gen < b.gen then some (1, b) else some (0, a)
  | some a, none => some (0, a)
  | none, some b => some (1, b)
  | none, none => none

/-- The directory's contents; with no good copy those of a new one. -/
def Flash.dirNow (f : Flash) : BootDir := (f.dir.map Prod.snd).getD {}

/-- Write the directory: the other copy, with the generation increased by 1 (R482). -/
def Flash.writeDir (f : Flash) (d : BootDir) : Flash :=
  let d := { d with gen := f.dirNow.gen + 1 }
  match f.dir with
  | some (0, _) => { f with dir1 := some d }
  | _ => { f with dir0 := some d }

/-- Version field of an image's header (R481). -/
def Image.version (i : Image) : Nat := leN (memReadN i.bytes 8 4)

/-- Security version of an image's header (R481). -/
def Image.secver (i : Image) : Nat := leN (memReadN i.bytes 0x0C 2)

/-- Bytes of an image area: 7.5 MB (R480). -/
def imageMax : Nat := 7864320

/-- The checks of R481 on an image's header: magic, format, key and security version. -/
def State.headerVerifies (s : State) (i : Image) : Bool :=
  let key := leN (memReadN i.bytes 6 2)
  decide (leN (memReadN i.bytes 0 4) = 0x46574741 ∧ leN (memReadN i.bytes 4 2) = 1 ∧ key < 4 ∧
    128 + leN (memReadN i.bytes 0x10 4) ≤ imageMax ∧ s.otp.rollback ≤ i.secver) && !s.otp.revoked.getLsbD key

/-! ### UPDATE commands (R482 to R484, R534) -/

/-- UPDATE commands are DENIED in RETIRED (R485). -/
def updateAllowed (s : State) (k : Reply) : Reply := notRetired s k

/-- Replace the update's record. -/
def State.setUpd (s : State) (u : Update) : State := { s with mgmt := { s.mgmt with upd := u } }

/-- Replace an image. -/
def State.setImg (s : State) (k : Nat) (i : Image) : State := { s with flash := s.flash.setImg k i }

/-- 0x0E01 begin: the image's sectors are erased (R483). -/
def execUpdateBegin (dt : Nat) (who : Sess) (s : State) : Next :=
  let s := s.pass dt
  .next (s.runCmd who 0x0E01 (fun c =>
    let k := u8 c.pay 0
    let n := u32 c.pay 4
    plain s c 8 (need s (decide (k ≤ 1 ∧ fld c.pay 1 3 = 0 ∧ 128 ≤ n ∧ n ≤ imageMax)) St.badParam (updateAllowed s (hasQueue s who (
      need s (!(s.flash.img k).running) St.denied (need s (s.mgmt.upd.state != 1) St.busy (
        .pend k ((s.setUpd { state := 1, img := k, len := n, who := some who, erasing := true }).setImg k { bytes := [], len := n, verified := 2 })))))))))

/-- The erase of an update ends (R483): the image is empty. -/
def execUpdateEraseDone (dt : Nat) (who : Sess) (seq : BitVec 32) (s : State) : Next :=
  let s := s.pass dt
  .next (s.finish who seq [0x0E01] (fun p =>
    let k := s.mgmt.upd.img
    ((s.setUpd { s.mgmt.upd with erasing := false }).setImg k { s.flash.img k with verified := 0 }).complete p St.ok 0 idStoker))

/-- Data placed in the image of the open update. -/
def State.placeImage (s : State) (off : Nat) (b : Bytes) : State :=
  let k := s.mgmt.upd.img
  let i := s.flash.img k
  s.setImg k { i with bytes := memWriteN i.bytes off b, verified := 2 }

/-- 0x0E02 write: up to 224 inline bytes, or a DMA in (R483). -/
def execUpdateWrite (dt : Nat) (who : Sess) (s : State) : Next :=
  let s := s.pass dt
  .next (s.runCmd who 0x0E02 (fun c =>
    let u := s.mgmt.upd
    if c.dma then dmaForm s c 16 (fun l a =>
      need s (decide (fld a 4 12 = 0 ∧ u.state = 1 ∧ ((chainOf l).isNone → u32 a 0 + total l ≤ u.len))) St.badParam (updateAllowed s (
        vet s (hasQueue s who (.pend u.img s)))))
    else
      let n := u16 c.pay 4
      plain s c (8 + n) (need s (decide (1 ≤ n ∧ n ≤ 224 ∧ u16 c.pay 6 = 0 ∧ u.state = 1 ∧ u32 c.pay 0 + n ≤ u.len)) St.badParam (
        updateAllowed s (.done St.ok [] (s.placeImage (u32 c.pay 0) (slice c.pay 8 n)))))))

/-- The DMA data of an UPDATE write is in flash (R483). -/
def execUpdateWriteComplete (dt : Nat) (who : Sess) (seq : BitVec 32) (chain : List Bytes) (data : Bytes) (s : State) : Next :=
  let s := s.pass dt
  .next (s.finish who seq [0x0E02] (fun p =>
    let off := u32 p.cmd.arg 0
    match p.dataIn chain data with
    | none => s.complete p St.badParam 0 idHob
    | some b =>
      if s.mgmt.upd.state ≠ 1 ∨ s.mgmt.upd.len < off + b.length then s.complete p St.badParam 0 idStoker
      else (s.placeImage off b).complete p St.ok b.length idStoker))

/-- 0x0E03 commit (R483). -/
def execUpdateCommit (dt : Nat) (who : Sess) (s : State) : Next :=
  let s := s.pass dt
  .next (s.runCmd who 0x0E03 (fun c => plain s c 0 (updateAllowed s (hasQueue s who (
    need s (s.mgmt.upd.state == 1) St.state (.pend s.mgmt.upd.img s))))))

/-- The check of a committed image ends (R481, R483): `sigOk` and `hashOk` are what the cryptographic checks give. -/
def execUpdateVerifyDone (dt : Nat) (who : Sess) (seq : BitVec 32) (sigOk hashOk : Bool) (s : State) : Next :=
  let s := s.pass dt
  .next (s.finish who seq [0x0E03] (fun p =>
    let k := s.mgmt.upd.img
    let i := s.flash.img k
    if s.headerVerifies i && sigOk && hashOk then
      ((s.setUpd { s.mgmt.upd with state := 2, who := none }).setImg k { i with verified := 1 }).complete p St.ok
        (i.version + i.secver * 2 ^ 32) idStoker
    else
      (((s.setUpd { s.mgmt.upd with state := 3, who := none }).setImg k { i with verified := 2 }).hit F.updateVerify 0 idStoker 1).complete p
        St.denied 0 idStoker))

/-- 0x0E04 activate: the directory prefers a VERIFIED image, or the other when it verifies now, in TRIAL with 3 tries (R483); `now` is
whether its signature and body hash hold now. -/
def execUpdateActivate (dt : Nat) (who : Sess) (s : State) (now : Bool := false) : Next :=
  let s := s.pass dt
  .next (s.runCmd who 0x0E04 (fun c =>
    let k := u8 c.pay 0
    let i := s.flash.img k
    plain s c 4 (need s (decide (k ≤ 1 ∧ fld c.pay 1 3 = 0)) St.badParam (updateAllowed s (
      need s (!i.running && (i.verified == 1 || now) && s.headerVerifies i) St.state (
        .done St.ok [] { s with flash := s.flash.writeDir { s.flash.dirNow with preferred := k, mode := 1, tries := 3 } }))))))

/-- 0x0E05 confirm (R484): the directory as CONFIRMED, then the counter up to the running image's secver. -/
def execUpdateConfirm (dt : Nat) (who : Sess) (s : State) : Next :=
  let s := s.pass dt
  .next (s.runCmd who 0x0E05 (fun c => plain s c 0 (updateAllowed s (
    match s.running with
    | none => refuse s St.state
    | some (k, i) =>
      let d := s.flash.dirNow
      let trial := d.mode == 1 && d.preferred == k
      if !trial ∧ i.secver ≤ s.otp.rollback then refuse s St.state else
      let s := if trial then { s with flash := s.flash.writeDir { d with mode := 0 } } else s
      let n := max s.otp.rollback i.secver
      .done St.ok (leB 1 n ++ leB 3 0) { s with otp := { s.otp with rollback := n } }))))

/-- 0x0E06 abort: an open update ends and leaves its image FAILED (R483). -/
def execUpdateAbort (dt : Nat) (who : Sess) (s : State) : Next :=
  let s := s.pass dt
  .next (s.runCmd who 0x0E06 (fun c => plain s c 0 (updateAllowed s (
    .done St.ok [] (if s.mgmt.upd.state = 1 then s.abandonUpdate else s)))))

/-- 0x0E07 status (R482, R534). -/
def execUpdateStatus (dt : Nat) (who : Sess) (s : State) : Next :=
  let s := s.pass dt
  .next (s.runCmd who 0x0E07 (fun c => plain s c 0 (updateAllowed s (
    let d := s.flash.dirNow
    let img (i : Image) : Bytes := leB 4 i.version ++ leB 2 i.secver ++ leB 1 i.verified ++ leB 1 0
    .done St.ok (leB 4 d.gen ++ leB 1 d.preferred ++ leB 1 d.mode ++ leB 1 d.tries ++ leB 1 (b2n d.fallback) ++ (leB 4 d.ip.toNat).reverse ++
      leB 1 s.otp.rollback ++ leB 1 ((s.running.map Prod.fst).getD 0) ++ leB 1 s.mgmt.upd.state ++ leB 1 0 ++ img s.flash.imgA ++ img s.flash.imgB) s))))

/-! ### The wipe and the unlock (R439, R487, R488) -/

/-- The secure scratchpad is wiped; a cause during a wipe starts no second one (R439). -/
def State.wipe (s : State) : State :=
  if s.chip.wiping then s else { s with chip := { s.chip with secure := [], wiping := true } }

/-- The wipe completes (R439). -/
def execSecureWipeDone (dt : Nat) (s : State) : Next :=
  let s := s.pass dt
  .next { s with chip := { s.chip with wiping := false } }

/-- An unlock ends: with an opening every SL_SEL is set to 0x0000 (R488); its end by lock or expiry is an UNLOCK log entry (R536). -/
def State.endUnlock (s : State) (master : Option Nat) : State :=
  if s.sec.scope = 0 then s else
  let s := if s.sec.scope % 2 = 1 then { s with host := { s.host with slSel := [] } } else s
  let s := { s with sec := { s.sec with scope := 0 } }
  match master with
  | some m => s.log 6 m 0xFFFF none none none
  | none => s

/-- An unlock's expiry passes (R488). -/
def execUnlockExpiry (dt : Nat) (s : State) : Next :=
  let s := s.pass dt
  if s.sec.expiry ≤ s.devSec then .next (s.endUnlock (some idFender)) else .next s

/-! ### SECURE commands (R498, R534) -/

/-- 0x0F01 status. -/
def execSecureStatus (dt : Nat) (who : Sess) (s : State) : Next :=
  let s := s.pass dt
  .next (s.runCmd who 0x0F01 (fun c => plain s c 0 (vet s (
    .done St.ok (leB 1 s.otp.lc ++ leB 1 (b2n s.vbat.tampered) ++ leB 1 s.vbat.tInput ++ leB 1 s.sec.scope ++ leB 6 s.vbat.tSec ++
      leB 2 (maskOf (s.flash.keys.map Prod.fst)) ++ leB 6 s.sec.expiry ++ leB 2 0) s))))

/-- Life of a nonce: 60 s (R487). -/
def nonceLife : Nat := 60 * perSecond

/-- 0x0F02 challenge: a fresh nonce replaces the earlier one (R487, R497). -/
def execSecureChallenge (dt : Nat) (who : Sess) (s : State) : Next :=
  let s := s.pass dt
  .next (s.runCmd who 0x0F02 (fun c => plain s c 0 (vet s (
    .done St.ok (leB 16 (Config.nonce s.free).toNat)
      { s.fresh with sec := { s.sec with nonce := some (Config.nonce s.free, s.now + nonceLife) } }))))

/-- The nonce of a token is the one in force (R487). -/
def State.nonceOk (s : State) (b : Bytes) : Bool :=
  match s.sec.nonce with
  | some (n, ends) => decide (fld b 8 16 = n.toNat ∧ s.now < ends)
  | none => false

/-- 0x0F03 unlock (R487, R488); `sigOk` is whether the token's signature verifies under its key. A token is never accepted in RETIRED. -/
def execSecureUnlock (dt : Nat) (who : Sess) (sigOk : Bool) (s : State) : Next :=
  let s := s.pass dt
  .next (s.runCmd who 0x0F03 (fun c =>
    let b := c.pay
    let scope := u8 b 0x1E
    let key := u8 b 0x1F
    plain s c 96 (need s (decide (scope < 32)) St.badParam (vet s (
      let good := decide (u32 b 0 = s.otp.serial.toNat / 2 ^ 32 ∧ u32 b 4 = s.otp.serial.toNat % 2 ^ 32 ∧ s.devSec < fld b 0x18 6 ∧ key < 4) &&
        s.nonceOk b && !s.otp.revoked.getLsbD key && sigOk && s.otp.lc != 4
      -- a nonce is valid for one use
      let s := if s.nonceOk b then { s with sec := { s.sec with nonce := none } } else s
      if good then
        let s := s.endUnlock none
        .done St.ok (leB 1 scope ++ leB 3 0) { s with sec := { s.sec with scope := scope, expiry := fld b 0x18 6 } }
      else .done St.denied [] (s.hit F.unlockFail 0 idFender 0))))))

/-- 0x0F04 lock (R488). -/
def execSecureLock (dt : Nat) (who : Sess) (s : State) : Next :=
  let s := s.pass dt
  .next (s.runCmd who 0x0F04 (fun c => plain s c 0 (vet s (.done St.ok [] (s.endUnlock (some (Sess.initiator who)))))))

/-- A life-cycle step is allowed, with its authority (R486). -/
def State.lifecycleOk (s : State) (target serial : Nat) : Bool :=
  let same := serial == s.otp.serial.toNat % 2 ^ 32
  match s.otp.lc, target with
  | 0, 1 => same
  | 1, 2 => same
  | 2, 3 => bit s.sec.scope 3
  | 4, _ => false
  | _, 4 => same
  | _, _ => false

/-- 0x0F05 lifecycle (R486): wipe, log entry, one fuse; the unlock ends and a step to RETURNED or RETIRED erases the key store. `cut` is a power
failure before the fuse is blown: it is then partly blown (true) or unblown (false). -/
def execSecureLifecycle (dt : Nat) (who : Sess) (cut : Option Bool) (s : State) : Next :=
  let s := s.pass dt
  .next (s.runCmd who 0x0F05 (fun c =>
    let t := u8 c.pay 0
    plain s c 8 (need s (decide (1 ≤ t ∧ t ≤ 4 ∧ fld c.pay 1 3 = 0)) St.badParam (vet s (
      need s (s.lifecycleOk t (u32 c.pay 4)) St.denied (
        let s := (s.wipe.log 4 (Sess.initiator who) 0xFFFF none none none).endUnlock none
        let s := if t = 3 ∨ t = 4 then { s with flash := { s.flash with keys := [] } } else s
        match cut with
        | some part => .done St.ok (leB 1 s.otp.lc ++ leB 3 0) { s with otp := { s.otp with lcPart := part } }
        | none => .done St.ok (leB 1 t ++ leB 3 0) { s with otp := { s.otp with lc := t }, vbat := { s.vbat with lcMirror := t } }))))))

/-- 0x0F06 key install (R485, R493, R494); `tagOk` is whether the wrapped KEK's tag holds, `kek` the KEK. -/
def execSecureKeyInstall (dt : Nat) (who : Sess) (tagOk : Bool) (kek : Bytes) (s : State) : Next :=
  let s := s.pass dt
  .next (s.runCmd who 0x0F06 (fun c =>
    let slot := u8 c.pay 0
    plain s c 64 (need s (decide (slot < 16 ∧ fld c.pay 1 3 = 0)) St.badParam (vet s (need s (!s.encDenied) St.denied (
      if tagOk then .done St.ok [] { s with flash := { s.flash with keys := put s.flash.keys slot (padTo 32 kek) } }
      else .done St.denied [] (s.hit F.keyUnwrap 0 idFender 0)))))))

/-- 0x0F07 tamper clear (R493): the record is logged before it clears. -/
def execSecureTamperClear (dt : Nat) (who : Sess) (s : State) : Next :=
  let s := s.pass dt
  .next (s.runCmd who 0x0F07 (fun c => plain s c 0 (vet s (
    need s (decide (s.otp.lc ≤ 1) || (s.otp.lc == 2 && bit s.sec.scope 4)) St.denied (
      let s := if s.vbat.tampered then s.log 5 (Sess.initiator who) 0xFFFF none none none else s
      .done St.ok [] { s with vbat := { s.vbat with tampered := false, tInput := 0, tSec := 0 } })))))

/-! ### Tamper (R491, R492) -/

/-- A tamper parameter as the VBAT domain holds it (R513). -/
def Vbat.par (v : Vbat) (k : PKey) : Nat := sel v.cfg k.id k.dflt

/-- A tamper input, or 4 the mesh, is enabled. -/
def State.tamperOn (s : State) (i : Nat) : Bool :=
  (if i < 4 then s.vbat.par (P.secureTamperEnable i) else s.vbat.par P.secureMeshEnable) == 1

/-- FENDER runs: from stage 7 of KINDLING on (R439, R492, R515). -/
def State.fenderRuns (s : State) : Bool := s.pwr.kind == 1 || s.pwr.kind == 0 && decide (7 ≤ s.pwr.stage)

/-- Encrypted jobs leave the stage region at a trip (R492); one in staging ends FAULTED (R448, R497). -/
def State.dropEncrypted (s : State) : State :=
  let s := { s with lib := { s.lib with dir := s.lib.dir.map (fun (e : Nat × Job) =>
    if e.2.state = 4 ∧ e.2.encrypted then (e.1, { e.2 with state := 2, staged := [], stageBytes := 0 }) else e) } }
  let stop := s.host.pends.filter (fun p => p.cmd.op == 0x0204 && (s.job p.obj.toNat).encrypted)
  stop.foldl (fun (s : State) p => s.stageFails p p.obj.toNat St.faulted idFender) s

/-- An input has held its tripping level for `filter` samples, or the mesh has differed in `miss` bits, in a row (R491). -/
def State.tamperTrips (s : State) (i : Nat) (level : Bool) (held : Nat) : Bool :=
  if i < 4 then level == (s.vbat.par (P.secureTamperPolarity i) == 1) && decide (s.vbat.par (P.secureTamperFilter i) ≤ held)
  else decide (s.vbat.par P.secureMeshMiss ≤ held)

/-- A tamper input or the mesh trips (R491, R492, R515): the input has held `level` for `held` samples in a row, or the mesh has differed in
`held` bits in a row. -/
def execTamperTrip (dt : Nat) (input : Fin 5) (s : State) (level : Bool := false) (held : Nat := 255) : Next :=
  let s := s.pass dt
  if !s.tamperOn input.val ∨ !s.vbat.valid ∨ !s.tamperTrips input.val level held then .next s else
  let v := { s.vbat with tampered := true, tInput := input.val, tSec := s.vbat.sec }
  if !s.pwr.rails then .next { s with vbat := { v with banked := true } }
  else if !s.fenderRuns then .next { s with vbat := { v with tripKind := true } }
  else
    let s := { s with vbat := v }.wipe.endUnlock none
    let s := (s.hit F.tamper input.val idFender 0).log 5 idFender 0xFFFF none none none
    .next s.dropEncrypted

/-! ### Boundary scan (R490) -/

/-- The IDCODE: version STEPPING[7:4], part 0x2808, the manufacturer code from OTP, 1 (R490). -/
def State.idcode (s : State) : BitVec 32 := BitVec.ofNat 32 (1 * 2 ^ 28 + 0x2808 * 2 ^ 12 + s.otp.mfr.toNat * 2 + 1)

/-- Private instructions act in BLANK and FACTORY, or under scope bit 2 (R490). -/
def State.privateOk (s : State) : Bool := s.lcOpen || bit s.sec.scope 2

/-- An instruction is shifted into the TAP (R490); a private one that is not allowed acts as BYPASS. -/
def execTapInstruction (dt : Nat) (ir : TapInstr) (s : State) : Next :=
  let s := s.pass dt
  let ir := match ir with
    | .priv _ => if s.privateOk then ir else .bypass
    | _ => ir
  let s := { s with sec := { s.sec with tap := ir } }
  .next (if ir = .idcode then s.emit (.idcode s.idcode) else s)

end Sys2Proof.Machine
end

