-- ==== Sys2Proof/Machine/Kindling.lean ====
section
/-!
DEFINITION. Supplies, PORST_N, KINDLING and BANKED standby (R501 to R516), and the loss of TCLK lock (R24).
-/
namespace Sys2Proof.Machine

/-- What the device keeps when PORST_N falls or the rails go down: fuses, flash and the VBAT domain (R502, R515). -/
def State.powerReset (s : State) (rails : Bool) : State :=
  { State.reset with
    pending := s.pending
    clk := { real := s.clk.real }
    pwr := { rails := rails }
    otp := s.otp
    flash := { s.flash with imgA := { s.flash.imgA with running := false }, imgB := { s.flash.imgB with running := false } }
    vbat := s.vbat
    out := s.out
    free := s.free }

/-- The outputs at the levels they hold while PORST_N is low (R502). -/
def State.holdOutputs (s : State) : State :=
  let trigs := (s.time.trig.filter (fun (e : Nat × Trig) => e.2.active)).map (fun (e : Nat × Trig) => Output.trig e.1 false)
  let s := s.emits trigs
  let s := if s.pressHoldN then s else s.emit (.ball "PRESS_HOLD_N" 0)
  if s.dacNow = 0 then s else s.emit (.ball "SPD_DAC_OUT" 0)

/-- PORST_N falls (R502): every output is held and all work in flight is lost. -/
def execPorstNFall (dt : Nat) (s : State) : Next :=
  let s := s.pass dt
  if s.pwr.porst then .next (s.holdOutputs.powerReset s.pwr.rails) else .next s

/-- Groups 2 to 5 go down: BANKED standby (R514). -/
def execPowerRailsDown (dt : Nat) (s : State) : Next :=
  let s := s.pass dt
  if s.pwr.rails then .next (s.holdOutputs.powerReset false) else .next s

/-- Groups 2 to 5 are within their windows (R501, R514). -/
def execPowerRailsUp (dt : Nat) (s : State) : Next :=
  let s := s.pass dt
  .next { s with pwr := { s.pwr with rails := true } }

/-- VBAT falls below its retention level: the domain resets, unless VIO33 runs it (R513). -/
def execVbatRetentionLoss (dt : Nat) (s : State) : Next :=
  let s := s.pass dt
  if s.pwr.rails then .next s else .next { s with vbat := { valid := false } }

/-! ### The stages (R503, R504) -/

/-- Milliseconds since the rise of PORST_N. -/
def State.sinceRise (s : State) : Nat := (s.now - s.pwr.riseAt) / perMs

/-- KINDLING waits for the end of the stage after `n`. -/
def State.atStage (s : State) (n : Nat) : Bool := s.pwr.porst && s.pwr.kind == 0 && s.pwr.stage == n

/-- A stage is complete. -/
def State.stageDone (s : State) (n : Nat) : State :=
  { s with pwr := { s.pwr with stage := n, stageMs := put s.pwr.stageMs n s.sinceRise } }

/-- KINDLING stops (R503, R504): Retry Status ends. -/
def State.kindlingStop (s : State) (err kind : Nat) : State :=
  { s with pwr := { s.pwr with err := err, kind := kind, crs := false } }

/-- PORST_N rises (R503): stage 3 ends with the TCLK PLL locked `lock` periods of 1.6 ns later, within 2 ms; T32 and Device Time start (R324). -/
def execPorstNRise (dt : Nat) (lock : Option Nat) (s : State) : Next :=
  let s := s.pass dt
  if s.pwr.porst ∨ !s.pwr.rails then .next s else
  let s := { s with pwr := { s.pwr with porst := true, riseAt := s.now } }
  match lock with
  | some t =>
    if 2 * perMs < t then .next ((s.pass (2 * perMs)).kindlingStop 0x20 3) else
    let s := s.pass t
    let s := { s with clk := { s.clk with run := true, tclk := 0, t32u := 0, devu := s.vbat.sec * 1000000000 * nsUnit, rho := 0 },
                      faults := { s.faults with on := true } }
    .next (s.stageDone 3)
  | none => .next ((s.pass (2 * perMs)).kindlingStop 0x20 3)

/-- The directory as the boot ROM leaves it, whether it writes it, and whether it newly sets the fallback flag (R482). -/
def bootDir (d : BootDir) : BootDir × Bool × Bool :=
  if d.mode = 1 ∧ d.tries = 0 then ({ d with preferred := 1 - d.preferred, mode := 0, fallback := true }, true, true)
  else if d.mode = 1 then ({ d with tries := d.tries - 1 }, true, false)
  else (d, false, false)

/-- Whether an image verifies, as UPDATE status reports it (R481, R534). -/
def State.imageState (s : State) (i : Image) (sig : Bool) : Nat :=
  if i.bytes.isEmpty then 0 else if s.headerVerifies i && sig then 1 else 2

/-- Stage 4 (R482, R506): `sigA`, `sigB` are whether each image's signature and body hash verify. -/
def execKindlingStage4Done (dt : Nat) (flashOk sigA sigB : Bool) (s : State) : Next :=
  let s := s.pass dt
  if !s.atStage 3 then .next s
  else if !flashOk then .next (s.kindlingStop 0x41 3)
  else
    let (d, write, fb) := bootDir s.flash.dirNow
    let f := if write then s.flash.writeDir d else s.flash
    let a := s.imageState f.imgA sigA
    let b := s.imageState f.imgB sigB
    let boot : Option Nat := if (if d.preferred = 0 then a else b) = 1 then some d.preferred
      else if (if d.preferred = 0 then b else a) = 1 then some (1 - d.preferred) else none
    let s := { s with flash := { f with imgA := { f.imgA with verified := a, running := boot == some 0 },
                                        imgB := { f.imgB with verified := b, running := boot == some 1 } },
                      pwr := { s.pwr with fbNew := fb } }
    match boot with
    | none => .next (s.kindlingStop 0x40 2)
    | some _ => .next ({ s with params := { s.params with acc := d.saved, reset := d.saved } }.stageDone 4)

/-- The trim record lets KINDLING go on (R507). -/
def State.trimOk (s : State) : Bool :=
  match s.otp.trim with
  | none => s.otp.lc == 0
  | some t => t.crcOk

/-- The transactions that set the core voltage at KINDLING: VOUT_MODE read, VOUT_COMMAND written with `start_mv`, READ_VOUT read (R476, R505). -/
def vcoreStart (mv : Nat) : List (Nat × Option Nat) := [(0x20, none), (0x21, some mv), (0x8B, none)]

/-- Stage 5 (R505, R507, R508): `pmb` is what the PMBus sequence gives, `mon0` monitor 0 in mV, `railsOk` whether every other rail is in its window. -/
def execKindlingStage5Done (dt : Nat) (pmb : PmbFate) (mon0 : Nat) (railsOk : Bool) (s : State) : Next :=
  let s := s.pass dt
  if !s.atStage 4 then .next s
  else if !s.trimOk then .next (s.kindlingStop 0x30 3)
  else
    let start := s.parReset P.manageVcoreStartMv
    let good : Bool := match pmb with
      | .nack => false
      | .readback mv => decide (mv ≤ start + 10 ∧ start ≤ mv + 10)
    let read : Nat := match pmb with | .nack => start | .readback mv => mv
    let s := { s with draught := { s.draught with setMv := start, nowMv := max 680 (min 860 read) }, mgmt := { s.mgmt with vcoreAt := s.now } }.vcoreBus (vcoreStart start)
    if !good ∧ !decide (720 ≤ mon0 ∧ mon0 ≤ 860) then .next (s.kindlingStop 0x50 3)
    else if !railsOk then .next (s.kindlingStop 0x10 3)
    else .next ({ s with pwr := { s.pwr with pmbFail := !good, crs := false, term := (s.otp.trim.map TrimRec.term).getD [] } }.stageDone 5)

/-- The longest run of passing steps (R404), the first of two as long: its first step and its width; `n` steps before step `i` have passed in
a row. -/
def eyeScan (l : List Bool) (i n : Nat) (best : Nat × Nat) : Nat × Nat :=
  match l with
  | [] => best
  | true :: t => eyeScan t (i + 1) (n + 1) (if best.2 < n + 1 then (i - n, n + 1) else best)
  | false :: t => eyeScan t (i + 1) 0 best

/-- The eye of a sweep: its first step and its width (R404). -/
def eyeOf (l : List Bool) : Nat × Nat := eyeScan l 0 0 (0, 0)

/-- The delay chosen for an eye: (first + last) div 2 (R404). -/
def eyeDelay (e : Nat × Nat) : Nat := (2 * e.1 + e.2 - 1) / 2

/-- The result of a lane (R404). -/
def Sweep.res (w : Sweep) : TrainRes :=
  { rd := eyeDelay (eyeOf w.read), re := (eyeOf w.read).2, wd := eyeDelay (eyeOf w.write), we := (eyeOf w.write).2, vref := w.vref }

/-- The training results of a channel pass, or the channel fails (R402, R405). -/
def State.trainsOk (s : State) (r : TrainFate) : Bool :=
  match r with
  | .failed => false
  | .trained l =>
    let m := s.parReset P.memoryDdrMinEyeSteps
    l.length == 9 * s.parReset P.memoryDdrRanks && (l.map Sweep.res).all (fun t => decide (m ≤ t.re ∧ m ≤ t.we))

/-- The outcome of one channel's training (R404 to R406). -/
def State.trainChannel (s : State) (c : Nat) (r : TrainFate) : State :=
  if s.parReset (P.memoryChEnable c) = 0 then s
  else if !s.trainsOk r then (s.setChan c { s.chan c with state := 3 }).fault F.ddrTrainFail c
  else
    let l : List TrainRes := match r with | .failed => [] | .trained l => l.map Sweep.res
    let s := s.setChan c { s.chan c with state := 2 }
    let m := (List.range l.length).foldl (fun (m : SMap TrainRes) i => match l[i]? with | some t => put m (18 * c + i) t | none => m) s.ddr.train
    let s := { s with ddr := { s.ddr with train := m } }
    let e := 2 * s.parReset P.memoryDdrMinEyeSteps
    if l.any (fun t => decide (t.re < e ∨ t.we < e)) then s.fault F.ddrTrainMargin c else s

/-- Stage 6 (R403 to R407): the channels in increasing number; KINDLING stops when none trained. -/
def execKindlingStage6Done (dt : Nat) (trained : List TrainFate) (s : State) : Next :=
  let s := s.pass dt
  if !s.atStage 5 then .next s else
  let s := (List.range 3).foldl (fun (s : State) c => s.trainChannel c ((trained[c]?).getD .failed)) s
  if s.trainedList.isEmpty then .next (s.kindlingStop 0x60 3)
  else .next ({ s with ddr := { s.ddr with initDone := false, caseAt := s.now } }.stageDone 6)

/-- The library and stage regions, scaled when the trained DDR4 is too small for them (R112). -/
def State.sizeRegions (s : State) : State :=
  let lib := s.parReset P.hostJobLibraryMb
  let stg := s.parReset P.hostJobStageMb
  let room := s.dramGb * 1024 - 2048
  if lib + stg ≤ room then { s with lib := { s.lib with libMb := lib, stgMb := stg } }
  else ({ s with lib := { s.lib with libMb := lib * room / (lib + stg), stgMb := stg * room / (lib + stg) } }).fault F.regionScaled (s.dramGb * 1024)

/-- A partly blown life-cycle fuse is blown before FENDER is released (R486). -/
def Otp.finish (o : Otp) : Otp := if o.lcPart then { o with lc := min 4 (o.lc + 1), lcPart := false } else o

/-- FENDER compares the fuses with the mirror and looks at the VBAT domain (R485, R492). -/
def State.checkVbat (s : State) : State :=
  let v := s.vbat
  let s := { s with otp := s.otp.finish }
  let s := if v.valid then s else
    ({ s with vbat := { v with valid := true, tampered := true } }).hit F.vbatLost 0 idFender 0
  let s := if s.vbat.lcMirror = s.otp.lc then s else
    ({ s with vbat := { s.vbat with lcMirror := s.otp.lc } }).hit F.lcMismatch 0 idFender 0
  let s := if v.banked then s.hit F.tamperRecorded 0 idFender 0 else s
  let s := if v.tripKind then (s.hit F.tamper v.tInput idFender 0).log 5 idFender 0xFFFF none none none else s
  { s with vbat := { s.vbat with banked := false, tripKind := false } }

/-- Stage 7 (R432, R439, R479, R485, R505, R511): `testOk` is FENDER's self-test and wipe; `ember` the EMBER words found wrong (Ledger index, double). -/
def execKindlingStage7Done (dt : Nat) (testOk : Bool) (ember : List (Nat × Bool)) (s : State) : Next :=
  let s := s.pass dt
  if !s.atStage 6 then .next s
  else if !testOk then .next (s.kindlingStop 0x70 3)
  else
    let next : BitVec 32 := match s.flash.log with | e :: _ => e.seq + 1 | [] => 0
    -- entries queued before the pointer was found take their sequences from it
    let log := s.mgmt.log.map (fun (e : LogEntry) => { e with seq := next + e.seq })
    let s := { s with chip := { s.chip with scratch := [], secure := [] }, mgmt := { s.mgmt with log := log, nextSeq := next + s.mgmt.nextSeq },
                      pwr := { s.pwr with secs7 := s.vbat.sec } }
    let s := s.sizeRegions.checkVbat
    let s := if s.pwr.fbNew then s.fault F.updateFallback 0 else s
    let s := if s.pwr.pmbFail then ({ s with draught := { s.draught with stopped := true } }).fault F.vcorePmbus 0 else s
    let s := ember.foldl (fun (s : State) e => s.emberError (e.1 % 819200) (if e.2 then 2 else 1)) s
    .next (s.stageDone 7)

/-- Stage 8 (R510): the termination each lane found; every lane is OFF. -/
def execKindlingStage8Done (dt : Nat) (present : BitVec 36) (s : State) : Next :=
  let s := s.pass dt
  if !s.atStage 7 then .next s else
  .next ({ s with pwr := { s.pwr with present := (unmask 36 present.toNat).map (fun l => (l, true)) } }.stageDone 8)

/-- READY (R509, R511, R512): the host window opens, the KINDLING entry is logged, the DAC begins its slew. -/
def execEnterReady (dt : Nat) (s : State) : Next :=
  let s := s.pass dt
  if !s.atStage 8 ∨ s.pwr.trimSteps < trimStepCount then .next s else
  let ms := s.sinceRise
  let s := { s with pwr := { s.pwr with kind := 1, readyAt := s.now, readyMs := ms, trimState := if s.otp.trim.isNone then 2 else 1 },
                    motion := { s.motion with slewAt := some s.now } }
  let s := s.log 2 idStoker 0xFFFF (some (BitVec.ofNat 32 s.pwr.secs7)) none (some (BitVec.ofNat 32 (ms % 65536 + s.pwr.err * 65536)))
  .next s.refresh

/-! ### TCLK lock (R24) -/

/-- The TCLK PLL loses lock: lines go out as no-fire until the host clears TCLK_UNLOCK. -/
def execTclkUnlock (dt : Nat) (s : State) : Next :=
  let s := s.pass dt
  if s.clk.run then .next { s with clk := { s.clk with run := false }, fire := { s.fire with unlock := true } } else .next s

/-- Lock returns: the fault collector records TCLK_UNLOCK. -/
def execTclkLockReturn (dt : Nat) (s : State) : Next :=
  let s := s.pass dt
  if s.clk.run ∨ !s.pwr.porst ∨ s.pwr.stage < 3 then .next s
  else .next (({ s with clk := { s.clk with run := true } }).fault F.tclkUnlock 0)

end Sys2Proof.Machine
end

