-- ==== Sys2Proof/Machine/ParamRead.lean ====
section
/-!
DEFINITION. What a read of each parameter returns (R541): the accepted value of one the host may write, and the observation that
a read-only one reports.
-/
namespace Sys2Proof.Machine

/-! ### The parts of an ID (R537) -/

/-- DOMAIN and BLOCK of an ID. -/
def pBlock (id : Nat) : Nat := id / 2 ^ 20

/-- INSTANCE of an ID. -/
def pInst (id : Nat) : Nat := id / 256 % 4096

/-- FIELD of an ID. -/
def pField (id : Nat) : Nat := id % 256

/-- Every defined ID of a row of a parameter table. -/
def PRow.ids (r : PRow) : List Nat := (List.range r.insts).flatMap (fun i => (List.range r.fields).map (fun j => r.base + 256 * i + j))

/-- A signed observation on the wire (R539). -/
def wide (x : Int) : Nat := unsigned 32 x

/-! ### Observations by domain -/

/-- The least value of the legacy limit's terms: `link.legacy.max_lps` for a divider and a strobe in TCLK (R288). -/
def legacyLimit (div strobe : Nat) : Nat := min 30000 (625000000 / max (2560 * div + 155) (strobe + 170))

/-- Bytes a stream's frame takes at most, header included, under a reading of the parameters (R365). -/
def gStreamBytes (g : Geo) (c t : Nat) : Nat :=
  let i := 4 * c + t
  streamSize (g (P.inspectCtxStreamW i)) (g (P.inspectCtxStreamH i)) (g (P.inspectCtxStreamScale i))
    (g (P.inspectCtxStreamPlanes i)) (g (P.inspectCtxStreamFormat i))

/-- Bytes that the MEASURE streams of a LOUPE's contexts reserve (R437). -/
def gReserved (g : Geo) (p : Nat) : Nat :=
  (((List.range 16).filter (fun c => g (P.inspectCtxStreamEnable (4 * c)) == 1 && g (P.inspectCtxPipe c) == p)).map
    (fun c => 2 * ((gStreamBytes g c 0 + 4095) / 4096 * 4096))).sum

/-- HOST and RASTER. -/
def State.obsRaster (s : State) (blk i f : Nat) : Nat :=
  match blk, f with
  | 0x103, 3 => s.lib.libMb
  | 0x103, 4 => s.lib.stgMb
  | 0x201, 2 => (s.ring i).fill
  | 0x204, 2 =>
    let b := i / 40
    match s.barRun b s.pos with
    | some r => if (s.job r.job).state = 6 ∧ (s.job r.job).barsOn.getLsbD b then gGroup r.g b (i % 40 / 2) (i % 2) r.pitch else 0
    | none => 0
  | 0x206, 2 => s.demand
  | 0x206, 3 => s.fetchLimit
  | 0x207, 2 => (s.grate i).uncov
  | 0x207, 3 => (s.grate i).corr
  | 0x207, 4 => 65536 * (s.grate i).bank1.tag + (s.grate i).bank0.tag
  | 0x209, 1 => s.ledger.corr
  | 0x209, 2 => s.ledger.fallb
  | 0x209, 3 => s.ledger.lastFb.toNat
  | _, _ => 0

/-- FIRE. -/
def State.obsFire (s : State) (blk i f : Nat) : Nat :=
  match blk, f with
  | 0x305, 2 => s.minGap
  | 0x312, 3 => sel s.ember.corr i 0
  | 0x313, 6 => s.fire.fallbacks
  | 0x313, 7 => s.fire.modeNow
  | 0x316, 5 => match (s.head i).temp with | some t => wide t | none => wide (-32768)
  | 0x316, 6 => s.muteBits i
  | 0x318, 6 => s.fb.failovers
  | 0x318, 7 => s.fb.lostLines
  | 0x318, 8 => s.fb.lost0
  | 0x318, 9 => s.fb.lost1
  | 0x318, 0x0A => s.fb.lostN
  | 0x318, 0x0B => s.fb.mism
  | 0x318, 0x0C => s.fb.clean
  | 0x319, 1 => s.fb.st i
  | _, _ => 0

/-- LINK. -/
def State.obsLink (s : State) (blk i f : Nat) : Nat :=
  match blk, f with
  | 0x401, 5 => (s.lane i).state
  | 0x401, 6 => (s.lane i).slots
  | 0x401, 7 => (s.lane i).hdrErr
  | 0x401, 8 => (s.lane i).relocks
  | 0x401, 9 => s.laneLps i
  | 0x401, 0x0A => b2n (s.servedBy i).isSome
  | 0x401, 0x0B => b2n (sel s.pwr.present i false)
  | 0x402, 3 => s.spareState i
  | 0x402, 4 => match (s.spare i).serving with | some l => l % 8 | none => 0xFF
  | 0x403, 7 => s.maxLaneLps s.par
  | 0x404, 1 => (s.slotLink i).valid
  | 0x404, 2 => (s.slotLink i).frameErr
  | 0x404, 3 => (s.slotLink i).fireMiss
  | 0x404, 4 => (s.slotLink i).flags.toNat
  | 0x405, 1 => (s.lane i).delay
  | 0x405, 2 => (s.lane i).unsent
  | 0x405, 3 => (s.lane i).upBad
  | 0x408, 3 => legacyLimit (s.parReset P.linkLegacySckDiv) (s.parLine P.linkLegacyStrobeTclk)
  | _, _ => 0

/-- MOTION and TIME. -/
def State.obsMotion (s : State) (blk i f : Nat) : Nat :=
  match blk, f with
  | 0x501, 9 => wide (s.enc i).dev
  | 0x501, 0x0A => (s.enc i).count.toNat
  | 0x501, 0x0B => s.encState i
  | 0x502, 6 => s.pos
  | 0x503, 3 => s.lps
  | 0x503, 4 => s.edgeHz
  | 0x503, 5 => b2n s.motion.vValid
  | 0x504, 6 => s.draughtLps
  | 0x504, 0x12 => s.hopperLps
  | 0x504, 0x13 => s.headLps
  | 0x504, 0x21 => s.ceiling
  | 0x505, 0x0B => s.markState i
  | 0x505, 0x0C => wide (s.mark i).err
  | 0x505, 0x0D => (s.mark i).spur
  | 0x601, 1 => wide s.clk.rho
  | 0x601, 3 => s.time.steps
  | 0x601, 4 => b2n s.time.credit
  | 0x602, 0x0A => s.time.servo
  | 0x602, 0x0B => wide s.time.offset
  | 0x602, 0x0C => s.time.delay
  | 0x604, 7 => (s.trig i).pulses
  | _, _ => 0

/-- INSPECT and LOOP; `mpix_s` is the mean over the last second. -/
def State.obsInspect (s : State) (blk i f : Nat) : Nat :=
  match blk, f with
  | 0x701, 4 => (s.port i).corr
  | 0x701, 5 => (s.port i).hdr
  | 0x701, 6 => (s.port i).crc
  | 0x701, 7 => (s.port i).phy
  | 0x701, 8 => (s.port i).disc
  | 0x702, 0x30 => (s.ctx i).frames
  | 0x702, 0x31 => (s.ctx i).short
  | 0x702, 0x32 => (s.ctx i).long
  | 0x702, 0x33 => (s.ctx i).dropped
  | 0x702, 0x34 => (s.ctx i).lost
  | 0x702, 0x35 => (s.ctx i).overrun
  | 0x702, 0x36 => (s.ctx i).skipped
  | 0x704, 1 => ((s.cam.pix.filter (fun e => e.1 == i && decide (s.now < e.2.1 + perSecond))).map (fun e => e.2.2)).sum / 1000000
  | 0x801, 3 => s.countZones i Zone.unmeas
  | 0x801, 4 => s.countZones i Zone.stale
  | _, _ => 0

/-- MEMORY. -/
def State.obsMemory (s : State) (blk i f : Nat) : Nat :=
  let t : TrainRes := sel s.ddr.train i {}
  match blk, f with
  | 0x901, 0x0B => s.dramGb
  | 0x901, 0x0C => b2n s.ddr.initDone
  | 0x902, 2 => (s.chan i).state
  | 0x902, 3 => (s.chan i).corr
  | 0x902, 4 => (s.chan i).reread
  | 0x902, 5 => (s.chan i).pois
  | 0x902, 6 => (s.chan i).ca
  | 0x902, 7 => (s.chan i).crc
  | 0x902, 8 => b2n (s.chan i).x2
  | 0x902, 9 => (s.chan i).postponed
  | 0x902, 0x0A => wide (s.ddr.caseC.getD 0)
  | 0x903, 2 => sel s.ddr.late i 0
  | 0x904, 1 => t.rd
  | 0x904, 2 => t.re
  | 0x904, 3 => t.wd
  | 0x904, 4 => t.we
  | 0x904, 5 => t.vref
  | 0x905, 1 => s.chip.corr
  | 0x905, 2 => gReserved s.parFrame i / 1024
  | 0x906, 1 => s.chip.jobs
  | 0x906, 2 => s.chip.noshr
  | 0x906, 3 => s.chip.strErr
  | 0x906, 4 => s.chip.comp.length + s.chip.decomp.length
  | 0x907, 1 => b2n (s.scanEngine i).who.isSome
  | _, _ => 0

/-- MANAGE. -/
def State.obsManage (s : State) (blk i f : Nat) : Nat :=
  match blk, f with
  | 0xA03, 6 => s.draught.worst
  | 0xA03, 0x14 => s.draught.nowMv
  | 0xA05, 2 => (s.src i).hits
  | 0xA05, 3 => b2n (isLevel i) + 2 * addrKind i
  | 0xA07, 0x10 => wide s.tjMax
  | 0xA07, 1 => wide (sel s.mgmt.tj i 0)
  | 0xA08, 1 => sel s.mgmt.mv i 0
  | 0xA09, 3 => wide (s.board i).value
  | 0xA09, 4 => b2n (s.boardStale i)
  | 0xA0A, 3 => s.mgmt.iout
  | 0xA0A, 4 => wide s.mgmt.vtemp
  | 0xA0C, 1 => s.otp.rollback
  | 0xA0D, 2 => s.pwr.trimState
  | 0xA0D, 3 => s.pwr.readyMs
  | 0xA0D, g => sel s.pwr.stageMs (g - 0x10) 0
  | _, _ => 0

/-- What a read-only parameter reports. -/
def State.observe (s : State) (id : Nat) : Nat :=
  let b := pBlock id
  let i := pInst id
  let f := pField id
  match id / 2 ^ 28 with
  | 1 => s.obsRaster b i f
  | 2 => s.obsRaster b i f
  | 3 => s.obsFire b i f
  | 4 => s.obsLink b i f
  | 5 => s.obsMotion b i f
  | 6 => s.obsMotion b i f
  | 7 => s.obsInspect b i f
  | 8 => s.obsInspect b i f
  | 9 => s.obsMemory b i f
  | 10 => s.obsManage b i f
  | _ => 0

/-- A DRAUGHT monitor's `min_ratio`, which a write only restarts (R39). -/
def isMinRatio (id : Nat) : Bool := pBlock id == 0xA03 && pField id == 0x20

/-- A latency target that R411 fixes: read-only for ports 0 to 7 (R429). -/
def isFixedTarget (id : Nat) : Bool := pBlock id == 0x903 && pField id == 1 && decide (pInst id < 8)

/-- The value that a read of a defined parameter returns (R541). -/
def State.paramRead (s : State) (id : Nat) : Nat :=
  if isMinRatio id then sel s.draught.minR (pInst id) 0xFFFF
  else if isFixedTarget id then s.portTarget (pInst id)
  else match pRow? id with
    | some r => if r.cls = .ro then s.observe id else sel s.params.acc id (pDefault id)
    | none => 0

end Sys2Proof.Machine
end

