-- ==== Sys2Proof/Machine/ParamCommands.lean ====
section
/-!
DEFINITION. PARAM commands (R528, R537 to R546): the checks of a write, the take-effect classes of its members and bulk
transfers.
-/
namespace Sys2Proof.Machine

/-! ### The value of one member (R539) -/

/-- Parameters whose range has 0xFF for none. -/
def hasNone (id : Nat) : Bool := [(0x502, 2), (0x702, 9), (0x407, 4), (0x901, 9), (0xA0A, 2)].contains (pBlock id, pField id)

/-- What a parameter's range says beyond two bounds. -/
def rangeOk (id v : Nat) : Bool :=
  match pBlock id, pField id with
  | 0x408, 1 => [5, 10, 20].contains v
  | 0x502, 3 => [600, 900, 1200].contains v
  | 0x503, 1 => [16, 32, 64, 128, 256, 512, 1024].contains v
  | 0x506, 4 => v != 0 && v / 2 ^ 28 != 14
  | 0x701, 2 => [1, 2, 4].contains v
  | 0x702, 0x0B => [1, 2, 4].contains v
  | 0x702, 0x0C => [1, 2, 4].contains v
  | 0x703, 6 => [1, 2, 4, 8].contains v
  | 0x802, 2 => v != 0
  | 0x901, 1 => [2400, 2666, 2933, 3200].contains v
  | 0x901, 2 => [8, 16].contains v
  | 0x901, 3 => [8, 16].contains v
  | 0xA05, 1 => reactionOk (pInst id) v
  | 0xA09, 1 => v % 4096 == 0 && decide (bits v 30 2 ≤ 2 ∧ bits v 12 3 ≤ 3)
  | _, _ => true

/-- The types whose values are signed. -/
def PTy.isSigned (t : PTy) : Bool := t == .s8 || t == .s16 || t == .s32

/-- A written value is of the parameter's type and within its range (R539). -/
def PRow.valueOk (r : PRow) (id v : Nat) : Bool :=
  let x : Int := if r.ty.isSigned then signed 32 v else v
  (decide (r.lo ≤ x ∧ x ≤ r.hi) && rangeOk id v) || (hasNone id && v == 0xFF)

/-- A write may name the ID with this value: it is defined, not read-only, and the value fits (R538, R539). -/
def memberOk (id v : Nat) : Bool :=
  match pRow? id with
  | none => false
  | some r => r.cls != .ro && !isFixedTarget id && r.valueOk id v

/-- The class of a defined ID. -/
def pClass (id : Nat) : PCls := ((pRow? id).map PRow.cls).getD .ro

/-! ### Rules that judge a change against the device (R303, R343, R456, R499) -/

/-- The change of a value is refused with STATE. -/
def State.changeState? (s : State) (id v : Nat) : Bool :=
  match pBlock id, pField id with
  | 0x501, 5 => !s.activeJobs.isEmpty
  | 0x502, 1 => !s.activeJobs.isEmpty
  | 0x502, 2 => !s.activeJobs.isEmpty
  | 0x502, 3 => !s.activeJobs.isEmpty
  | 0x604, 1 => s.par (P.timeTrigMode (pInst id)) == 1 && v != 1 &&
      s.time.sched.any (fun e => e.2.action != 1 && e.2.action != 2 && e.2.target == pInst id)
  | _, _ => false

/-- The change of a value is refused with DENIED. -/
def State.changeDenied (s : State) (id v : Nat) : Bool :=
  match pBlock id, pField id with
  | 0xA05, 1 => s.reactionDenied (pInst id) v
  | 0xB01, _ => s.lcField
  | 0xB02, _ => s.lcField
  | _, _ => false

/-- Any legacy slot is enabled (R288, R313). -/
def State.legacyOn (s : State) : Bool := (List.range 8).any (fun k => s.par (P.linkLegacySlotEnable k) == 1)

/-- `link.lane.max_lps` if the lane took a new rate or first slot now (R236). -/
def State.lpsWith (s : State) (id v : Nat) : Nat :=
  let l := pInst id
  let t : State := match pBlock id, pField id with
    | 0x401, 2 => s.setLane l { s.lane l with rate := v }
    | 0x401, 3 => s.setLane l { s.lane l with own := (s.lane l).own.set 3 (BitVec.ofNat 8 v) }
    | _, _ => s
  t.maxLaneLps t.par

/-- A new limit is below the old one and below the configured press maximum. -/
def State.lowers (s : State) (old new : Nat) : Bool := decide (new < old ∧ new < s.pressMax)

/-- Accept a value (R541); a monitor's least ratio restarts. -/
def State.acceptValue (s : State) (id v : Nat) : State :=
  if isMinRatio id then { s with draught := { s.draught with minR := cut s.draught.minR (pInst id) } }
  else { s with params := { s.params with acc := accept s.params.acc id v } }

/-- The change of a value would break a speed limit (R127, R236, R288, R313). -/
def State.breaksLimit (s : State) (id v : Nat) : Bool :=
  let t := s.acceptValue id v
  let lane := s.lowers (s.maxLaneLps s.par) (t.lpsWith id v)
  let port := s.legacyOn && s.lowers (legacyLimit (s.par P.linkLegacySckDiv) (s.par P.linkLegacyStrobeTclk))
    (legacyLimit (t.par P.linkLegacySckDiv) (t.par P.linkLegacyStrobeTclk))
  match pBlock id, pField id with
  | 0x202, 2 => false
  | 0x202, _ => s.lowers s.fetchLimit t.fetchLimit
  | 0x203, _ => s.lowers s.fetchLimit t.fetchLimit
  | 0x204, _ => s.lowers s.fetchLimit t.fetchLimit
  | 0x205, _ => s.lowers s.fetchLimit t.fetchLimit
  | 0x313, 5 => lane
  | 0x314, 1 => lane
  | 0x401, 2 => lane
  | 0x401, 3 => lane
  | 0x408, 1 => port
  | 0x408, 2 => port
  | 0x504, 0x20 => decide (s.pressMax < v) && (decide (s.fetchLimit < v ∨ s.maxLaneLps s.par < v) ||
      s.legacyOn && decide (s.obsLink 0x408 0 3 < v))
  | _, _ => false

/-! ### Ordering rules, on the values that stand once every member has applied (R544) -/

/-- R115: the enabled slots of a bar in order of x0, 4,992 to 5,120 positions apart. -/
def slotsOk (g : Geo) (b : Nat) : Bool :=
  let xs := (gSlots g b).map (fun sl => g (P.rasterBarSlotX0 (20 * b + sl)))
  (xs.zip (xs.drop 1)).all (fun p => decide (p.1 + 4992 ≤ p.2 ∧ p.2 ≤ p.1 + 5120))

/-- R119: delays of an unsplit slot. -/
def delaysOk (g : Geo) (b sl : Nat) : Bool :=
  gSplit g b sl || (List.range 4).all (fun r =>
    decide (g (P.rasterBarSlotRowgroupOffsetWu (40 * b + 2 * sl + r / 2)) + g (P.rasterBarSlotRowDelayWu (80 * b + 4 * sl + r)) ≤ 768))

/-- R162: bars of the pairs. -/
def pairsOk (g : Geo) : Bool :=
  let on := (List.range 4).filter (fun p => g (P.rasterTwinMode p) != 0)
  let bars := on.flatMap (fun p => [g (P.rasterTwinBarA p), g (P.rasterTwinBarB p)])
  on.all (fun p => decide (g (P.rasterTwinBarA p) < g (P.rasterTwinBarB p))) && decide bars.Nodup

/-- R285: no bar slot on two legacy slots, none within the range of an ACTIVE lane. -/
def State.legacyOk (s : State) : Bool :=
  let on := (List.range 8).filter (fun k => s.par (P.linkLegacySlotEnable k) == 1)
  let slots := on.map (fun k => 20 * s.par (P.linkLegacySlotBar k) + s.par (P.linkLegacySlotSlot k))
  let held := ((List.range 32).filter (fun l => (s.lane l).state == 6 ||
    (match s.servedBy l with | some k => (s.lane (32 + k)).state == 6 | none => false))).flatMap s.primarySlots
  decide slots.Nodup && slots.all (fun i => !held.contains i)

/-- R348: no two enabled contexts bind one tuple. -/
def bindingsOk (g : Geo) : Bool :=
  let on := (List.range 16).filter (fun c => g (P.inspectCtxEnable c) == 1)
  decide (on.map (fun c => (g (P.inspectCtxPort c), g (P.inspectCtxVc c), g (P.inspectCtxDataType c)))).Nodup

/-- Kind code of a pattern cell (R361). -/
def patCell (g : Geo) (c i j : Nat) : Nat := bits (g (P.inspectCtxPatternRow c i)) (4 * j) 4

/-- R361, R374: a context's pattern, and its size in whole cells. -/
def patternOk (g : Geo) (c : Nat) : Bool :=
  let w := g (P.inspectCtxPatW c)
  let h := g (P.inspectCtxPatH c)
  g (P.inspectCtxWidth c) % w == 0 && g (P.inspectCtxHeight c) % h == 0 &&
    (List.range 4).all (fun i => (List.range 4).all (fun j =>
      if i < h ∧ j < w then decide (patCell g c i j ≤ 4) else patCell g c i j == 0))

/-- Kinds a pattern has. -/
def patKinds (g : Geo) (c : Nat) : List Nat :=
  (List.range (g (P.inspectCtxPatH c))).flatMap (fun i => (List.range (g (P.inspectCtxPatW c))).map (fun j => patCell g c i j))

/-- R364, R367, R368: an enabled stream's window, planes and size. -/
def State.streamOk (s : State) (c t : Nat) : Bool :=
  let g := s.geo
  let i := 4 * c + t
  let n := g (P.inspectCtxStreamScale i)
  let planes := unmask 8 (g (P.inspectCtxStreamPlanes i))
  let size := gStreamBytes g c t
  g (P.inspectCtxStreamEnable i) == 0 ||
    (decide (g (P.inspectCtxStreamX i) + g (P.inspectCtxStreamW i) ≤ g (P.inspectCtxWidth c) ∧
        g (P.inspectCtxStreamY i) + g (P.inspectCtxStreamH i) ≤ g (P.inspectCtxHeight c)) &&
      [g (P.inspectCtxStreamX i), g (P.inspectCtxStreamY i), g (P.inspectCtxStreamW i), g (P.inspectCtxStreamH i)].all (fun v => v % n == 0) &&
      !planes.isEmpty && planes.all (fun k => (patKinds g c).contains k) &&
      (t != 0 || decide (size ≤ 262144)) && (t != 1 || (s.ctx c).ringN == 0 || decide (size ≤ (s.ctx c).ringB)))

/-- The measurement memory of the LOUPEs (R437). -/
def reserveOk (g : Geo) : Bool := decide (gReserved g 0 ≤ 1572864 ∧ gReserved g 1 ≤ 1572864)

/-- Every ordering rule that reads an ID holds in a state whose accepted values are the final ones. -/
def State.ordered (t : State) (id : Nat) : Bool :=
  let i := pInst id
  let f := pField id
  match pBlock id with
  | 0x103 => decide (f ≠ 1 ∧ f ≠ 2 ∨ t.par P.hostJobLibraryMb + t.par P.hostJobStageMb + 2048 ≤ t.dramGb * 1024)
  | 0x202 => f != 3 || slotsOk t.geo i
  | 0x203 => (f != 1 || slotsOk t.geo (i / 20)) && (f != 4 || delaysOk t.geo (i / 20) (i % 20))
  | 0x204 => delaysOk t.geo (i / 40) (i % 40 / 2)
  | 0x205 => delaysOk t.geo (i / 80) (i % 80 / 4)
  | 0x208 => !(decide (1 ≤ f ∧ f ≤ 3)) || pairsOk t.geo
  | 0x313 => (!(f == 2 || f == 3) || decide (t.par P.fireAutoEdgeBelowHz < t.par P.fireAutoSchedMinHz)) &&
      (!(f == 4 || f == 5) || decide (t.par P.fireSchedAdvanceTclk + 32 ≤ t.par P.fireSchedFreezeTclk))
  | 0x316 => !(f == 1 || f == 2) || decide (t.parS 16 (P.fireBarSlotTempSoft i) < t.parS 16 (P.fireBarSlotTempHard i))
  | 0x407 => f == 4 || t.legacyOk
  | 0x505 => !(f == 5 || f == 6) || decide (4 * t.par (P.motionMarkWindowWu i) ≤ t.par (P.motionMarkPitchWu i))
  | 0x702 => (!(decide (1 ≤ f ∧ f ≤ 4)) || bindingsOk t.geo) &&
      (!(decide (f = 5 ∨ f = 6 ∨ (0x0B ≤ f ∧ f ≤ 0x10))) || (patternOk t.geo i && (List.range 4).all (t.streamOk i))) && (f != 7 || reserveOk t.geo)
  | 0x703 => t.streamOk (i / 4) (i % 4) && (i % 4 != 0 || reserveOk t.geo)
  | 0x803 => !(f == 9 || f == 0x0A) || decide (t.par P.loopCheckOutPm < t.par P.loopCheckWeakPm)
  | 0x901 => !(decide (0x0D ≤ f ∧ f ≤ 0x0F)) || decide (t.par P.memoryDdrU1Pm < t.par P.memoryDdrU2Pm ∧ t.par P.memoryDdrU2Pm < t.par P.memoryDdrU3Pm)
  | 0xA03 => (!(decide (1 ≤ f ∧ f ≤ 3)) ||
        decide (t.par P.manageDraughtLoRatio < t.par P.manageDraughtHiRatio ∧ t.par P.manageDraughtHiRatio < t.par P.manageDraughtRelaxRatio)) &&
      (!(decide (0x11 ≤ f ∧ f ≤ 0x13)) ||
        decide (t.par P.manageVcoreMinMv ≤ t.par P.manageVcoreStartMv ∧ t.par P.manageVcoreStartMv ≤ t.par P.manageVcoreMaxMv))
  | 0xA07 => !(f == 0x11 || f == 0x12) || decide (t.parS 16 P.manageTsenseTjWarn < t.parS 16 P.manageTsenseTjCrit)
  | 0xA08 => decide (t.par (P.manageVmonLowMv i) < t.par (P.manageVmonHighMv i))
  | _ => true

/-! ### A write of many members (R544) -/

/-- A member as applied in order: its failure, none when it passes; `fin` holds the final values. -/
def State.memberFails (s fin : State) (id v : Nat) : Option Nat :=
  if !memberOk id v then some St.badParam else
  let changes := s.paramRead id != v
  if changes && s.changeState? id v then some St.state
  else if (changes && s.breaksLimit id v) || !fin.ordered id then some St.badParam
  else if changes && s.changeDenied id v then some St.denied
  else none

/-- The lowest-indexed member that fails a check, with its status. -/
def State.firstFailure (s fin : State) (i : Nat) (ms : List (Nat × Nat)) : Option (Nat × Nat) :=
  match ms with
  | [] => none
  | (id, v) :: t =>
    match s.memberFails fin id v with
    | some st => some (i, st)
    | none => (s.acceptValue id v).firstFailure fin (i + 1) t

/-- The accepted values once every member has applied. -/
def State.acceptAll (s : State) (ms : List (Nat × Nat)) : State := ms.foldl (fun (s : State) m => s.acceptValue m.1 m.2) s

/-- The last occurrence of each ID stands. -/
def lastOnly (ms : List (Nat × Nat)) : List (Nat × Nat) :=
  match ms with
  | [] => []
  | m :: t => if t.any (fun x => x.1 == m.1) then lastOnly t else m :: lastOnly t

/-! ### What acceptance does (R540) -/

/-- A lane's enables have changed: it leaves OFF, or goes there (R237, R247). -/
def State.laneEnable (s : State) (l : Nat) : State :=
  if !s.laneOn l then s.laneOff l else if (s.lane l).state = 0 then s.enterDetect l else s

/-- What a NOW value does besides being consulted from now on; `busy` marks contexts whose preview buffer is not ready (R369). -/
def State.nowEffect (s : State) (id v : Nat) (busy : List Nat) : State :=
  let i := pInst id
  match pBlock id, pField id with
  | 0x201, _ => s.forecast
  | 0x316, 1 => match (s.head i).temp with | some t => if s.hasLimits i then s.judgeTemp i t false else s | none => s
  | 0x316, 2 => match (s.head i).temp with | some t => if s.hasLimits i then s.judgeTemp i t false else s | none => s
  | 0x317, 1 => s.refresh
  | 0x401, 1 => s.laneEnable i
  | 0x402, 1 => s.laneEnable (32 + i)
  | 0x501, 1 => s.lostCheck
  | 0x504, _ => s.forecast
  | 0x505, 1 => s.setMark i { s.mark i with locked := false, expect := none, run := 0, fly := 0 }
  | 0x506, _ => s.refresh
  | 0x601, 2 => if s.par P.timePtpEnable = 0 then { s with clk := { s.clk with rho := signed 32 v } } else s
  | 0x602, 1 =>
    if i ≠ 0 then s
    else if v = 1 then s.setServo 1
    else { s.setServo 0 with clk := { s.clk with rho := s.parS 32 P.timeClockRateSetPpt } }
  | 0x701, 2 => s.closePort State.fault i busy
  | 0x701, 3 => s.closePort State.fault i busy
  | 0xB01, _ => { s with vbat := { s.vbat with cfg := accept s.vbat.cfg id v } }
  | 0xB02, _ => { s with vbat := { s.vbat with cfg := accept s.vbat.cfg id v } }
  | _, _ => s

/-- One changed member is accepted. -/
def State.applyMember (s : State) (id v : Nat) (busy : List Nat) : State :=
  let t := s.acceptValue id v
  match pClass id with
  | .now => t.nowEffect id v busy
  | .line => { t with params := { t.params with pendLine := t.params.pendLine ++ [(s.fire.next, id, v)] } }
  | .splice => t.keepGap
  | _ => t

/-- Contexts that are not enabled take their accepted bank at once (R542). -/
def State.latchOff (s : State) (ms : List (Nat × Nat)) : State :=
  let cs := (ms.filterMap (fun m => ctxOfParam m.1)).eraseDups
  (cs.filter (fun c => s.parFrame (P.inspectCtxEnable c) == 0)).foldl (fun (s : State) c => s.latchBank c) s

/-- RESET members are written into the boot directory first (R506, R543). -/
def State.saveReset (s : State) (ms : List (Nat × Nat)) : State :=
  if ms.all (fun m => pClass m.1 != .reset) then s else
  let saved := (s.acceptAll ms).params.acc.filter (fun e => pClass e.1 == .reset)
  { s with flash := s.flash.writeDir { s.flash.dirNow with saved := saved } }

/-- The line a write reports (R28): that of the next descriptor, 0xFFFF_FFFF without a LINE member. -/
def State.paramLine (s : State) (ms : List (Nat × Nat)) : Nat := if ms.any (fun m => pClass m.1 == .line) then s.fire.next else 0xFFFFFFFF

/-- The bar whose GRATE owns a parameter (R18): those of `raster.bar[b]`, its slots, row groups and rows. -/
def pGrate (id : Nat) : Option Nat :=
  match pBlock id with
  | 0x202 => some (pInst id)
  | 0x203 => some (pInst id / 20)
  | 0x204 => some (pInst id / 40)
  | 0x205 => some (pInst id / 80)
  | 0x207 => some (pInst id)
  | _ => none

/-- The owner of a parameter does not answer a request (R29, R166). -/
def State.deafTo (s : State) (id : Nat) : Bool := match pGrate id with | some b => s.deaf b | none => false

/-- The FLUE request for a parameter is not acknowledged: recorded with the initiator and the parameter ID (R29). -/
def State.paramLost (s : State) (ini id : Nat) : State := s.hit F.flueTimeout id ini 2

/-- A write of many members: its status, the first failing member and the state; `dirOk` is whether a directory write succeeds. -/
def State.writeParams (s : State) (ini : Nat) (ms : List (Nat × Nat)) (busy : List Nat) (dirOk : Bool) : Nat × Option Nat × State :=
  match s.firstFailure (s.acceptAll ms) 0 ms with
  | some (i, st) => (st, some i, s)
  | none =>
    match ms.findIdx? (fun m => s.deafTo m.1) with
    | some i => (St.timeout, some i, s.paramLost ini ((ms[i]?).getD (0, 0)).1)
    | none =>
    let ch := (lastOnly ms).filter (fun m => s.paramRead m.1 != m.2)
    if ch.any (fun m => pClass m.1 == .reset) && !dirOk then (St.faulted, none, s.hit F.logFlash 0 idStoker 2)
    else (St.ok, none, (ch.foldl (fun (s : State) m => s.applyMember m.1 m.2 busy) (s.saveReset ch)).latchOff ch)

/-! ### Commands -/

/-- Members of 8 bytes each: ID and value. -/
def members (n : Nat) (b : Bytes) : List (Nat × Nat) := (List.range n).map (fun k => (u32 b (8 * k), u32 b (8 * k + 4)))

/-- 0x0401 read. -/
def execParamRead (dt : Nat) (who : Sess) (s : State) : Next :=
  let s := s.pass dt
  .next (s.runCmd who 0x0401 (fun c =>
    let n := u8 c.pay 0
    let ids := (List.range n).map (fun k => u32 c.pay (4 + 4 * k))
    plain s c (4 + 4 * n) (need s (decide (1 ≤ n ∧ n ≤ 29 ∧ fld c.pay 1 3 = 0) && ids.all (fun i => (pRow? i).isSome)) St.badParam (vet s (
      match ids.find? s.deafTo with
      | some i => .done St.timeout [] (s.hit F.flueTimeout i (Sess.initiator who) 1)
      | none => .done St.ok (leB 1 n ++ leB 3 0 ++ ids.flatMap (fun i => leB 4 i ++ leB 4 (s.paramRead i))) s)))))

/-- The answer of a PARAM write, which it has with every status: the line and the first failing member. -/
def paramAnswer (line : Nat) (i : Option Nat) : Bytes := leB 4 line ++ leB 1 (i.getD 0xFF) ++ leB 3 0

/-- 0x0402 write. -/
def execParamWrite (dt : Nat) (who : Sess) (busy : List (Fin 16)) (dirOk : Bool) (s : State) : Next :=
  let s := s.pass dt
  .next (s.runCmd who 0x0402 (fun c =>
    let n := u8 c.pay 0
    let ms := members n (c.pay.drop 4)
    let line := s.paramLine ms
    if c.dma then .done St.badParam (paramAnswer 0xFFFFFFFF none) s
    else if c.pay.length ≠ 4 + 8 * n then .done St.badLength (paramAnswer 0xFFFFFFFF none) s
    else if n = 0 ∨ 29 < n ∨ fld c.pay 1 3 ≠ 0 then .done St.badParam (paramAnswer line none) s
    else if s.pwr.kind = 2 then .done St.state (paramAnswer line none) s
    else
      let (st, i, t) := s.writeParams (Sess.initiator who) ms (busy.map Fin.val) dirOk
      .done st (paramAnswer line i) t))

/-- The argument of a bulk read: first and last ID. -/
def execParamBulkRead (dt : Nat) (who : Sess) (s : State) : Next :=
  let s := s.pass dt
  .next (s.runCmd who 0x0403 (fun c => dmaForm s c 16 (fun _ a =>
    need s (fld a 8 8 == 0) St.badParam (vet s (hasQueue s who (.pend 0 s))))))

/-- Put a number into an increasing list. -/
def insertUp (n : Nat) (l : List Nat) : List Nat :=
  match l with
  | [] => [n]
  | x :: t => if n ≤ x then n :: x :: t else x :: insertUp n t

/-- Every defined ID from `first` to `last` in increasing order (R546). -/
def definedIds (first last : Nat) : List Nat := ((pTable.flatMap PRow.ids).filter (fun i => decide (first ≤ i ∧ i ≤ last))).foldr insertUp []

/-- The entries of a bulk read have been written (R546). -/
def execParamBulkReadComplete (dt : Nat) (who : Sess) (seq : BitVec 32) (chain : List Bytes) (s : State) : Next :=
  let s := s.pass dt
  .next (s.finish who seq [0x0403] (fun p =>
    let ids := definedIds (u32 p.cmd.arg 0) (u32 p.cmd.arg 4)
    match ids.find? s.deafTo with
    | some i => (s.hit F.flueTimeout i (Sess.initiator who) 1).complete p St.timeout 0 idHob
    | none => s.finishOut p chain (ids.flatMap (fun i => leB 4 i ++ leB 4 (s.paramRead i))) ids.length idHob))

/-- 0x0404 bulk write. -/
def execParamBulkWrite (dt : Nat) (who : Sess) (s : State) : Next :=
  let s := s.pass dt
  .next (s.runCmd who 0x0404 (fun c => dmaForm s c 16 (fun l a =>
    let n := u32 a 0
    need s (decide (1 ≤ n ∧ n ≤ 1048576 ∧ fld a 4 12 = 0)) St.badParam (vet s (hasQueue s who (fixedLen s l (8 * n) (.pend 0 s)))))))

/-- Result of a bulk write: the line, and the first failing entry or 0xFFFF_FFFF. -/
def bulkResult (line : Nat) (i : Option Nat) : Nat := line + 2 ^ 32 * i.getD 0xFFFFFFFF

/-- All bulk entries have been received: they are checked, and released to their owners together (R545). -/
def execParamBulkRelease (dt : Nat) (who : Sess) (seq : BitVec 32) (chain : List Bytes) (data : Bytes) (busy : List (Fin 16)) (dirOk : Bool)
    (s : State) : Next :=
  let s := s.pass dt
  .next (s.finish who seq [0x0404] (fun p =>
    let n := u32 p.cmd.arg 0
    match p.dataIn chain data with
    | none => s.complete p St.badParam (bulkResult 0xFFFFFFFF none) idHob
    | some b =>
      if b.length ≠ 8 * n then s.complete p St.badParam (bulkResult 0xFFFFFFFF none) idHob else
      let ms := members n b
      let line := s.paramLine ms
      let (st, i, t) := s.writeParams (Sess.initiator p.who) ms (busy.map Fin.val) dirOk
      t.complete p st (bulkResult line i) idHob))

end Sys2Proof.Machine
end

