-- ==== Sys2Proof/Machine/LedgerCommands.lean ====
section
/-!
DEFINITION. LEDGER commands (R528, R547 to R556) and the background scrub (R555).
-/
namespace Sys2Proof.Machine

/-- Entries of the Ledger (R547). -/
def ledgerSize : Nat := 819200

/-- An entry with the host's accepted writes (R580); its owner's own updates are not accepted values. -/
def State.acceptedEntry (s : State) (i : Nat) : BitVec 32 :=
  (s.ledger.pend.filter (fun e => e.2.1 == i && !e.2.2.2.getLsbD 6)).foldl (fun e w => merge e w.2.2.1 w.2.2.2) (s.entry i)

/-- The selected fields in which two entries differ. -/
def diffMask (old new : BitVec 32) (m : Nat) : BitVec 7 :=
  BitVec.ofNat 7 (maskOf ((unmask 6 m).filter (fun k => (old ^^^ new) &&& fieldBits (BitVec.ofNat 7 (2 ^ k)) != 0)))

/-- One entry is passed to the owners of its selected fields (R19, R550): a field that holds its value already is left alone (R580). -/
def State.request (s : State) (i : Nat) (e : BitVec 32) (m : Nat) : State :=
  let d := diffMask (s.acceptedEntry i) e m
  if d = 0 then s else { s with ledger := { s.ledger with pend := s.ledger.pend ++ [(s.fire.next, i, e, d)] } }

/-- Entries from an index on. -/
def State.requests (s : State) (i m : Nat) (l : List Nat) : State :=
  match l with
  | [] => s
  | e :: t => (s.request i (BitVec.ofNat 32 e) m).requests (i + 1) m t

/-- The entries of a byte string. -/
def entriesOf (n : Nat) (b : Bytes) : List Nat := (List.range n).map (fun k => u32 b (4 * k))

/-- A field mask selects a field of RASTER: stitch weight or substitution (R18, R548). -/
def rasterMask (m : Nat) : Bool := bit m 3 || bit m 4

/-- Bars of the entries from `i` on whose GRATE is in reset or does not answer. -/
def State.resetBars (s : State) (i n m : Nat) : List Nat :=
  if !rasterMask m then [] else
  (List.range 8).filter (fun b => decide (i < 102400 * (b + 1) ∧ 102400 * b < i + n) && (s.inReset (8 + b) || s.deaf b))

/-- A bar whose GRATE is held in reset or has stopped answering, to which a write therefore is not acknowledged (R29, R166, R465, R556). -/
def State.heldBar (s : State) (i n m : Nat) : Option Nat := (s.resetBars i n m).find? s.deaf

/-- The write waits for a GRATE in reset (R556). -/
def State.waits (s : State) (i n m : Nat) : Bool := (s.heldBar i n m).isNone && !(s.resetBars i n m).isEmpty

/-- The FLUE request is not acknowledged: recorded with its initiator and the first Ledger index of the bar (R29, R547). -/
def State.flueLost (s : State) (who : Sess) (i b : Nat) : State := s.hit F.flueTimeout (max i (102400 * b)) (Sess.initiator who) 2

/-! ### Reads and writes -/

/-- 0x0501 read (R552). -/
def execLedgerRead (dt : Nat) (who : Sess) (s : State) : Next :=
  let s := s.pass dt
  .next (s.runCmd who 0x0501 (fun c =>
    let i := u32 c.pay 0
    let n := u8 c.pay 4
    plain s c 8 (need s (decide (1 ≤ n ∧ n ≤ 58 ∧ fld c.pay 5 3 = 0 ∧ i + n ≤ ledgerSize)) St.badParam (vet s (
      .done St.ok (leB 4 i ++ leB 1 n ++ leB 3 0 ++ (List.range n).flatMap (fun k => leB 4 (s.entry (i + k)).toNat)) s)))))

/-- The fields of a LEDGER write are valid (R518, R528). -/
def writeOk (p : Bytes) : Bool :=
  decide (p.length = 8 + 4 * u8 p 4 ∧ 1 ≤ u8 p 4 ∧ u8 p 4 ≤ 58 ∧ u32 p 0 + u8 p 4 ≤ ledgerSize ∧ u8 p 5 < 64 ∧ u16 p 6 = 0)

/-- 0x0502 write (R550): while a GRATE it names is in reset it stays in its slot and the row is issued again (R556). -/
def execLedgerWrite (dt : Nat) (who : Sess) (s : State) : Next :=
  let s := s.pass dt
  let waits : Bool := match (s.ses who).cmd with
    | some c => c.op == 0x0502 && !c.dma && writeOk c.pay && s.pwr.kind != 2 && s.waits (u32 c.pay 0) (u8 c.pay 4) (u8 c.pay 5)
    | none => false
  if waits then .next s else
  .next (s.runCmd who 0x0502 (fun c =>
    let i := u32 c.pay 0
    let n := u8 c.pay 4
    let m := u8 c.pay 5
    plain s c (8 + 4 * n) (need s (writeOk c.pay) St.badParam (vet s (
      match s.heldBar i n m with
      | some b => .done St.timeout [] (s.flueLost who i b)
      | none => .done St.ok (leB 4 s.fire.next) (s.requests i m (entriesOf n (c.pay.drop 8))))))))

/-- 0x0503 load. -/
def execLedgerLoad (dt : Nat) (who : Sess) (s : State) : Next :=
  let s := s.pass dt
  .next (s.runCmd who 0x0503 (fun c => dmaForm s c 16 (fun l a =>
    let n := u32 a 4
    need s (decide (1 ≤ n ∧ u32 a 0 + n ≤ ledgerSize ∧ u8 a 8 < 64 ∧ fld a 9 7 = 0)) St.badParam (vet s (hasQueue s who (
      fixedLen s l (4 * n) (.pend 0 s)))))))

/-- Every loaded field has been accepted by its owner (R550). -/
def execLedgerLoadApplied (dt : Nat) (who : Sess) (seq : BitVec 32) (chain : List Bytes) (data : Bytes) (s : State) : Next :=
  let s := s.pass dt
  .next (s.finish who seq [0x0503] (fun p =>
    let i := u32 p.cmd.arg 0
    let n := u32 p.cmd.arg 4
    let m := u8 p.cmd.arg 8
    match p.dataIn chain data with
    | none => s.complete p St.badParam 0 idHob
    | some b =>
      if b.length ≠ 4 * n then s.complete p St.badParam 0 idHob
      else if s.waits i n m then s
      else match s.heldBar i n m with
        | some bar => (s.flueLost who i bar).complete p St.timeout 0 idHob
        | none => (s.requests i m (entriesOf n b)).complete p St.ok (s.fire.next + 2 ^ 32 * (crc32c b).toNat) idHob))

/-! ### Dump and check -/

/-- The line boundary at which the Ledger stands: that of the line issued last. -/
def State.lastBoundary (s : State) : Nat := back s.fire.next 1

/-- The bytes of entries (R552). -/
def State.ledgerBytes (s : State) (i n : Nat) : Bytes := (List.range n).flatMap (fun k => leB 4 (s.entry (i + k)).toNat)

/-- 0x0504 dump. -/
def execLedgerDump (dt : Nat) (who : Sess) (s : State) : Next :=
  let s := s.pass dt
  .next (s.runCmd who 0x0504 (fun c => dmaForm s c 16 (fun _ a =>
    need s (decide (u32 a 0 + u32 a 4 ≤ ledgerSize ∧ fld a 8 8 = 0)) St.badParam (vet s (hasQueue s who (.pend 0 s))))))

/-- The entries have been written (R552): the object is the boundary. -/
def execLedgerDumpComplete (dt : Nat) (who : Sess) (seq : BitVec 32) (chain : List Bytes) (s : State) : Next :=
  let s := s.pass dt
  .next (s.finish who seq [0x0504] (fun p =>
    let n := u32 p.cmd.arg 4
    let b := s.ledgerBytes (u32 p.cmd.arg 0) n
    s.finishOut { p with obj := BitVec.ofNat 32 s.lastBoundary } chain b (n + 2 ^ 32 * (crc32c b).toNat) idHob))

/-- 0x0505 check. -/
def execLedgerCheck (dt : Nat) (who : Sess) (s : State) : Next :=
  let s := s.pass dt
  .next (s.runCmd who 0x0505 (fun c => plain s c 4 (need s (decide (u8 c.pay 0 < 8 ∧ fld c.pay 1 3 = 0)) St.badParam (vet s (hasQueue s who (
    .pend (u8 c.pay 0) s))))))

/-- The bar's entries have been read (R553, R554): `upsets` are the entries with errors and their wrong bits. -/
def execLedgerCheckComplete (dt : Nat) (who : Sess) (seq : BitVec 32) (upsets : List (Nat × Nat)) (s : State) : Next :=
  let s := s.pass dt
  .next (s.finish who seq [0x0505] (fun p =>
    let first := 102400 * p.obj.toNat
    let s := upsets.foldl (fun (s : State) u => s.ledgerError (first + u.1 % 102400) s.lastBoundary u.2) s
    let fixed := (upsets.filter (fun u => u.2 == 1)).length
    s.complete p St.ok ((crc32c (s.ledgerBytes first 102400)).toNat + 2 ^ 32 * sat 16 fixed) idHob))

/-- When the scrub's next read falls due (R555): entry i at i / 819,200 of the interval, entry 0 when the interval before it ends. -/
def State.scrubDue (s : State) : Nat :=
  match s.ledger.scrubAt with
  | none => 0
  | some t => t + (if s.ledger.scrub = 0 then ledgerSize else s.ledger.scrub) * s.par P.rasterLedgerScrubMs * perMs / ledgerSize

/-- The background scrub reads the next entry, with so many wrong bits (R555). -/
def execLedgerScrub (dt bits : Nat) (s : State) : Next :=
  let s := s.pass dt
  if !s.ready then .next s else
  let i := s.ledger.scrub
  if s.now + perUs < s.scrubDue then .next s else
  let s := { s with ledger := { s.ledger with scrub := (i + 1) % ledgerSize, scrubAt := if i = 0 then some s.now else s.ledger.scrubAt } }
  if bits = 0 then .next s else .next (s.ledgerError i s.lastBoundary bits)

end Sys2Proof.Machine
end

