-- ==== Sys2Proof/Machine/Dispatch.lean ====
section
/-!
DEFINITION. The dispatch: one arm per command, each one call of its meaning.
-/
namespace Sys2Proof.Machine

/-- The effect of a command on everything but the queue. -/
def exec (i : Instr) (s : State) : Host.Outcome State Fault Refusal :=
  match i with
  | .porstNRise dt lock => Sys2Proof.Machine.execPorstNRise dt lock s
  | .porstNFall dt => Sys2Proof.Machine.execPorstNFall dt s
  | .powerRailsDown dt => Sys2Proof.Machine.execPowerRailsDown dt s
  | .vbatRetentionLoss dt => Sys2Proof.Machine.execVbatRetentionLoss dt s
  | .kindlingStage4Done dt flashOk sigA sigB => Sys2Proof.Machine.execKindlingStage4Done dt flashOk sigA sigB s
  | .kindlingStage5Done dt pmb mon0 railsOk => Sys2Proof.Machine.execKindlingStage5Done dt pmb mon0 railsOk s
  | .kindlingStage6Done dt trained => Sys2Proof.Machine.execKindlingStage6Done dt trained s
  | .kindlingStage7Done dt testOk ember => Sys2Proof.Machine.execKindlingStage7Done dt testOk ember s
  | .kindlingStage8Done dt present => Sys2Proof.Machine.execKindlingStage8Done dt present s
  | .enterReady dt => Sys2Proof.Machine.execEnterReady dt s
  | .tclkUnlock dt => Sys2Proof.Machine.execTclkUnlock dt s
  | .tclkLockReturn dt => Sys2Proof.Machine.execTclkLockReturn dt s
  | .pePerstN dt => Sys2Proof.Machine.execPePerstN dt s
  | .functionLevelReset dt => Sys2Proof.Machine.execFunctionLevelReset dt s
  | .flrComplete dt => Sys2Proof.Machine.execFlrComplete dt s
  | .pcieConfigRequest dt req => Sys2Proof.Machine.execPcieConfigRequest dt req s
  | .pcieLinkDown dt => Sys2Proof.Machine.execPcieLinkDown dt s
  | .poisonedTlp dt bar2 => Sys2Proof.Machine.execPoisonedTlp dt bar2 s
  | .claimRead dt => Sys2Proof.Machine.execClaimRead dt s
  | .release dt token => Sys2Proof.Machine.execRelease dt token s
  | .renew dt token => Sys2Proof.Machine.execRenew dt token s
  | .cqHeadWrite dt ix value => Sys2Proof.Machine.execCqHeadWrite dt ix value s
  | .gstatEventsClear dt mask same => Sys2Proof.Machine.execGstatEventsClear dt mask same s
  | .gstatDropsRead dt same => Sys2Proof.Machine.execGstatDropsRead dt s same
  | .gstatUdpDropsRead dt same => Sys2Proof.Machine.execGstatUdpDropsRead dt s same
  | .fsumClear dt k mask same => Sys2Proof.Machine.execFsumClear dt k mask same s
  | .ferRearm dt value => Sys2Proof.Machine.execFerRearm dt value s
  | .snapTake dt => Sys2Proof.Machine.execSnapTake dt s
  | .bar2Write dt addr bytes => Sys2Proof.Machine.execBar2Write dt addr bytes s
  | .bar0RegisterWrite dt addr bytes => Sys2Proof.Machine.execBar0RegisterWrite dt addr bytes s
  | .sessionOpen dt who => Sys2Proof.Machine.execSessionOpen dt who s
  | .sessionClose dt who => Sys2Proof.Machine.execSessionClose dt who s
  | .sessionLease dt who => Sys2Proof.Machine.execSessionLease dt who s
  | .sessionQueueSetup dt who => Sys2Proof.Machine.execSessionQueueSetup dt who s
  | .sessionCompletionAck dt who => Sys2Proof.Machine.execSessionCompletionAck dt who s
  | .sessionNop dt who => Sys2Proof.Machine.execSessionNop dt who s
  | .remoteCompletionResend dt ix => Sys2Proof.Machine.execRemoteCompletionResend dt ix s
  | .leaseExpiry dt who => Sys2Proof.Machine.execLeaseExpiry dt who s
  | .leaseHoldbackEnd dt who => Sys2Proof.Machine.execLeaseHoldbackEnd dt who s
  | .jobLoad dt who => Sys2Proof.Machine.execJobLoad dt who s
  | .jobWindowOpen dt who => Sys2Proof.Machine.execJobWindowOpen dt who s
  | .jobWindowClose dt who => Sys2Proof.Machine.execJobWindowClose dt who s
  | .loadComplete dt who seq chain data => Sys2Proof.Machine.execLoadComplete dt who seq chain data s
  | .jobStage dt who => Sys2Proof.Machine.execJobStage dt who s
  | .stageComplete dt who seq keyOk plain => Sys2Proof.Machine.execStageComplete dt who seq keyOk plain s
  | .jobUnstage dt who => Sys2Proof.Machine.execJobUnstage dt who s
  | .jobDelete dt who => Sys2Proof.Machine.execJobDelete dt who s
  | .jobInfo dt who => Sys2Proof.Machine.execJobInfo dt who s
  | .jobExport dt who => Sys2Proof.Machine.execJobExport dt who s
  | .exportComplete dt who seq chain => Sys2Proof.Machine.execExportComplete dt who seq chain s
  | .hopperSetup dt who => Sys2Proof.Machine.execHopperSetup dt who s
  | .hopperPush dt who => Sys2Proof.Machine.execHopperPush dt who s
  | .hopperPushComplete dt who seq chain data => Sys2Proof.Machine.execHopperPushComplete dt who seq chain data s
  | .hopperStatus dt who => Sys2Proof.Machine.execHopperStatus dt who s
  | .jobDefects dt who => Sys2Proof.Machine.execJobDefects dt who s
  | .spliceArm dt who => Sys2Proof.Machine.execSpliceArm dt who s
  | .spliceDisarm dt who => Sys2Proof.Machine.execSpliceDisarm dt who s
  | .spliceEvents dt who => Sys2Proof.Machine.execSpliceEvents dt who s
  | .spliceStop dt who => Sys2Proof.Machine.execSpliceStop dt who s
  | .paramRead dt who => Sys2Proof.Machine.execParamRead dt who s
  | .paramWrite dt who busy dirOk => Sys2Proof.Machine.execParamWrite dt who busy dirOk s
  | .paramBulkRead dt who => Sys2Proof.Machine.execParamBulkRead dt who s
  | .paramBulkWrite dt who => Sys2Proof.Machine.execParamBulkWrite dt who s
  | .paramBulkRelease dt who seq chain data busy dirOk => Sys2Proof.Machine.execParamBulkRelease dt who seq chain data busy dirOk s
  | .ledgerRead dt who => Sys2Proof.Machine.execLedgerRead dt who s
  | .ledgerWrite dt who => Sys2Proof.Machine.execLedgerWrite dt who s
  | .ledgerLoad dt who => Sys2Proof.Machine.execLedgerLoad dt who s
  | .ledgerLoadApplied dt who seq chain data => Sys2Proof.Machine.execLedgerLoadApplied dt who seq chain data s
  | .ledgerDump dt who => Sys2Proof.Machine.execLedgerDump dt who s
  | .ledgerCheck dt who => Sys2Proof.Machine.execLedgerCheck dt who s
  | .loopStatus dt who => Sys2Proof.Machine.execLoopStatus dt who s
  | .loopMode dt who => Sys2Proof.Machine.execLoopMode dt who s
  | .loopZonesRead dt who => Sys2Proof.Machine.execLoopZonesRead dt who s
  | .loopZonesWrite dt who => Sys2Proof.Machine.execLoopZonesWrite dt who s
  | .loopEvents dt who => Sys2Proof.Machine.execLoopEvents dt who s
  | .loopMemoryRead dt who => Sys2Proof.Machine.execLoopMemoryRead dt who s
  | .loopMemoryWrite dt who => Sys2Proof.Machine.execLoopMemoryWrite dt who s
  | .headStatus dt who => Sys2Proof.Machine.execHeadStatus dt who s
  | .headMute dt who => Sys2Proof.Machine.execHeadMute dt who s
  | .headUnmute dt who => Sys2Proof.Machine.execHeadUnmute dt who s
  | .headCardRead dt who => Sys2Proof.Machine.execHeadCardRead dt who s
  | .headCardRefresh dt who => Sys2Proof.Machine.execHeadCardRefresh dt who s
  | .laneStatus dt who => Sys2Proof.Machine.execLaneStatus dt who s
  | .laneRetrain dt who => Sys2Proof.Machine.execLaneRetrain dt who s
  | .laneTestStart dt who => Sys2Proof.Machine.execLaneTestStart dt who s
  | .laneTestRead dt who rx => Sys2Proof.Machine.execLaneTestRead dt who rx s
  | .laneTestStop dt who rx => Sys2Proof.Machine.execLaneTestStop dt who rx s
  | .laneSpareSwitch dt who => Sys2Proof.Machine.execLaneSpareSwitch dt who s
  | .laneSpareReturn dt who => Sys2Proof.Machine.execLaneSpareReturn dt who s
  | .cameraStatus dt who => Sys2Proof.Machine.execCameraStatus dt who s
  | .cameraDefectLoad dt who => Sys2Proof.Machine.execCameraDefectLoad dt who s
  | .cameraShadingLoad dt who => Sys2Proof.Machine.execCameraShadingLoad dt who s
  | .cameraPreviewStart dt who chain => Sys2Proof.Machine.execCameraPreviewStart dt who chain s
  | .cameraPreviewStop dt who => Sys2Proof.Machine.execCameraPreviewStop dt who s
  | .cameraCapture dt who chain => Sys2Proof.Machine.execCameraCapture dt who chain s
  | .cameraCaptureTimeout dt who seq => Sys2Proof.Machine.execCameraCaptureTimeout dt who seq s
  | .cameraNozzleSetup dt who => Sys2Proof.Machine.execCameraNozzleSetup dt who s
  | .motionStatus dt who => Sys2Proof.Machine.execMotionStatus dt who s
  | .motionCeiling dt who => Sys2Proof.Machine.execMotionCeiling dt who s
  | .motionMarks dt who => Sys2Proof.Machine.execMotionMarks dt who s
  | .motionChannelSelect dt who => Sys2Proof.Machine.execMotionChannelSelect dt who s
  | .timeStatus dt who => Sys2Proof.Machine.execTimeStatus dt who s
  | .timeSet dt who conv => Sys2Proof.Machine.execTimeSet dt who conv s
  | .timeStepArm dt who => Sys2Proof.Machine.execTimeStepArm dt who s
  | .timeScheduleAdd dt who => Sys2Proof.Machine.execTimeScheduleAdd dt who s
  | .timeScheduleCancel dt who => Sys2Proof.Machine.execTimeScheduleCancel dt who s
  | .timeScheduleList dt who => Sys2Proof.Machine.execTimeScheduleList dt who s
  | .faultStatus dt who => Sys2Proof.Machine.execFaultStatus dt who s
  | .faultClear dt who => Sys2Proof.Machine.execFaultClear dt who s
  | .faultRearm dt who => Sys2Proof.Machine.execFaultRearm dt who s
  | .faultReaction dt who => Sys2Proof.Machine.execFaultReaction dt who s
  | .faultInject dt who => Sys2Proof.Machine.execFaultInject dt who s
  | .logRead dt who => Sys2Proof.Machine.execLogRead dt who s
  | .logStatus dt who => Sys2Proof.Machine.execLogStatus dt who s
  | .logNote dt who => Sys2Proof.Machine.execLogNote dt who s
  | .updateBegin dt who => Sys2Proof.Machine.execUpdateBegin dt who s
  | .updateEraseDone dt who seq => Sys2Proof.Machine.execUpdateEraseDone dt who seq s
  | .updateWrite dt who => Sys2Proof.Machine.execUpdateWrite dt who s
  | .updateCommit dt who => Sys2Proof.Machine.execUpdateCommit dt who s
  | .updateVerifyDone dt who seq sigOk hashOk => Sys2Proof.Machine.execUpdateVerifyDone dt who seq sigOk hashOk s
  | .updateActivate dt who now => Sys2Proof.Machine.execUpdateActivate dt who s now
  | .updateConfirm dt who => Sys2Proof.Machine.execUpdateConfirm dt who s
  | .updateAbort dt who => Sys2Proof.Machine.execUpdateAbort dt who s
  | .updateStatus dt who => Sys2Proof.Machine.execUpdateStatus dt who s
  | .secureStatus dt who => Sys2Proof.Machine.execSecureStatus dt who s
  | .secureChallenge dt who => Sys2Proof.Machine.execSecureChallenge dt who s
  | .secureUnlock dt who sigOk => Sys2Proof.Machine.execSecureUnlock dt who sigOk s
  | .secureLock dt who => Sys2Proof.Machine.execSecureLock dt who s
  | .secureLifecycle dt who cut => Sys2Proof.Machine.execSecureLifecycle dt who cut s
  | .secureKeyInstall dt who tagOk kek => Sys2Proof.Machine.execSecureKeyInstall dt who tagOk kek s
  | .secureTamperClear dt who => Sys2Proof.Machine.execSecureTamperClear dt who s
  | .unlockExpiry dt => Sys2Proof.Machine.execUnlockExpiry dt s
  | .diagFireboxStatus dt who => Sys2Proof.Machine.execDiagFireboxStatus dt who s
  | .diagFireboxSwitch dt who => Sys2Proof.Machine.execDiagFireboxSwitch dt who s
  | .diagFireboxLockstep dt who => Sys2Proof.Machine.execDiagFireboxLockstep dt who s
  | .diagSensors dt who => Sys2Proof.Machine.execDiagSensors dt who s
  | .memoryStatus dt who => Sys2Proof.Machine.execMemoryStatus dt who s
  | .memoryTrainingRead dt who => Sys2Proof.Machine.execMemoryTrainingRead dt who s
  | .memoryCodec dt who => Sys2Proof.Machine.execMemoryCodec dt who s
  | .memoryScan dt who => Sys2Proof.Machine.execMemoryScan dt who s
  | .codecJobComplete dt comp chain data => Sys2Proof.Machine.execCodecJobComplete dt comp chain data s
  | .scanComplete dt engine upsets intruder => Sys2Proof.Machine.execScanComplete dt engine upsets intruder s
  | .dmaError dt who seq addr => Sys2Proof.Machine.execDmaError dt who seq addr s
  | .dmaTimeout dt who seq addr => Sys2Proof.Machine.execDmaTimeout dt who seq addr s
  | .flueTimeout dt master id access who waited => Sys2Proof.Machine.execFlueTimeout dt master id access who s waited
  | .lineBoundary dt cmp ecc bad => Sys2Proof.Machine.execLineBoundary dt cmp ecc bad s
  | .bankLoadDone dt bar => Sys2Proof.Machine.execBankLoadDone dt bar s
  | .bankReloadDone dt bar => Sys2Proof.Machine.execBankReloadDone dt bar s
  | .ddrRead dt port ch granule fate age master who win queued => Sys2Proof.Machine.execDdrRead dt port ch granule fate age master who win queued s
  | .lineProcess dt bar upsets => Sys2Proof.Machine.execLineProcess dt bar upsets s
  | .draughtDeadlineMiss dt mon line late => Sys2Proof.Machine.execDraughtDeadlineMiss dt mon line late s
  | .draughtLineClose dt line mons => Sys2Proof.Machine.execDraughtLineClose dt line mons s
  | .draughtRecover dt => Sys2Proof.Machine.execDraughtRecover dt s
  | .draughtWindowEnd dt => Sys2Proof.Machine.execDraughtWindowEnd dt s
  | .vcoreReadback dt ack mv => Sys2Proof.Machine.execVcoreReadback dt ack mv s
  | .scheduledFireLaunch dt unsent => Sys2Proof.Machine.execScheduledFireLaunch dt unsent s
  | .targetFreeze dt => Sys2Proof.Machine.execTargetFreeze dt s
  | .heldFireRelease dt lane unsent => Sys2Proof.Machine.execHeldFireRelease dt lane unsent s
  | .encoderEdge dt ch a b unsent => Sys2Proof.Machine.execEncoderEdge dt ch a b unsent s
  | .encWire dt ch wire held => Sys2Proof.Machine.execEncWire dt ch wire s held
  | .indexEdge dt ch => Sys2Proof.Machine.execIndexEdge dt ch s
  | .markEdge dt m rising => Sys2Proof.Machine.execMarkEdge dt m s rising
  | .markWindowEnd dt m mark => Sys2Proof.Machine.execMarkWindowEnd dt m s mark
  | .velocityStop dt => Sys2Proof.Machine.execVelocityStop dt s
  | .hopperForecast dt => Sys2Proof.Machine.execHopperForecast dt s
  | .ceilingMessagePeriod dt => Sys2Proof.Machine.execCeilingMessagePeriod dt s
  | .ceilingIgnored dt => Sys2Proof.Machine.execCeilingIgnored dt s
  | .heartbeatRequest dt aTog bTog => Sys2Proof.Machine.execHeartbeatRequest dt aTog bTog s
  | .stateRecordReceive dt good => Sys2Proof.Machine.execStateRecordReceive dt good s
  | .privateLinkTimeout dt unit => Sys2Proof.Machine.execPrivateLinkTimeout dt unit s
  | .resyncRetry dt => Sys2Proof.Machine.execResyncRetry dt s
  | .resyncComplete dt => Sys2Proof.Machine.execResyncComplete dt s
  | .fireboxAutoReturn dt => Sys2Proof.Machine.execFireboxAutoReturn dt s
  | .statusBlock dt lane block => Sys2Proof.Machine.execStatusBlock dt lane block s
  | .headTempStale dt slot => Sys2Proof.Machine.execHeadTempStale dt slot s
  | .legacyTempRead dt slot => Sys2Proof.Machine.execLegacyTempRead dt slot s
  | .laneDetectPoll dt lane term signal => Sys2Proof.Machine.execLaneDetectPoll dt lane term signal s
  | .laneAbsent dt lane => Sys2Proof.Machine.execLaneAbsent dt lane s
  | .bitLock dt lane => Sys2Proof.Machine.execBitLock dt lane s
  | .trainPeriodEnd dt lane ok => Sys2Proof.Machine.execTrainPeriodEnd dt lane ok s
  | .blockLock dt lane => Sys2Proof.Machine.execBlockLock dt lane s
  | .blockLockTimeout dt lane => Sys2Proof.Machine.execBlockLockTimeout dt lane s
  | .cap dt lane block => Sys2Proof.Machine.execCap dt lane block s
  | .capAck dt lane block => Sys2Proof.Machine.execCapAck dt lane block s
  | .capTimeout dt lane => Sys2Proof.Machine.execCapTimeout dt lane s
  | .retrain dt lane block => Sys2Proof.Machine.execRetrain dt lane block s
  | .lockLoss dt lane => Sys2Proof.Machine.execLockLoss dt lane s
  | .relockTimeout dt lane => Sys2Proof.Machine.execRelockTimeout dt lane s
  | .spareSwitchTimeout dt spare => Sys2Proof.Machine.execSpareSwitchTimeout dt spare s
  | .laneRetry dt lane => Sys2Proof.Machine.execLaneRetry dt lane s
  | .spareCheck dt spare => Sys2Proof.Machine.execSpareCheck dt spare s
  | .spareCheckTimeout dt spare => Sys2Proof.Machine.execSpareCheckTimeout dt spare s
  | .spareAutoReturn dt lane => Sys2Proof.Machine.execSpareAutoReturn dt lane s
  | .laneHdrErr dt lane errs => Sys2Proof.Machine.execLaneHdrErr dt lane errs s
  | .laneTestEnd dt lane rx => Sys2Proof.Machine.execLaneTestEnd dt lane rx s
  | .testReport dt lane block => Sys2Proof.Machine.execTestReport dt lane block s
  | .linkTimeSend dt lane => Sys2Proof.Machine.execLinkTimeSend dt lane s
  | .echoMeasure dt lane => Sys2Proof.Machine.execEchoMeasure dt lane s
  | .ltEcho dt lane block frac => Sys2Proof.Machine.execLtEcho dt lane block frac s
  | .infoData dt lane block data => Sys2Proof.Machine.execInfoData dt lane block data s
  | .infoTimeout dt lane => Sys2Proof.Machine.execInfoTimeout dt lane s
  | .csiFrameStart dt port vc busy => Sys2Proof.Machine.execCsiFrameStart dt port vc busy s
  | .csiLongPacket dt port vc pkt drained busy => Sys2Proof.Machine.execCsiLongPacket dt port vc pkt drained busy s
  | .csiFrameEnd dt port vc busy => Sys2Proof.Machine.execCsiFrameEnd dt port vc busy s
  | .csiPhyErr dt port => Sys2Proof.Machine.execCsiPhyErr dt port s
  | .camNoFrame dt ctx => Sys2Proof.Machine.execCamNoFrame dt ctx s
  | .loopFrameProcess dt ctx nozzle => Sys2Proof.Machine.execLoopFrameProcess dt ctx nozzle s
  | .zoneStale dt bar zone => Sys2Proof.Machine.execZoneStale dt bar zone s
  | .zoneRampEnd dt bar zone => Sys2Proof.Machine.execZoneRampEnd dt bar zone s
  | .ptpSync dt port offset delay conv => Sys2Proof.Machine.execPtpSync dt port offset delay conv s
  | .ptpEventMessage dt port tx msg taken bmca fast => Sys2Proof.Machine.execPtpEventMessage dt port tx msg taken bmca s fast
  | .ptpTimeout dt => Sys2Proof.Machine.execPtpTimeout dt s
  | .scheduleExecute dt ix conv => Sys2Proof.Machine.execScheduleExecute dt ix conv s
  | .triggerPulse dt o => Sys2Proof.Machine.execTriggerPulse dt o s
  | .caParityAlert dt ch again => Sys2Proof.Machine.execCaParityAlert dt ch again s
  | .writeCrcAlert dt ch again => Sys2Proof.Machine.execWriteCrcAlert dt ch again s
  | .ddrRefreshDue dt ch rank arrive => Sys2Proof.Machine.execDdrRefreshDue dt ch rank arrive s
  | .ddrTempRead dt => Sys2Proof.Machine.execDdrTempRead dt s
  | .ddrZqcs dt => Sys2Proof.Machine.execDdrZqcs dt s
  | .ddrScrub dt upsets => Sys2Proof.Machine.execDdrScrub dt upsets s
  | .ddrInitDone dt => Sys2Proof.Machine.execDdrInitDone dt s
  | .ledgerScrub dt bits => Sys2Proof.Machine.execLedgerScrub dt bits s
  | .sensorConvert dt tj mv => Sys2Proof.Machine.execSensorConvert dt tj mv s
  | .boardSensorRead dt ix raw => Sys2Proof.Machine.execBoardSensorRead dt ix raw s
  | .pmbusPoll dt reading => Sys2Proof.Machine.execPmbusPoll dt reading s
  | .pmbAlert dt status => Sys2Proof.Machine.execPmbAlert dt status s
  | .logFlush dt ok => Sys2Proof.Machine.execLogFlush dt ok s
  | .tamperTrip dt input level held => Sys2Proof.Machine.execTamperTrip dt input s level held
  | .faultHit dt src addr master access => Sys2Proof.Machine.execFaultHit dt src addr master access s
  | .blockResetComplete dt blk => Sys2Proof.Machine.execBlockResetComplete dt blk s
  | .shadowEnd dt blk => Sys2Proof.Machine.execShadowEnd dt blk s
  | .hobWatchdog dt => Sys2Proof.Machine.execHobWatchdog dt s
  | .grateWatchdog dt b => Sys2Proof.Machine.execGrateWatchdog dt b s
  | .damperWatchdog dt => Sys2Proof.Machine.execDamperWatchdog dt s
  | .loupeWatchdog dt p => Sys2Proof.Machine.execLoupeWatchdog dt p s
  | .doorbell dt ix token ecc => Sys2Proof.Machine.execDoorbell dt ix token ecc s
  | .udpDatagram dt port peer v4 bytes => Sys2Proof.Machine.execUdpDatagram dt port peer v4 bytes s
  | .legacyLatch dt line => Sys2Proof.Machine.execLegacyLatch dt line s
  | .legacyStrobe dt line => Sys2Proof.Machine.execLegacyStrobe dt line s
  | .triggerPulseEnd dt o => Sys2Proof.Machine.execTriggerPulseEnd dt o s
  | .secureWipeDone dt => Sys2Proof.Machine.execSecureWipeDone dt s
  | .wireDisagreementEnd dt ch wire => Sys2Proof.Machine.execWireDisagreementEnd dt ch wire s
  | .privateLinkIdleFrame dt unit => Sys2Proof.Machine.execPrivateLinkIdleFrame dt unit s
  | .powerRailsUp dt => Sys2Proof.Machine.execPowerRailsUp dt s
  | .tapInstruction dt ir => Sys2Proof.Machine.execTapInstruction dt ir s
  | .paramBulkReadComplete dt who seq chain => Sys2Proof.Machine.execParamBulkReadComplete dt who seq chain s
  | .ledgerDumpComplete dt who seq chain => Sys2Proof.Machine.execLedgerDumpComplete dt who seq chain s
  | .ledgerCheckComplete dt who seq upsets => Sys2Proof.Machine.execLedgerCheckComplete dt who seq upsets s
  | .loopMemoryReadComplete dt who seq chain => Sys2Proof.Machine.execLoopMemoryReadComplete dt who seq chain s
  | .loopMemoryWriteComplete dt who seq chain data => Sys2Proof.Machine.execLoopMemoryWriteComplete dt who seq chain data s
  | .cameraDefectLoadComplete dt who seq chain data => Sys2Proof.Machine.execCameraDefectLoadComplete dt who seq chain data s
  | .cameraShadingLoadComplete dt who seq chain data => Sys2Proof.Machine.execCameraShadingLoadComplete dt who seq chain data s
  | .updateWriteComplete dt who seq chain data => Sys2Proof.Machine.execUpdateWriteComplete dt who seq chain data s

end Sys2Proof.Machine
end

