-- ==== Sys2Proof/Machine/Step.lean ====
section
/-!
DEFINITION. The step: take the command at the front of the queue and run it; an empty queue idles.
-/
namespace Sys2Proof.Machine

/-- One step (log 15): the command at the front is taken and executed with the rest of the queue; on an empty queue the block idles. -/
def step (s : State) : Host.Outcome State Fault Refusal :=
  match s.pending with
  | [] => .next s
  | c :: rest => exec c { s with pending := rest }

/-- The state with the command of a table word at the front of its queue; unchanged where the word spells none. -/
def State.withFetchWord (s : State) (nbits w : Nat) : State :=
  match Sys2Proof.decodeTableWord nbits w with
  | some c => { s with pending := c :: s.pending }
  | none => s

end Sys2Proof.Machine
end

