-- ==== Sys2Proof/Claims.lean ====
section
/-!
DEFINITION. The words the statements use: which command a slot holds, the response of R63, an answer PENDING, the entry of
R68, and what a hit of the fault collector leaves.
-/
namespace Sys2Proof.Machine

/-- Slot `w` holds the accepted command `c`, of opcode `op`, without a DMA list and with `n` bytes of payload (R59, R60, R518). -/
def Holds (s : State) (w : Sess) (c : Cmd) (op n : Nat) : Prop :=
  (s.ses w).cmd = some c ∧ c.op = op ∧ c.dma = false ∧ c.pay.length = n

/-- Slot `w` holds the accepted command `c`, of opcode `op`, with the descriptor list `l` and an argument block `arg` of `n`
bytes (R65, R520). -/
def HoldsDma (s : State) (w : Sess) (c : Cmd) (op n : Nat) (l : List DmaDesc) (arg : Bytes) : Prop :=
  (s.ses w).cmd = some c ∧ c.op = op ∧ c.dma = true ∧ c.pay.length % 16 = 0 ∧ parseList 15 c.pay = some (l, arg) ∧ arg.length = n

/-- The session has a completion queue with room for one more entry (R67, R69). -/
def HasRoom (s : State) (w : Sess) : Prop := ∃ q, (s.ses w).cq = some q ∧ q.reserved + q.used + 1 ≤ q.depth

/-- The message of vector `8 + i`, as R48 sends it: none while MSI-X is off or the vector masked. -/
def slotMessage (s : State) (i : Fin 64) : List Output :=
  if s.host.msixOn ∧ !s.host.masked (8 + i.val) then [.msix (8 + i.val)] else []

/-- `t` is `s` with the response of command `c` in the slot of `w` (R50, R63, R73, R74): the bytes of the slot image, the slot free
again, the signal of a local slot or the datagram of a remote one, and nothing else changed. -/
def Answered (s t : State) (w : Sess) (c : Cmd) (status : Nat) (pay : Bytes) : Prop :=
  let b := slotBase w
  t.scratch b 2 = leB 2 c.op ∧ t.scratch (b + 2) 2 = leB 2 (c.flags ||| 0x8000).toNat ∧ t.scratch (b + 4) 4 = leB 4 c.seq.toNat ∧
  t.scratch (b + 8) 4 = s.scratch (b + 8) 4 ∧ t.scratch (b + 12) 2 = leB 2 pay.length ∧ t.scratch (b + 14) 2 = leB 2 status ∧
  t.scratch (b + 16) pay.length = pay ∧
  (∀ x, x < b ∨ b + 16 + pay.length ≤ x → memRead t.chip.scratch x = memRead s.chip.scratch x) ∧
  t.ses w = { s.ses w with cmd := none, stored := (match w with | .loc _ => (s.ses w).stored | .rem _ => t.scratch b 256) } ∧
  (∀ v, v ≠ w → t.ses v = s.ses v) ∧
  t.out = (match w with
    | .loc i => if c.irq then slotMessage s i ++ s.out else s.out
    | .rem _ => .datagram (s.ses w).port (s.ses w).peer (t.scratch b 256) :: s.out) ∧
  t = { s with chip := { s.chip with scratch := t.chip.scratch },
               host := { s.host with loc := t.host.loc, rem := t.host.rem, pba := t.host.pba }, out := t.out }

/-- `t` is `s` with the command `c` answered PENDING: an entry of its queue is reserved (R69), the command is listed with the object
of its entry, and the response of R63 carries `pay`. -/
def Waiting (s t : State) (w : Sess) (c : Cmd) (obj : Nat) (data pay : Bytes) : Prop :=
  Answered (s.reserve w c obj data) t w c St.pending pay

/-- `t` is `s` with the PENDING command `p` complete (R50, R68, R69, R75): its entry, of the present phase, is at the tail of the ring and
consumed from the reservation, the tail moves on and the phase turns at the ring's end, the vector or the datagram leaves, and
nothing else changes. -/
def Posted (s t : State) (p : Pend) (status obj result unit : Nat) : Prop :=
  ∃ q, (s.ses p.who).cq = some q ∧
    let e := entryBytes p.cmd.seq p.cmd.op status p.cmd.epoch unit q.phase obj result s.t32
    let wrap := q.tail + 1 == q.depth
    t.host.pends = s.host.pends.eraseP (fun x => x.who == p.who && x.cmd.seq == p.cmd.seq) ∧
    (t.ses p.who).cq = some { q with reserved := q.reserved - 1, used := q.used + 1, tail := if wrap then 0 else q.tail + 1,
                                     phase := if wrap then !q.phase else q.phase } ∧
    (∀ v, v ≠ p.who → t.ses v = s.ses v) ∧
    (match p.who with
     | .loc i => t.out = slotMessage s i ++ .hostWrite (q.base + BitVec.ofNat 64 (32 * q.tail)) e :: s.out ∧ t.chip = s.chip
     | .rem i => t.out = .datagram (s.ses p.who).port (s.ses p.who).peer (remoteImage (s.ses p.who).token e) :: s.out ∧
         (t.ses p.who).entries = (s.ses p.who).entries ++ [(p.cmd.seq, e, s.now)] ∧
         t.scratch (0x10000 + 2048 * i.val + 32 * q.tail) 32 = e) ∧
    t = { s with chip := { s.chip with scratch := t.chip.scratch },
                 host := { s.host with loc := t.host.loc, rem := t.host.rem, pba := t.host.pba, pends := t.host.pends }, out := t.out }

/-- The collector takes a hit: it runs, no shadow masks the source, and its reaction orders no reset and no fail-over (R454, R464). -/
def Takes (s : State) (n a master : Nat) : Prop :=
  s.faults.on = true ∧ s.shadowed n a master = false ∧ s.reaction n ≠ 6 ∧ s.reaction n ≠ 7

/-- `t` differs from `s` at most in what hits of the collector touch while no reaction orders a reset or a fail-over: the sources and the
first-error record, the event log, the record of the ceiling's outputs, the host's event and pending bits, two flags of the FIREBOX pair,
the outputs and the free values. -/
def Touched (s t : State) : Prop :=
  t = { s with
    faults := { s.faults with src := t.faults.src, fer := t.faults.fer }
    mgmt := { s.mgmt with log := t.mgmt.log, nextSeq := t.mgmt.nextSeq, uncop := t.mgmt.uncop, lostNow := t.mgmt.lostNow, lostAll := t.mgmt.lostAll }
    motion := { s.motion with ceilWas := t.motion.ceilWas, ceilT32 := t.motion.ceilT32, fellAt := t.motion.fellAt, slewAt := t.motion.slewAt,
                              dacWas := t.motion.dacWas, seq := t.motion.seq, flagsWas := t.motion.flagsWas }
    host := { s.host with events := t.host.events, pba := t.host.pba }
    fb := { s.fb with srcRec := t.fb.srcRec, halted := t.fb.halted }
    out := t.out
    free := t.free }

/-- The reaction of a source orders no reset and no fail-over (R454). -/
def Calm (s : State) (n : Nat) : Prop := s.reaction n ≠ 6 ∧ s.reaction n ≠ 7

/-- `t` is `s` after a hit of source `n` at address `a` (R454 to R460): the sticky bit is set, the hit counted to its maximum, a level source's
condition listed, and with a reaction of LOG or higher an empty first-error record takes the hit; only the collector, the event log, the
ceiling's outputs, the host's event bits and the FIREBOX flags may differ. -/
def Recorded (s t : State) (n a master access : Nat) : Prop :=
  (t.src n).sticky = true ∧ (t.src n).hits = sat 16 ((s.src n).hits + 1) ∧
  (t.src n).conds = (if isLevel n then addTo (s.src n).conds (BitVec.ofNat 32 a) else (s.src n).conds) ∧
  (∀ m, m ≠ n → t.src m = s.src m) ∧
  (s.reaction n ≠ 0 → s.faults.fer.valid = false →
    t.faults.fer = { valid := true, source := n, addr := BitVec.ofNat 32 a, master := master, access := access, t32 := s.t32, atT := s.now }) ∧
  (s.reaction n = 0 → t.faults.fer = s.faults.fer ∧ t.mgmt = s.mgmt ∧ t.out = s.out) ∧
  (s.reaction n = 3 → (t.src n).slots = (s.muteSlots n a).foldl addTo (s.src n).slots) ∧
  (s.reaction n = 4 → (t.src n).slots = (((s.muteBar n a).map barSlots).getD []).foldl addTo (s.src n).slots) ∧
  (s.reaction n = 5 → (t.src n).hold = true) ∧ (s.reaction n = 8 → (t.src n).press = true) ∧
  (2 ≤ s.reaction n → t.host.events.getLsbD evFault = true) ∧
  Touched s t

/-- What a hit leaves, of the source's entry but its conditions: the statement of `Recorded` with the conditions as they were. -/
def Counted (s t : State) (n a master access : Nat) : Prop :=
  (t.src n).sticky = true ∧ (t.src n).hits = sat 16 ((s.src n).hits + 1) ∧ (t.src n).conds = (s.src n).conds ∧
  (∀ m, m ≠ n → t.src m = s.src m) ∧
  (s.reaction n ≠ 0 → s.faults.fer.valid = false →
    t.faults.fer = { valid := true, source := n, addr := BitVec.ofNat 32 a, master := master, access := access, t32 := s.t32, atT := s.now }) ∧
  (s.reaction n = 0 → t.faults.fer = s.faults.fer ∧ t.mgmt = s.mgmt ∧ t.out = s.out) ∧
  (s.reaction n = 3 → (t.src n).slots = (s.muteSlots n a).foldl addTo (s.src n).slots) ∧
  (s.reaction n = 4 → (t.src n).slots = (((s.muteBar n a).map barSlots).getD []).foldl addTo (s.src n).slots) ∧
  (s.reaction n = 5 → (t.src n).hold = true) ∧ (s.reaction n = 8 → (t.src n).press = true) ∧
  (2 ≤ s.reaction n → t.host.events.getLsbD evFault = true) ∧
  Touched s t

/-- The reset of a block that a hit orders has begun (R131, R463 to R465, R468): its shadow, whether the limit holds it in reset, and the epoch; a
GRATE runs again with the lines issued to it late, and the codec's jobs are gone. -/
def BlockReset (s t : State) (blk : Nat) : Prop :=
  t.faults.shadows = s.faults.shadows ++ [{ block := blk, ends := none, ctxs := s.blockCtxs blk }] ∧
  t.faults.heldR = (if blk ≠ 0 ∧ s.par P.manageFaultResetLimit < (s.faults.resets.filter (fun p => decide (s.now < p.2 + 10 * perSecond) && p.1 == blk)).length + 1
    then addTo s.faults.heldR blk else s.faults.heldR) ∧
  t.host.epoch = (if s.epochMerged then s.host.epoch else s.host.epoch + 1) ∧
  (∀ b, b < 8 → blk = 8 + b → (t.grate b).stopped = false ∧ (s.enabledSlots b ≠ [] → ∀ d ∈ s.fire.descs, (d.line, b) ∈ t.raster.late)) ∧
  (blk = 40 → t.chip.comp = [] ∧ t.chip.decomp = []) ∧ t.params = s.params ∧ t.otp = s.otp ∧ t.clk = s.clk

/-- A channel after its lines took levels `a` and `b` through a filter of `f`: a level changes only `f + 1` samples after it last did (R296). -/
def filteredEnc (tclk f : Nat) (e : Enc) (a b : Bool) : Enc :=
  { e with
    a := if e.aAt + f + 1 ≤ tclk then a else e.a
    b := if e.bAt + f + 1 ≤ tclk then b else e.b
    aAt := if e.a ≠ a ∧ e.aAt + f + 1 ≤ tclk then tclk else e.aAt
    bAt := if e.b ≠ b ∧ e.bAt + f + 1 ≤ tclk then tclk else e.bAt }

/-- The fail-over that source `n` orders (R217 to R219): the standby is the active unit, the other is FAULTY and held by the source, the lines whose
moment has passed are lost, and the epoch changes under the shadow of block 4. -/
def FailedOver (s t : State) (n : Nat) : Prop :=
  let gone := (s.fire.descs.filter s.duePassed).map Desc.line
  t.fb.active = s.fb.standby ∧ t.fb.st s.fb.active = 5 ∧ t.fb.st s.fb.standby = 0 ∧ t.fb.failovers = sat 32 (s.fb.failovers + 1) ∧ t.fb.foT32 = s.t32 ∧
  t.fb.foFrom = s.fb.active ∧ t.fb.foTo = s.fb.standby ∧ t.fb.foSrc = n ∧ t.fb.clean = 0 ∧
  t.fb.lostLines = (if gone = [] then s.fb.lostLines else sat 32 (s.fb.lostLines + gone.length)) ∧ t.fb.lostN = min 2 gone.length ∧
  t.fire.descs = s.fire.descs.filter (fun d => !gone.contains d.line) ∧ t.fire.heldL = [] ∧
  t.host.epoch = (if s.epochMerged then s.host.epoch else s.host.epoch + 1) ∧
  (n ≠ F.fbLostLines → (t.src n).unit = some s.fb.active) ∧
  t.faults.shadows = s.faults.shadows ++ [{ block := 4, ends := some (s.now + 2 * s.linePeriod + s.par P.manageFaultSettleUs * perUs) }] ∧
  t.params = s.params ∧ t.otp = s.otp ∧ t.clk = s.clk

/-- One registration of source `n` by the collector (R454, R461, R463 to R465): nothing while it does not run; a hit that a shadow masks adds to
CONSEQUENTIAL alone; any other is counted, recorded and reacted to. -/
def Registered (s t : State) (n a master access : Nat) : Prop :=
  (s.faults.on = false → t = s) ∧
  (s.faults.on = true → s.shadowed n a master = true →
    t = { s with faults := { s.faults with fer := if s.faults.fer.valid then { s.faults.fer with cons := sat 16 (s.faults.fer.cons + 1) } else s.faults.fer } }) ∧
  (s.faults.on = true → s.shadowed n a master = false → s.reaction n ≠ 6 → s.reaction n ≠ 7 → Counted s t n a master access) ∧
  (s.faults.on = true → s.shadowed n a master = false → s.reaction n = 6 →
    (s.blockOf n a = none ∨ ∃ blk, s.blockOf n a = some blk ∧ s.inShadow blk = true) → Counted s t n a master access) ∧
  (∀ blk, s.faults.on = true → s.shadowed n a master = false → s.reaction n = 6 → s.blockOf n a = some blk → s.inShadow blk = false →
    ∃ u, Counted s u n a master access ∧ BlockReset u t blk) ∧
  (s.faults.on = true → s.shadowed n a master = false → s.reaction n = 7 → s.fb.eligible = true → s.fb.active ≤ 1 →
    ∃ u, Counted s u n a master access ∧ FailedOver u t n) ∧
  (s.faults.on = true → s.shadowed n a master = false → s.reaction n = 7 → s.fb.eligible = false →
    ∃ u, Counted s u n a master access ∧ Touched u t ∧ (s.shadowed F.fbNoStandby 0 idNone = false → (t.src F.fbNoStandby).sticky = true))

/-- A source whose sticky bit ends, when it clears, only its own mutes, HOLD_FIRE and PRESS_HOLD (R458): no FIREBOX unit, block, encoder,
regulator or clock waits for it. -/
def PlainSource (s : State) (n : Nat) : Prop :=
  n ∉ [F.encLost, F.encWire, F.faultResetLimit, F.vcorePmbus, F.tclkUnlock] ∧ isFbStop n = false ∧ (s.src n).unit = none

/-- A source after the host has cleared its bit (R457, R458). -/
def clearedSource (x : Source) : Source := { x with sticky := false, slots := [], hold := false, press := false, unit := none }

/-- Whether the host's write clears the bit now (R10, R457): it is set, no hit came in the same TCLK, and no condition of a level source holds. -/
def Clears (s : State) (n : Nat) (same : Bool) : Prop := (s.src n).sticky = true ∧ same = false ∧ (isLevel n = true → (s.src n).conds = [])

/-- A lane that has entered TRAIN at a rate (R237). -/
def inTrain (x : Lane) (now rate : Nat) : Lane :=
  { x with state := 2, since := now, rate := rate, farN := 0, acks := 0, held := false, carry := false, info := none, todo := [],
           echoAt := none, test := none }

/-- A lane that has gone into FAILED, to try again after the retry time (R240). -/
def inFailed (x : Lane) (now retry : Nat) : Lane :=
  { x with fails := x.fails + 1, state := 9, since := now, retryAt := now + retry * perMs, held := false }

/-- An attempt at bring-up has failed (R240): the next starts at TRAIN and rate 0, or the third, or one from FAILED, leaves the lane FAILED and
records LANE_TRAIN_FAIL. -/
def AttemptFailed (s t : State) (l : Nat) : Prop :=
  if (s.lane l).single = true ∨ 3 ≤ (s.lane l).fails + 1 then
    Takes s F.laneTrainFail l idNone →
      Recorded (s.setLane l (inFailed (s.lane l) s.now (s.par P.linkLaneRetryMs))) t F.laneTrainFail l idNone 0
  else t = s.setLane l (inTrain { s.lane l with fails := (s.lane l).fails + 1 } s.now 0)

/-- A LINK_TIME (R269): link time and the delay in 1/256 TCLK where one is known, added; ECHO, the validity of the delay and the member. -/
def linkTimeBlock (link : Nat) (echo : Bool) (delay : Option Nat) (member : Nat) : Bytes :=
  let v := link * 256 + delay.getD 0
  kBlock 0x93 (leB 1 (128 * b2n echo + 64 * b2n delay.isSome + member) ++ beB 4 (v / 256 % 2 ^ 32) ++ leB 1 (v % 256))

/-- An INFO_READ of a chunk of a position's card (R280). -/
def infoReadBlock (j : Nat) (tag : BitVec 8) (chunk : Nat) : Bytes := kBlock 0x96 (leB 1 j ++ leB 1 tag.toNat ++ leB 1 chunk)

/-- `t` differs from `s` at most in the lanes, the spares, what LINK holds of the slots, and what hits touch. -/
def OnLanes (s t : State) : Prop := Touched { s with lanes := t.lanes, spares := t.spares, links := t.links } t

/-- A cause of GSTAT_EVENTS.TIME is noted and the event set (R532): 0 REPORT execution, 1 servo state, 2 step. -/
def timeNoted (s : State) (k : Nat) : State := ({ s with time := { s.time with causes := s.time.causes ||| BitVec.ofNat 16 (2 ^ k) } }).event evTime

/-- Device Time after a step of the clock and before any entry that the step passes executes (R323, R324, R326): T32 is untouched, the credit is
used, the step counted and the VBAT seconds rewritten. -/
def stepped (s : State) (devu : Nat) : State :=
  { s with
    clk := { s.clk with devu := devu }
    time := { s.time with steps := sat 32 (s.time.steps + 1), credit := false }
    vbat := { s.vbat with sec := devu / nsUnit / 1000000000 % 2 ^ 48, sub := 0 } }

/-- The schedule entry that TIME schedule add writes (R334): the layout's fields, its next instant on its time base and its owner. -/
def schedEntry (b : Bytes) (next : Nat) (owner : Option (Sess × BitVec 32)) : Sched :=
  { action := u8 b 0, base := u8 b 1, report := u8 b 2 == 1, target := u8 b 3, next := next, index := u16 b 0x0E,
    period := u32 b 0x10, left := (if u32 b 0x10 = 0 then 1 else u32 b 0x14),
    forever := u32 b 0x10 != 0 && u32 b 0x14 == 0, off := signed 32 (u32 b 0x18), owner := owner }

/-- No Device Time entry of the schedule has its next instant at or before the device time (R338). -/
def NonePassed (s : State) (devu : Nat) : Prop := ∀ e ∈ s.time.sched, e.2.base = 1 → devu / nsUnit < e.2.next

/-- The pulse of output `k` that falls due while it is idle (R339, R354): active for its width, counted, and a record in each context bound to it, the
oldest of eight discarded; the output is driven at its level, and nothing else leaves while no context is full. -/
def Pulsed (s t : State) (k p : Nat) : Prop :=
  t.trig k = { s.trig k with active := true, ends := s.clk.tclk + tclkOf (s.parLine (P.timeTrigWidthNs k)), pulses := sat 32 ((s.trig k).pulses + 1) } ∧
  (∀ j, j ≠ k → t.trig j = s.trig j) ∧ ((∀ c, c < 16 → s.parFrame (P.inspectCtxTrig c) = k → (s.ctx c).trigs.length < 8) → t.out = .trig k (s.parLine (P.timeTrigPolarity k) != 1) :: s.out) ∧
  (∀ c, c < 16 → s.parFrame (P.inspectCtxTrig c) = k → (s.ctx c).trigs.length < 8 → (t.ctx c).trigs = (s.ctx c).trigs ++ [(p, s.t32ns)]) ∧
  (∀ c, c < 16 → s.parFrame (P.inspectCtxTrig c) = k → 8 ≤ (s.ctx c).trigs.length → (t.ctx c).trigs = (s.ctx c).trigs.drop 1 ++ [(p, s.t32ns)]) ∧
  (∀ c, ¬(c < 16 ∧ s.parFrame (P.inspectCtxTrig c) = k) → t.ctx c = s.ctx c) ∧
  Touched { s with time := { s.time with trig := t.time.trig }, cam := { s.cam with ctx := t.cam.ctx } } t

/-- `t` is `s` but for the rings' low flags and what hits touch. -/
def RingsKept (s t : State) : Prop :=
  Touched { s with lib := { s.lib with rings := t.lib.rings } } t ∧ ∀ r, t.ring r = { s.ring r with lowHeld := (t.ring r).lowHeld }

/-- `t` is `s` with one entry in STOKER's RAM log (R477, R478): the next sequence, the times, the epoch, and an address and data where given; the ring
keeps the newest 8,192 entries and counts those overwritten before they were copied. -/
def Noted (s t : State) (kind master : Nat) (addr data : Option (BitVec 32)) : Prop :=
  ∃ e : LogEntry, e.seq = s.mgmt.nextSeq ∧ e.t32 = s.t32 ∧ e.secs = BitVec.ofNat 32 s.devSec ∧ e.kind = kind ∧ e.master = master ∧ e.source = 0xFFFF ∧
    e.epoch = s.host.epoch ∧ (∀ a, addr = some a → e.addr = a) ∧ (∀ d, data = some d → e.data = d) ∧
    t = { s with
      mgmt := { s.mgmt with
        log := (e :: s.mgmt.log).take 8192, nextSeq := s.mgmt.nextSeq + 1, uncop := min 8192 (s.mgmt.uncop + 1)
        lostNow := s.mgmt.lostNow + (if 8192 ≤ s.mgmt.uncop then 1 else 0), lostAll := sat 32 (s.mgmt.lostAll + (if 8192 ≤ s.mgmt.uncop then 1 else 0)) }
      free := t.free }

/-- `g` is the flash `f` after a write of the boot directory (R482): the copy that was not the directory holds `d` with the generation one higher, and is
the directory; nothing else differs. -/
def DirWritten (f g : Flash) (d : BootDir) : Prop :=
  g.dirNow = { d with gen := f.dirNow.gen + 1 } ∧
  (∀ k e, f.dir = some (k, e) → k < 2 ∧ (k = 0 → g.dir0 = some e) ∧ (k = 1 → g.dir1 = some e)) ∧
  g = { f with dir0 := g.dir0, dir1 := g.dir1 }

/-- An unlock's scope is gone (R488): nothing is unlocked and, where SAFELIGHT was open, every SL_SEL is 0x0000. -/
def unlockEnded (s : State) : State :=
  { s with sec := { s.sec with scope := 0 }, host := { s.host with slSel := if s.sec.scope % 2 = 1 then [] else s.host.slSel } }

/-- The wipe of the secure scratchpad runs (R439); one that ran already goes on. -/
def wipeStarted (s : State) : State :=
  { s with chip := { s.chip with secure := if s.chip.wiping then s.chip.secure else [], wiping := true } }

/-- What leaves for a slot of a line with its codes (R261, R264, R268, R286): the shift of the legacy port, the frame on the lane that carries the slot,
or nothing; a no-fire or muted slot, or one without a code, carries none. -/
def slotOutput (s : State) (d : Desc) (slot : Nat) (codes : List Nat) : Option Output :=
  let empty := d.noFire || d.mute.contains slot || codes.all (· == 0)
  if (s.legacyOf slot).isSome then
    some (.legacy d.line slot ((List.range 4).flatMap (fun row => packBits (legacyRow (if empty then List.replicate 5120 0 else codes) row))))
  else (s.laneFor slot d.line).map (fun c =>
    .frame c slot d.line (lineFrame (s.slotPos slot) d.line (b2n empty + 2 * b2n (s.fb.resync.contains slot)) (if empty then [] else packCodes codes)))

/-- The codes of an enabled slot of a bar in a line (R172, R178): its four rows of drop sizes, each nozzle with its neighbours of the row, woven
into nozzle order. -/
def slotCodes (s : State) (v : LineView) (b sl : Nat) : List Nat :=
  let g := s.barGeo b v.desc.line
  let row (r : Nat) : List Nat := s.rowCodes v b sl r (g (P.rasterBarSlotOrient (20 * b + sl))) 0 0 (sel (s.grateLine v b).1 (4 * sl + r) [])
  weave (row 0) (row 1) (row 2) (row 3)

/-- The drop sizes of an enabled slot of a bar in a line, in nozzle order (R137, R151). -/
def slotDrops (s : State) (v : LineView) (b sl : Nat) : List Nat :=
  let row (r : Nat) : List Nat := sel (s.grateLine v b).1 (4 * sl + r) []
  weave (row 0) (row 1) (row 2) (row 3)

/-- The life cycle is one of the five states of R485. -/
def LegalCycle (s : State) : Prop := s.otp.lc ≤ 4

/-- From `s` to `t` fuses are only blown (R481, R484 to R486): the life cycle goes forward, the counter does not fall, and the other fuses stand. -/
def FusesBlow (s t : State) : Prop :=
  s.otp.lc ≤ t.otp.lc ∧ s.otp.rollback ≤ t.otp.rollback ∧
  t.otp = { s.otp with lc := t.otp.lc, lcPart := t.otp.lcPart, rollback := t.otp.rollback }

end Sys2Proof.Machine
end

