-- ==== Sys2Proof/Certificates/Slice0/Obligations.lean ====
section
/-!
DEFINITION. The statements for the provers. Each docstring names the rows of spec/opcode_table.json it is about and the rules.
A statement about a row has as its conclusion that `exec` answers a next state, and which.
-/
open Sys2Proof Sys2Proof.Machine

/-- A step is `exec` of the command at the front, on the queue's rest; on an empty queue the block idles (log 15, the model's choice). -/
def Obligations.StepTakesTheFrontCommand : Prop :=
  (∀ (c : Instr) (rest : List Instr) (s : State), step { s with pending := c :: rest } = exec c { s with pending := rest }) ∧
  (∀ (s : State), s.pending = [] → step s = .next s)

/-- The invariant of FusesOnlyBlow holds at reset (R485; BLANK is the model's choice, log 3). -/
def Obligations.FusesAreLegalAtReset : Prop := LegalCycle State.reset

/-- Every one of the 253 rows completes on every state. The life cycle moves forward only (R486), the counter never falls (R484), and no other
fuse changes (R481), whatever the command. -/
def Obligations.FusesOnlyBlow : Prop :=
  (∀ (c : Instr) (s : State), ∃ t, exec c s = .next t ∧ (LegalCycle s → LegalCycle t ∧ FusesBlow s t)) ∧
  (∀ (s : State), ∃ t, step s = .next t ∧ (LegalCycle s → LegalCycle t ∧ FusesBlow s t))

/-- Rows GSTAT_EVENTS_CLEAR, GSTAT_DROPS_READ, GSTAT_UDP_DROPS_READ, SNAP_TAKE, and the window closed for RENEW, RELEASE, DOORBELL, CQ_HEAD_WRITE, BAR0_REGISTER_WRITE and CLAIM_READ (R9 to R11, R45, R49, R52). -/
def Obligations.HostStatusRegisters : Prop :=
  (∀ (dt : Nat) (mask : BitVec 32) (same : BitVec 4) (s : State),
    ∃ t, exec (.gstatEventsClear dt mask same) s = .next t ∧
      (∀ k, k < 4 → t.host.events.getLsbD k = ((s.host.events.getLsbD k && !mask.getLsbD k) || same.getLsbD k)) ∧
      t = { s.pass dt with host := { s.host with events := t.host.events, pba := t.host.pba }, out := t.out }) ∧
  (∀ (dt : Nat) (same : BitVec 3) (s : State),
    exec (.gstatDropsRead dt same) s = .next { s.pass dt with
      host := { s.host with dropBar2 := if same.getLsbD 2 then 1 else 0, dropBusy := if same.getLsbD 1 then 1 else 0,
                            dropTok := if same.getLsbD 0 then 1 else 0 },
      out := .read 0x1028 (BitVec.ofNat 64 (s.host.dropBar2 * 2 ^ 24 + s.host.dropBusy * 2 ^ 16 + s.host.dropTok)) :: s.out }) ∧
  (∀ (dt : Nat) (same : Bool) (s : State),
    exec (.gstatUdpDropsRead dt same) s = .next { s.pass dt with
      host := { s.host with dropUdp := if same then 1 else 0 }, out := .read 0x102C (BitVec.ofNat 64 s.host.dropUdp) :: s.out }) ∧
  (∀ (dt : Nat) (s : State), s.windowOpen = true →
    exec (.snapTake dt) s = .next { s.pass dt with
      host := { s.host with snapCount := s.host.snapCount + 1, snapSec := BitVec.ofNat 48 (s.pass dt).devSec,
                            snapNs := BitVec.ofNat 32 (s.pass dt).devSub, snapT32 := (s.pass dt).t32 } }) ∧
  (∀ (dt : Nat) (s : State), s.windowOpen = false →
    exec (.snapTake dt) s = .next (s.pass dt) ∧ exec (.claimRead dt) s = .next { s.pass dt with out := .read 0x15000 0 :: s.out } ∧
    (∀ token, exec (.renew dt token) s = .next (s.pass dt) ∧ exec (.release dt token) s = .next (s.pass dt)) ∧
    (∀ i token ecc, exec (.doorbell dt i token ecc) s = .next (s.pass dt)) ∧ (∀ i v, exec (.cqHeadWrite dt i v) s = .next (s.pass dt)) ∧
    (∀ addr bytes, exec (.bar0RegisterWrite dt addr bytes) s = .next (s.pass dt)))

/-- Rows CLAIM_READ, RENEW, RELEASE, LEASE_EXPIRY, LEASE_HOLDBACK_END (R54 to R58); which offered slot CLAIM takes is free (log 14). -/
def Obligations.SessionSlotsClaimRenewRelease : Prop :=
  (∀ (dt : Nat) (s : State), s.windowOpen = true → (∃ i : Fin 64, (s.ses (.loc i)).offered (s.pass dt).now = true) →
    ∃ t i, exec (.claimRead dt) s = .next t ∧ (s.ses (.loc i)).offered (s.pass dt).now = true ∧
      (t.ses (.loc i)).isOpen = true ∧ 64 ≤ (t.ses (.loc i)).token.toNat ∧ (t.ses (.loc i)).token.toNat % 64 = i.val ∧
      (t.ses (.loc i)).token ≠ (s.ses (.loc i)).last ∧ (t.ses (.loc i)).lease = s.par P.hostSessionLeaseMs ∧
      (t.ses (.loc i)).ends = (s.pass dt).now + s.par P.hostSessionLeaseMs * perMs ∧
      (∀ v, v ≠ .loc i → t.ses v = s.ses v) ∧
      t = { s.pass dt with
              host := { s.host with loc := t.host.loc }, free := t.free,
              out := .read 0x15000 (BitVec.ofNat 64 ((t.ses (.loc i)).token.toNat * 2 ^ 32 + 2 ^ 31 + i.val)) :: s.out }) ∧
  (∀ (dt : Nat) (s : State), s.windowOpen = true → (∀ i : Fin 64, (s.ses (.loc i)).offered (s.pass dt).now = false) →
    exec (.claimRead dt) s = .next { s.pass dt with out := .read 0x15000 0 :: s.out }) ∧
  (∀ (dt : Nat) (token : BitVec 32) (s : State), s.windowOpen = true →
    (s.ses (.loc (slotOf token))).isOpen = true → (s.ses (.loc (slotOf token))).token = token →
    exec (.renew dt token) s = .next ((s.pass dt).setSes (.loc (slotOf token))
      { s.ses (.loc (slotOf token)) with ends := (s.pass dt).now + (s.ses (.loc (slotOf token))).lease * perMs })) ∧
  (∀ (dt : Nat) (token : BitVec 32) (s : State), s.windowOpen = true →
    (s.ses (.loc (slotOf token))).isOpen = true → (s.ses (.loc (slotOf token))).token = token →
    ∃ t, exec (.release dt token) s = .next t ∧ (t.ses (.loc (slotOf token))).isOpen = false ∧
      (t.ses (.loc (slotOf token))).cmd = none ∧ (t.ses (.loc (slotOf token))).cq = none ∧
      (t.ses (.loc (slotOf token))).last = token ∧
      t.host.pends = s.host.pends.filter (fun p => !(p.who == .loc (slotOf token))) ∧
      (∀ v, v ≠ .loc (slotOf token) → t.ses v = s.ses v)) ∧
  (∀ (dt : Nat) (who : Sess) (s : State), (s.ses who).isOpen = true → (s.ses who).ends ≤ (s.pass dt).now →
    Takes s F.leaseExpiry 0 idNone →
    ∃ t, exec (.leaseExpiry dt who) s = .next t ∧ (t.ses who).isOpen = false ∧
      (t.ses who).held = some ((s.pass dt).now + (s.ses who).lease * perMs) ∧
      (t.src F.leaseExpiry).sticky = true ∧ (t.src F.leaseExpiry).hits = sat 16 ((s.src F.leaseExpiry).hits + 1)) ∧
  (∀ (dt : Nat) (who : Sess) (s : State) (e : Nat), (s.ses who).held = some e → e ≤ (s.pass dt).now →
    exec (.leaseHoldbackEnd dt who) s = .next ((s.pass dt).setSes who { s.ses who with held := none }))

/-- Rows DOORBELL, UDP_DATAGRAM, BAR0_REGISTER_WRITE, CQ_HEAD_WRITE, REMOTE_COMPLETION_RESEND (R45, R60 to R62, R69, R74, R75). -/
def Obligations.DoorbellsAndDatagramsAreAccepted : Prop :=
  (∀ (dt : Nat) (i : Fin 64) (s : State) (token : BitVec 32),
    let w := Sess.loc i
    let img := s.scratch (slotBase w) 256
    s.windowOpen = true → (s.ses w).isOpen = true → (s.ses w).token = token → (s.ses w).cmd = none →
    BitVec.ofNat 32 (u32 img 8) = token → u16 img 12 ≤ 240 → opcodes.contains (u16 img 0) = true →
    exec (.doorbell dt i token none) s = .next ((s.pass dt).setSes w
      { s.ses w with cmd := some { parseCmd img s.host.epoch with atT := (s.pass dt).now }, ends := (s.pass dt).now + (s.ses w).lease * perMs })) ∧
  (∀ (dt : Nat) (i : Fin 64) (s : State) (token : BitVec 32) (c : Cmd),
    s.windowOpen = true → (s.ses (.loc i)).isOpen = true → (s.ses (.loc i)).token = token → (s.ses (.loc i)).cmd = some c →
    exec (.doorbell dt i token none) s = .next { s.pass dt with host := { s.host with dropBusy := sat 8 (s.host.dropBusy + 1) } }) ∧
  (∀ (dt : Nat) (port : Fin 2) (peer : BitVec 48) (bytes : Bytes) (s : State) (l : BitVec 32),
    let token := BitVec.ofNat 32 (u32 bytes 8)
    let w := Sess.rem (slotOf token)
    s.udpOpen port.val = true → bytes.length = 256 → token ≠ 0 → (s.ses w).isOpen = true → (s.ses w).token = token → (s.ses w).cmd = none →
    (s.ses w).lastSeq = some l → BitVec.ofNat 32 (u32 bytes 4) = l + 1 → u16 bytes 12 ≤ 240 → opcodes.contains (u16 bytes 0) = true →
    (BitVec.ofNat 16 (u16 bytes 2)).getLsbD 12 = false →
    ∃ t, exec (.udpDatagram dt port peer true bytes) s = .next t ∧
      t.ses w = { s.ses w with cmd := some { parseCmd bytes s.host.epoch with atT := (s.pass dt).now }, ends := (s.pass dt).now + (s.ses w).lease * perMs,
                               lastSeq := some (l + 1), peer := peer, port := port.val } ∧
      t.scratch (slotBase w) 256 = bytes ∧ (∀ v, v ≠ w → t.ses v = s.ses v) ∧
      t = { s.pass dt with host := { s.host with rem := t.host.rem }, chip := { s.chip with scratch := t.chip.scratch } }) ∧
  (∀ (dt addr : Nat) (bytes : Bytes) (s : State), s.windowOpen = true → bytes ≠ [] →
    0x10000 ≤ addr → addr + bytes.length ≤ 0x14000 → addr / 256 = (addr + bytes.length - 1) / 256 →
    ∃ t, exec (.bar0RegisterWrite dt addr bytes) s = .next t ∧ t.scratch (addr - 0x10000) bytes.length = bytes ∧
      (∀ x, x < addr - 0x10000 ∨ addr - 0x10000 + bytes.length ≤ x → memRead t.chip.scratch x = memRead s.chip.scratch x) ∧
      t = { s.pass dt with chip := { s.chip with scratch := t.chip.scratch } }) ∧
  (∀ (dt : Nat) (i : Fin 64) (value : BitVec 32) (s : State) (q : Cq) (a : Nat),
    s.windowOpen = true → (s.ses (.loc i)).cq = some q → (s.ses (.loc i)).head.toNat < q.depth → value.toNat % 4096 < q.depth → q.depth ≤ 4096 →
    0 < a → a ≤ q.used → a < q.depth → ((s.ses (.loc i)).head.toNat + a) % q.depth = value.toNat % 4096 →
    exec (.cqHeadWrite dt i value) s = .next ((s.pass dt).setSes (.loc i)
      { s.ses (.loc i) with head := BitVec.ofNat 12 (value.toNat % 4096), cq := some { q with used := q.used - a } })) ∧
  (∀ (dt : Nat) (i : Fin 64) (s : State),
    exec (.remoteCompletionResend dt i) s = .next { (s.pass dt).setSes (.rem i) { s.ses (.rem i) with
        entries := (s.ses (.rem i)).entries.map (fun e => if e.2.2 + 100 * perMs ≤ (s.pass dt).now then (e.1, e.2.1, (s.pass dt).now) else e) } with
      out := (((s.ses (.rem i)).entries.filter (fun e => decide (e.2.2 + 100 * perMs ≤ (s.pass dt).now))).map (fun e =>
        Output.datagram (s.ses (.rem i)).port (s.ses (.rem i)).peer (remoteImage (s.ses (.rem i)).token e.2.1))).reverse ++ s.out }) ∧
  (∀ (dt : Nat) (i : Fin 64) (value : BitVec 32) (s : State), (s.ses (.loc i)).cq = none → exec (.cqHeadWrite dt i value) s = .next (s.pass dt))

/-- Rows SESSION_OPEN, SESSION_CLOSE, SESSION_LEASE, SESSION_QUEUE_SETUP, SESSION_COMPLETION_ACK, SESSION_NOP (R524). -/
def Obligations.SessionCommandsAnswer : Prop :=
  (∀ (dt : Nat) (i : Fin 64) (s : State) (c : Cmd), Holds s (.rem i) c 0x0101 4 → (s.ses (.rem i)).isOpen = false →
    100 ≤ u32 c.pay 0 → u32 c.pay 0 ≤ 60000 →
    ∃ t u tok, exec (.sessionOpen dt (.rem i)) s = .next t ∧ 64 ≤ tok.toNat ∧ tok.toNat % 64 = i.val ∧ tok ≠ (s.ses (.rem i)).last ∧
      u = { ((s.pass dt).setSes (.rem i) { s.ses (.rem i) with
              isOpen := true, token := tok, last := tok, lease := u32 c.pay 0, ends := (s.pass dt).now + u32 c.pay 0 * perMs, held := none,
              cq := some {}, lastSeq := none, stored := [], entries := [] }) with free := s.free + 1 } ∧
      Answered u t (.rem i) c St.ok
        (leB 4 tok.toNat ++ leB 4 (u32 c.pay 0) ++ leB 2 s.host.epoch.toNat ++ leB 1 1 ++ leB 1 0)) ∧
  (∀ (dt : Nat) (w : Sess) (s : State) (c : Cmd), Holds s w c 0x0102 0 →
    ∃ t u, exec (.sessionClose dt w) s = .next t ∧ Answered (s.pass dt) u w c St.ok [] ∧ t = u.endSession w ∧
      (t.ses w).isOpen = false ∧ (t.ses w).cmd = none ∧ (t.ses w).cq = none ∧ (∀ p ∈ t.host.pends, p.who ≠ w)) ∧
  (∀ (dt : Nat) (w : Sess) (s : State) (c : Cmd), Holds s w c 0x0103 4 → s.pwr.kind ≠ 2 → 100 ≤ u32 c.pay 0 → u32 c.pay 0 ≤ 60000 →
    ∃ t, exec (.sessionLease dt w) s = .next t ∧
      Answered ((s.pass dt).setSes w { s.ses w with lease := u32 c.pay 0, ends := c.atT + u32 c.pay 0 * perMs }) t w c St.ok
        (leB 4 (u32 c.pay 0))) ∧
  (∀ (dt : Nat) (i : Fin 64) (s : State) (c : Cmd), Holds s (.loc i) c 0x0104 16 → s.pwr.kind ≠ 2 → u64 c.pay 0 % 64 = 0 →
    u16 c.pay 8 ∈ [64, 128, 256, 512, 1024, 2048, 4096] → fld c.pay 10 6 = 0 → (∀ p ∈ s.host.pends, p.who ≠ .loc i) →
    ∃ t, exec (.sessionQueueSetup dt (.loc i)) s = .next t ∧
      Answered ((s.pass dt).setSes (.loc i) { s.ses (.loc i) with
        cq := some { base := BitVec.ofNat 64 (u64 c.pay 0), depth := u16 c.pay 8, reserved := 0, used := 0, tail := 0, phase := true },
        head := 0 }) t (.loc i) c St.ok []) ∧
  (∀ (dt : Nat) (i : Fin 64) (s : State) (c : Cmd), Holds s (.rem i) c 0x0105 8 → s.pwr.kind ≠ 2 → u8 c.pay 0 = 1 → fld c.pay 1 3 = 0 →
    ∃ t, exec (.sessionCompletionAck dt (.rem i)) s = .next t ∧
      Answered ((s.pass dt).setSes (.rem i) ((s.ses (.rem i)).ack (BitVec.ofNat 32 (u32 c.pay 4)))) t (.rem i) c St.ok []) ∧
  (∀ (dt : Nat) (w : Sess) (s : State) (c : Cmd), Holds s w c 0x0107 0 →
    ∃ t, exec (.sessionNop dt w) s = .next t ∧
      Answered (s.pass dt) t w c St.ok
        (leB 2 s.host.epoch.toNat ++ leB 2 0 ++ leB 4 (((s.ses w).ends - (s.pass dt).now) / perMs)))

/-- Rows FUNCTION_LEVEL_RESET, PE_PERST_N, FLR_COMPLETE, PCIE_CONFIG_REQUEST, PCIE_LINK_DOWN, POISONED_TLP (R42 to R44, R70, R77, R563). -/
def Obligations.PcieEventsTakeEffect : Prop :=
  (∀ (dt : Nat) (s : State), ∃ t, exec (.functionLevelReset dt) s = .next t ∧
    t.host.epoch = s.host.epoch + 1 ∧ t.host.ecKind = 4 ∧ t.host.ecEpoch = s.host.epoch + 1 ∧ t.host.flr = true ∧ t.host.msixOn = false ∧
    (∀ i, (t.ses (.loc i)).isOpen = false) ∧ (∀ i, (t.ses (.rem i)).isOpen = (s.ses (.rem i)).isOpen) ∧
    t.params = s.params ∧ t.faults = s.faults ∧ t.motion = s.motion ∧ t.fire = s.fire) ∧
  (∀ (dt : Nat) (s : State), s.pwr.porst = true → exec (.pePerstN dt) s = exec (.functionLevelReset dt) s) ∧
  (∀ (dt : Nat) (s : State), s.pwr.porst = false → exec (.pePerstN dt) s = .next (s.pass dt)) ∧
  (∀ (dt : Nat) (s : State), exec (.flrComplete dt) s = .next { s.pass dt with host := { s.host with flr := false } }) ∧
  (∀ (dt : Nat) (req : CfgReq) (s : State), s.pwr.crs = true →
    exec (.pcieConfigRequest dt req) s = .next { s.pass dt with out := .config true 0 :: s.out }) ∧
  (∀ (dt : Nat) (item : CfgItem) (s : State), s.pwr.crs = false →
    exec (.pcieConfigRequest dt (.read item)) s = .next { s.pass dt with out := .config false (s.cfgValue item) :: s.out } ∧
    (item = .ids → s.cfgValue item = 0x28081DA7) ∧
    (item = .subsys → s.cfgValue item = BitVec.ofNat 64 (s.otp.subsys.toNat * 65536 + s.otp.subven.toNat))) ∧
  (∀ (dt : Nat) (v : BitVec 64) (s : State), s.pwr.crs = false →
    ∃ t, exec (.pcieConfigRequest dt (.write .msix v)) s = .next t ∧ t.host.msixOn = v.getLsbD 15 ∧ t.host.cfg.msixMask = v.getLsbD 14 ∧
      t = { s.pass dt with host := { s.host with msixOn := v.getLsbD 15, cfg := { s.host.cfg with msixMask := v.getLsbD 14 }, pba := t.host.pba }, out := t.out }) ∧
  (∀ (dt : Nat) (item : CfgItem) (v : BitVec 64) (s : State), s.pwr.crs = false → item ≠ .msix →
    ∃ t, exec (.pcieConfigRequest dt (.write item v)) s = .next t ∧
      t = { s.pass dt with host := { s.host with cfg := t.host.cfg }, out := .config false 0 :: s.out } ∧
      (item ∈ [.ids, .cls, .subsys] → t.host.cfg = s.host.cfg) ∧
      (item = .bar false → t.host.cfg.bar0.toNat % 2 ^ 22 = 0) ∧ (item = .bar true → t.host.cfg.bar2.toNat % 2 ^ 28 = 0)) ∧
  (∀ (dt : Nat) (s : State), Takes s F.pcieLinkDown 0 idNone →
    ∃ t, exec (.pcieLinkDown dt) s = .next t ∧ Recorded (s.pass dt) t F.pcieLinkDown 0 idNone 0) ∧
  (∀ (dt : Nat) (bar2 : Bool) (s : State), Takes s F.poisonedTlp 0 idLocal →
    ∃ t, exec (.poisonedTlp dt bar2) s = .next t ∧ Recorded { s.pass dt with host := { s.host with cfg := { s.host.cfg with aer := s.host.cfg.aer ||| 0x1000 } } } t F.poisonedTlp 0 idLocal 2)

/-- Rows DMA_ERROR, DMA_TIMEOUT, FLUE_TIMEOUT (R29, R66). -/
def Obligations.DmaAndFlueFailuresStopTheCommand : Prop :=
  (∀ (dt : Nat) (who : Sess) (seq : BitVec 32) (addr : BitVec 64) (s : State) (p : Pend) (q : Cq),
    s.pend? who seq = some p → (s.ses who).cq = some q → Takes s F.dmaError (addr.toNat % 2 ^ 32) idLocal →
    ∃ t u, exec (.dmaError dt who seq addr) s = .next t ∧ Recorded (s.pass dt) u F.dmaError (addr.toNat % 2 ^ 32) idLocal 4 ∧
      Posted (u.undo p) t p St.faulted p.obj.toNat 0 idHob) ∧
  (∀ (dt : Nat) (who : Sess) (seq : BitVec 32) (addr : BitVec 64) (s : State) (p : Pend) (q : Cq),
    s.pend? who seq = some p → (s.ses who).cq = some q → Takes s F.dmaTimeout (addr.toNat % 2 ^ 32) idLocal →
    ∃ t u, exec (.dmaTimeout dt who seq addr) s = .next t ∧ Recorded (s.pass dt) u F.dmaTimeout (addr.toNat % 2 ^ 32) idLocal 4 ∧
      Posted (u.undo p) t p St.faulted p.obj.toNat 0 idHob) ∧
  (∀ (dt : Nat) (who : Sess) (seq : BitVec 32) (addr : BitVec 64) (s : State) (c : Cmd),
    s.pend? who seq = none → s.cam.ctx.any (fun e => e.2.previews who addr) = false → (s.ses who).cmd = some c → c.seq = seq → c.dma = true →
    (Takes s F.dmaError (addr.toNat % 2 ^ 32) idLocal →
      ∃ t u, exec (.dmaError dt who seq addr) s = .next t ∧ Recorded (s.pass dt) u F.dmaError (addr.toNat % 2 ^ 32) idLocal 4 ∧ Answered u t who c St.faulted []) ∧
    (Takes s F.dmaTimeout (addr.toNat % 2 ^ 32) idLocal →
      ∃ t u, exec (.dmaTimeout dt who seq addr) s = .next t ∧ Recorded (s.pass dt) u F.dmaTimeout (addr.toNat % 2 ^ 32) idLocal 4 ∧ Answered u t who c St.faulted [])) ∧
  (∀ (dt waited : Nat) (master : BitVec 8) (id : BitVec 32) (access : BitVec 4) (who : Option (Sess × BitVec 32)) (s : State),
    waited < s.par P.manageFlueTimeoutUs * perUs → exec (.flueTimeout dt master id access who waited) s = .next (s.pass dt)) ∧
  (∀ (dt waited : Nat) (master : BitVec 8) (id : BitVec 32) (access : BitVec 4) (s : State), s.par P.manageFlueTimeoutUs * perUs ≤ waited →
    Takes s F.flueTimeout id.toNat master.toNat →
    ∃ t, exec (.flueTimeout dt master id access none waited) s = .next t ∧
      Recorded (s.pass dt) t F.flueTimeout id.toNat master.toNat access.toNat) ∧
  (∀ (dt waited : Nat) (master : BitVec 8) (id : BitVec 32) (access : BitVec 4) (w : Sess) (c : Cmd) (s : State),
    s.par P.manageFlueTimeoutUs * perUs ≤ waited → s.pend? w c.seq = none →
    Takes s F.flueTimeout id.toNat master.toNat → (s.ses w).cmd = some c →
    ∃ t u, exec (.flueTimeout dt master id access (some (w, c.seq)) waited) s = .next t ∧
      Recorded (s.pass dt) u F.flueTimeout id.toNat master.toNat access.toNat ∧ Answered u t w c St.timeout []) ∧
  (∀ (dt waited : Nat) (master : BitVec 8) (id : BitVec 32) (access : BitVec 4) (w : Sess) (p : Pend) (q : Cq) (s : State),
    s.par P.manageFlueTimeoutUs * perUs ≤ waited → s.pend? w p.cmd.seq = some p → (s.ses w).cq = some q →
    Takes s F.flueTimeout id.toNat master.toNat →
    ∃ t u, exec (.flueTimeout dt master id access (some (w, p.cmd.seq)) waited) s = .next t ∧
      Recorded (s.pass dt) u F.flueTimeout id.toNat master.toNat access.toNat ∧ Posted (u.undo p) t p St.timeout p.obj.toNat 0 idHob)

/-- Rows JOB_LOAD, JOB_WINDOW_OPEN, BAR2_WRITE, JOB_WINDOW_CLOSE, LOAD_COMPLETE (R46, R84, R86 to R88); the lengths the codec compresses to
are free (log 11). -/
def Obligations.JobLoadPath : Prop :=
  (∀ (dt : Nat) (w : Sess) (s : State) (c : Cmd) (l : List DmaDesc) (a : Bytes), HoldsDma s w c 0x0201 16 l a → HasRoom s w → s.pwr.kind ≠ 2 →
    s.otp.lc ≠ 4 → u16 a 0 < 4096 → fld a 2 14 = 0 → (s.job (u16 a 0)).state = 0 →
    ∃ t, exec (.jobLoad dt w) s = .next t ∧ Waiting ((s.pass dt).setJob (u16 a 0) { state := 1 }) t w c (u16 a 0) [] []) ∧
  (∀ (dt : Nat) (w : Sess) (s : State) (c : Cmd), Holds s w c 0x0202 12 → s.pwr.kind ≠ 2 → u16 c.pay 0 < 4096 → u16 c.pay 2 = 0 →
    u64 c.pay 4 % 4096 = 0 → s.host.bar2 = none → (s.job (u16 c.pay 0)).state = 0 →
    ∃ t, exec (.jobWindowOpen dt w) s = .next t ∧
      Answered { (s.pass dt).setJob (u16 c.pay 0) { state := 1 } with
        host := { s.host with bar2 := some { who := w, index := u16 c.pay 0, off := u64 c.pay 4, isOpen := true } } } t w c St.ok []) ∧
  (∀ (dt : Nat) (w : Sess) (s : State) (c : Cmd) (b : Bar2Win), Holds s w c 0x0202 12 → s.pwr.kind ≠ 2 → u16 c.pay 0 < 4096 → u16 c.pay 2 = 0 →
    u64 c.pay 4 % 4096 = 0 → s.host.bar2 = some b → b.who = w → b.index = u16 c.pay 0 → (s.job b.index).state = 1 → b.off < u64 c.pay 4 →
    ∃ t, exec (.jobWindowOpen dt w) s = .next t ∧
      Answered { s.pass dt with host := { s.host with bar2 := some { b with off := u64 c.pay 4, isOpen := true } } } t w c St.ok []) ∧
  (∀ (dt addr : Nat) (bytes : Bytes) (s : State) (b : Bar2Win), s.windowOpen = true → s.host.bar2 = some b → b.isOpen = true →
    ∃ m, exec (.bar2Write dt addr bytes) s = .next { s.pass dt with host := { s.host with bar2 := some { b with bytes := m } } } ∧
      (∀ k, (h : k < bytes.length) → look m (b.off + addr + k) = some bytes[k]) ∧
      (∀ x, x < b.off + addr ∨ b.off + addr + bytes.length ≤ x → look m x = look b.bytes x)) ∧
  (∀ (dt addr : Nat) (bytes : Bytes) (s : State), (s.windowOpen = false ∨ ∀ b, s.host.bar2 = some b → b.isOpen = false) →
    exec (.bar2Write dt addr bytes) s = .next { s.pass dt with host := { s.host with dropBar2 := sat 8 (s.host.dropBar2 + 1) } }) ∧
  (∀ (dt : Nat) (w : Sess) (s : State) (c : Cmd) (b : Bar2Win), Holds s w c 0x0203 16 → s.pwr.kind ≠ 2 → u16 c.pay 0 < 4096 → u8 c.pay 2 = 0 →
    u8 c.pay 3 = 0 → u64 c.pay 4 = 0 → u32 c.pay 12 = 0 → s.host.bar2 = some b → b.who = w → b.index = u16 c.pay 0 → b.isOpen = true →
    ∃ t, exec (.jobWindowClose dt w) s = .next t ∧
      Answered { s.pass dt with host := { s.host with bar2 := some { b with isOpen := false } } } t w c St.ok []) ∧
  (∀ (dt : Nat) (w : Sess) (s : State) (c : Cmd) (b : Bar2Win), Holds s w c 0x0203 16 → HasRoom s w → s.pwr.kind ≠ 2 → u16 c.pay 0 < 4096 →
    u8 c.pay 2 = 1 → u8 c.pay 3 = 0 → s.host.bar2 = some b → b.who = w → b.index = u16 c.pay 0 → b.isOpen = true →
    ∃ t, exec (.jobWindowClose dt w) s = .next t ∧
      Waiting { s.pass dt with host := { s.host with bar2 := none } } t w c b.index (windowImage b.bytes (u64 c.pay 4)) []) ∧
  (∀ (dt : Nat) (w : Sess) (seq : BitVec 32) (chain : List Bytes) (data img : Bytes) (s : State) (p : Pend) (j : Job),
    s.pend? w seq = some p → (∃ q, (s.ses w).cq = some q) →
    (p.cmd.op = 0x0201 ∧ p.dataIn chain data = some img ∨ p.cmd.op = 0x0203 ∧ p.data = img ∧ crc32c img = BitVec.ofNat 32 (u32 p.cmd.pay 12)) →
    checkImage img = some j → (s.emptyJob p.obj.toNat).libUsed + j.image.length ≤ s.libSize →
    ∃ t u n k, exec (.loadComplete dt w seq chain data) s = .next t ∧ n ≤ j.image.length ∧ (j.compresses = false → n = j.image.length ∧ k = 0) ∧
      u.job p.obj.toNat = { j with state := 2, stored := n, noshrink := k } ∧ (∀ x, x ≠ p.obj.toNat → u.job x = s.job x) ∧
      u = { s.pass dt with lib := { s.lib with dir := u.lib.dir }, chip := { s.chip with jobs := u.chip.jobs, noshr := u.chip.noshr, strErr := u.chip.strErr }, free := u.free } ∧
      Posted u t p St.ok p.obj.toNat n (if j.compresses then idCodec else idHob)) ∧
  (∀ (dt : Nat) (w : Sess) (seq : BitVec 32) (chain : List Bytes) (data img : Bytes) (s : State) (p : Pend),
    s.pend? w seq = some p → (∃ q, (s.ses w).cq = some q) →
    (p.cmd.op = 0x0201 ∧ p.dataIn chain data = some img ∨ p.cmd.op = 0x0203 ∧ p.data = img ∧ crc32c img = BitVec.ofNat 32 (u32 p.cmd.pay 12)) →
    checkImage img = none →
    ∃ t, exec (.loadComplete dt w seq chain data) s = .next t ∧ Posted ((s.pass dt).emptyJob p.obj.toNat) t p St.badParam p.obj.toNat 0 idHob)

/-- Rows JOB_STAGE, STAGE_COMPLETE, JOB_UNSTAGE, JOB_DELETE, JOB_INFO, JOB_EXPORT, EXPORT_COMPLETE, JOB_DEFECTS (R83, R84, R88 to R90, R134, R496). -/
def Obligations.JobStageAndKeep : Prop :=
  (∀ (dt : Nat) (w : Sess) (s : State) (c : Cmd), Holds s w c 0x0204 4 → HasRoom s w → s.pwr.kind ≠ 2 → s.otp.lc ≠ 4 → u16 c.pay 0 < 4096 →
    u16 c.pay 2 = 0 → (s.job (u16 c.pay 0)).state = 2 →
    ∃ t, exec (.jobStage dt w) s = .next t ∧
      Waiting ((s.pass dt).setJob (u16 c.pay 0) { s.job (u16 c.pay 0) with state := 3 }) t w c (u16 c.pay 0) [] []) ∧
  (∀ (dt : Nat) (w : Sess) (seq : BitVec 32) (keyOk : Bool) (plain : List (Nat × Option Bytes)) (s : State) (p : Pend) (j : Job)
      (bands : List Section) (need : Nat) (m : SMap Bytes),
    s.pend? w seq = some p → (∃ q, (s.ses w).cq = some q) → p.cmd.op = 0x0204 → s.job p.obj.toNat = j →
    (j.encrypted = true → s.encDenied = false ∧ s.kekMissing j = false ∧ keyOk = true) →
    bands = (ofType j.secs 1).filter (fun x => decide (x.plane < j.planes)) → need = (bands.map (fun x => j.bandBytes x.index)).sum →
    s.stageUsed + need ≤ s.stageSize → expandAll j bands plain [] = .ok m → j.regionsOk = true →
    ∃ t, exec (.stageComplete dt w seq keyOk plain) s = .next t ∧
      Posted ((if j.deflated then (s.pass dt).codecRan bands.length 0 0 else s.pass dt).setJob p.obj.toNat
        { j with state := 4, staged := m, stageBytes := need }) t p St.ok p.obj.toNat need
        (if j.encrypted then idFender else if j.deflated then idCodec else idHob)) ∧
  (∀ (dt : Nat) (w : Sess) (seq : BitVec 32) (keyOk : Bool) (plain : List (Nat × Option Bytes)) (s : State) (p : Pend),
    s.pend? w seq = some p → (∃ q, (s.ses w).cq = some q) → p.cmd.op = 0x0204 → (s.job p.obj.toNat).encrypted = true → s.encDenied = true →
    ∃ t, exec (.stageComplete dt w seq keyOk plain) s = .next t ∧
      Posted ((s.pass dt).setJob p.obj.toNat { s.job p.obj.toNat with state := 2, staged := [], stageBytes := 0 }) t p St.denied p.obj.toNat 0 idFender) ∧
  (∀ (dt : Nat) (w : Sess) (s : State) (c : Cmd), Holds s w c 0x0205 4 → s.pwr.kind ≠ 2 → u16 c.pay 0 < 4096 → u16 c.pay 2 = 0 →
    ((s.job (u16 c.pay 0)).state = 4 ∨ (s.job (u16 c.pay 0)).state = 7) →
    ∃ t, exec (.jobUnstage dt w) s = .next t ∧
      Answered ((s.pass dt).setJob (u16 c.pay 0) { s.job (u16 c.pay 0) with state := 2, staged := [], stageBytes := 0 }) t w c St.ok []) ∧
  (∀ (dt : Nat) (w : Sess) (s : State) (c : Cmd), Holds s w c 0x0206 4 → s.pwr.kind ≠ 2 → u16 c.pay 0 < 4096 → u16 c.pay 2 = 0 →
    (s.job (u16 c.pay 0)).state = 2 →
    ∃ t, exec (.jobDelete dt w) s = .next t ∧ Answered ((s.pass dt).emptyJob (u16 c.pay 0)) t w c St.ok [] ∧
      (t.job (u16 c.pay 0)).state = 0 ∧ (∀ k, k ≠ u16 c.pay 0 → t.job k = s.job k)) ∧
  (∀ (dt : Nat) (w : Sess) (s : State) (c : Cmd), Holds s w c 0x0207 4 → s.pwr.kind ≠ 2 → u16 c.pay 0 < 4096 → u16 c.pay 2 = 0 →
    ∃ t, exec (.jobInfo dt w) s = .next t ∧
      Answered (s.pass dt) t w c St.ok ({ s.job (u16 c.pay 0) with printed := s.printedOf (u16 c.pay 0) } : Job).info) ∧
  (∀ (dt : Nat) (w : Sess) (s : State) (c : Cmd) (l : List DmaDesc) (a : Bytes), HoldsDma s w c 0x0208 16 l a → HasRoom s w → s.pwr.kind ≠ 2 →
    u16 a 0 < 4096 → fld a 2 14 = 0 → 2 ≤ (s.job (u16 a 0)).state →
    ∃ t, exec (.jobExport dt w) s = .next t ∧ Waiting (s.pass dt) t w c (u16 a 0) (s.job (u16 a 0)).image []) ∧
  (∀ (dt : Nat) (w : Sess) (seq : BitVec 32) (chain : List Bytes) (s : State) (p : Pend) (l : List DmaDesc),
    s.pend? w seq = some p → (∃ q, (s.ses w).cq = some q) → p.cmd.op = 0x0208 → p.descs chain = some l → p.data.length ≤ total l →
    ∃ t, exec (.exportComplete dt w seq chain) s = .next t ∧
      Posted ((s.pass dt).emits (scatter l p.data)) t p St.ok p.obj.toNat p.data.length idHob) ∧
  (∀ (dt : Nat) (w : Sess) (s : State) (c : Cmd), Holds s w c 0x020C 0 → s.pwr.kind ≠ 2 →
    ∃ t, exec (.jobDefects dt w) s = .next t ∧
      Answered { s.pass dt with raster := { s.raster with defects := s.raster.defects.drop 7, lost := 0, ovf := false } } t w c St.ok
        (leB 1 (s.raster.defects.take 7).length ++ leB 3 0 ++ leB 4 s.raster.lost ++ (s.raster.defects.take 7).flatMap Defect.bytes))

/-- Rows HOPPER_SETUP, HOPPER_PUSH, HOPPER_PUSH_COMPLETE, HOPPER_STATUS, HOPPER_FORECAST (R91, R92, R94, R95, R106 to R108). -/
def Obligations.HopperRingsFillAndForecast : Prop :=
  (∀ (dt r : Nat) (w : Sess) (s : State) (c : Cmd), Holds s w c 0x0209 12 → s.pwr.kind ≠ 2 → u8 c.pay 0 = r → r ≤ 15 → fld c.pay 1 3 = 0 →
    u32 c.pay 8 = 0 → s.ringNamed r = false →
    ∃ t, exec (.hopperSetup dt w) s = .next t ∧
      Answered { s.pass dt with lib := { s.lib with rings := cut s.lib.rings r } } t w c St.ok []) ∧
  (∀ (dt r rb d : Nat) (w : Sess) (s : State) (c : Cmd), Holds s w c 0x0209 12 → s.pwr.kind ≠ 2 → u8 c.pay 0 = r → r ≤ 15 → fld c.pay 1 3 = 0 →
    u32 c.pay 4 = rb → 64 ≤ rb → rb ≤ 2 ^ 24 → rb % 64 = 0 → u32 c.pay 8 = d → 2 ≤ d → d ≤ 65536 → s.ringNamed r = false →
    ({ s with lib := { s.lib with rings := cut s.lib.rings r } } : State).stageUsed + rb * d ≤ s.stageSize →
    ∃ t, exec (.hopperSetup dt w) s = .next t ∧
      Answered ({ s.pass dt with lib := { s.lib with rings := cut s.lib.rings r } }.setRing r { recBytes := rb, depth := d }) t w c St.ok []) ∧
  (∀ (dt r n : Nat) (w : Sess) (s : State) (c : Cmd) (l : List DmaDesc) (a : Bytes), HoldsDma s w c 0x020A 16 l a → HasRoom s w → s.pwr.kind ≠ 2 →
    u8 a 0 = r → r ≤ 15 → fld a 1 3 = 0 → fld a 8 8 = 0 → u32 a 4 = n → (s.ring r).recBytes ≠ 0 →
    (chainOf l = none → total l = n * (s.ring r).recBytes) → (s.ring r).fill + s.pushing r + n ≤ (s.ring r).depth →
    ∃ t, exec (.hopperPush dt w) s = .next t ∧ Waiting (s.pass dt) t w c r [] []) ∧
  (∀ (dt r n : Nat) (w : Sess) (seq : BitVec 32) (chain : List Bytes) (data b : Bytes) (s : State) (p : Pend) (y : Ring),
    s.pend? w seq = some p → (∃ q, (s.ses w).cq = some q) → p.cmd.op = 0x020A → u8 p.cmd.arg 0 = r → u32 p.cmd.arg 4 = n →
    p.dataIn chain data = some b → b.length = n * (s.ring r).recBytes → (s.ring r).fill + n ≤ (s.ring r).depth → Calm s F.hopperLow →
    y = { s.ring r with recs := (s.ring r).recs ++ (chunks (s.ring r).recBytes n b).map parseRec } →
    ∃ t u, exec (.hopperPushComplete dt w seq chain data) s = .next t ∧ u.motion.hopper = ((s.pass dt).setRing r y).hopperForecast ∧
      RingsKept { (s.pass dt).setRing r y with motion := { s.motion with hopper := u.motion.hopper } } u ∧
      Posted u t p St.ok p.obj.toNat y.fill idHob) ∧
  (∀ (dt r : Nat) (w : Sess) (s : State) (c : Cmd) (a : Option Nat), Holds s w c 0x020B 4 → s.pwr.kind ≠ 2 → u8 c.pay 0 = r → r ≤ 15 →
    fld c.pay 1 3 = 0 → a = (if s.ringNamed r then s.ringLines r else none) →
    ∃ t, exec (.hopperStatus dt w) s = .next t ∧
      Answered (s.pass dt) t w c St.ok
        (leB 4 (s.ring r).fill ++ leB 4 (s.ring r).depth ++ leB 4 (s.ring r).recBytes ++
          leB 4 (match a with | some v => sat 32 v | none => 0xFFFFFFFF) ++
          leB 4 (match a with | some v => if s.lps = 0 then 0xFFFFFFFF else sat 32 (v * 1000 / s.lps) | none => 0xFFFFFFFF) ++
          leB 4 s.lib.binding.rep ++ leB 2 s.lib.binding.job ++ leB 2 0 ++ leB 2 s.lib.binding.mask ++ leB 2 0 ++
          (List.range 16).flatMap (fun k => leB 4 (sel s.lib.binding.tags k 0).toNat))) ∧
  (∀ (dt : Nat) (s : State), Calm s F.hopperLow →
    ∃ t, exec (.hopperForecast dt) s = .next t ∧ t.motion.hopper = (s.pass dt).hopperForecast ∧
      RingsKept { s.pass dt with motion := { s.motion with hopper := t.motion.hopper } } t)

/-- Rows SPLICE_ARM, SPLICE_DISARM, SPLICE_EVENTS, SPLICE_STOP (R96 to R98, R103, R105); the unused entry number an armed splice takes is
free (log 11). -/
def Obligations.SplicesArmAndStop : Prop :=
  (∀ (dt i ref input value : Nat) (off : Int) (w : Sess) (s : State) (c : Cmd) (lam : Option Nat),
    Holds s w c 0x0301 16 → s.pwr.kind ≠ 2 → u16 c.pay 0 = i → i < 4096 → u8 c.pay 2 = ref → ref ≤ 2 → u8 c.pay 3 = input → input ≤ 3 →
    (ref = 1 ∨ input = 0) → u32 c.pay 4 = value → (ref ≠ 1 ∨ 1 ≤ value) → signed 32 (u32 c.pay 8) = off → u32 c.pay 12 = 0 →
    ((s.job i).state = 4 ∨ (s.job i).state = 7) → s.otp.lc ≠ 4 →
    lam = (if ref = 0 then some (shift32 value off) else if ref = 2 then (s.repeatLine value).map (fun l => shift32 l off) else none) →
    (ref = 2 → lam ≠ none) → (∀ l, lam = some l → (s.par P.fireSpliceLeadLines : Int) ≤ since l s.pos) →
    (lam = none → (s.par P.fireSpliceLeadLines : Int) ≤ off) → (∀ l q, lam = some l → s.prevLam = some q → (s.minGap : Int) ≤ since l q) →
    (ref = 1 → (sel s.motion.marks input {}).locked = true) → s.splicesPending < 3 →
    s.pressMax ≤ s.limitOf (demandOf s.geo ((s.job i).pre :: s.activeJobs.map (fun p => p.2.pre))) → s.twinClash (s.job i) = false →
    (s.job i).lpi = s.par P.motionFirePitch → Calm s F.hopperLow →
    ∃ t u v e, exec (.spliceArm dt w) s = .next t ∧ e < 3 ∧ e ∉ s.usedEntries ∧
      v = ({ (s.pass dt).setJob i { s.job i with state := 5 } with
        splice := { s.splice with armed := s.splice.armed ++
          [{ entry := e, job := i, lam := lam, ref := ref, input := input, left := if ref = 1 then value else 0, off := off }] }
        free := s.free + 1 } : State).spliceEvent 1 0xFF i (lam.getD 0xFFFFFFFF) 0 ∧
      u.motion.hopper = v.hopperForecast ∧ RingsKept { v with motion := { v.motion with hopper := u.motion.hopper } } u ∧
      Answered u t w c St.ok (leB 4 (lam.getD 0xFFFFFFFF) ++ leB 1 e ++ leB 3 0)) ∧
  (∀ (dt i : Nat) (w : Sess) (s : State) (c : Cmd) (a : Armed), Holds s w c 0x0302 4 → s.pwr.kind ≠ 2 → u16 c.pay 0 = i → i < 4096 →
    u16 c.pay 2 = 0 → s.splice.armed.find? (fun a => a.job == i) = some a → Calm s F.hopperLow →
    ∃ t u v, exec (.spliceDisarm dt w) s = .next t ∧
      v = { (s.pass dt).setJob i { s.job i with state := 4 } with
        splice := { s.splice with armed := s.splice.armed.filter (fun x => x.job != i) } } ∧
      u.motion.hopper = v.hopperForecast ∧ RingsKept { v with motion := { v.motion with hopper := u.motion.hopper } } u ∧
      Answered u t w c St.ok []) ∧
  (∀ (dt : Nat) (w : Sess) (s : State) (c : Cmd), Holds s w c 0x0303 0 → s.pwr.kind ≠ 2 →
    ∃ t, exec (.spliceEvents dt w) s = .next t ∧
      Answered { s.pass dt with splice := { s.splice with events := s.splice.events.drop 14, lost := 0 } } t w c St.ok
        (eventRead ((s.splice.events.take 14).map SpliceEvent.bytes) s.splice.lost)) ∧
  (∀ (dt i n : Nat) (w : Sess) (s : State) (c : Cmd) (r : Run), Holds s w c 0x0304 4 → s.pwr.kind ≠ 2 → u16 c.pay 0 = i → i < 4096 →
    u16 c.pay 2 = 0 → s.atDatum = some r → r.job = i → (s.job i).state = 6 → Calm s F.hopperLow →
    n = (let cur := back s.pos r.lam / max 1 (s.job i).repLines + 1
         if (s.job i).repCount = 0 then cur else min (s.job i).repCount cur) →
    ∃ t u v, exec (.spliceStop dt w) s = .next t ∧ v = (s.pass dt).setJob i { s.job i with repCount := n } ∧
      u.motion.hopper = v.hopperForecast ∧ RingsKept { v with motion := { v.motion with hopper := u.motion.hopper } } u ∧
      Answered u t w c St.ok (leB 4 n ++ leB 4 (fwd r.lam (n * (s.job i).repLines))))

/-- Row DRAUGHT_DEADLINE_MISS (R30, R33, R126, R134). -/
def Obligations.MissedDeadlinesMakeLinesLate : Prop :=
  (∀ (dt line : Nat) (mon : Fin 64) (late : List (Fin 20 × Fin 2)) (s : State),
    (s.carries mon.val line = false ∨ look s.fire.views line = none) →
    exec (.draughtDeadlineMiss dt mon line late) s = .next (s.pass dt)) ∧
  (∀ (dt line : Nat) (mon : Fin 64) (late : List (Fin 20 × Fin 2)) (s : State), (mon.val = 50 ∨ mon.val = 48 + (s.view line).desc.unit) →
    mon.val = 48 ∨ mon.val = 49 ∨ mon.val = 50 → (look s.fire.views line).isSome = true → s.fb.overdue ≠ some line → (line, 8) ∉ s.draught.recd →
    Takes s F.lateLine line idNone →
    ∃ t u, exec (.draughtDeadlineMiss dt mon line late) s = .next t ∧ Recorded u t F.lateLine line idNone 0 ∧
      u = { s.pass dt with
        draught := { s.draught with missed := addTo s.draught.missed (line, mon.val), recd := s.draught.recd ++ [(line, 8)] }
        raster := { s.raster with lateAll := addTo s.raster.lateAll line } } ∧
      ∀ b, t.isLate line b = true) ∧
  (∀ (dt line b : Nat) (mon : Fin 64) (late : List (Fin 20 × Fin 2)) (s : State),
    (mon.val = 54 + b ∨ ∃ k, 1 ≤ k ∧ k ≤ 5 ∧ mon.val = 6 * b + k) → b < 8 → s.carries mon.val line = true →
    (look s.fire.views line).isSome = true → s.fb.overdue ≠ some line → s.recorded line b = false → s.raster.defects.length < 256 →
    Takes s F.barLate b idNone →
    ∃ t u d, exec (.draughtDeadlineMiss dt mon line late) s = .next t ∧ Recorded u t F.barLate b idNone 0 ∧
      d.kind = 5 ∧ d.bar = b ∧ d.line = line ∧ d.count = 1 ∧
      u = { s.pass dt with
        draught := { s.draught with missed := addTo s.draught.missed (line, mon.val), recd := s.draught.recd ++ [(line, b)] }
        raster := { s.raster with
          late := addTo s.raster.late (line, b), defects := s.raster.defects ++ [{ d with t32 := (s.pass dt).t32 }], posted := s.raster.posted ++ [d] } } ∧
      t.isLate line b = true) ∧
  (∀ (dt line b low : Nat) (mon : Fin 64) (late : List (Fin 20 × Fin 2)) (s : State), mon.val = 6 * b → b < 8 → s.carries mon.val line = true →
    (∃ rg, (low, rg) ∈ late.map (fun e => (e.1.val, e.2.val))) → (∀ e ∈ late, low ≤ e.1.val) →
    (look s.fire.views line).isSome = true → s.fb.overdue ≠ some line → s.recorded line b = false → s.raster.defects.length < 256 →
    Takes s F.fetchLate (20 * b + low) idNone →
    ∃ t u d, exec (.draughtDeadlineMiss dt mon line late) s = .next t ∧ Recorded u t F.fetchLate (20 * b + low) idNone 0 ∧
      d.kind = 4 ∧ d.bar = b ∧ d.slot = (if late.length = 1 then low else 0xFF) ∧ d.line = line ∧ d.count = 1 ∧
      u = { s.pass dt with
        draught := { s.draught with missed := addTo s.draught.missed (line, mon.val), recd := s.draught.recd ++ [(line, b)] }
        raster := { s.raster with
          late := addTo s.raster.late (line, b), defects := s.raster.defects ++ [{ d with t32 := (s.pass dt).t32 }], posted := s.raster.posted ++ [d] } } ∧
      t.isLate line b = true) ∧
  (∀ (dt line b : Nat) (mon : Fin 64) (late : List (Fin 20 × Fin 2)) (s : State), monBar mon.val = some b → s.carries mon.val line = true →
    (look s.fire.views line).isSome = true → s.fb.overdue ≠ some line → s.recorded line b = true →
    exec (.draughtDeadlineMiss dt mon line late) s = .next { s.pass dt with
      draught := { s.draught with missed := addTo s.draught.missed (line, mon.val) }
      raster := { s.raster with late := addTo s.raster.late (line, b) } }) ∧
  (∀ (dt line : Nat) (mon : Fin 64) (late : List (Fin 20 × Fin 2)) (s : State), mon.val ∈ [51, 52, 53, 62, 63] →
    (look s.fire.views line).isSome = true →
    exec (.draughtDeadlineMiss dt mon line late) s = .next { s.pass dt with
      draught := { s.draught with missed := addTo s.draught.missed (line, mon.val) } })

/-- Rows DRAUGHT_LINE_CLOSE, DRAUGHT_RECOVER (R31, R32, R35, R36, R38, R39). Rows DRAUGHT_WINDOW_END, VCORE_READBACK (R32, R34, R35, R505). -/
def Obligations.DraughtFollowsTheWorstRatio : Prop :=
  (∀ (dt line w hi lo : Nat) (mons : List MonRec) (s : State), hi = s.par P.manageDraughtHiRatio → lo = s.par P.manageDraughtLoRatio →
    w ≤ 0xFFFF → (∀ r ∈ mons, r.mon < 64 → s.carries r.mon line = true → w ≤ r.ratio) →
    (w = 0xFFFF ∨ ∃ r ∈ mons, r.mon < 64 ∧ s.carries r.mon line = true ∧ r.ratio = w) →
    lo ≤ w → (∀ m, (line, m) ∉ s.draught.missed) → (w < hi → s.draught.stopped = false) →
    ∃ t, exec (.draughtLineClose dt line mons) s = .next t ∧ t = { s.pass dt with draught := t.draught } ∧
      t.draught.worst = w ∧ t.draught.good = (if w < hi then 0 else s.draught.good + 1) ∧
      (s.draught.inWindow line = true → s.draught.lines < s.par P.manageDraughtWindowLines →
        t.draught.lines = s.draught.lines + 1 ∧ t.draught.margin = (s.draught.margin || decide (w < hi)) ∧
        t.draught.allRelax = (s.draught.allRelax && decide (s.par P.manageDraughtRelaxRatio ≤ w)) ∧ t.draught.ahead = s.draught.ahead) ∧
      (s.draught.inWindow line = true → s.par P.manageDraughtWindowLines ≤ s.draught.lines →
        (t.draught.lines, t.draught.margin, t.draught.allRelax) = (s.draught.lines, s.draught.margin, s.draught.allRelax) ∧
        t.draught.ahead = s.draught.ahead ++ [(decide (w < hi), decide (s.par P.manageDraughtRelaxRatio ≤ w))]) ∧
      (s.draught.inWindow line = false →
        (t.draught.lines, t.draught.margin, t.draught.allRelax, t.draught.ahead) = (s.draught.lines, s.draught.margin, s.draught.allRelax, s.draught.ahead)) ∧
      (∀ r ∈ mons, r.mon < 64 → sel t.draught.minR r.mon 0xFFFF ≤ min 0xFFFF r.ratio) ∧
      (∀ m, sel t.draught.minR m 0xFFFF ≤ sel s.draught.minR m 0xFFFF) ∧
      (t.draught.setMv, t.draught.nowMv, t.draught.stopped, t.draught.relaxN) =
        (s.draught.setMv, s.draught.nowMv, s.draught.stopped, s.draught.relaxN)) ∧
  (∀ (dt line c : Nat) (mons : List MonRec) (s : State),
    ((∃ r ∈ mons, r.mon < 64 ∧ s.carries r.mon line = true ∧ min 0xFFFF r.ratio < s.par P.manageDraughtLoRatio) ∨ (∃ m, (line, m) ∈ s.draught.missed)) →
    s.motion.draught = c → s.par P.motionCeilingDraughtFloorLps < c →
    (∀ n, s.draught.sinceLow = some n → s.par P.motionCeilingDraughtMinLines ≤ n + 1) → Takes s F.draughtCeiling 0 idNone →
    ∃ t u v, exec (.draughtLineClose dt line mons) s = .next t ∧ t = u.refresh ∧ Recorded v u F.draughtCeiling 0 idNone 0 ∧
      v.motion.draught = min c (max (s.par P.motionCeilingDraughtFloorLps) (c - c * s.par P.motionCeilingDraughtStepPm / 1000)) ∧
      v.draught.good = 0 ∧ v.draught.sinceLow = some 0 ∧ (s.draught.inWindow line = true → s.draught.lines < s.par P.manageDraughtWindowLines → s.par P.manageDraughtLoRatio ≤ s.par P.manageDraughtHiRatio →
        v.draught.margin = true) ∧
      v = { s.pass dt with draught := v.draught, motion := { s.motion with draught := v.motion.draught } }) ∧
  (∀ (dt line : Nat) (mons : List MonRec) (s : State),
    ((∃ r ∈ mons, r.mon < 64 ∧ s.carries r.mon line = true ∧ min 0xFFFF r.ratio < s.par P.manageDraughtLoRatio) ∨ (∃ m, (line, m) ∈ s.draught.missed)) →
    s.motion.draught ≤ s.par P.motionCeilingDraughtFloorLps →
    (∀ n, s.draught.sinceFloor = some n → s.par P.motionCeilingDraughtMinLines ≤ n + 1) → Takes s F.draughtFloor 0 idNone →
    ∃ t u, exec (.draughtLineClose dt line mons) s = .next t ∧ Recorded u t F.draughtFloor 0 idNone 0 ∧ u = { s.pass dt with draught := u.draught } ∧
      u.draught.good = 0 ∧ u.draught.sinceFloor = some 0) ∧
  (∀ (dt line n : Nat) (mons : List MonRec) (s : State),
    ((∃ r ∈ mons, r.mon < 64 ∧ s.carries r.mon line = true ∧ min 0xFFFF r.ratio < s.par P.manageDraughtLoRatio) ∨ (∃ m, (line, m) ∈ s.draught.missed)) →
    ((if s.motion.draught ≤ s.par P.motionCeilingDraughtFloorLps then s.draught.sinceFloor else s.draught.sinceLow) = some n) →
    n + 1 < s.par P.motionCeilingDraughtMinLines →
    ∃ t, exec (.draughtLineClose dt line mons) s = .next t ∧ t = { s.pass dt with draught := t.draught } ∧ t.draught.good = 0) ∧
  (∀ (dt : Nat) (s : State), s.draught.good < s.par P.motionCeilingRecoverLines → exec (.draughtRecover dt) s = .next (s.pass dt)) ∧
  (∀ (dt c : Nat) (s : State), s.par P.motionCeilingRecoverLines ≤ s.draught.good → s.motion.draught = c →
    ∃ t u, exec (.draughtRecover dt) s = .next t ∧ t = u.refresh ∧ t.motion.draught = u.motion.draught ∧
      u = { s.pass dt with
        motion := { s.motion with draught := max c (min s.pressMax (c + c * s.par P.motionCeilingRecoverStepPm / 1000)) }
        draught := { s.draught with good := 0 } }) ∧
  (∀ (dt : Nat) (s : State), (s.draught.waiting = true ∨ s.draught.lines < s.par P.manageDraughtWindowLines) →
    exec (.draughtWindowEnd dt) s = .next (s.pass dt)) ∧
  (∀ (dt : Nat) (s : State), s.draught.waiting = false → s.par P.manageDraughtWindowLines ≤ s.draught.lines → s.draught.margin = true →
    s.draught.stopped = false → s.draught.setMv < s.par P.manageVcoreMaxMv → Takes s F.draughtMargin 0 idNone →
    ∃ t u v, exec (.draughtWindowEnd dt) s = .next t ∧ Recorded v u F.draughtMargin 0 idNone 0 ∧
      v = { s.pass dt with draught := s.draught.nextWindow (s.par P.manageDraughtWindowLines) v.draught.relaxN } ∧
      t = State.vcoreBus { u with
        draught := { s.draught with lines := 0, margin := false, allRelax := true, ahead := [], winFrom := none, relaxN := v.draught.relaxN,
                                    setMv := min (s.par P.manageVcoreMaxMv) (s.draught.setMv + s.par P.manageVcoreStepMv), waiting := true }
        mgmt := { u.mgmt with vcoreAt := (s.pass dt).now } } [(0x21, some (min (s.par P.manageVcoreMaxMv) (s.draught.setMv + s.par P.manageVcoreStepMv))), (0x8B, none)]) ∧
  (∀ (dt c : Nat) (s : State), s.draught.waiting = false → s.par P.manageDraughtWindowLines ≤ s.draught.lines → s.draught.margin = true →
    s.par P.manageVcoreMaxMv ≤ s.draught.setMv → s.motion.draught = c → s.draught.ahead = [] → (∀ n ∈ [F.draughtMargin, F.vcoreAtMax, F.draughtCeiling], Calm s n) →
    ∃ t, exec (.draughtWindowEnd dt) s = .next t ∧
      t.motion.draught = min c (max (s.par P.motionCeilingDraughtFloorLps) (c - c * s.par P.motionCeilingDraughtStepPm / 1000)) ∧
      t.draught.setMv = s.draught.setMv ∧ t.draught.waiting = false ∧ t.draught.lines = 0 ∧
      (Takes s F.vcoreAtMax 0 idNone → (t.src F.vcoreAtMax).sticky = true) ∧
      Touched { s.pass dt with motion := { s.motion with draught := t.motion.draught }, draught := t.draught } t) ∧
  (∀ (dt n : Nat) (s : State), s.draught.waiting = false → s.par P.manageDraughtWindowLines ≤ s.draught.lines → s.draught.margin = false →
    n = (if s.draught.allRelax then s.draught.relaxN + 1 else 0) → n < s.par P.manageDraughtRelaxWindows →
    exec (.draughtWindowEnd dt) s = .next { s.pass dt with draught := s.draught.nextWindow (s.par P.manageDraughtWindowLines) n } ∧
    (s.draught.ahead = [] → s.draught.nextWindow (s.par P.manageDraughtWindowLines) n =
      { s.draught with lines := 0, margin := false, allRelax := true, relaxN := n, winFrom := none }) ∧
    (s.draught.ahead.length ≤ s.par P.manageDraughtWindowLines →
      (s.draught.nextWindow (s.par P.manageDraughtWindowLines) n).lines = s.draught.ahead.length ∧
      (s.draught.nextWindow (s.par P.manageDraughtWindowLines) n).margin = s.draught.ahead.any (fun e => e.1))) ∧
  (∀ (dt low : Nat) (s : State), s.draught.waiting = false → s.par P.manageDraughtWindowLines ≤ s.draught.lines → s.draught.margin = false →
    s.draught.allRelax = true → s.par P.manageDraughtRelaxWindows ≤ s.draught.relaxN + 1 → s.draught.stopped = false →
    low = max (s.par P.manageVcoreMinMv) (s.draught.setMv - s.par P.manageVcoreStepMv) → low < s.draught.setMv →
    exec (.draughtWindowEnd dt) s = .next ({ s.pass dt with
      draught := { s.draught with lines := 0, margin := false, allRelax := true, ahead := [], winFrom := none, relaxN := 0, setMv := low, waiting := true }
      mgmt := { s.mgmt with vcoreAt := (s.pass dt).now } }.vcoreBus [(0x21, some low), (0x8B, none)])) ∧
  (∀ (dt mv : Nat) (ack : Bool) (s : State), s.draught.waiting = false → exec (.vcoreReadback dt ack mv) s = .next (s.pass dt)) ∧
  (∀ (dt mv : Nat) (s : State), s.draught.waiting = true → mv ≤ s.draught.setMv + 10 → s.draught.setMv ≤ mv + 10 →
    exec (.vcoreReadback dt true mv) s = .next { s.pass dt with draught := { s.draught with nowMv := max 680 (min 860 mv), waiting := false, winFrom := some s.fire.next } }) ∧
  (∀ (dt mv : Nat) (ack : Bool) (s : State), s.draught.waiting = true → (ack = false ∨ s.draught.setMv + 10 < mv ∨ mv + 10 < s.draught.setMv) →
    Takes s F.vcorePmbus 0 idNone →
    ∃ t, exec (.vcoreReadback dt ack mv) s = .next t ∧
      Recorded { s.pass dt with draught := { s.draught with nowMv := if ack then max 680 (min 860 mv) else s.draught.nowMv, stopped := true, waiting := false, winFrom := some s.fire.next } }
        t F.vcorePmbus 0 idNone 0) ∧
  (∀ (r : MonRec), (r.release < r.completion → r.ratio = min 0xFFFF (256 * (r.deadline - r.release) / (r.completion - r.release))) ∧
    (r.completion ≤ r.release → r.ratio = 0xFFFF))

/-- Rows LINE_BOUNDARY, BANK_LOAD_DONE, BANK_RELOAD_DONE (R28, R141, R165, R169, R184 to R186, R206, R210, R212). -/
def Obligations.LinesAreIssued : Prop :=
  (∀ (dt : Nat) (cmp : DescCompare) (ecc : List (Nat × Bool)) (bad : Bool) (s : State), (s.pass dt).issueDue = false →
    exec (.lineBoundary dt cmp ecc bad) s = .next (s.pass dt)) ∧
  (∀ (dt p : Nat) (cmp : DescCompare) (ecc : List (Nat × Bool)) (bad : Bool) (s : State), (s.pass dt).issueDue = true → s.fire.next = p → p < 2 ^ 32 →
    (cmp = .agree ∨ s.fb.st s.fb.standby = 4 ∨ s.fb.st s.fb.standby = 5) →
    (∀ n ∈ [F.hopperRecordBad, F.hopperStarved, F.hopperLow, F.spliceBankLate, F.memorySaveFail, F.jobRanOut, F.descCrc], Calm s n) →
    (∀ e ∈ s.params.pendLine, e.2.1 ∉ [P.motionFirePitch.id, P.motionFireChannel.id, P.motionFireBackup.id]) →
    ∃ t d, exec (.lineBoundary dt cmp ecc bad) s = .next t ∧
      d.line = p ∧ d.unit = s.fb.active ∧ d.bad = bad ∧ d.frozen = false ∧ d.held = false ∧ d.fallback = false ∧ d.sent = [] ∧
      (s.fire.unlock = true → d.noFire = true) ∧
      (bad = false → d.noFire = (t.fireHeld || s.fire.unlock) ∧ d.mute = (List.range 160).filter t.slotMuted) ∧
      (s.motion.vValid = false → d.edge = true) ∧ t.fire.sched = !d.edge ∧
      t.fire.descs = s.fire.descs ++ [d] ∧ t.fire.next = (p + 1) % 2 ^ 32 ∧ t.fire.modeNow = b2n d.edge ∧
      (∃ v, look t.fire.views p = some v ∧ v.desc = d ∧ v.par = t.params.line) ∧
      t.fire.muted = s.fire.muted ++ d.mute.map (fun i => (p, i)) ∧
      t.params = ((s.pass dt).applyParams p).params ∧ t.fb.lastIssue = p ∧ t.fb.active = s.fb.active ∧ t.clk = (s.pass dt).clk ∧
      (t.fire.lastFired, t.fire.lastLink, t.fire.later, t.fire.heldL, t.fire.noFired) =
        (s.fire.lastFired, s.fire.lastLink, s.fire.later, s.fire.heldL, s.fire.noFired) ∧
      (bad = true → Takes s F.descCrc p idNone → (t.src F.descCrc).sticky = true)) ∧
  (∀ (dt : Nat) (bar : Fin 8) (s : State), s.coreRuns bar.val = false →
    exec (.bankLoadDone dt bar) s = .next (s.pass dt) ∧ exec (.bankReloadDone dt bar) s = .next (s.pass dt)) ∧
  (∀ (dt : Nat) (bar : Fin 8) (s : State), s.coreRuns bar.val = true →
    ∃ t, exec (.bankLoadDone dt bar) s = .next t ∧ t = { s.pass dt with grates := t.grates } ∧ (∀ b, b ≠ bar.val → t.grate b = s.grate b) ∧
      (t.grate bar.val).bankLate = false ∧
      (∀ k x, k < 2 → (s.grate bar.val).bank k = x → x.tag = 0xFFFF ∨ x.loaded = true → (t.grate bar.val).bank k = x) ∧
      (∀ k x, k < 2 → (s.grate bar.val).bank k = x → x.tag ≠ 0xFFFF → x.loaded = false →
        ((t.grate bar.val).bank k).tag = x.tag ∧ ((t.grate bar.val).bank k).loaded = true) ∧
      (∀ k x r pl, k < 2 → (s.grate bar.val).bank k = x → x.tag ≠ 0xFFFF → x.loaded = false →
        s.splice.runs.find? (fun r => r.job == x.tag) = some r → planeFor (s.job x.tag) r.g bar.val = some pl →
        ((t.grate bar.val).bank k).tone = (tables (s.job x.tag) pl).1 ∧ ((t.grate bar.val).bank k).cells = (tables (s.job x.tag) pl).2 ∧
        ((t.grate bar.val).bank k).badTone = [] ∧ ((t.grate bar.val).bank k).badCell = [])) ∧
  (∀ (dt : Nat) (bar : Fin 8) (s : State), s.coreRuns bar.val = true →
    ∃ t, exec (.bankReloadDone dt bar) s = .next t ∧ t = { s.pass dt with grates := t.grates } ∧ (∀ b, b ≠ bar.val → t.grate b = s.grate b) ∧
      (t.grate bar.val).bankLate = (s.grate bar.val).bankLate ∧
      (∀ k x, k < 2 → (s.grate bar.val).bank k = x → x.loaded = false ∨ (x.badTone = [] ∧ x.badCell = []) → (t.grate bar.val).bank k = x) ∧
      (∀ k x r pl, k < 2 → (s.grate bar.val).bank k = x → x.loaded = true → (x.badTone ≠ [] ∨ x.badCell ≠ []) →
        s.splice.runs.find? (fun r => r.job == x.tag) = some r → planeFor (s.job x.tag) r.g bar.val = some pl →
        ((t.grate bar.val).bank k).tag = x.tag ∧ ((t.grate bar.val).bank k).loaded = true ∧
        ((t.grate bar.val).bank k).tone = (tables (s.job x.tag) pl).1 ∧ ((t.grate bar.val).bank k).cells = (tables (s.job x.tag) pl).2 ∧
        ((t.grate bar.val).bank k).badTone = [] ∧ ((t.grate bar.val).bank k).badCell = []))

/-- Row LINE_PROCESS (R137, R138, R148, R151, R172, R175, R177, R178, R261, R264, R268, R286). -/
def Obligations.LinesAreWorked : Prop :=
  (∀ (dt : Nat) (bar : Fin 8) (upsets : List Upset) (s : State), s.nextLine bar.val = none → exec (.lineProcess dt bar upsets) s = .next (s.pass dt)) ∧
  (∀ (dt b : Nat) (bar : Fin 8) (s : State) (v : LineView) (on : List Nat), bar.val = b → s.nextLine b = some v → Calm s F.subUncovered →
    on = gSlots (s.barGeo b v.desc.line) b →
    ∃ t u, exec (.lineProcess dt bar []) s = .next t ∧ Touched (s.pass dt) u ∧
      ((s.grate b).above = false → s.uncoveredList v b ≠ [] → Takes s F.subUncovered ((s.uncoveredList v b).headD 0) idNone → (u.src F.subUncovered).sticky = true) ∧
      ((s.grate b).above = true ∨ s.uncoveredList v b = [] → u = s.pass dt) ∧
      (t.grate b).codeLine = v.desc.line ∧ (t.grate b).above = !(s.uncoveredList v b).isEmpty ∧ (t.grate b).chains = (if v.resets.contains b then [] else (s.grateLine v b).2) ∧
      (s.coreRuns b = true → (t.grate b).uncov = (s.uncoveredList v b).length) ∧
      (∀ k, k ≠ b → t.grate k = s.grate k) ∧
      (∀ sl, sel (t.grate b).codes sl [] = if sl ∈ on then slotCodes s v b sl else []) ∧
      (∀ sl n r, sl ∈ on → n < 5120 → (slotDrops s v b sl)[n]? = some r →
        t.noz (nozIndex b sl n) = (s.noz (nozIndex b sl n)).next (if v.desc.noFire ∨ v.desc.mute.contains (20 * b + sl) then 0 else r) v.desc.line) ∧
      (∀ i, (i < nozIndex b 0 0 ∨ nozIndex b 19 5120 ≤ i) → t.noz i = s.noz i) ∧
      t.out = ((List.range 20).filterMap (fun sl => slotOutput s v.desc (20 * b + sl) (if sl ∈ on then slotCodes s v b sl else []))).reverse ++ u.out ∧
      t = { u with grates := t.grates, ember := { s.ember with noz := t.ember.noz }, fb := { u.fb with resync := t.fb.resync }, fire := { u.fire with shift := t.fire.shift }, out := t.out })

/-- Rows TARGET_FREEZE, SCHEDULED_FIRE_LAUNCH, HELD_FIRE_RELEASE (R190, R191, R193, R194, R266, R273, R274; the lead of a freeze is log 26). Rows LEGACY_LATCH, LEGACY_STROBE (R287, R289). -/
def Obligations.LinesLaunchOnTheirTargets : Prop :=
  (∀ (dt : Nat) (s : State) (d : Desc), s.fire.descs.find? (fun d => !d.edge && !d.frozen) = some d →
    (s.pass dt).reached32 (back d.target (s.freezeLead d)) = true →
    exec (.targetFreeze dt) s = .next { s.pass dt with fire := { s.fire with
      descs := s.fire.descs.map (fun e => if e.line = d.line then { e with frozen := true, fallback := decide (1 < since d.line s.pos) } else e)
      fallbacks := if 1 < since d.line s.pos then sat 32 (s.fire.fallbacks + 1) else s.fire.fallbacks } }) ∧
  (∀ (dt : Nat) (s : State), (∀ d, s.fire.descs.find? (fun d => !d.edge && !d.frozen) = some d →
      (s.pass dt).reached32 (back d.target (s.freezeLead d)) = false) →
    exec (.targetFreeze dt) s = .next (s.pass dt)) ∧
  (∀ (dt : Nat) (unsent : List (Fin 160)) (s : State) (d : Desc) (rest : List Desc) (gs : List Later), s.fire.descs = d :: rest →
    d.edge = false → d.frozen = true → d.held = false → d.fallback = false → (s.pass dt).launchPassed d = true → s.fb.stalled = false →
    (s.fire.lastFired.isSome = true → 0 ≤ since d.target ((s.fire.lastLink + minFireGap) % 2 ^ 32)) → s.fire.later = [] → s.silentBars d = [] →
    (∀ k, k < 8 → s.trigAt k d.line = false) → (∀ i, (s.legacyOf i).isSome = false) →
    (∀ e ∈ rest, e.edge = true ∨ e.frozen = false ∨ e.fallback = true) →
    gs = s.groups d ((s.fireSlots d []).filter (fun e => !d.sent.contains e.1)) → (∀ g ∈ gs, (s.pass dt).groupDue g = true) →
    (∀ g ∈ gs, ∀ i ∈ g.slots, s.unsentOf (unsent.map Fin.val) d.line i = false) →
    exec (.scheduledFireLaunch dt unsent) s = .next { s.pass dt with
      fire := { s.fire with
        descs := rest.filter (fun e => e.line != d.line), lastFired := some d.line, lastLink := d.target
        lastTclk := (((s.pass dt).clk.tclk : Int) + since d.target (s.pass dt).link).toNat }
      out := (gs.map (fun g => Output.fire g.lane d.line g.target (fireBlock (s.fireMask g.slots false) d.line g.target))).reverse ++ s.out }) ∧
  (∀ (dt : Nat) (unsent : List (Fin 160)) (s : State), (∀ g ∈ s.fire.later, (s.pass dt).groupDue g = false) →
    (∀ d ∈ s.fire.descs, d.held = false ∧ (d.edge = true ∨ d.frozen = false ∨ d.fallback = true)) →
    exec (.scheduledFireLaunch dt unsent) s = .next (s.pass dt)) ∧
  (∀ (dt : Nat) (unsent : List (Fin 160)) (s : State), (∀ g ∈ s.fire.later, (s.pass dt).groupDue g = true ∧ g.slots ≠ [] ∧
      ∀ i ∈ g.slots, s.unsentOf (unsent.map Fin.val) g.line i = false) → s.fire.unlock = false → s.activeDead = false →
    (∀ d ∈ s.fire.descs, d.held = false ∧ (d.edge = true ∨ d.frozen = false ∨ d.fallback = true)) →
    exec (.scheduledFireLaunch dt unsent) s = .next { s.pass dt with
      fire := { s.fire with later := [] }
      out := (s.fire.later.map (fun g => Output.fire g.lane g.line g.target (fireBlock (s.fireMask g.slots false) g.line g.target))).reverse ++ s.out }) ∧
  (∀ (dt need : Nat) (unsent : List (Fin 160)) (s : State) (d d' : Desc) (rest : List Desc), s.fire.descs = d :: rest →
    d.edge = false → d.frozen = true → d.held = false → d.fallback = false → (s.pass dt).launchPassed d = true → s.fb.stalled = false →
    s.fire.lastFired.isSome = true → need = (s.fire.lastLink + minFireGap) % 2 ^ 32 → since d.target need < 0 → s.fire.later = [] →
    (∀ e ∈ rest, e.edge = true ∨ (e.frozen = false ∨ e.fallback = true) ∧ 0 ≤ since e.target need) →
    d' = { d with target := need, t32 := (s.pass dt).t32At need } → (s.pass dt).launchPassed d' = false →
    (∀ g ∈ s.groups d' ((s.fireSlots d' (s.silentBars d')).filter (fun e => !d'.sent.contains e.1)), (s.pass dt).groupDue g = false) →
    Takes s F.fireOverspeed 0 idNone →
    ∃ t u, exec (.scheduledFireLaunch dt unsent) s = .next t ∧ Recorded (s.pass dt) u F.fireOverspeed 0 idNone 0 ∧
      t = { u with fire := { s.fire with descs := d' :: rest } }) ∧
  (∀ (dt need : Nat) (unsent : List (Fin 160)) (s : State) (d e : Desc) (rest : List Desc), s.fire.descs = d :: e :: rest →
    d.edge = false → d.frozen = true → d.held = false → d.fallback = false → (s.pass dt).launchPassed d = true → s.fb.stalled = false →
    s.fire.lastFired.isSome = true → need = (s.fire.lastLink + minFireGap) % 2 ^ 32 → since d.target need < 0 → s.fire.later = [] →
    e.edge = false → since e.target need < 0 → (∀ x ∈ e :: rest, x.edge = true ∨ x.frozen = false ∨ x.fallback = true) →
    (∀ k, k < 8 → s.trigAt k d.line = false) → Takes s F.fireOverspeed 0 idNone → Takes s F.lineSkip d.line idNone →
    ∃ t u, exec (.scheduledFireLaunch dt unsent) s = .next t ∧ Recorded (s.pass dt) u F.fireOverspeed 0 idNone 0 ∧
      Recorded { u with fire := { s.fire with descs := (e :: rest).filter (fun x => x.line != d.line), noFired := s.fire.noFired ++ [(d.line, 0xFF)] } }
        t F.lineSkip d.line idNone 0) ∧
  (∀ (dt : Nat) (lane : Fin 36) (unsent : List (Fin 160)) (s : State), s.fire.heldL.find? (fun e => e.1 == lane.val) = none →
    exec (.heldFireRelease dt lane unsent) s = .next (s.pass dt)) ∧
  (∀ (dt line at_ : Nat) (lane : Fin 36) (unsent : List (Fin 160)) (s : State) (slots : List Nat),
    s.fire.heldL.find? (fun e => e.1 == lane.val) = some (lane.val, line, at_) →
    slots = (List.range 160).filter (fun i => s.laneFor i line == some lane.val && !s.isLate line (i / 20)) → slots ≠ [] →
    (∀ i ∈ slots, s.unsentOf (unsent.map Fin.val) line i = false) → s.fire.unlock = false → s.activeDead = false →
    exec (.heldFireRelease dt lane unsent) s = .next { s.pass dt with
      fire := { s.fire with heldL := s.fire.heldL.filter (fun x => x.1 != lane.val) }
      out := .fire lane.val line at_ (fireBlock (s.fireMask slots true) line at_) :: s.out }) ∧
  (∀ (dt line at_ : Nat) (lane : Fin 36) (unsent : List (Fin 160)) (s : State) (slots : List Nat),
    s.fire.heldL.find? (fun e => e.1 == lane.val) = some (lane.val, line, at_) →
    slots = (List.range 160).filter (fun i => s.laneFor i line == some lane.val && !s.isLate line (i / 20)) → slots ≠ [] →
    (s.fire.unlock = true ∨ s.activeDead = true) →
    exec (.heldFireRelease dt lane unsent) s = .next { s.pass dt with
      fire := { s.fire with heldL := s.fire.heldL.filter (fun x => x.1 != lane.val)
                            noFired := s.fire.noFired ++ [(line, maskOf ((slots.map (· / 20)).eraseDups))] } }) ∧
  (∀ (dt line at_ : Nat) (lane : Fin 36) (slot : Fin 160) (s : State),
    s.fire.heldL.find? (fun e => e.1 == lane.val) = some (lane.val, line, at_) →
    (List.range 160).filter (fun i => s.laneFor i line == some lane.val && !s.isLate line (i / 20)) = [slot.val] → s.fire.unlock = false → s.activeDead = false → Takes s F.frameUnsent slot.val idNone →
    ∃ t, exec (.heldFireRelease dt lane [slot]) s = .next t ∧
      Recorded { s.pass dt with
        fire := { s.fire with heldL := s.fire.heldL.filter (fun x => x.1 != lane.val) }
        lanes := put s.lanes lane.val { s.lane lane.val with unsent := sat 32 ((s.lane lane.val).unsent + 1) } } t F.frameUnsent slot.val idNone 0) ∧
  (∀ (dt line : Nat) (s : State) (e : Nat × Nat), s.fire.shift.find? (fun e => e.1 == line) = some e →
    max e.2 s.fire.latchEnd + (2560 * s.parReset P.linkLegacySckDiv + 10) ≤ (s.pass dt).clk.tclk → (∀ l t, s.fire.strobeDue = some (l, t) → l = line) →
    (s.fire.strobe = true → s.fire.strobeEnd + tclk40ns ≤ (s.pass dt).clk.tclk) →
    exec (.legacyLatch dt line) s = .next { s.pass dt with
      fire := { s.fire with latched := some line, latchEnd := (s.pass dt).clk.tclk + tclk32ns
                            shift := s.fire.shift.filter (fun e => decide (0 < since e.1 line)) }
      out := .legacy line 0x1000 [] :: s.out }) ∧
  (∀ (dt line : Nat) (s : State), ((∀ e ∈ s.fire.shift, e.1 ≠ line) ∨
      (∃ e, s.fire.shift.find? (fun e => e.1 == line) = some e ∧ (s.pass dt).clk.tclk < max e.2 s.fire.latchEnd + (2560 * s.parReset P.linkLegacySckDiv + 10)) ∨
      (∃ l t, s.fire.strobeDue = some (l, t) ∧ l ≠ line) ∨
      (s.fire.strobe = true ∧ (s.pass dt).clk.tclk < s.fire.strobeEnd + tclk40ns)) →
    exec (.legacyLatch dt line) s = .next (s.pass dt)) ∧
  (∀ (dt line at_ : Nat) (s : State), s.fire.strobeDue = some (line, at_) → at_ ≤ (s.pass dt).clk.tclk → s.fire.unlock = false →
    s.fire.latched = some line → s.fire.latchEnd + tclk200ns ≤ at_ →
    exec (.legacyStrobe dt line) s = .next { s.pass dt with
      fire := { s.fire with strobeDue := none, strobe := true, strobeEnd := at_ + s.parLine P.linkLegacyStrobeTclk }
      out := .legacy line 0x2000 [] :: s.out }) ∧
  (∀ (dt line at_ : Nat) (s : State), s.fire.strobeDue = some (line, at_) → at_ ≤ (s.pass dt).clk.tclk → s.fire.unlock = true →
    exec (.legacyStrobe dt line) s = .next { s.pass dt with fire := { s.fire with strobeDue := none } }) ∧
  (∀ (dt line at_ : Nat) (s : State), s.fire.strobeDue = some (line, at_) → at_ ≤ (s.pass dt).clk.tclk → s.fire.unlock = false →
    (s.fire.latched ≠ some line ∨ at_ < s.fire.latchEnd + tclk200ns) → Takes s F.legacyLate line idNone →
    ∃ t, exec (.legacyStrobe dt line) s = .next t ∧
      Recorded { s.pass dt with fire := { s.fire with strobeDue := none } } t F.legacyLate line idNone 0) ∧
  (∀ (dt line : Nat) (s : State), (∀ at_, s.fire.strobeDue = some (line, at_) → (s.pass dt).clk.tclk < at_) →
    exec (.legacyStrobe dt line) s = .next (s.pass dt))

/-- Rows HEARTBEAT_REQUEST, STATE_RECORD_RECEIVE, PRIVATE_LINK_TIMEOUT, PRIVATE_LINK_IDLE_FRAME, RESYNC_RETRY, RESYNC_COMPLETE (R207, R213 to R217, R221 to R223). -/
def Obligations.FireboxPairKeepsWatch : Prop :=
  (∀ (dt lim a b act sby : Nat) (aTog bTog : Bool) (s y : State), s.par P.fireFbHbMiss = lim → s.fb.active ≤ 1 →
    a = (if aTog then 0 else if lim ≤ s.fb.missA + 1 then lostMark else s.fb.missA + 1) → b = (if bTog then 0 else if lim ≤ s.fb.missB + 1 then lostMark else s.fb.missB + 1) →
    act = (if s.fb.active = 0 then a else b) → sby = (if s.fb.active = 0 then b else a) →
    y = { s.pass dt with fb := { s.fb with missA := a, missB := b, hbAt := (s.pass dt).clk.tclk, row := s.hbRow (act == lostMark) (sby == lostMark) } } →
    s.fb.hbAt + 256 ≤ (s.pass dt).clk.tclk →
    (act ≠ lostMark → sby ≠ lostMark → s.fb.linkA = true → s.fb.linkB = true → s.fb.linkBad = false → (s.src F.fbBothHb).conds = [] → (s.src F.fbNoStandby).conds = [] →
      ∃ t, exec (.heartbeatRequest dt aTog bTog) s = .next t ∧ Touched y t ∧ ∀ n, t.src n = s.src n) ∧
    (act ≠ lostMark → sby ≠ lostMark → s.fb.linkA = false ∨ s.fb.linkB = false → (s.fb.st s.fb.standby = 1 ∨ s.fb.st s.fb.standby = 2) →
      Takes s F.fbLink 0 idNone → (s.src F.fbLink).conds = [] →
      ∃ x t, exec (.heartbeatRequest dt aTog bTog) s = .next t ∧ Touched y x ∧
        Recorded { x with fb := { x.fb.setSt s.fb.standby 4 with linkBad := true, asked := false, sent := none, retryAt := fwd s.fb.lastIssue (s.par P.fireFbResyncRetryLines), clean := 0 } }
          t F.fbLink 0 idNone 0) ∧
    (act ≠ lostMark → sby = lostMark → s.fb.row ≠ 1 → s.fb.st s.fb.standby ≠ 5 → Takes s F.fbStandbyHb 0 idNone →
      ∃ t, exec (.heartbeatRequest dt aTog bTog) s = .next t ∧ Touched { y with fb := y.fb.setSt s.fb.standby 5 } t ∧ t.fb.st s.fb.standby = 5 ∧
        (t.src F.fbStandbyHb).sticky = true ∧ (t.src F.fbStandbyHb).unit = some s.fb.standby ∧ (t.src F.fbStandbyHb).hits = sat 16 ((s.src F.fbStandbyHb).hits + 1)) ∧
    (act = lostMark → sby ≠ lostMark → s.fb.row ≠ 2 → s.fb.eligible = true → s.faults.on = true →
      ∃ x t, exec (.heartbeatRequest dt aTog bTog) s = .next t ∧ Touched y x ∧ Registered x t F.fbActiveHb 0 idNone 0) ∧
    (act = lostMark → sby ≠ lostMark → s.fb.eligible = false → Takes s F.fbNoStandby 0 idNone → (s.src F.fbNoStandby).conds = [] →
      ∃ x t, exec (.heartbeatRequest dt aTog bTog) s = .next t ∧ Touched y x ∧ Recorded x t F.fbNoStandby 0 idNone 0) ∧
    (act = lostMark → sby = lostMark → Takes s F.fbBothHb 0 idNone → (s.src F.fbBothHb).conds = [] →
      ∃ x t, exec (.heartbeatRequest dt aTog bTog) s = .next t ∧ Touched y x ∧ Recorded x t F.fbBothHb 0 idNone 0)) ∧
  (∀ (dt : Nat) (aTog bTog : Bool) (s : State), (s.pass dt).clk.tclk < s.fb.hbAt + 256 → exec (.heartbeatRequest dt aTog bTog) s = .next (s.pass dt)) ∧
  (∀ (dt : Nat) (s : State),
    (∀ good, s.fb.sent = none → exec (.stateRecordReceive dt good) s = .next (s.pass dt)) ∧
    (∀ r, s.fb.sent = some r → s.fb.active ≤ 1 → exec (.stateRecordReceive dt true) s = .next { s.pass dt with
      fb := { s.fb with prev := s.fb.saved, saved := some r, sent := none, asked := false, load := false, linkA := s.fb.linkA || s.fb.standby == 0, linkB := s.fb.linkB || s.fb.standby == 1,
                        linkTA := if s.fb.standby = 0 then (s.pass dt).clk.tclk else s.fb.linkTA, linkTB := if s.fb.standby = 1 then (s.pass dt).clk.tclk else s.fb.linkTB } }) ∧
    (∀ r, s.fb.sent = some r → s.fb.asked = false → exec (.stateRecordReceive dt false) s = .next { s.pass dt with fb := { s.fb with asked := true } }) ∧
    (∀ r, s.fb.sent = some r → s.fb.asked = true → (s.fb.st s.fb.standby = 1 ∨ s.fb.st s.fb.standby = 2) → Takes s F.fbLink 0 idNone →
      (s.src F.fbLink).conds = [] →
      ∃ t, exec (.stateRecordReceive dt false) s = .next t ∧
        Recorded { s.pass dt with fb := { s.fb.setSt s.fb.standby 4 with linkBad := true, asked := false, sent := none, retryAt := fwd s.fb.lastIssue (s.par P.fireFbResyncRetryLines), clean := 0 } }
          t F.fbLink 0 idNone 0)) ∧
  (∀ (dt : Nat) (s : State),
    (s.fb.linkTA + 4096 ≤ (s.pass dt).clk.tclk → exec (.privateLinkTimeout dt false) s = .next { s.pass dt with fb := { s.fb with linkA := false } }) ∧
    (s.fb.linkTB + 4096 ≤ (s.pass dt).clk.tclk → exec (.privateLinkTimeout dt true) s = .next { s.pass dt with fb := { s.fb with linkB := false } }) ∧
    ((s.pass dt).clk.tclk < s.fb.linkTA + 4096 → exec (.privateLinkTimeout dt false) s = .next (s.pass dt)) ∧
    ((s.pass dt).clk.tclk < s.fb.linkTB + 4096 → exec (.privateLinkTimeout dt true) s = .next (s.pass dt)) ∧
    exec (.privateLinkIdleFrame dt false) s = .next { s.pass dt with fb := { s.fb with linkA := true, linkTA := (s.pass dt).clk.tclk } } ∧
    exec (.privateLinkIdleFrame dt true) s = .next { s.pass dt with fb := { s.fb with linkB := true, linkTB := (s.pass dt).clk.tclk } }) ∧
  (∀ (dt : Nat) (s : State),
    (s.fb.st s.fb.standby ≠ 4 ∨ since s.fb.lastIssue s.fb.retryAt < 0 → exec (.resyncRetry dt) s = .next (s.pass dt)) ∧
    (s.fb.st s.fb.standby = 4 → 0 ≤ since s.fb.lastIssue s.fb.retryAt → s.fb.linkA = true → s.fb.linkB = true →
      exec (.resyncRetry dt) s = .next { s.pass dt with fb := { s.fb.setSt s.fb.standby 3 with syncLeft := s.par P.fireFbResyncLines, load := true } }) ∧
    (s.fb.st s.fb.standby = 4 → 0 ≤ since s.fb.lastIssue s.fb.retryAt → s.fb.linkA = false ∨ s.fb.linkB = false → Takes s F.fbResyncFail 0 idNone →
      ∃ t, exec (.resyncRetry dt) s = .next t ∧
        Recorded { s.pass dt with fb := { s.fb.setSt s.fb.standby 4 with retryAt := fwd s.fb.lastIssue (s.par P.fireFbResyncRetryLines), clean := 0 } } t F.fbResyncFail 0 idNone 0)) ∧
  (∀ (dt : Nat) (s : State),
    (s.fb.st s.fb.standby = 3 → s.fb.syncLeft = 0 → exec (.resyncComplete dt) s = .next { s.pass dt with
      fb := { s.fb.setSt s.fb.standby 1 with clean := 0, saved := s.fb.lastCheck s.fb.active } }) ∧
    (s.fb.st s.fb.standby ≠ 3 ∨ s.fb.syncLeft ≠ 0 → exec (.resyncComplete dt) s = .next (s.pass dt)))

/-- Rows FIREBOX_AUTO_RETURN, DIAG_FIREBOX_SWITCH, DIAG_FIREBOX_LOCKSTEP, DIAG_FIREBOX_STATUS (R205, R224, R225, R227, R228, R535). -/
def Obligations.FireboxPairIsCommanded : Prop :=
  (∀ (dt u : Nat) (s y : State), s.fb.active = u → u ≤ 1 →
    y = { s.pass dt with fb := { (s.fb.setSt u 1).setSt (1 - u) 0 with
      active := 1 - u, saved := s.fb.lastCheck u, prev := none, sent := none, lockLeft := 0 } } →
    (u = 1 → s.par P.fireFbAutoReturn = 1 → s.fb.eligible = true → s.par P.fireFbReturnLines ≤ s.fb.clean → s.fb.halted = false → Takes s F.fbReturn 0 idNone →
      ∃ t, exec (.fireboxAutoReturn dt) s = .next t ∧ Recorded y t F.fbReturn 0 idNone 0) ∧
    (u = 0 ∨ s.par P.fireFbAutoReturn ≠ 1 ∨ s.fb.eligible = false ∨ s.fb.clean < s.par P.fireFbReturnLines ∨ s.fb.halted = true →
      exec (.fireboxAutoReturn dt) s = .next (s.pass dt)) ∧
    (∀ (w : Sess) (c : Cmd), Holds s w c 0x1002 0 → s.pwr.kind ≠ 2 →
      (s.fb.eligible = true → 65536 ≤ s.fb.clean → s.fb.halted = false → (s.pass dt).reactionDue = false → Takes s F.fbReturn 0 idNone →
        ∃ x t, exec (.diagFireboxSwitch dt w) s = .next t ∧ Recorded y x F.fbReturn 0 idNone 0 ∧ Answered x t w c St.ok (leB 4 s.fire.next)) ∧
      (s.fb.eligible = false ∨ s.fb.clean < 65536 ∨ s.fb.halted = true ∨ (s.pass dt).reactionDue = true → ∃ t, exec (.diagFireboxSwitch dt w) s = .next t ∧ Answered (s.pass dt) t w c St.state []))) ∧
  (∀ (f : FireBox), f.eligible = true ↔ f.st f.standby = 1 ∨ f.st f.standby = 2) ∧
  (∀ (dt n : Nat) (w : Sess) (s : State) (c : Cmd), Holds s w c 0x1003 4 → s.pwr.kind ≠ 2 → u32 c.pay 0 = n → 1024 ≤ n → n ≤ 16777216 →
    (s.fb.eligible = true → ∃ t, exec (.diagFireboxLockstep dt w) s = .next t ∧
      Answered { s.pass dt with fb := { s.fb.setSt s.fb.standby 2 with lockLeft := if s.fb.st s.fb.standby = 2 then max s.fb.lockLeft n else n } } t w c St.ok []) ∧
    (s.fb.eligible = false → ∃ t, exec (.diagFireboxLockstep dt w) s = .next t ∧ Answered (s.pass dt) t w c St.state [])) ∧
  (∀ (dt : Nat) (w : Sess) (s : State) (c : Cmd), Holds s w c 0x1001 0 → s.pwr.kind ≠ 2 →
    ∃ t, exec (.diagFireboxStatus dt w) s = .next t ∧ Answered (s.pass dt) t w c St.ok
      (leB 1 s.fb.stA ++ leB 1 s.fb.stB ++ leB 1 s.fb.active ++ leB 1 0 ++ leB 4 s.fb.clean ++ leB 4 s.fb.failovers ++ leB 4 s.fb.lostLines ++ leB 4 s.fb.mism ++
        leB 4 s.fb.foT32.toNat ++ leB 1 s.fb.foFrom ++ leB 1 s.fb.foTo ++ leB 2 s.fb.foSrc ++ leB 4 s.fb.lost0 ++ leB 4 s.fb.lost1 ++ leB 1 s.fb.lostN ++ leB 3 0))

/-- Rows LANE_STATUS, LANE_RETRAIN, LANE_TEST_START, LANE_TEST_READ, LANE_TEST_STOP, LANE_SPARE_SWITCH, LANE_SPARE_RETURN (R247, R248, R251 to R254,
R256, R530). -/
def Obligations.LaneCommandsAnswer : Prop :=
  (∀ (dt first n : Nat) (w : Sess) (s : State) (c : Cmd), Holds s w c 0x0801 4 → s.pwr.kind ≠ 2 → u8 c.pay 0 = first → u8 c.pay 1 = n → 1 ≤ n →
    n ≤ 8 → first + n ≤ 36 → u16 c.pay 2 = 0 →
    ∃ t, exec (.laneStatus dt w) s = .next t ∧
      Answered (s.pass dt) t w c St.ok (leB 1 n ++ leB 3 0 ++ (List.range n).flatMap (fun i => (s.pass dt).laneBytes (first + i)))) ∧
  (∀ (dt l : Nat) (w : Sess) (s : State) (c : Cmd), Holds s w c 0x0802 4 → s.pwr.kind ≠ 2 → u8 c.pay 0 = l → l < 36 → fld c.pay 1 3 = 0 →
    s.servesEnabled l = false → (s.lane l).state ≠ 0 →
    ∃ t, exec (.laneRetrain dt w) s = .next t ∧
      Answered ((s.pass dt).setLane l (inTrain { s.lane l with fails := 0, single := false, capable := none } (s.pass dt).now 0)) t w c St.ok []) ∧
  (∀ (dt l pat dirs inj e ms : Nat) (w : Sess) (s : State) (c : Cmd), Holds s w c 0x0803 8 → s.pwr.kind ≠ 2 → u8 c.pay 0 = l → l < 36 →
    u8 c.pay 1 = pat → pat ≤ 4 → u8 c.pay 2 = dirs → dirs ≤ 3 → u8 c.pay 3 = inj → u8 c.pay 4 = e →
    (inj = 0 ∧ e = 0 ∨ inj = 2 ∧ 10 ≤ e ∧ e ≤ 40) → u8 c.pay 5 = 0 → u16 c.pay 6 = ms → 1 ≤ ms → s.servesEnabled l = false → (s.lane l).state ≠ 0 →
    ∃ t, exec (.laneTestStart dt w) s = .next t ∧
      Answered (((s.pass dt).setLane l { s.lane l with
          state := 10, since := (s.pass dt).now, locked := false, bits := 0, errs := 0, losses := 0, injected := 0, carry := false, info := none,
          todo := [], capable := none,
          test := some { pattern := pat, dirs := dirs, inj := inj, e := e, ends := (s.pass dt).now + ms * perMs, here := true } }).emits
        (List.replicate 3 (.block l (kBlock 0x86 (leB 1 pat ++ leB 1 dirs ++ beB 2 ms))) ++ (if bit dirs 0 = true then [Output.pattern l pat] else []))) t w c St.ok []) ∧
  (∀ (dt l : Nat) (rx : List Bool) (w : Sess) (s : State) (c : Cmd) (x y : Lane) (e : LaneTest), Holds s w c 0x0804 4 → s.pwr.kind ≠ 2 →
    u8 c.pay 0 = l → l < 36 → u8 c.pay 1 ≤ 1 → u16 c.pay 2 = 0 → s.lane l = x → x.state = 10 → x.test = some e → e.here = true → bit e.dirs 1 = true →
    y = { (x.checkAll e.pattern e.chk rx).1 with
      test := some { e with chk := (x.checkAll e.pattern e.chk rx).2 }
      injected := if u8 c.pay 1 = 1 ∧ bit e.dirs 0 = true then sat 32 (x.injected + 1) else x.injected } →
    ∃ t, exec (.laneTestRead dt w rx) s = .next t ∧
      Answered ((s.pass dt).setLane l y) t w c St.ok
        (leB 1 (b2n y.locked + 2) ++ leB 3 0 ++ leB 8 y.bits ++ leB 4 y.errs ++ leB 4 (sat 32 (y.injected + (s.pass dt).periodic l e)) ++ leB 4 y.losses ++
          padTo 8 y.report)) ∧
  (∀ (dt l : Nat) (rx : List Bool) (w : Sess) (s : State) (c : Cmd) (x : Lane) (e : LaneTest), Holds s w c 0x0804 4 → s.pwr.kind ≠ 2 →
    u8 c.pay 0 = l → l < 36 → u8 c.pay 1 = 0 → u16 c.pay 2 = 0 → s.lane l = x → x.state = 10 → x.test = some e → e.here = true → bit e.dirs 1 = false →
    ∃ t, exec (.laneTestRead dt w rx) s = .next t ∧
      Answered (s.pass dt) t w c St.ok
        (leB 1 (b2n x.locked + 2) ++ leB 3 0 ++ leB 8 x.bits ++ leB 4 x.errs ++ leB 4 (sat 32 (x.injected + (s.pass dt).periodic l e)) ++ leB 4 x.losses ++
          padTo 8 x.report)) ∧
  (∀ (dt l : Nat) (rx : List Bool) (w : Sess) (s : State) (c : Cmd) (x : Lane), Holds s w c 0x0804 4 → s.pwr.kind ≠ 2 →
    u8 c.pay 0 = l → l < 36 → u8 c.pay 1 = 0 → u16 c.pay 2 = 0 → s.lane l = x → x.state ≠ 10 → (∀ e, x.test = some e → e.here = false) →
    ∃ t, exec (.laneTestRead dt w rx) s = .next t ∧
      Answered (s.pass dt) t w c St.ok
        (leB 1 (b2n x.locked) ++ leB 3 0 ++ leB 8 x.bits ++ leB 4 x.errs ++ leB 4 (sat 32 x.injected) ++ leB 4 x.losses ++ padTo 8 x.report)) ∧
  (∀ (dt l : Nat) (rx : List Bool) (w : Sess) (s : State) (c : Cmd) (x z : Lane) (e : LaneTest) (k : Checker), Holds s w c 0x0805 4 → s.pwr.kind ≠ 2 →
    u8 c.pay 0 = l → l < 36 → fld c.pay 1 3 = 0 → s.lane l = x → x.test = some e → e.here = true →
    (z, k) = (if bit e.dirs 1 = true then x.checkAll e.pattern e.chk rx else (x, e.chk)) →
    ∃ t, exec (.laneTestStop dt w rx) s = .next t ∧
      Answered ((s.pass dt).setLane l { z with
        locked := false, injected := sat 32 (z.injected + (s.pass dt).periodic l e), test := some { e with chk := k, here := false, inj := 0 } }) t w c St.ok []) ∧
  (∀ (dt l : Nat) (rx : List Bool) (w : Sess) (s : State) (c : Cmd), Holds s w c 0x0805 4 → s.pwr.kind ≠ 2 → u8 c.pay 0 = l → l < 36 →
    fld c.pay 1 3 = 0 → (s.lane l).test = none →
    ∃ t, exec (.laneTestStop dt w rx) s = .next t ∧ Answered (s.pass dt) t w c St.ok []) ∧
  (∀ (dt l : Nat) (w : Sess) (s : State) (c : Cmd), Holds s w c 0x0806 4 → s.pwr.kind ≠ 2 → u8 c.pay 0 = l → l < 32 → fld c.pay 1 3 = 0 →
    (s.pass dt).spareState (l / 8) = 1 → (s.spare (l / 8)).switching = none → (s.lane l).slots ≠ 0 →
    ∃ t u, exec (.laneSpareSwitch dt w) s = .next t ∧
      u = { s.pass dt with
        spares := put s.spares (l / 8) { s.spare (l / 8) with sel := l % 8, switching := some (s.pass dt).now, checking := none }
        lanes := put s.lanes (32 + l / 8) { s.lane (32 + l / 8) with farN := 0 }
        out := .block (32 + l / 8) (kBlock 0x84 (leB 1 (l % 8))) :: .ksSel (l / 8) (l % 8) :: s.out } ∧
      Answered u t w c St.ok []) ∧
  (∀ (dt l k : Nat) (w : Sess) (s : State) (c : Cmd), Holds s w c 0x0807 4 → s.pwr.kind ≠ 2 → u8 c.pay 0 = l → l < 32 → fld c.pay 1 3 = 0 →
    s.servedBy l = some k → (s.lane l).state = 6 → (s.lane l).capable ≠ none → (s.spare k).ret = none → Takes s F.laneReturn l idNone →
    ∃ t u, exec (.laneSpareReturn dt w) s = .next t ∧
      Recorded { s.pass dt with
        spares := put s.spares k { s.spare k with ret := some (l, fwd s.fire.next 16) }
        lanes := put s.lanes l { s.lane l with carry := (s.primarySlots l).all (fun i => (s.slotLink i).ltValid), start := none }
        out := .block (32 + k) (kBlock 0x84 (leB 1 (l % 8) ++ leB 1 1 ++ beB 4 (fwd s.fire.next 16))) :: s.out } u F.laneReturn l idNone 0 ∧
      Answered u t w c St.ok (leB 4 (fwd s.fire.next 16)))

/-- Rows LANE_DETECT_POLL, LANE_ABSENT, BIT_LOCK, TRAIN_PERIOD_END, BLOCK_LOCK, BLOCK_LOCK_TIMEOUT, CAP, CAP_ACK, CAP_TIMEOUT, RETRAIN, LANE_RETRY
(R237 to R242, R245, R247, R248, R251). -/
def Obligations.LanesComeUp : Prop :=
  (∀ (dt : Nat) (lane : Fin 36) (s : State), (s.lane lane.val).state = 1 → (lane.val < 32 ∨ s.openMember (lane.val - 32) = none) →
    exec (.laneDetectPoll dt lane true true) s = .next ((s.pass dt).setLane lane.val (inTrain (s.lane lane.val) (s.pass dt).now 0))) ∧
  (∀ (dt m : Nat) (lane : Fin 36) (s : State), (s.lane lane.val).state = 1 → 32 ≤ lane.val → s.openMember (lane.val - 32) = some m →
    exec (.laneDetectPoll dt lane true true) s = .next { s.pass dt with
      spares := put s.spares (lane.val - 32) { s.spare (lane.val - 32) with sel := m }
      lanes := put s.lanes lane.val (inTrain (s.lane lane.val) (s.pass dt).now 0)
      out := .ksSel (lane.val - 32) m :: s.out }) ∧
  (∀ (dt : Nat) (lane : Fin 36) (s : State), (s.lane lane.val).state = 1 → (s.lane lane.val).absent = false →
    (s.lane lane.val).since + s.par P.linkLaneDetectMs * perMs ≤ (s.pass dt).now → Takes s F.laneAbsent lane.val idNone →
    ∃ t, exec (.laneAbsent dt lane) s = .next t ∧
      Recorded ((s.pass dt).setLane lane.val { s.lane lane.val with absent := true }) t F.laneAbsent lane.val idNone 0) ∧
  (∀ (dt : Nat) (lane : Fin 36) (s : State), (s.lane lane.val).state = 2 →
    2000000 ≤ ((s.pass dt).now - (s.lane lane.val).since) * bitsPerTwo (s.lane lane.val).rate →
    exec (.bitLock dt lane) s = .next ((s.pass dt).setLane lane.val { s.lane lane.val with state := 3 })) ∧
  (∀ (dt : Nat) (lane : Fin 36) (s : State), (s.lane lane.val).state = 3 → (s.lane lane.val).since + trainTime ≤ (s.pass dt).now →
    exec (.trainPeriodEnd dt lane true) s = .next ((s.pass dt).setLane lane.val { s.lane lane.val with state := 4, since := (s.pass dt).now })) ∧
  (∀ (dt : Nat) (lane : Fin 36) (ok : Bool) (s : State), ((s.lane lane.val).state = 2 ∨ (s.lane lane.val).state = 3 ∧ ok = false) →
    (s.lane lane.val).since + trainTime ≤ (s.pass dt).now →
    ∃ t, exec (.trainPeriodEnd dt lane ok) s = .next t ∧ AttemptFailed (s.pass dt) t lane.val) ∧
  (∀ (dt : Nat) (lane : Fin 36) (s : State), (s.lane lane.val).state = 4 →
    2 * 64 * 66 ≤ ((s.pass dt).now - (s.lane lane.val).since) * bitsPerTwo (s.lane lane.val).rate →
    exec (.blockLock dt lane) s = .next ((s.pass dt).setLane lane.val
      { s.lane lane.val with state := 5, since := (s.pass dt).now, farN := 0, acks := 0 })) ∧
  (∀ (dt : Nat) (lane : Fin 36) (s : State), (s.lane lane.val).state = 4 → (s.lane lane.val).since + blockLockTime ≤ (s.pass dt).now →
    ∃ t, exec (.blockLockTimeout dt lane) s = .next t ∧ AttemptFailed (s.pass dt) t lane.val) ∧
  (∀ (dt : Nat) (lane : Fin 36) (block : Bytes) (s : State) (x : Lane), goodBlock block 0x82 = true → s.lane lane.val = x → x.state = 5 → x.held = false →
    s.servedBy lane.val = none → x.far ≠ blockFields block →
    exec (.cap dt lane block) s = .next ((s.pass dt).setLane lane.val { x with far := blockFields block, farN := 1 })) ∧
  (∀ (dt rate : Nat) (lane : Fin 36) (block : Bytes) (s u : State) (x : Lane), goodBlock block 0x82 = true → s.lane lane.val = x → x.state = 5 →
    x.held = false → x.far = blockFields block → x.farN = 1 → u = (s.pass dt).setLane lane.val { x with farN := 2 } →
    u.capRate lane.val x.far = some rate →
    exec (.cap dt lane block) s = .next { s.pass dt with
      lanes := put s.lanes lane.val { x with
        farN := 2, own := u.ownCap lane.val (u8 x.far 0 % 16) rate, slots := u8 x.far 0 % 16, acks := 0 }
      out := .block lane.val (kBlock 0x82 (u.ownCap lane.val (u8 x.far 0 % 16) rate ++ leB 1 (b2n (decide (32 ≤ lane.val))))) :: s.out }) ∧
  (∀ (dt : Nat) (lane : Fin 36) (block : Bytes) (s u : State) (x : Lane), goodBlock block 0x82 = true → s.lane lane.val = x → x.state = 5 →
    x.held = false → x.far = blockFields block → x.farN = 1 → u = (s.pass dt).setLane lane.val { x with farN := 2 } →
    u.capRate lane.val x.far = none → Takes s F.laneCapFail lane.val idNone →
    ∃ t v, exec (.cap dt lane block) s = .next t ∧ Recorded u v F.laneCapFail lane.val idNone 0 ∧ AttemptFailed v t lane.val) ∧
  (∀ (dt m : Nat) (lane : Fin 36) (block : Bytes) (s : State), goodBlock block 0x82 = true → 32 ≤ lane.val → (s.lane lane.val).state = 11 →
    (s.spare (lane.val - 32)).switching = none → (s.spare (lane.val - 32)).checking = some m →
    ∃ t, exec (.cap dt lane block) s = .next t ∧ (t.lane lane.val) = { s.lane lane.val with far := blockFields block } ∧
      t.spare (lane.val - 32) = { s.spare (lane.val - 32) with
        passed := put (s.spare (lane.val - 32)).passed m (s.pass dt).now, checking := none } ∧ OnLanes (s.pass dt) t) ∧
  (∀ (dt q l : Nat) (lane : Fin 36) (block : Bytes) (s : State), goodBlock block 0x82 = true → 32 ≤ lane.val → (s.lane lane.val).state = 11 →
    (s.spare (lane.val - 32)).switching = some q → bit (u8 (blockFields block) 1) 3 = true → (s.lane lane.val).far = blockFields block →
    (s.lane lane.val).farN = 1 → s.switchOf (lane.val - 32) = l → l < 32 →
    ∃ t, exec (.cap dt lane block) s = .next t ∧ (t.spare (lane.val - 32)).serving = some l ∧ (t.lane lane.val).state = 6 ∧
      (t.lane lane.val).slots = (s.lane l).slots ∧ (∀ i ∈ s.primarySlots l, (t.slotLink i).ltValid = false) ∧ OnLanes (s.pass dt) t) ∧
  (∀ (dt : Nat) (lane : Fin 36) (block : Bytes) (s : State) (x : Lane), goodBlock block 0x83 = true → s.lane lane.val = x →
    (x.state = 5 ∨ x.state = 7 ∧ (s.pass dt).now ≤ x.since + s.par P.linkLaneRelockUs * perUs) → 2 ≤ x.farN → x.own.length = 5 → (blockFields block).take 5 = x.own → x.acks = 0 →
    exec (.capAck dt lane block) s = .next ((s.pass dt).setLane lane.val { x with acks := 1 })) ∧
  (∀ (dt : Nat) (lane : Fin 36) (block : Bytes) (s : State) (x : Lane), goodBlock block 0x83 = true → s.lane lane.val = x →
    x.state = 5 → 2 ≤ x.farN → x.own.length = 5 → (blockFields block).take 5 = x.own → x.acks = 1 → u8 x.own 4 ≠ x.rate →
    exec (.capAck dt lane block) s = .next { s.pass dt with
      lanes := put s.lanes lane.val (inTrain x (s.pass dt).now (u8 x.own 4))
      out := .block lane.val (kBlock 0x85 (leB 1 (u8 x.own 4))) :: s.out }) ∧
  (∀ (dt : Nat) (lane : Fin 36) (block : Bytes) (s : State) (x : Lane), goodBlock block 0x83 = true → s.lane lane.val = x → lane.val < 32 →
    x.state = 5 → 2 ≤ x.farN → x.own.length = 5 → (blockFields block).take 5 = x.own → x.acks = 1 → u8 x.own 4 = x.rate →
    laneLimit s.par x.slots x.rate (s.primarySlots lane.val) < s.pressMax → Takes s F.laneBudget lane.val idNone →
    ∃ t, exec (.capAck dt lane block) s = .next t ∧
      Recorded ((s.pass dt).setLane lane.val { x with
        held := true, acks := 0, farN := 0, retryAt := (s.pass dt).now + s.par P.linkLaneRetryMs * perMs }) t F.laneBudget lane.val idNone 0) ∧
  (∀ (dt : Nat) (lane : Fin 36) (block : Bytes) (s : State) (x : Lane), goodBlock block 0x83 = true → s.lane lane.val = x → lane.val < 32 →
    x.state = 5 → 2 ≤ x.farN → x.own.length = 5 → (blockFields block).take 5 = x.own → x.acks = 1 → u8 x.own 4 = x.rate →
    s.pressMax ≤ laneLimit s.par x.slots x.rate (s.primarySlots lane.val) →
    ∃ t, exec (.capAck dt lane block) s = .next t ∧ (t.lane lane.val).state = 6 ∧ (t.lane lane.val).fails = 0 ∧ (t.lane lane.val).rate = x.rate ∧
      (t.lane lane.val).slots = x.slots ∧ (∀ i ∈ s.primarySlots lane.val, (t.slotLink i).ltValid = false) ∧
      (∀ k, k ≠ lane.val → t.lane k = s.lane k) ∧ OnLanes (s.pass dt) t) ∧
  (∀ (dt : Nat) (lane : Fin 36) (s : State), (s.lane lane.val).state = 5 → (s.lane lane.val).held = false →
    (s.lane lane.val).since + trainTime ≤ (s.pass dt).now →
    ∃ t, exec (.capTimeout dt lane) s = .next t ∧ AttemptFailed (s.pass dt) t lane.val) ∧
  (∀ (dt : Nat) (lane : Fin 36) (block : Bytes) (s : State), goodBlock block 0x85 = true → u8 block 1 ≤ 1 → (s.lane lane.val).state = 5 →
    exec (.retrain dt lane block) s = .next ((s.pass dt).setLane lane.val (inTrain (s.lane lane.val) (s.pass dt).now (u8 block 1)))) ∧
  (∀ (dt : Nat) (lane : Fin 36) (s : State) (x : Lane), s.lane lane.val = x → lane.val < 32 → x.retryAt ≤ (s.pass dt).now → (x.state = 8 ∨ x.state = 9) →
    exec (.laneRetry dt lane) s = .next ((s.pass dt).setLane lane.val
      (inTrain { x with single := x.state == 9, fails := if x.state = 9 then x.fails else 0 } (s.pass dt).now 0))) ∧
  (∀ (dt : Nat) (lane : Fin 36) (s : State) (x : Lane), s.lane lane.val = x → x.retryAt ≤ (s.pass dt).now → x.state = 5 → x.held = true →
    exec (.laneRetry dt lane) s = .next ((s.pass dt).setLane lane.val
      { x with held := false, since := (s.pass dt).now, farN := 0, acks := 0 })) ∧
  (∀ (dt k : Nat) (lane : Fin 36) (block : Bytes) (s : State) (x : Lane), goodBlock block 0x83 = true → s.lane lane.val = x → lane.val = 32 + k →
    x.state = 5 → 2 ≤ x.farN → x.own.length = 5 → (blockFields block).take 5 = x.own → x.acks = 1 → u8 x.own 4 = x.rate →
    (∀ m, (s.members k).contains m = true → m ≠ (s.spare k).sel → (look (s.spare k).passed m).isSome = true) →
    ∃ t, exec (.capAck dt lane block) s = .next t ∧ (t.lane lane.val).state = 11 ∧ (t.lane lane.val).fails = 0 ∧
      t.spare k = { s.spare k with passed := put (s.spare k).passed (s.spare k).sel (s.pass dt).now, checking := none, checkAt := (s.pass dt).now } ∧
      t.out = .block lane.val (kBlock 0x84 (leB 1 0xFF)) :: s.out ∧ OnLanes (s.pass dt) t)

/-- Rows LOCK_LOSS, CAP and CAP_ACK in RELOCK, RELOCK_TIMEOUT, SPARE_SWITCH_TIMEOUT, SPARE_CHECK, SPARE_CHECK_TIMEOUT, SPARE_AUTO_RETURN, LANE_HDR_ERR,
LANE_TEST_END, TEST_REPORT (R239, R244, R245, R247, R248, R250 to R252, R254, R256). -/
def Obligations.LanesAreLostAndReplaced : Prop :=
  (∀ (dt : Nat) (lane : Fin 36) (s : State), (s.lane lane.val).state = 6 →
    exec (.lockLoss dt lane) s = .next ((s.pass dt).setLane lane.val { s.lane lane.val with
      state := 7, since := (s.pass dt).now, farN := 0, acks := 0, info := none, todo := [], echoAt := none, capable := none })) ∧
  (∀ (dt : Nat) (lane : Fin 36) (block : Bytes) (s : State) (x : Lane), goodBlock block 0x82 = true → s.lane lane.val = x → x.state = 7 →
    x.far = blockFields block → x.farN = 1 →
    exec (.cap dt lane block) s = .next { s.pass dt with
      lanes := put s.lanes lane.val { x with farN := 2 }
      out := .block lane.val (kBlock 0x82 (x.own ++ leB 1 (b2n (decide (32 ≤ lane.val))))) :: s.out }) ∧
  (∀ (dt : Nat) (lane : Fin 36) (block : Bytes) (s : State) (x : Lane), goodBlock block 0x83 = true → s.lane lane.val = x →
    x.state = 7 → 2 ≤ x.farN → x.own.length = 5 → (blockFields block).take 5 = x.own → x.acks = 1 → (s.pass dt).now ≤ x.since + s.par P.linkLaneRelockUs * perUs → Takes s F.laneRelock lane.val idNone →
    ∃ t, exec (.capAck dt lane block) s = .next t ∧ (t.lane lane.val).state = 6 ∧ (t.lane lane.val).relocks = sat 32 (x.relocks + 1) ∧
      (t.src F.laneRelock).sticky = true ∧ (∀ k, k ≠ lane.val → t.lane k = s.lane k) ∧ t.links = s.links ∧ t.spares = s.spares) ∧
  (∀ (dt : Nat) (lane : Fin 36) (s : State) (x : Lane), s.lane lane.val = x → x.state = 7 →
    x.since + s.par P.linkLaneRelockUs * perUs < (s.pass dt).now → lane.val < 32 → s.servedBy lane.val = none →
    (s.pass dt).spareState (lane.val / 8) = 1 → (s.spare (lane.val / 8)).switching = none → Takes s F.laneDown lane.val idNone →
    ∃ t u, exec (.relockTimeout dt lane) s = .next t ∧
      Recorded ((s.pass dt).setLane lane.val { x with
        state := 8, since := (s.pass dt).now, fails := 0, single := false, capable := none, carry := false,
        retryAt := (s.pass dt).now + s.par P.linkLaneRetryMs * perMs }) u F.laneDown lane.val idNone 0 ∧
      t = { u with
        spares := put u.spares (lane.val / 8) { s.spare (lane.val / 8) with sel := lane.val % 8, switching := some u.now, checking := none }
        lanes := put u.lanes (32 + lane.val / 8) { s.lane (32 + lane.val / 8) with farN := 0 }
        out := .block (32 + lane.val / 8) (kBlock 0x84 (leB 1 (lane.val % 8))) :: .ksSel (lane.val / 8) (lane.val % 8) :: u.out }) ∧
  (∀ (dt p : Nat) (lane : Fin 36) (s : State) (x : Lane), s.lane lane.val = x → x.state = 7 →
    x.since + s.par P.linkLaneRelockUs * perUs < (s.pass dt).now → 32 ≤ lane.val → (s.spare (lane.val - 32)).serving = some p →
    Takes s F.laneDown lane.val idNone → Takes s F.laneNoSpare p idNone →
    ∃ t u, exec (.relockTimeout dt lane) s = .next t ∧
      Recorded ((s.pass dt).setLane lane.val { x with
        state := 8, since := (s.pass dt).now, fails := 0, single := false, capable := none, carry := false,
        retryAt := (s.pass dt).now + s.par P.linkLaneRetryMs * perMs }) u F.laneDown lane.val idNone 0 ∧
      (t.spare (lane.val - 32)).serving = none ∧ (t.src F.laneNoSpare).sticky = true) ∧
  (∀ (dt q l k : Nat) (spare : Fin 4) (s : State), spare.val = k → (s.spare k).switching = some q → q + trainTime ≤ (s.pass dt).now →
    s.switchOf k = l → Takes s F.spareFail l idNone →
    ∃ t u, exec (.spareSwitchTimeout dt spare) s = .next t ∧ Recorded (s.pass dt) u F.spareFail l idNone 0 ∧
      t = { u with
        spares := put u.spares k { s.spare k with switching := none, serving := none, ret := none }
        lanes := put u.lanes (32 + k) { s.lane (32 + k) with
          state := if (s.lane (32 + k)).state = 6 then 11 else (s.lane (32 + k)).state, carry := false, info := none, todo := [] } }) ∧
  (∀ (dt k m : Nat) (spare : Fin 4) (s : State), spare.val = k → (s.lane (32 + k)).state = 11 → (s.spare k).serving = none →
    (s.spare k).switching = none → (s.spare k).checkAt + s.par (P.linkSpareCheckMs k) * perMs ≤ (s.pass dt).now → s.nextMember k ((s.spare k).sel + 1) = some m →
    ∃ t b, exec (.spareCheck dt spare) s = .next t ∧ (t.spare k).sel = m ∧ (t.spare k).checking = some m ∧
      t.out = .block (32 + k) b :: .block (32 + k) (kBlock 0x87 (leB 1 m)) :: .ksSel k m :: s.out ∧ OnLanes (s.pass dt) t) ∧
  (∀ (dt k m : Nat) (spare : Fin 4) (s : State), spare.val = k → (s.spare k).checking = some m → (s.spare k).checkAt + 20 * perUs ≤ (s.pass dt).now → Takes s F.spareNotReady (8 * k + m) idNone →
    (s.src F.spareNotReady).conds.contains (BitVec.ofNat 32 (8 * k + m)) = false →
    ∃ t, exec (.spareCheckTimeout dt spare) s = .next t ∧
      Recorded ((s.pass dt).setSpare k { s.spare k with checking := none, passed := cut (s.spare k).passed m }) t F.spareNotReady (8 * k + m) idNone 0) ∧
  (∀ (dt l k q : Nat) (lane : Fin 36) (s : State), lane.val = l → s.servedBy l = some k → (s.lane l).state = 6 → (s.lane l).capable = some q →
    (s.spare k).ret = none → s.par P.linkSpareAutoReturn = 1 → q + s.par P.linkSpareReturnS * perSecond ≤ (s.pass dt).now →
    Takes s F.laneReturn l idNone →
    ∃ t, exec (.spareAutoReturn dt lane) s = .next t ∧
      Recorded { s.pass dt with
        spares := put s.spares k { s.spare k with ret := some (l, fwd s.fire.next 16) }
        lanes := put s.lanes l { s.lane l with carry := (s.primarySlots l).all (fun i => (s.slotLink i).ltValid), start := none }
        out := .block (32 + k) (kBlock 0x84 (leB 1 (l % 8) ++ leB 1 1 ++ beB 4 (fwd s.fire.next 16))) :: s.out } t F.laneReturn l idNone 0) ∧
  (∀ (dt errs was at_ : Nat) (lane : Fin 36) (s u : State), (s.lane lane.val).state = 6 →
    (was, at_) = (if (s.lane lane.val).hdrAt + perSecond ≤ (s.pass dt).now then (0, (s.pass dt).now) else ((s.lane lane.val).hdrN, (s.lane lane.val).hdrAt)) →
    u = (s.pass dt).setLane lane.val { s.lane lane.val with
      hdrErr := sat 32 ((s.lane lane.val).hdrErr + errs), hdrN := was + errs, hdrAt := at_ } →
    (was + errs ≤ s.par P.linkLaneHdrErrLimit ∨ s.par P.linkLaneHdrErrLimit < was → exec (.laneHdrErr dt lane errs) s = .next u) ∧
    (was ≤ s.par P.linkLaneHdrErrLimit → s.par P.linkLaneHdrErrLimit < was + errs → Takes s F.laneHdrErr lane.val idNone →
      ∃ t, exec (.laneHdrErr dt lane errs) s = .next t ∧ Recorded u t F.laneHdrErr lane.val idNone 0)) ∧
  (∀ (dt : Nat) (lane : Fin 36) (rx : List Bool) (s : State) (x z : Lane) (e : LaneTest) (k : Checker), s.lane lane.val = x → x.test = some e → x.state = 10 →
    e.ends ≤ (s.pass dt).now → e.here = true → (z, k) = (if bit e.dirs 1 = true then x.checkAll e.pattern e.chk rx else (x, e.chk)) →
    exec (.laneTestEnd dt lane rx) s = .next ((s.pass dt).setLane lane.val (inTrain { z with
      injected := sat 32 (z.injected + (s.pass dt).periodic lane.val e), fails := 0, single := false } (s.pass dt).now 0))) ∧
  (∀ (dt : Nat) (lane : Fin 36) (block : Bytes) (s : State), goodBlock block 0x88 = true →
    exec (.testReport dt lane block) s = .next ((s.pass dt).setLane lane.val { s.lane lane.val with report := block }))

/-- Rows LINK_TIME_SEND, ECHO_MEASURE, LT_ECHO (R260, R265, R269 to R271). -/
def Obligations.LinkTimeIsSentAndMeasured : Prop :=
  (∀ (dt : Nat) (lane : Fin 36) (s : State) (x : Lane), s.lane lane.val = x → (x.state = 6 ∨ x.state = 11) → lane.val < 32 →
    s.clk.run = true → x.ltAt + 4096 ≤ (s.pass dt).clk.tclk →
    exec (.linkTimeSend dt lane) s = .next (((s.pass dt).setLane lane.val { x with ltAt := (s.pass dt).clk.tclk }).emit
      (.block lane.val (linkTimeBlock (s.pass dt).link false (if x.delayOk then some x.delay else none) 0xF)))) ∧
  (∀ (dt : Nat) (lane : Fin 36) (s : State), ((s.lane lane.val).state ≠ 6 ∧ (s.lane lane.val).state ≠ 11 ∨ s.clk.run = false ∨
      (s.pass dt).clk.tclk < (s.lane lane.val).ltAt + 4096) → exec (.linkTimeSend dt lane) s = .next (s.pass dt)) ∧
  (∀ (dt k m : Nat) (lane : Fin 36) (s : State), ((s.lane lane.val).state = 6 ∨ (s.lane lane.val).state = 11) → lane.val = 32 + k → (s.spare k).ltNext = m →
    s.clk.run = true → (s.lane lane.val).ltAt + 4096 ≤ (s.pass dt).clk.tclk →
    exec (.linkTimeSend dt lane) s = .next { s.pass dt with
      spares := put s.spares k { s.spare k with ltNext := (m + 1) % 8 }
      lanes := put s.lanes lane.val { s.lane lane.val with ltAt := (s.pass dt).clk.tclk }
      out := .block lane.val (linkTimeBlock (s.pass dt).link false (look (s.spare k).delays m) m) :: s.out }) ∧
  (∀ (dt : Nat) (lane : Fin 36) (s : State) (x : Lane), s.lane lane.val = x → x.state = 6 → lane.val < 32 →
    s.clk.run = true → x.echoDue + s.par P.linkHeadEchoMs * perMs ≤ (s.pass dt).now →
    exec (.echoMeasure dt lane) s = .next { s.pass dt with
      lanes := put s.lanes lane.val { x with
        echoAt := some (s.pass dt).clk.tclk, echoDue := (s.pass dt).now, echoVal := ((s.pass dt).link * 256 + (if x.delayOk then x.delay else 0)) / 256 % 2 ^ 32 }
      out := .block lane.val (linkTimeBlock (s.pass dt).link true (if x.delayOk then some x.delay else none) 0xF) :: s.out }) ∧
  (∀ (dt k : Nat) (lane : Fin 36) (s : State) (x : Lane), s.lane lane.val = x → x.state = 6 → lane.val = 32 + k →
    s.clk.run = true → x.echoDue + s.par P.linkHeadEchoMs * perMs ≤ (s.pass dt).now →
    exec (.echoMeasure dt lane) s = .next { s.pass dt with
      lanes := put s.lanes lane.val { x with
        echoAt := some (s.pass dt).clk.tclk, echoDue := (s.pass dt).now, echoVal := ((s.pass dt).link * 256 + (look (s.spare k).delays (s.spare k).sel).getD 0) / 256 % 2 ^ 32 }
      out := .block lane.val (linkTimeBlock (s.pass dt).link true (look (s.spare k).delays (s.spare k).sel) (s.spare k).sel) :: s.out }) ∧
  (∀ (dt dep d : Nat) (lane : Fin 36) (block : Bytes) (frac : Fin 256) (s : State) (x : Lane), goodBlock block 0x95 = true → u8 block 1 = 0xF →
    lane.val < 32 → s.lane lane.val = x → x.echoAt = some dep → beN (slice block 2 4) = x.echoVal →
    d = min 0x00FFFFFF (((s.pass dt).clk.tclk * 256 + frac.val - dep * 256 - 256 * u8 block 6) / 2) →
    (x.delayOk = false ∨ (x.delay ≤ d + 256 ∧ d ≤ x.delay + 256)) →
    exec (.ltEcho dt lane block frac) s = .next ((s.pass dt).setLane lane.val { x with echoAt := none, delay := d, delayOk := true })) ∧
  (∀ (dt dep d : Nat) (lane : Fin 36) (block : Bytes) (frac : Fin 256) (s : State) (x : Lane), goodBlock block 0x95 = true → u8 block 1 = 0xF →
    lane.val < 32 → s.lane lane.val = x → x.echoAt = some dep → beN (slice block 2 4) = x.echoVal →
    d = min 0x00FFFFFF (((s.pass dt).clk.tclk * 256 + frac.val - dep * 256 - 256 * u8 block 6) / 2) → x.delayOk = true →
    (x.delay + 256 < d ∨ d + 256 < x.delay) → Takes s F.linkTimeDrift lane.val idNone →
    ∃ t, exec (.ltEcho dt lane block frac) s = .next t ∧
      Recorded ((s.pass dt).setLane lane.val { x with echoAt := none, delay := d, delayOk := true }) t F.linkTimeDrift lane.val idNone 0) ∧
  (∀ (dt k m dep d : Nat) (lane : Fin 36) (block : Bytes) (frac : Fin 256) (s : State) (x : Lane), goodBlock block 0x95 = true → u8 block 1 = m → m < 8 →
    lane.val = 32 + k → (s.spare k).sel = m → s.lane lane.val = x → x.echoAt = some dep → beN (slice block 2 4) = x.echoVal →
    d = min 0x00FFFFFF (((s.pass dt).clk.tclk * 256 + frac.val - dep * 256 - 256 * u8 block 6) / 2) → look (s.spare k).delays m = none →
    exec (.ltEcho dt lane block frac) s = .next { s.pass dt with
      lanes := put s.lanes lane.val { x with echoAt := none, delay := d, delayOk := true }
      spares := put s.spares k { s.spare k with delays := put (s.spare k).delays m d } }) ∧
  (∀ (dt : Nat) (lane : Fin 36) (block : Bytes) (frac : Fin 256) (s : State), goodBlock block 0x95 = true → u8 block 1 < 16 →
    ((s.lane lane.val).echoAt = none ∨ beN (slice block 2 4) ≠ (s.lane lane.val).echoVal) → exec (.ltEcho dt lane block frac) s = .next (s.pass dt)) ∧
  (∀ (dt : Nat) (lane : Fin 36) (block : Bytes) (frac : Fin 256) (s : State), (goodBlock block 0x95 = false ∨ 16 ≤ u8 block 1) →
    Takes s F.upstreamBad lane.val idNone →
    ∃ t, exec (.ltEcho dt lane block frac) s = .next t ∧
      Recorded ((s.pass dt).setLane lane.val { s.lane lane.val with upBad := sat 32 ((s.lane lane.val).upBad + 1) }) t F.upstreamBad lane.val idNone 0)

/-- Rows HEAD_STATUS, HEAD_MUTE, HEAD_UNMUTE, HEAD_CARD_READ, HEAD_CARD_REFRESH (R195, R197, R198, R281, R283, R292, R530). -/
def Obligations.HeadCommandsAnswer : Prop :=
  (∀ (dt b first n : Nat) (w : Sess) (s : State) (c : Cmd), Holds s w c 0x0701 4 → s.pwr.kind ≠ 2 → u8 c.pay 0 = b → b < 8 → u8 c.pay 1 = first →
    u8 c.pay 2 = n → 1 ≤ n → n ≤ 19 → first + n ≤ 20 → u8 c.pay 3 = 0 →
    ∃ t, exec (.headStatus dt w) s = .next t ∧
      Answered (s.pass dt) t w c St.ok (leB 1 b ++ leB 1 first ++ leB 1 n ++ leB 1 0 ++ (List.range n).flatMap (fun k =>
        let i := 20 * b + first + k
        leB 2 (match (s.head i).temp with | some t => unsigned 16 t | none => 0x8000) ++
          leB 1 (b2n (s.head i).mTemp + 2 * b2n (s.faultMuted i) + 4 * b2n (s.head i).mHost + 16 * b2n (s.head i).soft) ++
          leB 1 (s.slotLink i).valid ++ leB 4 (s.head i).tempT.toNat ++ leB 1 (s.slotLink i).flags.toNat ++ leB 3 0))) ∧
  (∀ (dt : Nat) (w : Sess) (s : State) (c : Cmd), Holds s w c 0x0702 24 → s.pwr.kind ≠ 2 → u32 c.pay 20 = 0 →
    ∃ t u, exec (.headMute dt w) s = .next t ∧ u = { s.pass dt with fire := { s.fire with heads := u.fire.heads } } ∧
      (∀ i, u.head i = if i < 160 ∧ bit (fld c.pay 0 20) i = true then { s.head i with mHost := true } else s.head i) ∧
      Answered u t w c St.ok (leB 4 s.fire.next)) ∧
  (∀ (dt : Nat) (w : Sess) (s : State) (c : Cmd) (left : List Nat), Holds s w c 0x0703 24 → s.pwr.kind ≠ 2 → u32 c.pay 20 = 0 →
    left = (unmask 160 (fld c.pay 0 20)).filter (fun i => (s.head i).mTemp && !(match (s.head i).temp with
      | some t => decide (t < s.parS 16 (P.fireBarSlotTempHard i) - (s.par (P.fireBarSlotTempHyst i) : Int)) | none => false)) →
    ∃ t u, exec (.headUnmute dt w) s = .next t ∧ u = { s.pass dt with fire := { s.fire with heads := u.fire.heads } } ∧
      (∀ i, u.head i = if i < 160 ∧ bit (fld c.pay 0 20) i = true then { s.head i with mHost := false, mTemp := left.contains i } else s.head i) ∧
      Answered u t w c (if left = [] then St.ok else St.state) (leB 4 s.fire.next ++ leB 20 (maskOf left))) ∧
  (∀ (dt i first n : Nat) (w : Sess) (s : State) (c : Cmd) (b : Bytes), Holds s w c 0x0704 4 → s.pwr.kind ≠ 2 → u8 c.pay 0 = i → i < 160 →
    u8 c.pay 1 = first → u8 c.pay 2 = n → 1 ≤ n → n ≤ 4 → first + n ≤ 8 → u8 c.pay 3 = 0 → (s.legacyOf i).isSome = false → (s.slotLink i).card = some b →
    ∃ t, exec (.headCardRead dt w) s = .next t ∧
      Answered (s.pass dt) t w c St.ok (leB 1 (s.slotLink i).valid ++ leB 3 0 ++ slice b (32 * first) (32 * n))) ∧
  (∀ (dt i l : Nat) (w : Sess) (s : State) (c : Cmd) (x : Lane), Holds s w c 0x0705 4 → s.pwr.kind ≠ 2 → HasRoom s w → u8 c.pay 0 = i → i < 160 →
    fld c.pay 1 3 = 0 → (s.legacyOf i).isSome = false → (s.primaryFor i).bind (fun l => s.carrier l s.fire.next) = some l → s.lane l = x →
    x.state = 6 → x.info = none → x.todo = [] →
    ∃ t u, exec (.headCardRefresh dt w) s = .next t ∧
      u = { s.pass dt with
        links := put s.links i { s.slotLink i with refresh := (s.slotLink i).refresh ++ [(w, c.seq)] }
        lanes := put s.lanes l { x with info := some { j := s.slotPos i, tag := BitVec.ofNat 8 (Config.value s.free), sentAt := (s.pass dt).now } }
        out := .block l (infoReadBlock (s.slotPos i) (BitVec.ofNat 8 (Config.value s.free)) 0) :: s.out
        free := s.free + 1 } ∧
      Waiting u t w c i [] [])

/-- Rows STATUS_BLOCK, HEAD_TEMP_STALE (R195, R196, R260, R277, R279, R293). -/
def Obligations.HeadsReport : Prop :=
  (∀ (dt j v cc p i raw fl : Nat) (lane : Fin 36) (block : Bytes) (s : State) (x : SlotLink), goodBlock block 0x94 = true →
    u8 block 1 = j + 8 * v + 16 * cc → j < 8 → v ≤ 1 → cc ≤ 1 → u8 block 4 = fl → bit fl 7 = false → s.primaryOf lane.val = some p →
    (s.lane lane.val).state = 6 → j < (s.lane p).slots → i = 20 * (p / 4) + s.firstSlot p + j → s.slotLink i = x → raw = beN (slice block 2 2) →
    (∀ n ∈ [F.headTempSoft, F.headTempHard, F.headFrameCrc, F.headRepeat, F.headFireMiss, F.headError, F.linkTimeLost], Calm s n) →
    ∃ t, exec (.statusBlock dt lane block) s = .next t ∧
      t.slotLink i = { x with
        ltValid := decide (v = 1), alive := BitVec.ofNat 16 (beN (slice block 5 2)), flags := BitVec.ofNat 8 fl,
        frameErr := sat 32 (x.frameErr + b2n (bit fl 0) + b2n (bit fl 1)),
        fireMiss := sat 32 (x.fireMiss + b2n (bit fl 2 || bit fl 3 || bit fl 6)) } ∧
      (∀ k, k ≠ i → t.slotLink k = s.slotLink k ∧ t.head k = s.head k) ∧
      (raw = 0x8000 → t.head i = s.head i) ∧
      (raw ≠ 0x8000 → (t.head i).temp = some (signed 16 raw) ∧ (t.head i).tempT = (s.pass dt).t32 ∧ (t.head i).mHost = (s.head i).mHost) ∧
      (raw ≠ 0x8000 → s.hasLimits i = true → s.parS 16 (P.fireBarSlotTempSoft i) ≤ signed 16 raw → (t.head i).soft = true) ∧
      (raw ≠ 0x8000 → s.hasLimits i = true → s.parS 16 (P.fireBarSlotTempHard i) ≤ signed 16 raw → (t.head i).mTemp = true) ∧
      (cc = 0 → t.lanes = s.lanes) ∧ (lane.val < 32 → t.spares = s.spares) ∧
      Touched { s.pass dt with fire := { s.fire with heads := t.fire.heads }, links := t.links, lanes := t.lanes, spares := t.spares } t) ∧
  (∀ (dt : Nat) (lane : Fin 36) (block : Bytes) (s : State), (goodBlock block 0x94 = false ∨ 32 ≤ u8 block 1 ∨ bit (u8 block 4) 7 = true) →
    Takes s F.upstreamBad lane.val idNone →
    ∃ t, exec (.statusBlock dt lane block) s = .next t ∧
      Recorded ((s.pass dt).setLane lane.val { s.lane lane.val with upBad := sat 32 ((s.lane lane.val).upBad + 1) }) t F.upstreamBad lane.val idNone 0) ∧
  (∀ (dt : Nat) (slot : Fin 160) (s : State), s.hasLimits slot.val = true → (s.head slot.val).stale = false →
    (s.head slot.val).tempAt + s.par P.fireTempStaleMs * perMs ≤ (s.pass dt).now → Takes s F.headTempStale slot.val idNone →
    (s.src F.headTempStale).conds.contains (BitVec.ofNat 32 slot.val) = false →
    ∃ t u, exec (.headTempStale dt slot) s = .next t ∧
      Recorded ((s.pass dt).setHead slot.val { s.head slot.val with stale := true, soft := true }) u F.headTempStale slot.val idNone 0 ∧
      t = u.refresh)

/-- Rows INFO_DATA, INFO_TIMEOUT (R260, R280 to R283, R292); the tag of a read is the model's free value (log 11). -/
def Obligations.HeadCardsAreRead : Prop :=
  (∀ (dt : Nat) (lane : Fin 36) (block data : Bytes) (s : State) (r : InfoRead) (tag : BitVec 8), goodBlock block 0x97 = true → u8 block 1 = r.j → r.j < 8 →
    u8 block 6 = 0 → u8 block 2 = r.tag.toNat → u8 block 3 = r.chunk → data.length = 32 → crc16 data = beN (slice block 4 2) →
    (s.lane lane.val).info = some r → r.again = false → r.chunk < 7 → tag = BitVec.ofNat 8 (Config.value s.free) →
    exec (.infoData dt lane block data) s = .next { s.pass dt with
      lanes := put s.lanes lane.val { s.lane lane.val with info := some { r with chunk := r.chunk + 1, tries := 0, tag := tag, sentAt := (s.pass dt).now, buf := r.buf ++ data } }
      out := .block lane.val (infoReadBlock r.j tag (r.chunk + 1)) :: s.out
      free := s.free + 1 }) ∧
  (∀ (dt i : Nat) (lane : Fin 36) (block data : Bytes) (s : State) (r : InfoRead), goodBlock block 0x97 = true → u8 block 1 = r.j → r.j < 8 →
    u8 block 6 = 0 → u8 block 2 = r.tag.toNat → u8 block 3 = r.chunk → data.length = 32 → crc16 data = beN (slice block 4 2) →
    (s.lane lane.val).info = some r → r.again = false → r.chunk = 7 → (s.lane lane.val).todo = [] → lane.val < 32 →
    i = 20 * (lane.val / 4) + s.firstSlot lane.val + r.j → (s.slotLink i).refresh = [] → (s.slotLink i).card = none →
    cardValid (r.buf ++ data) = 3 →
    exec (.infoData dt lane block data) s = .next { s.pass dt with
      lanes := put s.lanes lane.val { s.lane lane.val with info := none }
      links := put s.links i { s.slotLink i with card := some (r.buf ++ data), valid := 3 } }) ∧
  (∀ (dt i : Nat) (lane : Fin 36) (block data : Bytes) (s : State) (r : InfoRead), goodBlock block 0x97 = true → u8 block 1 = r.j → r.j < 8 →
    u8 block 6 = 0 → u8 block 2 = r.tag.toNat → u8 block 3 = r.chunk → data.length = 32 → crc16 data = beN (slice block 4 2) →
    (s.lane lane.val).info = some r → r.again = false → r.chunk = 7 → (s.lane lane.val).todo = [] → lane.val < 32 →
    i = 20 * (lane.val / 4) + s.firstSlot lane.val + r.j → (s.slotLink i).refresh = [] → cardValid (r.buf ++ data) ≠ 3 → Takes s F.headCardBad i idNone →
    ∃ t u, exec (.infoData dt lane block data) s = .next t ∧
      u = { s.pass dt with
        lanes := put s.lanes lane.val { s.lane lane.val with info := none }
        links := put s.links i { s.slotLink i with card := some (r.buf ++ data), valid := cardValid (r.buf ++ data) } } ∧
      (t.src F.headCardBad).sticky = true ∧ (t.src F.headCardBad).hits = sat 16 ((s.src F.headCardBad).hits + 1) ∧ t.links = u.links ∧ Touched u t) ∧
  (∀ (dt : Nat) (lane : Fin 36) (s : State) (r : InfoRead) (tag : BitVec 8), (s.lane lane.val).info = some r → r.again = false →
    r.sentAt + s.par P.linkHeadInfoTimeoutUs * perUs ≤ (s.pass dt).now → r.tries < 2 →
    tag = BitVec.ofNat 8 (Config.value s.free) →
    exec (.infoTimeout dt lane) s = .next { s.pass dt with
      lanes := put s.lanes lane.val { s.lane lane.val with info := some { r with tries := r.tries + 1, tag := tag, sentAt := (s.pass dt).now } }
      out := .block lane.val (infoReadBlock r.j tag r.chunk) :: s.out
      free := s.free + 1 }) ∧
  (∀ (dt i : Nat) (lane : Fin 36) (s : State) (r : InfoRead), (s.lane lane.val).info = some r → r.again = false →
    r.sentAt + s.par P.linkHeadInfoTimeoutUs * perUs ≤ (s.pass dt).now → 2 ≤ r.tries → (s.lane lane.val).todo = [] →
    lane.val < 32 → i = 20 * (lane.val / 4) + s.firstSlot lane.val + r.j → (s.slotLink i).refresh = [] → Takes s F.headInfoTimeout i idNone →
    ∃ t u, exec (.infoTimeout dt lane) s = .next t ∧ u = (s.pass dt).setLane lane.val { s.lane lane.val with info := none } ∧
      (t.src F.headInfoTimeout).sticky = true ∧ (t.src F.headInfoTimeout).hits = sat 16 ((s.src F.headInfoTimeout).hits + 1) ∧
      Touched { u with links := t.links } t ∧ ∀ k, t.slotLink k = s.slotLink k) ∧
  (∀ (dt : Nat) (lane : Fin 36) (s : State) (r : InfoRead) (tag : BitVec 8), (s.lane lane.val).info = some r → tag = BitVec.ofNat 8 (Config.value s.free) →
    ((s.pass dt).now < r.sentAt + s.par P.linkHeadInfoTimeoutUs * perUs → exec (.infoTimeout dt lane) s = .next (s.pass dt)) ∧
    (r.sentAt + s.par P.linkHeadInfoTimeoutUs * perUs ≤ (s.pass dt).now → r.again = true → exec (.infoTimeout dt lane) s = .next { s.pass dt with
      lanes := put s.lanes lane.val { s.lane lane.val with info := some { j := r.j, tag := tag, sentAt := (s.pass dt).now } }
      out := .block lane.val (infoReadBlock r.j tag 0) :: s.out
      free := s.free + 1 })) ∧
  (∀ (dt : Nat) (lane : Fin 36) (block data : Bytes) (s : State), (goodBlock block 0x97 = false ∨ bit (u8 block 1) 3 = true ∨ u8 block 6 ≠ 0) →
    Takes s F.upstreamBad lane.val idNone →
    ∃ t, exec (.infoData dt lane block data) s = .next t ∧
      Recorded ((s.pass dt).setLane lane.val { s.lane lane.val with upBad := sat 32 ((s.lane lane.val).upBad + 1) }) t F.upstreamBad lane.val idNone 0) ∧
  (∀ (i : Nat) (w : Sess) (seq : BitVec 32) (s : State) (p : Pend), (s.slotLink i).refresh = [(w, seq)] → s.pend? w seq = some p →
    (∃ q, (s.ses w).cq = some q) →
    Posted { s with links := put s.links i { s.slotLink i with refresh := [] } } (s.finishRefresh i) p St.ok i (s.slotLink i).valid 0)

/-- Rows MOTION_STATUS, MOTION_CEILING, MOTION_MARKS, MOTION_CHANNEL_SELECT (R302, R304, R310, R315, R319, R320, R532). -/
def Obligations.MotionCommandsAnswer : Prop :=
  (∀ (dt : Nat) (w : Sess) (s : State) (c : Cmd), Holds s w c 0x0A01 0 → s.pwr.kind ≠ 2 →
    ∃ t, exec (.motionStatus dt w) s = .next t ∧
      Answered (s.pass dt) t w c St.ok ((List.range 4).flatMap (fun k =>
          leB 1 (s.encState k) ++ leB 1 (s.enc k).dir ++ leB 2 0 ++ leB 4 (s.enc k).count.toNat ++ leB 4 (s.enc k).idxCount.toNat ++
            leB 4 (s.enc k).idxT32.toNat ++ leB 4 (unsigned 32 (s.enc k).dev)) ++
        leB 1 s.motion.fireCh ++ leB 1 (b2n s.motion.vValid) ++ leB 2 0 ++ leB 8 (unsigned 64 s.motion.w) ++ leB 8 (unsigned 64 s.motion.wMax) ++
        leB 4 s.pos ++ leB 4 s.lps ++ leB 4 s.edgeHz)) ∧
  (∀ (dt : Nat) (w : Sess) (s : State) (c : Cmd), Holds s w c 0x0A02 0 → s.pwr.kind ≠ 2 →
    ∃ t, exec (.motionCeiling dt w) s = .next t ∧
      Answered (s.pass dt) t w c St.ok (leB 4 0x4D535043 ++ leB 4 s.motion.seq.toNat ++ leB 4 s.ceiling ++ leB 4 s.pressMax ++ leB 4 s.draughtLps ++
        leB 4 s.hopperLps ++ leB 4 s.headLps ++ leB 4 s.lps ++
        leB 1 (b2n s.pressHoldN + 2 * b2n s.motion.vValid + 4 * b2n s.motion.rev + 8 * b2n (s.src F.encLost).sticky) ++ leB 3 0 ++
        leB 4 s.motion.ceilT32.toNat)) ∧
  (∀ (dt k : Nat) (w : Sess) (s : State) (c : Cmd), Holds s w c 0x0A03 4 → s.pwr.kind ≠ 2 → u8 c.pay 0 = k → k < 4 → fld c.pay 1 3 = 0 →
    ∃ t, exec (.motionMarks dt w) s = .next t ∧
      Answered (s.pass dt) t w c St.ok
        (leB 1 k ++ leB 1 (if s.par (P.motionMarkEnable k) = 0 then 0 else if (s.mark k).locked then 2 else 1) ++ leB 2 0 ++
          leB 4 (unsigned 32 (s.mark k).err) ++ leB 4 (s.mark k).spur ++ (List.range 4).flatMap (fun i =>
            match (s.mark k).last[i]? with
            | some r => leB 4 r.datum.toNat ++ leB 4 r.t32.toNat ++ leB 1 (b2n r.fly) ++ leB 3 0
            | none => leB 4 0 ++ leB 4 0 ++ leB 1 0xFF ++ leB 3 0))) ∧
  (∀ (dt k : Nat) (w : Sess) (s : State) (c : Cmd), Holds s w c 0x0A04 4 → s.pwr.kind ≠ 2 → u8 c.pay 0 = k → k < 4 → fld c.pay 1 3 = 0 →
    s.encState k = 1 → s.activeJobs = [] → Calm s F.encLost →
    ∃ t u, exec (.motionChannelSelect dt w) s = .next t ∧ Answered u t w c St.ok [] ∧ u.motion.fireCh = k ∧
      u.par P.motionFireChannel = k ∧ u.parLine P.motionFireChannel = k ∧ u.motion.w = s.motion.w ∧ u.motion.wMax = s.motion.wMax ∧
      (∀ j, (u.enc j).count = (s.enc j).count ∧ (u.enc j).dir = (s.enc j).dir) ∧
      (k ≠ s.motion.fireCh → u.motion.vValid = false ∧ u.motion.vEdges = 0 ∧ u.fire.sched = false ∧ (u.enc k).pos = 0) ∧
      (k = s.motion.fireCh → u.motion = s.motion ∧ u.fire = s.fire) ∧
      Touched { s.pass dt with
        params := { s.params with acc := u.params.acc, line := u.params.line }
        motion := u.motion
        fire := { s.fire with sched := u.fire.sched } } u)

/-- Row ENCODER_EDGE (R296, R298, R299, R302, R305, R307). -/
def Obligations.EncodersCount : Prop :=
  (∀ (dt c : Nat) (ch : Fin 4) (a b : Bool) (un : List (Fin 160)) (s : State) (e f : Enc), ch.val = c → s.enc c = e → f = filteredEnc (s.pass dt).clk.tclk (s.par (P.motionEncFilter c)) e a b →
    s.encState c ≠ 1 →
    exec (.encoderEdge dt ch a b un) s = .next ((s.pass dt).setEnc c f)) ∧
  (∀ (dt c : Nat) (ch : Fin 4) (a b : Bool) (un : List (Fin 160)) (s : State) (e f : Enc), ch.val = c → s.enc c = e → f = filteredEnc (s.pass dt).clk.tclk (s.par (P.motionEncFilter c)) e a b →
    s.encState c = 1 →
    s.motion.fireCh ≠ c → s.backup ≠ some c → quadSteps (s.par (P.motionEncInvert c) == 1) e.a e.b f.a f.b = 1 →
    exec (.encoderEdge dt ch a b un) s = .next ((s.pass dt).setEnc c { f with dir := 1, count := e.count + 1 })) ∧
  (∀ (dt c : Nat) (ch : Fin 4) (a b : Bool) (un : List (Fin 160)) (s : State) (e f : Enc), ch.val = c → s.enc c = e → f = filteredEnc (s.pass dt).clk.tclk (s.par (P.motionEncFilter c)) e a b →
    s.encState c = 1 →
    s.motion.fireCh ≠ c → s.backup ≠ some c → quadSteps (s.par (P.motionEncInvert c) == 1) e.a e.b f.a f.b = 3 →
    exec (.encoderEdge dt ch a b un) s = .next ((s.pass dt).setEnc c { f with dir := 2, count := e.count - 1 })) ∧
  (∀ (dt c : Nat) (ch : Fin 4) (a b : Bool) (un : List (Fin 160)) (s : State) (e f : Enc), ch.val = c → s.enc c = e → f = filteredEnc (s.pass dt).clk.tclk (s.par (P.motionEncFilter c)) e a b →
    s.encState c = 1 →
    quadSteps (s.par (P.motionEncInvert c) == 1) e.a e.b f.a f.b = 0 →
    exec (.encoderEdge dt ch a b un) s = .next ((s.pass dt).setEnc c f)) ∧
  (∀ (dt c : Nat) (ch : Fin 4) (a b : Bool) (un : List (Fin 160)) (s : State) (e f : Enc), ch.val = c → s.enc c = e → f = filteredEnc (s.pass dt).clk.tclk (s.par (P.motionEncFilter c)) e a b →
    s.encState c = 1 →
    s.motion.fireCh ≠ c → s.backup ≠ some c → quadSteps (s.par (P.motionEncInvert c) == 1) e.a e.b f.a f.b = 2 → e.dir ≠ 0 → Takes s F.qskip c idNone →
    ∃ t u, exec (.encoderEdge dt ch a b un) s = .next t ∧
      Recorded ((s.pass dt).setEnc c f) u F.qskip c idNone 0 ∧
      t = u.setEnc c { f with count := if e.dir = 1 then e.count + 2 else e.count - 2 }) ∧
  (∀ (dt c : Nat) (ch : Fin 4) (a b : Bool) (un : List (Fin 160)) (s : State) (e f : Enc), ch.val = c → s.enc c = e → f = filteredEnc (s.pass dt).clk.tclk (s.par (P.motionEncFilter c)) e a b →
    s.encState c = 1 →
    s.motion.fireCh ≠ c → quadSteps (s.par (P.motionEncInvert c) == 1) e.a e.b f.a f.b = 2 → e.dir = 0 → Takes s F.qambig c idNone →
    ∃ t, exec (.encoderEdge dt ch a b un) s = .next t ∧
      Recorded ((s.pass dt).setEnc c f) t F.qambig c idNone 0) ∧
  (∀ (dt c d : Nat) (ch : Fin 4) (a b : Bool) (un : List (Fin 160)) (s : State) (e f : Enc) (w : Int), ch.val = c → s.enc c = e → f = filteredEnc (s.pass dt).clk.tclk (s.par (P.motionEncFilter c)) e a b →
    s.encState c = 1 →
    s.motion.fireCh = c → s.backup = none → s.motion.corr = [] → s.motion.trim = [] → s.motion.vValid = false → s.motion.rev = false →
    quadSteps (s.par (P.motionEncInvert c) == 1) e.a e.b f.a f.b = d → (d = 1 ∨ d = 3) →
    w = s.motion.w + (if d = 1 then (s.parLine (P.motionEncCountWu c) : Int) else -(s.parLine (P.motionEncCountWu c) : Int)) →
    max e.maxPos (e.pos + 1) - (e.pos - 1) ≤ (s.par P.motionFireRevwin : Int) →
    max s.motion.wMax w / (s.lineLen : Int) = s.motion.wMax / (s.lineLen : Int) →
    ∃ t, exec (.encoderEdge dt ch a b un) s = .next t ∧ t.motion.w = w ∧ t.motion.wMax = max s.motion.wMax w ∧
      (t.enc c).count = (if d = 1 then e.count + 1 else e.count - 1) ∧ (t.enc c).dir = (if d = 1 then 1 else 2) ∧
      t.motion.vEdges = (if d = 1 then s.motion.vEdges + 1 else 0) ∧ t.motion.vValid = (decide (d = 1) && decide (15 ≤ s.motion.vEdges)) ∧
      t.motion.lastEdge = (s.pass dt).now ∧ (∀ k, k ≠ c → t.enc k = s.enc k) ∧
      Touched { s.pass dt with motion := t.motion, fire := { s.fire with descs := t.fire.descs } } t)

/-- Rows ENC_WIRE, WIRE_DISAGREEMENT_END, INDEX_EDGE (R297, R300, R301, R304). -/
def Obligations.EncoderFaultsAndIndex : Prop :=
  (∀ (dt held : Nat) (ch : Fin 4) (wire : Fin 3) (s : State), s.par (P.motionEncEnable ch.val) = 0 ∨ held < s.par (P.motionEncWireTclk ch.val) →
    exec (.encWire dt ch wire held) s = .next (s.pass dt)) ∧
  (∀ (dt c held : Nat) (ch : Fin 4) (wire : Fin 3) (s : State) (e : Enc), ch.val = c → s.enc c = e → s.par (P.motionEncEnable c) ≠ 0 →
    s.par (P.motionEncWireTclk c) ≤ held → Takes s F.encWire (4 * c + wire.val) idNone → (s.src F.encWire).conds.contains (BitVec.ofNat 32 (4 * c + wire.val)) = false →
    ∃ t u, exec (.encWire dt ch wire held) s = .next t ∧
      Recorded ((s.pass dt).setEnc c { e with wires := addTo e.wires wire.val, failed := e.failed || wire.val != 2 }) u
        F.encWire (4 * c + wire.val) idNone 0 ∧ t = u.lostCheck) ∧
  (∀ (dt c : Nat) (ch : Fin 4) (wire : Fin 3) (s : State) (e : Enc), ch.val = c → s.enc c = e →
    ∃ t, exec (.wireDisagreementEnd dt ch wire) s = .next t ∧
      t = ((s.pass dt).setEnc c { e with wires := e.wires.filter (· != wire.val) }).setSrc F.encWire { s.src F.encWire with
        conds := (s.src F.encWire).conds.filter (· != BitVec.ofNat 32 (4 * c + wire.val)) }) ∧
  (∀ (dt c : Nat) (ch : Fin 4) (s : State), ch.val = c → (s.encState c ≠ 1 ∨ (s.enc c).wires.contains 2 = true ∨
      (s.pass dt).clk.tclk < (s.enc c).zAt + 2 * (s.par (P.motionEncFilter c) + 1)) →
    exec (.indexEdge dt ch) s = .next (s.pass dt)) ∧
  (∀ (dt c : Nat) (ch : Fin 4) (s : State) (e : Enc), ch.val = c → s.enc c = e → s.encState c = 1 → e.wires.contains 2 = false → e.zAt + 2 * (s.par (P.motionEncFilter c) + 1) ≤ (s.pass dt).clk.tclk → e.dir ≠ 1 →
    exec (.indexEdge dt ch) s = .next ((s.pass dt).setEnc c { e with idxCount := e.count, idxT32 := (s.pass dt).t32, idxLink := (s.pass dt).link, zAt := (s.pass dt).clk.tclk })) ∧
  (∀ (dt c cpr : Nat) (ch : Fin 4) (s : State) (e : Enc), ch.val = c → s.enc c = e → s.encState c = 1 → e.wires.contains 2 = false → e.zAt + 2 * (s.par (P.motionEncFilter c) + 1) ≤ (s.pass dt).clk.tclk → e.dir = 1 →
    s.par (P.motionEncCpr c) = cpr → indexCounts cpr e.ref e.count = none →
    exec (.indexEdge dt ch) s = .next ((s.pass dt).setEnc c { e with
      idxCount := e.count, idxT32 := (s.pass dt).t32, idxLink := (s.pass dt).link, zAt := (s.pass dt).clk.tclk, ref := if cpr = 0 then none else some e.count })) ∧
  (∀ (dt c cpr : Nat) (ch : Fin 4) (s : State) (e : Enc) (r : BitVec 32) (dev : Int), ch.val = c → s.enc c = e → s.encState c = 1 →
    e.wires.contains 2 = false → e.zAt + 2 * (s.par (P.motionEncFilter c) + 1) ≤ (s.pass dt).clk.tclk → e.dir = 1 → s.par (P.motionEncCpr c) = cpr → cpr ≠ 0 → e.ref = some r → (e.count - r).toInt.natAbs ≤ 2 * cpr →
    dev = (e.count - r).toInt - cpr → dev.natAbs ≤ s.par (P.motionEncIndexTol c) → Takes s F.indexDrift c idNone →
    ∃ t u, exec (.indexEdge dt ch) s = .next t ∧
      Recorded ((s.pass dt).setEnc c { e with
        idxCount := e.count, idxT32 := (s.pass dt).t32, idxLink := (s.pass dt).link, zAt := (s.pass dt).clk.tclk, ref := some e.count, dev := dev }) u F.indexDrift c idNone 0 ∧
      t = if s.par (P.motionEncIndexCorrect c) = 1 ∧ s.motion.fireCh = c then
        { u with motion := { u.motion with corr := s.motion.corr ++ [{ total := dev * s.parLine (P.motionEncCountWu c), span := 1024 }] } } else u) ∧
  (∀ (dt c cpr : Nat) (ch : Fin 4) (s : State) (e : Enc) (r : BitVec 32) (dev : Int), ch.val = c → s.enc c = e → s.encState c = 1 →
    e.wires.contains 2 = false → e.zAt + 2 * (s.par (P.motionEncFilter c) + 1) ≤ (s.pass dt).clk.tclk → e.dir = 1 → s.par (P.motionEncCpr c) = cpr → cpr ≠ 0 → e.ref = some r → (e.count - r).toInt.natAbs ≤ 2 * cpr →
    dev = (e.count - r).toInt - cpr → s.par (P.motionEncIndexTol c) < dev.natAbs → Takes s F.indexSlip c idNone →
    ∃ t, exec (.indexEdge dt ch) s = .next t ∧
      Recorded ((s.pass dt).setEnc c { e with
        idxCount := e.count, idxT32 := (s.pass dt).t32, idxLink := (s.pass dt).link, zAt := (s.pass dt).clk.tclk, ref := some e.count, dev := dev }) t F.indexSlip c idNone 0)

/-- Rows MARK_EDGE, MARK_WINDOW_END, VELOCITY_STOP, CEILING_MESSAGE_PERIOD, CEILING_IGNORED (R307, R309 to R311, R315, R317). -/
def Obligations.MarksVelocityAndCeiling : Prop :=
  (∀ (dt k : Nat) (m : Fin 4) (rising : Bool) (s : State) (x : Mark), m.val = k → s.mark k = x →
    (s.par (P.motionMarkEnable k) = 0 ∨ (s.pass dt).clk.tclk < x.edgeAt + s.par (P.motionMarkFilter k) + 1 →
      exec (.markEdge dt m rising) s = .next (s.pass dt)) ∧
    (s.par (P.motionMarkEnable k) ≠ 0 → x.edgeAt + s.par (P.motionMarkFilter k) + 1 ≤ (s.pass dt).clk.tclk →
      s.par (P.motionMarkPolarity k) = (if rising then 1 else 0) →
      exec (.markEdge dt m rising) s = .next ((s.pass dt).setMark k { x with edgeAt := (s.pass dt).clk.tclk }))) ∧
  (∀ (dt k win : Nat) (m : Fin 4) (rising : Bool) (s : State) (x : Mark) (e : Int), m.val = k → s.par (P.motionMarkEnable k) ≠ 0 → s.mark k = x →
    x.edgeAt + s.par (P.motionMarkFilter k) + 1 ≤ (s.pass dt).clk.tclk → s.par (P.motionMarkPolarity k) = (if rising then 0 else 1) → x.locked = true →
    x.expect = some e → s.par (P.motionMarkWindowWu k) * wuUnit = win → win < (s.motion.w - e).natAbs →
    (s.motion.wAt = (s.pass dt).clk.tclk → win < (s.motion.wWas - e).natAbs) →
    exec (.markEdge dt m rising) s = .next ((s.pass dt).setMark k { x with edgeAt := (s.pass dt).clk.tclk, spur := sat 32 (x.spur + 1) })) ∧
  (∀ (dt k win : Nat) (m : Fin 4) (rising : Bool) (s : State) (x : Mark), m.val = k → s.par (P.motionMarkEnable k) ≠ 0 → s.mark k = x →
    x.edgeAt + s.par (P.motionMarkFilter k) + 1 ≤ (s.pass dt).clk.tclk → s.par (P.motionMarkPolarity k) = (if rising then 0 else 1) →
    s.par (P.motionMarkWindowWu k) * wuUnit = win →
    (x.locked = false ∨ ∀ e, x.expect = some e → (s.motion.w - e).natAbs ≤ win ∨
      (s.motion.wAt = (s.pass dt).clk.tclk ∧ (s.motion.wWas - e).natAbs ≤ win)) →
    (s.par (P.motionMarkTrim k) = 0 ∨ s.datumRun = none) → Calm s F.hopperLow →
    ∃ t u d, exec (.markEdge dt m rising) s = .next t ∧
      d = unsigned 32 ((s.motion.w + (s.par (P.motionMarkToDatumWu k) * wuUnit : Nat)) / (s.lineLen : Int)) ∧
      u = { (s.pass dt).setMark k { x with
          edgeAt := (s.pass dt).clk.tclk
          run := x.run + 1, fly := 0, locked := x.locked || decide (s.par (P.motionMarkLockMarks k) ≤ x.run + 1)
          last := ({ datum := BitVec.ofNat 32 d, t32 := (s.pass dt).t32 } :: x.last).take 4
          expect := some (s.motion.w + (s.par (P.motionMarkPitchWu k) * wuUnit : Nat)) } with
        splice := { s.splice with armed := s.splice.armed.map (fun (a : Armed) =>
          if a.ref = 1 ∧ a.input = k ∧ a.lam.isNone then
            { a with left := a.left - 1, lam := if a.left ≤ 1 then some (shift32 d a.off) else none } else a) } } ∧
      RingsKept { u with motion := { u.motion with hopper := u.hopperForecast } } t) ∧
  (∀ (dt k : Nat) (m : Fin 4) (s : State) (x : Mark) (e : Int) (mark : Bool), m.val = k → s.mark k = x → x.expect = some e →
    (mark = true ∨ s.par (P.motionMarkEnable k) = 0 ∨ x.locked = false ∨ s.motion.w ≤ e + (s.par (P.motionMarkWindowWu k) * wuUnit : Nat)) →
    exec (.markWindowEnd dt m mark) s = .next (s.pass dt)) ∧
  (∀ (dt k : Nat) (m : Fin 4) (s : State) (x : Mark) (e : Int), m.val = k → s.mark k = x → x.expect = some e → s.par (P.motionMarkEnable k) ≠ 0 →
    x.locked = true → e + (s.par (P.motionMarkWindowWu k) * wuUnit : Nat) < s.motion.w → x.fly + 1 < s.par (P.motionMarkFlywheelMax k) →
    Calm s F.hopperLow → Takes s F.markMissing k idNone →
    ∃ t, exec (.markWindowEnd dt m false) s = .next t ∧ (t.src F.markMissing).sticky = true ∧
      t.mark k = { x with
        fly := x.fly + 1, err := if s.par (P.motionMarkTrim k) = 1 then 0 else x.err
        last := ({ datum := BitVec.ofNat 32 (unsigned 32 ((e + (s.par (P.motionMarkToDatumWu k) * wuUnit : Nat)) / (s.lineLen : Int))),
                   t32 := (s.pass dt).t32, fly := true } :: x.last).take 4
        expect := some (e + (s.par (P.motionMarkPitchWu k) * wuUnit : Nat)) } ∧
      (∀ j, j ≠ k → t.mark j = s.mark j) ∧ t.motion.w = s.motion.w ∧ t.fire = s.fire) ∧
  (∀ (dt : Nat) (s : State), (s.pass dt).now < s.motion.lastEdge + s.par P.motionVelStopMs * perMs →
    exec (.velocityStop dt) s = .next (s.pass dt)) ∧
  (∀ (dt : Nat) (s : State), s.motion.lastEdge + s.par P.motionVelStopMs * perMs ≤ (s.pass dt).now →
    ∃ t, exec (.velocityStop dt) s = .next t ∧ t.motion.w = s.motion.w ∧ t.motion.wMax = s.motion.wMax ∧
      Touched { s.pass dt with
        motion := { s.motion with vValid := false, vEdges := 0, vSince := 0, vTimes := [] }
        fire := { s.fire with sched := false } } t) ∧
  (∀ (dt : Nat) (s : State), (s.pass dt).now < s.motion.msgAt + s.par P.motionMsgPeriodMs * perMs → exec (.ceilingMessagePeriod dt) s = .next (s.pass dt)) ∧
  (∀ (dt : Nat) (s : State), s.motion.msgAt + s.par P.motionMsgPeriodMs * perMs ≤ (s.pass dt).now → s.par P.motionMsgEnable = 0 →
    exec (.ceilingMessagePeriod dt) s = .next { s.pass dt with motion := { s.motion with msgAt := (s.pass dt).now } }) ∧
  (∀ (dt n : Nat) (s : State) (ports : List Nat), s.motion.msgAt + s.par P.motionMsgPeriodMs * perMs ≤ (s.pass dt).now → s.par P.motionMsgEnable ≠ 0 →
    ports = unmask 2 (s.par P.motionMsgPortMask) → n = ports.length →
    ∃ t, exec (.ceilingMessagePeriod dt) s = .next t ∧ t.motion = { s.motion with msgAt := (s.pass dt).now, seq := s.motion.seq + BitVec.ofNat 32 n } ∧
      t.out.length = s.out.length + n ∧ (∀ i p, ports[i]? = some p → ∃ m, t.out[n - 1 - i]? = some (.datagram p
        (BitVec.ofNat 48 (s.par P.motionMsgIp * 65536 + s.par P.motionMsgUdpPort)) m) ∧
        m = ({ s with motion := { s.motion with seq := s.motion.seq + BitVec.ofNat 32 i } } : State).ceilMsg) ∧
      t = { s.pass dt with motion := t.motion, out := t.out }) ∧
  (∀ (dt : Nat) (s : State), s.ceiling * (1000 + s.par P.motionCeilingOverTolPm) < s.lps * 1000 →
    s.motion.fellAt + s.par P.motionCeilingStopMs * perMs < (s.pass dt).now → Takes s F.ceilingIgnored 0 idNone →
    ∃ t, exec (.ceilingIgnored dt) s = .next t ∧ Recorded (s.pass dt) t F.ceilingIgnored 0 idNone 0) ∧
  (∀ (dt : Nat) (s : State), (s.lps * 1000 ≤ s.ceiling * (1000 + s.par P.motionCeilingOverTolPm) ∨
      (s.pass dt).now ≤ s.motion.fellAt + s.par P.motionCeilingStopMs * perMs) →
    exec (.ceilingIgnored dt) s = .next (s.pass dt))

/-- Rows TIME_STATUS, TIME_SET, TIME_STEP_ARM, TIME_SCHEDULE_ADD, TIME_SCHEDULE_CANCEL, TIME_SCHEDULE_LIST; the number of a new entry is free (log 25). -/
def Obligations.TimeCommandsAnswer : Prop :=
  (∀ (dt : Nat) (w : Sess) (s : State) (c : Cmd), Holds s w c 0x0B01 0 → s.pwr.kind ≠ 2 →
    ∃ t, exec (.timeStatus dt w) s = .next t ∧
      Answered { s.pass dt with time := { s.time with causes := 0 } } t w c St.ok
        (leB 1 s.time.servo ++ leB 1 (b2n s.time.credit) ++ leB 2 s.time.causes.toNat ++ leB 4 (unsigned 32 s.time.offset) ++
          leB 4 s.time.delay ++ leB 4 (unsigned 32 (s.pass dt).clk.rho) ++ leB 4 s.time.steps ++ padTo 8 s.time.master)) ∧
  (∀ (dt d : Nat) (w : Sess) (conv : Readings) (s : State) (c : Cmd), Holds s w c 0x0B02 12 → s.pwr.kind ≠ 2 → u16 c.pay 6 = 0 →
    u32 c.pay 8 < 1000000000 → s.time.credit = true → d = (fld c.pay 0 6 * 1000000000 + u32 c.pay 8) * nsUnit → NonePassed s d →
    ∃ t, exec (.timeSet dt w conv) s = .next t ∧ Answered (timeNoted (stepped (s.pass dt) d) 2) t w c St.ok (leB 4 (s.pass dt).t32.toNat)) ∧
  (∀ (dt d e : Nat) (w : Sess) (conv : Readings) (s : State) (c : Cmd) (x : Sched), Holds s w c 0x0B02 12 → s.pwr.kind ≠ 2 → u16 c.pay 6 = 0 →
    u32 c.pay 8 < 1000000000 → s.time.credit = true → d = (fld c.pay 0 6 * 1000000000 + u32 c.pay 8) * nsUnit → s.time.sched = [(e, x)] →
    x.base = 1 → x.next ≤ d / nsUnit → x.action = 3 → x.report = false → x.period = 0 → (s.trig x.target).active = false →
    Calm s F.trigUnmatched → Takes s F.schedLate e idNone →
    ∃ t u v, exec (.timeSet dt w conv) s = .next t ∧ Pulsed { stepped (s.pass dt) d with time := { (stepped (s.pass dt) d).time with sched := [] } } u x.target 0xFFFFFFFF ∧
      Recorded u v F.schedLate e idNone 0 ∧ Answered (timeNoted v 2) t w c St.ok (leB 4 (s.pass dt).t32.toNat)) ∧
  (∀ (dt : Nat) (w : Sess) (conv : Readings) (s : State) (c : Cmd), Holds s w c 0x0B02 12 → s.pwr.kind ≠ 2 → u16 c.pay 6 = 0 →
    u32 c.pay 8 < 1000000000 → s.time.credit = false →
    ∃ t, exec (.timeSet dt w conv) s = .next t ∧ Answered (s.pass dt) t w c St.state []) ∧
  (∀ (dt : Nat) (w : Sess) (s : State) (c : Cmd), Holds s w c 0x0B03 0 → s.pwr.kind ≠ 2 →
    ∃ t, exec (.timeStepArm dt w) s = .next t ∧ Answered { s.pass dt with time := { s.time with credit := true } } t w c St.ok []) ∧
  (∀ (dt at_ : Nat) (w : Sess) (s : State) (c : Cmd), Holds s w c 0x0B04 32 → s.pwr.kind ≠ 2 → schedRange c.pay = true → u8 c.pay 0 ≠ 1 →
    (s.pass dt).schedAt c.pay = some at_ → (u8 c.pay 0 = 3 → s.par (P.timeTrigMode (u8 c.pay 3)) = 1) → (∃ e, e < 64 ∧ look s.time.sched e = none) →
    ∃ t e, exec (.timeScheduleAdd dt w) s = .next t ∧ e < 64 ∧ look s.time.sched e = none ∧
      Answered { s.pass dt with
        time := { s.time with sched := put s.time.sched e (schedEntry c.pay at_ none) }
        free := s.free + 1 } t w c St.ok (leB 1 e ++ leB 3 0)) ∧
  (∀ (dt at_ : Nat) (w : Sess) (s : State) (c : Cmd), Holds s w c 0x0B04 32 → s.pwr.kind ≠ 2 → HasRoom s w → schedRange c.pay = true → u8 c.pay 0 = 1 →
    (s.pass dt).schedAt c.pay = some at_ → (∃ e, e < 64 ∧ look s.time.sched e = none) →
    ∃ t e, exec (.timeScheduleAdd dt w) s = .next t ∧ e < 64 ∧ look s.time.sched e = none ∧
      Waiting { s.pass dt with
        time := { s.time with sched := put s.time.sched e (schedEntry c.pay at_ (some (w, c.seq))) }
        free := s.free + 1 } t w c e [] (leB 1 e ++ leB 3 0)) ∧
  (∀ (dt e : Nat) (w : Sess) (s : State) (c : Cmd) (x : Sched), Holds s w c 0x0B05 4 → s.pwr.kind ≠ 2 → u8 c.pay 0 = e → e < 64 → fld c.pay 1 3 = 0 →
    look s.time.sched e = some x → x.owner = none →
    ∃ t, exec (.timeScheduleCancel dt w) s = .next t ∧
      Answered { s.pass dt with time := { s.time with sched := cut s.time.sched e } } t w c St.ok []) ∧
  (∀ (dt e : Nat) (w o : Sess) (q : BitVec 32) (s : State) (c : Cmd) (x : Sched) (p : Pend), Holds s w c 0x0B05 4 → s.pwr.kind ≠ 2 → u8 c.pay 0 = e →
    e < 64 → fld c.pay 1 3 = 0 → look s.time.sched e = some x → x.owner = some (o, q) → s.pend? o q = some p → (∃ k, (s.ses o).cq = some k) →
    ∃ t u, exec (.timeScheduleCancel dt w) s = .next t ∧
      Posted { s.pass dt with time := { s.time with sched := cut s.time.sched e } } u p St.discarded p.obj.toNat 0 idHob ∧ Answered u t w c St.ok []) ∧
  (∀ (dt n : Nat) (w : Sess) (s : State) (c : Cmd) (l : List (Nat × Sched)), Holds s w c 0x0B06 4 → s.pwr.kind ≠ 2 → u8 c.pay 0 = n → n < 64 →
    fld c.pay 1 3 = 0 → l = (s.time.sched.filter (fun e => decide (n ≤ e.1))).take 7 →
    ∃ t, exec (.timeScheduleList dt w) s = .next t ∧
      Answered (s.pass dt) t w c St.ok (leB 1 l.length ++ leB 3 0 ++ l.flatMap (fun (e, x) =>
        leB 1 x.action ++ leB 1 x.base ++ leB 1 (b2n x.report) ++ leB 1 x.target ++
          (if x.base = 0 then leB 4 x.next ++ leB 6 0 else leB 4 (x.next % 1000000000) ++ leB 6 (x.next / 1000000000)) ++
          leB 2 x.index ++ leB 4 x.period ++ leB 4 (if x.forever then 0 else x.left) ++ leB 4 (unsigned 32 x.off) ++ leB 1 e ++ leB 3 0)))

/-- Rows PTP_SYNC, PTP_TIMEOUT, PTP_EVENT_MESSAGE (R329 to R333); the offset rate and sum it uses are free functions (log 11). -/
def Obligations.PtpDisciplinesDeviceTime : Prop :=
  (∀ (dt delay : Nat) (port : Fin 2) (offset : Int) (conv : Readings) (s : State), s.par P.timePtpEnable = 1 → s.par P.timePtpPort = port.val →
    (s.time.servo = 2 ∨ s.time.servo = 3 ∨ s.time.servo = 4) → s.time.skip = true →
    exec (.ptpSync dt port offset delay conv) s = .next { s.pass dt with time := { s.time with skip := false } }) ∧
  (∀ (dt delay : Nat) (port : Fin 2) (offset off : Int) (conv : Readings) (s : State), s.par P.timePtpEnable = 1 → s.par P.timePtpPort = port.val →
    (s.time.servo = 2 ∨ s.time.servo = 3 ∨ s.time.servo = 4) → s.time.skip = false → off = offset - s.parS 32 (P.timePortAsymmetryNs port.val) →
    s.par P.timePtpStepThresholdNs < off.natAbs → s.time.credit = true →
    NonePassed s ((((s.pass dt).clk.devu : Int) - off * nsUnit) % devWrap).toNat → Calm s F.timeRateLimit →
    ∃ t, exec (.ptpSync dt port offset delay conv) s = .next t ∧
      t.clk = { (s.pass dt).clk with devu := ((((s.pass dt).clk.devu : Int) - off * nsUnit) % devWrap).toNat } ∧
      t.time.credit = false ∧ t.time.steps = sat 32 (s.time.steps + 1) ∧ t.time.lastSync = (s.pass dt).now ∧ t.time.delay = sat 32 delay ∧
      ((s.pass dt).clk.rho.natAbs < 500000000 → t.host.events.getLsbD evTime = true) ∧ t.time.causes.getLsbD 2 = true ∧
      (s.par P.timePtpLockNs < off.natAbs → t.time.servo = 2 ∧ t.time.inLock = 0) ∧ t.time.sched = s.time.sched ∧
      Touched { s.pass dt with clk := t.clk, time := t.time, vbat := { (s.pass dt).vbat with sec := t.clk.devu / nsUnit / 1000000000 % 2 ^ 48, sub := 0 } } t) ∧
  (∀ (dt delay : Nat) (port : Fin 2) (offset off : Int) (conv : Readings) (s : State), s.par P.timePtpEnable = 1 → s.par P.timePtpPort = port.val →
    (s.time.servo = 2 ∨ s.time.servo = 3 ∨ s.time.servo = 4) → s.time.skip = false → off = offset - s.parS 32 (P.timePortAsymmetryNs port.val) →
    s.par P.timePtpStepThresholdNs < off.natAbs → s.time.credit = false → Takes s F.ptpStepRefused 0 idNone → Takes s F.timeRateLimit 0 idNone →
    ∃ t, exec (.ptpSync dt port offset delay conv) s = .next t ∧
      t.clk = { (s.pass dt).clk with rho := (if 0 < off then -500000000 else 500000000) } ∧ t.time.credit = false ∧ t.time.refused = true ∧
      t.time.steps = s.time.steps ∧ t.time.lastSync = (s.pass dt).now ∧
      (t.src F.ptpStepRefused).hits = (if s.time.refused then (s.src F.ptpStepRefused).hits else sat 16 ((s.src F.ptpStepRefused).hits + 1)) ∧
      (t.src F.timeRateLimit).hits = sat 16 ((s.src F.timeRateLimit).hits + 1) ∧
      Touched { s.pass dt with clk := t.clk, time := t.time } t) ∧
  (∀ (dt delay : Nat) (port : Fin 2) (offset off : Int) (conv : Readings) (s : State), s.par P.timePtpEnable = 1 → s.par P.timePtpPort = port.val →
    (s.time.servo = 2 ∨ s.time.servo = 3 ∨ s.time.servo = 4) → s.time.skip = false → off = offset - s.parS 32 (P.timePortAsymmetryNs port.val) →
    off.natAbs ≤ s.par P.timePtpStepThresholdNs → Calm s F.timeRateLimit →
    ∃ t r, exec (.ptpSync dt port offset delay conv) s = .next t ∧ -500000000 ≤ r ∧ r ≤ 500000000 ∧
      r = clamp (-500000000) 500000000 (((s.par P.timePtpKp : Int) * Config.offsetRate off s.time.offset ((s.pass dt).now - s.time.lastSync) +
        (s.par P.timePtpKi : Int) * Config.offsetSum (s.time.sum + off)) / 65536) ∧ t.clk = { (s.pass dt).clk with rho := r } ∧
      t.time.credit = s.time.credit ∧ t.time.steps = s.time.steps ∧ t.time.refused = false ∧ t.time.lastSync = (s.pass dt).now ∧
      t.time.offset = clamp (-2147483648) 2147483647 off ∧
      (off.natAbs ≤ s.par P.timePtpLockNs → (s.time.servo = 3 ∨ s.time.inLock = 15) → t.time.servo = 3) ∧
      (off.natAbs ≤ s.par P.timePtpLockNs → s.time.servo = 2 → s.time.inLock < 15 → t.time.servo = 2 ∧ t.time.inLock = s.time.inLock + 1) ∧
      (s.par P.timePtpLockNs < off.natAbs → t.time.servo = 2 ∧ t.time.inLock = 0) ∧ Touched { s.pass dt with clk := t.clk, time := t.time } t) ∧
  (∀ (dt : Nat) (s : State), (s.time.servo = 2 ∨ s.time.servo = 3) → s.time.lastSync + s.par P.timePtpTimeoutMs * perMs ≤ (s.pass dt).now →
    Takes s F.ptpLost 0 idNone →
    ∃ t, exec (.ptpTimeout dt) s = .next t ∧ t.time.servo = 4 ∧ t.clk = (s.pass dt).clk ∧
      Recorded (timeNoted { s.pass dt with time := { s.time with servo := 4, inLock := 0 } } 1) t F.ptpLost 0 idNone 0) ∧
  (∀ (dt taken : Nat) (port : Fin 2) (tx fast : Bool) (msg : Bytes) (b : Bmca) (s : State),
    (s.par P.timePtpEnable = 0 ∨ s.par P.timePtpPort ≠ port.val ∨ s.ptpHeeds msg = false) → exec (.ptpEventMessage dt port tx msg taken b fast) s = .next (s.pass dt)) ∧
  (∀ (dt taken k n : Nat) (port : Fin 2) (tx fast : Bool) (msg : Bytes) (s : State) (held : List Nat) (o : List Output), s.par P.timePtpEnable = 1 →
    s.par P.timePtpPort = port.val → s.ptpHeeds msg = true → k = 2 * port.val + (if tx then 1 else 0) → held = (sel s.time.q k []).drop taken →
    o = (if tx then .ptp port.val (bit (s.par P.timePtpOptions) 2) ((s.pass dt).ptpSent msg) :: s.out else s.out) →
    n = (s.pass dt).clk.devu * 10 / nsUnit →
    (u8 msg 0 % 16 < 4 → held.length < 64 →
      exec (.ptpEventMessage dt port tx msg taken .keep fast) s = .next { s.pass dt with
        out := o
        time := { s.time with q := put s.time.q k (held ++ [if tx then n + (if fast then 448 else 1840) else n - (if fast then 704 else 2624)]) } }) ∧
    (u8 msg 0 % 16 < 4 → 64 ≤ held.length → Takes s F.ptpTsLost port.val idNone →
      ∃ t, exec (.ptpEventMessage dt port tx msg taken .keep fast) s = .next t ∧
        Recorded { s.pass dt with out := o, time := { s.time with q := put s.time.q k held, skip := true } } t F.ptpTsLost port.val idNone 0) ∧
    (4 ≤ u8 msg 0 % 16 →
      exec (.ptpEventMessage dt port tx msg taken .keep fast) s = .next { s.pass dt with out := o, time := { s.time with q := put s.time.q k held } }) ∧
    (∀ (v : Nat) (m : Bytes) (b : Bmca), 4 ≤ u8 msg 0 % 16 → (v = 1 ∧ b = .none ∧ m = [] ∨ v = 2 ∧ (∃ id, b = .master id ∧ m = padTo 8 id ∧ m ≠ s.time.master) ∨
        v = 5 ∧ b = .self ∧ m = [] ∧ bit (s.par P.timePtpOptions) 3 = true) → s.time.servo ≠ v →
      ∃ t, exec (.ptpEventMessage dt port tx msg taken b fast) s = .next t ∧
        t = timeNoted { s.pass dt with
          out := o
          time := { s.time with
            q := put s.time.q k held
            master := m
            servo := v
            inLock := 0
            lastSync := (if v = 2 then (s.pass dt).now else s.time.lastSync) } } 1)) ∧
  (∀ (msg : Bytes) (s : State),
    (u8 msg 4 ≠ s.par P.timePtpDomain → s.ptpHeeds msg = false) ∧
    (u8 msg 0 % 16 ≠ 0 → s.ptpSent msg = msg) ∧
    (u8 msg 0 % 16 = 0 → bit (s.par P.timePtpOptions) 0 = true → 44 ≤ msg.length → slice (s.ptpSent msg) 8 8 = leB 8 0 ∧
      slice (s.ptpSent msg) 34 10 = beB 6 (s.devNs / 1000000000) ++ beB 4 (s.devNs % 1000000000)))

/-- Rows TRIGGER_PULSE, TRIGGER_PULSE_END, SCHEDULE_EXECUTE. -/
def Obligations.TriggersAndSchedulesFire : Prop :=
  (∀ (dt p a : Nat) (o : Fin 8) (rest : List (Nat × Nat)) (s : State), (s.trig o.val).due = (p, a) :: rest → a ≤ (s.pass dt).clk.tclk →
    (s.trig o.val).active = false → Calm s F.trigUnmatched →
    ∃ t, exec (.triggerPulse dt o) s = .next t ∧ Pulsed ((s.pass dt).setTrig o.val { s.trig o.val with due := rest }) t o.val p) ∧
  (∀ (dt p a : Nat) (o : Fin 8) (rest : List (Nat × Nat)) (s : State), (s.trig o.val).due = (p, a) :: rest → a ≤ (s.pass dt).clk.tclk →
    (s.trig o.val).active = true → Takes s F.trigOverrun o.val idNone →
    ∃ t, exec (.triggerPulse dt o) s = .next t ∧
      Recorded ((s.pass dt).setTrig o.val { s.trig o.val with due := rest }) t F.trigOverrun o.val idNone 0) ∧
  (∀ (dt : Nat) (o : Fin 8) (s : State), (s.trig o.val).active = true → (s.trig o.val).ends ≤ (s.pass dt).clk.tclk →
    exec (.triggerPulseEnd dt o) s = .next (((s.pass dt).setTrig o.val { s.trig o.val with active := false }).emit
      (.trig o.val (s.parLine (P.timeTrigPolarity o.val) == 1)))) ∧
  (∀ (dt : Nat) (i : Fin 64) (conv : Readings) (s : State), (look s.time.sched i.val = none ∨ (∃ x, look s.time.sched i.val = some x ∧ (s.pass dt).schedNow x < x.next) ∨
      (∃ j y, j < i.val ∧ (j, y) ∈ s.time.sched ∧ y.next ≤ (s.pass dt).schedNow y)) →
    exec (.scheduleExecute dt i conv) s = .next (s.pass dt)) ∧
  (∀ (dt : Nat) (i : Fin 64) (conv : Readings) (s : State) (x : Sched) (m : SMap Sched), look s.time.sched i.val = some x → (s.pass dt).dueBefore i.val = false →
    x.next ≤ (if x.base = 0 then (s.pass dt).t32ns else (s.pass dt).devNs) → x.action = 3 → (s.trig x.target).active = false → Calm s F.trigUnmatched →
    m = (if x.period ≠ 0 ∧ (x.forever = true ∨ 1 < x.left) then put s.time.sched i.val { x with next := x.next + x.period, left := x.left - 1 }
      else cut s.time.sched i.val) →
    ∃ t u, exec (.scheduleExecute dt i conv) s = .next t ∧ Pulsed { s.pass dt with time := { s.time with sched := m } } u x.target 0xFFFFFFFF ∧
      t = if x.report then timeNoted u 0 else u) ∧
  (∀ (dt : Nat) (i : Fin 64) (conv : Readings) (s : State) (x : Sched) (m : SMap Sched), look s.time.sched i.val = some x → (s.pass dt).dueBefore i.val = false →
    x.next ≤ (if x.base = 0 then (s.pass dt).t32ns else (s.pass dt).devNs) → x.action = 2 → (∀ n ∈ [F.tjWarn, F.tjCrit, F.vmonRange, F.boardSensorFail], Calm s n) →
    m = (if x.period ≠ 0 ∧ (x.forever = true ∨ 1 < x.left) then put s.time.sched i.val { x with next := x.next + x.period, left := x.left - 1 }
      else cut s.time.sched i.val) →
    ∃ t u, exec (.scheduleExecute dt i conv) s = .next t ∧ (t = if x.report then timeNoted u 0 else u) ∧
      (x.target = 0 → s.trimming = false → ∀ k v, k < 24 → conv.tj[k]? = some v → look u.mgmt.tj k = some (clamp (-400) 1500 (s.trimTj k v))) ∧
      (x.target = 1 ∨ x.target = 0 → s.trimming = false → ∀ k v, k < 16 → conv.mv[k]? = some v → look u.mgmt.mv k = some (min 4000 (s.trimMv k v))) ∧
      (x.target = 1 → u.mgmt.tj = s.mgmt.tj) ∧ (x.target = 2 → u.mgmt.tj = s.mgmt.tj ∧ u.mgmt.mv = s.mgmt.mv) ∧
      Touched { s.pass dt with
        time := { s.time with sched := m }
        mgmt := { s.mgmt with
          tj := u.mgmt.tj
          mv := u.mgmt.mv
          warnAt := u.mgmt.warnAt
          critAt := u.mgmt.critAt
          rangeAt := u.mgmt.rangeAt
          boards := u.mgmt.boards }
        pwr := { s.pwr with trimSteps := u.pwr.trimSteps } } u) ∧
  (∀ (dt st : Nat) (i : Fin 64) (conv : Readings) (s v : State) (w : Sess) (q : BitVec 32) (p : Pend) (x : Sched), look s.time.sched i.val = some x → (s.pass dt).dueBefore i.val = false →
    x.next ≤ (if x.base = 0 then (s.pass dt).t32ns else (s.pass dt).devNs) → x.action = 1 → x.period = 0 → x.report = false → x.owner = some (w, q) →
    s.pend? w q = some p → (∃ k, (s.ses w).cq = some k) → v = { s.pass dt with time := { s.time with sched := cut s.time.sched i.val } } →
    v.arm x.index 0 0 s.pos x.off = .inl st →
    ∃ t, exec (.scheduleExecute dt i conv) s = .next t ∧ Posted v t p st p.obj.toNat (shift32 s.pos x.off) idHob) ∧
  (∀ (dt lam e : Nat) (i : Fin 64) (conv : Readings) (s v u : State) (w : Sess) (q : BitVec 32) (p : Pend) (x : Sched), look s.time.sched i.val = some x → (s.pass dt).dueBefore i.val = false →
    x.next ≤ (if x.base = 0 then (s.pass dt).t32ns else (s.pass dt).devNs) → x.action = 1 → x.period = 0 → x.report = false → x.owner = some (w, q) →
    v = { s.pass dt with time := { s.time with sched := cut s.time.sched i.val } } → v.arm x.index 0 0 s.pos x.off = .inr (u, lam, e) →
    s.pend? w q = some p → (∃ k, (s.ses w).cq = some k) → Calm s F.hopperLow →
    ∃ t, exec (.scheduleExecute dt i conv) s = .next t ∧ Posted u t p St.ok p.obj.toNat lam idHob) ∧
  (∀ (dt : Nat) (i : Fin 64) (conv : Readings) (s v : State) (x : Sched), look s.time.sched i.val = some x → (s.pass dt).dueBefore i.val = false →
    x.next ≤ (if x.base = 0 then (s.pass dt).t32ns else (s.pass dt).devNs) → x.action = 1 → x.period = 0 → x.report = false → x.owner = none →
    v = { s.pass dt with time := { s.time with sched := cut s.time.sched i.val } } →
    exec (.scheduleExecute dt i conv) s = .next (match v.arm x.index 0 0 s.pos x.off with | .inl _ => v | .inr (u, _, _) => u))

/-- Rows DIAG_SENSORS, SENSOR_CONVERT, BOARD_SENSOR_READ, LEGACY_TEMP_READ, PMBUS_POLL, PMB_ALERT. -/
def Obligations.SensorsAreReadAndChecked : Prop :=
  (∀ (dt : Nat) (w : Sess) (s : State) (c : Cmd), Holds s w c 0x1004 4 → s.pwr.kind ≠ 2 → u8 c.pay 0 = 0 → fld c.pay 1 3 = 0 →
    ∃ t, exec (.diagSensors dt w) s = .next t ∧
      Answered (s.pass dt) t w c St.ok ((List.range 24).flatMap (fun i => leB 2 (unsigned 16 (sel s.mgmt.tj i 0))) ++
        (List.range 16).flatMap (fun i => leB 2 (sel s.mgmt.mv i 0)) ++
        leB 4 (maskOf ((List.range 24).filter (fun i => s.trimming || (look s.mgmt.tj i).isNone))) ++
        leB 4 (maskOf ((List.range 16).filter (fun i => s.trimming || (look s.mgmt.mv i).isNone))))) ∧
  (∀ (dt n : Nat) (w : Sess) (s : State) (c : Cmd), Holds s w c 0x1004 4 → s.pwr.kind ≠ 2 → u8 c.pay 0 = n + 1 → n ≤ 1 → fld c.pay 1 3 = 0 →
    ∃ t, exec (.diagSensors dt w) s = .next t ∧
      Answered (s.pass dt) t w c St.ok ((List.range 32).flatMap (fun k => leB 4 (unsigned 32 (s.board (32 * n + k)).value)) ++
        leB 4 (maskOf ((List.range 32).filter (fun k => (s.pass dt).boardStale (32 * n + k)))))) ∧
  (∀ (dt : Nat) (tj : List Int) (mv : List Nat) (s : State), (s.pwr.kind = 1 ∨ s.pwr.kind = 0 ∧ 5 ≤ s.pwr.stage) → s.trimming = false → s.mgmt.convNext ≤ (s.pass dt).now →
    tj.length = 24 → mv.length = 16 → (∀ n ∈ [F.tjWarn, F.tjCrit, F.vmonRange], Calm s n) →
    ∃ t, exec (.sensorConvert dt tj mv) s = .next t ∧ (∀ k v, tj[k]? = some v → look t.mgmt.tj k = some (clamp (-400) 1500 (s.trimTj k v))) ∧
      (∀ k v, mv[k]? = some v → look t.mgmt.mv k = some (min 4000 (s.trimMv k v))) ∧
      (∀ k v, tj[k]? = some v → (s.par P.manageTsenseTjWarn : Int) ≤ clamp (-400) 1500 (s.trimTj k v) → Takes s F.tjWarn 0 idNone →
        (s.mgmt.warnAt = none ∨ (∃ a, s.mgmt.warnAt = some a ∧ a + perSecond ≤ (s.pass dt).now)) →
        (t.src F.tjWarn).sticky = true ∧ (t.src F.tjWarn).hits = sat 16 ((s.src F.tjWarn).hits + 1)) ∧
      (∀ k v, tj[k]? = some v → (s.par P.manageTsenseTjCrit : Int) ≤ clamp (-400) 1500 (s.trimTj k v) → Takes s F.tjCrit 0 idNone →
        (s.mgmt.critAt = none ∨ (∃ a, s.mgmt.critAt = some a ∧ a + perSecond ≤ (s.pass dt).now)) →
        (t.src F.tjCrit).sticky = true ∧ (t.src F.tjCrit).hits = sat 16 ((s.src F.tjCrit).hits + 1)) ∧
      Touched { s.pass dt with mgmt := { s.mgmt with
        tj := t.mgmt.tj
        mv := t.mgmt.mv
        warnAt := t.mgmt.warnAt
        critAt := t.mgmt.critAt
        rangeAt := t.mgmt.rangeAt
        convNext := (s.pass dt).now + s.par P.manageTsensePeriodMs * perMs } } t) ∧
  (∀ (dt : Nat) (tj : List Int) (mv : List Nat) (s : State), (s.pass dt).now < s.mgmt.convNext → exec (.sensorConvert dt tj mv) s = .next (s.pass dt)) ∧
  (∀ (i mv : Nat) (s : State), Takes s F.vmonRange i idNone → look s.mgmt.rangeAt i = none → mv ≤ 4000 →
    (i = 0 → s.mgmt.vcoreAt + 2 * perMs ≤ s.now ∧ (mv + 30 < s.draught.setMv ∨ s.draught.setMv + 30 < mv)) →
    (i ≠ 0 → mv < s.par (P.manageVmonLowMv i) ∨ s.par (P.manageVmonHighMv i) < mv) →
    Recorded { s with mgmt := { s.mgmt with mv := put s.mgmt.mv i mv, rangeAt := put s.mgmt.rangeAt i s.now } } (s.monitor i mv) F.vmonRange i idNone 0) ∧
  (∀ (dt : Nat) (tj : List Int) (mv : List Nat) (s : State), s.pwr.kind = 0 → 5 ≤ s.pwr.stage → s.pwr.trimSteps < 16 → s.mgmt.convNext ≤ (s.pass dt).now →
    exec (.sensorConvert dt tj mv) s = .next { s.pass dt with
      pwr := { s.pwr with trimSteps := s.pwr.trimSteps + 1 }
      mgmt := { s.mgmt with convNext := (s.pass dt).now + s.par P.manageTsensePeriodMs * perMs } }) ∧
  (∀ (dt d : Nat) (n : Int) (i : Fin 64) (x : SensorWord) (s : State), (s.pwr.kind = 1 ∨ s.pwr.kind = 0 ∧ 5 ≤ s.pwr.stage) → s.trimming = false →
    s.boardOn i.val = true → (s.board i.val).nextAt ≤ (s.pass dt).now → wordValue (bits (s.par (P.manageBoardConfig i.val)) 12 3) x = (n, d) →
    ∃ v, exec (.boardSensorRead dt i (some x)) s = .next { s.pass dt with
        mgmt := { s.mgmt with boards := put s.mgmt.boards i.val { value := clamp (-2147483648) 2147483647 v, fails := 0, goodAt := some (s.pass dt).now, nextAt := (s.pass dt).now + s.par (P.manageBoardPeriodMs i.val) * perMs } }
        free := s.free + 1 } ∧ n / (d : Int) ≤ v ∧ v ≤ n / (d : Int) + 1 ∧ (n % (d : Int) = 0 → v = n / (d : Int))) ∧
  (∀ (dt : Nat) (i : Fin 64) (s : State), (s.pwr.kind = 1 ∨ s.pwr.kind = 0 ∧ 5 ≤ s.pwr.stage) → s.boardOn i.val = true → (s.board i.val).nextAt ≤ (s.pass dt).now → (s.board i.val).fails < 2 →
    exec (.boardSensorRead dt i none) s = .next ((s.pass dt).setBoard i.val { s.board i.val with fails := (s.board i.val).fails + 1, nextAt := (s.pass dt).now + s.par (P.manageBoardPeriodMs i.val) * perMs })) ∧
  (∀ (dt : Nat) (i : Fin 64) (raw : Option SensorWord) (s : State), (s.boardOn i.val = false ∨ (s.pass dt).now < (s.board i.val).nextAt) →
    exec (.boardSensorRead dt i raw) s = .next (s.pass dt)) ∧
  (∀ (dt : Nat) (i : Fin 64) (s : State), (s.pwr.kind = 1 ∨ s.pwr.kind = 0 ∧ 5 ≤ s.pwr.stage) → s.boardOn i.val = true → (s.board i.val).nextAt ≤ (s.pass dt).now → 2 ≤ (s.board i.val).fails →
    Takes s F.boardSensorFail i.val idNone →
    ∃ t, exec (.boardSensorRead dt i none) s = .next t ∧
      Recorded ((s.pass dt).setBoard i.val { s.board i.val with fails := 0, nextAt := (s.pass dt).now + s.par (P.manageBoardPeriodMs i.val) * perMs }) t F.boardSensorFail i.val idNone 0) ∧
  (∀ (dt i k : Nat) (v : Int) (slot : Fin 8) (s : State), (List.range 160).find? (fun i => s.legacyOf i == some slot.val) = some i →
    s.par (P.linkLegacySlotTempSensor slot.val) = k → k < 64 → s.boardOn k = true → (s.pass dt).boardStale k = false → v % 100 = 0 → (s.board k).value = v →
    sel s.mgmt.legacyNext slot.val 0 ≤ (s.pass dt).now → Calm s F.headTempSoft → Calm s F.headTempHard →
    ∃ t, exec (.legacyTempRead dt slot) s = .next t ∧ (t.head i).temp = some (v / 100) ∧ (t.head i).tempT = (s.pass dt).t32 ∧
      (t.head i).mHost = (s.head i).mHost ∧ (∀ j, j ≠ i → t.head j = s.head j) ∧
      (s.hasLimits i = true → s.parS 16 (P.fireBarSlotTempSoft i) ≤ v / 100 → (t.head i).soft = true) ∧
      (s.hasLimits i = true → s.parS 16 (P.fireBarSlotTempHard i) ≤ v / 100 → (t.head i).mTemp = true) ∧
      Touched { s.pass dt with
        fire := { s.fire with heads := t.fire.heads }
        mgmt := { s.mgmt with legacyNext := put s.mgmt.legacyNext slot.val ((s.pass dt).now + 10 * perMs) } } t) ∧
  (∀ (dt : Nat) (slot : Fin 8) (s : State), (64 ≤ s.par (P.linkLegacySlotTempSensor slot.val) ∨ s.boardOn (s.par (P.linkLegacySlotTempSensor slot.val)) = false ∨
    (s.pass dt).boardStale (s.par (P.linkLegacySlotTempSensor slot.val)) = true ∨ (s.pass dt).now < sel s.mgmt.legacyNext slot.val 0) →
    exec (.legacyTempRead dt slot) s = .next (s.pass dt)) ∧
  (∀ (dt ma : Nat) (v : Int) (s : State), s.mgmt.vregNext ≤ (s.pass dt).now → exec (.pmbusPoll dt (some (ma, v))) s = .next ({ s.pass dt with
    mgmt := { s.mgmt with iout := sat 32 ma, vtemp := clamp (-32768) 32767 v, vregNext := (s.pass dt).now + 100 * perMs } }.vcoreBus [(0x8C, none), (0x8D, none)])) ∧
  (∀ (dt : Nat) (r : Option (Nat × Int)) (s : State), (s.pass dt).now < s.mgmt.vregNext → exec (.pmbusPoll dt r) s = .next (s.pass dt)) ∧
  (∀ (dt : Nat) (status : BitVec 16) (s : State), Takes s F.vregAlert status.toNat idNone →
    ∃ t, exec (.pmbAlert dt status) s = .next t ∧ Recorded ((s.pass dt).vcoreBus [(0x79, none), (0x03, none)]) t F.vregAlert status.toNat idNone 0)

/-- Rows CAMERA_STATUS to CAMERA_NOZZLE_SETUP and the completions of the loads and captures (R358 to R373, R530). -/
def Obligations.CameraCommandsAnswer : Prop :=
  (∀ (dt i k : Nat) (w : Sess) (s : State) (c : Cmd), Holds s w c 0x0901 4 → s.pwr.kind ≠ 2 → u8 c.pay 0 = i → i < 16 → u8 c.pay 1 = k → k < 8 → u16 c.pay 2 = 0 →
    ∃ t, exec (.cameraStatus dt w) s = .next t ∧ Answered (s.pass dt) t w c St.ok
      (leB 1 i ++ leB 1 (s.parFrame (P.inspectCtxEnable i) + 2 * b2n (s.ctx i).frame.isSome) ++ leB 2 (s.ctx i).lastF.flags.toNat ++ leB 4 (s.ctx i).lastF.count ++
        leB 4 (s.ctx i).lastF.t0.toNat ++ leB 4 (s.ctx i).lastF.line ++ leB 1 (s.ctx i).trigs.length ++ leB 1 k ++ leB 2 (s.ctx i).emb.length ++
        leB 4 (s.ctx i).embF ++ leB 4 (s.ctx i).frames ++ leB 4 (s.ctx i).short ++ leB 4 (s.ctx i).long ++ leB 4 (s.ctx i).dropped ++ leB 4 (s.ctx i).lost ++
        leB 4 (s.ctx i).overrun ++ leB 4 (s.ctx i).skipped ++ leB 4 0 ++ slice (s.ctx i).emb (128 * k) 128)) ∧
  (∀ (dt : Nat) (w : Sess) (s : State) (c : Cmd) (l : List DmaDesc), HoldsDma s w c 0x0902 0 l [] → HasRoom s w → s.pwr.kind ≠ 2 →
    (chainOf l = none → total l = 65536) →
    ∃ t, exec (.cameraDefectLoad dt w) s = .next t ∧ Waiting (s.pass dt) t w c 0 [] []) ∧
  (∀ (dt : Nat) (w : Sess) (seq : BitVec 32) (chain : List Bytes) (data b : Bytes) (d : List (BitVec 32)) (s : State) (p : Pend),
    s.pend? w seq = some p → (∃ q, (s.ses w).cq = some q) → p.cmd.op = 0x0902 → p.dataIn chain data = some b → b.length = 65536 → parseDefects b = some d →
    ∃ t, exec (.cameraDefectLoadComplete dt w seq chain data) s = .next t ∧
      Posted { s.pass dt with cam := { s.cam with defs := d } } t p St.ok p.obj.toNat d.length idLoupe) ∧
  (∀ (dt : Nat) (w : Sess) (seq : BitVec 32) (chain : List Bytes) (data b : Bytes) (s : State) (p : Pend),
    s.pend? w seq = some p → (∃ q, (s.ses w).cq = some q) → p.cmd.op = 0x0902 → p.dataIn chain data = some b → b.length = 65536 → parseDefects b = none →
    ∃ t, exec (.cameraDefectLoadComplete dt w seq chain data) s = .next t ∧ Posted (s.pass dt) t p St.badParam p.obj.toNat 0 idLoupe) ∧
  (∀ (dt i : Nat) (w : Sess) (s : State) (c : Cmd) (l : List DmaDesc) (a : Bytes), HoldsDma s w c 0x0903 16 l a → HasRoom s w → s.pwr.kind ≠ 2 →
    u8 a 0 = i → i < 16 → fld a 1 15 = 0 → (chainOf l = none → total l = 10892) →
    ∃ t, exec (.cameraShadingLoad dt w) s = .next t ∧ Waiting (s.pass dt) t w c i [] []) ∧
  (∀ (dt i : Nat) (w : Sess) (seq : BitVec 32) (chain : List Bytes) (data b : Bytes) (s : State) (p : Pend),
    s.pend? w seq = some p → (∃ q, (s.ses w).cq = some q) → p.cmd.op = 0x0903 → p.obj.toNat = i → p.dataIn chain data = some b → b.length = 10892 →
    ∃ t, exec (.cameraShadingLoadComplete dt w seq chain data) s = .next t ∧
      Posted ((s.pass dt).setCtx i { s.ctx i with shade := (List.range 5445).map (fun k => u16 b (2 * k)) }) t p St.ok i 0 idLoupe) ∧
  (∀ (dt i : Nat) (w : Sess) (chain : List Bytes) (s : State) (c : Cmd) (l m : List DmaDesc) (a : Bytes), HoldsDma s w c 0x0904 16 l a → s.pwr.kind ≠ 2 →
    u8 a 0 = i → i < 16 → fld a 1 15 = 0 → follow l chain = some m → 2 ≤ m.length → m.length ≤ 15 → (∀ d ∈ m, s.streamBytes i 2 ≤ d.bytes) → (s.ctx i).prev = none →
    ∃ t, exec (.cameraPreviewStart dt w chain) s = .next t ∧
      Answered ((s.pass dt).setCtx i { s.ctx i with prev := some { who := w, bufs := m.map (fun d => (BitVec.ofNat 64 d.addr, d.bytes)) } }) t w c St.ok []) ∧
  (∀ (dt i : Nat) (w : Sess) (chain : List Bytes) (s : State) (c : Cmd) (l m : List DmaDesc) (a : Bytes), HoldsDma s w c 0x0904 16 l a → s.pwr.kind ≠ 2 →
    u8 a 0 = i → i < 16 → fld a 1 15 = 0 → follow l chain = some m → 2 ≤ m.length → m.length ≤ 15 → (s.ctx i).prev ≠ none →
    ∃ t, exec (.cameraPreviewStart dt w chain) s = .next t ∧ Answered (s.pass dt) t w c St.state []) ∧
  (∀ (dt i : Nat) (w : Sess) (s : State) (c : Cmd), Holds s w c 0x0905 4 → s.pwr.kind ≠ 2 → u8 c.pay 0 = i → i < 16 → fld c.pay 1 3 = 0 →
    ∃ t, exec (.cameraPreviewStop dt w) s = .next t ∧ Answered ((s.pass dt).setCtx i { s.ctx i with prev := none }) t w c St.ok []) ∧
  (∀ (dt i ms : Nat) (w : Sess) (chain : List Bytes) (s : State) (c : Cmd) (l m : List DmaDesc) (a : Bytes), HoldsDma s w c 0x0906 16 l a → HasRoom s w → s.pwr.kind ≠ 2 →
    u8 a 0 = i → i < 16 → u8 a 1 = 0 → u16 a 2 = ms → 1 ≤ ms → ms ≤ 60000 → fld a 4 12 = 0 → follow l chain = some m → s.streamBytes i 3 ≤ total m →
    ∃ t, exec (.cameraCapture dt w chain) s = .next t ∧
      Waiting ((s.pass dt).setCtx i { s.ctx i with capt := (s.ctx i).capt ++
        [{ who := w, seq := c.seq, bufs := m.map (fun d => (BitVec.ofNat 64 d.addr, d.bytes)), ends := (s.pass dt).now + ms * perMs }] }) t w c i [] []) ∧
  (∀ (dt i : Nat) (w : Sess) (seq : BitVec 32) (s : State) (p : Pend) (q : Capture), s.pend? w seq = some p → (∃ q, (s.ses w).cq = some q) → p.cmd.op = 0x0906 →
    p.obj.toNat = i → (s.ctx i).capt.find? (fun q => q.who == w && q.seq == seq) = some q →
    ((s.pass dt).now < q.ends → exec (.cameraCaptureTimeout dt w seq) s = .next (s.pass dt)) ∧
    (q.ends ≤ (s.pass dt).now → ∃ t, exec (.cameraCaptureTimeout dt w seq) s = .next t ∧
      Posted ((s.pass dt).setCtx i { s.ctx i with capt := (s.ctx i).capt.filter (fun q => !(q.who == w && q.seq == seq)) }) t p St.timeout i 0
        (idLoupe + s.parFrame (P.inspectCtxPipe i)))) ∧
  (∀ (dt i n b : Nat) (w : Sess) (s : State) (c : Cmd), Holds s w c 0x0907 8 → s.pwr.kind ≠ 2 → u8 c.pay 0 = i → i < 16 → u8 c.pay 1 = 0 → u16 c.pay 2 = n → u32 c.pay 4 = b →
    s.nozzleOn i = false → (n = 0 ∨ 2 ≤ n ∧ n ≤ 1024 ∧ s.stageUsed - (s.ctx i).ringN * (s.ctx i).ringB + n * b ≤ s.stageSize) →
    ∃ t, exec (.cameraNozzleSetup dt w) s = .next t ∧
      Answered ((s.pass dt).setCtx i { s.ctx i with ringN := n, ringB := if n = 0 then 0 else b, ring := [] }) t w c St.ok []) ∧
  (∀ (dt i n b : Nat) (w : Sess) (s : State) (c : Cmd), Holds s w c 0x0907 8 → s.pwr.kind ≠ 2 → u8 c.pay 0 = i → i < 16 → u8 c.pay 1 = 0 → u16 c.pay 2 = n → u32 c.pay 4 = b →
    (s.nozzleOn i = true → n = 0 ∨ 2 ≤ n ∧ n ≤ 1024 → ∃ t, exec (.cameraNozzleSetup dt w) s = .next t ∧ Answered (s.pass dt) t w c St.state []) ∧
    (s.nozzleOn i = false → 2 ≤ n → n ≤ 1024 → s.stageSize < s.stageUsed - (s.ctx i).ringN * (s.ctx i).ringB + n * b →
      ∃ t, exec (.cameraNozzleSetup dt w) s = .next t ∧ Answered (s.pass dt) t w c St.noSpace []))

/-- Rows CSI_FRAME_START, CSI_FRAME_END, CSI_PHY_ERR, CAM_NO_FRAME. -/
def Obligations.FramesOpenAndClose : Prop :=
  (∀ (s : State) (c id : Nat), SMapWf s.params.acc →
    look (s.latchBank c).params.frame id = (if ctxOfParam id = some c then look s.params.acc id else look s.params.frame id)) ∧
  (∀ (dt c line : Nat) (tr : List (Nat × Nat)) (port : Fin 4) (vc : Fin 16) (busy : List (Fin 16)) (s u : State), s.portOn port.val = true →
    (∀ x, x < 16 → ((x ∈ s.ctxsOn port.val vc.val ∨ x ∈ s.ctxsPending port.val vc.val) ↔ x = c)) → c < 16 →
    u = ((s.pass dt).closeFrame State.fault c true (busy.any (fun b => b.val == c))).latchBank c →
    c ∈ u.ctxsOn port.val vc.val → u.loupeOn c = true →
    ((u.parFrame (P.inspectCtxTrig c) = 0xFF ∧ line = 0xFFFFFFFF ∧ tr = (u.ctx c).trigs) ∨
     (u.parFrame (P.inspectCtxTrig c) ≠ 0xFF ∧ (∀ r ∈ (u.ctx c).trigs, u.t32ns ≤ r.2 + u.parFrame (P.inspectCtxTrigLatencyNs c)) ∧
       match (u.ctx c).trigs.find? (fun r => decide (r.2 ≤ u.t32ns)) with
       | some r => line = r.1 ∧ tr = (u.ctx c).trigs.erase r
       | none => line = 0xFFFFFFFF ∧ tr = (u.ctx c).trigs)) →
    exec (.csiFrameStart dt port vc busy) s = .next (u.setCtx c { u.ctx c with
      trigs := tr
      frame := some { count := (u.ctx c).frames, t0 := u.t32, line := line, flags := if line = 0xFFFFFFFF then flUntrig else 0, shade := (u.ctx c).shade,
                      defs := ctxDefs u.cam.defs c }
      dropping := false
      frames := ((u.ctx c).frames + 1) % 2 ^ 32
      pulseAt := none
      capt := (u.ctx c).capt.map (fun q => { q with armed := true }) })) ∧
  (∀ (dt : Nat) (port : Fin 4) (vc : Fin 16) (busy : List (Fin 16)) (s : State),
    (s.portOn port.val = false ∨ s.ctxsOn port.val vc.val = [] ∧ s.ctxsPending port.val vc.val = []) →
    exec (.csiFrameStart dt port vc busy) s = .next (s.pass dt)) ∧
  (∀ (dt c : Nat) (port : Fin 4) (vc : Fin 16) (busy : List (Fin 16)) (s : State) (f : Frame), s.portOn port.val = true →
    (s.ctxsOn port.val vc.val).filter (fun c => (s.ctx c).frame.isSome || (s.ctx c).dropping) = [c] → (s.ctx c).frame = some f → (s.ctx c).dropping = false →
    exec (.csiFrameEnd dt port vc busy) s = .next ((s.pass dt).closeFrame State.fault c false (busy.any (fun b => b.val == c)))) ∧
  (∀ (dt c : Nat) (port : Fin 4) (vc : Fin 16) (busy : List (Fin 16)) (s : State), s.portOn port.val = true →
    (s.ctxsOn port.val vc.val).filter (fun c => (s.ctx c).frame.isSome || (s.ctx c).dropping) = [c] → (s.ctx c).dropping = true →
    exec (.csiFrameEnd dt port vc busy) s = .next ((s.pass dt).setCtx c { s.ctx c with dropping := false })) ∧
  (∀ (dt : Nat) (port : Fin 4) (vc : Fin 16) (busy : List (Fin 16)) (s : State),
    (s.portOn port.val = false → exec (.csiFrameEnd dt port vc busy) s = .next (s.pass dt)) ∧
    (s.portOn port.val = true → (∀ c ∈ s.ctxsOn port.val vc.val, (s.ctx c).frame = none ∧ (s.ctx c).dropping = false) →
      exec (.csiFrameEnd dt port vc busy) s = .next ((s.pass dt).setPort port.val { s.port port.val with disc := sat 32 ((s.port port.val).disc + 1) }))) ∧
  (∀ (c : Nat) (noEnd busy : Bool) (s : State) (f g : Frame) (x y : Ctx), s.ctx c = x → x.frame = some f → s.parFrame (P.inspectCtxHeight c) ≤ f.lines →
    g = { f with flags := withExclude (f.flags ||| 0 ||| if noEnd then flNoEnd else 0), t1 := s.t32 } → s.stream c 2 g = none → s.stream c 3 g = none →
    (∀ m, s.stream c 1 g = some m → x.ringN = 0 ∨ x.ring.length < x.ringN) →
    y = { x with
      frame := none
      lastF := { g with rows := [] }
      emb := f.emb
      embF := f.count
      meas := (match s.stream c 0 g with | some m => (if 2 ≤ x.meas.length then x.meas.drop 1 else x.meas) ++ [m] | none => x.meas)
      overrun := (match s.stream c 0 g with | some _ => if 2 ≤ x.meas.length then sat 32 (x.overrun + 1) else x.overrun | none => x.overrun)
      ring := (match s.stream c 1 g with | some m => if x.ringN = 0 then x.ring else x.ring ++ [m] | none => x.ring) } →
    s.closeFrame State.fault c noEnd busy = s.setCtx c y) ∧
  (∀ (c : Nat) (noEnd busy : Bool) (s : State) (f g : Frame) (x : Ctx), s.ctx c = x → x.frame = some f → f.lines < s.parFrame (P.inspectCtxHeight c) →
    g = { f with flags := withExclude (f.flags ||| flShort ||| if noEnd then flNoEnd else 0), t1 := s.t32 } → (∀ t, t < 4 → s.stream c t g = none) →
    Takes s F.frameShort c idNone →
    Recorded (s.setCtx c { x with frame := none, lastF := { g with rows := [] }, short := sat 32 (x.short + 1), emb := f.emb, embF := f.count })
      (s.closeFrame State.fault c noEnd busy) F.frameShort c idNone 0) ∧
  (∀ (dt : Nat) (port : Fin 4) (s : State),
    (s.portOn port.val = false → exec (.csiPhyErr dt port) s = .next (s.pass dt)) ∧
    (s.portOn port.val = true → Takes s F.csiPhyErr port.val idNone → ∃ t, exec (.csiPhyErr dt port) s = .next t ∧
      Recorded ((s.pass dt).setPort port.val { s.port port.val with phy := sat 32 ((s.port port.val).phy + 1) }) t F.csiPhyErr port.val idNone 0)) ∧
  (∀ (dt at' : Nat) (c : Fin 16) (s : State), (s.ctx c.val).pulseAt = some at' → s.parFrame (P.inspectCtxFrameTimeoutMs c.val) ≠ 0 →
    s.parFrame (P.inspectCtxTrig c.val) ≠ 0xFF → at' + s.parFrame (P.inspectCtxFrameTimeoutMs c.val) * perMs ≤ (s.pass dt).now →
    ((∃ u, (s.ctx c.val).noFrameAt = some u ∧ (s.pass dt).now < u + perSecond) →
      exec (.camNoFrame dt c) s = .next ((s.pass dt).setCtx c.val { s.ctx c.val with pulseAt := none })) ∧
    ((∀ u, (s.ctx c.val).noFrameAt = some u → u + perSecond ≤ (s.pass dt).now) → Takes s F.camNoFrame c.val idNone →
      ∃ t, exec (.camNoFrame dt c) s = .next t ∧
        Recorded ((s.pass dt).setCtx c.val { s.ctx c.val with pulseAt := none, noFrameAt := some (s.pass dt).now }) t F.camNoFrame c.val idNone 0)) ∧
  (∀ (dt : Nat) (c : Fin 16) (s : State), (∀ a, (s.ctx c.val).pulseAt = some a → (s.pass dt).now < a + s.parFrame (P.inspectCtxFrameTimeoutMs c.val) * perMs) →
    exec (.camNoFrame dt c) s = .next (s.pass dt))

/-- Row CSI_LONG_PACKET. The packing of samples is MIPI CSI-2's (log 21). -/
def Obligations.LongPacketsAreLines : Prop :=
  (∀ (dt : Nat) (port : Fin 4) (vc : Fin 16) (k : CsiPacket) (dr : List (Fin 16 × Nat)) (busy : List (Fin 16)) (s u : State), s.portOn port.val = false →
    u = (s.pass dt).drain dr → exec (.csiLongPacket dt port vc k dr busy) s = .next u) ∧
  (∀ (dt : Nat) (port : Fin 4) (vc : Fin 16) (k : CsiPacket) (dr : List (Fin 16 × Nat)) (busy : List (Fin 16)) (s u : State), s.portOn port.val = true →
    u = (s.pass dt).drain dr → k.hdr < 2 →
    (¬(k.dataType = 0x12 ∨ 0x2A ≤ k.dataType ∧ k.dataType ≤ 0x2E) ∨
      ∀ c ∈ s.ctxsOn port.val vc.val, k.dataType ≠ 0x12 ∧ s.parFrame (P.inspectCtxDataType c) ≠ k.dataType) →
    exec (.csiLongPacket dt port vc k dr busy) s = .next (u.setPort port.val { s.port port.val with
      corr := if k.hdr = 1 then sat 32 ((s.port port.val).corr + 1) else (s.port port.val).corr
      disc := sat 32 ((s.port port.val).disc + 1) })) ∧
  (∀ (dt c : Nat) (port : Fin 4) (vc : Fin 16) (k : CsiPacket) (dr : List (Fin 16 × Nat)) (busy : List (Fin 16)) (s u b z v : State) (x : Ctx) (f : Frame) (l : List Nat),
    s.portOn port.val = true → u = (s.pass dt).drain dr → k.hdr < 2 → (s.ctxsOn port.val vc.val).filter (fun c => s.parFrame (P.inspectCtxDataType c) == k.dataType) = [c] →
    0x2A ≤ k.dataType → k.dataType ≤ 0x2E → s.loupeOn c = true → u.ctx c = x → x.frame = some f → f.lines < s.parFrame (P.inspectCtxHeight c) →
    samples k.dataType k.bytes = l →
    ¬(1000 * x.fifo ≤ s.par P.inspectFifoPressurePm * 65536 ∧ s.par P.inspectFifoPressurePm * 65536 < 1000 * (x.fifo + k.bytes.length)) →
    x.fifo + k.bytes.length ≤ 65536 →
    b = (if k.hdr = 1 then u.setPort port.val { s.port port.val with corr := sat 32 ((s.port port.val).corr + 1) } else u) →
    z = b.setCtx c { x with
      fifoL := x.fifoL ++ [k.bytes.length]
      frame := some { f with
        rows := f.rows ++ [l.take (s.parFrame (P.inspectCtxWidth c)) ++ List.replicate (s.parFrame (P.inspectCtxWidth c) - l.length) 0]
        lines := f.lines + 1
        wide := f.wide || decide (l.length ≠ s.parFrame (P.inspectCtxWidth c))
        flags := if l.length = s.parFrame (P.inspectCtxWidth c) then f.flags else f.flags ||| flWidth } } →
    v = { z with cam := { z.cam with
      pix := u.cam.pix.filter (fun e => decide (u.now < e.2.1 + perSecond)) ++ [(s.parFrame (P.inspectCtxPipe c), u.now, s.parFrame (P.inspectCtxWidth c))] } } →
    (k.crcOk = true → (l.length = s.parFrame (P.inspectCtxWidth c) ∨ f.wide = true) → exec (.csiLongPacket dt port vc k dr busy) s = .next v) ∧
    (k.crcOk = true → l.length ≠ s.parFrame (P.inspectCtxWidth c) → f.wide = false → Takes s F.lineWidth c idNone →
      ∃ t, exec (.csiLongPacket dt port vc k dr busy) s = .next t ∧ Recorded v t F.lineWidth c idNone 0) ∧
    (k.crcOk = false → (l.length = s.parFrame (P.inspectCtxWidth c) ∨ f.wide = true) → Takes s F.csiCrc c idNone →
      ∃ t, exec (.csiLongPacket dt port vc k dr busy) s = .next t ∧
        Recorded ((v.setPort port.val { v.port port.val with crc := sat 32 ((s.port port.val).crc + 1) }).setCtx c { v.ctx c with
          frame := (v.ctx c).frame.map (fun f => { f with flags := f.flags ||| flCrc }) }) t F.csiCrc c idNone 0)) ∧
  (∀ (dt c : Nat) (port : Fin 4) (vc : Fin 16) (k : CsiPacket) (dr : List (Fin 16 × Nat)) (busy : List (Fin 16)) (s u : State) (x : Ctx) (f : Frame),
    s.portOn port.val = true → u = (s.pass dt).drain dr → k.hdr = 0 → k.crcOk = true →
    (s.ctxsOn port.val vc.val).filter (fun c => s.parFrame (P.inspectCtxDataType c) == k.dataType) = [c] → 0x2A ≤ k.dataType → k.dataType ≤ 0x2E →
    s.loupeOn c = true → u.ctx c = x → x.frame = some f → s.parFrame (P.inspectCtxHeight c) ≤ f.lines →
    (f.flags &&& flLong ≠ 0 → exec (.csiLongPacket dt port vc k dr busy) s = .next u) ∧
    (f.flags &&& flLong = 0 → Takes s F.frameLong c idNone → ∃ t, exec (.csiLongPacket dt port vc k dr busy) s = .next t ∧
      Recorded (u.setCtx c { x with frame := some { f with flags := f.flags ||| flLong }, long := sat 32 (x.long + 1) }) t F.frameLong c idNone 0)) ∧
  (∀ (dt c : Nat) (port : Fin 4) (vc : Fin 16) (k : CsiPacket) (dr : List (Fin 16 × Nat)) (busy : List (Fin 16)) (s u : State) (x : Ctx) (f : Frame),
    s.portOn port.val = true → u = (s.pass dt).drain dr → k.hdr = 3 → k.crcOk = true →
    (s.ctxsOn port.val vc.val).filter (fun c => s.parFrame (P.inspectCtxDataType c) == k.dataType) = [c] → 0x2A ≤ k.dataType → k.dataType ≤ 0x2E →
    s.loupeOn c = true → u.ctx c = x → x.frame = some f → f.lines < s.parFrame (P.inspectCtxHeight c) →
    ¬(1000 * x.fifo ≤ s.par P.inspectFifoPressurePm * 65536 ∧ s.par P.inspectFifoPressurePm * 65536 < 1000 * (x.fifo + k.bytes.length)) →
    x.fifo + k.bytes.length ≤ 65536 →
    exec (.csiLongPacket dt port vc k dr busy) s = .next (u.setCtx c { x with
      fifoL := x.fifoL ++ [k.bytes.length]
      frame := some { f with rows := f.rows ++ [(f.rows.getLast?).getD (List.replicate (s.parFrame (P.inspectCtxWidth c)) 0)], lines := f.lines + 1, flags := f.flags ||| flLost }
      lost := sat 32 (x.lost + 1) })) ∧
  (∀ (c n : Nat) (s : State) (pipe : Nat), s.parFrame (P.inspectCtxPipe c) = pipe →
    (s.takeLine c n = if s.nextCtx pipe = some c ∧ (s.ctx c).fifoL.head? = some n then
        { s.setCtx c { s.ctx c with fifoL := (s.ctx c).fifoL.drop 1 } with cam := { (s.setCtx c { s.ctx c with fifoL := (s.ctx c).fifoL.drop 1 }).cam with
          rr := put s.cam.rr pipe c } } else s) ∧
    (s.nextCtx pipe = some c → c < 16 ∧ (s.ctx c).fifoL ≠ [])) ∧
  (∀ (dt c : Nat) (port : Fin 4) (vc : Fin 16) (k : CsiPacket) (dr : List (Fin 16 × Nat)) (busy : List (Fin 16)) (s u : State) (x : Ctx) (f : Frame),
    s.portOn port.val = true → u = (s.pass dt).drain dr → k.hdr = 0 → k.crcOk = true → s.ctxsOn port.val vc.val = [c] → k.dataType = 0x12 →
    s.loupeOn c = true → u.ctx c = x → x.frame = some f →
    exec (.csiLongPacket dt port vc k dr busy) s = .next (u.setCtx c { x with frame := some { f with emb := (f.emb ++ k.bytes).take 1024 } })) ∧
  (∀ (dt c : Nat) (port : Fin 4) (vc : Fin 16) (k : CsiPacket) (dr : List (Fin 16 × Nat)) (busy : List (Fin 16)) (s u : State) (x : Ctx) (f : Frame),
    s.portOn port.val = true → u = (s.pass dt).drain dr → k.hdr = 2 → k.dataType ≠ 0x12 →
    (s.ctxsOn port.val vc.val).filter (fun c => s.parFrame (P.inspectCtxDataType c) == k.dataType) = [c] →
    s.loupeOn c = true → u.ctx c = x → x.frame = some f → f.lines < s.parFrame (P.inspectCtxHeight c) → Takes s F.csiHdrEcc port.val idNone →
    ∃ t v, exec (.csiLongPacket dt port vc k dr busy) s = .next t ∧
      Recorded (u.setPort port.val { s.port port.val with hdr := sat 32 ((s.port port.val).hdr + 1) }) v F.csiHdrEcc port.val idNone 0 ∧
      t = v.setCtx c { x with
        frame := some { f with rows := f.rows ++ [(f.rows.getLast?).getD (List.replicate (s.parFrame (P.inspectCtxWidth c)) 0)], lines := f.lines + 1, flags := f.flags ||| flLost }
        lost := sat 32 (x.lost + 1) }) ∧
  (∀ (dt c : Nat) (port : Fin 4) (vc : Fin 16) (k : CsiPacket) (dr : List (Fin 16 × Nat)) (busy : List (Fin 16)) (s u : State) (x : Ctx) (f g : Frame),
    s.portOn port.val = true → u = (s.pass dt).drain dr → k.hdr = 0 → k.crcOk = true →
    (s.ctxsOn port.val vc.val).filter (fun c => s.parFrame (P.inspectCtxDataType c) == k.dataType) = [c] → 0x2A ≤ k.dataType → k.dataType ≤ 0x2E →
    s.loupeOn c = true → u.ctx c = x → x.frame = some f → f.lines < s.parFrame (P.inspectCtxHeight c) →
    ¬(1000 * x.fifo ≤ s.par P.inspectFifoPressurePm * 65536 ∧ s.par P.inspectFifoPressurePm * 65536 < 1000 * (x.fifo + k.bytes.length)) →
    65536 < x.fifo + k.bytes.length →
    g = { f with flags := withExclude (f.flags ||| flDropped), t1 := u.t32, rows := f.rows.take (f.rows.length - x.fifoL.length) } →
    (∀ t, t < 4 → s.stream c t g = none) → Takes s F.frameDropped c idNone →
    ∃ t, exec (.csiLongPacket dt port vc k dr busy) s = .next t ∧
      Recorded (u.setCtx c { x with frame := none, dropping := true, fifoL := [], dropped := sat 32 (x.dropped + 1), lastF := { g with rows := [] } }) t F.frameDropped c idNone 0)

/-- Rows LOOP_STATUS, LOOP_MODE, LOOP_ZONES_READ, LOOP_ZONES_WRITE, LOOP_EVENTS (R382, R386, R387, R396, R398, R529). -/
def Obligations.LoopCommandsAnswer : Prop :=
  (∀ (dt : Nat) (w : Sess) (s : State) (c : Cmd), Holds s w c 0x0601 4 → s.pwr.kind ≠ 2 → fld c.pay 1 3 = 0 →
    ∃ t, exec (.loopStatus dt w) s = .next t ∧
      Answered (s.pass dt) t w c St.ok
        (leB 1 (unmask 8 (u8 c.pay 0)).length ++ leB 3 0 ++ (unmask 8 (u8 c.pay 0)).flatMap (fun b =>
          leB 1 b ++ leB 1 (s.par (P.loopBarMode b)) ++ leB 1 (s.par (P.loopBarCheckMode b)) ++ leB 1 0 ++
            leB 2 (s.countZones b Zone.unmeas) ++ leB 2 (s.countZones b Zone.stale) ++ leB 2 (s.countZones b Zone.limit) ++ leB 2 0 ++
            [0, 1, 2, 3].flatMap (fun v => leB 4 (s.countState b v))))) ∧
  (∀ (dt m k : Nat) (w : Sess) (s : State) (c : Cmd), Holds s w c 0x0602 4 → s.pwr.kind ≠ 2 → u8 c.pay 1 = m → (m ≤ 2 ∨ m = 0xFF) →
    u8 c.pay 2 = k → (k ≤ 2 ∨ k = 0xFF) → u8 c.pay 3 = 0 →
    ∃ t u, exec (.loopMode dt w) s = .next t ∧ u = { s.pass dt with params := { s.params with acc := u.params.acc } } ∧
      (m ≠ 0xFF → ∀ b, b < 8 → bit (u8 c.pay 0) b = true → u.par (P.loopBarMode b) = m) ∧
      (k ≠ 0xFF → ∀ b, b < 8 → bit (u8 c.pay 0) b = true → u.par (P.loopBarCheckMode b) = k) ∧
      (∀ id, (m = 0xFF ∨ ∀ b, b < 8 → bit (u8 c.pay 0) b = true → id ≠ (P.loopBarMode b).id) →
        (k = 0xFF ∨ ∀ b, b < 8 → bit (u8 c.pay 0) b = true → id ≠ (P.loopBarCheckMode b).id) → look u.params.acc id = look s.params.acc id) ∧
      Answered u t w c St.ok []) ∧
  (∀ (dt b z n : Nat) (w : Sess) (s : State) (c : Cmd), Holds s w c 0x0603 8 → s.pwr.kind ≠ 2 → u8 c.pay 0 = b → b < 8 → u8 c.pay 1 = 0 →
    u16 c.pay 2 = z → u8 c.pay 4 = n → 1 ≤ n → n ≤ 19 → z + n ≤ 400 → fld c.pay 5 3 = 0 →
    ∃ t, exec (.loopZonesRead dt w) s = .next t ∧
      Answered (s.pass dt) t w c St.ok
        (leB 1 b ++ leB 1 n ++ leB 2 z ++ (List.range n).flatMap (fun i =>
          let x := s.zone (400 * b + z + i)
          leB 2 (unsigned 16 x.z) ++ leB 2 (unsigned 16 (x.eff (back s.fire.next 1))) ++ leB 1 x.flags ++ leB 1 (sat 8 x.count) ++
            leB 2 (unsigned 16 x.lastD) ++ leB 4 x.lastUp))) ∧
  (∀ (dt b z n : Nat) (w : Sess) (s : State) (c : Cmd), Holds s w c 0x0604 (4 + 2 * n) → s.pwr.kind ≠ 2 → u8 c.pay 0 = b → b < 8 →
    u8 c.pay 1 = n → 1 ≤ n → n ≤ 19 → u16 c.pay 2 = z → z + n ≤ 400 →
    (∀ i, i < n → (signed 16 (u16 c.pay (4 + 2 * i))).natAbs ≤ s.par P.loopZoneLimit) →
    ∃ t u, exec (.loopZonesWrite dt w) s = .next t ∧ u = { s.pass dt with loop := { s.loop with zones := u.loop.zones } } ∧
      (∀ i, i < n → u.zone (400 * b + z + i) =
        { s.zone (400 * b + z + i) with pendZ := some (signed 16 (u16 c.pay (4 + 2 * i))), pendHost := true }) ∧
      (∀ x, x < 400 * b + z ∨ 400 * b + z + n ≤ x → u.zone x = s.zone x) ∧ Answered u t w c St.ok (leB 4 s.fire.next)) ∧
  (∀ (dt : Nat) (w : Sess) (s : State) (c : Cmd), Holds s w c 0x0605 0 → s.pwr.kind ≠ 2 →
    ∃ t, exec (.loopEvents dt w) s = .next t ∧
      Answered { s.pass dt with loop := { s.loop with events := s.loop.events.drop 14, lost := 0 } } t w c St.ok
        (eventRead ((s.loop.events.take 14).map LoopEvent.bytes) s.loop.lost))

/-- Rows LOOP_MEMORY_READ, LOOP_MEMORY_READ_COMPLETE, LOOP_MEMORY_WRITE, LOOP_MEMORY_WRITE_COMPLETE (R393, R395, R398, R529). -/
def Obligations.ColourMemoryTransfers : Prop :=
  (∀ (dt i : Nat) (w : Sess) (s : State) (c : Cmd) (l : List DmaDesc) (a : Bytes), HoldsDma s w c 0x0606 16 l a → HasRoom s w → s.pwr.kind ≠ 2 →
    u16 a 0 = i → i < 4096 → fld a 2 14 = 0 → (s.job i).memValid = true →
    ∃ t, exec (.loopMemoryRead dt w) s = .next t ∧ Waiting (s.pass dt) t w c i (s.job i).memory []) ∧
  (∀ (dt : Nat) (w : Sess) (seq : BitVec 32) (chain : List Bytes) (s : State) (p : Pend) (l : List DmaDesc),
    s.pend? w seq = some p → (∃ q, (s.ses w).cq = some q) → p.cmd.op = 0x0606 → p.descs chain = some l → p.data.length ≤ total l →
    ∃ t, exec (.loopMemoryReadComplete dt w seq chain) s = .next t ∧
      Posted ((s.pass dt).emits (scatter l p.data)) t p St.ok p.obj.toNat 12816 idLoupe) ∧
  (∀ (dt i : Nat) (w : Sess) (s : State) (c : Cmd) (l : List DmaDesc) (a : Bytes), HoldsDma s w c 0x0607 16 l a → HasRoom s w → s.pwr.kind ≠ 2 →
    u16 a 0 = i → i < 4096 → fld a 2 14 = 0 → 2 ≤ (s.job i).state → (s.job i).state ≠ 5 → (s.job i).state ≠ 6 →
    (chainOf l = none → total l = 12816) →
    ∃ t, exec (.loopMemoryWrite dt w) s = .next t ∧ Waiting (s.pass dt) t w c i [] []) ∧
  (∀ (dt i : Nat) (w : Sess) (seq : BitVec 32) (chain : List Bytes) (data b : Bytes) (s : State) (p : Pend),
    s.pend? w seq = some p → (∃ q, (s.ses w).cq = some q) → p.cmd.op = 0x0607 → p.obj.toNat = i → p.dataIn chain data = some b → b.length = 12816 →
    memoryOk b = true → (s.job i).memOpen = true → ((s.job i).memValid = true ∨ s.libUsed + 12816 ≤ s.libSize) →
    ∃ t, exec (.loopMemoryWriteComplete dt w seq chain data) s = .next t ∧
      Posted ((s.pass dt).setJob i { s.job i with
        memory := b, memValid := true, stored := (s.job i).stored + (if (s.job i).memValid then 0 else 12816) }) t p St.ok i 0 idLoupe) ∧
  (∀ (dt i : Nat) (w : Sess) (seq : BitVec 32) (chain : List Bytes) (data b : Bytes) (s : State) (p : Pend),
    s.pend? w seq = some p → (∃ q, (s.ses w).cq = some q) → p.cmd.op = 0x0607 → p.obj.toNat = i → p.dataIn chain data = some b → b.length = 12816 →
    memoryOk b = true → (s.job i).memOpen = true → (s.job i).memValid = false → s.libSize < s.libUsed + 12816 →
    ∃ t, exec (.loopMemoryWriteComplete dt w seq chain data) s = .next t ∧ Posted (s.pass dt) t p St.noSpace i 0 idLoupe) ∧
  (∀ (dt : Nat) (w : Sess) (seq : BitVec 32) (chain : List Bytes) (data b : Bytes) (s : State) (p : Pend),
    s.pend? w seq = some p → (∃ q, (s.ses w).cq = some q) → p.cmd.op = 0x0607 → p.dataIn chain data = some b → (b.length ≠ 12816 ∨ memoryOk b = false) →
    ∃ t, exec (.loopMemoryWriteComplete dt w seq chain data) s = .next t ∧ Posted (s.pass dt) t p St.badParam p.obj.toNat 0 idLoupe)

/-- Rows ZONE_STALE, ZONE_RAMP_END, LOOP_FRAME_PROCESS, and the measurement of a zone within a frame (R380, R382 to R385, R396); the deviation
of a mark's centroid is free (log 11). -/
def Obligations.ZonesAndFramesOfTheLoop : Prop :=
  (∀ (dt : Nat) (bar : Fin 8) (zone : Fin 400) (s : State) (x : Zone), s.zone (400 * bar.val + zone.val) = x → x.stale = false → x.notCov = false →
    (s.barLoop bar.val).job ≠ none → s.zoneMode bar.val = 2 → (s.par P.loopStaleLines : Int) ≤ since s.pos x.lastEl →
    (s.barLoop bar.val).staleRec = true →
    exec (.zoneStale dt bar zone) s = .next
      (((s.pass dt).setZone (400 * bar.val + zone.val) { x with stale := true }).loopEvent 1 bar.val zone.val 0 s.pos)) ∧
  (∀ (dt : Nat) (bar : Fin 8) (zone : Fin 400) (s : State) (x : Zone), s.zone (400 * bar.val + zone.val) = x → x.stale = false → x.notCov = false →
    (s.barLoop bar.val).job ≠ none → s.zoneMode bar.val = 2 → (s.par P.loopStaleLines : Int) ≤ since s.pos x.lastEl →
    (s.barLoop bar.val).staleRec = false → Takes s F.zoneStale bar.val idNone →
    ∃ t u, exec (.zoneStale dt bar zone) s = .next t ∧
      u = ((s.pass dt).setZone (400 * bar.val + zone.val) { x with stale := true }).loopEvent 1 bar.val zone.val 0 s.pos ∧
      Recorded (u.setBarLoop bar.val { s.barLoop bar.val with staleRec := true }) t F.zoneStale bar.val idNone 0) ∧
  (∀ (dt : Nat) (bar : Fin 8) (zone : Fin 400) (s : State) (x : Zone), s.zone (400 * bar.val + zone.val) = x → x.ramping = true →
    0 ≤ since s.fire.next x.pEnd →
    exec (.zoneRampEnd dt bar zone) s = .next ((s.pass dt).setZone (400 * bar.val + zone.val) { x with ramping := false })) ∧
  (∀ (dt : Nat) (ctx : Fin 16) (nozzle : Bool) (s : State) (m : Stream) (rest : List Stream), s.loupeOn ctx.val = true →
    (if nozzle then (s.ctx ctx.val).ring else (s.ctx ctx.val).meas) = m :: rest →
    (∀ n ∈ [F.zoneLimit, F.loopConfig, F.nozzleOut, F.nozzleWeak, F.checkAge, F.checkSuspect], Calm s n) →
    ∃ t u, exec (.loopFrameProcess dt ctx nozzle) s = .next t ∧
      u = (s.pass dt).setCtx ctx.val (if nozzle then { s.ctx ctx.val with ring := rest } else { s.ctx ctx.val with meas := rest }) ∧
      Touched { u with loop := t.loop, ledger := { s.ledger with pend := t.ledger.pend } } t ∧
      ((∀ b, b < 8 → (s.barLoop b).job = none) → t = u)) ∧
  (∀ (s : State) (b z weight printed : Nat) (delta : Int) (x : Zone), s.zone (400 * b + z) = x → x.stale = false → 0 ≤ since printed x.pEnd →
    x.acc.length + 1 < (if x.unmeas then 8 else s.par P.loopZoneMeasPerUpdate) →
    s.measureZone b z delta weight printed =
      s.setZone (400 * b + z) { x with acc := x.acc ++ [(delta, weight)], count := sat 8 (x.count + 1), lastEl := s.pos }) ∧
  (∀ (s : State) (b z : Nat) (x : Zone) (d step : Int), s.zone (400 * b + z) = x → s.zoneMode b = 2 → x.pendZ = none → x.limit = false →
    d = roundAway ((x.acc.map (fun (e : Int × Nat) => e.1 * (e.2 : Int))).sum) ((x.acc.map Prod.snd).sum : Nat) →
    step = (if d.natAbs < s.par P.loopZoneDeadband then 0 else
      clamp (-(s.par P.loopZoneStepMax : Int)) (s.par P.loopZoneStepMax) (roundAway (s.par P.loopZoneKi * d) 256)) →
    (x.z + step).natAbs ≤ s.par P.loopZoneLimit → x.pendHost = false →
    s.updateZone b z = s.setZone (400 * b + z) { x with
      acc := [], unmeas := false, lastD := d, lastUp := s.fire.next, pendZ := if step = 0 then none else some (x.z + step), limit := false })

/-- Rows MEMORY_STATUS, MEMORY_TRAINING_READ, MEMORY_CODEC, MEMORY_SCAN, CODEC_JOB_COMPLETE, SCAN_COMPLETE. -/
def Obligations.MemoryCommandsAnswer : Prop :=
  (∀ (dt i : Nat) (w : Sess) (s : State) (c : Cmd) (x : DdrChan), Holds s w c 0x1101 4 → s.pwr.kind ≠ 2 → u8 c.pay 0 = i → i < 3 → fld c.pay 1 3 = 0 → s.chan i = x →
    ∃ t, exec (.memoryStatus dt w) s = .next t ∧ Answered (s.pass dt) t w c St.ok
      (leB 1 x.state ++ leB 1 (s.parReset P.memoryDdrWidth) ++ leB 1 (s.parReset P.memoryDdrDensityGbit) ++
        leB 1 (s.parReset P.memoryDdrRanks) ++ leB 2 (s.parReset P.memoryDdrMts) ++ leB 1 (s.parReset P.memoryDdrMapOrder) ++ leB 1 (b2n x.x2) ++
        leB 4 x.corr ++ leB 4 x.reread ++ leB 4 x.pois ++ leB 4 x.ca ++ leB 4 x.crc ++ leB 1 x.postponed ++ leB 1 (b2n s.ddr.initDone) ++
        leB 2 (unsigned 16 (s.ddr.caseC.getD 0)) ++ leB 1 s.dramGb ++ leB 3 0)) ∧
  (∀ (dt i r : Nat) (w : Sess) (s : State) (c : Cmd), Holds s w c 0x1102 4 → s.pwr.kind ≠ 2 → u8 c.pay 0 = i → i < 3 → u8 c.pay 1 = r → r < 2 → u16 c.pay 2 = 0 →
    (s.trained i = true → r < s.parReset P.memoryDdrRanks →
      ∃ t, exec (.memoryTrainingRead dt w) s = .next t ∧ Answered (s.pass dt) t w c St.ok ((List.range 9).flatMap (fun l =>
        leB 1 (s.trainRes i r l).rd ++ leB 1 (s.trainRes i r l).re ++ leB 2 (s.trainRes i r l).wd ++ leB 1 (s.trainRes i r l).we ++ leB 1 (s.trainRes i r l).vref))) ∧
    ((s.trained i = false ∨ s.parReset P.memoryDdrRanks ≤ r) → ∃ t, exec (.memoryTrainingRead dt w) s = .next t ∧ Answered (s.pass dt) t w c St.state [])) ∧
  (∀ (dt m : Nat) (w : Sess) (s : State) (c : Cmd) (l : List DmaDesc) (a : Bytes) (j : CodecJob), HoldsDma s w c 0x1103 32 l a → HasRoom s w → s.pwr.kind ≠ 2 →
    u8 a 0 = m → m ≤ 2 → fld a 1 3 = 0 → (m ≠ 0 → u32 a 0x10 = 0) → fld a 0x14 12 = 0 →
    j = { who := some (w, c.seq), mode := m, inLen := u32 a 4, expect := u32 a 0x10 } →
    (m = 0 → s.chip.decomp.length < 32 → ∃ t, exec (.memoryCodec dt w) s = .next t ∧ Waiting { s.pass dt with chip := { s.chip with decomp := s.chip.decomp ++ [j] } } t w c 0 [] []) ∧
    (m ≠ 0 → s.chip.comp.length < 32 → ∃ t, exec (.memoryCodec dt w) s = .next t ∧ Waiting { s.pass dt with chip := { s.chip with comp := s.chip.comp ++ [j] } } t w c 0 [] []) ∧
    ((if m = 0 then 32 ≤ s.chip.decomp.length else 32 ≤ s.chip.comp.length) → ∃ t, exec (.memoryCodec dt w) s = .next t ∧ Answered (s.pass dt) t w c St.busy [])) ∧
  (∀ (dt : Nat) (chain : List Bytes) (data input out : Bytes) (w : Sess) (seq : BitVec 32) (s u : State) (p : Pend) (j : CodecJob) (rest : List CodecJob) (l : List DmaDesc),
    s.chip.comp = j :: rest → j.who = some (w, seq) → s.pend? w seq = some p → (∃ q, (s.ses w).cq = some q) → p.descs chain = some l → input = padTo j.inLen data →
    u = { s.pass dt with chip := { s.chip with comp := rest, jobs := sat 32 (s.chip.jobs + 1) } } → out = u.compressed input →
    ∃ t, exec (.codecJobComplete dt true chain data) s = .next t ∧
      (input.length ≤ out.length → input.length ≤ total l →
        Posted { u.fresh with chip := { u.chip with noshr := sat 32 (s.chip.noshr + 1) } } t p St.noshrink p.obj.toNat ((crc32c input).toNat * 2 ^ 32) idCodec) ∧
      (¬(input.length ≤ out.length ∧ input.length ≤ total l) →
        Posted (u.fresh.emits (scatter l out)) t p (if total l < out.length then St.noSpace else St.ok) p.obj.toNat
          (min (total l) out.length + (crc32c input).toNat * 2 ^ 32) idCodec)) ∧
  (∀ (dt : Nat) (chain : List Bytes) (data : Bytes) (w : Sess) (seq : BitVec 32) (s u : State) (p : Pend) (j : CodecJob) (rest : List CodecJob) (l : List DmaDesc),
    s.chip.decomp = j :: rest → j.who = some (w, seq) → s.pend? w seq = some p → (∃ q, (s.ses w).cq = some q) → p.descs chain = some l →
    u = { s.pass dt with chip := { s.chip with decomp := rest, jobs := sat 32 (s.chip.jobs + 1) } } →
    (∀ out, inflate (padTo j.inLen data) j.expect = some out → ∃ t, exec (.codecJobComplete dt false chain data) s = .next t ∧
      Posted (u.emits (scatter l out)) t p (if total l < out.length then St.noSpace else St.ok) p.obj.toNat (min (total l) out.length + (crc32c out).toNat * 2 ^ 32) idCodec) ∧
    (inflate (padTo j.inLen data) j.expect = none → Takes s F.codecStream 0xFFFFFFFF idCodec → ∃ t v, exec (.codecJobComplete dt false chain data) s = .next t ∧
      Recorded { u with chip := { u.chip with strErr := sat 32 (s.chip.strErr + 1) } } v F.codecStream 0xFFFFFFFF idCodec 0 ∧
      Posted v t p St.faulted p.obj.toNat 0 idCodec)) ∧
  (∀ (dt : Nat) (comp : Bool) (chain : List Bytes) (data : Bytes) (s : State), (if comp then s.chip.comp else s.chip.decomp) = [] →
    exec (.codecJobComplete dt comp chain data) s = .next (s.pass dt)) ∧
  (∀ (dt e sp poly a n : Nat) (w : Sess) (s : State) (c : Cmd), Holds s w c 0x1104 20 → HasRoom s w → s.pwr.kind ≠ 2 → u8 c.pay 0 = e → e < 4 → u8 c.pay 1 = sp → sp < 2 →
    u8 c.pay 2 = poly → poly < 2 → u8 c.pay 3 = 0 → u64 c.pay 4 = a → u64 c.pay 12 = n → 1 ≤ n → n ≤ 2 ^ 37 → a + n ≤ s.spaceSize sp →
    ((s.scanEngine e).who = none → ∃ t, exec (.memoryScan dt w) s = .next t ∧
      Waiting ((s.pass dt).setScan e { who := some (w, c.seq), space := sp, poly := poly, start := a, len := n }) t w c e [] []) ∧
    ((s.scanEngine e).who ≠ none → ∃ t, exec (.memoryScan dt w) s = .next t ∧ Answered (s.pass dt) t w c St.busy [])) ∧
  (∀ (dt : Nat) (e : Fin 4) (w : Sess) (seq : BitVec 32) (s : State) (p : Pend) (x : Scan), s.scanEngine e.val = x → x.who = some (w, seq) → s.pend? w seq = some p →
    (∃ q, (s.ses w).cq = some q) → (x.space = 0 → s.offlineIn (x.start / 64) ((x.start + x.len - 1) / 64) = none) →
    (∀ b, x.space = 1 → ((s.pass dt).setScan e.val {}).scratchBytes x.start x.len = some b → ∃ t, exec (.scanComplete dt e [] none) s = .next t ∧
      Posted ((s.pass dt).setScan e.val {}) t p St.ok p.obj.toNat (crcCode x.poly b).toNat (idScan + e.val)) ∧
    ((x.space ≠ 1 ∨ ((s.pass dt).setScan e.val {}).scratchBytes x.start x.len = none) → ∃ t, exec (.scanComplete dt e [] none) s = .next t ∧
      Posted (((s.pass dt).setScan e.val {}).fresh) t p St.ok p.obj.toNat (Config.value s.free % 2 ^ 32) (idScan + e.val)) ∧
    (∀ g, x.space = 1 → x.start / 64 ≤ g → g ≤ (x.start + x.len - 1) / 64 → Takes s F.scratchEcc (64 * g) (idScan + e.val) → Takes s F.scanPoison e.val (idScan + e.val) →
      ∃ t u v, exec (.scanComplete dt e [(g, .poisoned)] none) s = .next t ∧ Recorded (s.pass dt) u F.scratchEcc (64 * g) (idScan + e.val) 1 ∧
        Recorded (u.setScan e.val {}) v F.scanPoison e.val (idScan + e.val) 1 ∧ Posted v t p St.faulted p.obj.toNat (64 * g) (idScan + e.val))) ∧
  (∀ (dt : Nat) (e : Fin 4) (m : BitVec 8) (a : BitVec 32) (s : State), (s.scanEngine e.val).who = none → m.toNat ≠ idFender → Takes s F.secureScratchDenied a.toNat m.toNat →
    ∃ t, exec (.scanComplete dt e [] (some (m, a))) s = .next t ∧ Recorded (s.pass dt) t F.secureScratchDenied a.toNat m.toNat 1)

/-- Rows DDR_READ, CA_PARITY_ALERT, WRITE_CRC_ALERT, DDR_REFRESH_DUE, DDR_TEMP_READ, DDR_ZQCS, DDR_SCRUB, DDR_INIT_DONE. -/
def Obligations.DdrChannelsWork : Prop :=
  (∀ (dt granule age : Nat) (port : Option (Fin 12)) (ch : Fin 3) (fate : ReadFate) (master : BitVec 8) (who : Option (Sess × BitVec 32))
      (win : Option (Fin 160 × Fin 2 × Nat × Nat × Option (Fin 16))) (queued : List DdrReq) (s u : State),
    u = (s.pass dt).enter ch.val (queued ++ (match port with | some p => [{ port := p, granule := granule, age := age, master := master, who := who, win := win }] | none => [])) →
    (s.trained ch.val = false → exec (.ddrRead dt port ch granule fate age master who win queued) s = .next (s.pass dt)) ∧
    (∀ v, s.trained ch.val = true → u.issueRead (2 * (u.chan ch.val).reqs.length) ch.val = (v, none) →
      exec (.ddrRead dt port ch granule fate age master who win queued) s = .next (v.drainRefresh ch.val)) ∧
    (∀ (v : State) (r : DdrReq) (at_ : Nat) (x : DdrChan), s.trained ch.val = true → u.issueRead (2 * (u.chan ch.val).reqs.length) ch.val = (v, some (r, at_)) → v.chan ch.val = x → x.state ≠ 4 →
      ((r.port.val < 8 ∨ v.reqAge (r, at_) ≤ 2 * v.portTarget r.port.val) →
        (fate = .clean → exec (.ddrRead dt port ch granule fate age master who win queued) s = .next (v.drainRefresh ch.val)) ∧
        (fate = .corrected → Takes v F.ddrEccCorr r.granule r.master.toNat →
          ∃ a, Recorded (v.setChan ch.val { x with corr := sat 32 (x.corr + 1) }) a F.ddrEccCorr r.granule r.master.toNat 1 ∧
            exec (.ddrRead dt port ch granule fate age master who win queued) s = .next (a.drainRefresh ch.val)) ∧
        (fate = .cleared → Takes v F.ddrEccReread r.granule r.master.toNat →
          ∃ a, Recorded (v.setChan ch.val { x with reread := sat 32 (x.reread + 1) }) a F.ddrEccReread r.granule r.master.toNat 1 ∧
            exec (.ddrRead dt port ch granule fate age master who win queued) s = .next (a.drainRefresh ch.val)) ∧
        (fate = .poisoned → Takes v F.ddrEccPoison r.granule r.master.toNat →
          ∃ a b, Recorded (v.setChan ch.val { x with pois := sat 32 (x.pois + 1) }) a F.ddrEccPoison r.granule r.master.toNat 1 ∧ b = a.drainRefresh ch.val ∧
            (r.port.val = 8 ∨ r.port.val < 8 ∧ r.win = none ∨ 8 < r.port.val ∧ r.who = none → exec (.ddrRead dt port ch granule fate age master who win queued) s = .next b) ∧
            (∀ slot rg line k ring, r.port.val < 8 → r.win = some (slot, rg, line, k, ring) →
              exec (.ddrRead dt port ch granule fate age master who win queued) s = .next (b.poisonGranule slot.val rg.val line k (ring.map Fin.val))) ∧
            (∀ w seq p, 8 < r.port.val → r.who = some (w, seq) → v.pend? w seq = some p → (∃ q, (v.ses w).cq = some q) → p.cmd.op = 0x1103 ∨ p.cmd.op = 0x1104 →
              ∃ t, exec (.ddrRead dt port ch granule fate age master who win queued) s = .next t ∧
                Posted (b.undo p) t p St.faulted p.obj.toNat 0 (if r.port.val = 9 then idCodec else if r.port.val = 10 then idHob else r.master.toNat)) ∧
            (∀ w c, 8 < r.port.val → r.who = some (w, c.seq) → v.pend? w c.seq = none → (v.ses w).cmd = some c →
              ∃ t, exec (.ddrRead dt port ch granule fate age master who win queued) s = .next t ∧ Answered b t w c St.faulted []))) ∧
      (8 ≤ r.port.val → 2 * v.portTarget r.port.val < v.reqAge (r, at_) → fate = .clean →
        ((∃ a, look v.ddr.lateAt r.port.val = some a ∧ v.now < a + perSecond) →
          exec (.ddrRead dt port ch granule fate age master who win queued) s = .next (({ v with ddr := { v.ddr with
            late := put v.ddr.late r.port.val (sat 32 (sel v.ddr.late r.port.val 0 + 1)) } }).drainRefresh ch.val)) ∧
        ((∀ a, look v.ddr.lateAt r.port.val = some a → a + perSecond ≤ v.now) → Takes v F.ddrQosLate r.port.val idNone →
          ∃ a, Recorded { v with ddr := { v.ddr with
              late := put v.ddr.late r.port.val (sat 32 (sel v.ddr.late r.port.val 0 + 1)), lateAt := put v.ddr.lateAt r.port.val v.now } } a F.ddrQosLate r.port.val idNone 0 ∧
            exec (.ddrRead dt port ch granule fate age master who win queued) s = .next (a.drainRefresh ch.val))))) ∧
  (∀ (n : Nat) (ch : Fin 3) (u v : State) (e : DdrReq × Nat) (x : DdrChan), u.issueRead n ch.val = (v, some e) → u.chan ch.val = x →
    e.1.write = false ∧ e ∈ x.reqs) ∧
  (∀ (c : Nat) (u : State) (l : List (DdrReq × Nat)), l = (u.chan c).reqs →
    (u.drains c = true ↔ 48 ≤ l.countP (fun e => e.1.write) ∨ (∀ e ∈ l, e.1.write = true) ∨
      ∃ b e a, l = b ++ e :: a ∧ e.1.write = false ∧ ∃ d ∈ b, d.1.granule = e.1.granule ∧ d.1.write = true) ∧
    (∀ e, e ∈ u.reqChoices c ↔ ∃ b a, l = b ++ e :: a ∧ (∀ d ∈ b, d.1.granule = e.1.granule → d.1.write = false ∧ e.1.write = false) ∧
      (e.1.write = true → u.drains c = true ∧ b.countP (fun d => d.1.write) < 64))) ∧
  (∀ (c : Nat) (u : State) (e : DdrReq × Nat), u.nextReq c = some e →
    e ∈ u.reqChoices c ∧ (∀ d ∈ u.reqChoices c, u.reqUrgency c d ≤ u.reqUrgency c e) ∧
    (4 ≤ (u.chan c).streak ∨ (∀ d ∈ u.reqChoices c, u.reqUrgency c d = u.reqUrgency c e → u.rowHit c d.1 = false) →
      (u.reqChoices c).find? (fun d => u.reqUrgency c d == u.reqUrgency c e) = some e) ∧
    ((u.chan c).streak < 4 → (∃ d ∈ u.reqChoices c, u.reqUrgency c d = u.reqUrgency c e ∧ u.rowHit c d.1 = true) → u.rowHit c e.1 = true)) ∧
  (∀ (dt n : Nat) (ch : Fin 3) (again : Bool) (s : State) (x : DdrChan), s.chan ch.val = x → n = (if again then x.caFails + 1 else 0) →
    (x.state ≠ 2 → exec (.caParityAlert dt ch again) s = .next (s.pass dt)) ∧
    (x.state = 2 → n < 3 → Takes s F.ddrCaParity ch.val idNone → ∃ t, exec (.caParityAlert dt ch again) s = .next t ∧
      Recorded ((s.pass dt).setChan ch.val { x with caFails := n, ca := sat 32 (x.ca + 1), rows := [] }) t F.ddrCaParity ch.val idNone 0) ∧
    (x.state = 2 → 3 ≤ n → Takes s F.ddrChannelOffline ch.val idNone → (s.src F.ddrChannelOffline).conds.contains (BitVec.ofNat 32 ch.val) = false →
      ∃ t, exec (.caParityAlert dt ch again) s = .next t ∧
        Recorded ((s.pass dt).setChan ch.val { x with caFails := 0, state := 4, rows := [] }) t F.ddrChannelOffline ch.val idNone 0)) ∧
  (∀ (dt n : Nat) (ch : Fin 3) (again : Bool) (s : State) (x : DdrChan), s.chan ch.val = x → n = (if again then x.crcFails + 1 else 0) →
    ((x.state ≠ 2 ∨ s.parReset P.memoryDdrWriteCrc = 0) → exec (.writeCrcAlert dt ch again) s = .next (s.pass dt)) ∧
    (x.state = 2 → s.parReset P.memoryDdrWriteCrc ≠ 0 → n < 3 → Takes s F.ddrWriteCrc ch.val idNone → ∃ t, exec (.writeCrcAlert dt ch again) s = .next t ∧
      Recorded ((s.pass dt).setChan ch.val { x with crcFails := n, crc := sat 32 (x.crc + 1) }) t F.ddrWriteCrc ch.val idNone 0) ∧
    (x.state = 2 → s.parReset P.memoryDdrWriteCrc ≠ 0 → 3 ≤ n → Takes s F.ddrChannelOffline ch.val idNone →
      (s.src F.ddrChannelOffline).conds.contains (BitVec.ofNat 32 ch.val) = false →
      ∃ t, exec (.writeCrcAlert dt ch again) s = .next t ∧
        Recorded ((s.pass dt).setChan ch.val { x with crcFails := 0, state := 4 }) t F.ddrChannelOffline ch.val idNone 0)) ∧
  (∀ (dt : Nat) (ch : Fin 3) (rank : Fin 2) (arrive : List DdrReq) (s u : State) (x y : DdrChan), u = (s.pass dt).enter ch.val arrive → u.chan ch.val = x →
    y = { x with refDue := put x.refDue rank.val (16 * u.now + if x.x2 then 39000 else 78000) } →
    (x.state = 2 → rank.val < s.parReset P.memoryDdrRanks → 16 * u.now < sel x.refDue rank.val 0 → exec (.ddrRefreshDue dt ch rank arrive) s = .next u) ∧
    ((x.state ≠ 2 ∨ s.parReset P.memoryDdrRanks ≤ rank.val) → exec (.ddrRefreshDue dt ch rank arrive) s = .next (s.pass dt)) ∧
    (x.state = 2 → rank.val < s.parReset P.memoryDdrRanks → sel x.refDue rank.val 0 ≤ 16 * u.now → (∃ e ∈ x.reqs, 2 ≤ u.urgency e.1.port.val (u.reqAge e)) →
      exec (.ddrRefreshDue dt ch rank arrive) s = .next (u.setChan ch.val { y with post := put x.post rank.val (min 8 (sel x.post rank.val 0 + 1)) })) ∧
    (x.state = 2 → rank.val < s.parReset P.memoryDdrRanks → sel x.refDue rank.val 0 ≤ 16 * u.now → (∀ e ∈ x.reqs, u.urgency e.1.port.val (u.reqAge e) < 2) →
      exec (.ddrRefreshDue dt ch rank arrive) s = .next (u.setChan ch.val { y with post := [], rows := [] }))) ∧
  (∀ (dt : Nat) (s : State), (s.pass dt).now < s.ddr.tempNext → exec (.ddrTempRead dt) s = .next (s.pass dt)) ∧
  (∀ (dt : Nat) (s : State), s.ddr.tempNext ≤ (s.pass dt).now → Calm s F.ddrTempStale → Calm s F.ddrOvertemp → Calm s F.ddrRefreshDouble →
    ∃ t, exec (.ddrTempRead dt) s = .next t ∧
      Touched { s.pass dt with ddr := { s.ddr with ch := t.ddr.ch, caseC := t.ddr.caseC, caseAt := t.ddr.caseAt, tempNext := (s.pass dt).now + 10 * perMs } } t ∧
      (∀ c, (s.chan c).state ≠ 2 → t.chan c = s.chan c) ∧
      (s.par P.memoryDdrTempSensor = 0xFF → t.ddr.caseC = none ∧ ∀ c, c < 3 → (s.chan c).state = 2 → t.chan c = { s.chan c with x2 := true }) ∧
      (∀ v, s.par P.memoryDdrTempSensor ≠ 0xFF → (s.pass dt).boardTemp (s.par P.memoryDdrTempSensor) = some v →
        t.ddr.caseC = some v ∧ t.ddr.caseAt = (s.pass dt).now ∧
        ∀ c, c < 3 → (s.chan c).state = 2 →
          (850 < v → t.chan c = if (s.chan c).x2 then s.chan c else { s.chan c with
            x2 := true
            post := []
            refDue := put (put (s.chan c).refDue 0 (16 * (s.pass dt).now + 39000)) 1 (16 * (s.pass dt).now + 39000) }) ∧
          (v < 830 → t.chan c = { s.chan c with x2 := false }) ∧ (830 ≤ v → v ≤ 850 → t.chan c = s.chan c)) ∧
      (s.par P.memoryDdrTempSensor ≠ 0xFF → (s.pass dt).boardTemp (s.par P.memoryDdrTempSensor) = none → t.ddr.caseC = s.ddr.caseC ∧
        ∀ c, c < 3 → (s.chan c).state = 2 →
          t.chan c = if (s.pass dt).now < s.ddr.caseAt + 100 * perMs then s.chan c else { s.chan c with x2 := true })) ∧
  (∀ (dt : Nat) (s : State), exec (.ddrZqcs dt) s = .next (s.pass dt)) ∧
  (∀ (dt g n : Nat) (ch : Fin 3) (s : State) (x : DdrChan), s.chan ch.val = x → n = (s.pass dt).now + s.par P.memoryDdrScrubHours * 3600 * perSecond →
    (s.par P.memoryDdrScrubHours = 0 ∨ (s.pass dt).now < s.ddr.scrubNext → exec (.ddrScrub dt [(ch, g, .corrected)]) s = .next (s.pass dt)) ∧
    (s.par P.memoryDdrScrubHours ≠ 0 → s.ddr.scrubNext ≤ (s.pass dt).now → exec (.ddrScrub dt []) s = .next { s.pass dt with ddr := { s.ddr with scrubNext := n } }) ∧
    (s.par P.memoryDdrScrubHours ≠ 0 → s.ddr.scrubNext ≤ (s.pass dt).now → x.state = 2 → Takes s F.ddrEccCorr g idNone → ∃ t, exec (.ddrScrub dt [(ch, g, .corrected)]) s = .next t ∧
      Recorded ({ s.pass dt with ddr := { s.ddr with scrubNext := n } }.setChan ch.val { x with corr := sat 32 (x.corr + 1) }) t F.ddrEccCorr g idNone 1) ∧
    (s.par P.memoryDdrScrubHours ≠ 0 → s.ddr.scrubNext ≤ (s.pass dt).now → x.state = 2 → Takes s F.ddrEccPoison g idNone → ∃ t, exec (.ddrScrub dt [(ch, g, .poisoned)]) s = .next t ∧
      Recorded ({ s.pass dt with ddr := { s.ddr with scrubNext := n } }.setChan ch.val { x with pois := sat 32 (x.pois + 1) }) t F.ddrEccPoison g idNone 1)) ∧
  (∀ (dt : Nat) (s : State), (∃ c, c < 3 ∧ s.trained c = true) → exec (.ddrInitDone dt) s = .next { s.pass dt with ddr := { s.ddr with initDone := true } })

/-- The address map of R408 and R409 loses nothing. -/
def Obligations.AddressMapIsOneToOne : Prop :=
  (∀ (s : State) (g h : Nat), s.trainedList ≠ [] → (s.parReset P.memoryDdrMapOrder = 3 → 0 < s.chanGranules) → s.mapGranule g = s.mapGranule h → g = h) ∧
  (∀ (order width ranks a b : Nat), dramFields order width ranks a = dramFields order width ranks b → a = b)

/-- Rows FAULT_HIT, HOB_WATCHDOG, GRATE_WATCHDOG, DAMPER_WATCHDOG, LOUPE_WATCHDOG. -/
def Obligations.FaultHitsAreRegistered : Prop :=
  (∀ (dt : Nat) (src : Fin 512) (addr : BitVec 32) (master : BitVec 8) (access : BitVec 4) (s : State), (fsrc? src.val).isSome = true →
    ¬(s.faults.on = true ∧ s.faults.fer.valid = true ∧ s.faults.fer.atT = (s.pass dt).now ∧ src.val < s.faults.fer.source ∧ s.reaction src.val ≠ 0 ∧
      s.shadowed src.val addr.toNat master.toNat = false) →
    ∃ t, exec (.faultHit dt src addr master access) s = .next t ∧
      Registered (if s.faults.on then (s.pass dt).addCond src.val addr.toNat else s.pass dt) t src.val addr.toNat master.toNat access.toNat) ∧
  (∀ (dt : Nat) (src : Fin 512) (addr : BitVec 32) (master : BitVec 8) (access : BitVec 4) (s : State), (fsrc? src.val).isSome = true →
    s.faults.on = true → s.faults.fer.valid = true → s.faults.fer.atT = (s.pass dt).now → src.val < s.faults.fer.source → s.reaction src.val ≠ 0 →
    s.shadowed src.val addr.toNat master.toNat = false →
    ∃ t u, exec (.faultHit dt src addr master access) s = .next t ∧
      Registered ((s.pass dt).addCond src.val addr.toNat) u src.val addr.toNat master.toNat access.toNat ∧
      t = { u with faults := { u.faults with fer := { u.faults.fer with source := src.val, addr := addr, master := master.toNat, access := access.toNat } } }) ∧
  (∀ (dt : Nat) (src : Fin 512) (addr : BitVec 32) (master : BitVec 8) (access : BitVec 4) (s : State), (fsrc? src.val).isSome = false →
    exec (.faultHit dt src addr master access) s = .next (s.pass dt)) ∧
  (∀ (n a master access : Nat) (s t : State), Counted s t n a master access → t = s.react n a master access → s.reaction n ≠ 0 → s.faults.fer.valid = true →
    (s.faults.fer.atT = s.now → t.faults.fer = { s.faults.fer with simul := sat 16 (s.faults.fer.simul + 1) }) ∧
    (s.faults.fer.atT ≠ s.now → t.faults.fer = { s.faults.fer with merged := sat 16 (s.faults.fer.merged + 1) })) ∧
  (∀ (dt : Nat) (s : State), s.faults.on = true →
    ∃ t, exec (.hobWatchdog dt) s = .next t ∧ Registered ((s.pass dt).addCond F.hobWatchdog 0) t F.hobWatchdog 0 0x00 7) ∧
  (∀ (dt : Nat) (b : Fin 8) (s : State), s.faults.on = true →
    ∃ t, exec (.grateWatchdog dt b) s = .next t ∧
      Registered (((s.pass dt).setGrate b.val { s.grate b.val with stopped := true }).addCond F.grateWatchdog b.val) t F.grateWatchdog b.val (0x08 + b.val) 7) ∧
  (∀ (dt : Nat) (s : State), s.faults.on = true →
    ∃ t, exec (.damperWatchdog dt) s = .next t ∧ Registered ((s.pass dt).addCond F.damperWatchdog 0) t F.damperWatchdog 0 0x03 7) ∧
  (∀ (dt : Nat) (p : Fin 2) (s : State), s.faults.on = true →
    ∃ t, exec (.loupeWatchdog dt p) s = .next t ∧ Registered ((s.pass dt).addCond F.loupeWatchdog p.val) t F.loupeWatchdog p.val (0x10 + p.val) 7)

/-- Rows BLOCK_RESET_COMPLETE, SHADOW_END. -/
def Obligations.ResetsAndShadowsEnd : Prop :=
  (∀ (dt blk : Nat) (s t : State), s.inReset blk = true → blk ∉ s.faults.heldR → ¬(8 ≤ blk ∧ blk < 16) →
    t = { s.pass dt with faults := { s.faults with shadows := s.faults.shadows.map (fun h =>
      if h.block = blk ∧ h.ends = none then { h with ends := some ((s.pass dt).now + s.par P.manageFaultSettleUs * perUs) } else h) } } →
    exec (.blockResetComplete dt blk) s = .next t) ∧
  (∀ (dt b : Nat) (s t : State) (g : Grate), s.inReset (8 + b) = true → 8 + b ∉ s.faults.heldR → b < 8 → s.grate b = g →
    t = { s.pass dt with faults := { s.faults with shadows := s.faults.shadows.map (fun h =>
      if h.block = 8 + b ∧ h.ends = none then { h with ends := some ((s.pass dt).now + s.par P.manageFaultSettleUs * perUs) } else h) } } →
    (g.want = [] → exec (.blockResetComplete dt (8 + b)) s = .next (t.setGrate b { g with
      bank0 := { g.bank0 with badTone := [], badCell := [] }
      bank1 := { g.bank1 with badTone := [], badCell := [] }
      bankLate := g.bankLate && !g.loading.isEmpty })) ∧
    (g.want ≠ [] → ∃ u, exec (.blockResetComplete dt (8 + b)) s = .next u ∧ u = (t.checkBanks b).resumeLoads b ∧ u.faults.shadows = t.faults.shadows)) ∧
  (∀ (dt blk : Nat) (s : State), (s.inReset blk = false ∨ blk ∈ s.faults.heldR) → exec (.blockResetComplete dt blk) s = .next (s.pass dt)) ∧
  (∀ (dt blk : Nat) (s : State) (h : Shadow), s.faults.shadows.find? (fun h => h.block == blk && h.finished (s.pass dt).now) = some h →
    (∀ e ∈ s.faults.src, ∀ a ∈ e.2.conds, (s.pass dt).covers h e.1 a.toNat idNone = false) →
    exec (.shadowEnd dt blk) s = .next { s.pass dt with faults := { s.faults with
      shadows := s.faults.shadows.filter (fun x => !(x.block == blk && x.finished (s.pass dt).now)) } }) ∧
  (∀ (dt blk n : Nat) (a : BitVec 32) (x : Source) (s : State) (h : Shadow),
    s.faults.shadows.find? (fun h => h.block == blk && h.finished (s.pass dt).now) = some h → s.faults.src = [(n, x)] → x.conds = [a] →
    (s.pass dt).covers h n a.toNat idNone = true →
    ∃ t, exec (.shadowEnd dt blk) s = .next t ∧
      Registered { s.pass dt with faults := { s.faults with
        shadows := s.faults.shadows.filter (fun x => !(x.block == blk && x.finished (s.pass dt).now)) } } t n a.toNat idNone 0) ∧
  (∀ (dt blk : Nat) (s : State), s.faults.shadows.find? (fun h => h.block == blk && h.finished (s.pass dt).now) = none →
    exec (.shadowEnd dt blk) s = .next (s.pass dt))

/-- Rows FAULT_STATUS, FAULT_CLEAR, FAULT_REACTION, FAULT_INJECT, FSUM_CLEAR. -/
def Obligations.FaultCommandsAnswer : Prop :=
  (∀ (dt n : Nat) (w : Sess) (s : State) (c : Cmd) (l : List Nat), Holds s w c 0x0C01 (4 + 2 * n) → s.pwr.kind ≠ 2 → u8 c.pay 0 = n → n ≤ 16 → fld c.pay 1 3 = 0 →
    l = (List.range n).map (fun k => u16 c.pay (4 + 2 * k)) → (∀ x ∈ l, x < 512) →
    ∃ t, exec (.faultStatus dt w) s = .next t ∧
      Answered (s.pass dt) t w c St.ok ((List.range 16).flatMap (fun k => leB 4 (s.fsum k)) ++
        leB 4 (b2n s.faults.fer.valid * 2 ^ 31 + s.faults.fer.source) ++ leB 4 s.faults.fer.addr.toNat ++ leB 4 (s.faults.fer.master * 256 + s.faults.fer.access) ++
        leB 4 s.faults.fer.t32.toNat ++ leB 4 (s.faults.fer.cons * 65536 + s.faults.fer.merged) ++ leB 4 s.faults.fer.simul ++ leB 4 0 ++
        l.flatMap (fun x => leB 2 x ++ leB 2 (s.src x).hits))) ∧
  (∀ (dt : Nat) (w : Sess) (s : State) (c : Cmd), Holds s w c 0x0C02 64 → s.pwr.kind ≠ 2 → (∀ n, n < 512 → bit (fld c.pay 0 64) n = true → PlainSource s n) →
    ∃ t u, exec (.faultClear dt w) s = .next t ∧
      (∀ n, n < 512 ∧ bit (fld c.pay 0 64) n = true ∧ Clears s n false → u.src n = clearedSource (s.src n)) ∧
      (∀ n, ¬(n < 512 ∧ bit (fld c.pay 0 64) n = true ∧ Clears s n false) → u.src n = s.src n) ∧ Touched (s.pass dt) u ∧
      Answered u t w c St.ok (leB 64 (maskOf ((unmask 512 (fld c.pay 0 64)).filter (fun n => (u.src n).sticky))))) ∧
  (∀ (dt n : Nat) (w : Sess) (s : State) (c : Cmd), Holds s w c 0x0C02 64 → s.pwr.kind ≠ 2 → n < 512 → fld c.pay 0 64 = 2 ^ n → Clears s n false → isFbStop n = false →
    (n = F.encWire → Calm s F.encLost) →
    ∃ t u, exec (.faultClear dt w) s = .next t ∧
      Answered u t w c St.ok (leB 64 (maskOf ([n].filter (fun n => (u.src n).sticky)))) ∧
      (n ∉ [F.encLost, F.encWire] → u.src n = clearedSource (s.src n)) ∧
      (∀ i, i ≤ 1 → (s.src n).unit = some i → s.fb.st i = 5 → u.fb.st i = 3 ∧ u.fb.syncLeft = s.par P.fireFbResyncLines) ∧
      (n = F.faultResetLimit → u.faults.heldR = [] ∧ ∀ h ∈ u.faults.shadows, h.block ∈ s.faults.heldR → h.ends ≠ none) ∧
      (n = F.encWire → ∀ e x, (e, x) ∈ s.motion.enc → x.wires = [] → ∃ y, (e, y) ∈ u.motion.enc ∧ y.failed = false ∧ (x.failed = true → y.dir = 0 ∧ y.ref = none)) ∧
      (n = F.vcorePmbus → u.draught.stopped = false ∧ u.draught.waiting = false) ∧ (n = F.tclkUnlock → s.clk.run = true → u.fire.unlock = false)) ∧
  (∀ (dt n : Nat) (w : Sess) (s : State) (c : Cmd), Holds s w c 0x0C02 64 → s.pwr.kind ≠ 2 → n < 512 → fld c.pay 0 64 = 2 ^ n → Clears s n false → isFbStop n = true →
    s.fb.halted = true → SMapWf s.faults.src → (∀ e ∈ s.faults.src, e.1 ≠ n → isFbStop e.1 = true → e.2.hold = false) →
    ∃ t u, exec (.faultClear dt w) s = .next t ∧ Answered u t w c St.ok (leB 64 (maskOf ([n].filter (fun n => (u.src n).sticky)))) ∧
      u.fb.stA = 0 ∧ u.fb.stB = 2 ∧ u.fb.active = 0 ∧ u.fb.halted = false ∧ u.fb.lockLeft = s.par P.fireFbResyncLines ∧ (u.src n).hold = false) ∧
  (∀ (dt n : Nat) (w : Sess) (s : State) (c : Cmd), Holds s w c 0x0C04 (4 + 4 * n) → s.pwr.kind ≠ 2 → u8 c.pay 0 = 0 → u8 c.pay 1 = n → 1 ≤ n → n ≤ 56 →
    u16 c.pay 2 = 0 → (∀ k, k < n → u16 c.pay (4 + 4 * k) < 512 ∧ u8 c.pay (6 + 4 * k) = 0 ∧ u8 c.pay (7 + 4 * k) = 0) →
    ∃ t, exec (.faultReaction dt w) s = .next t ∧
      Answered (s.pass dt) t w c St.ok (leB 1 0 ++ leB 1 n ++ leB 2 0 ++
        (List.range n).flatMap (fun k => leB 2 (u16 c.pay (4 + 4 * k)) ++ leB 1 (s.reaction (u16 c.pay (4 + 4 * k))) ++ leB 1 0))) ∧
  (∀ (dt n r : Nat) (w : Sess) (s : State) (c : Cmd), Holds s w c 0x0C04 8 → s.pwr.kind ≠ 2 → u8 c.pay 0 = 1 → u8 c.pay 1 = 1 → u16 c.pay 2 = 0 →
    u16 c.pay 4 = n → n < 512 → u8 c.pay 6 = r → u8 c.pay 7 = 0 → reactionOk n r = true → s.reactionDenied n r = false →
    ∃ t u, exec (.faultReaction dt w) s = .next t ∧ u = { s.pass dt with params := { s.params with acc := u.params.acc } } ∧ u.reaction n = r ∧
      Answered u t w c St.ok (leB 1 1 ++ leB 1 1 ++ leB 2 0 ++ (leB 2 n ++ leB 1 r ++ leB 1 0))) ∧
  (∀ (dt n : Nat) (w : Sess) (s : State) (c : Cmd), Holds s w c 0x0C04 (4 + 4 * n) → s.pwr.kind ≠ 2 → u8 c.pay 0 = 1 → u8 c.pay 1 = n → 1 ≤ n → n ≤ 56 →
    u16 c.pay 2 = 0 → (∃ k, k < n ∧ ¬(u16 c.pay (4 + 4 * k) < 512 ∧ u8 c.pay (7 + 4 * k) = 0 ∧ reactionOk (u16 c.pay (4 + 4 * k)) (u8 c.pay (6 + 4 * k)) = true)) →
    ∃ t, exec (.faultReaction dt w) s = .next t ∧ Answered (s.pass dt) t w c St.badParam []) ∧
  (∀ (dt n : Nat) (w : Sess) (s : State) (c : Cmd), Holds s w c 0x0C05 8 → s.pwr.kind ≠ 2 → u16 c.pay 0 = n → (fsrc? n).isSome = true → u16 c.pay 2 = 0 →
    s.injectDenied = false →
    ∃ t u, exec (.faultInject dt w) s = .next t ∧ Registered ((s.pass dt).taken w) u n (u32 c.pay 4) (match w with | .loc _ => 0x20 | .rem _ => 0x21) 0 ∧
      Answered u t w c St.ok []) ∧
  (∀ (dt : Nat) (k : Fin 16) (mask same : BitVec 32) (s : State), s.windowOpen = true →
    (∀ j, j < 32 → mask.getLsbD j = true → PlainSource s (32 * k.val + j)) →
    ∃ t, exec (.fsumClear dt k mask same) s = .next t ∧
      (∀ j, j < 32 ∧ mask.getLsbD j = true ∧ Clears s (32 * k.val + j) (same.getLsbD j) → t.src (32 * k.val + j) = clearedSource (s.src (32 * k.val + j))) ∧
      (∀ n, (∀ j, n = 32 * k.val + j → ¬(j < 32 ∧ mask.getLsbD j = true ∧ Clears s n (same.getLsbD j))) → t.src n = s.src n) ∧ Touched (s.pass dt) t) ∧
  (∀ (dt : Nat) (k : Fin 16) (mask same : BitVec 32) (s : State), s.windowOpen = false → exec (.fsumClear dt k mask same) s = .next (s.pass dt))

/-- Rows FER_REARM, FAULT_REARM, and FAULT_HIT with no time between (R462). -/
def Obligations.RearmFreesTheRecord : Prop :=
  (∀ (dt : Nat) (value : BitVec 32) (s : State), s.windowOpen = true → value.getLsbD 0 = true →
    exec (.ferRearm dt value) s = .next { s.pass dt with
      faults := { s.faults with fer := { s.faults.fer with valid := false, cons := 0, merged := 0, simul := 0 } } }) ∧
  (∀ (dt : Nat) (w : Sess) (s : State) (c : Cmd), Holds s w c 0x0C03 0 → s.pwr.kind ≠ 2 →
    ∃ t, exec (.faultRearm dt w) s = .next t ∧
      Answered { s.pass dt with faults := { s.faults with fer := { s.faults.fer with valid := false, cons := 0, merged := 0, simul := 0 } } } t w c St.ok []) ∧
  (∀ (dt : Nat) (value : BitVec 32) (src : Fin 512) (addr : BitVec 32) (master : BitVec 8) (access : BitVec 4) (s u : State),
    s.windowOpen = true → value.getLsbD 0 = true → exec (.ferRearm dt value) s = .next u →
    (fsrc? src.val).isSome = true → s.faults.on = true → s.reaction src.val ≠ 0 → Calm s src.val → u.shadowed src.val addr.toNat master.toNat = false →
    ∃ t, exec (.faultHit 0 src addr master access) u = .next t ∧
      t.faults.fer = { valid := true, source := src.val, addr := addr, master := master.toNat, access := access.toNat, t32 := (u.pass 0).t32, atT := (u.pass 0).now })

/-- Rows LOG_READ, LOG_STATUS, LOG_NOTE, LOG_FLUSH (R477, R478, R483, R498, R533; log 24). -/
def Obligations.LogCommandsAnswer : Prop :=
  (∀ (dt first most next : Nat) (w : Sess) (s : State) (c : Cmd) (ring l : List LogEntry), Holds s w c 0x0D01 8 → s.pwr.kind ≠ 2 → u32 c.pay 0 = first → u8 c.pay 4 ≤ 1 →
    u8 c.pay 5 = most → 1 ≤ most → most ≤ 7 → u16 c.pay 6 = 0 → ring = (if u8 c.pay 4 = 0 then s.mgmt.log else s.flash.log) →
    l = (ring.reverse.filter (fun e => le32 first e.seq.toNat)).take most → (∀ e, l.getLast? = some e → next = (e.seq + 1).toNat) → (l = [] → next = first) →
    ∃ t, exec (.logRead dt w) s = .next t ∧ Answered (s.pass dt) t w c St.ok (leB 1 l.length ++ leB 3 0 ++ leB 4 next ++ l.flatMap LogEntry.bytes)) ∧
  (∀ (dt r0 f0 f1 : Nat) (w : Sess) (s : State) (c : Cmd), Holds s w c 0x0D02 0 → s.pwr.kind ≠ 2 →
    (∀ e, s.mgmt.log.getLast? = some e → r0 = e.seq.toNat) → (s.mgmt.log = [] → r0 = s.mgmt.nextSeq.toNat) →
    (∀ e, s.flash.log.getLast? = some e → f0 = e.seq.toNat) → (∀ e, s.flash.log.head? = some e → f1 = (e.seq + 1).toNat) →
    (s.flash.log = [] → f0 = (s.mgmt.nextSeq - BitVec.ofNat 32 s.mgmt.uncop).toNat ∧ f1 = f0) →
    ∃ t, exec (.logStatus dt w) s = .next t ∧
      Answered (s.pass dt) t w c St.ok (leB 4 r0 ++ leB 4 s.mgmt.nextSeq.toNat ++ leB 4 f0 ++ leB 4 f1 ++ leB 4 s.mgmt.lostAll)) ∧
  (∀ (dt : Nat) (w : Sess) (s : State) (c : Cmd), Holds s w c 0x0D03 8 → s.pwr.kind ≠ 2 →
    ∃ u t, Noted (s.pass dt) u 7 (Sess.initiator w) (some (BitVec.ofNat 32 (u32 c.pay 0))) (some (BitVec.ofNat 32 (u32 c.pay 4))) ∧
      exec (.logNote dt w) s = .next t ∧ Answered u t w c St.ok (leB 4 s.mgmt.nextSeq.toNat)) ∧
  (∀ (dt : Nat) (s : State),
    (s.mgmt.upd.erasing = true ∨ s.mgmt.uncop = 0 → ∀ ok, exec (.logFlush dt ok) s = .next (s.pass dt)) ∧
    (s.mgmt.upd.erasing = false → s.mgmt.uncop ≠ 0 → Takes s F.logFlash 0 idStoker →
      ∃ t, exec (.logFlush dt false) s = .next t ∧ Recorded (s.pass dt) t F.logFlash 0 idStoker 2 ∧ t.flash = s.flash) ∧
    (s.mgmt.upd.erasing = false → s.mgmt.uncop ≠ 0 → ∃ t lost, exec (.logFlush dt true) s = .next t ∧
      (s.mgmt.lostNow = 0 → lost = []) ∧
      (s.mgmt.lostNow ≠ 0 → ∃ e, lost = [e] ∧ e.kind = 8 ∧ e.count = sat 16 s.mgmt.lostNow ∧ e.source = 0xFFFF ∧ e.epoch = s.host.epoch) ∧
      t = { s.pass dt with
        flash := { s.flash with log := (s.mgmt.log.take s.mgmt.uncop ++ lost ++ s.flash.log).take 522240 }
        mgmt := { s.mgmt with uncop := 0, lostNow := 0 }
        free := t.free }))

/-- Rows UPDATE_BEGIN, UPDATE_ERASE_DONE, UPDATE_WRITE, UPDATE_WRITE_COMPLETE, UPDATE_COMMIT, UPDATE_VERIFY_DONE (R480, R481, R483, R485, R534). Rows UPDATE_ACTIVATE, UPDATE_ABORT, UPDATE_STATUS (R482, R483, R498, R534). -/
def Obligations.UpdatesFillAnImage : Prop :=
  (∀ (dt k n : Nat) (w : Sess) (s : State) (c : Cmd), Holds s w c 0x0E01 8 → HasRoom s w → s.otp.lc ≠ 4 → u8 c.pay 0 = k → k ≤ 1 → fld c.pay 1 3 = 0 → u32 c.pay 4 = n →
    128 ≤ n → n ≤ 7864320 →
    ((s.flash.img k).running = true → ∃ t, exec (.updateBegin dt w) s = .next t ∧ Answered (s.pass dt) t w c St.denied []) ∧
    ((s.flash.img k).running = false → s.mgmt.upd.state = 1 → ∃ t, exec (.updateBegin dt w) s = .next t ∧ Answered (s.pass dt) t w c St.busy []) ∧
    ((s.flash.img k).running = false → s.mgmt.upd.state ≠ 1 → ∃ t, exec (.updateBegin dt w) s = .next t ∧
      Waiting { s.pass dt with
        mgmt := { s.mgmt with upd := { state := 1, img := k, len := n, who := some w, erasing := true } }
        flash := s.flash.setImg k { bytes := [], len := n, verified := 2 } } t w c k [] [])) ∧
  (∀ (dt k : Nat) (w : Sess) (seq : BitVec 32) (s : State) (p : Pend), s.pend? w seq = some p → p.cmd.op = 0x0E01 → (∃ q, (s.ses w).cq = some q) → s.mgmt.upd.img = k →
    ∃ t, exec (.updateEraseDone dt w seq) s = .next t ∧
      Posted { s.pass dt with
        mgmt := { s.mgmt with upd := { s.mgmt.upd with erasing := false } }
        flash := s.flash.setImg k { s.flash.img k with verified := 0 } } t p St.ok p.obj.toNat 0 idStoker) ∧
  (∀ (dt k n : Nat) (w : Sess) (s : State) (c : Cmd), Holds s w c 0x0E02 (8 + n) → s.otp.lc ≠ 4 → u16 c.pay 4 = n → 1 ≤ n → n ≤ 224 → u16 c.pay 6 = 0 →
    s.mgmt.upd.state = 1 → s.mgmt.upd.img = k →
    (u32 c.pay 0 + n ≤ s.mgmt.upd.len → ∃ t, exec (.updateWrite dt w) s = .next t ∧
      Answered { s.pass dt with flash := s.flash.setImg k { s.flash.img k with
        bytes := memWriteN (s.flash.img k).bytes (u32 c.pay 0) (slice c.pay 8 n), verified := 2 } } t w c St.ok []) ∧
    (s.mgmt.upd.len < u32 c.pay 0 + n → ∃ t, exec (.updateWrite dt w) s = .next t ∧ Answered (s.pass dt) t w c St.badParam [])) ∧
  (∀ (dt : Nat) (w : Sess) (s : State) (c : Cmd) (l : List DmaDesc) (a : Bytes), HoldsDma s w c 0x0E02 16 l a → HasRoom s w → s.otp.lc ≠ 4 → s.pwr.kind ≠ 2 →
    fld a 4 12 = 0 → s.mgmt.upd.state = 1 → ((chainOf l).isNone → u32 a 0 + total l ≤ s.mgmt.upd.len) →
    ∃ t, exec (.updateWrite dt w) s = .next t ∧ Waiting (s.pass dt) t w c s.mgmt.upd.img [] []) ∧
  (∀ (dt k off : Nat) (chain : List Bytes) (data b : Bytes) (w : Sess) (seq : BitVec 32) (s : State) (p : Pend), s.pend? w seq = some p → p.cmd.op = 0x0E02 →
    (∃ q, (s.ses w).cq = some q) → u32 p.cmd.arg 0 = off → p.dataIn chain data = some b → s.mgmt.upd.img = k →
    (s.mgmt.upd.state = 1 → off + b.length ≤ s.mgmt.upd.len → ∃ t, exec (.updateWriteComplete dt w seq chain data) s = .next t ∧
      Posted { s.pass dt with flash := s.flash.setImg k { s.flash.img k with
        bytes := memWriteN (s.flash.img k).bytes off b, verified := 2 } } t p St.ok p.obj.toNat b.length idStoker) ∧
    (s.mgmt.upd.state ≠ 1 ∨ s.mgmt.upd.len < off + b.length → ∃ t, exec (.updateWriteComplete dt w seq chain data) s = .next t ∧
      Posted (s.pass dt) t p St.badParam p.obj.toNat 0 idStoker)) ∧
  (∀ (dt : Nat) (w : Sess) (s : State) (c : Cmd), Holds s w c 0x0E03 0 → HasRoom s w → s.otp.lc ≠ 4 →
    (s.mgmt.upd.state = 1 → ∃ t, exec (.updateCommit dt w) s = .next t ∧ Waiting (s.pass dt) t w c s.mgmt.upd.img [] []) ∧
    (s.mgmt.upd.state ≠ 1 → ∃ t, exec (.updateCommit dt w) s = .next t ∧ Answered (s.pass dt) t w c St.state [])) ∧
  (∀ (dt k : Nat) (sigOk hashOk : Bool) (w : Sess) (seq : BitVec 32) (s : State) (p : Pend) (i : Image), s.pend? w seq = some p → p.cmd.op = 0x0E03 →
    (∃ q, (s.ses w).cq = some q) → s.mgmt.upd.img = k → s.flash.img k = i →
    (s.headerVerifies i = true → sigOk = true → hashOk = true → ∃ t, exec (.updateVerifyDone dt w seq sigOk hashOk) s = .next t ∧
      Posted { s.pass dt with
        mgmt := { s.mgmt with upd := { s.mgmt.upd with state := 2, who := none } }
        flash := s.flash.setImg k { i with verified := 1 } } t p St.ok p.obj.toNat (i.version + i.secver * 2 ^ 32) idStoker) ∧
    (s.headerVerifies i = false ∨ sigOk = false ∨ hashOk = false → Takes s F.updateVerify 0 idStoker →
      ∃ u t, exec (.updateVerifyDone dt w seq sigOk hashOk) s = .next t ∧
        Recorded { s.pass dt with
          mgmt := { s.mgmt with upd := { s.mgmt.upd with state := 3, who := none } }
          flash := s.flash.setImg k { i with verified := 2 } } u F.updateVerify 0 idStoker 1 ∧
        Posted u t p St.denied p.obj.toNat 0 idStoker)) ∧
  (∀ (s : State) (i : Image), s.headerVerifies i = true ↔
    leN (memReadN i.bytes 0 4) = 0x46574741 ∧ leN (memReadN i.bytes 4 2) = 1 ∧ leN (memReadN i.bytes 6 2) < 4 ∧
      s.otp.revoked.getLsbD (leN (memReadN i.bytes 6 2)) = false ∧ 128 + leN (memReadN i.bytes 0x10 4) ≤ 7864320 ∧
      s.otp.rollback ≤ leN (memReadN i.bytes 0x0C 2)) ∧
  (∀ (dt k : Nat) (now : Bool) (w : Sess) (s : State) (c : Cmd), Holds s w c 0x0E04 4 → s.otp.lc ≠ 4 → u8 c.pay 0 = k → k ≤ 1 → fld c.pay 1 3 = 0 →
    ((s.flash.img k).running = false → ((s.flash.img k).verified = 1 ∨ now = true) → s.headerVerifies (s.flash.img k) = true →
      ∃ t f, exec (.updateActivate dt w now) s = .next t ∧ DirWritten s.flash f { s.flash.dirNow with preferred := k, mode := 1, tries := 3 } ∧
        Answered { s.pass dt with flash := f } t w c St.ok []) ∧
    ((s.flash.img k).running = true ∨ ((s.flash.img k).verified ≠ 1 ∧ now = false) ∨ s.headerVerifies (s.flash.img k) = false →
      ∃ t, exec (.updateActivate dt w now) s = .next t ∧ Answered (s.pass dt) t w c St.state [])) ∧
  (∀ (dt k : Nat) (w : Sess) (s : State) (c : Cmd), Holds s w c 0x0E06 0 → s.otp.lc ≠ 4 → s.mgmt.upd.img = k →
    (s.mgmt.upd.state = 1 → ∃ t, exec (.updateAbort dt w) s = .next t ∧
      Answered { s.pass dt with
        mgmt := { s.mgmt with upd := { s.mgmt.upd with state := 3, who := none, erasing := false } }
        flash := s.flash.setImg k { s.flash.img k with verified := 2 } } t w c St.ok []) ∧
    (s.mgmt.upd.state ≠ 1 → ∃ t, exec (.updateAbort dt w) s = .next t ∧ Answered (s.pass dt) t w c St.ok [])) ∧
  (∀ (dt k : Nat) (w : Sess) (s : State) (c : Cmd) (d : BootDir) (img : Image → Bytes), Holds s w c 0x0E07 0 → s.otp.lc ≠ 4 → d = s.flash.dirNow →
    (∀ i, s.running = some i → k = i.1) → (s.running = none → k = 0) →
    img = (fun i => leB 4 (leN (memReadN i.bytes 8 4)) ++ leB 2 (leN (memReadN i.bytes 0x0C 2)) ++ leB 1 i.verified ++ leB 1 0) →
    ∃ t, exec (.updateStatus dt w) s = .next t ∧ Answered (s.pass dt) t w c St.ok
      (leB 4 d.gen ++ leB 1 d.preferred ++ leB 1 d.mode ++ leB 1 d.tries ++ leB 1 (b2n d.fallback) ++ beB 4 d.ip.toNat ++
        leB 1 s.otp.rollback ++ leB 1 k ++ leB 1 s.mgmt.upd.state ++ leB 1 0 ++ img s.flash.imgA ++ img s.flash.imgB))

/-- Row UPDATE_CONFIRM (R484). -/
def Obligations.UpdateConfirmRaisesTheCounter : Prop :=
  ∀ (dt k v : Nat) (w : Sess) (s : State) (c : Cmd) (i : Image) (d : BootDir), Holds s w c 0x0E05 0 → s.otp.lc ≠ 4 → s.running = some (k, i) → s.flash.dirNow = d →
    leN (memReadN i.bytes 0x0C 2) = v →
    (d.mode = 1 → d.preferred = k → ∃ t f, exec (.updateConfirm dt w) s = .next t ∧ DirWritten s.flash f { d with mode := 0 } ∧
      Answered { s.pass dt with flash := f, otp := { s.otp with rollback := max s.otp.rollback v } } t w c St.ok (leB 1 (max s.otp.rollback v) ++ leB 3 0)) ∧
    (d.mode ≠ 1 ∨ d.preferred ≠ k → s.otp.rollback < v → ∃ t, exec (.updateConfirm dt w) s = .next t ∧
      Answered { s.pass dt with otp := { s.otp with rollback := v } } t w c St.ok (leB 1 v ++ leB 3 0)) ∧
    (d.mode ≠ 1 ∨ d.preferred ≠ k → v ≤ s.otp.rollback → ∃ t, exec (.updateConfirm dt w) s = .next t ∧ Answered (s.pass dt) t w c St.state []) ∧
    (∀ j, s.headerVerifies j = true → s.otp.rollback ≤ leN (memReadN j.bytes 0x0C 2))

/-- Rows SECURE_STATUS, SECURE_CHALLENGE, SECURE_UNLOCK, SECURE_LOCK, SECURE_LIFECYCLE, SECURE_KEY_INSTALL (R439, R485 to R488, R494, R498, R534). -/
def Obligations.UnlockAndLifeCycle : Prop :=
  (∀ (dt : Nat) (w : Sess) (s : State) (c : Cmd), Holds s w c 0x0F01 0 → s.pwr.kind ≠ 2 →
    ∃ t, exec (.secureStatus dt w) s = .next t ∧ Answered (s.pass dt) t w c St.ok
      (leB 1 s.otp.lc ++ leB 1 (b2n s.vbat.tampered) ++ leB 1 s.vbat.tInput ++ leB 1 s.sec.scope ++ leB 6 s.vbat.tSec ++
        leB 2 (maskOf (s.flash.keys.map Prod.fst)) ++ leB 6 s.sec.expiry ++ leB 2 0)) ∧
  (∀ (dt : Nat) (w : Sess) (s : State) (c : Cmd), Holds s w c 0x0F02 0 → s.pwr.kind ≠ 2 →
    ∃ t n, exec (.secureChallenge dt w) s = .next t ∧
      Answered { s.pass dt with sec := { s.sec with nonce := some (n, s.now + dt + 60 * perSecond) }, free := s.free + 1 } t w c St.ok (leB 16 n.toNat)) ∧
  (∀ (dt : Nat) (w : Sess) (sigOk : Bool) (s : State) (c : Cmd) (n : BitVec 128) (ends : Nat), Holds s w c 0x0F03 96 → s.pwr.kind ≠ 2 → u8 c.pay 0x1E < 32 →
    s.sec.nonce = some (n, ends) → s.now + dt < ends → fld c.pay 8 16 = n.toNat →
    (u32 c.pay 0 = s.otp.serial.toNat / 2 ^ 32 → u32 c.pay 4 = s.otp.serial.toNat % 2 ^ 32 → (s.pass dt).devSec < fld c.pay 0x18 6 → u8 c.pay 0x1F < 4 →
      s.otp.revoked.getLsbD (u8 c.pay 0x1F) = false → sigOk = true → s.otp.lc ≠ 4 →
      ∃ t, exec (.secureUnlock dt w sigOk) s = .next t ∧
        Answered { unlockEnded (s.pass dt) with sec := { s.sec with nonce := none, scope := u8 c.pay 0x1E, expiry := fld c.pay 0x18 6 } } t w c St.ok
          (leB 1 (u8 c.pay 0x1E) ++ leB 3 0)) ∧
    ((u32 c.pay 0 ≠ s.otp.serial.toNat / 2 ^ 32 ∨ u32 c.pay 4 ≠ s.otp.serial.toNat % 2 ^ 32 ∨ fld c.pay 0x18 6 ≤ (s.pass dt).devSec ∨ 4 ≤ u8 c.pay 0x1F ∨
        s.otp.revoked.getLsbD (u8 c.pay 0x1F) = true ∨ sigOk = false ∨ s.otp.lc = 4) → Takes s F.unlockFail 0 idFender →
      ∃ u t, exec (.secureUnlock dt w sigOk) s = .next t ∧ Recorded { s.pass dt with sec := { s.sec with nonce := none } } u F.unlockFail 0 idFender 0 ∧
        Answered u t w c St.denied [])) ∧
  (∀ (dt : Nat) (w : Sess) (sigOk : Bool) (s : State) (c : Cmd), Holds s w c 0x0F03 96 → s.pwr.kind ≠ 2 → u8 c.pay 0x1E < 32 →
    (∀ n ends, s.sec.nonce = some (n, ends) → ends ≤ s.now + dt ∨ fld c.pay 8 16 ≠ n.toNat) → Takes s F.unlockFail 0 idFender →
    ∃ u t, exec (.secureUnlock dt w sigOk) s = .next t ∧ Recorded (s.pass dt) u F.unlockFail 0 idFender 0 ∧ Answered u t w c St.denied []) ∧
  (∀ (dt : Nat) (w : Sess) (s : State) (c : Cmd), Holds s w c 0x0F04 0 → s.pwr.kind ≠ 2 →
    (s.sec.scope = 0 → ∃ t, exec (.secureLock dt w) s = .next t ∧ Answered (s.pass dt) t w c St.ok []) ∧
    (s.sec.scope ≠ 0 → ∃ u t, Noted (unlockEnded (s.pass dt)) u 6 (Sess.initiator w) none none ∧ exec (.secureLock dt w) s = .next t ∧ Answered u t w c St.ok [])) ∧
  (∀ (dt lc : Nat) (w : Sess) (s : State) (c : Cmd), Holds s w c 0x0F05 8 → s.pwr.kind ≠ 2 → u8 c.pay 0 = lc → 1 ≤ lc → lc ≤ 4 → fld c.pay 1 3 = 0 → s.otp.lc ≤ 4 →
    (((lc = s.otp.lc + 1 ∧ lc ≤ 2 ∨ lc = 4 ∧ s.otp.lc ≠ 4) ∧ u32 c.pay 4 = s.otp.serial.toNat % 2 ^ 32 ∨ lc = 3 ∧ s.otp.lc = 2 ∧ s.sec.scope.testBit 3 = true) →
      ∃ u v, Noted (wipeStarted (s.pass dt)) u 4 (Sess.initiator w) none none ∧
        v = { unlockEnded u with flash := if 3 ≤ lc then { s.flash with keys := [] } else s.flash } ∧
        (∃ t, exec (.secureLifecycle dt w none) s = .next t ∧
          Answered { v with otp := { s.otp with lc := lc }, vbat := { (s.pass dt).vbat with lcMirror := lc } } t w c St.ok (leB 1 lc ++ leB 3 0)) ∧
        (∀ part, ∃ t, exec (.secureLifecycle dt w (some part)) s = .next t ∧
          Answered { v with otp := { s.otp with lcPart := part } } t w c St.ok (leB 1 s.otp.lc ++ leB 3 0))) ∧
    (¬((lc = s.otp.lc + 1 ∧ lc ≤ 2 ∨ lc = 4 ∧ s.otp.lc ≠ 4) ∧ u32 c.pay 4 = s.otp.serial.toNat % 2 ^ 32 ∨ lc = 3 ∧ s.otp.lc = 2 ∧ s.sec.scope.testBit 3 = true) →
      ∀ cut, ∃ t, exec (.secureLifecycle dt w cut) s = .next t ∧ Answered (s.pass dt) t w c St.denied [])) ∧
  (∀ (dt k : Nat) (kek : Bytes) (w : Sess) (s : State) (c : Cmd), Holds s w c 0x0F06 64 → s.pwr.kind ≠ 2 → u8 c.pay 0 = k → k < 16 → fld c.pay 1 3 = 0 →
    s.otp.lc = 1 ∨ s.otp.lc = 2 → s.vbat.tampered = false →
    (∃ t, exec (.secureKeyInstall dt w true kek) s = .next t ∧
      Answered { s.pass dt with flash := { s.flash with keys := put s.flash.keys k (padTo 32 kek) } } t w c St.ok []) ∧
    (Takes s F.keyUnwrap 0 idFender → ∃ u t, exec (.secureKeyInstall dt w false kek) s = .next t ∧ Recorded (s.pass dt) u F.keyUnwrap 0 idFender 0 ∧
      Answered u t w c St.denied []))

/-- Row SECURE_TAMPER_CLEAR, and the rows SECURE_KEY_INSTALL and STAGE_COMPLETE while TAMPERED (R493). -/
def Obligations.TamperedUnwrapsNoKey : Prop :=
  (∀ (dt : Nat) (tagOk : Bool) (kek : Bytes) (w : Sess) (s : State) (c : Cmd), s.vbat.tampered = true → Holds s w c 0x0F06 64 → s.pwr.kind ≠ 2 → u8 c.pay 0 < 16 →
    fld c.pay 1 3 = 0 → ∃ t, exec (.secureKeyInstall dt w tagOk kek) s = .next t ∧ Answered (s.pass dt) t w c St.denied []) ∧
  (∀ (dt i : Nat) (keyOk : Bool) (plain : List (Nat × Option Bytes)) (w : Sess) (seq : BitVec 32) (s : State) (p : Pend), s.vbat.tampered = true →
    s.pend? w seq = some p → p.cmd.op = 0x0204 → (∃ q, (s.ses w).cq = some q) → p.obj.toNat = i → (s.job i).encrypted = true →
    ∃ t, exec (.stageComplete dt w seq keyOk plain) s = .next t ∧
      Posted ((s.pass dt).setJob i { s.job i with state := 2, staged := [], stageBytes := 0 }) t p St.denied i 0 idFender) ∧
  (∀ (dt : Nat) (w : Sess) (s : State) (c : Cmd), Holds s w c 0x0F07 0 → s.pwr.kind ≠ 2 →
    (s.otp.lc ≤ 1 ∨ s.otp.lc = 2 ∧ s.sec.scope.testBit 4 = true → ∃ u t, (if s.vbat.tampered then Noted (s.pass dt) u 5 (Sess.initiator w) none none else u = s.pass dt) ∧
      exec (.secureTamperClear dt w) s = .next t ∧
      Answered { u with vbat := { (s.pass dt).vbat with tampered := false, tInput := 0, tSec := 0 } } t w c St.ok []) ∧
    (s.otp.lc = 2 ∧ s.sec.scope.testBit 4 = false ∨ s.otp.lc = 3 ∨ s.otp.lc = 4 →
      ∃ t, exec (.secureTamperClear dt w) s = .next t ∧ Answered (s.pass dt) t w c St.denied []))

/-- Rows TAMPER_TRIP, UNLOCK_EXPIRY, SECURE_WIPE_DONE, TAP_INSTRUCTION (R439, R488, R490 to R492, R515). -/
def Obligations.TampersExpiryAndScan : Prop :=
  (∀ (dt held : Nat) (level : Bool) (i : Fin 5) (s : State) (v : Vbat),
    v = { (s.pass dt).vbat with tampered := true, tInput := i.val, tSec := (s.pass dt).vbat.sec } →
    (s.tamperOn i.val = false ∨ s.vbat.valid = false ∨ s.tamperTrips i.val level held = false → exec (.tamperTrip dt i level held) s = .next (s.pass dt)) ∧
    (s.tamperOn i.val = true → s.vbat.valid = true → s.tamperTrips i.val level held = true → s.pwr.rails = false → exec (.tamperTrip dt i level held) s = .next { s.pass dt with vbat := { v with banked := true } }) ∧
    (s.tamperOn i.val = true → s.vbat.valid = true → s.tamperTrips i.val level held = true → s.pwr.rails = true → (s.pwr.kind = 0 ∧ s.pwr.stage < 7 ∨ 2 ≤ s.pwr.kind) →
      exec (.tamperTrip dt i level held) s = .next { s.pass dt with vbat := { v with tripKind := true } }) ∧
    (s.tamperOn i.val = true → s.vbat.valid = true → s.tamperTrips i.val level held = true → s.pwr.rails = true → (s.pwr.kind = 1 ∨ s.pwr.kind = 0 ∧ 7 ≤ s.pwr.stage) → Takes s F.tamper i.val idFender →
      (∀ p ∈ s.host.pends, p.cmd.op ≠ 0x0204) →
      ∃ t u x, exec (.tamperTrip dt i level held) s = .next t ∧
        Recorded (unlockEnded (wipeStarted { s.pass dt with vbat := v })) u F.tamper i.val idFender 0 ∧ Noted u x 5 idFender none none ∧
        (∀ e, t.job e = (if (s.job e).state = 4 ∧ (s.job e).encrypted = true then { s.job e with state := 2, staged := [], stageBytes := 0 } else s.job e)) ∧
        t = { x with lib := { s.lib with dir := t.lib.dir } })) ∧
  (∀ (dt : Nat) (s : State),
    ((s.pass dt).devSec < s.sec.expiry ∨ s.sec.scope = 0 → exec (.unlockExpiry dt) s = .next (s.pass dt)) ∧
    (s.sec.expiry ≤ (s.pass dt).devSec → s.sec.scope ≠ 0 → ∃ t, exec (.unlockExpiry dt) s = .next t ∧ Noted (unlockEnded (s.pass dt)) t 6 idFender none none)) ∧
  (∀ (dt : Nat) (s : State), exec (.secureWipeDone dt) s = .next { s.pass dt with chip := { s.chip with wiping := false } }) ∧
  (∀ (dt : Nat) (s : State),
    (∀ ir, ir ∈ [TapInstr.bypass, .samplePreload, .extest, .highz, .clamp] → exec (.tapInstruction dt ir) s = .next { s.pass dt with sec := { s.sec with tap := ir } }) ∧
    (exec (.tapInstruction dt .idcode) s = .next { s.pass dt with
      sec := { s.sec with tap := .idcode }
      out := .idcode (BitVec.ofNat 32 (1 * 2 ^ 28 + 0x2808 * 2 ^ 12 + s.otp.mfr.toNat * 2 + 1)) :: s.out }) ∧
    (∀ code, exec (.tapInstruction dt (.priv code)) s = .next { s.pass dt with
      sec := { s.sec with tap := if s.otp.lc ≤ 1 ∨ s.sec.scope.testBit 2 = true then .priv code else .bypass } }))

/-- Rows PORST_N_RISE, PORST_N_FALL, POWER_RAILS_DOWN, POWER_RAILS_UP, VBAT_RETENTION_LOSS, TCLK_UNLOCK, TCLK_LOCK_RETURN (R24, R324, R501 to R504, R513, R514). -/
def Obligations.PowerAndClockEvents : Prop :=
  (∀ (dt l : Nat) (s : State), s.pwr.porst = false → s.pwr.rails = true → l ≤ 2 * perMs →
    ∃ t, exec (.porstNRise dt (some l)) s = .next t ∧ t.pwr.porst = true ∧ t.pwr.stage = 3 ∧ t.pwr.kind = s.pwr.kind ∧
      t.clk.run = true ∧ t.clk.tclk = 0 ∧ t.t32 = 0 ∧ t.devNs = ((s.pass dt).pass l).vbat.sec * 1000000000 ∧ t.clk.rho = 0 ∧
      t.now = s.now + dt + l ∧ t.faults.on = true ∧
      t = { s with clk := t.clk, vbat := t.vbat, pwr := t.pwr, faults := { s.faults with on := true } }) ∧
  (∀ (dt : Nat) (s : State), s.pwr.porst = false → s.pwr.rails = true →
    ∃ t, exec (.porstNRise dt none) s = .next t ∧ t.pwr.err = 0x20 ∧ t.pwr.kind = 3 ∧ t.pwr.crs = false ∧ t.pwr.stage = s.pwr.stage ∧
      t = { s with clk := t.clk, vbat := t.vbat, pwr := t.pwr }) ∧
  (∀ (dt : Nat) (s : State), s.pwr.porst = true →
    ∃ t, exec (.porstNFall dt) s = .next t ∧
      t = { State.reset with
        pending := s.pending, clk := { real := s.now + dt }, pwr := { rails := s.pwr.rails }, otp := s.otp, vbat := (s.pass dt).vbat, out := t.out,
        free := s.free,
        flash := { s.flash with imgA := { s.flash.imgA with running := false }, imgB := { s.flash.imgB with running := false } } }) ∧
  (∀ (dt : Nat) (s : State), s.pwr.rails = true →
    ∃ t, exec (.powerRailsDown dt) s = .next t ∧
      t = { State.reset with
        pending := s.pending, clk := { real := s.now + dt }, pwr := { rails := false }, otp := s.otp, vbat := (s.pass dt).vbat, out := t.out,
        free := s.free,
        flash := { s.flash with imgA := { s.flash.imgA with running := false }, imgB := { s.flash.imgB with running := false } } }) ∧
  (∀ (dt : Nat) (s : State), exec (.powerRailsUp dt) s = .next { s.pass dt with pwr := { s.pwr with rails := true } }) ∧
  (∀ (dt : Nat) (s : State), s.pwr.rails = false → exec (.vbatRetentionLoss dt) s = .next { s.pass dt with vbat := { valid := false } }) ∧
  (∀ (dt : Nat) (s : State), s.clk.run = true →
    exec (.tclkUnlock dt) s = .next { s.pass dt with clk := { (s.pass dt).clk with run := false }, fire := { s.fire with unlock := true } }) ∧
  (∀ (dt : Nat) (s : State), s.clk.run = false → s.pwr.porst = true → 3 ≤ s.pwr.stage → Takes s F.tclkUnlock 0 idNone →
    ∃ t, exec (.tclkLockReturn dt) s = .next t ∧
      Recorded { s.pass dt with clk := { (s.pass dt).clk with run := true } } t F.tclkUnlock 0 idNone 0)

/-- Rows KINDLING_STAGE_4_DONE, KINDLING_STAGE_5_DONE, KINDLING_STAGE_6_DONE, KINDLING_STAGE_7_DONE, KINDLING_STAGE_8_DONE, ENTER_READY (R479, R482, R503 to R512). -/
def Obligations.KindlingStagesComplete : Prop :=
  (∀ (dt k : Nat) (sigA sigB : Bool) (s : State), s.atStage 3 = true → s.flash.dirNow.mode = 0 → s.flash.dirNow.preferred = k → k < 2 →
    s.imageState (s.flash.img k) (if k = 0 then sigA else sigB) = 1 →
    ∃ t, exec (.kindlingStage4Done dt true sigA sigB) s = .next t ∧ t.pwr.stage = 4 ∧ t.pwr.kind = 0 ∧
      (t.flash.img k).running = true ∧ (t.flash.img (1 - k)).running = false ∧ t.flash.dirNow = s.flash.dirNow ∧
      t.params = { s.params with acc := s.flash.dirNow.saved, reset := s.flash.dirNow.saved } ∧
      t = { s.pass dt with flash := t.flash, params := t.params, pwr := t.pwr }) ∧
  (∀ (dt : Nat) (sigA sigB : Bool) (s : State), s.atStage 3 = true → s.imageState s.flash.imgA sigA ≠ 1 → s.imageState s.flash.imgB sigB ≠ 1 →
    ∃ t, exec (.kindlingStage4Done dt true sigA sigB) s = .next t ∧ t.pwr.kind = 2 ∧ t.pwr.err = 0x40 ∧ t.pwr.crs = false ∧ t.pwr.stage = 3) ∧
  (∀ (dt mv mon0 : Nat) (s : State), s.atStage 4 = true → s.trimOk = true → mv ≤ s.parReset P.manageVcoreStartMv + 10 →
    s.parReset P.manageVcoreStartMv ≤ mv + 10 →
    ∃ t, exec (.kindlingStage5Done dt (.readback mv) mon0 true) s = .next t ∧ t.pwr.stage = 5 ∧ t.pwr.kind = 0 ∧ t.pwr.crs = false ∧
      t.pwr.pmbFail = false ∧
      t = ({ s.pass dt with
        draught := { s.draught with setMv := s.parReset P.manageVcoreStartMv, nowMv := max 680 (min 860 mv) }, mgmt := { s.mgmt with vcoreAt := (s.pass dt).now },
        pwr := t.pwr }.vcoreBus (vcoreStart (s.parReset P.manageVcoreStartMv)))) ∧
  (∀ (a w : Nat) (l : List Bool), eyeOf l = (a, w) →
    (∀ i, i < w → l[a + i]? = some true) ∧ (∀ b n, (∀ i, i < n → l[b + i]? = some true) → n ≤ w) ∧ (0 < w → eyeDelay (a, w) = (a + (a + w - 1)) / 2)) ∧
  (∀ (dt : Nat) (trained : List TrainFate) (s : State), s.atStage 5 = true → (∃ c, c < 3 ∧ s.parReset (P.memoryChEnable c) ≠ 0) →
    (∀ c, c < 3 → s.parReset (P.memoryChEnable c) ≠ 0 → ∃ l, trained[c]? = some (.trained l) ∧ s.trainsOk (.trained l) = true ∧
      ∀ x ∈ l.map Sweep.res, 2 * s.parReset P.memoryDdrMinEyeSteps ≤ x.re ∧ 2 * s.parReset P.memoryDdrMinEyeSteps ≤ x.we) →
    ∃ t, exec (.kindlingStage6Done dt trained) s = .next t ∧ t.pwr.stage = 6 ∧ t.pwr.kind = 0 ∧ t.ddr.initDone = false ∧
      (∀ c, c < 3 → s.parReset (P.memoryChEnable c) ≠ 0 → (t.chan c).state = 2) ∧
      (∀ c k l w, c < 3 → s.parReset (P.memoryChEnable c) ≠ 0 → trained[c]? = some (.trained l) → l[k]? = some w → look t.ddr.train (18 * c + k) = some (Sweep.res w)) ∧
      (∀ c, c < 3 → s.parReset (P.memoryChEnable c) = 0 → t.chan c = s.chan c) ∧ t.faults = s.faults ∧
      t = { s.pass dt with ddr := t.ddr, pwr := t.pwr }) ∧
  (∀ (dt : Nat) (s : State), s.atStage 6 = true → s.vbat.valid = true → s.vbat.lcMirror = s.otp.lc → s.vbat.banked = false → s.vbat.tripKind = false →
    s.otp.lcPart = false → s.pwr.fbNew = false → s.pwr.pmbFail = false →
    s.parReset P.hostJobLibraryMb + s.parReset P.hostJobStageMb ≤ s.dramGb * 1024 - 2048 →
    ∃ t, exec (.kindlingStage7Done dt true []) s = .next t ∧ t.pwr.stage = 7 ∧ t.pwr.kind = 0 ∧ t.chip.scratch = [] ∧ t.chip.secure = [] ∧
      t.lib.libMb = s.parReset P.hostJobLibraryMb ∧ t.lib.stgMb = s.parReset P.hostJobStageMb ∧ t.pwr.secs7 = (s.pass dt).vbat.sec ∧
      (∀ e l, s.flash.log = e :: l → t.mgmt.nextSeq = e.seq + 1 + s.mgmt.nextSeq) ∧ (s.flash.log = [] → t.mgmt.nextSeq = s.mgmt.nextSeq) ∧
      t.faults = s.faults ∧ t.otp = s.otp) ∧
  (∀ (dt : Nat) (present : BitVec 36) (s : State), s.atStage 7 = true →
    ∃ t, exec (.kindlingStage8Done dt present) s = .next t ∧ t.pwr.stage = 8 ∧ t.pwr.kind = 0 ∧
      (∀ l, l < 36 → sel t.pwr.present l false = present.getLsbD l) ∧ t = { s.pass dt with pwr := t.pwr }) ∧
  (∀ (dt : Nat) (s : State), s.atStage 8 = true → trimStepCount ≤ s.pwr.trimSteps →
    ∃ t e l, exec (.enterReady dt) s = .next t ∧ t.pwr.kind = 1 ∧ t.pwr.readyAt = s.now + dt ∧ t.ready = true ∧
      t.motion.slewAt = some (s.now + dt) ∧ t.mgmt.log = e :: l ∧ e.kind = 2 ∧ e.master = idStoker ∧ e.source = 0xFFFF ∧ e.seq = s.mgmt.nextSeq ∧
      t.mgmt.nextSeq = s.mgmt.nextSeq + 1 ∧ t = { s.pass dt with pwr := t.pwr, motion := t.motion, mgmt := t.mgmt, free := t.free, out := t.out })

/-- Rows PARAM_READ, PARAM_WRITE (R28, R528, R539 to R541, R543, R544). -/
def Obligations.ParamReadsAndWrites : Prop :=
  (∀ (dt n : Nat) (w : Sess) (s : State) (c : Cmd) (ids : List Nat), Holds s w c 0x0401 (4 + 4 * n) → s.pwr.kind ≠ 2 → u8 c.pay 0 = n → 1 ≤ n → n ≤ 29 →
    fld c.pay 1 3 = 0 → ids = (List.range n).map (fun k => u32 c.pay (4 + 4 * k)) → (∀ i ∈ ids, (pRow? i).isSome = true) → (∀ i ∈ ids, (s.pass dt).deafTo i = false) →
    ∃ t, exec (.paramRead dt w) s = .next t ∧
      Answered (s.pass dt) t w c St.ok (leB 1 n ++ leB 3 0 ++ ids.flatMap (fun i => leB 4 i ++ leB 4 ((s.pass dt).paramRead i)))) ∧
  (∀ (dt n i : Nat) (w : Sess) (s : State) (c : Cmd) (ids : List Nat), Holds s w c 0x0401 (4 + 4 * n) → s.pwr.kind ≠ 2 → u8 c.pay 0 = n → 1 ≤ n → n ≤ 29 →
    fld c.pay 1 3 = 0 → ids = (List.range n).map (fun k => u32 c.pay (4 + 4 * k)) → (∀ i ∈ ids, (pRow? i).isSome = true) →
    ids.find? (fun i => (s.pass dt).deafTo i) = some i → Takes s F.flueTimeout i (Sess.initiator w) →
    ∃ t u, exec (.paramRead dt w) s = .next t ∧ Recorded (s.pass dt) u F.flueTimeout i (Sess.initiator w) 1 ∧ Answered u t w c St.timeout []) ∧
  (∀ (dt n : Nat) (w : Sess) (busy : List (Fin 16)) (dirOk : Bool) (s : State) (c : Cmd) (ms ch : List (Nat × Nat)),
    Holds s w c 0x0402 (4 + 8 * n) → s.pwr.kind ≠ 2 → u8 c.pay 0 = n → 1 ≤ n → n ≤ 29 → fld c.pay 1 3 = 0 → ms = members n (c.pay.drop 4) →
    (s.pass dt).firstFailure ((s.pass dt).acceptAll ms) 0 ms = none → ch = (lastOnly ms).filter (fun m => (s.pass dt).paramRead m.1 != m.2) →
    (dirOk = true ∨ ∀ m ∈ ch, pClass m.1 ≠ .reset) → (∀ m ∈ ms, (s.pass dt).deafTo m.1 = false) →
    ∃ t, exec (.paramWrite dt w busy dirOk) s = .next t ∧
      Answered ((ch.foldl (fun (s : State) m => s.applyMember m.1 m.2 (busy.map Fin.val)) ((s.pass dt).saveReset ch)).latchOff ch) t w c St.ok
        (leB 4 (if ms.any (fun m => pClass m.1 == .line) then s.fire.next else 0xFFFFFFFF) ++ leB 1 0xFF ++ leB 3 0)) ∧
  (∀ (dt n i : Nat) (m : Nat × Nat) (w : Sess) (busy : List (Fin 16)) (dirOk : Bool) (s : State) (c : Cmd) (ms : List (Nat × Nat)),
    Holds s w c 0x0402 (4 + 8 * n) → s.pwr.kind ≠ 2 → u8 c.pay 0 = n → 1 ≤ n → n ≤ 29 → fld c.pay 1 3 = 0 → ms = members n (c.pay.drop 4) →
    (s.pass dt).firstFailure ((s.pass dt).acceptAll ms) 0 ms = none → ms.findIdx? (fun m => (s.pass dt).deafTo m.1) = some i → ms[i]? = some m →
    Takes s F.flueTimeout m.1 (Sess.initiator w) →
    ∃ t u, exec (.paramWrite dt w busy dirOk) s = .next t ∧ Recorded (s.pass dt) u F.flueTimeout m.1 (Sess.initiator w) 2 ∧
      Answered u t w c St.timeout
        (leB 4 (if ms.any (fun m => pClass m.1 == .line) then s.fire.next else 0xFFFFFFFF) ++ leB 1 i ++ leB 3 0)) ∧
  (∀ (dt n i st : Nat) (w : Sess) (busy : List (Fin 16)) (dirOk : Bool) (s : State) (c : Cmd) (ms : List (Nat × Nat)),
    Holds s w c 0x0402 (4 + 8 * n) → s.pwr.kind ≠ 2 → u8 c.pay 0 = n → 1 ≤ n → n ≤ 29 → fld c.pay 1 3 = 0 → ms = members n (c.pay.drop 4) →
    (s.pass dt).firstFailure ((s.pass dt).acceptAll ms) 0 ms = some (i, st) →
    ∃ t, exec (.paramWrite dt w busy dirOk) s = .next t ∧
      Answered (s.pass dt) t w c st
        (leB 4 (if ms.any (fun m => pClass m.1 == .line) then s.fire.next else 0xFFFFFFFF) ++ leB 1 i ++ leB 3 0)) ∧
  (∀ (dt id v : Nat) (w : Sess) (busy : List (Fin 16)) (dirOk : Bool) (s : State) (c : Cmd),
    Holds s w c 0x0402 12 → s.pwr.kind ≠ 2 → u8 c.pay 0 = 1 → fld c.pay 1 3 = 0 → u32 c.pay 4 = id → u32 c.pay 8 = v →
    (s.pass dt).memberFails ((s.pass dt).acceptValue id v) id v = none → pClass id = .line → isMinRatio id = false → ctxOfParam id = none → (s.pass dt).deafTo id = false →
    (s.pass dt).paramRead id ≠ v →
    ∃ t, exec (.paramWrite dt w busy dirOk) s = .next t ∧
      Answered { s.pass dt with
        params := { s.params with acc := accept s.params.acc id v, pendLine := s.params.pendLine ++ [(s.fire.next, id, v)] } } t w c St.ok
        (leB 4 s.fire.next ++ leB 1 0xFF ++ leB 3 0)) ∧
  (∀ (dt id v : Nat) (w : Sess) (busy : List (Fin 16)) (dirOk : Bool) (s : State) (c : Cmd),
    Holds s w c 0x0402 12 → s.pwr.kind ≠ 2 → u8 c.pay 0 = 1 → fld c.pay 1 3 = 0 → u32 c.pay 4 = id → u32 c.pay 8 = v →
    (s.pass dt).memberFails ((s.pass dt).acceptValue id v) id v = none → pClass id ≠ .line → (s.pass dt).deafTo id = false → (s.pass dt).paramRead id = v →
    ∃ t, exec (.paramWrite dt w busy dirOk) s = .next t ∧
      Answered (s.pass dt) t w c St.ok (leB 4 0xFFFFFFFF ++ leB 1 0xFF ++ leB 3 0))

/-- Rows PARAM_BULK_READ, PARAM_BULK_READ_COMPLETE, PARAM_BULK_WRITE, PARAM_BULK_RELEASE (R528, R544 to R546). -/
def Obligations.ParamBulkTransfers : Prop :=
  (∀ (dt : Nat) (w : Sess) (s : State) (c : Cmd) (l : List DmaDesc) (a : Bytes), HoldsDma s w c 0x0403 16 l a → HasRoom s w → s.pwr.kind ≠ 2 →
    fld a 8 8 = 0 → ∃ t, exec (.paramBulkRead dt w) s = .next t ∧ Waiting (s.pass dt) t w c 0 [] []) ∧
  (∀ (dt : Nat) (w : Sess) (seq : BitVec 32) (chain : List Bytes) (s : State) (p : Pend) (l : List DmaDesc) (ids : List Nat) (b : Bytes),
    s.pend? w seq = some p → (∃ q, (s.ses w).cq = some q) → p.cmd.op = 0x0403 → p.descs chain = some l →
    ids = definedIds (u32 p.cmd.arg 0) (u32 p.cmd.arg 4) → (∀ i ∈ ids, (s.pass dt).deafTo i = false) → b = ids.flatMap (fun i => leB 4 i ++ leB 4 ((s.pass dt).paramRead i)) → b.length ≤ total l →
    ∃ t, exec (.paramBulkReadComplete dt w seq chain) s = .next t ∧
      Posted ((s.pass dt).emits (scatter l b)) t p St.ok p.obj.toNat ids.length idHob) ∧
  (∀ (dt n : Nat) (w : Sess) (s : State) (c : Cmd) (l : List DmaDesc) (a : Bytes), HoldsDma s w c 0x0404 16 l a → HasRoom s w → s.pwr.kind ≠ 2 →
    u32 a 0 = n → 1 ≤ n → n ≤ 1048576 → fld a 4 12 = 0 → (chainOf l = none → total l = 8 * n) →
    ∃ t, exec (.paramBulkWrite dt w) s = .next t ∧ Waiting (s.pass dt) t w c 0 [] []) ∧
  (∀ (dt n : Nat) (w : Sess) (seq : BitVec 32) (chain : List Bytes) (data b : Bytes) (busy : List (Fin 16)) (dirOk : Bool) (s : State) (p : Pend)
      (ms ch : List (Nat × Nat)),
    s.pend? w seq = some p → (s.ses w).cq.isSome = true → p.cmd.op = 0x0404 → u32 p.cmd.arg 0 = n → p.dataIn chain data = some b → b.length = 8 * n →
    ms = members n b → (s.pass dt).firstFailure ((s.pass dt).acceptAll ms) 0 ms = none → (∀ m ∈ ms, (s.pass dt).deafTo m.1 = false) →
    ch = (lastOnly ms).filter (fun m => (s.pass dt).paramRead m.1 != m.2) → ch = [] ∨ (∃ m, ch = [m] ∧ pClass m.1 = .splice ∧ ctxOfParam m.1 = none) →
    ∃ t, exec (.paramBulkRelease dt w seq chain data busy dirOk) s = .next t ∧
      Posted ((s.pass dt).acceptAll ch) t p St.ok p.obj.toNat
        ((if ms.any (fun m => pClass m.1 == .line) then s.fire.next else 0xFFFFFFFF) + 2 ^ 32 * 0xFFFFFFFF) idHob) ∧
  (∀ (dt n i st : Nat) (w : Sess) (seq : BitVec 32) (chain : List Bytes) (data b : Bytes) (busy : List (Fin 16)) (dirOk : Bool) (s : State) (p : Pend)
      (ms : List (Nat × Nat)),
    s.pend? w seq = some p → (s.ses w).cq.isSome = true → p.cmd.op = 0x0404 → u32 p.cmd.arg 0 = n → p.dataIn chain data = some b → b.length = 8 * n →
    ms = members n b → (s.pass dt).firstFailure ((s.pass dt).acceptAll ms) 0 ms = some (i, st) →
    ∃ t, exec (.paramBulkRelease dt w seq chain data busy dirOk) s = .next t ∧
      Posted (s.pass dt) t p st p.obj.toNat
        ((if ms.any (fun m => pClass m.1 == .line) then s.fire.next else 0xFFFFFFFF) + 2 ^ 32 * i) idHob)

/-- Rows LEDGER_READ, LEDGER_WRITE, LEDGER_LOAD, LEDGER_LOAD_APPLIED (R19, R29, R528, R550, R556, R580). -/
def Obligations.LedgerReadsWritesAndLoads : Prop :=
  (∀ (dt i n : Nat) (w : Sess) (s : State) (c : Cmd), Holds s w c 0x0501 8 → s.pwr.kind ≠ 2 → u32 c.pay 0 = i → u8 c.pay 4 = n → 1 ≤ n → n ≤ 58 →
    fld c.pay 5 3 = 0 → i + n ≤ ledgerSize →
    ∃ t, exec (.ledgerRead dt w) s = .next t ∧
      Answered (s.pass dt) t w c St.ok (leB 4 i ++ leB 1 n ++ leB 3 0 ++ (List.range n).flatMap (fun k => leB 4 (s.entry (i + k)).toNat))) ∧
  (∀ (dt i n m : Nat) (w : Sess) (s : State) (c : Cmd), Holds s w c 0x0502 (8 + 4 * n) → s.pwr.kind ≠ 2 → u32 c.pay 0 = i → u8 c.pay 4 = n →
    1 ≤ n → n ≤ 58 → i + n ≤ ledgerSize → u8 c.pay 5 = m → m < 64 → u16 c.pay 6 = 0 → s.resetBars i n m = [] →
    ∃ t u l, exec (.ledgerWrite dt w) s = .next t ∧
      u = { s.pass dt with ledger := { s.ledger with pend := s.ledger.pend ++ l } } ∧
      (∀ x ∈ l, x.1 = s.fire.next ∧ (∃ k, k < n ∧ x.2.1 = i + k ∧ x.2.2.1 = BitVec.ofNat 32 (u32 c.pay (8 + 4 * k))) ∧ x.2.2.2 ≠ 0) ∧
      (m = 0 → l = []) ∧ Answered u t w c St.ok (leB 4 s.fire.next)) ∧
  (∀ (dt i n m : Nat) (w : Sess) (s : State) (c : Cmd), Holds s w c 0x0502 (8 + 4 * n) → s.pwr.kind ≠ 2 → u32 c.pay 0 = i → u8 c.pay 4 = n →
    1 ≤ n → n ≤ 58 → i + n ≤ ledgerSize → u8 c.pay 5 = m → m < 64 → u16 c.pay 6 = 0 → s.heldBar i n m = none → s.resetBars i n m ≠ [] →
    exec (.ledgerWrite dt w) s = .next (s.pass dt)) ∧
  (∀ (dt i n m b : Nat) (w : Sess) (s : State) (c : Cmd), Holds s w c 0x0502 (8 + 4 * n) → s.pwr.kind ≠ 2 → u32 c.pay 0 = i → u8 c.pay 4 = n →
    1 ≤ n → n ≤ 58 → i + n ≤ ledgerSize → u8 c.pay 5 = m → m < 64 → u16 c.pay 6 = 0 → s.heldBar i n m = some b →
    Takes s F.flueTimeout (max i (102400 * b)) (Sess.initiator w) →
    ∃ t u, exec (.ledgerWrite dt w) s = .next t ∧ Recorded (s.pass dt) u F.flueTimeout (max i (102400 * b)) (Sess.initiator w) 2 ∧
      Answered u t w c St.timeout []) ∧
  (∀ (dt n : Nat) (w : Sess) (s : State) (c : Cmd) (l : List DmaDesc) (a : Bytes), HoldsDma s w c 0x0503 16 l a → HasRoom s w → s.pwr.kind ≠ 2 →
    u32 a 4 = n → 1 ≤ n → u32 a 0 + n ≤ ledgerSize → u8 a 8 < 64 → fld a 9 7 = 0 → (chainOf l = none → total l = 4 * n) →
    ∃ t, exec (.ledgerLoad dt w) s = .next t ∧ Waiting (s.pass dt) t w c 0 [] []) ∧
  (∀ (dt i n m : Nat) (w : Sess) (seq : BitVec 32) (chain : List Bytes) (data b : Bytes) (s : State) (p : Pend),
    s.pend? w seq = some p → (∃ q, (s.ses w).cq = some q) → p.cmd.op = 0x0503 → u32 p.cmd.arg 0 = i → u32 p.cmd.arg 4 = n → u8 p.cmd.arg 8 = m →
    p.dataIn chain data = some b → b.length = 4 * n → s.resetBars i n m = [] →
    ∃ t u l, exec (.ledgerLoadApplied dt w seq chain data) s = .next t ∧
      u = { s.pass dt with ledger := { s.ledger with pend := s.ledger.pend ++ l } } ∧
      (∀ x ∈ l, x.1 = s.fire.next ∧ (∃ k, k < n ∧ x.2.1 = i + k ∧ x.2.2.1 = BitVec.ofNat 32 (u32 b (4 * k))) ∧ x.2.2.2 ≠ 0) ∧
      Posted u t p St.ok p.obj.toNat (s.fire.next + 2 ^ 32 * (crc32c b).toNat) idHob)

/-- Rows LEDGER_DUMP, LEDGER_DUMP_COMPLETE, LEDGER_CHECK, LEDGER_CHECK_COMPLETE, LEDGER_SCRUB (R528, R552 to R555). -/
def Obligations.LedgerDumpsChecksAndScrub : Prop :=
  (∀ (dt : Nat) (w : Sess) (s : State) (c : Cmd) (l : List DmaDesc) (a : Bytes), HoldsDma s w c 0x0504 16 l a → HasRoom s w → s.pwr.kind ≠ 2 →
    u32 a 0 + u32 a 4 ≤ ledgerSize → fld a 8 8 = 0 →
    ∃ t, exec (.ledgerDump dt w) s = .next t ∧ Waiting (s.pass dt) t w c 0 [] []) ∧
  (∀ (dt n : Nat) (w : Sess) (seq : BitVec 32) (chain : List Bytes) (s : State) (p : Pend) (l : List DmaDesc) (b : Bytes),
    s.pend? w seq = some p → (∃ q, (s.ses w).cq = some q) → p.cmd.op = 0x0504 → p.descs chain = some l → u32 p.cmd.arg 4 = n →
    b = (List.range n).flatMap (fun k => leB 4 (s.entry (u32 p.cmd.arg 0 + k)).toNat) → 4 * n ≤ total l →
    ∃ t, exec (.ledgerDumpComplete dt w seq chain) s = .next t ∧
      Posted ((s.pass dt).emits (scatter l b)) t p St.ok (BitVec.ofNat 32 s.lastBoundary).toNat (n + 2 ^ 32 * (crc32c b).toNat) idHob) ∧
  (∀ (dt : Nat) (w : Sess) (s : State) (c : Cmd), Holds s w c 0x0505 4 → HasRoom s w → s.pwr.kind ≠ 2 → u8 c.pay 0 < 8 → fld c.pay 1 3 = 0 →
    ∃ t, exec (.ledgerCheck dt w) s = .next t ∧ Waiting (s.pass dt) t w c (u8 c.pay 0) [] []) ∧
  (∀ (dt : Nat) (w : Sess) (seq : BitVec 32) (upsets : List (Nat × Nat)) (s : State) (p : Pend),
    s.pend? w seq = some p → (∃ q, (s.ses w).cq = some q) → p.cmd.op = 0x0505 → (∀ x ∈ upsets, x.2 = 1) → Calm s F.ledgerEccCorr →
    ∃ t u, exec (.ledgerCheckComplete dt w seq upsets) s = .next t ∧ u.ledger.ent = s.ledger.ent ∧
      Touched { s.pass dt with ledger := { s.ledger with corr := u.ledger.corr } } u ∧
      (s.ledger.corr + upsets.length < 2 ^ 32 → u.ledger.corr = s.ledger.corr + upsets.length) ∧
      Posted u t p St.ok p.obj.toNat
        ((crc32c ((List.range 102400).flatMap (fun k => leB 4 (s.entry (102400 * p.obj.toNat + k)).toNat))).toNat + 2 ^ 32 * sat 16 upsets.length)
        idHob) ∧
  (∀ (dt bits : Nat) (s : State), (s.pass dt).now + perUs < s.scrubDue → exec (.ledgerScrub dt bits) s = .next (s.pass dt)) ∧
  (∀ (dt : Nat) (s : State), s.ready = true → s.scrubDue ≤ (s.pass dt).now + perUs →
    exec (.ledgerScrub dt 0) s = .next { s.pass dt with ledger := { s.ledger with scrub := (s.ledger.scrub + 1) % ledgerSize, scrubAt := (if s.ledger.scrub = 0 then some (s.pass dt).now else s.ledger.scrubAt) } }) ∧
  (∀ (dt : Nat) (s : State), s.ready = true → s.scrubDue ≤ (s.pass dt).now + perUs → Takes s F.ledgerEccCorr s.ledger.scrub idNone →
    ∃ t, exec (.ledgerScrub dt 1) s = .next t ∧
      Recorded { s.pass dt with ledger := { s.ledger with scrub := (s.ledger.scrub + 1) % ledgerSize, scrubAt := (if s.ledger.scrub = 0 then some (s.pass dt).now else s.ledger.scrubAt), corr := sat 32 (s.ledger.corr + 1) } } t
        F.ledgerEccCorr s.ledger.scrub idNone 0) ∧
  (∀ (dt bits : Nat) (s : State), s.ready = true → s.scrubDue ≤ (s.pass dt).now + perUs → 2 ≤ bits → Takes s F.ledgerEcc s.ledger.scrub idNone →
    ∃ t u e, exec (.ledgerScrub dt bits) s = .next t ∧
      u = { s.pass dt with ledger := { s.ledger with scrub := (s.ledger.scrub + 1) % ledgerSize, scrubAt := (if s.ledger.scrub = 0 then some (s.pass dt).now else s.ledger.scrubAt) } } ∧
      e = u.fallback s.ledger.scrub s.lastBoundary true ∧ t.entry s.ledger.scrub = e ∧ (∀ k, k ≠ s.ledger.scrub → t.entry k = s.entry k) ∧
      Recorded { u with ledger := { (u.setEntry s.ledger.scrub e).ledger with fallb := sat 32 (s.ledger.fallb + 1), lastFb := BitVec.ofNat 32 s.ledger.scrub } } t
        F.ledgerEcc s.ledger.scrub idNone 0)
end

