-- ==== Sys2Proof/Laws/Maps.lean ====
section
/-!
SUPPORT. Laws of the sorted maps and the byte memories: what a read gives after a write, and that every operation keeps
the canonical form.
-/
namespace Sys2Proof.Machine

/-! ### Reads after writes -/

@[simp] theorem look_put_same {α : Type} (m : SMap α) (k : Nat) (v : α) : look (put m k v) k = some v := by
  induction m with
  | nil => simp [put, look]
  | cons e t ih =>
    obtain ⟨j, w⟩ := e
    simp only [put]
    split
    · simp [look]
    · split
      · simp [look]
      · rename_i h1 h2
        simp [look, Ne.symm h2, ih]

theorem look_put_other {α : Type} (m : SMap α) (k l : Nat) (v : α) (h : l ≠ k) : look (put m k v) l = look m l := by
  induction m with
  | nil => simp [put, look, Ne.symm h]
  | cons e t ih =>
    obtain ⟨j, w⟩ := e
    simp only [put]
    split
    · simp [look, Ne.symm h]
    · split
      · rename_i h2
        subst h2
        simp [look, Ne.symm h]
      · simp [look, ih]

@[simp] theorem sel_put_same {α : Type} (m : SMap α) (k : Nat) (v d : α) : sel (put m k v) k d = v := by
  simp [sel]

theorem sel_put_other {α : Type} (m : SMap α) (k l : Nat) (v d : α) (h : l ≠ k) : sel (put m k v) l d = sel m l d := by
  simp [sel, look_put_other m k l v h]

theorem sel_put {α : Type} (m : SMap α) (k l : Nat) (v d : α) : sel (put m k v) l d = if l = k then v else sel m l d := by
  split
  · rename_i h
    subst h
    simp
  · rename_i h
    exact sel_put_other m k l v d h

@[simp] theorem sel_nil {α : Type} (k : Nat) (d : α) : sel ([] : SMap α) k d = d := rfl

/-- A second write of an index replaces the first. -/
@[simp] theorem put_put {α : Type} (m : SMap α) (k : Nat) (v w : α) : put (put m k v) k w = put m k w := by
  induction m with
  | nil => simp [put]
  | cons e t ih =>
    obtain ⟨j, x⟩ := e
    simp only [put]
    by_cases h1 : k < j
    · simp [h1, put]
    · by_cases h2 : k = j
      · simp [h2, put]
      · simp [h1, h2, put, ih]

theorem look_cut {α : Type} (m : SMap α) (k l : Nat) : look (cut m k) l = if l = k then none else look m l := by
  induction m with
  | nil => simp [cut, look]
  | cons e t ih =>
    obtain ⟨j, w⟩ := e
    by_cases hj : j = k
    · subst hj
      have : cut ((j, w) :: t) j = cut t j := by simp [cut]
      rw [this, ih]
      by_cases hl : l = j
      · simp [hl]
      · simp [hl, look, Ne.symm hl]
    · have : cut ((j, w) :: t) k = (j, w) :: cut t k := by simp [cut, hj]
      rw [this]
      by_cases hl : j = l
      · subst hl
        simp [look, hj]
      · simp [look, hl, ih]

@[simp] theorem look_cut_same {α : Type} (m : SMap α) (k : Nat) : look (cut m k) k = none := by
  simp [look_cut]

theorem look_cut_other {α : Type} (m : SMap α) (k l : Nat) (h : l ≠ k) : look (cut m k) l = look m l := by
  simp [look_cut, h]

/-! ### The canonical form -/

/-- The head's index is below the rest's, and the rest is sorted. -/
theorem smapWf_cons {α : Type} (j : Nat) (w : α) (t : SMap α) : SMapWf ((j, w) :: t) ↔ (∀ e ∈ t, j < e.1) ∧ SMapWf t := by
  simp [SMapWf]

/-- Every entry of the map after a write is the new one or an old one. -/
theorem mem_put {α : Type} (m : SMap α) (k : Nat) (v : α) (e : Nat × α) (h : e ∈ put m k v) : e = (k, v) ∨ e ∈ m := by
  induction m with
  | nil => simpa [put] using h
  | cons f t ih =>
    obtain ⟨j, w⟩ := f
    simp only [put] at h
    split at h
    · simpa using h
    · split at h
      · rcases List.mem_cons.1 h with h | h
        · exact .inl h
        · exact .inr (by simp [h])
      · rcases List.mem_cons.1 h with h | h
        · exact .inr (by simp [h])
        · rcases ih h with h | h
          · exact .inl h
          · exact .inr (by simp [h])

/-- Every entry left by a removal was there. -/
theorem mem_cut {α : Type} (m : SMap α) (k : Nat) (e : Nat × α) (h : e ∈ cut m k) : e ∈ m := (List.mem_filter.1 h).1

theorem put_wf {α : Type} (m : SMap α) (k : Nat) (v : α) (h : SMapWf m) : SMapWf (put m k v) := by
  induction m with
  | nil => simp [put, SMapWf]
  | cons e t ih =>
    obtain ⟨j, w⟩ := e
    have hc := (smapWf_cons j w t).1 h
    simp only [put]
    split
    · rename_i hk
      refine (smapWf_cons _ _ _).2 ⟨?_, h⟩
      intro e he
      rcases List.mem_cons.1 he with he | he
      · simpa [he] using hk
      · have := hc.1 e he
        omega
    · split
      · rename_i hk
        exact (smapWf_cons _ _ _).2 ⟨fun e he => hk ▸ hc.1 e he, hc.2⟩
      · rename_i h1 h2
        refine (smapWf_cons _ _ _).2 ⟨?_, ih hc.2⟩
        intro e he
        rcases mem_put t k v e he with he | he
        · simp only [he]
          omega
        · exact hc.1 e he

theorem cut_wf {α : Type} (m : SMap α) (k : Nat) (h : SMapWf m) : SMapWf (cut m k) := by
  have hs : ((cut m k).map Prod.fst).Sublist (m.map Prod.fst) := (List.filter_sublist (l := m)).map _
  exact h.sublist hs

/-! ### Byte memories -/

theorem memWrite_wf (m : SMap (BitVec 8)) (a : Nat) (v : BitVec 8) (h : MemWf m) : MemWf (memWrite m a v) := by
  unfold memWrite
  split
  · exact ⟨cut_wf m a h.1, fun e he => h.2 e (mem_cut m a e he)⟩
  · rename_i hv
    refine ⟨put_wf m a v h.1, fun e he => ?_⟩
    rcases mem_put m a v e he with he | he
    · simpa [he] using hv
    · exact h.2 e he

theorem memWriteN_wf (b : Bytes) (m : SMap (BitVec 8)) (a : Nat) (h : MemWf m) : MemWf (memWriteN m a b) := by
  induction b generalizing m a with
  | nil => exact h
  | cons x t ih => exact ih _ _ (memWrite_wf m a x h)

theorem memWf_nil : MemWf [] := ⟨by simp [SMapWf], by simp⟩

@[simp] theorem memRead_memWrite_same (m : SMap (BitVec 8)) (a : Nat) (v : BitVec 8) : memRead (memWrite m a v) a = v := by
  unfold memWrite memRead
  split
  · rename_i hv
    simp [sel, hv]
  · simp

theorem memRead_memWrite_other (m : SMap (BitVec 8)) (a x : Nat) (v : BitVec 8) (h : x ≠ a) :
    memRead (memWrite m a v) x = memRead m x := by
  unfold memWrite memRead
  split
  · simp [sel, look_cut_other m a x h]
  · exact sel_put_other m a x v 0 h

/-- A byte outside a written string keeps its value. -/
theorem memRead_memWriteN_other (b : Bytes) (m : SMap (BitVec 8)) (a x : Nat) (h : x < a ∨ a + b.length ≤ x) :
    memRead (memWriteN m a b) x = memRead m x := by
  induction b generalizing m a with
  | nil => rfl
  | cons y t ih =>
    simp only [List.length_cons] at h
    rw [memWriteN, ih (memWrite m a y) (a + 1) (by omega), memRead_memWrite_other m a x y (by omega)]

/-- A written string reads back. -/
theorem memReadN_memWriteN (b : Bytes) (m : SMap (BitVec 8)) (a : Nat) : memReadN (memWriteN m a b) a b.length = b := by
  induction b generalizing m a with
  | nil => rfl
  | cons y t ih =>
    have h0 : memRead (memWriteN (memWrite m a y) (a + 1) t) a = y := by
      rw [memRead_memWriteN_other t _ _ _ (by omega), memRead_memWrite_same m a y]
    have h1 := ih (memWrite m a y) (a + 1)
    have h2 : (fun i => memRead (memWriteN (memWrite m a y) (a + 1) t) (a + (i + 1)))
        = fun i => memRead (memWriteN (memWrite m a y) (a + 1) t) (a + 1 + i) := by
      funext i
      rw [show a + (i + 1) = a + 1 + i by omega]
    simp only [memReadN] at h1 ⊢
    rw [List.length_cons, List.range_succ_eq_map, List.map_cons, List.map_map, Nat.add_zero, memWriteN, h0]
    congr 1
    simpa [Function.comp_def, h2] using h1

/-- A string read outside a written one keeps its value. -/
theorem memReadN_memWriteN_other (b : Bytes) (m : SMap (BitVec 8)) (a x n : Nat) (h : x + n ≤ a ∨ a + b.length ≤ x) :
    memReadN (memWriteN m a b) x n = memReadN m x n := by
  apply List.map_congr_left
  intro i hi
  have := List.mem_range.1 hi
  exact memRead_memWriteN_other b m a (x + i) (by omega)

/-- Writing a joined string writes its parts in turn. -/
theorem memWriteN_append (x y : Bytes) (m : SMap (BitVec 8)) (a : Nat) :
    memWriteN m a (x ++ y) = memWriteN (memWriteN m a x) (a + x.length) y := by
  induction x generalizing m a with
  | nil => rfl
  | cons h t ih => simp only [List.cons_append, memWriteN, ih, List.length_cons, Nat.add_comm t.length 1, Nat.add_assoc]

@[simp] theorem leB_length (n x : Nat) : (leB n x).length = n := by
  induction n generalizing x with
  | zero => rfl
  | succ m ih => simp [leB, ih]

@[simp] theorem memReadN_length (m : SMap (BitVec 8)) (a n : Nat) : (memReadN m a n).length = n := by
  simp [memReadN]

end Sys2Proof.Machine
end

