-- ==== Sys2Proof/Laws/Session.lean ====
section
/-!
SUPPORT. Laws of the slots, the completion queues and the answers: what each shared operation of Machine/Session.lean does.
-/
namespace Sys2Proof.Machine

/-! ### Session records -/

@[simp] theorem ses_setSes_same (s : State) (w : Sess) (x : Session) : (s.setSes w x).ses w = x := by
  cases w <;> simp [State.setSes, State.ses]

theorem ses_setSes_other (s : State) (w v : Sess) (x : Session) (h : v ≠ w) : (s.setSes w x).ses v = s.ses v := by
  cases w <;> cases v <;> simp only [State.setSes, State.ses]
  · rename_i i j
    exact sel_put_other _ _ _ _ _ (fun e => h (by simp [Fin.ext e]))
  · rename_i i j
    exact sel_put_other _ _ _ _ _ (fun e => h (by simp [Fin.ext e]))

/-- A session's record replaced by itself reads as before. -/
theorem ses_setSes (s : State) (w v : Sess) (x : Session) : (s.setSes w x).ses v = if v = w then x else s.ses v := by
  split
  · rename_i h
    subst h
    simp
  · rename_i h
    exact ses_setSes_other s w v x h

@[simp] theorem setSes_setSes (s : State) (w : Sess) (x y : Session) : (s.setSes w x).setSes w y = s.setSes w y := by
  cases w <;> simp [State.setSes]

theorem setSes_frame (s : State) (w : Sess) (x : Session) :
    s.setSes w x = { s with host := { s.host with loc := (s.setSes w x).host.loc, rem := (s.setSes w x).host.rem } } := by
  cases w <;> rfl

/-! ### The scratchpad -/

@[simp] theorem setScratch_scratch (s : State) (a : Nat) (b : Bytes) : (s.setScratch a b).scratch a b.length = b :=
  memReadN_memWriteN b s.chip.scratch a

theorem scratch_setScratch_other (s : State) (a x n : Nat) (b : Bytes) (h : x + n ≤ a ∨ a + b.length ≤ x) :
    (s.setScratch a b).scratch x n = s.scratch x n := memReadN_memWriteN_other b s.chip.scratch a x n h

theorem setScratch_frame (s : State) (a : Nat) (b : Bytes) :
    s.setScratch a b = { s with chip := { s.chip with scratch := (s.setScratch a b).chip.scratch } } := by rfl

/-- A string of a stated length written to the scratchpad reads back. -/
theorem setScratch_scratch_n (s : State) (a n : Nat) (b : Bytes) (h : b.length = n) : (s.setScratch a b).scratch a n = b := by
  subst h
  exact setScratch_scratch s a b

theorem setScratch_append (s : State) (a : Nat) (x y : Bytes) :
    s.setScratch a (x ++ y) = (s.setScratch a x).setScratch (a + x.length) y := by
  simp only [State.setScratch, memWriteN_append]

theorem setScratch_memRead_other (s : State) (a x : Nat) (b : Bytes) (h : x < a ∨ a + b.length ≤ x) :
    memRead (s.setScratch a b).chip.scratch x = memRead s.chip.scratch x := memRead_memWriteN_other b s.chip.scratch a x h

/-- What writing a response into a slot leaves in the scratchpad (R63). -/
theorem writeSlot_scratch (s : State) (w : Sess) (c : Cmd) (status : Nat) (pay : Bytes) :
    let t := s.writeSlot w c status pay
    let b := slotBase w
    t.scratch b 2 = leB 2 c.op ∧ t.scratch (b + 2) 2 = leB 2 (c.flags ||| 0x8000).toNat ∧ t.scratch (b + 4) 4 = leB 4 c.seq.toNat ∧
    t.scratch (b + 8) 4 = s.scratch (b + 8) 4 ∧ t.scratch (b + 12) 2 = leB 2 pay.length ∧ t.scratch (b + 14) 2 = leB 2 status ∧
    t.scratch (b + 16) pay.length = pay ∧
    (∀ x, x < b ∨ b + 16 + pay.length ≤ x → memRead t.chip.scratch x = memRead s.chip.scratch x) := by
  simp only [State.writeSlot, setScratch_append, leB_length]
  refine ⟨?_, ?_, ?_, ?_, ?_, ?_, ?_, ?_⟩
  · rw [scratch_setScratch_other, setScratch_scratch_n] <;> (try simp only [leB_length]) <;> omega
  · rw [setScratch_scratch_n] <;> (try simp only [leB_length]) <;> omega
  · rw [scratch_setScratch_other, scratch_setScratch_other, setScratch_scratch_n] <;> (try simp only [leB_length]) <;> omega
  · rw [scratch_setScratch_other, scratch_setScratch_other, scratch_setScratch_other, scratch_setScratch_other, scratch_setScratch_other, scratch_setScratch_other] <;> (try simp only [leB_length]) <;> omega
  · rw [scratch_setScratch_other, scratch_setScratch_other, scratch_setScratch_other, scratch_setScratch_other, setScratch_scratch_n] <;> (try simp only [leB_length]) <;> omega
  · rw [scratch_setScratch_other, scratch_setScratch_other, scratch_setScratch_other, setScratch_scratch_n] <;> (try simp only [leB_length]) <;> omega
  · rw [scratch_setScratch_other, scratch_setScratch_other, scratch_setScratch_other, scratch_setScratch_other, scratch_setScratch_other, setScratch_scratch_n] <;> (try simp only [leB_length]) <;> omega
  · intro x hx
    rw [setScratch_memRead_other, setScratch_memRead_other, setScratch_memRead_other, setScratch_memRead_other, setScratch_memRead_other, setScratch_memRead_other] <;> (try simp only [leB_length]) <;> omega

theorem writeSlot_frame (s : State) (w : Sess) (c : Cmd) (status : Nat) (pay : Bytes) :
    s.writeSlot w c status pay = { s with chip := { s.chip with scratch := (s.writeSlot w c status pay).chip.scratch } } := by
  simp only [State.writeSlot, State.setScratch]

@[simp] theorem writeSlot_ses (s : State) (w v : Sess) (c : Cmd) (status : Nat) (pay : Bytes) :
    (s.writeSlot w c status pay).ses v = s.ses v := by
  rw [writeSlot_frame]
  cases v <;> rfl

@[simp] theorem writeSlot_host (s : State) (w : Sess) (c : Cmd) (status : Nat) (pay : Bytes) :
    (s.writeSlot w c status pay).host = s.host := by
  rw [writeSlot_frame]

@[simp] theorem writeSlot_out (s : State) (w : Sess) (c : Cmd) (status : Nat) (pay : Bytes) :
    (s.writeSlot w c status pay).out = s.out := by
  rw [writeSlot_frame]

/-! ### Signals -/

/-- What a message of a slot's vector leaves. -/
theorem slotSignal_loc (s : State) (i : Fin 64) :
    (s.slotSignal (.loc i)).out = slotMessage s i ++ s.out ∧
    s.slotSignal (.loc i) = { s with host := { s.host with pba := (s.slotSignal (.loc i)).host.pba }, out := (s.slotSignal (.loc i)).out } := by
  unfold State.slotSignal State.signal slotMessage
  dsimp only
  split
  · rename_i h1
    exact ⟨by simp_all, rfl⟩
  · split
    · exact ⟨by simp_all, rfl⟩
    · exact ⟨by simp_all [State.emit], rfl⟩

/-- A response delivered: what R50, R63, R73 and R74 say of it. -/
theorem deliver_answered (s : State) (w : Sess) (c : Cmd) (status : Nat) (pay : Bytes) :
    Answered s (s.deliver w c status pay) w c status pay := by
  obtain ⟨h1, h2, h3, h4, h5, h6, h7, h8⟩ := writeSlot_scratch s w c status pay
  have hf := writeSlot_frame s w c status pay
  generalize hu : s.writeSlot w c status pay = u at h1 h2 h3 h4 h5 h6 h7 h8 hf
  have hs : ∀ v, u.ses v = s.ses v := fun v => by rw [hf]; rfl
  cases w with
  | rem i =>
    have hd : s.deliver (.rem i) c status pay =
        (u.setSes (.rem i) { u.ses (.rem i) with cmd := none, stored := u.scratch (slotBase (.rem i)) 256 }).emit
          (.datagram (u.ses (.rem i)).port (u.ses (.rem i)).peer (u.scratch (slotBase (.rem i)) 256)) := by
      simp only [State.deliver, hu]
    rw [hd]
    refine ⟨h1, h2, h3, h4, h5, h6, h7, h8, ?_, ?_, ?_, ?_⟩
    · refine (ses_setSes_same u (.rem i) _).trans ?_
      rw [hs]
      rfl
    · intro v hv
      exact (ses_setSes_other u (.rem i) v _ hv).trans (hs v)
    · rw [hf]; rfl
    · rw [hf]; rfl
  | loc i =>
    have hd : s.deliver (.loc i) c status pay =
        (if c.irq then (u.setSes (.loc i) { u.ses (.loc i) with cmd := none }).slotSignal (.loc i)
         else u.setSes (.loc i) { u.ses (.loc i) with cmd := none }) := by
      simp only [State.deliver, hu]
    rw [hd]
    generalize hx : u.setSes (.loc i) { u.ses (.loc i) with cmd := none } = x
    have hxs : ∀ v, x.ses v = if v = .loc i then { s.ses (.loc i) with cmd := none } else s.ses v := fun v => by
      rw [← hx, ses_setSes, hs, hs]
    have hxf : x = { s with chip := { s.chip with scratch := x.chip.scratch }, host := { s.host with loc := x.host.loc } } := by
      rw [← hx, hf]; rfl
    have hxc : x.chip = u.chip := by rw [← hx]; rfl
    obtain ⟨g1, g2⟩ := slotSignal_loc x i
    generalize hy : x.slotSignal (.loc i) = y at g1 g2
    have hys : ∀ v, y.ses v = x.ses v := fun v => by rw [g2]; cases v <;> rfl
    have hyc : y.chip = u.chip := by rw [g2, ← hxc]
    have hm : slotMessage x i = slotMessage s i := by rw [hxf]; rfl
    have hxo : x.out = s.out := by rw [hxf]
    have e (z : State) (hz : z.chip = u.chip) (a n : Nat) : z.scratch a n = u.scratch a n := by simp only [State.scratch, hz]
    cases hq : c.irq <;> simp only [Bool.false_eq_true, if_false, if_true]
    · refine ⟨?_, ?_, ?_, ?_, ?_, ?_, ?_, ?_, ?_, ?_, ?_, ?_⟩ 
      · rw [e x hxc, h1]
      · rw [e x hxc, h2]
      · rw [e x hxc, h3]
      · rw [e x hxc, h4]
      · rw [e x hxc, h5]
      · rw [e x hxc, h6]
      · rw [e x hxc, h7]
      · rw [hxc]; exact h8
      · rw [hxs, if_pos rfl]
      · intro v hv; rw [hxs, if_neg hv]
      · simp only [hq, Bool.false_eq_true, if_false]; exact hxo
      · rw [hxf]
    · refine ⟨?_, ?_, ?_, ?_, ?_, ?_, ?_, ?_, ?_, ?_, ?_, ?_⟩
      · rw [e y hyc, h1]
      · rw [e y hyc, h2]
      · rw [e y hyc, h3]
      · rw [e y hyc, h4]
      · rw [e y hyc, h5]
      · rw [e y hyc, h6]
      · rw [e y hyc, h7]
      · rw [hyc]; exact h8
      · rw [hys, hxs, if_pos rfl]
      · intro v hv; rw [hys, hxs, if_neg hv]
      · simp only [hq, if_true]; rw [g1, hm, hxo]
      · rw [g2, hxf]

/-! ### Executing an accepted command -/

/-- The slot holds a command of the opcode: its answer is what its meaning gives. -/
theorem runCmd_eq (s : State) (w : Sess) (c : Cmd) (op : Nat) (f : Cmd → Reply) (hc : (s.ses w).cmd = some c) (ho : c.op = op) :
    s.runCmd w op f = s.reply w c (f c) := by
  simp only [State.runCmd, hc, ho, ne_eq, not_true, if_false]

/-- A final answer is delivered. -/
theorem reply_done (s t : State) (w : Sess) (c : Cmd) (status : Nat) (pay : Bytes) :
    s.reply w c (.done status pay t) = t.deliver w c status pay := by rfl

/-- A queue with room gives no error. -/
theorem queueCheck_ok (s : State) (w : Sess) (h : HasRoom s w) : s.queueCheck w = St.ok := by
  obtain ⟨q, hq, hr⟩ := h
  simp only [State.queueCheck, hq]
  rw [if_neg (by omega)]

/-- A command that answers PENDING, with room in its queue. -/
theorem reply_pend (s t : State) (w : Sess) (c : Cmd) (obj : Nat) (data pay : Bytes) (hq : HasRoom s w) :
    s.reply w c (.pend obj t data pay) = (t.reserve w c obj data).deliver w c St.pending pay := by
  simp only [State.reply, queueCheck_ok s w hq, if_true]

/-- A command of another opcode, or none, leaves the state. -/
theorem runCmd_other (s : State) (w : Sess) (op : Nat) (f : Cmd → Reply) (h : ∀ c, (s.ses w).cmd = some c → c.op ≠ op) :
    s.runCmd w op f = s := by
  unfold State.runCmd
  split
  · rfl
  · rename_i c hc
    rw [if_pos (h c hc)]

/-- A final answer, as the statements say it. -/
theorem reply_answered (s t : State) (w : Sess) (c : Cmd) (status : Nat) (pay : Bytes) :
    Answered t (s.reply w c (.done status pay t)) w c status pay := deliver_answered t w c status pay

/-- An answer PENDING, as the statements say it. -/
theorem reply_waiting (s t : State) (w : Sess) (c : Cmd) (obj : Nat) (data pay : Bytes) (hq : HasRoom s w) :
    Waiting t (s.reply w c (.pend obj t data pay)) w c obj data pay := by
  rw [reply_pend s t w c obj data pay hq]
  exact deliver_answered _ _ _ _ _

/-- The checks of a plain command pass. -/
theorem plain_ok (s : State) (c : Cmd) (n : Nat) (k : Reply) (hd : c.dma = false) (hn : c.pay.length = n) : plain s c n k = k := by
  simp [plain, hd, hn]

/-- The checks of a DMA command pass. -/
theorem dmaForm_ok (s : State) (c : Cmd) (n : Nat) (l : List DmaDesc) (arg : Bytes) (k : List DmaDesc → Bytes → Reply) (hd : c.dma = true)
    (hp : c.pay.length % 16 = 0) (hl : parseList 15 c.pay = some (l, arg)) (hn : arg.length = n) : dmaForm s c n k = k l arg := by
  simp [dmaForm, hd, hp, hl, hn]

/-- A condition that holds. -/
theorem need_ok (s : State) (b : Bool) (st : Nat) (k : Reply) (h : b = true) : need s b st k = k := by
  simp [need, h]

/-- Outside UPDATING every command goes on. -/
theorem vet_ok (s : State) (k : Reply) (h : s.pwr.kind ≠ 2) : vet s k = k := by
  simp [vet, h]

/-- Outside RETIRED every command goes on. -/
theorem notRetired_ok (s : State) (k : Reply) (h : s.otp.lc ≠ 4) : notRetired s k = k := by
  simp [notRetired, h]

/-- A session with a completion queue. -/
theorem hasQueue_ok (s : State) (w : Sess) (k : Reply) (h : HasRoom s w) : hasQueue s w k = k := by
  obtain ⟨q, hq, -⟩ := h
  simp [hasQueue, hq]

/-! ### The passing of time leaves the host window -/

@[simp] theorem pass_ses (s : State) (dt : Nat) (w : Sess) : (s.pass dt).ses w = s.ses w := by
  cases w <;> rfl

/-! ### Completion entries -/

/-- The completion of a PENDING command: what R50, R68, R69 and R75 say of it. -/
theorem completeObj_posted (s : State) (p : Pend) (q : Cq) (status obj result unit : Nat) (hq : (s.ses p.who).cq = some q) :
    Posted s (s.completeObj p status obj result unit) p status obj result unit := by
  have hu : ∀ v, (s.unpend p.who p.cmd.seq).ses v = s.ses v := fun v => by cases v <;> rfl
  have ht : (s.unpend p.who p.cmd.seq).t32 = s.t32 := by rfl
  refine ⟨q, hq, ?_⟩
  simp only [State.completeObj, State.post, hu, hq, ht]
  generalize hx : ({ q with reserved := q.reserved - 1, used := q.used + 1, tail := if (q.tail + 1 == q.depth) = true then 0 else q.tail + 1,
                            phase := if (q.tail + 1 == q.depth) = true then !q.phase else q.phase } : Cq) = q'
  obtain ⟨w, c, ob, ap, da⟩ := p
  cases w with
  | loc i =>
    dsimp only
    generalize hy : (((s.unpend (.loc i) c.seq).setSes (.loc i) { s.ses (.loc i) with cq := some q' }).emit
      (.hostWrite (q.base + BitVec.ofNat 64 (32 * q.tail)) (entryBytes c.seq c.op status c.epoch unit q.phase obj result s.t32))) = y
    have hyf : y = { s with host := { s.host with loc := y.host.loc, pends := y.host.pends }, out := y.out } := by rw [← hy]; rfl
    have hyo : y.out = .hostWrite (q.base + BitVec.ofNat 64 (32 * q.tail)) (entryBytes c.seq c.op status c.epoch unit q.phase obj result s.t32) :: s.out := by
      rw [← hy]; rfl
    have hyp : y.host.pends = s.host.pends.eraseP (fun x => x.who == .loc i && x.cmd.seq == c.seq) := by rw [← hy]; rfl
    have hys : ∀ v, y.ses v = if v = .loc i then { s.ses (.loc i) with cq := some q' } else s.ses v := fun v => by
      rw [← hy]
      show ((s.unpend (.loc i) c.seq).setSes (.loc i) _).ses v = _
      rw [ses_setSes, hu]
    obtain ⟨g1, g2⟩ := slotSignal_loc y i
    have hm : slotMessage y i = slotMessage s i := by rw [hyf]; rfl
    generalize y.slotSignal (.loc i) = z at g1 g2
    have hzs : ∀ v, z.ses v = y.ses v := fun v => by rw [g2]; cases v <;> rfl
    refine ⟨?_, ?_, ?_, ⟨?_, ?_⟩, ?_⟩
    · rw [g2]; exact hyp
    · rw [hzs, hys, if_pos rfl]
    · intro v hv; rw [hzs, hys, if_neg hv]
    · rw [g1, hm, hyo]
    · rw [g2, hyf]
    · rw [g2, hyf]
  | rem i =>
    dsimp only
    generalize hv : (s.unpend (.rem i) c.seq).setScratch (0x10000 + 2048 * i.val + 32 * q.tail)
      (entryBytes c.seq c.op status c.epoch unit q.phase obj result s.t32) = v
    have hvs : ∀ u, v.ses u = s.ses u := fun u => by rw [← hv]; cases u <;> rfl
    have hvf : v = { s with host := { s.host with pends := v.host.pends }, chip := { s.chip with scratch := v.chip.scratch } } := by rw [← hv]; rfl
    refine ⟨?_, ?_, ?_, ⟨?_, ?_, ?_⟩, ?_⟩
    · rw [← hv]; rfl
    · show (((v.setSes (.rem i) _).ses (.rem i)).cq) = _
      rw [ses_setSes_same]
    · intro u hu'
      show (v.setSes (.rem i) _).ses u = _
      rw [ses_setSes_other _ _ _ _ hu', hvs]
    · rw [hvf]; rfl
    · show ((v.setSes (.rem i) _).ses (.rem i)).entries = _
      rw [ses_setSes_same]
      show _ ++ [(_, _, v.now)] = _
      rw [show v.now = s.now from by rw [← hv]; rfl]
    · show v.scratch _ 32 = _
      rw [← hv]
      exact setScratch_scratch_n _ _ _ _ (by simp [entryBytes])
    · rw [hvf]; rfl

theorem complete_posted (s : State) (p : Pend) (q : Cq) (status result unit : Nat) (hq : (s.ses p.who).cq = some q) :
    Posted s (s.complete p status result unit) p status p.obj.toNat result unit :=
  completeObj_posted s p q status p.obj.toNat result unit hq

/-- The work of a listed PENDING command of one of the opcodes ends. -/
theorem finish_some (s : State) (w : Sess) (seq : BitVec 32) (ops : List Nat) (f : Pend → State) (p : Pend)
    (hp : s.pend? w seq = some p) (ho : p.cmd.op ∈ ops) : s.finish w seq ops f = f p := by
  simp [State.finish, hp, ho]

/-- A listed PENDING command is the session's and has the sequence. -/
theorem pend_who (s : State) (w : Sess) (seq : BitVec 32) (p : Pend) (hp : s.pend? w seq = some p) : p.who = w ∧ p.cmd.seq = seq := by
  have := List.find?_some hp
  simpa using this

/-! ### The failing path of a command and the end of a session -/

/-- What the failing path of a command can touch. -/
theorem undo_frame (s : State) (p : Pend) :
    s.undo p = { s with lib := (s.undo p).lib, chip := (s.undo p).chip, cam := (s.undo p).cam, links := (s.undo p).links,
                        time := (s.undo p).time, mgmt := (s.undo p).mgmt } := by
  simp only [State.undo, State.emptyJob, State.setJob]
  repeat' split
  all_goals rfl

@[simp] theorem undo_host (s : State) (p : Pend) : (s.undo p).host = s.host := by
  rw [undo_frame]

/-- The failing paths of several commands touch no more. -/
theorem undos_frame (l : List Pend) (s : State) :
    ∃ a b c d e f, l.foldl State.undo s = { s with lib := a, chip := b, cam := c, links := d, time := e, mgmt := f } := by
  induction l generalizing s with
  | nil => exact ⟨s.lib, s.chip, s.cam, s.links, s.time, s.mgmt, by rfl⟩
  | cons p t ih =>
    obtain ⟨a, b, c, d, e, f, h⟩ := ih (s.undo p)
    exact ⟨a, b, c, d, e, f, by rw [List.foldl_cons, h, undo_frame]⟩

/-- What the end of a session can touch, and what it leaves of the session (R58). -/
theorem endSession_law (s : State) (w : Sess) :
    (∃ a b c d e f g h, s.endSession w = { s with lib := a, chip := b, cam := c, links := d, time := e, mgmt := f, flash := g, host := h }) ∧
    (s.endSession w).ses w = { s.ses w with isOpen := false, cmd := none, cq := none, lastSeq := none, stored := [], entries := [],
                                            last := (s.ses w).token } ∧
    (∀ v, v ≠ w → (s.endSession w).ses v = s.ses v) ∧
    (s.endSession w).host = { s.host with loc := (s.endSession w).host.loc, rem := (s.endSession w).host.rem, bar2 := (s.endSession w).host.bar2,
                                          pends := s.host.pends.filter (fun p => !(p.who == w)) } := by
  obtain ⟨a, b, c, d, e, f, h⟩ := undos_frame (s.host.pends.filter (fun p => p.who == w && p.cmd.op != 0x0B04)) s
  unfold State.endSession
  dsimp only
  rw [h]
  generalize hs1 : State.closeWindow _ w = s1
  have h1 : ∃ l b2, s1 = { s with
      lib := l, chip := b, cam := c, links := d, time := e, mgmt := f,
      host := { s.host with pends := s.host.pends.filter (fun p => !(p.who == w)), bar2 := b2 } } := by
    rw [← hs1]
    unfold State.closeWindow
    split
    · split
      · exact ⟨_, none, by rfl⟩
      · exact ⟨a, s.host.bar2, by rfl⟩
    · exact ⟨a, s.host.bar2, by rfl⟩
  obtain ⟨l, b2, h1⟩ := h1
  generalize hs2 : (if (s1.mgmt.upd.who == some w) = true then _ else _ : State) = s2
  have h2 : ∃ l c e g, s2 = { s with
      lib := l, chip := b, cam := c, links := d, time := e, mgmt := s2.mgmt, flash := g,
      host := { s.host with pends := s.host.pends.filter (fun p => !(p.who == w)), bar2 := b2 } } := by
    rw [← hs2, h1]
    split
    · exact ⟨_, _, _, _, by rfl⟩
    · exact ⟨_, _, _, s.flash, by rfl⟩
  obtain ⟨l', c', e', g', h2⟩ := h2
  have hs : ∀ v, s2.ses v = s.ses v := fun v => by rw [h2]; cases v <;> rfl
  refine ⟨?_, ?_, ?_, ?_⟩
  · rw [h2]
    cases w <;> exact ⟨_, _, _, _, _, _, _, _, by rfl⟩
  · rw [ses_setSes_same, hs]
  · intro v hv; rw [ses_setSes_other _ _ _ _ hv, hs]
  · rw [h2]; cases w <;> rfl

end Sys2Proof.Machine
end

