-- ==== Sys2Proof/Laws/Faults.lean ====
section
/-!
SUPPORT. Laws of the event bits, the event log, the ceiling's outputs and the fault collector.
-/
namespace Sys2Proof.Machine

/-! ### What hits touch -/

theorem Touched.refl (s : State) : Touched s s := by
  unfold Touched; rfl

theorem Touched.trans {s t u : State} (h : Touched s t) (k : Touched t u) : Touched s u := by
  unfold Touched at *
  rw [k, h]

/-- Fields a hit does not touch. -/
theorem Touched.fields {s t : State} (h : Touched s t) :
    t.params = s.params ∧ t.clk = s.clk ∧ t.pwr = s.pwr ∧ t.lib = s.lib ∧ t.splice = s.splice ∧ t.fire = s.fire ∧ t.chip = s.chip ∧
    t.lanes = s.lanes ∧ t.spares = s.spares ∧ t.links = s.links ∧ t.raster = s.raster ∧ t.grates = s.grates ∧ t.otp = s.otp ∧ t.time = s.time ∧
    t.cam = s.cam ∧ t.loop = s.loop ∧ t.ddr = s.ddr ∧ t.vbat = s.vbat ∧ t.flash = s.flash ∧ t.ledger = s.ledger ∧ t.ember = s.ember ∧
    t.draught = s.draught ∧ t.sec = s.sec ∧ t.pending = s.pending ∧ (∀ w, t.ses w = s.ses w) ∧ t.host.pends = s.host.pends ∧
    t.faults.shadows = s.faults.shadows ∧ t.faults.on = s.faults.on := by
  unfold Touched at h
  rw [h]
  exact ⟨rfl, rfl, rfl, rfl, rfl, rfl, rfl, rfl, rfl, rfl, rfl, rfl, rfl, rfl, rfl, rfl, rfl, rfl, rfl, rfl, rfl, rfl, rfl, rfl,
    fun w => by cases w <;> rfl, rfl, rfl, rfl⟩

/-! ### Signals, events, log and ceiling -/

/-- A message touches only the pending bits and the outputs. -/
theorem signal_frame (s : State) (v : Nat) :
    ∃ p o, s.signal v = { s with host := { s.host with pba := p }, out := o } := by
  unfold State.signal
  split
  · exact ⟨s.host.pba, s.out, by rfl⟩
  · split
    · exact ⟨_, s.out, by rfl⟩
    · exact ⟨s.host.pba, _, by rfl⟩

/-- An event bit touches only the event bits, the pending bits and the outputs, and is set afterwards. -/
theorem event_frame (s : State) (k : Nat) :
    ∃ e p o, s.event k = { s with host := { s.host with events := e, pba := p }, out := o } := by
  unfold State.event
  split
  · exact ⟨s.host.events, s.host.pba, s.out, by rfl⟩
  · obtain ⟨p, o, h⟩ := signal_frame { s with host := { s.host with events := s.host.events ||| BitVec.ofNat 4 (2 ^ k) } } k
    exact ⟨_, p, o, by rw [h]⟩

theorem event_set (s : State) (k : Nat) (hk : k < 4) : (s.event k).host.events.getLsbD k = true := by
  unfold State.event
  split
  · assumption
  · obtain ⟨p, o, h⟩ := signal_frame { s with host := { s.host with events := s.host.events ||| BitVec.ofNat 4 (2 ^ k) } } k
    rw [h]
    have : k = 0 ∨ k = 1 ∨ k = 2 ∨ k = 3 := by omega
    rcases this with rfl | rfl | rfl | rfl <;> simp <;> decide

/-- A log entry touches only the log and the free values. -/
theorem log_frame (s : State) (k m n : Nat) (a : Option (BitVec 32)) (c : Option Nat) (d : Option (BitVec 32)) :
    ∃ g x u v w f, s.log k m n a c d =
      { s with mgmt := { s.mgmt with log := g, nextSeq := x, uncop := u, lostNow := v, lostAll := w }, free := f } :=
  ⟨_, _, _, _, _, _, by rfl⟩

theorem emits_frame (s : State) (l : List Output) : ∃ o, s.emits l = { s with out := o } := ⟨_, by rfl⟩

/-- The ceiling datagrams touch only the sequence and the outputs (R315). -/
theorem sendCeil_law (s : State) : ∃ q o, s.sendCeil = { s with motion := { s.motion with seq := q }, out := o } := by
  have hf : ∀ (l : List Nat) (s : State), ∃ q o, l.foldl State.sendCeilOn s = { s with motion := { s.motion with seq := q }, out := o } := by
    intro l
    induction l with
    | nil => exact fun s => ⟨s.motion.seq, s.out, by rfl⟩
    | cons p t ih => intro s; obtain ⟨q, o, h⟩ := ih (s.sendCeilOn p); exact ⟨q, o, by rw [List.foldl_cons, h]; rfl⟩
  unfold State.sendCeil
  split
  · exact ⟨s.motion.seq, s.out, by rfl⟩
  · exact hf _ s

theorem sendCeil_frame (s : State) : ∃ m o, s.sendCeil = { s with motion := m, out := o } := by
  obtain ⟨q, o, h⟩ := sendCeil_law s
  exact ⟨_, o, h⟩

/-- The motion unit after the outputs have followed the ceiling (R314 to R316, R509), apart from the datagrams' sequence and flags. -/
def followed (s : State) : Motion :=
  if s.ceiling = s.motion.ceilWas then s.motion
  else { s.motion with ceilWas := s.ceiling, ceilT32 := s.t32, fellAt := if s.ceiling < s.motion.ceilWas then s.now else s.motion.fellAt,
                       slewAt := if s.dacCode s.ceiling < s.dacNow then none else s.motion.slewAt }

/-- What the outputs that follow the ceiling touch: the motion unit's record of them and the outputs. -/
theorem refresh_law (s : State) :
    ∃ q f k o, s.refresh = { s with motion := { followed s with dacWas := k, seq := q, flagsWas := f }, out := o } := by
  unfold State.refresh
  dsimp only
  generalize hs1 : (if s.ceiling = s.motion.ceilWas then s else _) = s1
  have h1 : s1 = { s with motion := followed s } := by
    rw [← hs1]
    unfold followed
    split <;> rfl
  generalize hs2 : (if s1.dacNow ≠ s1.motion.dacWas then _ else s1) = s2
  have h2 : ∃ k o, s2 = { s with motion := { followed s with dacWas := k }, out := o } := by
    rw [← hs2]
    split
    · exact ⟨s1.dacNow, _, by rw [h1]; rfl⟩
    · exact ⟨(followed s).dacWas, s.out, by rw [h1]⟩
  generalize hs3 : (if (bit s1.ceilFlags 0 != bit s2.motion.flagsWas 0) = true then _ else s2) = s3
  have h3 : ∃ k o, s3 = { s with motion := { followed s with dacWas := k }, out := o } := by
    obtain ⟨k, o, h⟩ := h2
    rw [← hs3]
    split
    · exact ⟨k, _, by rw [h]; rfl⟩
    · exact ⟨k, o, h⟩
  obtain ⟨k, o, h⟩ := h3
  split
  · obtain ⟨q, o', h'⟩ := sendCeil_law { s3 with motion := { s3.motion with flagsWas := s1.ceilFlags } }
    exact ⟨q, s1.ceilFlags, k, o', by rw [h', h]⟩
  · exact ⟨(followed s).seq, (followed s).flagsWas, k, o, by rw [h]⟩

/-- The outputs that follow the ceiling touch only the motion unit's record of them and the outputs. -/
theorem refresh_frame (s : State) : ∃ a b c d k q f o, s.refresh = { s with
    motion := { s.motion with ceilWas := a, ceilT32 := b, fellAt := c, slewAt := d, dacWas := k, seq := q, flagsWas := f }, out := o } := by
  obtain ⟨q, f, k, o, h⟩ := refresh_law s
  refine ⟨(followed s).ceilWas, (followed s).ceilT32, (followed s).fellAt, (followed s).slewAt, k, q, f, o, ?_⟩
  rw [h]
  unfold followed
  split <;> rfl

theorem refresh_touched (s : State) : Touched s s.refresh := by
  obtain ⟨a, b, c, d, k, q, f, o, h⟩ := refresh_frame s
  unfold Touched
  rw [h]

theorem event_touched (s : State) (k : Nat) : Touched s (s.event k) := by
  obtain ⟨e, p, o, h⟩ := event_frame s k
  unfold Touched
  rw [h]

theorem log_touched (s : State) (k m n : Nat) (a : Option (BitVec 32)) (c : Option Nat) (d : Option (BitVec 32)) :
    Touched s (s.log k m n a c d) := by
  unfold Touched; rfl

/-! ### Sources -/

@[simp] theorem src_setSrc_same (s : State) (n : Nat) (x : Source) : (s.setSrc n x).src n = x := by
  simp [State.src, State.setSrc]

theorem src_setSrc_other (s : State) (n m : Nat) (x : Source) (h : m ≠ n) : (s.setSrc n x).src m = s.src m :=
  sel_put_other _ _ _ _ _ h

theorem setSrc_frame (s : State) (n : Nat) (x : Source) : ∃ m, s.setSrc n x = { s with faults := { s.faults with src := m } } := ⟨_, by rfl⟩

theorem setSrc_touched (s : State) (n : Nat) (x : Source) : Touched s (s.setSrc n x) := by
  unfold Touched; rfl

/-- The log entry of a hit keeps every source but for the record of its last entry. -/
theorem logHit_frame (s : State) (n a master : Nat) :
    Touched s (s.logHit n a master) ∧ (s.logHit n a master).faults.fer = s.faults.fer ∧ (s.logHit n a master).host = s.host ∧
      (∀ k, k ≠ n → (s.logHit n a master).src k = s.src k) ∧
      ∃ l u, (s.logHit n a master).src n = { s.src n with logAt := l, unlogged := u } := by
  unfold State.logHit
  dsimp only
  split
  · exact ⟨(setSrc_touched s n _).trans (log_touched _ _ _ _ _ _ _), by rfl, by rfl, fun k hk => src_setSrc_other s n k _ hk, _, _,
      src_setSrc_same s n _⟩
  · exact ⟨setSrc_touched s n _, by rfl, by rfl, fun k hk => src_setSrc_other s n k _ hk, _, _, src_setSrc_same s n _⟩

theorem record_frame (s : State) (n a master access : Nat) :
    ∃ f, s.record n a master access = { s with faults := { s.faults with fer := f } } ∧ 
      (s.faults.fer.valid = false →
        f = { valid := true, source := n, addr := BitVec.ofNat 32 a, master := master, access := access, t32 := s.t32, atT := s.now }) := by
  refine ⟨_, by rfl, fun h => ?_⟩
  simp [h]

theorem record_touched (s : State) (n a master access : Nat) : Touched s (s.record n a master access) := by
  unfold Touched; rfl

/-- A hit before its reaction's own effect: counted, recorded and logged. -/
theorem react_common (s : State) (n a master access : Nat) :
    let x := s.src n
    let s1 := s.setSrc n { x with sticky := true, hits := sat 16 (x.hits + 1) }
    let s2 : State := if isFbSource n then { s1 with fb := { s1.fb with srcRec := true } } else s1
    let s3 := (s2.record n a master access).logHit n a master
    let s4 := if 2 ≤ s.reaction n then s3.event evFault else s3
    Touched s s2 ∧ s2.faults.fer = s.faults.fer ∧ s2.mgmt = s.mgmt ∧ s2.out = s.out ∧
      (∀ k, s2.src k = if k = n then { x with sticky := true, hits := sat 16 (x.hits + 1) } else s.src k) ∧
      Touched s s4 ∧
      (∀ k, k ≠ n → s4.src k = s.src k) ∧
      (∃ l u, s4.src n = { x with sticky := true, hits := sat 16 (x.hits + 1), logAt := l, unlogged := u }) ∧
      (s.faults.fer.valid = false →
        s4.faults.fer = { valid := true, source := n, addr := BitVec.ofNat 32 a, master := master, access := access, t32 := s.t32, atT := s.now }) ∧
      (2 ≤ s.reaction n → s4.host.events.getLsbD evFault = true) := by
  intro x s1 s2 s3 s4
  have hs1 : ∀ k, s1.src k = if k = n then { x with sticky := true, hits := sat 16 (x.hits + 1) } else s.src k := fun k => by
    by_cases hk : k = n
    · rw [if_pos hk, hk]; exact src_setSrc_same s n _
    · rw [if_neg hk]; exact src_setSrc_other s n k _ hk
  have h2 : s2 = s1 ∨ s2 = { s1 with fb := { s1.fb with srcRec := true } } := by
    by_cases hb : isFbSource n = true
    · exact .inr (if_pos hb)
    · exact .inl (if_neg hb)
  have ts : Touched s s1 := setSrc_touched s n _
  have t2 : Touched s s2 := by
    rcases h2 with h | h
    · rw [h]; exact ts
    · rw [h]; exact ts.trans (by unfold Touched; rfl)
  have hs2 : ∀ k, s2.src k = s1.src k := fun k => by rcases h2 with h | h <;> rw [h] <;> rfl
  have hf2 : s2.faults.fer = s.faults.fer ∧ s2.mgmt = s.mgmt ∧ s2.out = s.out ∧ s2.t32 = s.t32 ∧ s2.now = s.now := by
    rcases h2 with h | h <;> rw [h] <;> exact ⟨rfl, rfl, rfl, rfl, rfl⟩
  obtain ⟨v, h3, hv⟩ := record_frame s2 n a master access
  obtain ⟨h4, h4f, h4h, ho, l, u, hn⟩ := logHit_frame (s2.record n a master access) n a master
  have hsr : ∀ k, (s2.record n a master access).src k = s1.src k := fun k => by rw [h3, ← hs2]; rfl
  have t3 : Touched s s3 := t2.trans ((record_touched s2 n a master access).trans h4)
  have hk3 : ∀ k, k ≠ n → s3.src k = s.src k := fun k hk => by
    show ((s2.record n a master access).logHit n a master).src k = _
    rw [ho k hk, hsr, hs1, if_neg hk]
  have hn3 : s3.src n = { x with sticky := true, hits := sat 16 (x.hits + 1), logAt := l, unlogged := u } := by
    show ((s2.record n a master access).logHit n a master).src n = _
    rw [hn, hsr, hs1, if_pos rfl]
  have hv3 : s.faults.fer.valid = false → s3.faults.fer =
        { valid := true, source := n, addr := BitVec.ofNat 32 a, master := master, access := access, t32 := s.t32, atT := s.now } := fun h => by
    show ((s2.record n a master access).logHit n a master).faults.fer = _
    have := hv (by rw [hf2.1]; exact h)
    rw [h4f, h3, this, hf2.2.2.2.1, hf2.2.2.2.2]
  refine ⟨t2, hf2.1, hf2.2.1, hf2.2.2.1, fun k => by rw [hs2, hs1], ?_⟩
  by_cases hr : 2 ≤ s.reaction n
  · have h4' : s4 = s3.event evFault := if_pos hr
    obtain ⟨e, p, o, he⟩ := event_frame s3 evFault
    refine ⟨by rw [h4']; exact t3.trans (event_touched _ _), ?_, ⟨l, u, ?_⟩, fun hv => ?_, fun _ => ?_⟩
    · intro k hk; rw [h4', he]; exact hk3 k hk
    · rw [h4', he]; exact hn3
    · rw [h4', he]; exact hv3 hv
    · rw [h4']; exact event_set s3 evFault (by decide)
  · have h4' : s4 = s3 := if_neg hr
    refine ⟨by rw [h4']; exact t3, ?_, ⟨l, u, ?_⟩, fun hv => ?_, fun h => absurd h hr⟩
    · rw [h4']; exact hk3
    · rw [h4']; exact hn3
    · rw [h4']; exact hv3 hv

/-- What the reactions 0 to 5 and 8 of a hit leave. -/
theorem react_counted (s : State) (n a master access : Nat) : Counted s (s.react n a master access) n a master access := by
  obtain ⟨t2, f2, g2, o2, h2, t4, hk, ⟨l, u, hn⟩, hv, he⟩ := react_common s n a master access
  unfold State.react
  dsimp only at t2 f2 g2 o2 h2 t4 hk hn hv he ⊢
  generalize (if isFbSource n = true then _ else _ : State) = s2 at t2 f2 g2 o2 h2 t4 hk hn hv he ⊢
  by_cases h0 : s.reaction n = 0
  · rw [if_pos h0]
    have hsn : s2.src n = { s.src n with sticky := true, hits := sat 16 ((s.src n).hits + 1) } := by
      rw [h2, if_pos rfl]
    refine ⟨by rw [hsn], by rw [hsn], by rw [hsn], ?_, fun h => absurd h0 h, fun _ => ⟨f2, g2, o2⟩, fun h => ?_, fun h => ?_, fun h => ?_, fun h => ?_,
      fun h => ?_, t2⟩
    · intro k hk; rw [h2, if_neg hk]
    all_goals omega
  · rw [if_neg h0]
    generalize (if 2 ≤ s.reaction n then _ else _ : State) = s4 at t4 hk hn hv he ⊢
    have hset : ∀ x k, (s4.setSrc n x).src k = if k = n then x else s.src k := fun x k => by
      by_cases h : k = n
      · rw [if_pos h, h]; exact src_setSrc_same _ _ _
      · rw [if_neg h, src_setSrc_other _ _ _ _ h, hk k h]
    -- a state that has the source's entry `x` and otherwise differs little from `s4`
    have fin : ∀ (x : Source) (t : State), Touched (s4.setSrc n x) t → t.faults = (s4.setSrc n x).faults → t.host = s4.host →
        x.sticky = true → x.hits = sat 16 ((s.src n).hits + 1) → x.conds = (s.src n).conds →
        (s.reaction n = 3 → x.slots = (s.muteSlots n a).foldl addTo (s.src n).slots) →
        (s.reaction n = 4 → x.slots = (((s.muteBar n a).map barSlots).getD []).foldl addTo (s.src n).slots) →
        (s.reaction n = 5 → x.hold = true) → (s.reaction n = 8 → x.press = true) → Counted s t n a master access := by
      intro x t ht hf hh x1 x2 x3 x4 x5 x6 x7
      have hs : ∀ k, t.src k = if k = n then x else s.src k := fun k => by
        rw [← hset]
        simp only [State.src, hf]
      have hsn : t.src n = x := by rw [hs, if_pos rfl]
      refine ⟨by rw [hsn, x1], by rw [hsn, x2], by rw [hsn, x3], fun k hk => by rw [hs, if_neg hk], fun _ hf' => ?_, fun h => absurd h h0,
        fun h => by rw [hsn, x4 h], fun h => by rw [hsn, x5 h], fun h => by rw [hsn, x6 h], fun h => by rw [hsn, x7 h], fun h => ?_,
        t4.trans ((setSrc_touched s4 n x).trans ht)⟩
      · rw [hf]; exact hv hf'
      · rw [hh]; exact he h
    split
    · refine fin _ _ (.refl _) (by rfl) (by rfl) ?_ ?_ ?_ ?_ ?_ ?_ ?_ <;> try (intro h; omega)
      all_goals simp only [hn]
      intro _
      have : s4.muteSlots n a = s.muteSlots n a := by
        unfold Touched at t4
        rw [t4]; rfl
      rw [this]
    · split
      · refine fin _ _ (.refl _) (by rfl) (by rfl) ?_ ?_ ?_ ?_ ?_ ?_ ?_ <;> try (intro h; omega)
        all_goals simp only [hn]
        intro _
        have : s4.muteBar n a = s.muteBar n a := by
          unfold Touched at t4
          rw [t4]; rfl
        rw [this]
      · split
        · split
          · refine fin { s4.src n with hold := true } _ (by unfold Touched; rfl) (by rfl) (by rfl) ?_ ?_ ?_ ?_ ?_ ?_ ?_ <;> try (intro h; omega)
            all_goals simp [hn]
          · refine fin { s4.src n with hold := true } _ (.refl _) (by rfl) (by rfl) ?_ ?_ ?_ ?_ ?_ ?_ ?_ <;> try (intro h; omega)
            all_goals simp [hn]
        · split
          · obtain ⟨_, _, _, _, _, _, _, _, hm⟩ := refresh_frame (s4.setSrc n { s4.src n with press := true })
            refine fin { s4.src n with press := true } _ (refresh_touched _) (by rw [hm]) (by rw [hm]; rfl) ?_ ?_ ?_ ?_ ?_ ?_ ?_ <;>
              try (intro h; omega)
            all_goals simp [hn]
          · refine ⟨by rw [hn], by rw [hn], by rw [hn], hk, fun _ hf => hv hf, fun h => absurd h h0, fun h => by omega, fun h => by omega,
              fun h => by omega, fun h => by omega, he, t4⟩

/-- The condition of a level source is listed once. -/
theorem addCond_frame (s : State) (n a : Nat) :
    ∃ m, s.addCond n a = { s with faults := { s.faults with src := m } } ∧ (∀ k, k ≠ n → (s.addCond n a).src k = s.src k) ∧
      (s.addCond n a).src n =
        { s.src n with conds := if isLevel n then addTo (s.src n).conds (BitVec.ofNat 32 a) else (s.src n).conds } := by
  unfold State.addCond
  split
  · exact ⟨_, by rfl, fun k hk => src_setSrc_other _ _ _ _ hk, src_setSrc_same _ _ _⟩
  · exact ⟨s.faults.src, by rfl, fun _ _ => rfl, rfl⟩

/-- What a hit that the collector takes leaves. -/
theorem hit_recorded (s : State) (n a master access : Nat) (h : Takes s n a master) :
    Recorded s (s.hit n a master access) n a master access := by
  obtain ⟨hon, hsh, h6, h7⟩ := h
  obtain ⟨m, hf, hk, hn⟩ := addCond_frame s n a
  have hc := react_counted (s.addCond n a) n a master access
  have e : s.hit n a master access = (s.addCond n a).react n a master access := by
    have e1 : (s.addCond n a).faults.on = true := by rw [hf]; exact hon
    have e2 : (s.addCond n a).shadowed n a master = false := by rw [hf]; exact hsh
    have e3 : (s.addCond n a).reaction n = s.reaction n := by rw [hf]; rfl
    unfold State.hit State.register
    rw [hon, e1, e2, e3]
    simp only [Bool.not_true, Bool.false_eq_true, if_false, h6, h7]
  rw [e]
  have er : (s.addCond n a).reaction n = s.reaction n := by rw [hf]; rfl
  have em : (s.addCond n a).muteSlots n a = s.muteSlots n a := by rw [hf]; rfl
  have eb : (s.addCond n a).muteBar n a = s.muteBar n a := by rw [hf]; rfl
  generalize (s.addCond n a).react n a master access = t at hc
  generalize hq : s.addCond n a = q at hc hf hk hn er em eb
  obtain ⟨c1, c2, c3, c4, c5, c6, c7, c8, c9, c10, c11, c12⟩ := hc
  rw [er] at c5 c6 c7 c8 c9 c10 c11
  rw [hn] at c2 c3 c7 c8
  rw [em] at c7
  rw [eb] at c8
  refine ⟨c1, c2, c3, fun k hk' => (c4 k hk').trans (hk k hk'), fun hr hv => ?_, fun hr => ?_, c7, c8, c9, c10, c11, ?_⟩
  · exact (c5 hr (by rw [hf]; exact hv)).trans (by rw [hf]; rfl)
  · have := c6 hr
    rw [hf] at this
    exact this
  · exact Touched.trans (by unfold Touched; rw [hf]) c12

/-- Whether the collector takes a hit depends on the collector and the parameters alone. -/
theorem takes_frame (s t : State) (n a m : Nat) (hf : t.faults = s.faults) (hp : t.params = s.params) (h : Takes s n a m) : Takes t n a m := by
  obtain ⟨h1, h2, h3, h4⟩ := h
  have hr : t.reaction n = s.reaction n := by simp only [State.reaction, State.par, hp]
  refine ⟨by rw [hf]; exact h1, ?_, by rw [hr]; exact h3, by rw [hr]; exact h4⟩
  have : t.shadowed n a m = s.shadowed n a m := by
    simp only [State.shadowed, hf, State.covers, State.twinBar, State.par, hp]
    rfl
  rw [this]; exact h2

/-- Time passes on the clocks and the VBAT seconds alone. -/
theorem pass_frame (s : State) (dt : Nat) : s.pass dt = { s with clk := (s.pass dt).clk, vbat := (s.pass dt).vbat } := by rfl

/-- What an ordinary hit leaves, the collector taking it after time has passed. -/
theorem pass_fault_recorded (s : State) (dt n a : Nat) (h : Takes s n a idNone) : Recorded (s.pass dt) ((s.pass dt).fault n a) n a idNone 0 :=
  hit_recorded (s.pass dt) n a idNone 0 (takes_frame s _ n a idNone (by rfl) (by rfl) h)

theorem react_touched (s : State) (n a master access : Nat) : Touched s (s.react n a master access) := by
  obtain ⟨-, -, -, -, -, -, -, -, -, -, -, h⟩ := react_counted s n a master access
  exact h

/-- What any hit of a source touches whose reaction orders no reset and no fail-over, masked or not. -/
theorem hit_touched (s : State) (n a master access : Nat) (h : Calm s n) : Touched s (s.hit n a master access) := by
  obtain ⟨m, hf, -, -⟩ := addCond_frame s n a
  have ta : Touched s (s.addCond n a) := by unfold Touched; rw [hf]
  have hr : (s.addCond n a).reaction n = s.reaction n := by rw [hf]; rfl
  unfold State.hit
  split
  · exact .refl s
  · refine ta.trans ?_
    unfold State.register
    split
    · exact .refl _
    · split
      · unfold State.maskHit
        split
        · unfold Touched; rfl
        · exact .refl _
      · simp only [hr, h.1, h.2, if_false]
        exact react_touched _ _ _ _ _

theorem fault_touched (s : State) (n a : Nat) (h : Calm s n) : Touched s (s.fault n a) := hit_touched s n a idNone 0 h

theorem raise_touched (s : State) (n a : Nat) (h : Calm s n) : Touched s (s.raise n a) := by
  unfold State.raise
  split
  · exact .refl s
  · exact fault_touched s n a h

theorem lower_touched (s : State) (n a : Nat) : Touched s (s.lower n a) := setSrc_touched s n _

/-- A source's reaction is a parameter. -/
theorem Calm.of_params {s t : State} {n : Nat} (h : Calm s n) (hp : t.params = s.params) : Calm t n := by
  unfold Calm State.reaction State.par at *
  rw [hp]
  exact h

theorem Takes.calm {s : State} {n a m : Nat} (h : Takes s n a m) : Calm s n := ⟨h.2.2.1, h.2.2.2⟩

/-- Hits leave the PENDING commands. -/
theorem pend_touched {s t : State} (h : Touched s t) (w : Sess) (q : BitVec 32) : t.pend? w q = s.pend? w q := by
  unfold State.pend?
  rw [h]

/-- A command that is still PENDING goes on. -/
theorem still_ok (s : State) (p : Pend) (k : State) (h : (s.pend? p.who p.cmd.seq).isSome = true) : s.still p k = k := if_pos h

end Sys2Proof.Machine
end

