-- ==== Sys2Proof/Laws/Host.lean ====
section
/-!
SUPPORT. Laws of the host window: masks, event bits, tokens and the choice of a slot.
-/
namespace Sys2Proof.Machine

/-- Several event bits raised. -/
theorem foldl_event (l : List Nat) (s : State) (hl : ∀ k ∈ l, k < 4) :
    ∃ e p o, l.foldl State.event s = { s with host := { s.host with events := e, pba := p }, out := o } ∧
     ∀ k, k < 4 → e.getLsbD k = (s.host.events.getLsbD k || decide (k ∈ l)) := by
  induction l generalizing s with
  | nil => exact ⟨s.host.events, s.host.pba, s.out, by rfl, by simp⟩
  | cons a t ih =>
    obtain ⟨e, p, o, h, hk⟩ := ih (s.event a) (fun k hk => hl k (by simp [hk]))
    obtain ⟨e1, p1, o1, h1⟩ := event_frame s a
    have ha : a < 4 := hl a (by simp)
    have he : ∀ k, k < 4 → (s.event a).host.events.getLsbD k = (s.host.events.getLsbD k || decide (k = a)) := by
      intro k hk
      unfold State.event
      split
      · rename_i h'
        by_cases hka : k = a
        · subst hka; simp [h']
        · simp [hka]
      · obtain ⟨pp, oo, hh⟩ := signal_frame { s with host := { s.host with events := s.host.events ||| BitVec.ofNat 4 (2 ^ a) } } a
        rw [hh]
        have : k = 0 ∨ k = 1 ∨ k = 2 ∨ k = 3 := by omega
        have : a = 0 ∨ a = 1 ∨ a = 2 ∨ a = 3 := by omega
        rcases this with rfl | rfl | rfl | rfl <;> rcases ‹k = 0 ∨ k = 1 ∨ k = 2 ∨ k = 3› with rfl | rfl | rfl | rfl <;> simp <;> try decide
    refine ⟨e, p, o, by rw [List.foldl_cons, h, h1], fun k hk' => ?_⟩
    rw [hk k hk', he k hk']
    simp only [List.mem_cons, Bool.or_assoc, Bool.decide_or]

/-- The numbers a mask marks. -/
theorem mem_unmask (n m k : Nat) : k ∈ unmask n m ↔ k < n ∧ bit m k = true := by
  simp [unmask]

/-- A bit of a bit vector's value. -/
theorem bit_toNat (n : Nat) (x : BitVec n) (k : Nat) : bit x.toNat k = x.getLsbD k := by
  simp [bit, BitVec.getLsbD, Nat.testBit, Nat.shiftRight_eq_div_pow]

/-- A new token names its slot, is not below 64 and is not the slot's last (R55). -/
theorem newToken_ok (s : State) (i : Nat) (l : BitVec 32) (hi : i < 64) :
    64 ≤ (s.newToken i l).toNat ∧ (s.newToken i l).toNat % 64 = i ∧ s.newToken i l ≠ l := by
  unfold State.newToken
  dsimp only
  have hb : (Config.tokenBits s.free).toNat < 2 ^ 26 := (Config.tokenBits s.free).isLt
  generalize (Config.tokenBits s.free).toNat = b at hb
  generalize hg : (if b = 0 then 1 else b) = g
  have hg1 : 0 < g ∧ g < 2 ^ 26 := by split at hg <;> omega
  generalize hk : (if 64 * g + i = l.toNat then (if g + 1 = 2 ^ 26 then 1 else g + 1) else g) = k
  have hk1 : 0 < k ∧ k < 2 ^ 26 ∧ 64 * k + i ≠ l.toNat := by
    split at hk
    · split at hk <;> omega
    · omega
  have e : (BitVec.ofNat 32 (64 * k + i)).toNat = 64 * k + i := by
    simp only [BitVec.toNat_ofNat]; omega
  refine ⟨by omega, by omega, fun h => ?_⟩
  rw [← h, e] at hk1
  omega

/-- With a slot to offer, one of those is picked. -/
theorem pickSlot_some (s : State) (m : SMap Session) (h : ∃ i : Fin 64, (sel m i.val {}).offered s.now = true) :
    ∃ i : Fin 64, s.pickSlot m = some i ∧ (sel m i.val {}).offered s.now = true := by
  unfold State.pickSlot
  dsimp only
  generalize hl : (List.range 64).filter (fun i => (sel m i {}).offered s.now) = l
  have hne : l.length ≠ 0 := by
    obtain ⟨i, hi⟩ := h
    have : i.val ∈ l := by rw [← hl]; exact List.mem_filter.2 ⟨List.mem_range.2 i.isLt, hi⟩
    intro h0
    rw [List.length_eq_zero_iff] at h0
    simp [h0] at this
  have hlt : Config.value s.free % l.length < l.length := Nat.mod_lt _ (by omega)
  rw [List.getElem?_eq_getElem hlt]
  have hm : l[Config.value s.free % l.length] ∈ l := List.getElem_mem hlt
  generalize l[Config.value s.free % l.length] = i at hm
  rw [← hl] at hm
  simp only [List.mem_filter, List.mem_range] at hm
  exact ⟨⟨i, hm.1⟩, by simp [hm.1], hm.2⟩

/-- With none to offer, none is picked. -/
theorem pickSlot_none (s : State) (m : SMap Session) (h : ∀ i : Fin 64, (sel m i.val {}).offered s.now = false) :
    s.pickSlot m = none := by
  unfold State.pickSlot
  have : (List.range 64).filter (fun i => (sel m i {}).offered s.now) = [] := by
    rw [List.filter_eq_nil_iff]
    intro i hi
    have := h ⟨i, List.mem_range.1 hi⟩
    simp only at this
    rw [this]; decide
  simp only [this]; rfl

end Sys2Proof.Machine
end

