-- ==== Sys2Proof/Laws/Forecast.lean ====
section
/-!
SUPPORT. Laws of the HOPPER forecast (R106 to R108).
-/
namespace Sys2Proof.Machine

theorem RingsKept.refl (s : State) : RingsKept s s := ⟨Touched.refl s, fun _ => rfl⟩

theorem RingsKept.trans {s t u : State} (h : RingsKept s t) (k : RingsKept t u) : RingsKept s u := by
  obtain ⟨h1, h2⟩ := h
  obtain ⟨k1, k2⟩ := k
  refine ⟨?_, fun r => by rw [k2 r, h2 r]⟩
  have e : Touched { s with lib := { s.lib with rings := u.lib.rings } } { t with lib := { t.lib with rings := u.lib.rings } } := by
    unfold Touched at *
    rw [h1]
  exact e.trans k1

theorem RingsKept.of_touched {s t : State} (h : Touched s t) : RingsKept s t := by
  have hl : t.lib = s.lib := by unfold Touched at h; rw [h]
  refine ⟨by rw [hl]; exact h, fun r => ?_⟩
  have : t.ring r = s.ring r := by simp only [State.ring, hl]
  rw [this]

theorem setRing_low_kept (s : State) (r : Nat) (b : Bool) : RingsKept s (s.setRing r { s.ring r with lowHeld := b }) := by
  refine ⟨Touched.refl _, fun k => ?_⟩
  unfold State.setRing State.ring
  dsimp only
  rw [sel_put]
  split
  · rename_i h; subst h; rfl
  · rfl

/-- The forecast sets the HOPPER contribution and otherwise only the low flags of the rings and what hits and the ceiling touch. -/
theorem forecast_law (s : State) (h : Calm s F.hopperLow) :
    RingsKept { s with motion := { s.motion with hopper := s.hopperForecast } } s.forecast ∧ s.forecast.motion.hopper = s.hopperForecast := by
  have key : ∀ (l : List Nat) (u : State), Calm u F.hopperLow → RingsKept u (l.foldl (fun s r =>
      let x := s.ring r
      let low := s.ringLow r
      if low == x.lowHeld then s else
      let s := s.setRing r { x with lowHeld := low }
      if low then s.hit F.hopperLow 0 idDamper 0 else s) u) := by
    intro l
    induction l with
    | nil => exact fun u _ => .refl u
    | cons a t ih =>
      intro u hu
      rw [List.foldl_cons]
      have hp : ∀ v, RingsKept u v → Calm v F.hopperLow := fun v hv => by
        refine hu.of_params ?_
        have := hv.1
        unfold Touched at this
        rw [this]
      have h1 : RingsKept u (let x := u.ring a
          let low := u.ringLow a
          if low == x.lowHeld then u else
          let s := u.setRing a { x with lowHeld := low }
          if low then s.hit F.hopperLow 0 idDamper 0 else s) := by
        dsimp only
        split
        · exact .refl u
        · have h2 := setRing_low_kept u a (u.ringLow a)
          split
          · exact h2.trans (.of_touched (hit_touched _ _ _ _ _ (hp _ h2)))
          · exact h2
      exact h1.trans (ih _ (hp _ h1))
  have hb : Calm ({ s with motion := { s.motion with hopper := s.hopperForecast } } : State) F.hopperLow := h
  have h1 : RingsKept { s with motion := { s.motion with hopper := s.hopperForecast } } s.forecast :=
    (key (List.range 16) _ hb).trans (.of_touched (refresh_touched _))
  refine ⟨h1, ?_⟩
  generalize s.forecast = t at h1 ⊢
  have h2 := h1.1
  unfold Touched at h2
  rw [h2]

end Sys2Proof.Machine
end

