-- ==== Sys2Proof/Laws/Lanes.lean ====
section
/-!
SUPPORT. What the lane operations do: a lane or spare after a write, the step to ACTIVE, a spare that starts to serve, a failed
attempt, the frames sent again, the switch that begins.
-/
namespace Sys2Proof.Machine

/-- Time changes no lane. -/
theorem lane_pass (s : State) (dt i) : (s.pass dt).lane i = s.lane i := by rfl
/-- Time changes no spare. -/
theorem spare_pass (s : State) (dt i) : (s.pass dt).spare i = s.spare i := by rfl
/-- A lane after a write. -/
theorem lane_setLane (s : State) (l k : Nat) (x : Lane) : (s.setLane l x).lane k = if k = l then x else s.lane k := by
  unfold State.setLane State.lane; dsimp only; rw [sel_put]
/-- A spare after a write. -/
theorem spare_setSpare (s : State) (l k : Nat) (x : Spare) : (s.setSpare l x).spare k = if k = l then x else s.spare k := by
  unfold State.setSpare State.spare; dsimp only; rw [sel_put]
/-- A second write of a lane replaces the first. -/
theorem setLane_setLane (s : State) (l : Nat) (x y : Lane) : (s.setLane l x).setLane l y = s.setLane l y := by
  unfold State.setLane; dsimp only; rw [put_put]
/-- A second write of a spare replaces the first. -/
theorem setSpare_setSpare (s : State) (l : Nat) (x y : Spare) : (s.setSpare l x).setSpare l y = s.setSpare l y := by
  unfold State.setSpare; dsimp only; rw [put_put]
/-- A lane entering TRAIN (R237). -/
theorem enterTrain_eq (s : State) (l r : Nat) : s.enterTrain l r = s.setLane l (inTrain (s.lane l) s.now r) := by rfl

/-- Time does not change which lanes serve an enabled slot. -/
theorem servesEnabled_pass (s : State) (dt l) : (s.pass dt).servesEnabled l = s.servesEnabled l := by rfl

/-- What beginning a switch leaves (R248). -/
theorem beginSwitchTo_eq (s : State) (k l : Nat) : s.beginSwitchTo k l = { s with
        spares := put s.spares k { s.spare k with sel := l % 8, switching := some s.now, checking := none }
        lanes := put s.lanes (32 + k) { s.lane (32 + k) with farN := 0 }
        out := .block (32 + k) (kBlock 0x84 (leB 1 (l % 8))) :: .ksSel k (l % 8) :: s.out } := by
  unfold State.beginSwitchTo State.ksSel
  dsimp only
  have h : ∀ (y : Spare) o, ((s.setSpare k y).emit o).spare k = y := fun y o => by
    show sel (put s.spares k y) k {} = y
    rw [sel_put, if_pos rfl]
  rw [h]
  have h2 : ∀ (y z : Spare) o, ((s.setSpare k y).emit o).setSpare k z = (s.setSpare k z).emit o := fun y z o => by
    unfold State.setSpare State.emit
    dsimp only
    rw [put_put]
  rw [h2]
  rfl

/-- A good block passes the check. -/
theorem goodB {b : Bytes} {ty : Nat} (h : goodBlock b ty = true) : (!goodBlock b ty) = false := by rw [h]; rfl

/-- A failed attempt after time has passed. -/
theorem attempt_failed (s : State) (dt l : Nat) : AttemptFailed (s.pass dt) ((s.pass dt).attemptFails l) l := by
  unfold AttemptFailed State.attemptFails
  dsimp only
  by_cases h : ((s.pass dt).lane l).single = true ∨ 3 ≤ ((s.pass dt).lane l).fails + 1
  · rw [if_pos h, if_pos h]
    intro ht
    exact hit_recorded _ _ _ _ _ (takes_frame _ _ _ _ _ (by rfl) (by rfl) ht)
  · rw [if_neg h, if_neg h, enterTrain_eq, lane_setLane, if_pos rfl, setLane_setLane]
    rfl
/-- A failed attempt (R240). -/
theorem attempt_failed' (s : State) (l : Nat) : AttemptFailed s (s.attemptFails l) l := by
  unfold AttemptFailed State.attemptFails
  dsimp only
  by_cases h : (s.lane l).single = true ∨ 3 ≤ (s.lane l).fails + 1
  · rw [if_pos h, if_pos h]
    intro ht
    exact hit_recorded _ _ _ _ _ (takes_frame _ _ _ _ _ (by rfl) (by rfl) ht)
  · rw [if_neg h, if_neg h, enterTrain_eq, lane_setLane, if_pos rfl, setLane_setLane]
    rfl

/-- A primary's slots depend on its CAP and the parameters. -/
theorem primarySlots_congr (s t : State) (k : Nat) (h1 : (t.lane k).slots = (s.lane k).slots) (h2 : (t.lane k).own = (s.lane k).own) (hp : t.par = s.par) :
    t.primarySlots k = s.primarySlots k := by
  unfold State.primarySlots State.firstSlot
  rw [h1, h2, hp]

/-- Clearing LT_VALID of a list of slots. -/
theorem fold_links (L : List Nat) (s : State) : ∃ m, L.foldl (fun s i =>
      ({ s with links := put s.links i { sel s.links i {} with ltValid := false } } : State)) s = { s with links := m } ∧
    (∀ i, (i ∈ L ∨ (sel s.links i {}).ltValid = false) → (sel m i {}).ltValid = false) := by
  induction L generalizing s with
  | nil => exact ⟨s.links, by rfl, fun i h => h.resolve_left (by simp)⟩
  | cons a L ih =>
    obtain ⟨m, h1, h2⟩ := ih { s with links := put s.links a { sel s.links a {} with ltValid := false } }
    refine ⟨m, by rw [List.foldl_cons, h1], fun i h => h2 i ?_⟩
    dsimp only
    rw [sel_put]
    by_cases e : i = a
    · subst e; right; rw [if_pos rfl]
    · rw [if_neg e]; simpa [e] using h

/-- A LINK_TIME with ECHO touches the lane's echo time and the outputs. -/
theorem sendEcho_law (s : State) (l : Nat) (m : Option Nat) : ∃ o v, s.sendLinkTime l true m =
    { s with lanes := put s.lanes l { s.lane l with echoAt := some s.clk.tclk, echoVal := v, echoDue := s.now }, out := o } := ⟨_, _, by rfl⟩

/-- Only what a card read of lane `l` changes. -/
def InfoOnly (s t : State) (l : Nat) : Prop :=
  (∃ a b, t.lane l = { s.lane l with todo := a, info := b }) ∧ (∀ k, k ≠ l → t.lane k = s.lane k) ∧
  t = { s with lanes := t.lanes, out := t.out, free := t.free }

/-- Starting a card read (R281). -/
theorem startInfo_law (s : State) (l : Nat) : InfoOnly s (s.startInfo l) l := by
  unfold State.startInfo
  dsimp only
  split
  · exact ⟨⟨_, _, by rfl⟩, fun k _ => rfl, by rfl⟩
  · split
    · exact ⟨⟨_, _, by rfl⟩, fun k _ => rfl, by rfl⟩
    · rename_i j r h
      have hx : ∀ (y : Lane) (r : InfoRead), InfoOnly s ((s.setLane l { s.lane l with todo := y.todo }).sendInfo l r) l := by
        intro y r
        unfold State.sendInfo
        dsimp only
        have : ((s.setLane l { s.lane l with todo := y.todo }).fresh).lane l = { s.lane l with todo := y.todo } := by
          show sel (put s.lanes l _) l {} = _; rw [sel_put, if_pos rfl]
        rw [this]
        refine ⟨⟨y.todo, some { r with tag := BitVec.ofNat 8 (Config.value s.free), sentAt := s.now }, ?_⟩, fun k hk => ?_, ?_⟩
        · show sel (put _ _ _) _ _ = _
          rw [sel_put, if_pos rfl]; rfl
        · show sel (put (put s.lanes l _) _ _) _ _ = _
          rw [put_put, sel_put, if_neg hk]; rfl
        · rfl
      exact hx { s.lane l with todo := r } _

/-- A state that differs in the lanes, spares, links, outputs and free values. -/
theorem onLanes_of (s t : State) (h : t = { s with lanes := t.lanes, spares := t.spares, links := t.links, out := t.out, free := t.free }) : OnLanes s t := by
  unfold OnLanes Touched
  rw [h]

/-- A lane entering ACTIVE (R237, R270, R283). -/
theorem toActive_law (s : State) (l : Nat) (fresh : Bool) :
    let t := s.toActive l fresh
    (∃ a b c d v w, t.lane l = { s.lane l with state := 6, since := s.now, fails := 0, single := false, held := false, acks := 0, farN := 0, todo := a, info := b, capable := c, echoAt := d, echoVal := v, echoDue := w }) ∧
    (∀ k, k ≠ l → t.lane k = s.lane k) ∧ (fresh = false → t.links = s.links) ∧
    (fresh = true → ∀ i ∈ s.primarySlots l, (t.slotLink i).ltValid = false) ∧
    t = { s with lanes := t.lanes, links := t.links, out := t.out, free := t.free } := by
  unfold State.toActive
  dsimp only
  generalize (if ((s.servedBy l).isSome) = true then some s.now else none) = cap
  have core : ∀ u : State, InfoOnly ((u.sendLinkTime l true none)) ((u.sendLinkTime l true none).startInfo l) l := fun u => startInfo_law _ _
  have hps : ∀ y : Lane, y.slots = (s.lane l).slots → y.own = (s.lane l).own → (s.setLane l y).primarySlots l = s.primarySlots l := by
    intro y h1 h2
    refine primarySlots_congr _ _ _ ?_ ?_ (by rfl) <;> rw [lane_setLane, if_pos rfl] <;> assumption
  have main : ∀ (y : Lane) m, let u : State := { s.setLane l y with links := m }
      let t := (u.sendLinkTime l true none).startInfo l
      (∃ a b d v w, t.lane l = { y with todo := a, info := b, echoAt := d, echoVal := v, echoDue := w }) ∧ (∀ k, k ≠ l → t.lane k = s.lane k) ∧ t.links = m ∧
      t = { s with lanes := t.lanes, links := t.links, out := t.out, free := t.free } := by
    intro y m u t
    obtain ⟨⟨a, b, h1⟩, h2, h3⟩ := core u
    obtain ⟨o, v, ho⟩ := sendEcho_law u l none
    have hu : u.lane l = y := by show sel (put s.lanes l y) l {} = y; rw [sel_put, if_pos rfl]
    have hl : (u.sendLinkTime l true none).lane l = { y with echoAt := some u.clk.tclk, echoVal := v, echoDue := u.now } := by
      rw [ho, hu]; show sel (put _ _ _) _ _ = _; rw [sel_put, if_pos rfl]
    refine ⟨⟨a, b, some u.clk.tclk, v, u.now, ?_⟩, ?_, ?_, ?_⟩
    · show State.lane ((u.sendLinkTime l true none).startInfo l) l = _
      rw [h1, hl]
    · intro k hk
      show State.lane ((u.sendLinkTime l true none).startInfo l) k = _
      rw [h2 k hk, ho]
      show sel (put (put s.lanes l y) l _) k {} = _
      rw [put_put, sel_put, if_neg hk]; rfl
    · show State.links ((u.sendLinkTime l true none).startInfo l) = _
      rw [h3, ho]
    · show ((u.sendLinkTime l true none).startInfo l) = _
      have hlk : t.links = m := by show State.links ((u.sendLinkTime l true none).startInfo l) = _; rw [h3, ho]
      refine h3.trans ?_
      rw [hlk]
      rfl
  cases fresh with
  | false =>
    obtain ⟨⟨a, b, d, v, w, h1⟩, h2, h3, h4⟩ := main _ s.links
    refine ⟨⟨a, b, cap, d, v, w, h1⟩, h2, fun _ => h3, fun h => absurd h (by decide), h4⟩
  | true =>
    rw [hps _ (by rfl) (by rfl), if_pos rfl]
    obtain ⟨m, hm, hv⟩ := fold_links (s.primarySlots l) (s.setLane l { s.lane l with state := 6, since := s.now, fails := 0, single := false, held := false, acks := 0, farN := 0, todo := List.range (s.lane l).slots, info := none, capable := cap })
    rw [hm]
    obtain ⟨⟨a, b, d, v, w, h1⟩, h2, h3, h4⟩ := main _ m
    refine ⟨⟨a, b, cap, d, v, w, h1⟩, h2, fun h => absurd h (by decide), fun _ i hi => ?_, h4⟩
    unfold State.slotLink
    rw [h3]
    exact hv i (Or.inl hi)

/-- A spare that starts to serve (R248). -/
theorem serve_law (s : State) (k l : Nat) (hl : s.switchOf k = l) (hl32 : l < 32) :
    let t := s.serve k
    (t.spare k).serving = some l ∧ (t.lane (32 + k)).state = 6 ∧ (t.lane (32 + k)).slots = (s.lane l).slots ∧
    (∀ i ∈ s.primarySlots l, (t.slotLink i).ltValid = false) ∧ OnLanes s t := by
  unfold State.serve
  dsimp only
  rw [hl]
  generalize hs1 : s.setSpare k _ = s1
  generalize hx : ({ s1.lane (32 + k) with state := 6, since := s1.now, carry := false, slots := _, todo := _, info := none, delay := _ } : Lane) = x
  generalize hs2 : s1.setLane (32 + k) x = s2
  generalize hy : ({ s2.lane l with capable := _ } : Lane) = y
  have hne : l ≠ 32 + k := by omega
  have hx6 : x.state = 6 ∧ x.slots = (s.lane l).slots := by subst hx; exact ⟨rfl, rfl⟩
  have hs2l : s2.lane l = s.lane l := by rw [← hs2, lane_setLane, if_neg hne, ← hs1]; rfl
  have hyl : y.slots = (s.lane l).slots ∧ y.own = (s.lane l).own := by subst hy; rw [hs2l]; exact ⟨rfl, rfl⟩
  have hps : (s2.setLane l y).primarySlots l = s.primarySlots l := by
    refine primarySlots_congr _ _ _ ?_ ?_ (by subst hs2; subst hs1; rfl) <;> rw [lane_setLane, if_pos rfl]
    · exact hyl.1
    · exact hyl.2
  rw [hps]
  obtain ⟨m, hm, hv⟩ := fold_links (s.primarySlots l) (s2.setLane l y)
  rw [hm]
  have e1 : ∀ j, (s2.setLane l y).spare j = s1.spare j := fun j => by subst hs2; rfl
  have e2 : (s1.spare k).serving = some l := by subst hs1; rw [spare_setSpare, if_pos rfl]
  have e3 : (s2.setLane l y).lane (32 + k) = x := by rw [lane_setLane, if_neg (by omega), ← hs2, lane_setLane, if_pos rfl]
  have e4 : s2.setLane l y = { s with lanes := (s2.setLane l y).lanes, spares := (s2.setLane l y).spares } := by subst hs2; subst hs1; rfl
  generalize s2.setLane l y = u at *
  obtain ⟨o, v, ho⟩ := sendEcho_law { u with links := m } (32 + k) (some (l % 8))
  have hlane : (({ u with links := m } : State).sendLinkTime (32 + k) true (some (l % 8))).lane (32 + k) = { x with echoAt := some u.clk.tclk, echoVal := v, echoDue := u.now } := by
    rw [ho]
    show sel (put u.lanes _ _) _ {} = _
    rw [sel_put, if_pos rfl, ← e3]
    rfl
  obtain ⟨⟨a, b, h1⟩, h2, h3⟩ := startInfo_law (({ u with links := m } : State).sendLinkTime (32 + k) true (some (l % 8))) (32 + k)
  generalize State.startInfo _ _ = t at *
  rw [hlane] at h1
  rw [ho] at h3
  refine ⟨?_, ?_, ?_, fun i hi => ?_, ?_⟩
  · rw [h3]; show (u.spare k).serving = _; rw [e1, e2]
  · rw [h1]; exact hx6.1
  · rw [h1]; exact hx6.2
  · rw [h3]; exact hv i (Or.inl hi)
  · apply onLanes_of
    rw [h3, e4]



/-- A frame sent touches the outputs, the legacy shift and the RESYNC marks. -/
theorem sendFrame_law (s : State) (d : Desc) (i : Nat) (c : List Nat) :
    ∃ o f h, s.sendFrame d i c = { s with out := o, fb := { s.fb with resync := f }, fire := { s.fire with shift := h } } := by
  unfold State.sendFrame
  dsimp only
  split
  · exact ⟨_, s.fb.resync, _, by rfl⟩
  · split
    · exact ⟨s.out, s.fb.resync, s.fire.shift, by rfl⟩
    · exact ⟨_, _, s.fire.shift, by rfl⟩

/-- What a function can do, a fold of it can do, for a change of these three fields. -/
theorem fold_frames {α : Type} (f : State → α → State)
    (one : ∀ s a, ∃ o r h, f s a = { s with out := o, fb := { s.fb with resync := r }, fire := { s.fire with shift := h } }) (L : List α) (s : State) :
    ∃ o r h, L.foldl f s = { s with out := o, fb := { s.fb with resync := r }, fire := { s.fire with shift := h } } := by
  induction L generalizing s with
  | nil => exact ⟨s.out, s.fb.resync, s.fire.shift, by rfl⟩
  | cons a L ih =>
    obtain ⟨o, r, h, e⟩ := one s a
    rw [List.foldl_cons, e]
    obtain ⟨o2, r2, h2, e2⟩ := ih { s with out := o, fb := { s.fb with resync := r }, fire := { s.fire with shift := h } }
    exact ⟨o2, r2, h2, e2⟩

/-- Frames sent again touch the outputs, the legacy shift, the RESYNC marks and the codes that wait in the GRATEs. -/
theorem resend_law (s : State) (l : Nat) :
    ∃ o f h g, s.resend l = { s with out := o, fb := { s.fb with resync := f }, fire := { s.fire with shift := h }, grates := g } := by
  unfold State.resend
  dsimp only
  obtain ⟨o, f, h, e⟩ := fold_frames (fun (t : State) (e : Nat × SMap (List Nat)) => (s.primarySlots l).foldl (State.resendSlot e.1 e.2) t)
    (fun t e => fold_frames _ (fun t i => by
      unfold State.resendSlot
      split
      · exact sendFrame_law t _ i _
      · exact ⟨t.out, t.fb.resync, t.fire.shift, by rfl⟩) _ t) (s.packed (l / 4)) s
  rw [e]
  exact ⟨o, f, h, _, rfl⟩

/-- The checker takes up the bits received when the concentrator sends the pattern (R254). -/
theorem seeTest_setLane (s : State) (dt l : Nat) (x : Lane) (e : LaneTest) (rx : List Bool) (h1 : s.lane l = x) (h2 : x.test = some e) (h3 : e.here = true)
    (h4 : bit e.dirs 1 = true) :
    (s.pass dt).seeTest l rx = (s.pass dt).setLane l { (x.checkAll e.pattern e.chk rx).1 with test := some { e with chk := (x.checkAll e.pattern e.chk rx).2 } } := by
  unfold State.seeTest; dsimp only; rw [lane_pass, h1, h2]; dsimp only; rw [if_neg (by simp [h3, h4])]

/-- Without the concentrator's pattern the checker takes up nothing. -/
theorem seeTest_idle (s : State) (dt l : Nat) (e : LaneTest) (rx : List Bool) (h2 : (s.lane l).test = some e) (h4 : bit e.dirs 1 = false) :
    (s.pass dt).seeTest l rx = s.pass dt := by
  unfold State.seeTest; dsimp only; rw [lane_pass, h2]; dsimp only; rw [if_pos (by simp [h4])]

/-- A hit leaves the collector taking the next. -/
theorem takes_touched (s t : State) (h : Touched s t) (n a m : Nat) (k : Takes s n a m) : Takes t n a m := by
  obtain ⟨h1, h2, h3, h4⟩ := k
  unfold Touched at h
  have hr : t.reaction n = s.reaction n := by rw [h]; rfl
  refine ⟨by rw [h]; exact h1, ?_, by rw [hr]; exact h3, by rw [hr]; exact h4⟩
  have : t.shadowed n a m = s.shadowed n a m := by rw [h]; rfl
  rw [this]; exact h2

end Sys2Proof.Machine
end

