-- ==== Sys2Proof/Laws/Motion.lean ====
section
/-!
SUPPORT. What the operations of encoders, marks and the velocity model do.
-/
namespace Sys2Proof.Machine

/-- Time changes no channel. -/
theorem enc_pass (s : State) (dt c) : (s.pass dt).enc c = s.enc c := by rfl

/-- A channel after a write. -/
theorem enc_setEnc (s : State) (l k : Nat) (x : Enc) : (s.setEnc l x).enc k = if k = l then x else s.enc k := by
  unfold State.setEnc State.enc; dsimp only; rw [sel_put]

/-- A second write of a channel replaces the first. -/
theorem setEnc_setEnc (s : State) (l : Nat) (x y : Enc) : (s.setEnc l x).setEnc l y = s.setEnc l y := by
  unfold State.setEnc; dsimp only; rw [put_put]

/-- A channel's state depends on its parameter and its failure. -/
theorem encState_of (s t : State) (c : Nat) (hp : t.params = s.params) (hf : (t.enc c).failed = (s.enc c).failed) : t.encState c = s.encState c := by
  unfold State.encState State.par
  rw [hp, hf]

/-- The backup channel is a matter of parameters and the fire channel. -/
theorem backup_of (s t : State) (hp : t.params = s.params) (hf : t.motion.fireCh = s.motion.fireCh) : t.backup = s.backup := by
  unfold State.backup State.parLine
  rw [hp, hf]

/-- Channels other than the fire and backup channels are not compared (R304). -/
theorem track_other (s : State) (c : Nat) (d : Int) (h1 : s.motion.fireCh ≠ c) (h2 : s.backup ≠ some c) : s.track c d = s := by
  unfold State.track
  split
  · rfl
  · rename_i b hb
    dsimp only
    rw [if_pos ⟨fun h => h1 h.symm, fun h => h2 (by rw [hb, h])⟩]

/-- A count of a channel that moves nothing else (R298). -/
theorem move_other (s : State) (c : Nat) (d : Int) (un : List Nat) (h1 : s.motion.fireCh ≠ c) (h2 : s.backup ≠ some c) :
    s.moveCount c d un = s.setEnc c { s.enc c with count := BitVec.ofInt 32 (((s.enc c).count.toNat : Int) + d) } := by
  unfold State.moveCount
  dsimp only
  generalize hu : State.setEnc s c _ = u
  have b1 : u.backup = s.backup := by subst hu; rfl
  have b2 : u.motion.fireCh = s.motion.fireCh := by subst hu; rfl
  have e1 : (if u.backup = some c ∧ u.encState u.motion.fireCh = 2 then (u.setFire c).fault F.encSwitch 0 else u) = u := if_neg (by rw [b1]; exact fun h => h2 h.1)
  rw [e1, track_other u c d (by rw [b2]; exact h1) (by rw [b1]; exact h2), if_neg (by rw [b2]; exact h1)]

/-- A step forward. -/
theorem cnt_add (x : BitVec 32) : BitVec.ofInt 32 ((x.toNat : Int) + 1) = x + 1 := by
  apply BitVec.eq_of_toNat_eq
  rw [BitVec.toNat_ofInt, BitVec.toNat_add]
  have := x.isLt
  show (((x.toNat : Int) + 1) % ((2 ^ 32 : Nat) : Int)).toNat = (x.toNat + 1) % 2 ^ 32
  omega

/-- Two steps forward. -/
theorem cnt_add2 (x : BitVec 32) : BitVec.ofInt 32 ((x.toNat : Int) + 2) = x + 2 := by
  apply BitVec.eq_of_toNat_eq
  rw [BitVec.toNat_ofInt, BitVec.toNat_add]
  have := x.isLt
  show (((x.toNat : Int) + 2) % ((2 ^ 32 : Nat) : Int)).toNat = (x.toNat + 2) % 2 ^ 32
  omega

/-- A step backward. -/
theorem cnt_sub (x : BitVec 32) : BitVec.ofInt 32 ((x.toNat : Int) + -1) = x - 1 := by
  apply BitVec.eq_of_toNat_eq
  rw [BitVec.toNat_ofInt, BitVec.toNat_sub]
  have := x.isLt
  show (((x.toNat : Int) + -1) % ((2 ^ 32 : Nat) : Int)).toNat = (2 ^ 32 - 1 + x.toNat) % 2 ^ 32
  omega

/-- Two steps backward. -/
theorem cnt_sub2 (x : BitVec 32) : BitVec.ofInt 32 ((x.toNat : Int) + -2) = x - 2 := by
  apply BitVec.eq_of_toNat_eq
  rw [BitVec.toNat_ofInt, BitVec.toNat_sub]
  have := x.isLt
  show (((x.toNat : Int) + -2) % ((2 ^ 32 : Nat) : Int)).toNat = (2 ^ 32 - 2 + x.toNat) % 2 ^ 32
  omega

/-- What a refresh leaves of the motion state. -/
theorem refresh_motion (s : State) : ∃ a b c d k q f, s.refresh.motion = { s.motion with ceilWas := a, ceilT32 := b, fellAt := c, slewAt := d, dacWas := k, seq := q, flagsWas := f } := by
  obtain ⟨a, b, c, d, k, q, f, o, h⟩ := refresh_frame s
  exact ⟨a, b, c, d, k, q, f, by rw [h]⟩

/-- The line length is a parameter. -/
theorem lineLen_of (s t : State) (h : t.params = s.params) : t.lineLen = s.lineLen := by
  unfold State.lineLen State.parLine; rw [h]

/-- No reversal (R305). -/
theorem reverse_none (s : State) (d : Int) 
    (h2 : max (s.enc s.motion.fireCh).maxPos ((s.enc s.motion.fireCh).pos + d) - ((s.enc s.motion.fireCh).pos + d) ≤ (s.par P.motionFireRevwin : Int)) :
    s.reverseCheck d = s.setEnc s.motion.fireCh { s.enc s.motion.fireCh with
      pos := (s.enc s.motion.fireCh).pos + d, maxPos := max (s.enc s.motion.fireCh).maxPos ((s.enc s.motion.fireCh).pos + d) } := by
  unfold State.reverseCheck
  dsimp only
  rw [if_neg]
  rintro ⟨-, h⟩
  have h3 : (s.par P.motionFireRevwin : Int) < (s.enc s.motion.fireCh).maxPos - ((s.enc s.motion.fireCh).pos + d) := h
  omega

/-- The web position moves without reaching a line (R302). -/
theorem reachWeb_same (s : State) (un : List Nat) (h1 : s.motion.rev = false)
    (h2 : max s.motion.wMax s.motion.w / (s.lineLen : Int) = s.motion.wMax / (s.lineLen : Int)) :
    s.reachWeb un = { s with motion := { s.motion with wMax := max s.motion.wMax s.motion.w } } := by
  unfold State.reachWeb
  by_cases h : s.motion.w ≤ s.motion.wMax
  · rw [if_pos h, Int.max_eq_left h]
  · rw [if_neg h]
    have hm : max s.motion.wMax s.motion.w = s.motion.w := Int.max_eq_right (by omega)
    rw [hm] at h2 ⊢
    have hp : ∀ m : Motion, m.wMax = s.motion.w → ({ s with motion := m } : State).posRaw = s.posRaw := by
      intro m hm
      unfold State.posRaw
      show (m.wMax / (s.lineLen : Int)).toNat = _
      rw [hm, h2]
    dsimp only
    rw [h1]
    simp only [Bool.false_eq_true, if_false]
    rw [hp _ (by rfl), Nat.sub_self, if_pos rfl]

/-- One count with no correction under way (R302, R307). -/
theorem unit_one (s : State) (fw : Bool) (h1 : s.motion.corr = []) (h2 : s.motion.trim = []) (h3 : s.motion.vValid = false) : ∃ T,
    s.unitStep fw = { s with motion := { s.motion with
      w := s.motion.w + (if fw then (s.parLine (P.motionEncCountWu s.motion.fireCh) : Int) else -(s.parLine (P.motionEncCountWu s.motion.fireCh) : Int))
      corr := [], trim := [], vSince := 0, vEdges := if fw then s.motion.vEdges + 1 else 0, vTimes := T } } := by
  unfold State.unitStep
  dsimp only
  rw [h1, h2, h3]
  cases fw
  · refine ⟨[], ?_⟩
    simp only [removeAll, advanceAll, List.map_nil, List.sum_nil, List.filter_nil, Bool.false_eq_true, if_false, Int.sub_zero]
    rfl
  · exact ⟨_, by simp only [removeAll, advanceAll, List.map_nil, List.sum_nil, List.filter_nil, if_true, Int.sub_zero]; rfl⟩

/-- A look into a map whose values are changed. -/
theorem look_map {α β : Type} (m : SMap α) (f : α → β) (k : Nat) : look (m.map (fun e => (e.1, f e.2))) k = (look m k).map f := by
  induction m with
  | nil => rfl
  | cons e t ih =>
    obtain ⟨j, v⟩ := e
    simp only [List.map_cons, look]
    split
    · rfl
    · exact ih

/-- A parameter just accepted reads back. -/
theorem accept_sel (m : SMap Nat) (id v d : Nat) (h : pDefault id = d) : sel (accept m id v) id d = v := by
  unfold accept
  split
  · rename_i e; unfold sel; rw [look_cut_same, e, h]; rfl
  · rw [sel_put, if_pos rfl]

/-- The velocity model becomes invalid (R307). -/
theorem invalidate_law (s : State) : ∃ v : State, v = { s with motion := { s.motion with vValid := false, vEdges := 0, vSince := 0, vTimes := [] }, fire := { s.fire with sched := false } } ∧
    Touched v s.invalidate := ⟨_, rfl, refresh_touched _⟩

/-- ENC_LOST follows its condition (R304). -/
theorem lost_touched (s : State) (h : Calm s F.encLost) : Touched s s.lostCheck := by
  unfold State.lostCheck
  split
  · exact (raise_touched _ _ _ h).trans (refresh_touched _)
  · exact lower_touched _ _ _

/-- A mark input after a write. -/
theorem mark_setMark (s : State) (l k : Nat) (x : Mark) : (s.setMark l x).mark k = if k = l then x else s.mark k := by
  unfold State.setMark State.mark; dsimp only; rw [sel_put]

/-- A second write of a mark input replaces the first. -/
theorem setMark_setMark (s : State) (l : Nat) (x y : Mark) : (s.setMark l x).setMark l y = s.setMark l y := by
  unfold State.setMark; dsimp only; rw [put_put]

/-- The run at the datum. -/
theorem datumRun_of (s t : State) (h1 : t.params = s.params) (h2 : t.splice.runs = s.splice.runs) (h3 : t.motion.wMax = s.motion.wMax) : t.datumRun = s.datumRun := by
  have : t.pos = s.pos := by unfold State.pos State.posRaw; rw [h3, lineLen_of s t h1]
  unfold State.datumRun
  rw [h2, this]

/-- What taking a mark leaves (R309, R310). -/
theorem takeMark_law (s : State) (k : Nat) (w : Int) (fly : Bool) (h : Calm s F.hopperLow) :
    (s.takeMark k w fly).mark k = { s.mark k with
      last := ({ datum := BitVec.ofNat 32 (s.datumOf k w), t32 := s.t32, fly := fly } :: (s.mark k).last).take 4
      expect := some (w + (s.par (P.motionMarkPitchWu k) * wuUnit : Nat)) } ∧
    (∀ j, j ≠ k → (s.takeMark k w fly).mark j = s.mark j) ∧ (s.takeMark k w fly).params = s.params ∧
    (s.takeMark k w fly).motion.w = s.motion.w ∧ (s.takeMark k w fly).fire = s.fire ∧
    (∀ n a m, Takes s n a m → Takes (s.takeMark k w fly) n a m) := by
  have e : ∃ q : State, s.takeMark k w fly = q.forecast ∧ q.mark k = { s.mark k with
      last := ({ datum := BitVec.ofNat 32 (s.datumOf k w), t32 := s.t32, fly := fly } :: (s.mark k).last).take 4
      expect := some (w + (s.par (P.motionMarkPitchWu k) * wuUnit : Nat)) } ∧ (∀ j, j ≠ k → q.mark j = s.mark j) ∧ q.params = s.params ∧
      q.motion.w = s.motion.w ∧ q.fire = s.fire ∧ q.faults = s.faults := by
    unfold State.takeMark
    refine ⟨_, rfl, ?_, fun j hj => ?_, rfl, rfl, rfl, rfl⟩
    · show State.mark (State.setMark _ _ _) _ = _; rw [mark_setMark, if_pos rfl]
    · show State.mark (State.setMark _ _ _) _ = _; rw [mark_setMark, if_neg hj]
  obtain ⟨q, e1, e2, e3, e4, e5, e6, e7⟩ := e
  have hf := (forecast_law q (h.of_params e4)).1.1
  rw [e1]
  have ht : ∀ n a m, Takes s n a m → Takes q.forecast n a m := fun n a m x => takes_touched _ _ hf n a m (takes_frame s _ _ _ _ e7 e4 x)
  generalize q.forecast = z at hf ht ⊢
  unfold Touched at hf
  have hm : ∀ j, z.mark j = q.mark j := fun j => by unfold State.mark; rw [hf]
  exact ⟨by rw [hm, e2], fun j hj => by rw [hm, e3 j hj], by rw [hf]; exact e4, by rw [hf]; exact e5, by rw [hf]; exact e6, ht⟩

end Sys2Proof.Machine
end

