-- ==== Sys2Proof/Laws/Epoch.lean ====
section
/-!
SUPPORT. Laws of the epoch change (R70): what it can touch.
-/
namespace Sys2Proof.Machine

/-- `t` differs from `s` in what discarding commands can touch, and every session is open as it was. -/
def Discarded (s t : State) : Prop :=
  (∃ a b c d e f o l r p q, t = { s with
      lib := a, chip := b, cam := c, links := d, time := e, mgmt := f, out := o,
      host := { s.host with loc := l, rem := r, pba := p, pends := q } }) ∧
  ∀ v, (t.ses v).isOpen = (s.ses v).isOpen ∧ (t.ses v).token = (s.ses v).token

theorem Discarded.refl (s : State) : Discarded s s :=
  ⟨⟨s.lib, s.chip, s.cam, s.links, s.time, s.mgmt, s.out, s.host.loc, s.host.rem, s.host.pba, s.host.pends, by rfl⟩, fun _ => ⟨rfl, rfl⟩⟩

theorem Discarded.trans {s t u : State} (h : Discarded s t) (k : Discarded t u) : Discarded s u := by
  obtain ⟨⟨_, _, _, _, _, _, _, _, _, _, _, h1⟩, h2⟩ := h
  obtain ⟨⟨_, _, _, _, _, _, _, _, _, _, _, k1⟩, k2⟩ := k
  refine ⟨⟨_, _, _, _, _, _, _, _, _, _, _, by rw [k1, h1]⟩, fun v => ⟨(k2 v).1.trans (h2 v).1, (k2 v).2.trans (h2 v).2⟩⟩

theorem deliver_discarded (s : State) (w : Sess) (c : Cmd) (status : Nat) (pay : Bytes) : Discarded s (s.deliver w c status pay) := by
  obtain ⟨-, -, -, -, -, -, -, -, h1, h2, -, h3⟩ := deliver_answered s w c status pay
  refine ⟨⟨s.lib, _, s.cam, s.links, s.time, s.mgmt, _, _, _, _, s.host.pends, h3⟩, fun v => ?_⟩
  by_cases hv : v = w
  · subst hv; rw [h1]; exact ⟨rfl, rfl⟩
  · rw [h2 v hv]; exact ⟨rfl, rfl⟩

theorem discardSlot_discarded (s : State) (e : BitVec 16) (w : Sess) : Discarded s (s.discardSlot e w) := by
  unfold State.discardSlot
  split
  · split
    · exact .refl s
    · exact deliver_discarded _ _ _ _ _
  · exact .refl s

theorem undo_discarded (s : State) (p : Pend) : Discarded s (s.undo p) := by
  refine ⟨⟨_, _, _, _, _, _, s.out, s.host.loc, s.host.rem, s.host.pba, s.host.pends, undo_frame s p⟩, fun v => ?_⟩
  rw [undo_frame]
  cases v <;> exact ⟨rfl, rfl⟩

/-- A session's record apart from its queue and its entries is as it was. -/
theorem complete_discarded (s : State) (p : Pend) (status obj result unit : Nat) : Discarded s (s.completeObj p status obj result unit) := by
  cases hq : (s.ses p.who).cq with
  | none =>
    have hu : ∀ v, (s.unpend p.who p.cmd.seq).ses v = s.ses v := fun v => by cases v <;> rfl
    have e : s.completeObj p status obj result unit = s.unpend p.who p.cmd.seq := by
      unfold State.completeObj State.post
      dsimp only
      rw [hu, hq]
    rw [e]
    exact ⟨⟨s.lib, s.chip, s.cam, s.links, s.time, s.mgmt, s.out, s.host.loc, s.host.rem, s.host.pba, _, by rfl⟩, fun v => by rw [hu]; exact ⟨rfl, rfl⟩⟩
  | some q =>
    have hu : ∀ v, (s.unpend p.who p.cmd.seq).ses v = s.ses v := fun v => by cases v <;> rfl
    obtain ⟨q', hq', -, -, h3, -, h5⟩ := completeObj_posted s p q status obj result unit hq
    refine ⟨⟨s.lib, _, s.cam, s.links, s.time, s.mgmt, _, _, _, _, _, h5⟩, fun v => ?_⟩
    by_cases hv : v = p.who
    · subst hv
      unfold State.completeObj State.post
      dsimp only
      rw [hu, hq]
      dsimp only
      obtain ⟨w, c, ob, ap, da⟩ := p
      cases w with
      | loc i =>
        dsimp only
        generalize hy : State.emit _ _ = y
        obtain ⟨-, g2⟩ := slotSignal_loc y i
        rw [g2]
        have : ∀ p o, ({ y with host := { y.host with pba := p }, out := o } : State).ses (.loc i) = y.ses (.loc i) := fun _ _ => rfl
        rw [this, ← hy]
        show (((s.unpend _ _).setSes (.loc i) _).ses (.loc i)).isOpen = _ ∧ (((s.unpend _ _).setSes (.loc i) _).ses (.loc i)).token = _
        rw [ses_setSes_same]
        exact ⟨rfl, rfl⟩
      | rem i =>
        dsimp only
        show ((State.setSes _ (.rem i) _).ses (.rem i)).isOpen = _ ∧ ((State.setSes _ (.rem i) _).ses (.rem i)).token = _
        rw [ses_setSes_same]
        exact ⟨rfl, rfl⟩
    · rw [h3 v hv]; exact ⟨rfl, rfl⟩

theorem discardPend_discarded (s : State) (e : BitVec 16) (p : Pend) : Discarded s (s.discardPend e p) := by
  unfold State.discardPend
  split
  · exact .refl s
  · exact (undo_discarded s p).trans (complete_discarded _ _ _ _ _ _)

theorem foldl_discarded {α : Type} (f : State → α → State) (hf : ∀ s a, Discarded s (f s a)) (l : List α) (s : State) :
    Discarded s (l.foldl f s) := by
  induction l generalizing s with
  | nil => exact .refl s
  | cons a t ih => exact (hf s a).trans (ih _)

/-- What an epoch change leaves (R70): the new epoch and its cause, and what discarding the older work touches. -/
theorem epochUp_law (s : State) (kind source : Nat) :
    Discarded { s with
      host := { s.host with epoch := s.host.epoch + 1, ecKind := kind, ecSource := source, ecEpoch := s.host.epoch + 1, epochAt := some s.now } } (s.epochUp kind source) := by
  unfold State.epochUp
  exact (foldl_discarded _ (fun s w => discardSlot_discarded s _ w) _ _).trans (foldl_discarded _ (fun s p => discardPend_discarded s _ p) _ _)

end Sys2Proof.Machine
end

