-- ==== Sys2Proof/Laws/State.lean ====
section
/-!
SUPPORT. One law for each field of State and each plain update of it: what the update leaves, by reflexivity.
-/
namespace Sys2Proof.Machine

/-! ### An output leaves (`State.emit`) -/

@[simp] theorem State.emit_pending (s : State) (o : Output) : (s.emit o).pending = s.pending := rfl
@[simp] theorem State.emit_clk (s : State) (o : Output) : (s.emit o).clk = s.clk := rfl
@[simp] theorem State.emit_pwr (s : State) (o : Output) : (s.emit o).pwr = s.pwr := rfl
@[simp] theorem State.emit_otp (s : State) (o : Output) : (s.emit o).otp = s.otp := rfl
@[simp] theorem State.emit_flash (s : State) (o : Output) : (s.emit o).flash = s.flash := rfl
@[simp] theorem State.emit_vbat (s : State) (o : Output) : (s.emit o).vbat = s.vbat := rfl
@[simp] theorem State.emit_host (s : State) (o : Output) : (s.emit o).host = s.host := rfl
@[simp] theorem State.emit_params (s : State) (o : Output) : (s.emit o).params = s.params := rfl
@[simp] theorem State.emit_lib (s : State) (o : Output) : (s.emit o).lib = s.lib := rfl
@[simp] theorem State.emit_splice (s : State) (o : Output) : (s.emit o).splice = s.splice := rfl
@[simp] theorem State.emit_raster (s : State) (o : Output) : (s.emit o).raster = s.raster := rfl
@[simp] theorem State.emit_grates (s : State) (o : Output) : (s.emit o).grates = s.grates := rfl
@[simp] theorem State.emit_ember (s : State) (o : Output) : (s.emit o).ember = s.ember := rfl
@[simp] theorem State.emit_fire (s : State) (o : Output) : (s.emit o).fire = s.fire := rfl
@[simp] theorem State.emit_fb (s : State) (o : Output) : (s.emit o).fb = s.fb := rfl
@[simp] theorem State.emit_lanes (s : State) (o : Output) : (s.emit o).lanes = s.lanes := rfl
@[simp] theorem State.emit_spares (s : State) (o : Output) : (s.emit o).spares = s.spares := rfl
@[simp] theorem State.emit_links (s : State) (o : Output) : (s.emit o).links = s.links := rfl
@[simp] theorem State.emit_motion (s : State) (o : Output) : (s.emit o).motion = s.motion := rfl
@[simp] theorem State.emit_time (s : State) (o : Output) : (s.emit o).time = s.time := rfl
@[simp] theorem State.emit_cam (s : State) (o : Output) : (s.emit o).cam = s.cam := rfl
@[simp] theorem State.emit_loop (s : State) (o : Output) : (s.emit o).loop = s.loop := rfl
@[simp] theorem State.emit_ddr (s : State) (o : Output) : (s.emit o).ddr = s.ddr := rfl
@[simp] theorem State.emit_chip (s : State) (o : Output) : (s.emit o).chip = s.chip := rfl
@[simp] theorem State.emit_faults (s : State) (o : Output) : (s.emit o).faults = s.faults := rfl
@[simp] theorem State.emit_draught (s : State) (o : Output) : (s.emit o).draught = s.draught := rfl
@[simp] theorem State.emit_mgmt (s : State) (o : Output) : (s.emit o).mgmt = s.mgmt := rfl
@[simp] theorem State.emit_sec (s : State) (o : Output) : (s.emit o).sec = s.sec := rfl
@[simp] theorem State.emit_ledger (s : State) (o : Output) : (s.emit o).ledger = s.ledger := rfl
@[simp] theorem State.emit_out (s : State) (o : Output) : (s.emit o).out = o :: s.out := rfl
@[simp] theorem State.emit_free (s : State) (o : Output) : (s.emit o).free = s.free := rfl

/-! ### Outputs leave in order (`State.emits`) -/

@[simp] theorem State.emits_pending (s : State) (l : List Output) : (s.emits l).pending = s.pending := rfl
@[simp] theorem State.emits_clk (s : State) (l : List Output) : (s.emits l).clk = s.clk := rfl
@[simp] theorem State.emits_pwr (s : State) (l : List Output) : (s.emits l).pwr = s.pwr := rfl
@[simp] theorem State.emits_otp (s : State) (l : List Output) : (s.emits l).otp = s.otp := rfl
@[simp] theorem State.emits_flash (s : State) (l : List Output) : (s.emits l).flash = s.flash := rfl
@[simp] theorem State.emits_vbat (s : State) (l : List Output) : (s.emits l).vbat = s.vbat := rfl
@[simp] theorem State.emits_host (s : State) (l : List Output) : (s.emits l).host = s.host := rfl
@[simp] theorem State.emits_params (s : State) (l : List Output) : (s.emits l).params = s.params := rfl
@[simp] theorem State.emits_lib (s : State) (l : List Output) : (s.emits l).lib = s.lib := rfl
@[simp] theorem State.emits_splice (s : State) (l : List Output) : (s.emits l).splice = s.splice := rfl
@[simp] theorem State.emits_raster (s : State) (l : List Output) : (s.emits l).raster = s.raster := rfl
@[simp] theorem State.emits_grates (s : State) (l : List Output) : (s.emits l).grates = s.grates := rfl
@[simp] theorem State.emits_ember (s : State) (l : List Output) : (s.emits l).ember = s.ember := rfl
@[simp] theorem State.emits_fire (s : State) (l : List Output) : (s.emits l).fire = s.fire := rfl
@[simp] theorem State.emits_fb (s : State) (l : List Output) : (s.emits l).fb = s.fb := rfl
@[simp] theorem State.emits_lanes (s : State) (l : List Output) : (s.emits l).lanes = s.lanes := rfl
@[simp] theorem State.emits_spares (s : State) (l : List Output) : (s.emits l).spares = s.spares := rfl
@[simp] theorem State.emits_links (s : State) (l : List Output) : (s.emits l).links = s.links := rfl
@[simp] theorem State.emits_motion (s : State) (l : List Output) : (s.emits l).motion = s.motion := rfl
@[simp] theorem State.emits_time (s : State) (l : List Output) : (s.emits l).time = s.time := rfl
@[simp] theorem State.emits_cam (s : State) (l : List Output) : (s.emits l).cam = s.cam := rfl
@[simp] theorem State.emits_loop (s : State) (l : List Output) : (s.emits l).loop = s.loop := rfl
@[simp] theorem State.emits_ddr (s : State) (l : List Output) : (s.emits l).ddr = s.ddr := rfl
@[simp] theorem State.emits_chip (s : State) (l : List Output) : (s.emits l).chip = s.chip := rfl
@[simp] theorem State.emits_faults (s : State) (l : List Output) : (s.emits l).faults = s.faults := rfl
@[simp] theorem State.emits_draught (s : State) (l : List Output) : (s.emits l).draught = s.draught := rfl
@[simp] theorem State.emits_mgmt (s : State) (l : List Output) : (s.emits l).mgmt = s.mgmt := rfl
@[simp] theorem State.emits_sec (s : State) (l : List Output) : (s.emits l).sec = s.sec := rfl
@[simp] theorem State.emits_ledger (s : State) (l : List Output) : (s.emits l).ledger = s.ledger := rfl
@[simp] theorem State.emits_out (s : State) (l : List Output) : (s.emits l).out = l.reverse ++ s.out := rfl
@[simp] theorem State.emits_free (s : State) (l : List Output) : (s.emits l).free = s.free := rfl

/-! ### A free value is taken (`State.fresh`) -/

@[simp] theorem State.fresh_pending (s : State) : (s.fresh).pending = s.pending := rfl
@[simp] theorem State.fresh_clk (s : State) : (s.fresh).clk = s.clk := rfl
@[simp] theorem State.fresh_pwr (s : State) : (s.fresh).pwr = s.pwr := rfl
@[simp] theorem State.fresh_otp (s : State) : (s.fresh).otp = s.otp := rfl
@[simp] theorem State.fresh_flash (s : State) : (s.fresh).flash = s.flash := rfl
@[simp] theorem State.fresh_vbat (s : State) : (s.fresh).vbat = s.vbat := rfl
@[simp] theorem State.fresh_host (s : State) : (s.fresh).host = s.host := rfl
@[simp] theorem State.fresh_params (s : State) : (s.fresh).params = s.params := rfl
@[simp] theorem State.fresh_lib (s : State) : (s.fresh).lib = s.lib := rfl
@[simp] theorem State.fresh_splice (s : State) : (s.fresh).splice = s.splice := rfl
@[simp] theorem State.fresh_raster (s : State) : (s.fresh).raster = s.raster := rfl
@[simp] theorem State.fresh_grates (s : State) : (s.fresh).grates = s.grates := rfl
@[simp] theorem State.fresh_ember (s : State) : (s.fresh).ember = s.ember := rfl
@[simp] theorem State.fresh_fire (s : State) : (s.fresh).fire = s.fire := rfl
@[simp] theorem State.fresh_fb (s : State) : (s.fresh).fb = s.fb := rfl
@[simp] theorem State.fresh_lanes (s : State) : (s.fresh).lanes = s.lanes := rfl
@[simp] theorem State.fresh_spares (s : State) : (s.fresh).spares = s.spares := rfl
@[simp] theorem State.fresh_links (s : State) : (s.fresh).links = s.links := rfl
@[simp] theorem State.fresh_motion (s : State) : (s.fresh).motion = s.motion := rfl
@[simp] theorem State.fresh_time (s : State) : (s.fresh).time = s.time := rfl
@[simp] theorem State.fresh_cam (s : State) : (s.fresh).cam = s.cam := rfl
@[simp] theorem State.fresh_loop (s : State) : (s.fresh).loop = s.loop := rfl
@[simp] theorem State.fresh_ddr (s : State) : (s.fresh).ddr = s.ddr := rfl
@[simp] theorem State.fresh_chip (s : State) : (s.fresh).chip = s.chip := rfl
@[simp] theorem State.fresh_faults (s : State) : (s.fresh).faults = s.faults := rfl
@[simp] theorem State.fresh_draught (s : State) : (s.fresh).draught = s.draught := rfl
@[simp] theorem State.fresh_mgmt (s : State) : (s.fresh).mgmt = s.mgmt := rfl
@[simp] theorem State.fresh_sec (s : State) : (s.fresh).sec = s.sec := rfl
@[simp] theorem State.fresh_ledger (s : State) : (s.fresh).ledger = s.ledger := rfl
@[simp] theorem State.fresh_out (s : State) : (s.fresh).out = s.out := rfl
@[simp] theorem State.fresh_free (s : State) : (s.fresh).free = s.free + 1 := rfl

/-! ### Time passes (`State.pass`) -/

@[simp] theorem State.pass_pending (s : State) (dt : Nat) : (s.pass dt).pending = s.pending := rfl
@[simp] theorem State.pass_clk (s : State) (dt : Nat) : (s.pass dt).clk = s.clk.pass dt := rfl
@[simp] theorem State.pass_pwr (s : State) (dt : Nat) : (s.pass dt).pwr = s.pwr := rfl
@[simp] theorem State.pass_otp (s : State) (dt : Nat) : (s.pass dt).otp = s.otp := rfl
@[simp] theorem State.pass_flash (s : State) (dt : Nat) : (s.pass dt).flash = s.flash := rfl
@[simp] theorem State.pass_vbat (s : State) (dt : Nat) : (s.pass dt).vbat = s.vbat.pass dt := rfl
@[simp] theorem State.pass_host (s : State) (dt : Nat) : (s.pass dt).host = s.host := rfl
@[simp] theorem State.pass_params (s : State) (dt : Nat) : (s.pass dt).params = s.params := rfl
@[simp] theorem State.pass_lib (s : State) (dt : Nat) : (s.pass dt).lib = s.lib := rfl
@[simp] theorem State.pass_splice (s : State) (dt : Nat) : (s.pass dt).splice = s.splice := rfl
@[simp] theorem State.pass_raster (s : State) (dt : Nat) : (s.pass dt).raster = s.raster := rfl
@[simp] theorem State.pass_grates (s : State) (dt : Nat) : (s.pass dt).grates = s.grates := rfl
@[simp] theorem State.pass_ember (s : State) (dt : Nat) : (s.pass dt).ember = s.ember := rfl
@[simp] theorem State.pass_fire (s : State) (dt : Nat) : (s.pass dt).fire = s.fire := rfl
@[simp] theorem State.pass_fb (s : State) (dt : Nat) : (s.pass dt).fb = s.fb := rfl
@[simp] theorem State.pass_lanes (s : State) (dt : Nat) : (s.pass dt).lanes = s.lanes := rfl
@[simp] theorem State.pass_spares (s : State) (dt : Nat) : (s.pass dt).spares = s.spares := rfl
@[simp] theorem State.pass_links (s : State) (dt : Nat) : (s.pass dt).links = s.links := rfl
@[simp] theorem State.pass_motion (s : State) (dt : Nat) : (s.pass dt).motion = s.motion := rfl
@[simp] theorem State.pass_time (s : State) (dt : Nat) : (s.pass dt).time = s.time := rfl
@[simp] theorem State.pass_cam (s : State) (dt : Nat) : (s.pass dt).cam = s.cam := rfl
@[simp] theorem State.pass_loop (s : State) (dt : Nat) : (s.pass dt).loop = s.loop := rfl
@[simp] theorem State.pass_ddr (s : State) (dt : Nat) : (s.pass dt).ddr = s.ddr := rfl
@[simp] theorem State.pass_chip (s : State) (dt : Nat) : (s.pass dt).chip = s.chip := rfl
@[simp] theorem State.pass_faults (s : State) (dt : Nat) : (s.pass dt).faults = s.faults := rfl
@[simp] theorem State.pass_draught (s : State) (dt : Nat) : (s.pass dt).draught = s.draught := rfl
@[simp] theorem State.pass_mgmt (s : State) (dt : Nat) : (s.pass dt).mgmt = s.mgmt := rfl
@[simp] theorem State.pass_sec (s : State) (dt : Nat) : (s.pass dt).sec = s.sec := rfl
@[simp] theorem State.pass_ledger (s : State) (dt : Nat) : (s.pass dt).ledger = s.ledger := rfl
@[simp] theorem State.pass_out (s : State) (dt : Nat) : (s.pass dt).out = s.out := rfl
@[simp] theorem State.pass_free (s : State) (dt : Nat) : (s.pass dt).free = s.free := rfl

/-! ### A directory entry is written (`State.setJob`) -/

@[simp] theorem State.setJob_pending (s : State) (i : Nat) (j : Job) : (s.setJob i j).pending = s.pending := rfl
@[simp] theorem State.setJob_clk (s : State) (i : Nat) (j : Job) : (s.setJob i j).clk = s.clk := rfl
@[simp] theorem State.setJob_pwr (s : State) (i : Nat) (j : Job) : (s.setJob i j).pwr = s.pwr := rfl
@[simp] theorem State.setJob_otp (s : State) (i : Nat) (j : Job) : (s.setJob i j).otp = s.otp := rfl
@[simp] theorem State.setJob_flash (s : State) (i : Nat) (j : Job) : (s.setJob i j).flash = s.flash := rfl
@[simp] theorem State.setJob_vbat (s : State) (i : Nat) (j : Job) : (s.setJob i j).vbat = s.vbat := rfl
@[simp] theorem State.setJob_host (s : State) (i : Nat) (j : Job) : (s.setJob i j).host = s.host := rfl
@[simp] theorem State.setJob_params (s : State) (i : Nat) (j : Job) : (s.setJob i j).params = s.params := rfl
@[simp] theorem State.setJob_lib (s : State) (i : Nat) (j : Job) : (s.setJob i j).lib = { s.lib with dir := put s.lib.dir i j } := rfl
@[simp] theorem State.setJob_splice (s : State) (i : Nat) (j : Job) : (s.setJob i j).splice = s.splice := rfl
@[simp] theorem State.setJob_raster (s : State) (i : Nat) (j : Job) : (s.setJob i j).raster = s.raster := rfl
@[simp] theorem State.setJob_grates (s : State) (i : Nat) (j : Job) : (s.setJob i j).grates = s.grates := rfl
@[simp] theorem State.setJob_ember (s : State) (i : Nat) (j : Job) : (s.setJob i j).ember = s.ember := rfl
@[simp] theorem State.setJob_fire (s : State) (i : Nat) (j : Job) : (s.setJob i j).fire = s.fire := rfl
@[simp] theorem State.setJob_fb (s : State) (i : Nat) (j : Job) : (s.setJob i j).fb = s.fb := rfl
@[simp] theorem State.setJob_lanes (s : State) (i : Nat) (j : Job) : (s.setJob i j).lanes = s.lanes := rfl
@[simp] theorem State.setJob_spares (s : State) (i : Nat) (j : Job) : (s.setJob i j).spares = s.spares := rfl
@[simp] theorem State.setJob_links (s : State) (i : Nat) (j : Job) : (s.setJob i j).links = s.links := rfl
@[simp] theorem State.setJob_motion (s : State) (i : Nat) (j : Job) : (s.setJob i j).motion = s.motion := rfl
@[simp] theorem State.setJob_time (s : State) (i : Nat) (j : Job) : (s.setJob i j).time = s.time := rfl
@[simp] theorem State.setJob_cam (s : State) (i : Nat) (j : Job) : (s.setJob i j).cam = s.cam := rfl
@[simp] theorem State.setJob_loop (s : State) (i : Nat) (j : Job) : (s.setJob i j).loop = s.loop := rfl
@[simp] theorem State.setJob_ddr (s : State) (i : Nat) (j : Job) : (s.setJob i j).ddr = s.ddr := rfl
@[simp] theorem State.setJob_chip (s : State) (i : Nat) (j : Job) : (s.setJob i j).chip = s.chip := rfl
@[simp] theorem State.setJob_faults (s : State) (i : Nat) (j : Job) : (s.setJob i j).faults = s.faults := rfl
@[simp] theorem State.setJob_draught (s : State) (i : Nat) (j : Job) : (s.setJob i j).draught = s.draught := rfl
@[simp] theorem State.setJob_mgmt (s : State) (i : Nat) (j : Job) : (s.setJob i j).mgmt = s.mgmt := rfl
@[simp] theorem State.setJob_sec (s : State) (i : Nat) (j : Job) : (s.setJob i j).sec = s.sec := rfl
@[simp] theorem State.setJob_ledger (s : State) (i : Nat) (j : Job) : (s.setJob i j).ledger = s.ledger := rfl
@[simp] theorem State.setJob_out (s : State) (i : Nat) (j : Job) : (s.setJob i j).out = s.out := rfl
@[simp] theorem State.setJob_free (s : State) (i : Nat) (j : Job) : (s.setJob i j).free = s.free := rfl

/-! ### A GRATE core is written (`State.setGrate`) -/

@[simp] theorem State.setGrate_pending (s : State) (b : Nat) (x : Grate) : (s.setGrate b x).pending = s.pending := rfl
@[simp] theorem State.setGrate_clk (s : State) (b : Nat) (x : Grate) : (s.setGrate b x).clk = s.clk := rfl
@[simp] theorem State.setGrate_pwr (s : State) (b : Nat) (x : Grate) : (s.setGrate b x).pwr = s.pwr := rfl
@[simp] theorem State.setGrate_otp (s : State) (b : Nat) (x : Grate) : (s.setGrate b x).otp = s.otp := rfl
@[simp] theorem State.setGrate_flash (s : State) (b : Nat) (x : Grate) : (s.setGrate b x).flash = s.flash := rfl
@[simp] theorem State.setGrate_vbat (s : State) (b : Nat) (x : Grate) : (s.setGrate b x).vbat = s.vbat := rfl
@[simp] theorem State.setGrate_host (s : State) (b : Nat) (x : Grate) : (s.setGrate b x).host = s.host := rfl
@[simp] theorem State.setGrate_params (s : State) (b : Nat) (x : Grate) : (s.setGrate b x).params = s.params := rfl
@[simp] theorem State.setGrate_lib (s : State) (b : Nat) (x : Grate) : (s.setGrate b x).lib = s.lib := rfl
@[simp] theorem State.setGrate_splice (s : State) (b : Nat) (x : Grate) : (s.setGrate b x).splice = s.splice := rfl
@[simp] theorem State.setGrate_raster (s : State) (b : Nat) (x : Grate) : (s.setGrate b x).raster = s.raster := rfl
@[simp] theorem State.setGrate_grates (s : State) (b : Nat) (x : Grate) : (s.setGrate b x).grates = put s.grates b x := rfl
@[simp] theorem State.setGrate_ember (s : State) (b : Nat) (x : Grate) : (s.setGrate b x).ember = s.ember := rfl
@[simp] theorem State.setGrate_fire (s : State) (b : Nat) (x : Grate) : (s.setGrate b x).fire = s.fire := rfl
@[simp] theorem State.setGrate_fb (s : State) (b : Nat) (x : Grate) : (s.setGrate b x).fb = s.fb := rfl
@[simp] theorem State.setGrate_lanes (s : State) (b : Nat) (x : Grate) : (s.setGrate b x).lanes = s.lanes := rfl
@[simp] theorem State.setGrate_spares (s : State) (b : Nat) (x : Grate) : (s.setGrate b x).spares = s.spares := rfl
@[simp] theorem State.setGrate_links (s : State) (b : Nat) (x : Grate) : (s.setGrate b x).links = s.links := rfl
@[simp] theorem State.setGrate_motion (s : State) (b : Nat) (x : Grate) : (s.setGrate b x).motion = s.motion := rfl
@[simp] theorem State.setGrate_time (s : State) (b : Nat) (x : Grate) : (s.setGrate b x).time = s.time := rfl
@[simp] theorem State.setGrate_cam (s : State) (b : Nat) (x : Grate) : (s.setGrate b x).cam = s.cam := rfl
@[simp] theorem State.setGrate_loop (s : State) (b : Nat) (x : Grate) : (s.setGrate b x).loop = s.loop := rfl
@[simp] theorem State.setGrate_ddr (s : State) (b : Nat) (x : Grate) : (s.setGrate b x).ddr = s.ddr := rfl
@[simp] theorem State.setGrate_chip (s : State) (b : Nat) (x : Grate) : (s.setGrate b x).chip = s.chip := rfl
@[simp] theorem State.setGrate_faults (s : State) (b : Nat) (x : Grate) : (s.setGrate b x).faults = s.faults := rfl
@[simp] theorem State.setGrate_draught (s : State) (b : Nat) (x : Grate) : (s.setGrate b x).draught = s.draught := rfl
@[simp] theorem State.setGrate_mgmt (s : State) (b : Nat) (x : Grate) : (s.setGrate b x).mgmt = s.mgmt := rfl
@[simp] theorem State.setGrate_sec (s : State) (b : Nat) (x : Grate) : (s.setGrate b x).sec = s.sec := rfl
@[simp] theorem State.setGrate_ledger (s : State) (b : Nat) (x : Grate) : (s.setGrate b x).ledger = s.ledger := rfl
@[simp] theorem State.setGrate_out (s : State) (b : Nat) (x : Grate) : (s.setGrate b x).out = s.out := rfl
@[simp] theorem State.setGrate_free (s : State) (b : Nat) (x : Grate) : (s.setGrate b x).free = s.free := rfl

/-! ### A lane is written (`State.setLane`) -/

@[simp] theorem State.setLane_pending (s : State) (l : Nat) (x : Lane) : (s.setLane l x).pending = s.pending := rfl
@[simp] theorem State.setLane_clk (s : State) (l : Nat) (x : Lane) : (s.setLane l x).clk = s.clk := rfl
@[simp] theorem State.setLane_pwr (s : State) (l : Nat) (x : Lane) : (s.setLane l x).pwr = s.pwr := rfl
@[simp] theorem State.setLane_otp (s : State) (l : Nat) (x : Lane) : (s.setLane l x).otp = s.otp := rfl
@[simp] theorem State.setLane_flash (s : State) (l : Nat) (x : Lane) : (s.setLane l x).flash = s.flash := rfl
@[simp] theorem State.setLane_vbat (s : State) (l : Nat) (x : Lane) : (s.setLane l x).vbat = s.vbat := rfl
@[simp] theorem State.setLane_host (s : State) (l : Nat) (x : Lane) : (s.setLane l x).host = s.host := rfl
@[simp] theorem State.setLane_params (s : State) (l : Nat) (x : Lane) : (s.setLane l x).params = s.params := rfl
@[simp] theorem State.setLane_lib (s : State) (l : Nat) (x : Lane) : (s.setLane l x).lib = s.lib := rfl
@[simp] theorem State.setLane_splice (s : State) (l : Nat) (x : Lane) : (s.setLane l x).splice = s.splice := rfl
@[simp] theorem State.setLane_raster (s : State) (l : Nat) (x : Lane) : (s.setLane l x).raster = s.raster := rfl
@[simp] theorem State.setLane_grates (s : State) (l : Nat) (x : Lane) : (s.setLane l x).grates = s.grates := rfl
@[simp] theorem State.setLane_ember (s : State) (l : Nat) (x : Lane) : (s.setLane l x).ember = s.ember := rfl
@[simp] theorem State.setLane_fire (s : State) (l : Nat) (x : Lane) : (s.setLane l x).fire = s.fire := rfl
@[simp] theorem State.setLane_fb (s : State) (l : Nat) (x : Lane) : (s.setLane l x).fb = s.fb := rfl
@[simp] theorem State.setLane_lanes (s : State) (l : Nat) (x : Lane) : (s.setLane l x).lanes = put s.lanes l x := rfl
@[simp] theorem State.setLane_spares (s : State) (l : Nat) (x : Lane) : (s.setLane l x).spares = s.spares := rfl
@[simp] theorem State.setLane_links (s : State) (l : Nat) (x : Lane) : (s.setLane l x).links = s.links := rfl
@[simp] theorem State.setLane_motion (s : State) (l : Nat) (x : Lane) : (s.setLane l x).motion = s.motion := rfl
@[simp] theorem State.setLane_time (s : State) (l : Nat) (x : Lane) : (s.setLane l x).time = s.time := rfl
@[simp] theorem State.setLane_cam (s : State) (l : Nat) (x : Lane) : (s.setLane l x).cam = s.cam := rfl
@[simp] theorem State.setLane_loop (s : State) (l : Nat) (x : Lane) : (s.setLane l x).loop = s.loop := rfl
@[simp] theorem State.setLane_ddr (s : State) (l : Nat) (x : Lane) : (s.setLane l x).ddr = s.ddr := rfl
@[simp] theorem State.setLane_chip (s : State) (l : Nat) (x : Lane) : (s.setLane l x).chip = s.chip := rfl
@[simp] theorem State.setLane_faults (s : State) (l : Nat) (x : Lane) : (s.setLane l x).faults = s.faults := rfl
@[simp] theorem State.setLane_draught (s : State) (l : Nat) (x : Lane) : (s.setLane l x).draught = s.draught := rfl
@[simp] theorem State.setLane_mgmt (s : State) (l : Nat) (x : Lane) : (s.setLane l x).mgmt = s.mgmt := rfl
@[simp] theorem State.setLane_sec (s : State) (l : Nat) (x : Lane) : (s.setLane l x).sec = s.sec := rfl
@[simp] theorem State.setLane_ledger (s : State) (l : Nat) (x : Lane) : (s.setLane l x).ledger = s.ledger := rfl
@[simp] theorem State.setLane_out (s : State) (l : Nat) (x : Lane) : (s.setLane l x).out = s.out := rfl
@[simp] theorem State.setLane_free (s : State) (l : Nat) (x : Lane) : (s.setLane l x).free = s.free := rfl

/-! ### A camera context is written (`State.setCtx`) -/

@[simp] theorem State.setCtx_pending (s : State) (c : Nat) (x : Ctx) : (s.setCtx c x).pending = s.pending := rfl
@[simp] theorem State.setCtx_clk (s : State) (c : Nat) (x : Ctx) : (s.setCtx c x).clk = s.clk := rfl
@[simp] theorem State.setCtx_pwr (s : State) (c : Nat) (x : Ctx) : (s.setCtx c x).pwr = s.pwr := rfl
@[simp] theorem State.setCtx_otp (s : State) (c : Nat) (x : Ctx) : (s.setCtx c x).otp = s.otp := rfl
@[simp] theorem State.setCtx_flash (s : State) (c : Nat) (x : Ctx) : (s.setCtx c x).flash = s.flash := rfl
@[simp] theorem State.setCtx_vbat (s : State) (c : Nat) (x : Ctx) : (s.setCtx c x).vbat = s.vbat := rfl
@[simp] theorem State.setCtx_host (s : State) (c : Nat) (x : Ctx) : (s.setCtx c x).host = s.host := rfl
@[simp] theorem State.setCtx_params (s : State) (c : Nat) (x : Ctx) : (s.setCtx c x).params = s.params := rfl
@[simp] theorem State.setCtx_lib (s : State) (c : Nat) (x : Ctx) : (s.setCtx c x).lib = s.lib := rfl
@[simp] theorem State.setCtx_splice (s : State) (c : Nat) (x : Ctx) : (s.setCtx c x).splice = s.splice := rfl
@[simp] theorem State.setCtx_raster (s : State) (c : Nat) (x : Ctx) : (s.setCtx c x).raster = s.raster := rfl
@[simp] theorem State.setCtx_grates (s : State) (c : Nat) (x : Ctx) : (s.setCtx c x).grates = s.grates := rfl
@[simp] theorem State.setCtx_ember (s : State) (c : Nat) (x : Ctx) : (s.setCtx c x).ember = s.ember := rfl
@[simp] theorem State.setCtx_fire (s : State) (c : Nat) (x : Ctx) : (s.setCtx c x).fire = s.fire := rfl
@[simp] theorem State.setCtx_fb (s : State) (c : Nat) (x : Ctx) : (s.setCtx c x).fb = s.fb := rfl
@[simp] theorem State.setCtx_lanes (s : State) (c : Nat) (x : Ctx) : (s.setCtx c x).lanes = s.lanes := rfl
@[simp] theorem State.setCtx_spares (s : State) (c : Nat) (x : Ctx) : (s.setCtx c x).spares = s.spares := rfl
@[simp] theorem State.setCtx_links (s : State) (c : Nat) (x : Ctx) : (s.setCtx c x).links = s.links := rfl
@[simp] theorem State.setCtx_motion (s : State) (c : Nat) (x : Ctx) : (s.setCtx c x).motion = s.motion := rfl
@[simp] theorem State.setCtx_time (s : State) (c : Nat) (x : Ctx) : (s.setCtx c x).time = s.time := rfl
@[simp] theorem State.setCtx_cam (s : State) (c : Nat) (x : Ctx) : (s.setCtx c x).cam = { s.cam with ctx := put s.cam.ctx c x } := rfl
@[simp] theorem State.setCtx_loop (s : State) (c : Nat) (x : Ctx) : (s.setCtx c x).loop = s.loop := rfl
@[simp] theorem State.setCtx_ddr (s : State) (c : Nat) (x : Ctx) : (s.setCtx c x).ddr = s.ddr := rfl
@[simp] theorem State.setCtx_chip (s : State) (c : Nat) (x : Ctx) : (s.setCtx c x).chip = s.chip := rfl
@[simp] theorem State.setCtx_faults (s : State) (c : Nat) (x : Ctx) : (s.setCtx c x).faults = s.faults := rfl
@[simp] theorem State.setCtx_draught (s : State) (c : Nat) (x : Ctx) : (s.setCtx c x).draught = s.draught := rfl
@[simp] theorem State.setCtx_mgmt (s : State) (c : Nat) (x : Ctx) : (s.setCtx c x).mgmt = s.mgmt := rfl
@[simp] theorem State.setCtx_sec (s : State) (c : Nat) (x : Ctx) : (s.setCtx c x).sec = s.sec := rfl
@[simp] theorem State.setCtx_ledger (s : State) (c : Nat) (x : Ctx) : (s.setCtx c x).ledger = s.ledger := rfl
@[simp] theorem State.setCtx_out (s : State) (c : Nat) (x : Ctx) : (s.setCtx c x).out = s.out := rfl
@[simp] theorem State.setCtx_free (s : State) (c : Nat) (x : Ctx) : (s.setCtx c x).free = s.free := rfl

/-! ### A mark is written (`State.setMark`) -/

@[simp] theorem State.setMark_pending (s : State) (k : Nat) (x : Mark) : (s.setMark k x).pending = s.pending := rfl
@[simp] theorem State.setMark_clk (s : State) (k : Nat) (x : Mark) : (s.setMark k x).clk = s.clk := rfl
@[simp] theorem State.setMark_pwr (s : State) (k : Nat) (x : Mark) : (s.setMark k x).pwr = s.pwr := rfl
@[simp] theorem State.setMark_otp (s : State) (k : Nat) (x : Mark) : (s.setMark k x).otp = s.otp := rfl
@[simp] theorem State.setMark_flash (s : State) (k : Nat) (x : Mark) : (s.setMark k x).flash = s.flash := rfl
@[simp] theorem State.setMark_vbat (s : State) (k : Nat) (x : Mark) : (s.setMark k x).vbat = s.vbat := rfl
@[simp] theorem State.setMark_host (s : State) (k : Nat) (x : Mark) : (s.setMark k x).host = s.host := rfl
@[simp] theorem State.setMark_params (s : State) (k : Nat) (x : Mark) : (s.setMark k x).params = s.params := rfl
@[simp] theorem State.setMark_lib (s : State) (k : Nat) (x : Mark) : (s.setMark k x).lib = s.lib := rfl
@[simp] theorem State.setMark_splice (s : State) (k : Nat) (x : Mark) : (s.setMark k x).splice = s.splice := rfl
@[simp] theorem State.setMark_raster (s : State) (k : Nat) (x : Mark) : (s.setMark k x).raster = s.raster := rfl
@[simp] theorem State.setMark_grates (s : State) (k : Nat) (x : Mark) : (s.setMark k x).grates = s.grates := rfl
@[simp] theorem State.setMark_ember (s : State) (k : Nat) (x : Mark) : (s.setMark k x).ember = s.ember := rfl
@[simp] theorem State.setMark_fire (s : State) (k : Nat) (x : Mark) : (s.setMark k x).fire = s.fire := rfl
@[simp] theorem State.setMark_fb (s : State) (k : Nat) (x : Mark) : (s.setMark k x).fb = s.fb := rfl
@[simp] theorem State.setMark_lanes (s : State) (k : Nat) (x : Mark) : (s.setMark k x).lanes = s.lanes := rfl
@[simp] theorem State.setMark_spares (s : State) (k : Nat) (x : Mark) : (s.setMark k x).spares = s.spares := rfl
@[simp] theorem State.setMark_links (s : State) (k : Nat) (x : Mark) : (s.setMark k x).links = s.links := rfl
@[simp] theorem State.setMark_motion (s : State) (k : Nat) (x : Mark) : (s.setMark k x).motion = { s.motion with marks := put s.motion.marks k x } := rfl
@[simp] theorem State.setMark_time (s : State) (k : Nat) (x : Mark) : (s.setMark k x).time = s.time := rfl
@[simp] theorem State.setMark_cam (s : State) (k : Nat) (x : Mark) : (s.setMark k x).cam = s.cam := rfl
@[simp] theorem State.setMark_loop (s : State) (k : Nat) (x : Mark) : (s.setMark k x).loop = s.loop := rfl
@[simp] theorem State.setMark_ddr (s : State) (k : Nat) (x : Mark) : (s.setMark k x).ddr = s.ddr := rfl
@[simp] theorem State.setMark_chip (s : State) (k : Nat) (x : Mark) : (s.setMark k x).chip = s.chip := rfl
@[simp] theorem State.setMark_faults (s : State) (k : Nat) (x : Mark) : (s.setMark k x).faults = s.faults := rfl
@[simp] theorem State.setMark_draught (s : State) (k : Nat) (x : Mark) : (s.setMark k x).draught = s.draught := rfl
@[simp] theorem State.setMark_mgmt (s : State) (k : Nat) (x : Mark) : (s.setMark k x).mgmt = s.mgmt := rfl
@[simp] theorem State.setMark_sec (s : State) (k : Nat) (x : Mark) : (s.setMark k x).sec = s.sec := rfl
@[simp] theorem State.setMark_ledger (s : State) (k : Nat) (x : Mark) : (s.setMark k x).ledger = s.ledger := rfl
@[simp] theorem State.setMark_out (s : State) (k : Nat) (x : Mark) : (s.setMark k x).out = s.out := rfl
@[simp] theorem State.setMark_free (s : State) (k : Nat) (x : Mark) : (s.setMark k x).free = s.free := rfl

/-! ### A DDR4 channel is written (`State.setChan`) -/

@[simp] theorem State.setChan_pending (s : State) (c : Nat) (x : DdrChan) : (s.setChan c x).pending = s.pending := rfl
@[simp] theorem State.setChan_clk (s : State) (c : Nat) (x : DdrChan) : (s.setChan c x).clk = s.clk := rfl
@[simp] theorem State.setChan_pwr (s : State) (c : Nat) (x : DdrChan) : (s.setChan c x).pwr = s.pwr := rfl
@[simp] theorem State.setChan_otp (s : State) (c : Nat) (x : DdrChan) : (s.setChan c x).otp = s.otp := rfl
@[simp] theorem State.setChan_flash (s : State) (c : Nat) (x : DdrChan) : (s.setChan c x).flash = s.flash := rfl
@[simp] theorem State.setChan_vbat (s : State) (c : Nat) (x : DdrChan) : (s.setChan c x).vbat = s.vbat := rfl
@[simp] theorem State.setChan_host (s : State) (c : Nat) (x : DdrChan) : (s.setChan c x).host = s.host := rfl
@[simp] theorem State.setChan_params (s : State) (c : Nat) (x : DdrChan) : (s.setChan c x).params = s.params := rfl
@[simp] theorem State.setChan_lib (s : State) (c : Nat) (x : DdrChan) : (s.setChan c x).lib = s.lib := rfl
@[simp] theorem State.setChan_splice (s : State) (c : Nat) (x : DdrChan) : (s.setChan c x).splice = s.splice := rfl
@[simp] theorem State.setChan_raster (s : State) (c : Nat) (x : DdrChan) : (s.setChan c x).raster = s.raster := rfl
@[simp] theorem State.setChan_grates (s : State) (c : Nat) (x : DdrChan) : (s.setChan c x).grates = s.grates := rfl
@[simp] theorem State.setChan_ember (s : State) (c : Nat) (x : DdrChan) : (s.setChan c x).ember = s.ember := rfl
@[simp] theorem State.setChan_fire (s : State) (c : Nat) (x : DdrChan) : (s.setChan c x).fire = s.fire := rfl
@[simp] theorem State.setChan_fb (s : State) (c : Nat) (x : DdrChan) : (s.setChan c x).fb = s.fb := rfl
@[simp] theorem State.setChan_lanes (s : State) (c : Nat) (x : DdrChan) : (s.setChan c x).lanes = s.lanes := rfl
@[simp] theorem State.setChan_spares (s : State) (c : Nat) (x : DdrChan) : (s.setChan c x).spares = s.spares := rfl
@[simp] theorem State.setChan_links (s : State) (c : Nat) (x : DdrChan) : (s.setChan c x).links = s.links := rfl
@[simp] theorem State.setChan_motion (s : State) (c : Nat) (x : DdrChan) : (s.setChan c x).motion = s.motion := rfl
@[simp] theorem State.setChan_time (s : State) (c : Nat) (x : DdrChan) : (s.setChan c x).time = s.time := rfl
@[simp] theorem State.setChan_cam (s : State) (c : Nat) (x : DdrChan) : (s.setChan c x).cam = s.cam := rfl
@[simp] theorem State.setChan_loop (s : State) (c : Nat) (x : DdrChan) : (s.setChan c x).loop = s.loop := rfl
@[simp] theorem State.setChan_ddr (s : State) (c : Nat) (x : DdrChan) : (s.setChan c x).ddr = { s.ddr with ch := put s.ddr.ch c x } := rfl
@[simp] theorem State.setChan_chip (s : State) (c : Nat) (x : DdrChan) : (s.setChan c x).chip = s.chip := rfl
@[simp] theorem State.setChan_faults (s : State) (c : Nat) (x : DdrChan) : (s.setChan c x).faults = s.faults := rfl
@[simp] theorem State.setChan_draught (s : State) (c : Nat) (x : DdrChan) : (s.setChan c x).draught = s.draught := rfl
@[simp] theorem State.setChan_mgmt (s : State) (c : Nat) (x : DdrChan) : (s.setChan c x).mgmt = s.mgmt := rfl
@[simp] theorem State.setChan_sec (s : State) (c : Nat) (x : DdrChan) : (s.setChan c x).sec = s.sec := rfl
@[simp] theorem State.setChan_ledger (s : State) (c : Nat) (x : DdrChan) : (s.setChan c x).ledger = s.ledger := rfl
@[simp] theorem State.setChan_out (s : State) (c : Nat) (x : DdrChan) : (s.setChan c x).out = s.out := rfl
@[simp] theorem State.setChan_free (s : State) (c : Nat) (x : DdrChan) : (s.setChan c x).free = s.free := rfl

end Sys2Proof.Machine
end

