-- ==== Sys2Proof/Laws/Heads.lean ====
section
/-!
SUPPORT. What the operations of heads and head cards do.
-/
namespace Sys2Proof.Machine

/-- A slot's temperature record after a write. -/
theorem head_setHead (s : State) (i k : Nat) (h : SlotHead) : (s.setHead i h).head k = if k = i then h else s.head k := by
  unfold State.setHead State.head; dsimp only; rw [sel_put]

/-- What LINK holds of a slot after a write. -/
theorem link_setLink (s : State) (i k : Nat) (x : SlotLink) : (s.setLink i x).slotLink k = if k = i then x else s.slotLink k := by
  unfold State.setLink State.slotLink; dsimp only; rw [sel_put]

/-- Either branch touches no more. -/
theorem touched_if {s t u : State} {c : Prop} [Decidable c] (h : Touched s t) (k : Touched s u) : Touched s (if c then t else u) := by
  split <;> assumption

/-- A temperature judged against its limits (R195). -/
theorem judge_law (s : State) (i : Nat) (v : Int) (hs : Calm s F.headTempSoft) (hh : Calm s F.headTempHard) :
    let t := s.judgeTemp i v true
    ∃ h : SlotHead, Touched (s.setHead i h) t ∧ h.temp = (s.head i).temp ∧ h.tempT = (s.head i).tempT ∧ h.tempAt = (s.head i).tempAt ∧ h.mHost = (s.head i).mHost ∧
      (s.parS 16 (P.fireBarSlotTempSoft i) ≤ v → h.soft = true) ∧ (s.parS 16 (P.fireBarSlotTempHard i) ≤ v → h.mTemp = true) := by
  unfold State.judgeTemp State.limits
  dsimp only
  refine ⟨{ s.head i with
    soft := decide (s.parS 16 (P.fireBarSlotTempSoft i) ≤ v) || ((s.head i).soft && decide (s.parS 16 (P.fireBarSlotTempSoft i) - (s.par (P.fireBarSlotTempHyst i) : Int) ≤ v))
    hot := decide (s.parS 16 (P.fireBarSlotTempSoft i) ≤ v) || ((s.head i).hot && decide (s.parS 16 (P.fireBarSlotTempSoft i) - (s.par (P.fireBarSlotTempHyst i) : Int) ≤ v))
    hard := decide (s.parS 16 (P.fireBarSlotTempHard i) ≤ v) || ((s.head i).hard && decide (s.parS 16 (P.fireBarSlotTempHard i) - (s.par (P.fireBarSlotTempHyst i) : Int) ≤ v))
    mTemp := (if decide (s.parS 16 (P.fireBarSlotTempHard i) ≤ v) = true then true
      else if s.par (P.fireBarSlotAutoUnmute i) = 1 ∧ v < s.parS 16 (P.fireBarSlotTempHard i) - (s.par (P.fireBarSlotTempHyst i) : Int) then false else (s.head i).mTemp)
    stale := (if true = true then false else (s.head i).stale) }, ?_, rfl, rfl, rfl, rfl, fun h => by simp [h], fun h => by simp [h]⟩
  refine Touched.trans ?_ (refresh_touched _)
  generalize hu : State.setHead s i _ = u
  have hp : u.params = s.params := by subst hu; rfl
  have c1 := hs.of_params hp
  have c2 := hh.of_params hp
  have t1 : ∀ (b : Bool), Touched u (if b = true then u.fault F.headTempSoft i else u) := fun b => touched_if (fault_touched _ _ _ c1) (.refl _)
  rw [if_pos rfl]
  refine Touched.trans ?_ (lower_touched _ _ _)
  have key : ∀ (w : State) (a b : Bool), Touched u w → Touched u (if a = true then (if b = true then w else w.raise F.headTempHard i) else w.lower F.headTempHard i) :=
    fun w a b h => touched_if (touched_if h (h.trans (raise_touched _ _ _ (c2.of_params h.fields.1)))) (h.trans (lower_touched _ _ _))
  exact key _ _ _ (t1 _)

/-- A temperature report (R195). -/
theorem temp_law (s : State) (i : Nat) (v : Int) (hs : Calm s F.headTempSoft) (hh : Calm s F.headTempHard) :
    let t := s.tempReport i v
    ∃ h : SlotHead, Touched (s.setHead i h) t ∧ h.temp = some v ∧ h.tempT = s.t32 ∧ h.mHost = (s.head i).mHost ∧
      (s.hasLimits i = true → s.parS 16 (P.fireBarSlotTempSoft i) ≤ v → h.soft = true) ∧
      (s.hasLimits i = true → s.parS 16 (P.fireBarSlotTempHard i) ≤ v → h.mTemp = true) := by
  unfold State.tempReport
  dsimp only
  generalize hu : State.setHead s i _ = u
  have e1 : u.head i = { s.head i with temp := some v, tempT := s.t32, tempAt := s.now } := by rw [← hu, head_setHead, if_pos rfl]
  have hl : u.hasLimits i = s.hasLimits i := by subst hu; rfl
  have hps : ∀ k, u.parS 16 k = s.parS 16 k := fun k => by subst hu; rfl
  have hset : ∀ h, u.setHead i h = s.setHead i h := fun h => by rw [← hu]; unfold State.setHead; dsimp only; rw [put_put]
  rw [hl]
  by_cases hb : s.hasLimits i = true
  · rw [if_pos hb]
    obtain ⟨h, ht, h1, h2, h3, h4, h5, h6⟩ := judge_law u i v (hs.of_params (by subst hu; rfl)) (hh.of_params (by subst hu; rfl))
    rw [hset] at ht
    rw [e1] at h1 h2 h4
    exact ⟨h, ht, h1, h2, h4, fun _ x => h5 (by rw [hps]; exact x), fun _ x => h6 (by rw [hps]; exact x)⟩
  · rw [if_neg hb]
    refine ⟨{ s.head i with temp := some v, tempT := s.t32, tempAt := s.now }, by rw [← hu]; exact .refl _, rfl, rfl, rfl, fun x => absurd x hb, fun x => absurd x hb⟩

/-- The flags of a STATUS (R279, R293). -/
theorem flags_law (s : State) (i fl : Nat) (h1 : Calm s F.headFrameCrc) (h2 : Calm s F.headRepeat) (h3 : Calm s F.headFireMiss) (h4 : Calm s F.headError) :
    Touched (s.setLink i { s.slotLink i with flags := BitVec.ofNat 8 fl, frameErr := sat 32 ((s.slotLink i).frameErr + b2n (bit fl 0) + b2n (bit fl 1)), fireMiss := sat 32 ((s.slotLink i).fireMiss + b2n (bit fl 2 || bit fl 3 || bit fl 6)) }) (s.statusFlags i fl) := by
  unfold State.statusFlags
  dsimp only
  generalize hu : State.setLink s i _ = u
  have hp : u.params = s.params := by subst hu; rfl
  have step : ∀ (w : State) (b : Bool) n, Calm s n → Touched u w → Touched u (if b = true then w.fault n i else w) := fun w b n hc ht =>
    touched_if (ht.trans (fault_touched _ _ _ (hc.of_params (by rw [ht.fields.1, hp])))) ht
  exact step _ _ _ h4 (step _ _ _ h3 (step _ _ _ h2 (step _ _ _ h1 (.refl _))))

/-- Reading a card again touches the lane, the outputs and the free values (R281). -/
theorem reread_frame (s : State) (l j : Nat) : s.rereadCard l j = { s with lanes := (s.rereadCard l j).lanes, out := (s.rereadCard l j).out, free := (s.rereadCard l j).free } := by
  unfold State.rereadCard
  dsimp only
  split
  · split
    · rfl
    · rfl
  · have := (startInfo_law (s.setLane l { s.lane l with todo := addTo (s.lane l).todo j }) l).2.2
    exact this

/-- An INFO_READ is sent (R280). -/
theorem sendInfo_eq' (s : State) (l : Nat) (r : InfoRead) : s.sendInfo l r = { s with
    lanes := put s.lanes l { s.lane l with info := some { r with tag := BitVec.ofNat 8 (Config.value s.free), sentAt := s.now } }
    out := .block l (infoReadBlock r.j (BitVec.ofNat 8 (Config.value s.free)) r.chunk) :: s.out
    free := s.free + 1 } := by rfl

/-- Nothing to read. -/
theorem startInfo_none (s : State) (l : Nat) (h : (s.lane l).todo = []) : s.startInfo l = s := by
  unfold State.startInfo
  dsimp only
  rw [h]
  split <;> rfl

/-- No refresh waits. -/
theorem finish_nil (s : State) (i : Nat) (h : (s.slotLink i).refresh = []) : s.finishRefresh i = { s with links := put s.links i (s.slotLink i) } := by
  unfold State.finishRefresh
  dsimp only
  rw [h]
  have : ({ s.slotLink i with refresh := [] } : SlotLink) = s.slotLink i := by rw [← h]
  rw [this]
  rfl

/-- The slot at a position of a primary. -/
theorem slotOn_eq (s : State) (l j : Nat) (hl : l < 32) : s.slotOn l j = some (20 * (l / 4) + s.firstSlot l + j) := by
  unfold State.slotOn State.primaryOf
  rw [if_pos hl]; rfl

end Sys2Proof.Machine
end

