-- ==== Sys2Proof/Laws/Time.lean ====
section
/-!
SUPPORT. What the operations of schedules, triggers and sensors do.
-/
namespace Sys2Proof.Machine

/-- A context after a write. -/
theorem ctx_setCtx (s : State) (c k : Nat) (x : Ctx) : (s.setCtx c x).ctx k = if k = c then x else s.ctx k := by
  unfold State.setCtx State.ctx; dsimp only; rw [sel_put]

/-- A context takes a record of a pulse (R353, R354). -/
theorem trigRecord_law (s : State) (c p : Nat) (h : Calm s F.trigUnmatched) :
    let t := s.trigRecord c p
    (t.ctx c).trigs = (if 8 ≤ (s.ctx c).trigs.length then (s.ctx c).trigs.drop 1 else (s.ctx c).trigs) ++ [(p, s.t32ns)] ∧
    (∀ k, k ≠ c → t.ctx k = s.ctx k) ∧ ((s.ctx c).trigs.length < 8 → t.out = s.out) ∧
    Touched { s with cam := { s.cam with ctx := t.cam.ctx } } t := by
  unfold State.trigRecord
  dsimp only
  generalize hu : State.setCtx s c _ = u
  have e1 : (u.ctx c).trigs = (if 8 ≤ (s.ctx c).trigs.length then (s.ctx c).trigs.drop 1 else (s.ctx c).trigs) ++ [(p, s.t32ns)] := by
    rw [← hu, ctx_setCtx, if_pos rfl]
    dsimp only
    simp only [decide_eq_true_eq]
    rfl
  have e2 : ∀ k, k ≠ c → u.ctx k = s.ctx k := fun k hk => by rw [← hu, ctx_setCtx, if_neg hk]
  have e3 : u = { s with cam := { s.cam with ctx := u.cam.ctx } } := by rw [← hu]; rfl
  have hc : Calm u F.trigUnmatched := h.of_params (by rw [e3])
  by_cases hf : 8 ≤ (s.ctx c).trigs.length
  · rw [if_pos (show decide (trigRecords ≤ _) = true from decide_eq_true hf)]
    have ht := fault_touched u F.trigUnmatched c hc
    have hcam : (u.fault F.trigUnmatched c).cam = u.cam := by rw [ht]
    have hx : ∀ k, (u.fault F.trigUnmatched c).ctx k = u.ctx k := fun k => by unfold State.ctx; rw [hcam]
    refine ⟨by rw [hx]; exact e1, fun k hk => by rw [hx]; exact e2 k hk, fun x => absurd x (by omega), ?_⟩
    rw [hcam]
    rw [← e3]
    exact ht
  · rw [if_neg (show ¬ decide (trigRecords ≤ _) = true from by rw [decide_eq_true_eq]; exact hf)]
    refine ⟨e1, e2, fun _ => by rw [e3], ?_⟩
    rw [← e3]
    exact .refl u

/-- Several contexts take it. -/
theorem trigs_fold (p : Nat) (L : List Nat) : ∀ (s : State), L.Nodup → Calm s F.trigUnmatched →
    let t := L.foldl (fun s c => s.trigRecord c p) s
    (∀ c ∈ L, (t.ctx c).trigs = (if 8 ≤ (s.ctx c).trigs.length then (s.ctx c).trigs.drop 1 else (s.ctx c).trigs) ++ [(p, s.t32ns)]) ∧
    (∀ k, k ∉ L → t.ctx k = s.ctx k) ∧ ((∀ c ∈ L, (s.ctx c).trigs.length < 8) → t.out = s.out) ∧
    Touched { s with cam := { s.cam with ctx := t.cam.ctx } } t := by
  induction L with
  | nil => intro s _ _; exact ⟨by simp, by simp, fun _ => rfl, .refl s⟩
  | cons a L ih =>
    intro s hn hc
    have hn' := List.nodup_cons.1 hn
    obtain ⟨a1, a2, a3, a4⟩ := trigRecord_law s a p hc
    have a4' : ∃ m, Touched { s with cam := { s.cam with ctx := m } } (s.trigRecord a p) := ⟨_, a4⟩
    have ht32 : (s.trigRecord a p).t32ns = s.t32ns := by unfold State.t32ns; rw [a4]
    obtain ⟨b1, b2, b3, b4⟩ := ih (s.trigRecord a p) hn'.2 (hc.of_params (by rw [a4]))
    rw [List.foldl_cons]
    dsimp only
    generalize (L.foldl (fun s c => s.trigRecord c p) (s.trigRecord a p)) = t at b1 b2 b3 b4 ⊢
    refine ⟨fun c hcc => ?_, fun k hk => ?_, fun hl => ?_, ?_⟩
    · rcases List.mem_cons.1 hcc with rfl | hm
      · rw [b2 c hn'.1]; exact a1
      · rw [b1 c hm, a2 c (by rintro rfl; exact hn'.1 hm), ht32]
    · rw [b2 k (fun x => hk (List.mem_cons_of_mem _ x)), a2 k (by rintro rfl; exact hk List.mem_cons_self)]
    · rw [b3 (fun c hcc => by rw [a2 c (by rintro rfl; exact hn'.1 hcc)]; exact hl c (List.mem_cons_of_mem _ hcc)), a3 (hl a List.mem_cons_self)]
    · unfold Touched at b4 a4 ⊢
      rw [b4, a4]

/-- A pulse of an idle output (R339, R354). -/
theorem pulse_law (s : State) (k p : Nat) (ha : (s.trig k).active = false) (hc : Calm s F.trigUnmatched) : Pulsed s (s.pulse k p) k p := by
  unfold State.pulse
  dsimp only
  rw [if_neg (by simp [ha])]
  generalize hu : State.emit _ _ = u
  have e : u = { s with
    time := { s.time with trig := put s.time.trig k { s.trig k with active := true, ends := s.clk.tclk + tclkOf (s.parLine (P.timeTrigWidthNs k)), pulses := sat 32 ((s.trig k).pulses + 1) } }
    out := .trig k (s.parLine (P.timeTrigPolarity k) != 1) :: s.out } := by
      rw [← hu]
      unfold State.emit State.setTrig State.trigLevel
      congr 2
      show Output.trig k (true != (s.parLine _ == 1)) = _
      congr 1
      by_cases hh : s.parLine (P.timeTrigPolarity k) = 1 <;> simp [hh, bne]
  have hp : ∀ q, u.parFrame q = s.parFrame q := fun q => by rw [e]; rfl
  have hmem : ∀ c, c ∈ (List.range 16).filter (fun c => u.parFrame (P.inspectCtxTrig c) == k) ↔ c < 16 ∧ s.parFrame (P.inspectCtxTrig c) = k := by
    intro c; rw [List.mem_filter, List.mem_range, hp, beq_iff_eq]
  have hx : ∀ c, u.ctx c = s.ctx c := fun c => by rw [e]; rfl
  have ht : u.t32ns = s.t32ns := by rw [e]; rfl
  obtain ⟨b1, b2, b3, b4⟩ := trigs_fold p ((List.range 16).filter (fun c => u.parFrame (P.inspectCtxTrig c) == k)) u
    (List.nodup_range.sublist List.filter_sublist) (hc.of_params (by rw [e]))
  generalize List.foldl _ _ _ = t at b1 b2 b3 b4 ⊢
  have htrig : t.time.trig = u.time.trig := by rw [b4]
  refine ⟨?_, ?_, ?_, ?_, ?_, ?_, ?_⟩
  · show sel t.time.trig k {} = _; rw [htrig, e]; exact sel_put_same _ _ _ _
  · intro j hj; show sel t.time.trig j {} = _; rw [htrig, e]; exact sel_put_other _ _ _ _ _ hj
  · intro hl; rw [b3 (fun c hcc => by rw [hx]; exact hl c ((hmem c).1 hcc).1 ((hmem c).1 hcc).2), e]
  · intro c h1 h2 h3; rw [b1 c ((hmem c).2 ⟨h1, h2⟩), hx, ht, if_neg (by omega)]
  · intro c h1 h2 h3; rw [b1 c ((hmem c).2 ⟨h1, h2⟩), hx, ht, if_pos h3]
  · intro c h1; rw [b2 c (fun x => h1 ((hmem c).1 x)), hx]
  · unfold Touched at b4 ⊢
    rw [b4, e]

/-- An unused entry number. -/
theorem free_pick (m : SMap Sched) (v : Nat) (h : ∃ e, e < 64 ∧ look m e = none) :
    ∃ e, ((List.range 64).filter (fun e => (look m e).isNone))[v % ((List.range 64).filter (fun e => (look m e).isNone)).length]? = some e ∧ e < 64 ∧ look m e = none := by
  obtain ⟨e, h1, h2⟩ := h
  generalize hL : (List.range 64).filter (fun e => (look m e).isNone) = L
  have hm : ∀ e, e ∈ L ↔ e < 64 ∧ look m e = none := by intro e; rw [← hL, List.mem_filter, List.mem_range]; simp
  have hlen : 0 < L.length := List.length_pos_of_mem ((hm e).2 ⟨h1, h2⟩)
  have hlt := Nat.mod_lt v hlen
  exact ⟨L[v % L.length], List.getElem?_eq_getElem hlt, (hm _).1 (List.getElem_mem hlt)⟩

/-- A step of Device Time (R323, R338). -/
theorem stepTime_law (s : State) (d d' : Nat) (r : Readings) (hd : d' = d % devWrap) :
    s.stepTime d r = timeNoted (((stepped s d').time.sched.filter (fun e => e.2.base == 1 && decide (e.2.next ≤ d' / nsUnit))).foldl
      (fun (s : State) e => (s.runSched e.1 e.2 r true).fault F.schedLate e.1) (stepped s d')) 2 := by
  subst hd
  rfl

/-- No entry is passed. -/
theorem none_passed (s : State) (d : Nat) (h : NonePassed s d) : s.time.sched.filter (fun e => e.2.base == 1 && decide (e.2.next ≤ d / nsUnit)) = [] := by
  rw [List.filter_eq_nil_iff]
  intro e he
  simp only [Bool.and_eq_true, beq_iff_eq, decide_eq_true_eq, not_and]
  intro hb
  have := h e he hb
  omega

/-- Seconds and nanoseconds of TIME set lie below the wrap. -/
theorem set_fits (c : Bytes) (h : u32 c 8 < 1000000000) : (fld c 0 6 * 1000000000 + u32 c 8) * nsUnit % devWrap = (fld c 0 6 * 1000000000 + u32 c 8) * nsUnit := by
  have : fld c 0 6 < 2 ^ 48 := by
    have key : ∀ b : Bytes, leN b < 2 ^ (8 * b.length) := by
      intro b
      induction b with
      | nil => decide
      | cons x t ih =>
        show x.toNat + 256 * leN t < _
        have := x.isLt
        rw [List.length_cons, Nat.mul_add, Nat.pow_add]
        omega
    have k := key (slice c 0 6)
    have hl : (slice c 0 6).length = 6 := by
      unfold slice; simp only [List.length_append, List.length_replicate, List.length_take]; omega
    rw [hl] at k
    exact k
  apply Nat.mod_eq_of_lt
  unfold devWrap nsUnit
  omega

/-- A TRIGGER entry executes once and is freed. -/
theorem late_run (s : State) (e : Nat) (x : Sched) (r : Readings) (h1 : x.action = 3) (h2 : x.report = false) (h3 : x.period = 0) (l : Bool) :
    s.runSched e x r l = (s.freeSched e).pulse x.target 0xFFFFFFFF := by
  unfold State.runSched
  dsimp only
  rw [h2, h1]
  rw [if_neg (show ¬ false = true from by decide), if_neg (show ¬ (3 = 1) from by decide), if_neg (show ¬ (3 = 2) from by decide), if_neg (show ¬ (x.period ≠ 0 ∧ (x.forever = true ∨ 1 < x.left)) from fun h => h.1 h3)]

/-- The one entry freed. -/
theorem cut_one {α : Type} (e : Nat) (x : α) : cut [(e, x)] e = [] := by simp [cut]

/-- An output after a write. -/
theorem trig_setTrig (s : State) (l k : Nat) (x : Trig) : (s.setTrig l x).trig k = if k = l then x else s.trig k := by
  unfold State.setTrig State.trig; dsimp only; rw [sel_put]

/-- An entry executes (R336). -/
theorem run_law (s : State) (e : Nat) (x : Sched) (r : Readings) (m : SMap Sched)
    (hm : m = (if x.period ≠ 0 ∧ (x.forever = true ∨ 1 < x.left) then put s.time.sched e { x with next := x.next + x.period, left := x.left - 1 }
      else cut s.time.sched e)) :
    s.runSched e x r false =
      (let v : State := { s with time := { s.time with sched := m } }
       let u := if x.action = 1 then v.jobStart x else if x.action = 2 then v.convert x.target r else v.pulse x.target 0xFFFFFFFF
       if x.report then timeNoted u 0 else u) := by
  unfold State.runSched
  dsimp only
  rw [if_neg (show ¬ false = true from by decide)]
  by_cases h : x.period ≠ 0 ∧ (x.forever = true ∨ 1 < x.left)
  · rw [if_pos h] at hm ⊢
    rw [hm]
    rfl
  · rw [if_neg h] at hm ⊢
    rw [hm]
    rfl

/-- The row SCHEDULE_EXECUTE on an entry whose instant has come. -/
theorem exec_sched (s : State) (dt : Nat) (i : Fin 64) (conv : Readings) (x : Sched) (h1 : look s.time.sched i.val = some x)
    (h0 : (s.pass dt).dueBefore i.val = false)
    (h2 : x.next ≤ (if x.base = 0 then (s.pass dt).t32ns else (s.pass dt).devNs)) :
    exec (.scheduleExecute dt i conv) s = .next ((s.pass dt).runSched i.val x conv false) := by
  show execScheduleExecute _ _ _ _ = _
  unfold execScheduleExecute
  dsimp only
  rw [show look (s.pass dt).time.sched i.val = some x from h1]
  dsimp only
  rw [if_pos (show x.next ≤ (s.pass dt).schedNow x ∧ (!(s.pass dt).dueBefore i.val) = true from ⟨h2, by rw [h0]; rfl⟩)]

/-- A conversion's frame. -/
def ConvTo (s t : State) : Prop := Touched { s with
  mgmt := { s.mgmt with
    tj := t.mgmt.tj
    mv := t.mgmt.mv
    warnAt := t.mgmt.warnAt
    critAt := t.mgmt.critAt
    rangeAt := t.mgmt.rangeAt
    boards := t.mgmt.boards }
  pwr := { s.pwr with trimSteps := t.pwr.trimSteps } } t

/-- Nothing read. -/
theorem ConvTo.refl (s : State) : ConvTo s s := by unfold ConvTo; exact .refl s

/-- A conversion and then hits. -/
theorem ConvTo.touch {s t u : State} (h : ConvTo s t) (k : Touched t u) : ConvTo s u := by
  unfold ConvTo Touched at *
  rw [k, h]

/-- Two conversions. -/
theorem ConvTo.trans {s t u : State} (h : ConvTo s t) (k : ConvTo t u) : ConvTo s u := by
  unfold ConvTo Touched at *
  rw [k, h]

/-- What hits leave of readings. -/
theorem mgmt_touched {s t : State} (h : Touched s t) : t.mgmt.tj = s.mgmt.tj ∧ t.mgmt.mv = s.mgmt.mv ∧ t.mgmt.warnAt = s.mgmt.warnAt ∧ t.mgmt.critAt = s.mgmt.critAt ∧
    t.mgmt.rangeAt = s.mgmt.rangeAt ∧ t.mgmt.boards = s.mgmt.boards ∧ t.pwr = s.pwr ∧ t.params = s.params ∧ t.clk = s.clk ∧ t.draught = s.draught ∧ t.mgmt.vcoreAt = s.mgmt.vcoreAt := by
  rw [h]; exact ⟨rfl, rfl, rfl, rfl, rfl, rfl, rfl, rfl, rfl, rfl, rfl⟩

/-- Temperatures stored. -/
theorem tj_fold (g : Nat → Int → Int) (L : List Nat) (tj : List Int) (m : SMap Int) (hn : L.Nodup) :
    ∀ k, (k ∈ L → ∀ v, tj[k]? = some v → look (L.foldl (fun (m : SMap Int) i => match tj[i]? with | some t => put m i (clamp (-400) 1500 (g i t)) | none => m) m) k = some (clamp (-400) 1500 (g k v))) ∧
      (k ∉ L → look (L.foldl (fun (m : SMap Int) i => match tj[i]? with | some t => put m i (clamp (-400) 1500 (g i t)) | none => m) m) k = look m k) := by
  induction L generalizing m with
  | nil => intro k; exact ⟨fun h => by simp at h, fun _ => rfl⟩
  | cons a L ih =>
    intro k
    have hn' := List.nodup_cons.1 hn
    rw [List.foldl_cons]
    obtain ⟨i1, i2⟩ := ih (match tj[a]? with | some t => put m a (clamp (-400) 1500 (g a t)) | none => m) hn'.2 k
    refine ⟨fun hk v hv => ?_, fun hk => ?_⟩
    · by_cases hL : k ∈ L
      · exact i1 hL v hv
      · have : k = a := by rcases List.mem_cons.1 hk with h | h; exact h; exact absurd h hL
        subst this
        rw [i2 hL, hv]
        exact look_put_same _ _ _
    · rw [i2 (fun x => hk (List.mem_cons_of_mem _ x))]
      have hka : k ≠ a := by rintro rfl; exact hk List.mem_cons_self
      cases tj[a]? with
      | none => rfl
      | some v => exact look_put_other _ _ _ _ hka

/-- Conversion of the temperature sensors (R473). -/
theorem convertTj_law (s : State) (tj : List Int) (h1 : Calm s F.tjWarn) (h2 : Calm s F.tjCrit) :
    ConvTo s (s.convertTj tj) ∧ (s.convertTj tj).mgmt.mv = s.mgmt.mv ∧ (s.convertTj tj).mgmt.rangeAt = s.mgmt.rangeAt ∧ (s.convertTj tj).mgmt.boards = s.mgmt.boards ∧
      (s.convertTj tj).pwr = s.pwr ∧
      (s.trimming = false → ∀ k v, k < 24 → tj[k]? = some v → look (s.convertTj tj).mgmt.tj k = some (clamp (-400) 1500 (s.trimTj k v))) ∧
      (s.trimming = false → s.convertTj tj = (let m := (List.range 24).foldl (fun (m : SMap Int) i => match tj[i]? with | some t => put m i (clamp (-400) 1500 (s.trimTj i t)) | none => m) s.mgmt.tj
        let u : State := { s with mgmt := { s.mgmt with
          tj := m
          warnAt := (repeatHit s.mgmt.warnAt (decide ((s.par P.manageTsenseTjWarn : Int) ≤ ((m.map Prod.snd).max?).getD 0)) s.now).1
          critAt := (repeatHit s.mgmt.critAt (decide ((s.par P.manageTsenseTjCrit : Int) ≤ ((m.map Prod.snd).max?).getD 0)) s.now).1 } }
        let v := if (repeatHit s.mgmt.warnAt (decide ((s.par P.manageTsenseTjWarn : Int) ≤ ((m.map Prod.snd).max?).getD 0)) s.now).2 = true then u.fault F.tjWarn 0 else u
        if (repeatHit s.mgmt.critAt (decide ((s.par P.manageTsenseTjCrit : Int) ≤ ((m.map Prod.snd).max?).getD 0)) s.now).2 = true then v.fault F.tjCrit 0 else v)) := by
  by_cases ht : s.trimming = true
  · have e : s.convertTj tj = s := by unfold State.convertTj; rw [if_pos ht]
    rw [e]
    exact ⟨.refl s, rfl, rfl, rfl, rfl, fun h => by rw [ht] at h; exact absurd h (by decide), fun h => by rw [ht] at h; exact absurd h (by decide)⟩
  · have e : s.convertTj tj = (let m := (List.range 24).foldl (fun (m : SMap Int) i => match tj[i]? with | some t => put m i (clamp (-400) 1500 (s.trimTj i t)) | none => m) s.mgmt.tj
        let u : State := { s with mgmt := { s.mgmt with
          tj := m
          warnAt := (repeatHit s.mgmt.warnAt (decide ((s.par P.manageTsenseTjWarn : Int) ≤ ((m.map Prod.snd).max?).getD 0)) s.now).1
          critAt := (repeatHit s.mgmt.critAt (decide ((s.par P.manageTsenseTjCrit : Int) ≤ ((m.map Prod.snd).max?).getD 0)) s.now).1 } }
        let v := if (repeatHit s.mgmt.warnAt (decide ((s.par P.manageTsenseTjWarn : Int) ≤ ((m.map Prod.snd).max?).getD 0)) s.now).2 = true then u.fault F.tjWarn 0 else u
        if (repeatHit s.mgmt.critAt (decide ((s.par P.manageTsenseTjCrit : Int) ≤ ((m.map Prod.snd).max?).getD 0)) s.now).2 = true then v.fault F.tjCrit 0 else v) := by
      unfold State.convertTj; rw [if_neg ht]; rfl
    have hf := fun k => tj_fold s.trimTj (List.range 24) tj s.mgmt.tj List.nodup_range k
    refine ⟨?_, ?_, ?_, ?_, ?_, ?_, fun _ => e⟩ <;> rw [e] <;> dsimp only <;> generalize (List.range 24).foldl _ s.mgmt.tj = m at hf ⊢ <;> generalize repeatHit s.mgmt.warnAt _ _ = A <;>
      generalize repeatHit s.mgmt.critAt _ _ = B <;> generalize hu : State.mk _ _ _ _ _ _ _ _ _ _ _ _ _ _ _ _ _ _ _ _ _ _ _ _ _ _ _ _ _ _ _ = u
    all_goals
      have hp : u.params = s.params := by subst hu; rfl
      have T1 : Touched u (if A.2 = true then u.fault F.tjWarn 0 else u) := touched_if (fault_touched _ _ _ (h1.of_params hp)) (.refl _)
      have T : Touched u (if B.2 = true then State.fault (if A.2 = true then u.fault F.tjWarn 0 else u) F.tjCrit 0 else (if A.2 = true then u.fault F.tjWarn 0 else u)) :=
        touched_if (T1.trans (fault_touched _ _ _ (h2.of_params (by rw [T1.fields.1, hp])))) T1
      have M := mgmt_touched T
    · have : ConvTo s u := by subst hu; unfold ConvTo; rfl
      exact this.touch T
    · rw [M.2.1]; subst hu; rfl
    · rw [M.2.2.2.2.1]; subst hu; rfl
    · rw [M.2.2.2.2.2.1]; subst hu; rfl
    · rw [M.2.2.2.2.2.2.1]; subst hu; rfl
    · intro _ k v hk hv
      rw [M.1]
      subst hu
      exact (hf k).1 (List.mem_range.2 hk) v hv

/-- A hit leaves every other source. -/
theorem hit_other (s : State) (n a master access m : Nat) (h : Calm s n) (hm : m ≠ n) : (s.hit n a master access).src m = s.src m := by
  unfold State.hit
  split
  · rfl
  obtain ⟨c, hf, hk, hn⟩ := addCond_frame s n a
  have er : (s.addCond n a).reaction n = s.reaction n := by rw [hf]; rfl
  rw [← hk m hm]
  generalize s.addCond n a = q at er ⊢
  unfold State.register
  split
  · rfl
  split
  · unfold State.maskHit
    split <;> rfl
  · have hc := (react_counted q n a master access).2.2.2.1 m hm
    dsimp only
    rw [if_neg (by rw [er]; exact h.1), if_neg (by rw [er]; exact h.2)]
    exact hc

/-- A monitor's reading (R474). -/
theorem monitor_law (s : State) (i v : Nat) (h : Calm s F.vmonRange) :
    ConvTo s (s.monitor i v) ∧ (s.monitor i v).mgmt.tj = s.mgmt.tj ∧ (s.monitor i v).mgmt.mv = put s.mgmt.mv i (min 4000 v) ∧ (s.monitor i v).mgmt.boards = s.mgmt.boards ∧
      (s.monitor i v).mgmt.warnAt = s.mgmt.warnAt ∧ (s.monitor i v).mgmt.critAt = s.mgmt.critAt ∧ (s.monitor i v).pwr = s.pwr := by
  unfold State.monitor
  dsimp only
  generalize repeatHit (look s.mgmt.rangeAt i) _ _ = A
  generalize hu : State.mk _ _ _ _ _ _ _ _ _ _ _ _ _ _ _ _ _ _ _ _ _ _ _ _ _ _ _ _ _ _ _ = u
  have hp : u.params = s.params := by subst hu; rfl
  have T : Touched u (if A.2 = true then u.fault F.vmonRange i else u) := touched_if (fault_touched _ _ _ (h.of_params hp)) (.refl _)
  have M := mgmt_touched T
  refine ⟨?_, ?_, ?_, ?_, ?_, ?_, ?_⟩
  · have : ConvTo s u := by subst hu; unfold ConvTo; rfl
    exact this.touch T
  · rw [M.1]; subst hu; rfl
  · rw [M.2.1]; subst hu; rfl
  · rw [M.2.2.2.2.2.1]; subst hu; rfl
  · rw [M.2.2.1]; subst hu; rfl
  · rw [M.2.2.2.1]; subst hu; rfl
  · rw [M.2.2.2.2.2.2.1]; subst hu; rfl

/-- A conversion leaves the parameters. -/
theorem ConvTo.params {s t : State} (h : ConvTo s t) : t.params = s.params := by rw [h]

/-- Monitor readings stored. -/
theorem mv_fold (g : Nat → Nat → Nat) (mv : List Nat) (L : List Nat) : ∀ (s : State), L.Nodup → Calm s F.vmonRange →
    let t := L.foldl (fun (s : State) i => match mv[i]? with | some v => s.monitor i (g i v) | none => s) s
    ConvTo s t ∧ t.mgmt.tj = s.mgmt.tj ∧ t.mgmt.boards = s.mgmt.boards ∧ t.mgmt.warnAt = s.mgmt.warnAt ∧ t.mgmt.critAt = s.mgmt.critAt ∧ t.pwr = s.pwr ∧
      (∀ k ∈ L, ∀ v, mv[k]? = some v → look t.mgmt.mv k = some (min 4000 (g k v))) ∧ (∀ k, k ∉ L → look t.mgmt.mv k = look s.mgmt.mv k) := by
  induction L with
  | nil => intro s _ _; exact ⟨.refl s, rfl, rfl, rfl, rfl, rfl, by simp, fun _ _ => rfl⟩
  | cons a L ih =>
    intro s hn hc
    have hn' := List.nodup_cons.1 hn
    rw [List.foldl_cons]
    have key : ∃ u : State, (match mv[a]? with | some v => s.monitor a (g a v) | none => s) = u ∧ ConvTo s u ∧ u.mgmt.tj = s.mgmt.tj ∧ u.mgmt.boards = s.mgmt.boards ∧
        u.mgmt.warnAt = s.mgmt.warnAt ∧ u.mgmt.critAt = s.mgmt.critAt ∧ u.pwr = s.pwr ∧
        (∀ v, mv[a]? = some v → look u.mgmt.mv a = some (min 4000 (g a v))) ∧ (∀ k, k ≠ a → look u.mgmt.mv k = look s.mgmt.mv k) := by
      cases hv : mv[a]? with
      | none => exact ⟨s, rfl, .refl s, rfl, rfl, rfl, rfl, rfl, by simp, fun _ _ => rfl⟩
      | some v =>
        obtain ⟨m1, m2, m3, m4, m5, m6, m7⟩ := monitor_law s a (g a v) hc
        refine ⟨_, rfl, m1, m2, m4, m5, m6, m7, fun v' hv' => ?_, fun k hk => ?_⟩
        · rw [m3]; cases hv'; exact look_put_same _ _ _
        · rw [m3]; exact look_put_other _ _ _ _ hk
    obtain ⟨u, hu, u1, u2, u3, u4, u5, u6, u7, u8⟩ := key
    rw [hu]
    obtain ⟨i1, i2, i3, i4, i5, i6, i7, i8⟩ := ih u hn'.2 (hc.of_params u1.params)
    refine ⟨u1.trans i1, i2.trans u2, i3.trans u3, i4.trans u4, i5.trans u5, i6.trans u6, fun k hk v hv => ?_, fun k hk => ?_⟩
    · by_cases hL : k ∈ L
      · exact i7 k hL v hv
      · have : k = a := by rcases List.mem_cons.1 hk with h | h; exact h; exact absurd h hL
        subst this
        rw [i8 k hL]; exact u7 v hv
    · rw [i8 k (fun x => hk (List.mem_cons_of_mem _ x)), u8 k (by rintro rfl; exact hk List.mem_cons_self)]

/-- Conversion of the monitors (R473, R474). -/
theorem convertMv_law (s : State) (mv : List Nat) (h : Calm s F.vmonRange) :
    let t := s.convertMv mv
    ConvTo s t ∧ t.mgmt.tj = s.mgmt.tj ∧ t.mgmt.boards = s.mgmt.boards ∧ t.mgmt.warnAt = s.mgmt.warnAt ∧ t.mgmt.critAt = s.mgmt.critAt ∧ t.pwr = s.pwr ∧
      (s.trimming = false → ∀ k v, k < 16 → mv[k]? = some v → look t.mgmt.mv k = some (min 4000 (s.trimMv k v))) := by
  unfold State.convertMv
  by_cases ht : s.trimming = true
  · rw [if_pos ht]
    exact ⟨.refl s, rfl, rfl, rfl, rfl, rfl, fun h => by rw [ht] at h; exact absurd h (by decide)⟩
  · rw [if_neg ht]
    obtain ⟨i1, i2, i3, i4, i5, i6, i7, _⟩ := mv_fold s.trimMv mv (List.range 16) s List.nodup_range h
    exact ⟨i1, i2, i3, i4, i5, i6, fun _ k v hk hv => i7 k (List.mem_range.2 hk) v hv⟩

/-- Monitors hit one source. -/
theorem convertMv_src (s : State) (mv : List Nat) (m : Nat) (hm : m ≠ F.vmonRange) (h : Calm s F.vmonRange) : (s.convertMv mv).src m = s.src m := by
  unfold State.convertMv
  split
  · rfl
  have key : ∀ (g : Nat → Nat → Nat) (L : List Nat) (s : State), Calm s F.vmonRange →
      (L.foldl (fun (s : State) i => match mv[i]? with | some v => s.monitor i (g i v) | none => s) s).src m = s.src m := by
    intro g L
    induction L with
    | nil => intro s _; rfl
    | cons a L ih =>
      intro s hs
      rw [List.foldl_cons]
      cases hv : mv[a]? with
      | none => exact ih s hs
      | some v =>
        dsimp only
        rw [ih _ (hs.of_params (monitor_law s a (g a v) hs).1.params)]
        unfold State.monitor
        dsimp only
        split
        · exact hit_other _ _ _ _ _ _ (hs.of_params (by rfl)) hm
        · rfl
  exact key _ _ s h

/-- Whether trims are applied depends on the power state alone. -/
theorem trimming_pwr {s t : State} (h : t.pwr = s.pwr) : t.trimming = s.trimming := by unfold State.trimming; rw [h]

/-- A board sensor's read (R475). -/
theorem board_law (s : State) (i : Nat) (raw : Option SensorWord) (h : Calm s F.boardSensorFail) :
    ConvTo s (s.readBoard i raw) ∧ (s.readBoard i raw).mgmt.tj = s.mgmt.tj ∧ (s.readBoard i raw).mgmt.mv = s.mgmt.mv := by
  have hset : ∀ b, ConvTo s (s.setBoard i b) ∧ (s.setBoard i b).mgmt.tj = s.mgmt.tj ∧ (s.setBoard i b).mgmt.mv = s.mgmt.mv := fun b => ⟨by unfold ConvTo; rfl, rfl, rfl⟩
  unfold State.readBoard
  split
  · exact ⟨.refl s, rfl, rfl⟩
  dsimp only
  split
  · split
    · exact hset _
    · refine ⟨?_, rfl, rfl⟩
      unfold ConvTo
      rfl
  · split
    · exact hset _
    · rename_i hb _
      obtain ⟨e1, e2, e3⟩ := hset { s.board i with fails := 0 }
      have T := fault_touched (s.setBoard i { s.board i with fails := 0 }) F.boardSensorFail i (h.of_params (by rfl))
      have M := mgmt_touched T
      exact ⟨e1.touch T, by rw [M.1]; exact e2, by rw [M.2.1]; exact e3⟩

/-- Several board sensors. -/
theorem boards_fold (L : List (Nat × Option SensorWord)) : ∀ (s : State), Calm s F.boardSensorFail →
    let t := L.foldl (fun (s : State) b => s.readBoard b.1 b.2) s
    ConvTo s t ∧ t.mgmt.tj = s.mgmt.tj ∧ t.mgmt.mv = s.mgmt.mv := by
  induction L with
  | nil => intro s _; exact ⟨.refl s, rfl, rfl⟩
  | cons a L ih =>
    intro s h
    obtain ⟨b1, b2, b3⟩ := board_law s a.1 a.2 h
    obtain ⟨i1, i2, i3⟩ := ih (s.readBoard a.1 a.2) (h.of_params b1.params)
    exact ⟨b1.trans i1, i2.trans b2, i3.trans b3⟩

/-- A trim step (R508). -/
theorem trimStep_law (s : State) : ConvTo s s.trimStep ∧ s.trimStep.mgmt = s.mgmt := by
  unfold State.trimStep
  split
  · exact ⟨by unfold ConvTo; rfl, rfl⟩
  · exact ⟨.refl s, rfl⟩

/-- A CONVERT entry (R334). -/
theorem convert_law (s : State) (k : Nat) (r : Readings) (hc : ∀ n ∈ [F.tjWarn, F.tjCrit, F.vmonRange, F.boardSensorFail], Calm s n) :
    let u := s.convert k r
    ConvTo s u ∧ (k = 0 → s.trimming = false → ∀ k v, k < 24 → r.tj[k]? = some v → look u.mgmt.tj k = some (clamp (-400) 1500 (s.trimTj k v))) ∧
      (k = 1 ∨ k = 0 → s.trimming = false → ∀ k v, k < 16 → r.mv[k]? = some v → look u.mgmt.mv k = some (min 4000 (s.trimMv k v))) ∧
      (k = 1 → u.mgmt.tj = s.mgmt.tj) ∧ (k = 2 → u.mgmt.tj = s.mgmt.tj ∧ u.mgmt.mv = s.mgmt.mv) := by
  have c1 := hc F.tjWarn (by decide)
  have c2 := hc F.tjCrit (by decide)
  have c3 := hc F.vmonRange (by decide)
  have c4 := hc F.boardSensorFail (by decide)
  unfold State.convert
  by_cases h0 : k = 0
  · subst h0
    rw [if_pos rfl]
    obtain ⟨a1, a2, a3, a4, a5, a6, _⟩ := convertTj_law s r.tj c1 c2
    obtain ⟨b1, b2, b3, b4, b5, b6, b7⟩ := convertMv_law (s.convertTj r.tj) r.mv (c3.of_params a1.params)
    obtain ⟨d1, d2⟩ := trimStep_law ((s.convertTj r.tj).convertMv r.mv)
    refine ⟨(a1.trans b1).trans d1, fun _ ht k v hk hv => ?_, fun _ ht k v hk hv => ?_, fun h => absurd h (by decide), fun h => absurd h (by decide)⟩
    · rw [d2]; rw [b2]; exact a6 ht k v hk hv
    · rw [d2]; rw [← show (s.convertTj r.tj).trimMv k v = s.trimMv k v from by rw [a1]; rfl]; exact b7 (by rw [trimming_pwr a5]; exact ht) k v hk hv
  · rw [if_neg h0]
    by_cases h1 : k = 1
    · subst h1
      rw [if_pos rfl]
      obtain ⟨b1, b2, b3, b4, b5, b6, b7⟩ := convertMv_law s r.mv c3
      exact ⟨b1, fun h => absurd h (by decide), fun _ ht => b7 ht, fun _ => b2, fun h => absurd h (by decide)⟩
    · rw [if_neg h1]
      obtain ⟨i1, i2, i3⟩ := boards_fold r.boards s c4
      exact ⟨i1, fun h => absurd h h0, fun h => by omega, fun h => absurd h h1, fun _ => ⟨i2, i3⟩⟩

/-- The forecast leaves sessions. -/
theorem rk_ses {s t : State} (h : RingsKept s t) (w : Sess) : t.ses w = s.ses w := by
  have := h.1
  unfold Touched at this
  rw [this]; cases w <;> rfl

/-- A splice event and the forecast leave sessions. -/
theorem event_fc (x : State) (k b i l r : Nat) (hc : Calm x F.hopperLow) (w : Sess) : ((x.spliceEvent k b i l r).forecast).ses w = x.ses w := by
  rw [rk_ses (forecast_law _ (hc.of_params (by
    unfold State.spliceEvent
    exact (event_touched _ _).fields.1))).1]
  unfold State.spliceEvent
  have key : ∀ (x : State), (x.event evSplice).ses w = x.ses w := fun x => by rw [event_touched x evSplice]; cases w <;> rfl
  show (State.event _ evSplice).ses w = _
  rw [key]
  cases w <;> rfl

/-- An accepting branch. -/
theorem ite_inr {α β : Type} {p : Prop} [Decidable p] {a : α} {b c : β} (h : (if p then Sum.inl a else Sum.inr b) = Sum.inr c) : b = c := by
  split at h
  · cases h
  · injection h

/-- A refused branch passed. -/
theorem ite_inr' {α β : Type} {p : Prop} [Decidable p] {a : α} {b : α ⊕ β} {c : β} (h : (if p then Sum.inl a else b) = Sum.inr c) : b = Sum.inr c := by
  split at h
  · cases h
  · exact h

/-- An armed splice leaves sessions. -/
theorem place_ses (s : State) (a : Armed) (hc : Calm s F.hopperLow) (w : Sess) : (s.placeSplice a).ses w = s.ses w := by
  unfold State.placeSplice
  dsimp only
  rw [event_fc _ _ _ _ _ _ (hc.of_params (by rfl))]
  cases w <;> rfl

/-- An accepted arm. -/
theorem arm_tail (s u : State) (i ref input value lam e : Nat) (off : Int) (h : s.arm i ref input value off = .inr (u, lam, e)) :
    ∃ a, s.fresh.placeSplice a = u := by
  unfold State.arm at h
  dsimp only at h
  have h := ite_inr (ite_inr' (ite_inr' h))
  exact ⟨_, (Prod.mk.inj h).1⟩

/-- An accepted arm leaves sessions. -/
theorem arm_ses (s u : State) (i ref input value lam e : Nat) (off : Int) (hc : Calm s F.hopperLow) (h : s.arm i ref input value off = .inr (u, lam, e)) (w : Sess) :
    u.ses w = s.ses w := by
  obtain ⟨a, ha⟩ := arm_tail _ _ _ _ _ _ _ _ _ h
  rw [← ha]
  rw [place_ses _ _ (hc.of_params (by rfl))]
  cases w <;> rfl

end Sys2Proof.Machine
end

