-- ==== Sys2Proof/Laws/Reset.lean ====
section
/-!
SUPPORT. What the beginning of a block's reset keeps.
-/
namespace Sys2Proof.Machine

/-- What every step of a fold keeps, the fold keeps. -/
theorem foldl_keeps {α β : Type} (f : State → α → State) (p : State → β) (h : ∀ s a, p (f s a) = p s) (l : List α) (s : State) : p (l.foldl f s) = p s := by
  induction l generalizing s with
  | nil => rfl
  | cons a t ih => rw [List.foldl_cons, ih, h]

/-- A fold keeps `faults.shadows`. -/
@[simp] theorem foldl_faults_shadows {α : Type} (f : State → α → State) (h : ∀ s a, (f s a).faults.shadows = s.faults.shadows) (l : List α) (s : State) :
    (l.foldl f s).faults.shadows = s.faults.shadows := foldl_keeps f (fun s => s.faults.shadows) h l s

/-- A choice keeps `faults.shadows`. -/
@[simp] theorem ite_faults_shadows (c : Prop) [Decidable c] (a b : State) : (if c then a else b).faults.shadows = if c then a.faults.shadows else b.faults.shadows := by split <;> rfl

/-- `State.emit` keeps `faults.shadows`. -/
@[simp] theorem State.emit_faults_shadows (s : State) (o : Output) :
    (State.emit s o).faults.shadows = s.faults.shadows := by
  unfold State.emit
  rfl

/-- `State.emits` keeps `faults.shadows`. -/
@[simp] theorem State.emits_faults_shadows (s : State) (l : List Output) :
    (State.emits s l).faults.shadows = s.faults.shadows := by
  unfold State.emits
  rfl

/-- `State.fresh` keeps `faults.shadows`. -/
@[simp] theorem State.fresh_faults_shadows (s : State) :
    (State.fresh s).faults.shadows = s.faults.shadows := by
  unfold State.fresh
  rfl

/-- `State.signal` keeps `faults.shadows`. -/
@[simp] theorem State.signal_faults_shadows (s : State) (v : Nat) :
    (State.signal s v).faults.shadows = s.faults.shadows := by
  unfold State.signal
  simp

/-- `State.event` keeps `faults.shadows`. -/
@[simp] theorem State.event_faults_shadows (s : State) (k : Nat) :
    (State.event s k).faults.shadows = s.faults.shadows := by
  unfold State.event
  simp

/-- `State.setSrc` keeps `faults.shadows`. -/
@[simp] theorem State.setSrc_faults_shadows (s : State) (n : Nat) (x : Source) :
    (State.setSrc s n x).faults.shadows = s.faults.shadows := by
  unfold State.setSrc
  rfl

/-- `State.log` keeps `faults.shadows`. -/
@[simp] theorem State.log_faults_shadows (s : State) (kind master source : Nat) (addr : Option (BitVec 32)) (count : Option Nat) (data : Option (BitVec 32)) :
    (State.log s kind master source addr count data).faults.shadows = s.faults.shadows := by
  unfold State.log
  rfl

/-- `State.setSes` keeps `faults.shadows`. -/
@[simp] theorem State.setSes_faults_shadows (s : State) (w : Sess) (x : Session) :
    (State.setSes s w x).faults.shadows = s.faults.shadows := by
  unfold State.setSes
  split <;> simp

/-- `State.slotSignal` keeps `faults.shadows`. -/
@[simp] theorem State.slotSignal_faults_shadows (s : State) (w : Sess) :
    (State.slotSignal s w).faults.shadows = s.faults.shadows := by
  unfold State.slotSignal
  split <;> simp

/-- `State.setScratch` keeps `faults.shadows`. -/
@[simp] theorem State.setScratch_faults_shadows (s : State) (a : Nat) (b : Bytes) :
    (State.setScratch s a b).faults.shadows = s.faults.shadows := by
  unfold State.setScratch
  rfl

/-- `State.writeSlot` keeps `faults.shadows`. -/
@[simp] theorem State.writeSlot_faults_shadows (s : State) (w : Sess) (c : Cmd) (status : Nat) (pay : Bytes) :
    (State.writeSlot s w c status pay).faults.shadows = s.faults.shadows := by
  unfold State.writeSlot
  rfl

/-- `State.deliver` keeps `faults.shadows`. -/
@[simp] theorem State.deliver_faults_shadows (s : State) (w : Sess) (c : Cmd) (status : Nat) (pay : Bytes) :
    (State.deliver s w c status pay).faults.shadows = s.faults.shadows := by
  unfold State.deliver
  split <;> simp

/-- `State.post` keeps `faults.shadows`. -/
@[simp] theorem State.post_faults_shadows (s : State) (w : Sess) (c : Cmd) (status obj result unit : Nat) :
    (State.post s w c status obj result unit).faults.shadows = s.faults.shadows := by
  unfold State.post
  dsimp only
  cases (s.ses w).cq with
  | none => rfl
  | some q => cases w <;> simp

/-- `State.unpend` keeps `faults.shadows`. -/
@[simp] theorem State.unpend_faults_shadows (s : State) (w : Sess) (seq : BitVec 32) :
    (State.unpend s w seq).faults.shadows = s.faults.shadows := by
  unfold State.unpend
  rfl

/-- `State.complete` keeps `faults.shadows`. -/
@[simp] theorem State.complete_faults_shadows (s : State) (p : Pend) (status result unit : Nat) :
    (State.complete s p status result unit).faults.shadows = s.faults.shadows := by
  unfold State.complete
  simp

/-- `State.setJob` keeps `faults.shadows`. -/
@[simp] theorem State.setJob_faults_shadows (s : State) (i : Nat) (j : Job) :
    (State.setJob s i j).faults.shadows = s.faults.shadows := by
  unfold State.setJob
  rfl

/-- `State.emptyJob` keeps `faults.shadows`. -/
@[simp] theorem State.emptyJob_faults_shadows (s : State) (i : Nat) :
    (State.emptyJob s i).faults.shadows = s.faults.shadows := by
  unfold State.emptyJob
  rfl

/-- `State.sendCeil` keeps `faults.shadows`. -/
@[simp] theorem State.sendCeil_faults_shadows (s : State) :
    (State.sendCeil s).faults.shadows = s.faults.shadows := by
  unfold State.sendCeil
  split
  · rfl
  · exact foldl_keeps State.sendCeilOn (fun s => s.faults.shadows) (fun _ _ => rfl) _ _

/-- `State.refresh` keeps `faults.shadows`. -/
@[simp] theorem State.refresh_faults_shadows (s : State) :
    (State.refresh s).faults.shadows = s.faults.shadows := by
  unfold State.refresh
  simp

/-- `State.setCtx` keeps `faults.shadows`. -/
@[simp] theorem State.setCtx_faults_shadows (s : State) (c : Nat) (x : Ctx) :
    (State.setCtx s c x).faults.shadows = s.faults.shadows := by
  unfold State.setCtx
  rfl

/-- `State.nozzleOut` keeps `faults.shadows`. -/
@[simp] theorem State.nozzleOut_faults_shadows (hit : State → Nat → Nat → State) (s : State) (c : Nat) (m : Stream) (hhit : ∀ (q : State) x0 x1, (hit q x0 x1).faults.shadows = q.faults.shadows) :
    (State.nozzleOut hit s c m).faults.shadows = s.faults.shadows := by
  unfold State.nozzleOut
  simp [*]

/-- `State.previewOut` keeps `faults.shadows`. -/
@[simp] theorem State.previewOut_faults_shadows (s : State) (c : Nat) (m : Stream) (busy : Bool) :
    (State.previewOut s c m busy).faults.shadows = s.faults.shadows := by
  unfold State.previewOut
  dsimp only
  repeat' split
  all_goals first | rfl | simp [*]

/-- `State.captureOut` keeps `faults.shadows`. -/
@[simp] theorem State.captureOut_faults_shadows (s : State) (c : Nat) (m : Stream) (q : Capture) :
    (State.captureOut s c m q).faults.shadows = s.faults.shadows := by
  unfold State.captureOut
  split <;> simp

/-- `State.deliverFrame` keeps `faults.shadows`. -/
@[simp] theorem State.deliverFrame_faults_shadows (hit : State → Nat → Nat → State) (s : State) (c : Nat) (f : Frame) (busy : Bool) (hhit : ∀ (q : State) x0 x1, (hit q x0 x1).faults.shadows = q.faults.shadows) :
    (State.deliverFrame hit s c f busy).faults.shadows = s.faults.shadows := by
  unfold State.deliverFrame
  dsimp only
  repeat' split
  all_goals first | rfl | simp [*]

/-- `State.closeFrame` keeps `faults.shadows`. -/
@[simp] theorem State.closeFrame_faults_shadows (hit : State → Nat → Nat → State) (s : State) (c : Nat) (noEnd busy : Bool) (hhit : ∀ (q : State) x0 x1, (hit q x0 x1).faults.shadows = q.faults.shadows) :
    (State.closeFrame hit s c noEnd busy).faults.shadows = s.faults.shadows := by
  unfold State.closeFrame
  dsimp only
  split <;> simp [*]

/-- `State.dropFrame` keeps `faults.shadows`. -/
@[simp] theorem State.dropFrame_faults_shadows (hit : State → Nat → Nat → State) (s : State) (c : Nat) (busy : Bool) (hhit : ∀ (q : State) x0 x1, (hit q x0 x1).faults.shadows = q.faults.shadows) :
    (State.dropFrame hit s c busy).faults.shadows = s.faults.shadows := by
  unfold State.dropFrame
  dsimp only
  split <;> simp [*]

/-- `State.closePort` keeps `faults.shadows`. -/
@[simp] theorem State.closePort_faults_shadows (hit : State → Nat → Nat → State) (s : State) (p : Nat) (busy : List Nat) (hhit : ∀ (q : State) x0 x1, (hit q x0 x1).faults.shadows = q.faults.shadows) :
    (State.closePort hit s p busy).faults.shadows = s.faults.shadows := by
  unfold State.closePort
  simp [*]

/-- `State.record` keeps `faults.shadows`. -/
@[simp] theorem State.record_faults_shadows (s : State) (n a master access : Nat) :
    (State.record s n a master access).faults.shadows = s.faults.shadows := by
  unfold State.record
  rfl

/-- `State.logHit` keeps `faults.shadows`. -/
@[simp] theorem State.logHit_faults_shadows (s : State) (n a master : Nat) :
    (State.logHit s n a master).faults.shadows = s.faults.shadows := by
  unfold State.logHit
  simp

/-- `State.react` keeps `faults.shadows`. -/
@[simp] theorem State.react_faults_shadows (s : State) (n a master access : Nat) :
    (State.react s n a master access).faults.shadows = s.faults.shadows := by
  unfold State.react
  simp

/-- `State.maskHit` keeps `faults.shadows`. -/
@[simp] theorem State.maskHit_faults_shadows (s : State) :
    (State.maskHit s).faults.shadows = s.faults.shadows := by
  unfold State.maskHit
  simp

/-- `State.addCond` keeps `faults.shadows`. -/
@[simp] theorem State.addCond_faults_shadows (s : State) (n a : Nat) :
    (State.addCond s n a).faults.shadows = s.faults.shadows := by
  unfold State.addCond
  simp

/-- `State.hitBasic` keeps `faults.shadows`. -/
@[simp] theorem State.hitBasic_faults_shadows (s : State) (n a master access : Nat) :
    (State.hitBasic s n a master access).faults.shadows = s.faults.shadows := by
  unfold State.hitBasic
  simp

/-- `State.defect` keeps `faults.shadows`. -/
@[simp] theorem State.defect_faults_shadows (s : State) (d : Defect) :
    (State.defect s d).faults.shadows = s.faults.shadows := by
  unfold State.defect
  simp

/-- `State.barLate` keeps `faults.shadows`. -/
@[simp] theorem State.barLate_faults_shadows (s : State) (line bar : Nat) :
    (State.barLate s line bar).faults.shadows = s.faults.shadows := by
  unfold State.barLate
  rfl

/-- `State.resetGrate` keeps `faults.shadows`. -/
@[simp] theorem State.resetGrate_faults_shadows (s : State) (b : Nat) :
    (State.resetGrate s b).faults.shadows = s.faults.shadows := by
  unfold State.resetGrate
  dsimp only
  split <;> simp

/-- `innerHit` keeps `faults.shadows`. -/
@[simp] theorem innerHit_faults_shadows (s : State) (n a : Nat) :
    (innerHit s n a).faults.shadows = s.faults.shadows := by
  unfold innerHit
  simp

/-- `State.resetLoupe` keeps `faults.shadows`. -/
@[simp] theorem State.resetLoupe_faults_shadows (s : State) (ctxs : List Nat) :
    (State.resetLoupe s ctxs).faults.shadows = s.faults.shadows := by
  unfold State.resetLoupe
  simp

/-- `State.lostLines` keeps `faults.shadows`. -/
@[simp] theorem State.lostLines_faults_shadows (s : State) (lines : List Nat) :
    (State.lostLines s lines).faults.shadows = s.faults.shadows := by
  unfold State.lostLines
  split <;> simp

/-- A fold keeps `faults.heldR`. -/
@[simp] theorem foldl_faults_heldR {α : Type} (f : State → α → State) (h : ∀ s a, (f s a).faults.heldR = s.faults.heldR) (l : List α) (s : State) :
    (l.foldl f s).faults.heldR = s.faults.heldR := foldl_keeps f (fun s => s.faults.heldR) h l s

/-- A choice keeps `faults.heldR`. -/
@[simp] theorem ite_faults_heldR (c : Prop) [Decidable c] (a b : State) : (if c then a else b).faults.heldR = if c then a.faults.heldR else b.faults.heldR := by split <;> rfl

/-- `State.emit` keeps `faults.heldR`. -/
@[simp] theorem State.emit_faults_heldR (s : State) (o : Output) :
    (State.emit s o).faults.heldR = s.faults.heldR := by
  unfold State.emit
  rfl

/-- `State.emits` keeps `faults.heldR`. -/
@[simp] theorem State.emits_faults_heldR (s : State) (l : List Output) :
    (State.emits s l).faults.heldR = s.faults.heldR := by
  unfold State.emits
  rfl

/-- `State.fresh` keeps `faults.heldR`. -/
@[simp] theorem State.fresh_faults_heldR (s : State) :
    (State.fresh s).faults.heldR = s.faults.heldR := by
  unfold State.fresh
  rfl

/-- `State.signal` keeps `faults.heldR`. -/
@[simp] theorem State.signal_faults_heldR (s : State) (v : Nat) :
    (State.signal s v).faults.heldR = s.faults.heldR := by
  unfold State.signal
  simp

/-- `State.event` keeps `faults.heldR`. -/
@[simp] theorem State.event_faults_heldR (s : State) (k : Nat) :
    (State.event s k).faults.heldR = s.faults.heldR := by
  unfold State.event
  simp

/-- `State.setSrc` keeps `faults.heldR`. -/
@[simp] theorem State.setSrc_faults_heldR (s : State) (n : Nat) (x : Source) :
    (State.setSrc s n x).faults.heldR = s.faults.heldR := by
  unfold State.setSrc
  rfl

/-- `State.log` keeps `faults.heldR`. -/
@[simp] theorem State.log_faults_heldR (s : State) (kind master source : Nat) (addr : Option (BitVec 32)) (count : Option Nat) (data : Option (BitVec 32)) :
    (State.log s kind master source addr count data).faults.heldR = s.faults.heldR := by
  unfold State.log
  rfl

/-- `State.setSes` keeps `faults.heldR`. -/
@[simp] theorem State.setSes_faults_heldR (s : State) (w : Sess) (x : Session) :
    (State.setSes s w x).faults.heldR = s.faults.heldR := by
  unfold State.setSes
  split <;> simp

/-- `State.slotSignal` keeps `faults.heldR`. -/
@[simp] theorem State.slotSignal_faults_heldR (s : State) (w : Sess) :
    (State.slotSignal s w).faults.heldR = s.faults.heldR := by
  unfold State.slotSignal
  split <;> simp

/-- `State.setScratch` keeps `faults.heldR`. -/
@[simp] theorem State.setScratch_faults_heldR (s : State) (a : Nat) (b : Bytes) :
    (State.setScratch s a b).faults.heldR = s.faults.heldR := by
  unfold State.setScratch
  rfl

/-- `State.writeSlot` keeps `faults.heldR`. -/
@[simp] theorem State.writeSlot_faults_heldR (s : State) (w : Sess) (c : Cmd) (status : Nat) (pay : Bytes) :
    (State.writeSlot s w c status pay).faults.heldR = s.faults.heldR := by
  unfold State.writeSlot
  rfl

/-- `State.deliver` keeps `faults.heldR`. -/
@[simp] theorem State.deliver_faults_heldR (s : State) (w : Sess) (c : Cmd) (status : Nat) (pay : Bytes) :
    (State.deliver s w c status pay).faults.heldR = s.faults.heldR := by
  unfold State.deliver
  split <;> simp

/-- `State.post` keeps `faults.heldR`. -/
@[simp] theorem State.post_faults_heldR (s : State) (w : Sess) (c : Cmd) (status obj result unit : Nat) :
    (State.post s w c status obj result unit).faults.heldR = s.faults.heldR := by
  unfold State.post
  dsimp only
  cases (s.ses w).cq with
  | none => rfl
  | some q => cases w <;> simp

/-- `State.unpend` keeps `faults.heldR`. -/
@[simp] theorem State.unpend_faults_heldR (s : State) (w : Sess) (seq : BitVec 32) :
    (State.unpend s w seq).faults.heldR = s.faults.heldR := by
  unfold State.unpend
  rfl

/-- `State.complete` keeps `faults.heldR`. -/
@[simp] theorem State.complete_faults_heldR (s : State) (p : Pend) (status result unit : Nat) :
    (State.complete s p status result unit).faults.heldR = s.faults.heldR := by
  unfold State.complete
  simp

/-- `State.setJob` keeps `faults.heldR`. -/
@[simp] theorem State.setJob_faults_heldR (s : State) (i : Nat) (j : Job) :
    (State.setJob s i j).faults.heldR = s.faults.heldR := by
  unfold State.setJob
  rfl

/-- `State.emptyJob` keeps `faults.heldR`. -/
@[simp] theorem State.emptyJob_faults_heldR (s : State) (i : Nat) :
    (State.emptyJob s i).faults.heldR = s.faults.heldR := by
  unfold State.emptyJob
  rfl

/-- `State.sendCeil` keeps `faults.heldR`. -/
@[simp] theorem State.sendCeil_faults_heldR (s : State) :
    (State.sendCeil s).faults.heldR = s.faults.heldR := by
  unfold State.sendCeil
  split
  · rfl
  · exact foldl_keeps State.sendCeilOn (fun s => s.faults.heldR) (fun _ _ => rfl) _ _

/-- `State.refresh` keeps `faults.heldR`. -/
@[simp] theorem State.refresh_faults_heldR (s : State) :
    (State.refresh s).faults.heldR = s.faults.heldR := by
  unfold State.refresh
  simp

/-- `State.setCtx` keeps `faults.heldR`. -/
@[simp] theorem State.setCtx_faults_heldR (s : State) (c : Nat) (x : Ctx) :
    (State.setCtx s c x).faults.heldR = s.faults.heldR := by
  unfold State.setCtx
  rfl

/-- `State.nozzleOut` keeps `faults.heldR`. -/
@[simp] theorem State.nozzleOut_faults_heldR (hit : State → Nat → Nat → State) (s : State) (c : Nat) (m : Stream) (hhit : ∀ (q : State) x0 x1, (hit q x0 x1).faults.heldR = q.faults.heldR) :
    (State.nozzleOut hit s c m).faults.heldR = s.faults.heldR := by
  unfold State.nozzleOut
  simp [*]

/-- `State.previewOut` keeps `faults.heldR`. -/
@[simp] theorem State.previewOut_faults_heldR (s : State) (c : Nat) (m : Stream) (busy : Bool) :
    (State.previewOut s c m busy).faults.heldR = s.faults.heldR := by
  unfold State.previewOut
  dsimp only
  repeat' split
  all_goals first | rfl | simp [*]

/-- `State.captureOut` keeps `faults.heldR`. -/
@[simp] theorem State.captureOut_faults_heldR (s : State) (c : Nat) (m : Stream) (q : Capture) :
    (State.captureOut s c m q).faults.heldR = s.faults.heldR := by
  unfold State.captureOut
  split <;> simp

/-- `State.deliverFrame` keeps `faults.heldR`. -/
@[simp] theorem State.deliverFrame_faults_heldR (hit : State → Nat → Nat → State) (s : State) (c : Nat) (f : Frame) (busy : Bool) (hhit : ∀ (q : State) x0 x1, (hit q x0 x1).faults.heldR = q.faults.heldR) :
    (State.deliverFrame hit s c f busy).faults.heldR = s.faults.heldR := by
  unfold State.deliverFrame
  dsimp only
  repeat' split
  all_goals first | rfl | simp [*]

/-- `State.closeFrame` keeps `faults.heldR`. -/
@[simp] theorem State.closeFrame_faults_heldR (hit : State → Nat → Nat → State) (s : State) (c : Nat) (noEnd busy : Bool) (hhit : ∀ (q : State) x0 x1, (hit q x0 x1).faults.heldR = q.faults.heldR) :
    (State.closeFrame hit s c noEnd busy).faults.heldR = s.faults.heldR := by
  unfold State.closeFrame
  dsimp only
  split <;> simp [*]

/-- `State.dropFrame` keeps `faults.heldR`. -/
@[simp] theorem State.dropFrame_faults_heldR (hit : State → Nat → Nat → State) (s : State) (c : Nat) (busy : Bool) (hhit : ∀ (q : State) x0 x1, (hit q x0 x1).faults.heldR = q.faults.heldR) :
    (State.dropFrame hit s c busy).faults.heldR = s.faults.heldR := by
  unfold State.dropFrame
  dsimp only
  split <;> simp [*]

/-- `State.closePort` keeps `faults.heldR`. -/
@[simp] theorem State.closePort_faults_heldR (hit : State → Nat → Nat → State) (s : State) (p : Nat) (busy : List Nat) (hhit : ∀ (q : State) x0 x1, (hit q x0 x1).faults.heldR = q.faults.heldR) :
    (State.closePort hit s p busy).faults.heldR = s.faults.heldR := by
  unfold State.closePort
  simp [*]

/-- `State.record` keeps `faults.heldR`. -/
@[simp] theorem State.record_faults_heldR (s : State) (n a master access : Nat) :
    (State.record s n a master access).faults.heldR = s.faults.heldR := by
  unfold State.record
  rfl

/-- `State.logHit` keeps `faults.heldR`. -/
@[simp] theorem State.logHit_faults_heldR (s : State) (n a master : Nat) :
    (State.logHit s n a master).faults.heldR = s.faults.heldR := by
  unfold State.logHit
  simp

/-- `State.react` keeps `faults.heldR`. -/
@[simp] theorem State.react_faults_heldR (s : State) (n a master access : Nat) :
    (State.react s n a master access).faults.heldR = s.faults.heldR := by
  unfold State.react
  simp

/-- `State.maskHit` keeps `faults.heldR`. -/
@[simp] theorem State.maskHit_faults_heldR (s : State) :
    (State.maskHit s).faults.heldR = s.faults.heldR := by
  unfold State.maskHit
  simp

/-- `State.addCond` keeps `faults.heldR`. -/
@[simp] theorem State.addCond_faults_heldR (s : State) (n a : Nat) :
    (State.addCond s n a).faults.heldR = s.faults.heldR := by
  unfold State.addCond
  simp

/-- `State.hitBasic` keeps `faults.heldR`. -/
@[simp] theorem State.hitBasic_faults_heldR (s : State) (n a master access : Nat) :
    (State.hitBasic s n a master access).faults.heldR = s.faults.heldR := by
  unfold State.hitBasic
  simp

/-- `State.defect` keeps `faults.heldR`. -/
@[simp] theorem State.defect_faults_heldR (s : State) (d : Defect) :
    (State.defect s d).faults.heldR = s.faults.heldR := by
  unfold State.defect
  simp

/-- `State.barLate` keeps `faults.heldR`. -/
@[simp] theorem State.barLate_faults_heldR (s : State) (line bar : Nat) :
    (State.barLate s line bar).faults.heldR = s.faults.heldR := by
  unfold State.barLate
  rfl

/-- `State.resetGrate` keeps `faults.heldR`. -/
@[simp] theorem State.resetGrate_faults_heldR (s : State) (b : Nat) :
    (State.resetGrate s b).faults.heldR = s.faults.heldR := by
  unfold State.resetGrate
  dsimp only
  split <;> simp

/-- `innerHit` keeps `faults.heldR`. -/
@[simp] theorem innerHit_faults_heldR (s : State) (n a : Nat) :
    (innerHit s n a).faults.heldR = s.faults.heldR := by
  unfold innerHit
  simp

/-- `State.resetLoupe` keeps `faults.heldR`. -/
@[simp] theorem State.resetLoupe_faults_heldR (s : State) (ctxs : List Nat) :
    (State.resetLoupe s ctxs).faults.heldR = s.faults.heldR := by
  unfold State.resetLoupe
  simp

/-- `State.lostLines` keeps `faults.heldR`. -/
@[simp] theorem State.lostLines_faults_heldR (s : State) (lines : List Nat) :
    (State.lostLines s lines).faults.heldR = s.faults.heldR := by
  unfold State.lostLines
  split <;> simp

/-- A fold keeps `host.epoch`. -/
@[simp] theorem foldl_host_epoch {α : Type} (f : State → α → State) (h : ∀ s a, (f s a).host.epoch = s.host.epoch) (l : List α) (s : State) :
    (l.foldl f s).host.epoch = s.host.epoch := foldl_keeps f (fun s => s.host.epoch) h l s

/-- A choice keeps `host.epoch`. -/
@[simp] theorem ite_host_epoch (c : Prop) [Decidable c] (a b : State) : (if c then a else b).host.epoch = if c then a.host.epoch else b.host.epoch := by split <;> rfl

/-- `State.emit` keeps `host.epoch`. -/
@[simp] theorem State.emit_host_epoch (s : State) (o : Output) :
    (State.emit s o).host.epoch = s.host.epoch := by
  unfold State.emit
  rfl

/-- `State.emits` keeps `host.epoch`. -/
@[simp] theorem State.emits_host_epoch (s : State) (l : List Output) :
    (State.emits s l).host.epoch = s.host.epoch := by
  unfold State.emits
  rfl

/-- `State.fresh` keeps `host.epoch`. -/
@[simp] theorem State.fresh_host_epoch (s : State) :
    (State.fresh s).host.epoch = s.host.epoch := by
  unfold State.fresh
  rfl

/-- `State.signal` keeps `host.epoch`. -/
@[simp] theorem State.signal_host_epoch (s : State) (v : Nat) :
    (State.signal s v).host.epoch = s.host.epoch := by
  unfold State.signal
  simp

/-- `State.event` keeps `host.epoch`. -/
@[simp] theorem State.event_host_epoch (s : State) (k : Nat) :
    (State.event s k).host.epoch = s.host.epoch := by
  unfold State.event
  simp

/-- `State.setSrc` keeps `host.epoch`. -/
@[simp] theorem State.setSrc_host_epoch (s : State) (n : Nat) (x : Source) :
    (State.setSrc s n x).host.epoch = s.host.epoch := by
  unfold State.setSrc
  rfl

/-- `State.log` keeps `host.epoch`. -/
@[simp] theorem State.log_host_epoch (s : State) (kind master source : Nat) (addr : Option (BitVec 32)) (count : Option Nat) (data : Option (BitVec 32)) :
    (State.log s kind master source addr count data).host.epoch = s.host.epoch := by
  unfold State.log
  rfl

/-- `State.setSes` keeps `host.epoch`. -/
@[simp] theorem State.setSes_host_epoch (s : State) (w : Sess) (x : Session) :
    (State.setSes s w x).host.epoch = s.host.epoch := by
  unfold State.setSes
  split <;> simp

/-- `State.slotSignal` keeps `host.epoch`. -/
@[simp] theorem State.slotSignal_host_epoch (s : State) (w : Sess) :
    (State.slotSignal s w).host.epoch = s.host.epoch := by
  unfold State.slotSignal
  split <;> simp

/-- `State.setScratch` keeps `host.epoch`. -/
@[simp] theorem State.setScratch_host_epoch (s : State) (a : Nat) (b : Bytes) :
    (State.setScratch s a b).host.epoch = s.host.epoch := by
  unfold State.setScratch
  rfl

/-- `State.writeSlot` keeps `host.epoch`. -/
@[simp] theorem State.writeSlot_host_epoch (s : State) (w : Sess) (c : Cmd) (status : Nat) (pay : Bytes) :
    (State.writeSlot s w c status pay).host.epoch = s.host.epoch := by
  unfold State.writeSlot
  rfl

/-- `State.deliver` keeps `host.epoch`. -/
@[simp] theorem State.deliver_host_epoch (s : State) (w : Sess) (c : Cmd) (status : Nat) (pay : Bytes) :
    (State.deliver s w c status pay).host.epoch = s.host.epoch := by
  unfold State.deliver
  split <;> simp

/-- `State.post` keeps `host.epoch`. -/
@[simp] theorem State.post_host_epoch (s : State) (w : Sess) (c : Cmd) (status obj result unit : Nat) :
    (State.post s w c status obj result unit).host.epoch = s.host.epoch := by
  unfold State.post
  dsimp only
  cases (s.ses w).cq with
  | none => rfl
  | some q => cases w <;> simp

/-- `State.unpend` keeps `host.epoch`. -/
@[simp] theorem State.unpend_host_epoch (s : State) (w : Sess) (seq : BitVec 32) :
    (State.unpend s w seq).host.epoch = s.host.epoch := by
  unfold State.unpend
  rfl

/-- `State.complete` keeps `host.epoch`. -/
@[simp] theorem State.complete_host_epoch (s : State) (p : Pend) (status result unit : Nat) :
    (State.complete s p status result unit).host.epoch = s.host.epoch := by
  unfold State.complete
  simp

/-- `State.setJob` keeps `host.epoch`. -/
@[simp] theorem State.setJob_host_epoch (s : State) (i : Nat) (j : Job) :
    (State.setJob s i j).host.epoch = s.host.epoch := by
  unfold State.setJob
  rfl

/-- `State.emptyJob` keeps `host.epoch`. -/
@[simp] theorem State.emptyJob_host_epoch (s : State) (i : Nat) :
    (State.emptyJob s i).host.epoch = s.host.epoch := by
  unfold State.emptyJob
  rfl

/-- `State.sendCeil` keeps `host.epoch`. -/
@[simp] theorem State.sendCeil_host_epoch (s : State) :
    (State.sendCeil s).host.epoch = s.host.epoch := by
  unfold State.sendCeil
  split
  · rfl
  · exact foldl_keeps State.sendCeilOn (fun s => s.host.epoch) (fun _ _ => rfl) _ _

/-- `State.refresh` keeps `host.epoch`. -/
@[simp] theorem State.refresh_host_epoch (s : State) :
    (State.refresh s).host.epoch = s.host.epoch := by
  unfold State.refresh
  simp

/-- `State.setCtx` keeps `host.epoch`. -/
@[simp] theorem State.setCtx_host_epoch (s : State) (c : Nat) (x : Ctx) :
    (State.setCtx s c x).host.epoch = s.host.epoch := by
  unfold State.setCtx
  rfl

/-- `State.nozzleOut` keeps `host.epoch`. -/
@[simp] theorem State.nozzleOut_host_epoch (hit : State → Nat → Nat → State) (s : State) (c : Nat) (m : Stream) (hhit : ∀ (q : State) x0 x1, (hit q x0 x1).host.epoch = q.host.epoch) :
    (State.nozzleOut hit s c m).host.epoch = s.host.epoch := by
  unfold State.nozzleOut
  simp [*]

/-- `State.previewOut` keeps `host.epoch`. -/
@[simp] theorem State.previewOut_host_epoch (s : State) (c : Nat) (m : Stream) (busy : Bool) :
    (State.previewOut s c m busy).host.epoch = s.host.epoch := by
  unfold State.previewOut
  dsimp only
  repeat' split
  all_goals first | rfl | simp [*]

/-- `State.captureOut` keeps `host.epoch`. -/
@[simp] theorem State.captureOut_host_epoch (s : State) (c : Nat) (m : Stream) (q : Capture) :
    (State.captureOut s c m q).host.epoch = s.host.epoch := by
  unfold State.captureOut
  split <;> simp

/-- `State.deliverFrame` keeps `host.epoch`. -/
@[simp] theorem State.deliverFrame_host_epoch (hit : State → Nat → Nat → State) (s : State) (c : Nat) (f : Frame) (busy : Bool) (hhit : ∀ (q : State) x0 x1, (hit q x0 x1).host.epoch = q.host.epoch) :
    (State.deliverFrame hit s c f busy).host.epoch = s.host.epoch := by
  unfold State.deliverFrame
  dsimp only
  repeat' split
  all_goals first | rfl | simp [*]

/-- `State.closeFrame` keeps `host.epoch`. -/
@[simp] theorem State.closeFrame_host_epoch (hit : State → Nat → Nat → State) (s : State) (c : Nat) (noEnd busy : Bool) (hhit : ∀ (q : State) x0 x1, (hit q x0 x1).host.epoch = q.host.epoch) :
    (State.closeFrame hit s c noEnd busy).host.epoch = s.host.epoch := by
  unfold State.closeFrame
  dsimp only
  split <;> simp [*]

/-- `State.dropFrame` keeps `host.epoch`. -/
@[simp] theorem State.dropFrame_host_epoch (hit : State → Nat → Nat → State) (s : State) (c : Nat) (busy : Bool) (hhit : ∀ (q : State) x0 x1, (hit q x0 x1).host.epoch = q.host.epoch) :
    (State.dropFrame hit s c busy).host.epoch = s.host.epoch := by
  unfold State.dropFrame
  dsimp only
  split <;> simp [*]

/-- `State.closePort` keeps `host.epoch`. -/
@[simp] theorem State.closePort_host_epoch (hit : State → Nat → Nat → State) (s : State) (p : Nat) (busy : List Nat) (hhit : ∀ (q : State) x0 x1, (hit q x0 x1).host.epoch = q.host.epoch) :
    (State.closePort hit s p busy).host.epoch = s.host.epoch := by
  unfold State.closePort
  simp [*]

/-- `State.record` keeps `host.epoch`. -/
@[simp] theorem State.record_host_epoch (s : State) (n a master access : Nat) :
    (State.record s n a master access).host.epoch = s.host.epoch := by
  unfold State.record
  rfl

/-- `State.logHit` keeps `host.epoch`. -/
@[simp] theorem State.logHit_host_epoch (s : State) (n a master : Nat) :
    (State.logHit s n a master).host.epoch = s.host.epoch := by
  unfold State.logHit
  simp

/-- `State.react` keeps `host.epoch`. -/
@[simp] theorem State.react_host_epoch (s : State) (n a master access : Nat) :
    (State.react s n a master access).host.epoch = s.host.epoch := by
  unfold State.react
  simp

/-- `State.maskHit` keeps `host.epoch`. -/
@[simp] theorem State.maskHit_host_epoch (s : State) :
    (State.maskHit s).host.epoch = s.host.epoch := by
  unfold State.maskHit
  simp

/-- `State.addCond` keeps `host.epoch`. -/
@[simp] theorem State.addCond_host_epoch (s : State) (n a : Nat) :
    (State.addCond s n a).host.epoch = s.host.epoch := by
  unfold State.addCond
  simp

/-- `State.hitBasic` keeps `host.epoch`. -/
@[simp] theorem State.hitBasic_host_epoch (s : State) (n a master access : Nat) :
    (State.hitBasic s n a master access).host.epoch = s.host.epoch := by
  unfold State.hitBasic
  simp

/-- `State.defect` keeps `host.epoch`. -/
@[simp] theorem State.defect_host_epoch (s : State) (d : Defect) :
    (State.defect s d).host.epoch = s.host.epoch := by
  unfold State.defect
  simp

/-- `State.barLate` keeps `host.epoch`. -/
@[simp] theorem State.barLate_host_epoch (s : State) (line bar : Nat) :
    (State.barLate s line bar).host.epoch = s.host.epoch := by
  unfold State.barLate
  rfl

/-- `State.resetGrate` keeps `host.epoch`. -/
@[simp] theorem State.resetGrate_host_epoch (s : State) (b : Nat) :
    (State.resetGrate s b).host.epoch = s.host.epoch := by
  unfold State.resetGrate
  dsimp only
  split <;> simp

/-- `innerHit` keeps `host.epoch`. -/
@[simp] theorem innerHit_host_epoch (s : State) (n a : Nat) :
    (innerHit s n a).host.epoch = s.host.epoch := by
  unfold innerHit
  simp

/-- `State.resetLoupe` keeps `host.epoch`. -/
@[simp] theorem State.resetLoupe_host_epoch (s : State) (ctxs : List Nat) :
    (State.resetLoupe s ctxs).host.epoch = s.host.epoch := by
  unfold State.resetLoupe
  simp

/-- `State.lostLines` keeps `host.epoch`. -/
@[simp] theorem State.lostLines_host_epoch (s : State) (lines : List Nat) :
    (State.lostLines s lines).host.epoch = s.host.epoch := by
  unfold State.lostLines
  split <;> simp

/-- A fold keeps `params`. -/
@[simp] theorem foldl_params {α : Type} (f : State → α → State) (h : ∀ s a, (f s a).params = s.params) (l : List α) (s : State) :
    (l.foldl f s).params = s.params := foldl_keeps f (fun s => s.params) h l s

/-- A choice keeps `params`. -/
@[simp] theorem ite_params (c : Prop) [Decidable c] (a b : State) : (if c then a else b).params = if c then a.params else b.params := by split <;> rfl

/-- `State.signal` keeps `params`. -/
@[simp] theorem State.signal_params (s : State) (v : Nat) :
    (State.signal s v).params = s.params := by
  unfold State.signal
  simp

/-- `State.event` keeps `params`. -/
@[simp] theorem State.event_params (s : State) (k : Nat) :
    (State.event s k).params = s.params := by
  unfold State.event
  simp

/-- `State.setSrc` keeps `params`. -/
@[simp] theorem State.setSrc_params (s : State) (n : Nat) (x : Source) :
    (State.setSrc s n x).params = s.params := by
  unfold State.setSrc
  rfl

/-- `State.log` keeps `params`. -/
@[simp] theorem State.log_params (s : State) (kind master source : Nat) (addr : Option (BitVec 32)) (count : Option Nat) (data : Option (BitVec 32)) :
    (State.log s kind master source addr count data).params = s.params := by
  unfold State.log
  rfl

/-- `State.setSes` keeps `params`. -/
@[simp] theorem State.setSes_params (s : State) (w : Sess) (x : Session) :
    (State.setSes s w x).params = s.params := by
  unfold State.setSes
  split <;> simp

/-- `State.slotSignal` keeps `params`. -/
@[simp] theorem State.slotSignal_params (s : State) (w : Sess) :
    (State.slotSignal s w).params = s.params := by
  unfold State.slotSignal
  split <;> simp

/-- `State.setScratch` keeps `params`. -/
@[simp] theorem State.setScratch_params (s : State) (a : Nat) (b : Bytes) :
    (State.setScratch s a b).params = s.params := by
  unfold State.setScratch
  rfl

/-- `State.writeSlot` keeps `params`. -/
@[simp] theorem State.writeSlot_params (s : State) (w : Sess) (c : Cmd) (status : Nat) (pay : Bytes) :
    (State.writeSlot s w c status pay).params = s.params := by
  unfold State.writeSlot
  rfl

/-- `State.deliver` keeps `params`. -/
@[simp] theorem State.deliver_params (s : State) (w : Sess) (c : Cmd) (status : Nat) (pay : Bytes) :
    (State.deliver s w c status pay).params = s.params := by
  unfold State.deliver
  split <;> simp

/-- `State.post` keeps `params`. -/
@[simp] theorem State.post_params (s : State) (w : Sess) (c : Cmd) (status obj result unit : Nat) :
    (State.post s w c status obj result unit).params = s.params := by
  unfold State.post
  dsimp only
  cases (s.ses w).cq with
  | none => rfl
  | some q => cases w <;> simp

/-- `State.unpend` keeps `params`. -/
@[simp] theorem State.unpend_params (s : State) (w : Sess) (seq : BitVec 32) :
    (State.unpend s w seq).params = s.params := by
  unfold State.unpend
  rfl

/-- `State.complete` keeps `params`. -/
@[simp] theorem State.complete_params (s : State) (p : Pend) (status result unit : Nat) :
    (State.complete s p status result unit).params = s.params := by
  unfold State.complete
  simp

/-- `State.emptyJob` keeps `params`. -/
@[simp] theorem State.emptyJob_params (s : State) (i : Nat) :
    (State.emptyJob s i).params = s.params := by
  unfold State.emptyJob
  rfl

/-- `State.sendCeil` keeps `params`. -/
@[simp] theorem State.sendCeil_params (s : State) :
    (State.sendCeil s).params = s.params := by
  unfold State.sendCeil
  split
  · rfl
  · exact foldl_keeps State.sendCeilOn (fun s => s.params) (fun _ _ => rfl) _ _

/-- `State.refresh` keeps `params`. -/
@[simp] theorem State.refresh_params (s : State) :
    (State.refresh s).params = s.params := by
  unfold State.refresh
  simp

/-- `State.nozzleOut` keeps `params`. -/
@[simp] theorem State.nozzleOut_params (hit : State → Nat → Nat → State) (s : State) (c : Nat) (m : Stream) (hhit : ∀ (q : State) x0 x1, (hit q x0 x1).params = q.params) :
    (State.nozzleOut hit s c m).params = s.params := by
  unfold State.nozzleOut
  simp [*]

/-- `State.previewOut` keeps `params`. -/
@[simp] theorem State.previewOut_params (s : State) (c : Nat) (m : Stream) (busy : Bool) :
    (State.previewOut s c m busy).params = s.params := by
  unfold State.previewOut
  dsimp only
  repeat' split
  all_goals first | rfl | simp [*]

/-- `State.captureOut` keeps `params`. -/
@[simp] theorem State.captureOut_params (s : State) (c : Nat) (m : Stream) (q : Capture) :
    (State.captureOut s c m q).params = s.params := by
  unfold State.captureOut
  split <;> simp

/-- `State.deliverFrame` keeps `params`. -/
@[simp] theorem State.deliverFrame_params (hit : State → Nat → Nat → State) (s : State) (c : Nat) (f : Frame) (busy : Bool) (hhit : ∀ (q : State) x0 x1, (hit q x0 x1).params = q.params) :
    (State.deliverFrame hit s c f busy).params = s.params := by
  unfold State.deliverFrame
  dsimp only
  repeat' split
  all_goals first | rfl | simp [*]

/-- `State.closeFrame` keeps `params`. -/
@[simp] theorem State.closeFrame_params (hit : State → Nat → Nat → State) (s : State) (c : Nat) (noEnd busy : Bool) (hhit : ∀ (q : State) x0 x1, (hit q x0 x1).params = q.params) :
    (State.closeFrame hit s c noEnd busy).params = s.params := by
  unfold State.closeFrame
  dsimp only
  split <;> simp [*]

/-- `State.dropFrame` keeps `params`. -/
@[simp] theorem State.dropFrame_params (hit : State → Nat → Nat → State) (s : State) (c : Nat) (busy : Bool) (hhit : ∀ (q : State) x0 x1, (hit q x0 x1).params = q.params) :
    (State.dropFrame hit s c busy).params = s.params := by
  unfold State.dropFrame
  dsimp only
  split <;> simp [*]

/-- `State.closePort` keeps `params`. -/
@[simp] theorem State.closePort_params (hit : State → Nat → Nat → State) (s : State) (p : Nat) (busy : List Nat) (hhit : ∀ (q : State) x0 x1, (hit q x0 x1).params = q.params) :
    (State.closePort hit s p busy).params = s.params := by
  unfold State.closePort
  simp [*]

/-- `State.record` keeps `params`. -/
@[simp] theorem State.record_params (s : State) (n a master access : Nat) :
    (State.record s n a master access).params = s.params := by
  unfold State.record
  rfl

/-- `State.logHit` keeps `params`. -/
@[simp] theorem State.logHit_params (s : State) (n a master : Nat) :
    (State.logHit s n a master).params = s.params := by
  unfold State.logHit
  simp

/-- `State.react` keeps `params`. -/
@[simp] theorem State.react_params (s : State) (n a master access : Nat) :
    (State.react s n a master access).params = s.params := by
  unfold State.react
  simp

/-- `State.maskHit` keeps `params`. -/
@[simp] theorem State.maskHit_params (s : State) :
    (State.maskHit s).params = s.params := by
  unfold State.maskHit
  simp

/-- `State.addCond` keeps `params`. -/
@[simp] theorem State.addCond_params (s : State) (n a : Nat) :
    (State.addCond s n a).params = s.params := by
  unfold State.addCond
  simp

/-- `State.hitBasic` keeps `params`. -/
@[simp] theorem State.hitBasic_params (s : State) (n a master access : Nat) :
    (State.hitBasic s n a master access).params = s.params := by
  unfold State.hitBasic
  simp

/-- `State.defect` keeps `params`. -/
@[simp] theorem State.defect_params (s : State) (d : Defect) :
    (State.defect s d).params = s.params := by
  unfold State.defect
  simp

/-- `State.barLate` keeps `params`. -/
@[simp] theorem State.barLate_params (s : State) (line bar : Nat) :
    (State.barLate s line bar).params = s.params := by
  unfold State.barLate
  rfl

/-- `State.resetGrate` keeps `params`. -/
@[simp] theorem State.resetGrate_params (s : State) (b : Nat) :
    (State.resetGrate s b).params = s.params := by
  unfold State.resetGrate
  dsimp only
  split <;> simp

/-- `innerHit` keeps `params`. -/
@[simp] theorem innerHit_params (s : State) (n a : Nat) :
    (innerHit s n a).params = s.params := by
  unfold innerHit
  simp

/-- `State.resetLoupe` keeps `params`. -/
@[simp] theorem State.resetLoupe_params (s : State) (ctxs : List Nat) :
    (State.resetLoupe s ctxs).params = s.params := by
  unfold State.resetLoupe
  simp

/-- `State.lostLines` keeps `params`. -/
@[simp] theorem State.lostLines_params (s : State) (lines : List Nat) :
    (State.lostLines s lines).params = s.params := by
  unfold State.lostLines
  split <;> simp

/-- A fold keeps `otp`. -/
@[simp] theorem foldl_otp {α : Type} (f : State → α → State) (h : ∀ s a, (f s a).otp = s.otp) (l : List α) (s : State) :
    (l.foldl f s).otp = s.otp := foldl_keeps f (fun s => s.otp) h l s

/-- A choice keeps `otp`. -/
@[simp] theorem ite_otp (c : Prop) [Decidable c] (a b : State) : (if c then a else b).otp = if c then a.otp else b.otp := by split <;> rfl

/-- `State.signal` keeps `otp`. -/
@[simp] theorem State.signal_otp (s : State) (v : Nat) :
    (State.signal s v).otp = s.otp := by
  unfold State.signal
  simp

/-- `State.event` keeps `otp`. -/
@[simp] theorem State.event_otp (s : State) (k : Nat) :
    (State.event s k).otp = s.otp := by
  unfold State.event
  simp

/-- `State.setSrc` keeps `otp`. -/
@[simp] theorem State.setSrc_otp (s : State) (n : Nat) (x : Source) :
    (State.setSrc s n x).otp = s.otp := by
  unfold State.setSrc
  rfl

/-- `State.log` keeps `otp`. -/
@[simp] theorem State.log_otp (s : State) (kind master source : Nat) (addr : Option (BitVec 32)) (count : Option Nat) (data : Option (BitVec 32)) :
    (State.log s kind master source addr count data).otp = s.otp := by
  unfold State.log
  rfl

/-- `State.setSes` keeps `otp`. -/
@[simp] theorem State.setSes_otp (s : State) (w : Sess) (x : Session) :
    (State.setSes s w x).otp = s.otp := by
  unfold State.setSes
  split <;> simp

/-- `State.slotSignal` keeps `otp`. -/
@[simp] theorem State.slotSignal_otp (s : State) (w : Sess) :
    (State.slotSignal s w).otp = s.otp := by
  unfold State.slotSignal
  split <;> simp

/-- `State.setScratch` keeps `otp`. -/
@[simp] theorem State.setScratch_otp (s : State) (a : Nat) (b : Bytes) :
    (State.setScratch s a b).otp = s.otp := by
  unfold State.setScratch
  rfl

/-- `State.writeSlot` keeps `otp`. -/
@[simp] theorem State.writeSlot_otp (s : State) (w : Sess) (c : Cmd) (status : Nat) (pay : Bytes) :
    (State.writeSlot s w c status pay).otp = s.otp := by
  unfold State.writeSlot
  rfl

/-- `State.deliver` keeps `otp`. -/
@[simp] theorem State.deliver_otp (s : State) (w : Sess) (c : Cmd) (status : Nat) (pay : Bytes) :
    (State.deliver s w c status pay).otp = s.otp := by
  unfold State.deliver
  split <;> simp

/-- `State.post` keeps `otp`. -/
@[simp] theorem State.post_otp (s : State) (w : Sess) (c : Cmd) (status obj result unit : Nat) :
    (State.post s w c status obj result unit).otp = s.otp := by
  unfold State.post
  dsimp only
  cases (s.ses w).cq with
  | none => rfl
  | some q => cases w <;> simp

/-- `State.unpend` keeps `otp`. -/
@[simp] theorem State.unpend_otp (s : State) (w : Sess) (seq : BitVec 32) :
    (State.unpend s w seq).otp = s.otp := by
  unfold State.unpend
  rfl

/-- `State.complete` keeps `otp`. -/
@[simp] theorem State.complete_otp (s : State) (p : Pend) (status result unit : Nat) :
    (State.complete s p status result unit).otp = s.otp := by
  unfold State.complete
  simp

/-- `State.emptyJob` keeps `otp`. -/
@[simp] theorem State.emptyJob_otp (s : State) (i : Nat) :
    (State.emptyJob s i).otp = s.otp := by
  unfold State.emptyJob
  rfl

/-- `State.sendCeil` keeps `otp`. -/
@[simp] theorem State.sendCeil_otp (s : State) :
    (State.sendCeil s).otp = s.otp := by
  unfold State.sendCeil
  split
  · rfl
  · exact foldl_keeps State.sendCeilOn (fun s => s.otp) (fun _ _ => rfl) _ _

/-- `State.refresh` keeps `otp`. -/
@[simp] theorem State.refresh_otp (s : State) :
    (State.refresh s).otp = s.otp := by
  unfold State.refresh
  simp

/-- `State.nozzleOut` keeps `otp`. -/
@[simp] theorem State.nozzleOut_otp (hit : State → Nat → Nat → State) (s : State) (c : Nat) (m : Stream) (hhit : ∀ (q : State) x0 x1, (hit q x0 x1).otp = q.otp) :
    (State.nozzleOut hit s c m).otp = s.otp := by
  unfold State.nozzleOut
  simp [*]

/-- `State.previewOut` keeps `otp`. -/
@[simp] theorem State.previewOut_otp (s : State) (c : Nat) (m : Stream) (busy : Bool) :
    (State.previewOut s c m busy).otp = s.otp := by
  unfold State.previewOut
  dsimp only
  repeat' split
  all_goals first | rfl | simp [*]

/-- `State.captureOut` keeps `otp`. -/
@[simp] theorem State.captureOut_otp (s : State) (c : Nat) (m : Stream) (q : Capture) :
    (State.captureOut s c m q).otp = s.otp := by
  unfold State.captureOut
  split <;> simp

/-- `State.deliverFrame` keeps `otp`. -/
@[simp] theorem State.deliverFrame_otp (hit : State → Nat → Nat → State) (s : State) (c : Nat) (f : Frame) (busy : Bool) (hhit : ∀ (q : State) x0 x1, (hit q x0 x1).otp = q.otp) :
    (State.deliverFrame hit s c f busy).otp = s.otp := by
  unfold State.deliverFrame
  dsimp only
  repeat' split
  all_goals first | rfl | simp [*]

/-- `State.closeFrame` keeps `otp`. -/
@[simp] theorem State.closeFrame_otp (hit : State → Nat → Nat → State) (s : State) (c : Nat) (noEnd busy : Bool) (hhit : ∀ (q : State) x0 x1, (hit q x0 x1).otp = q.otp) :
    (State.closeFrame hit s c noEnd busy).otp = s.otp := by
  unfold State.closeFrame
  dsimp only
  split <;> simp [*]

/-- `State.dropFrame` keeps `otp`. -/
@[simp] theorem State.dropFrame_otp (hit : State → Nat → Nat → State) (s : State) (c : Nat) (busy : Bool) (hhit : ∀ (q : State) x0 x1, (hit q x0 x1).otp = q.otp) :
    (State.dropFrame hit s c busy).otp = s.otp := by
  unfold State.dropFrame
  dsimp only
  split <;> simp [*]

/-- `State.closePort` keeps `otp`. -/
@[simp] theorem State.closePort_otp (hit : State → Nat → Nat → State) (s : State) (p : Nat) (busy : List Nat) (hhit : ∀ (q : State) x0 x1, (hit q x0 x1).otp = q.otp) :
    (State.closePort hit s p busy).otp = s.otp := by
  unfold State.closePort
  simp [*]

/-- `State.record` keeps `otp`. -/
@[simp] theorem State.record_otp (s : State) (n a master access : Nat) :
    (State.record s n a master access).otp = s.otp := by
  unfold State.record
  rfl

/-- `State.logHit` keeps `otp`. -/
@[simp] theorem State.logHit_otp (s : State) (n a master : Nat) :
    (State.logHit s n a master).otp = s.otp := by
  unfold State.logHit
  simp

/-- `State.react` keeps `otp`. -/
@[simp] theorem State.react_otp (s : State) (n a master access : Nat) :
    (State.react s n a master access).otp = s.otp := by
  unfold State.react
  simp

/-- `State.maskHit` keeps `otp`. -/
@[simp] theorem State.maskHit_otp (s : State) :
    (State.maskHit s).otp = s.otp := by
  unfold State.maskHit
  simp

/-- `State.addCond` keeps `otp`. -/
@[simp] theorem State.addCond_otp (s : State) (n a : Nat) :
    (State.addCond s n a).otp = s.otp := by
  unfold State.addCond
  simp

/-- `State.hitBasic` keeps `otp`. -/
@[simp] theorem State.hitBasic_otp (s : State) (n a master access : Nat) :
    (State.hitBasic s n a master access).otp = s.otp := by
  unfold State.hitBasic
  simp

/-- `State.defect` keeps `otp`. -/
@[simp] theorem State.defect_otp (s : State) (d : Defect) :
    (State.defect s d).otp = s.otp := by
  unfold State.defect
  simp

/-- `State.barLate` keeps `otp`. -/
@[simp] theorem State.barLate_otp (s : State) (line bar : Nat) :
    (State.barLate s line bar).otp = s.otp := by
  unfold State.barLate
  rfl

/-- `State.resetGrate` keeps `otp`. -/
@[simp] theorem State.resetGrate_otp (s : State) (b : Nat) :
    (State.resetGrate s b).otp = s.otp := by
  unfold State.resetGrate
  dsimp only
  split <;> simp

/-- `innerHit` keeps `otp`. -/
@[simp] theorem innerHit_otp (s : State) (n a : Nat) :
    (innerHit s n a).otp = s.otp := by
  unfold innerHit
  simp

/-- `State.resetLoupe` keeps `otp`. -/
@[simp] theorem State.resetLoupe_otp (s : State) (ctxs : List Nat) :
    (State.resetLoupe s ctxs).otp = s.otp := by
  unfold State.resetLoupe
  simp

/-- `State.lostLines` keeps `otp`. -/
@[simp] theorem State.lostLines_otp (s : State) (lines : List Nat) :
    (State.lostLines s lines).otp = s.otp := by
  unfold State.lostLines
  split <;> simp

/-- A fold keeps `clk`. -/
@[simp] theorem foldl_clk {α : Type} (f : State → α → State) (h : ∀ s a, (f s a).clk = s.clk) (l : List α) (s : State) :
    (l.foldl f s).clk = s.clk := foldl_keeps f (fun s => s.clk) h l s

/-- A choice keeps `clk`. -/
@[simp] theorem ite_clk (c : Prop) [Decidable c] (a b : State) : (if c then a else b).clk = if c then a.clk else b.clk := by split <;> rfl

/-- `State.signal` keeps `clk`. -/
@[simp] theorem State.signal_clk (s : State) (v : Nat) :
    (State.signal s v).clk = s.clk := by
  unfold State.signal
  simp

/-- `State.event` keeps `clk`. -/
@[simp] theorem State.event_clk (s : State) (k : Nat) :
    (State.event s k).clk = s.clk := by
  unfold State.event
  simp

/-- `State.setSrc` keeps `clk`. -/
@[simp] theorem State.setSrc_clk (s : State) (n : Nat) (x : Source) :
    (State.setSrc s n x).clk = s.clk := by
  unfold State.setSrc
  rfl

/-- `State.log` keeps `clk`. -/
@[simp] theorem State.log_clk (s : State) (kind master source : Nat) (addr : Option (BitVec 32)) (count : Option Nat) (data : Option (BitVec 32)) :
    (State.log s kind master source addr count data).clk = s.clk := by
  unfold State.log
  rfl

/-- `State.setSes` keeps `clk`. -/
@[simp] theorem State.setSes_clk (s : State) (w : Sess) (x : Session) :
    (State.setSes s w x).clk = s.clk := by
  unfold State.setSes
  split <;> simp

/-- `State.slotSignal` keeps `clk`. -/
@[simp] theorem State.slotSignal_clk (s : State) (w : Sess) :
    (State.slotSignal s w).clk = s.clk := by
  unfold State.slotSignal
  split <;> simp

/-- `State.setScratch` keeps `clk`. -/
@[simp] theorem State.setScratch_clk (s : State) (a : Nat) (b : Bytes) :
    (State.setScratch s a b).clk = s.clk := by
  unfold State.setScratch
  rfl

/-- `State.writeSlot` keeps `clk`. -/
@[simp] theorem State.writeSlot_clk (s : State) (w : Sess) (c : Cmd) (status : Nat) (pay : Bytes) :
    (State.writeSlot s w c status pay).clk = s.clk := by
  unfold State.writeSlot
  rfl

/-- `State.deliver` keeps `clk`. -/
@[simp] theorem State.deliver_clk (s : State) (w : Sess) (c : Cmd) (status : Nat) (pay : Bytes) :
    (State.deliver s w c status pay).clk = s.clk := by
  unfold State.deliver
  split <;> simp

/-- `State.post` keeps `clk`. -/
@[simp] theorem State.post_clk (s : State) (w : Sess) (c : Cmd) (status obj result unit : Nat) :
    (State.post s w c status obj result unit).clk = s.clk := by
  unfold State.post
  dsimp only
  cases (s.ses w).cq with
  | none => rfl
  | some q => cases w <;> simp

/-- `State.unpend` keeps `clk`. -/
@[simp] theorem State.unpend_clk (s : State) (w : Sess) (seq : BitVec 32) :
    (State.unpend s w seq).clk = s.clk := by
  unfold State.unpend
  rfl

/-- `State.complete` keeps `clk`. -/
@[simp] theorem State.complete_clk (s : State) (p : Pend) (status result unit : Nat) :
    (State.complete s p status result unit).clk = s.clk := by
  unfold State.complete
  simp

/-- `State.emptyJob` keeps `clk`. -/
@[simp] theorem State.emptyJob_clk (s : State) (i : Nat) :
    (State.emptyJob s i).clk = s.clk := by
  unfold State.emptyJob
  rfl

/-- `State.sendCeil` keeps `clk`. -/
@[simp] theorem State.sendCeil_clk (s : State) :
    (State.sendCeil s).clk = s.clk := by
  unfold State.sendCeil
  split
  · rfl
  · exact foldl_keeps State.sendCeilOn (fun s => s.clk) (fun _ _ => rfl) _ _

/-- `State.refresh` keeps `clk`. -/
@[simp] theorem State.refresh_clk (s : State) :
    (State.refresh s).clk = s.clk := by
  unfold State.refresh
  simp

/-- `State.nozzleOut` keeps `clk`. -/
@[simp] theorem State.nozzleOut_clk (hit : State → Nat → Nat → State) (s : State) (c : Nat) (m : Stream) (hhit : ∀ (q : State) x0 x1, (hit q x0 x1).clk = q.clk) :
    (State.nozzleOut hit s c m).clk = s.clk := by
  unfold State.nozzleOut
  simp [*]

/-- `State.previewOut` keeps `clk`. -/
@[simp] theorem State.previewOut_clk (s : State) (c : Nat) (m : Stream) (busy : Bool) :
    (State.previewOut s c m busy).clk = s.clk := by
  unfold State.previewOut
  dsimp only
  repeat' split
  all_goals first | rfl | simp [*]

/-- `State.captureOut` keeps `clk`. -/
@[simp] theorem State.captureOut_clk (s : State) (c : Nat) (m : Stream) (q : Capture) :
    (State.captureOut s c m q).clk = s.clk := by
  unfold State.captureOut
  split <;> simp

/-- `State.deliverFrame` keeps `clk`. -/
@[simp] theorem State.deliverFrame_clk (hit : State → Nat → Nat → State) (s : State) (c : Nat) (f : Frame) (busy : Bool) (hhit : ∀ (q : State) x0 x1, (hit q x0 x1).clk = q.clk) :
    (State.deliverFrame hit s c f busy).clk = s.clk := by
  unfold State.deliverFrame
  dsimp only
  repeat' split
  all_goals first | rfl | simp [*]

/-- `State.closeFrame` keeps `clk`. -/
@[simp] theorem State.closeFrame_clk (hit : State → Nat → Nat → State) (s : State) (c : Nat) (noEnd busy : Bool) (hhit : ∀ (q : State) x0 x1, (hit q x0 x1).clk = q.clk) :
    (State.closeFrame hit s c noEnd busy).clk = s.clk := by
  unfold State.closeFrame
  dsimp only
  split <;> simp [*]

/-- `State.dropFrame` keeps `clk`. -/
@[simp] theorem State.dropFrame_clk (hit : State → Nat → Nat → State) (s : State) (c : Nat) (busy : Bool) (hhit : ∀ (q : State) x0 x1, (hit q x0 x1).clk = q.clk) :
    (State.dropFrame hit s c busy).clk = s.clk := by
  unfold State.dropFrame
  dsimp only
  split <;> simp [*]

/-- `State.closePort` keeps `clk`. -/
@[simp] theorem State.closePort_clk (hit : State → Nat → Nat → State) (s : State) (p : Nat) (busy : List Nat) (hhit : ∀ (q : State) x0 x1, (hit q x0 x1).clk = q.clk) :
    (State.closePort hit s p busy).clk = s.clk := by
  unfold State.closePort
  simp [*]

/-- `State.record` keeps `clk`. -/
@[simp] theorem State.record_clk (s : State) (n a master access : Nat) :
    (State.record s n a master access).clk = s.clk := by
  unfold State.record
  rfl

/-- `State.logHit` keeps `clk`. -/
@[simp] theorem State.logHit_clk (s : State) (n a master : Nat) :
    (State.logHit s n a master).clk = s.clk := by
  unfold State.logHit
  simp

/-- `State.react` keeps `clk`. -/
@[simp] theorem State.react_clk (s : State) (n a master access : Nat) :
    (State.react s n a master access).clk = s.clk := by
  unfold State.react
  simp

/-- `State.maskHit` keeps `clk`. -/
@[simp] theorem State.maskHit_clk (s : State) :
    (State.maskHit s).clk = s.clk := by
  unfold State.maskHit
  simp

/-- `State.addCond` keeps `clk`. -/
@[simp] theorem State.addCond_clk (s : State) (n a : Nat) :
    (State.addCond s n a).clk = s.clk := by
  unfold State.addCond
  simp

/-- `State.hitBasic` keeps `clk`. -/
@[simp] theorem State.hitBasic_clk (s : State) (n a master access : Nat) :
    (State.hitBasic s n a master access).clk = s.clk := by
  unfold State.hitBasic
  simp

/-- `State.defect` keeps `clk`. -/
@[simp] theorem State.defect_clk (s : State) (d : Defect) :
    (State.defect s d).clk = s.clk := by
  unfold State.defect
  simp

/-- `State.barLate` keeps `clk`. -/
@[simp] theorem State.barLate_clk (s : State) (line bar : Nat) :
    (State.barLate s line bar).clk = s.clk := by
  unfold State.barLate
  rfl

/-- `State.resetGrate` keeps `clk`. -/
@[simp] theorem State.resetGrate_clk (s : State) (b : Nat) :
    (State.resetGrate s b).clk = s.clk := by
  unfold State.resetGrate
  dsimp only
  split <;> simp

/-- `innerHit` keeps `clk`. -/
@[simp] theorem innerHit_clk (s : State) (n a : Nat) :
    (innerHit s n a).clk = s.clk := by
  unfold innerHit
  simp

/-- `State.resetLoupe` keeps `clk`. -/
@[simp] theorem State.resetLoupe_clk (s : State) (ctxs : List Nat) :
    (State.resetLoupe s ctxs).clk = s.clk := by
  unfold State.resetLoupe
  simp

/-- `State.lostLines` keeps `clk`. -/
@[simp] theorem State.lostLines_clk (s : State) (lines : List Nat) :
    (State.lostLines s lines).clk = s.clk := by
  unfold State.lostLines
  split <;> simp

/-- A fold keeps `fire.descs`. -/
@[simp] theorem foldl_fire_descs {α : Type} (f : State → α → State) (h : ∀ s a, (f s a).fire.descs = s.fire.descs) (l : List α) (s : State) :
    (l.foldl f s).fire.descs = s.fire.descs := foldl_keeps f (fun s => s.fire.descs) h l s

/-- A choice keeps `fire.descs`. -/
@[simp] theorem ite_fire_descs (c : Prop) [Decidable c] (a b : State) : (if c then a else b).fire.descs = if c then a.fire.descs else b.fire.descs := by split <;> rfl

/-- `State.emit` keeps `fire.descs`. -/
@[simp] theorem State.emit_fire_descs (s : State) (o : Output) :
    (State.emit s o).fire.descs = s.fire.descs := by
  unfold State.emit
  rfl

/-- `State.emits` keeps `fire.descs`. -/
@[simp] theorem State.emits_fire_descs (s : State) (l : List Output) :
    (State.emits s l).fire.descs = s.fire.descs := by
  unfold State.emits
  rfl

/-- `State.fresh` keeps `fire.descs`. -/
@[simp] theorem State.fresh_fire_descs (s : State) :
    (State.fresh s).fire.descs = s.fire.descs := by
  unfold State.fresh
  rfl

/-- `State.signal` keeps `fire.descs`. -/
@[simp] theorem State.signal_fire_descs (s : State) (v : Nat) :
    (State.signal s v).fire.descs = s.fire.descs := by
  unfold State.signal
  simp

/-- `State.event` keeps `fire.descs`. -/
@[simp] theorem State.event_fire_descs (s : State) (k : Nat) :
    (State.event s k).fire.descs = s.fire.descs := by
  unfold State.event
  simp

/-- `State.setSrc` keeps `fire.descs`. -/
@[simp] theorem State.setSrc_fire_descs (s : State) (n : Nat) (x : Source) :
    (State.setSrc s n x).fire.descs = s.fire.descs := by
  unfold State.setSrc
  rfl

/-- `State.log` keeps `fire.descs`. -/
@[simp] theorem State.log_fire_descs (s : State) (kind master source : Nat) (addr : Option (BitVec 32)) (count : Option Nat) (data : Option (BitVec 32)) :
    (State.log s kind master source addr count data).fire.descs = s.fire.descs := by
  unfold State.log
  rfl

/-- `State.setSes` keeps `fire.descs`. -/
@[simp] theorem State.setSes_fire_descs (s : State) (w : Sess) (x : Session) :
    (State.setSes s w x).fire.descs = s.fire.descs := by
  unfold State.setSes
  split <;> simp

/-- `State.slotSignal` keeps `fire.descs`. -/
@[simp] theorem State.slotSignal_fire_descs (s : State) (w : Sess) :
    (State.slotSignal s w).fire.descs = s.fire.descs := by
  unfold State.slotSignal
  split <;> simp

/-- `State.setScratch` keeps `fire.descs`. -/
@[simp] theorem State.setScratch_fire_descs (s : State) (a : Nat) (b : Bytes) :
    (State.setScratch s a b).fire.descs = s.fire.descs := by
  unfold State.setScratch
  rfl

/-- `State.writeSlot` keeps `fire.descs`. -/
@[simp] theorem State.writeSlot_fire_descs (s : State) (w : Sess) (c : Cmd) (status : Nat) (pay : Bytes) :
    (State.writeSlot s w c status pay).fire.descs = s.fire.descs := by
  unfold State.writeSlot
  rfl

/-- `State.deliver` keeps `fire.descs`. -/
@[simp] theorem State.deliver_fire_descs (s : State) (w : Sess) (c : Cmd) (status : Nat) (pay : Bytes) :
    (State.deliver s w c status pay).fire.descs = s.fire.descs := by
  unfold State.deliver
  split <;> simp

/-- `State.post` keeps `fire.descs`. -/
@[simp] theorem State.post_fire_descs (s : State) (w : Sess) (c : Cmd) (status obj result unit : Nat) :
    (State.post s w c status obj result unit).fire.descs = s.fire.descs := by
  unfold State.post
  dsimp only
  cases (s.ses w).cq with
  | none => rfl
  | some q => cases w <;> simp

/-- `State.unpend` keeps `fire.descs`. -/
@[simp] theorem State.unpend_fire_descs (s : State) (w : Sess) (seq : BitVec 32) :
    (State.unpend s w seq).fire.descs = s.fire.descs := by
  unfold State.unpend
  rfl

/-- `State.complete` keeps `fire.descs`. -/
@[simp] theorem State.complete_fire_descs (s : State) (p : Pend) (status result unit : Nat) :
    (State.complete s p status result unit).fire.descs = s.fire.descs := by
  unfold State.complete
  simp

/-- `State.setJob` keeps `fire.descs`. -/
@[simp] theorem State.setJob_fire_descs (s : State) (i : Nat) (j : Job) :
    (State.setJob s i j).fire.descs = s.fire.descs := by
  unfold State.setJob
  rfl

/-- `State.emptyJob` keeps `fire.descs`. -/
@[simp] theorem State.emptyJob_fire_descs (s : State) (i : Nat) :
    (State.emptyJob s i).fire.descs = s.fire.descs := by
  unfold State.emptyJob
  rfl

/-- `State.sendCeil` keeps `fire.descs`. -/
@[simp] theorem State.sendCeil_fire_descs (s : State) :
    (State.sendCeil s).fire.descs = s.fire.descs := by
  unfold State.sendCeil
  split
  · rfl
  · exact foldl_keeps State.sendCeilOn (fun s => s.fire.descs) (fun _ _ => rfl) _ _

/-- `State.refresh` keeps `fire.descs`. -/
@[simp] theorem State.refresh_fire_descs (s : State) :
    (State.refresh s).fire.descs = s.fire.descs := by
  unfold State.refresh
  simp

/-- `State.setCtx` keeps `fire.descs`. -/
@[simp] theorem State.setCtx_fire_descs (s : State) (c : Nat) (x : Ctx) :
    (State.setCtx s c x).fire.descs = s.fire.descs := by
  unfold State.setCtx
  rfl

/-- `State.nozzleOut` keeps `fire.descs`. -/
@[simp] theorem State.nozzleOut_fire_descs (hit : State → Nat → Nat → State) (s : State) (c : Nat) (m : Stream) (hhit : ∀ (q : State) x0 x1, (hit q x0 x1).fire.descs = q.fire.descs) :
    (State.nozzleOut hit s c m).fire.descs = s.fire.descs := by
  unfold State.nozzleOut
  simp [*]

/-- `State.previewOut` keeps `fire.descs`. -/
@[simp] theorem State.previewOut_fire_descs (s : State) (c : Nat) (m : Stream) (busy : Bool) :
    (State.previewOut s c m busy).fire.descs = s.fire.descs := by
  unfold State.previewOut
  dsimp only
  repeat' split
  all_goals first | rfl | simp [*]

/-- `State.captureOut` keeps `fire.descs`. -/
@[simp] theorem State.captureOut_fire_descs (s : State) (c : Nat) (m : Stream) (q : Capture) :
    (State.captureOut s c m q).fire.descs = s.fire.descs := by
  unfold State.captureOut
  split <;> simp

/-- `State.deliverFrame` keeps `fire.descs`. -/
@[simp] theorem State.deliverFrame_fire_descs (hit : State → Nat → Nat → State) (s : State) (c : Nat) (f : Frame) (busy : Bool) (hhit : ∀ (q : State) x0 x1, (hit q x0 x1).fire.descs = q.fire.descs) :
    (State.deliverFrame hit s c f busy).fire.descs = s.fire.descs := by
  unfold State.deliverFrame
  dsimp only
  repeat' split
  all_goals first | rfl | simp [*]

/-- `State.closeFrame` keeps `fire.descs`. -/
@[simp] theorem State.closeFrame_fire_descs (hit : State → Nat → Nat → State) (s : State) (c : Nat) (noEnd busy : Bool) (hhit : ∀ (q : State) x0 x1, (hit q x0 x1).fire.descs = q.fire.descs) :
    (State.closeFrame hit s c noEnd busy).fire.descs = s.fire.descs := by
  unfold State.closeFrame
  dsimp only
  split <;> simp [*]

/-- `State.dropFrame` keeps `fire.descs`. -/
@[simp] theorem State.dropFrame_fire_descs (hit : State → Nat → Nat → State) (s : State) (c : Nat) (busy : Bool) (hhit : ∀ (q : State) x0 x1, (hit q x0 x1).fire.descs = q.fire.descs) :
    (State.dropFrame hit s c busy).fire.descs = s.fire.descs := by
  unfold State.dropFrame
  dsimp only
  split <;> simp [*]

/-- `State.closePort` keeps `fire.descs`. -/
@[simp] theorem State.closePort_fire_descs (hit : State → Nat → Nat → State) (s : State) (p : Nat) (busy : List Nat) (hhit : ∀ (q : State) x0 x1, (hit q x0 x1).fire.descs = q.fire.descs) :
    (State.closePort hit s p busy).fire.descs = s.fire.descs := by
  unfold State.closePort
  simp [*]

/-- `State.record` keeps `fire.descs`. -/
@[simp] theorem State.record_fire_descs (s : State) (n a master access : Nat) :
    (State.record s n a master access).fire.descs = s.fire.descs := by
  unfold State.record
  rfl

/-- `State.logHit` keeps `fire.descs`. -/
@[simp] theorem State.logHit_fire_descs (s : State) (n a master : Nat) :
    (State.logHit s n a master).fire.descs = s.fire.descs := by
  unfold State.logHit
  simp

/-- `State.react` keeps `fire.descs`. -/
@[simp] theorem State.react_fire_descs (s : State) (n a master access : Nat) :
    (State.react s n a master access).fire.descs = s.fire.descs := by
  unfold State.react
  simp

/-- `State.maskHit` keeps `fire.descs`. -/
@[simp] theorem State.maskHit_fire_descs (s : State) :
    (State.maskHit s).fire.descs = s.fire.descs := by
  unfold State.maskHit
  simp

/-- `State.addCond` keeps `fire.descs`. -/
@[simp] theorem State.addCond_fire_descs (s : State) (n a : Nat) :
    (State.addCond s n a).fire.descs = s.fire.descs := by
  unfold State.addCond
  simp

/-- `State.hitBasic` keeps `fire.descs`. -/
@[simp] theorem State.hitBasic_fire_descs (s : State) (n a master access : Nat) :
    (State.hitBasic s n a master access).fire.descs = s.fire.descs := by
  unfold State.hitBasic
  simp

/-- `State.defect` keeps `fire.descs`. -/
@[simp] theorem State.defect_fire_descs (s : State) (d : Defect) :
    (State.defect s d).fire.descs = s.fire.descs := by
  unfold State.defect
  simp

/-- `State.barLate` keeps `fire.descs`. -/
@[simp] theorem State.barLate_fire_descs (s : State) (line bar : Nat) :
    (State.barLate s line bar).fire.descs = s.fire.descs := by
  unfold State.barLate
  rfl

/-- `State.resetGrate` keeps `fire.descs`. -/
@[simp] theorem State.resetGrate_fire_descs (s : State) (b : Nat) :
    (State.resetGrate s b).fire.descs = s.fire.descs := by
  unfold State.resetGrate
  dsimp only
  split <;> simp

/-- `innerHit` keeps `fire.descs`. -/
@[simp] theorem innerHit_fire_descs (s : State) (n a : Nat) :
    (innerHit s n a).fire.descs = s.fire.descs := by
  unfold innerHit
  simp

/-- `State.resetLoupe` keeps `fire.descs`. -/
@[simp] theorem State.resetLoupe_fire_descs (s : State) (ctxs : List Nat) :
    (State.resetLoupe s ctxs).fire.descs = s.fire.descs := by
  unfold State.resetLoupe
  simp

/-- `State.lostLines` keeps `fire.descs`. -/
@[simp] theorem State.lostLines_fire_descs (s : State) (lines : List Nat) :
    (State.lostLines s lines).fire.descs = s.fire.descs := by
  unfold State.lostLines
  split <;> simp

/-- A fold keeps `splice.runs`. -/
@[simp] theorem foldl_splice_runs {α : Type} (f : State → α → State) (h : ∀ s a, (f s a).splice.runs = s.splice.runs) (l : List α) (s : State) :
    (l.foldl f s).splice.runs = s.splice.runs := foldl_keeps f (fun s => s.splice.runs) h l s

/-- A choice keeps `splice.runs`. -/
@[simp] theorem ite_splice_runs (c : Prop) [Decidable c] (a b : State) : (if c then a else b).splice.runs = if c then a.splice.runs else b.splice.runs := by split <;> rfl

/-- `State.emit` keeps `splice.runs`. -/
@[simp] theorem State.emit_splice_runs (s : State) (o : Output) :
    (State.emit s o).splice.runs = s.splice.runs := by
  unfold State.emit
  rfl

/-- `State.emits` keeps `splice.runs`. -/
@[simp] theorem State.emits_splice_runs (s : State) (l : List Output) :
    (State.emits s l).splice.runs = s.splice.runs := by
  unfold State.emits
  rfl

/-- `State.fresh` keeps `splice.runs`. -/
@[simp] theorem State.fresh_splice_runs (s : State) :
    (State.fresh s).splice.runs = s.splice.runs := by
  unfold State.fresh
  rfl

/-- `State.signal` keeps `splice.runs`. -/
@[simp] theorem State.signal_splice_runs (s : State) (v : Nat) :
    (State.signal s v).splice.runs = s.splice.runs := by
  unfold State.signal
  simp

/-- `State.event` keeps `splice.runs`. -/
@[simp] theorem State.event_splice_runs (s : State) (k : Nat) :
    (State.event s k).splice.runs = s.splice.runs := by
  unfold State.event
  simp

/-- `State.setSrc` keeps `splice.runs`. -/
@[simp] theorem State.setSrc_splice_runs (s : State) (n : Nat) (x : Source) :
    (State.setSrc s n x).splice.runs = s.splice.runs := by
  unfold State.setSrc
  rfl

/-- `State.log` keeps `splice.runs`. -/
@[simp] theorem State.log_splice_runs (s : State) (kind master source : Nat) (addr : Option (BitVec 32)) (count : Option Nat) (data : Option (BitVec 32)) :
    (State.log s kind master source addr count data).splice.runs = s.splice.runs := by
  unfold State.log
  rfl

/-- `State.setSes` keeps `splice.runs`. -/
@[simp] theorem State.setSes_splice_runs (s : State) (w : Sess) (x : Session) :
    (State.setSes s w x).splice.runs = s.splice.runs := by
  unfold State.setSes
  split <;> simp

/-- `State.slotSignal` keeps `splice.runs`. -/
@[simp] theorem State.slotSignal_splice_runs (s : State) (w : Sess) :
    (State.slotSignal s w).splice.runs = s.splice.runs := by
  unfold State.slotSignal
  split <;> simp

/-- `State.setScratch` keeps `splice.runs`. -/
@[simp] theorem State.setScratch_splice_runs (s : State) (a : Nat) (b : Bytes) :
    (State.setScratch s a b).splice.runs = s.splice.runs := by
  unfold State.setScratch
  rfl

/-- `State.writeSlot` keeps `splice.runs`. -/
@[simp] theorem State.writeSlot_splice_runs (s : State) (w : Sess) (c : Cmd) (status : Nat) (pay : Bytes) :
    (State.writeSlot s w c status pay).splice.runs = s.splice.runs := by
  unfold State.writeSlot
  rfl

/-- `State.deliver` keeps `splice.runs`. -/
@[simp] theorem State.deliver_splice_runs (s : State) (w : Sess) (c : Cmd) (status : Nat) (pay : Bytes) :
    (State.deliver s w c status pay).splice.runs = s.splice.runs := by
  unfold State.deliver
  split <;> simp

/-- `State.post` keeps `splice.runs`. -/
@[simp] theorem State.post_splice_runs (s : State) (w : Sess) (c : Cmd) (status obj result unit : Nat) :
    (State.post s w c status obj result unit).splice.runs = s.splice.runs := by
  unfold State.post
  dsimp only
  cases (s.ses w).cq with
  | none => rfl
  | some q => cases w <;> simp

/-- `State.unpend` keeps `splice.runs`. -/
@[simp] theorem State.unpend_splice_runs (s : State) (w : Sess) (seq : BitVec 32) :
    (State.unpend s w seq).splice.runs = s.splice.runs := by
  unfold State.unpend
  rfl

/-- `State.complete` keeps `splice.runs`. -/
@[simp] theorem State.complete_splice_runs (s : State) (p : Pend) (status result unit : Nat) :
    (State.complete s p status result unit).splice.runs = s.splice.runs := by
  unfold State.complete
  simp

/-- `State.setJob` keeps `splice.runs`. -/
@[simp] theorem State.setJob_splice_runs (s : State) (i : Nat) (j : Job) :
    (State.setJob s i j).splice.runs = s.splice.runs := by
  unfold State.setJob
  rfl

/-- `State.emptyJob` keeps `splice.runs`. -/
@[simp] theorem State.emptyJob_splice_runs (s : State) (i : Nat) :
    (State.emptyJob s i).splice.runs = s.splice.runs := by
  unfold State.emptyJob
  rfl

/-- `State.sendCeil` keeps `splice.runs`. -/
@[simp] theorem State.sendCeil_splice_runs (s : State) :
    (State.sendCeil s).splice.runs = s.splice.runs := by
  unfold State.sendCeil
  split
  · rfl
  · exact foldl_keeps State.sendCeilOn (fun s => s.splice.runs) (fun _ _ => rfl) _ _

/-- `State.refresh` keeps `splice.runs`. -/
@[simp] theorem State.refresh_splice_runs (s : State) :
    (State.refresh s).splice.runs = s.splice.runs := by
  unfold State.refresh
  simp

/-- `State.setCtx` keeps `splice.runs`. -/
@[simp] theorem State.setCtx_splice_runs (s : State) (c : Nat) (x : Ctx) :
    (State.setCtx s c x).splice.runs = s.splice.runs := by
  unfold State.setCtx
  rfl

/-- `State.nozzleOut` keeps `splice.runs`. -/
@[simp] theorem State.nozzleOut_splice_runs (hit : State → Nat → Nat → State) (s : State) (c : Nat) (m : Stream) (hhit : ∀ (q : State) x0 x1, (hit q x0 x1).splice.runs = q.splice.runs) :
    (State.nozzleOut hit s c m).splice.runs = s.splice.runs := by
  unfold State.nozzleOut
  simp [*]

/-- `State.previewOut` keeps `splice.runs`. -/
@[simp] theorem State.previewOut_splice_runs (s : State) (c : Nat) (m : Stream) (busy : Bool) :
    (State.previewOut s c m busy).splice.runs = s.splice.runs := by
  unfold State.previewOut
  dsimp only
  repeat' split
  all_goals first | rfl | simp [*]

/-- `State.captureOut` keeps `splice.runs`. -/
@[simp] theorem State.captureOut_splice_runs (s : State) (c : Nat) (m : Stream) (q : Capture) :
    (State.captureOut s c m q).splice.runs = s.splice.runs := by
  unfold State.captureOut
  split <;> simp

/-- `State.deliverFrame` keeps `splice.runs`. -/
@[simp] theorem State.deliverFrame_splice_runs (hit : State → Nat → Nat → State) (s : State) (c : Nat) (f : Frame) (busy : Bool) (hhit : ∀ (q : State) x0 x1, (hit q x0 x1).splice.runs = q.splice.runs) :
    (State.deliverFrame hit s c f busy).splice.runs = s.splice.runs := by
  unfold State.deliverFrame
  dsimp only
  repeat' split
  all_goals first | rfl | simp [*]

/-- `State.closeFrame` keeps `splice.runs`. -/
@[simp] theorem State.closeFrame_splice_runs (hit : State → Nat → Nat → State) (s : State) (c : Nat) (noEnd busy : Bool) (hhit : ∀ (q : State) x0 x1, (hit q x0 x1).splice.runs = q.splice.runs) :
    (State.closeFrame hit s c noEnd busy).splice.runs = s.splice.runs := by
  unfold State.closeFrame
  dsimp only
  split <;> simp [*]

/-- `State.dropFrame` keeps `splice.runs`. -/
@[simp] theorem State.dropFrame_splice_runs (hit : State → Nat → Nat → State) (s : State) (c : Nat) (busy : Bool) (hhit : ∀ (q : State) x0 x1, (hit q x0 x1).splice.runs = q.splice.runs) :
    (State.dropFrame hit s c busy).splice.runs = s.splice.runs := by
  unfold State.dropFrame
  dsimp only
  split <;> simp [*]

/-- `State.closePort` keeps `splice.runs`. -/
@[simp] theorem State.closePort_splice_runs (hit : State → Nat → Nat → State) (s : State) (p : Nat) (busy : List Nat) (hhit : ∀ (q : State) x0 x1, (hit q x0 x1).splice.runs = q.splice.runs) :
    (State.closePort hit s p busy).splice.runs = s.splice.runs := by
  unfold State.closePort
  simp [*]

/-- `State.record` keeps `splice.runs`. -/
@[simp] theorem State.record_splice_runs (s : State) (n a master access : Nat) :
    (State.record s n a master access).splice.runs = s.splice.runs := by
  unfold State.record
  rfl

/-- `State.logHit` keeps `splice.runs`. -/
@[simp] theorem State.logHit_splice_runs (s : State) (n a master : Nat) :
    (State.logHit s n a master).splice.runs = s.splice.runs := by
  unfold State.logHit
  simp

/-- `State.react` keeps `splice.runs`. -/
@[simp] theorem State.react_splice_runs (s : State) (n a master access : Nat) :
    (State.react s n a master access).splice.runs = s.splice.runs := by
  unfold State.react
  simp

/-- `State.maskHit` keeps `splice.runs`. -/
@[simp] theorem State.maskHit_splice_runs (s : State) :
    (State.maskHit s).splice.runs = s.splice.runs := by
  unfold State.maskHit
  simp

/-- `State.addCond` keeps `splice.runs`. -/
@[simp] theorem State.addCond_splice_runs (s : State) (n a : Nat) :
    (State.addCond s n a).splice.runs = s.splice.runs := by
  unfold State.addCond
  simp

/-- `State.hitBasic` keeps `splice.runs`. -/
@[simp] theorem State.hitBasic_splice_runs (s : State) (n a master access : Nat) :
    (State.hitBasic s n a master access).splice.runs = s.splice.runs := by
  unfold State.hitBasic
  simp

/-- `State.defect` keeps `splice.runs`. -/
@[simp] theorem State.defect_splice_runs (s : State) (d : Defect) :
    (State.defect s d).splice.runs = s.splice.runs := by
  unfold State.defect
  simp

/-- `State.barLate` keeps `splice.runs`. -/
@[simp] theorem State.barLate_splice_runs (s : State) (line bar : Nat) :
    (State.barLate s line bar).splice.runs = s.splice.runs := by
  unfold State.barLate
  rfl

/-- `State.resetGrate` keeps `splice.runs`. -/
@[simp] theorem State.resetGrate_splice_runs (s : State) (b : Nat) :
    (State.resetGrate s b).splice.runs = s.splice.runs := by
  unfold State.resetGrate
  dsimp only
  split <;> simp

/-- `innerHit` keeps `splice.runs`. -/
@[simp] theorem innerHit_splice_runs (s : State) (n a : Nat) :
    (innerHit s n a).splice.runs = s.splice.runs := by
  unfold innerHit
  simp

/-- `State.resetLoupe` keeps `splice.runs`. -/
@[simp] theorem State.resetLoupe_splice_runs (s : State) (ctxs : List Nat) :
    (State.resetLoupe s ctxs).splice.runs = s.splice.runs := by
  unfold State.resetLoupe
  simp

/-- `State.lostLines` keeps `splice.runs`. -/
@[simp] theorem State.lostLines_splice_runs (s : State) (lines : List Nat) :
    (State.lostLines s lines).splice.runs = s.splice.runs := by
  unfold State.lostLines
  split <;> simp

end Sys2Proof.Machine
end

