-- ==== Sys2Proof/Laws/Registered.lean ====
section
/-!
SUPPORT. What one registration of a source does, resets and the fail-over included.
-/
namespace Sys2Proof.Machine

/-- A counted hit touches no more than hits do. -/
theorem counted_touched {s t : State} {n a m c : Nat} (h : Counted s t n a m c) : Touched s t := h.2.2.2.2.2.2.2.2.2.2.2

/-- Discarding commands leaves the collector, the parameters and the printing path. -/
theorem discarded_fields {s t : State} (h : Discarded s t) : t.faults = s.faults ∧ t.params = s.params ∧ t.otp = s.otp ∧ t.clk = s.clk ∧ t.fire = s.fire ∧ t.splice = s.splice ∧
    t.host.epoch = s.host.epoch ∧ t.host.epochAt = s.host.epochAt ∧ t.grates = s.grates ∧ t.raster = s.raster ∧ t.fb = s.fb := by
  obtain ⟨⟨_, _, _, _, _, _, _, _, _, _, _, h⟩, _⟩ := h
  rw [h]
  exact ⟨rfl, rfl, rfl, rfl, rfl, rfl, rfl, rfl, rfl, rfl, rfl⟩

/-- The epoch change of a reaction (R468). -/
theorem epochOnce_law (s : State) (k n : Nat) : let t := s.epochOnce k n
    t.faults = s.faults ∧ t.params = s.params ∧ t.otp = s.otp ∧ t.clk = s.clk ∧ t.fire = s.fire ∧ t.splice = s.splice ∧
    t.host.epoch = (if s.epochMerged then s.host.epoch else s.host.epoch + 1) ∧ t.grates = s.grates ∧ t.raster = s.raster ∧ t.fb = s.fb := by
  dsimp only
  unfold State.epochOnce
  by_cases h : s.epochMerged = true
  · rw [if_pos h, if_pos h]; exact ⟨rfl, rfl, rfl, rfl, rfl, rfl, rfl, rfl, rfl, rfl⟩
  · rw [if_neg h, if_neg h]
    obtain ⟨a, b, c, d, e, f, g, _, i, j, k⟩ := discarded_fields (epochUp_law s k n)
    exact ⟨a, b, c, d, e, f, g, i, j, k⟩

/-- Two filters are one. -/
theorem filter2 (l : List (Nat × Nat)) (p q : Nat × Nat → Bool) : (l.filter p).filter q = l.filter (fun x => p x && q x) := by
  rw [List.filter_filter]; congr 1; funext x; exact Bool.and_comm _ _

/-- The part of a reset that depends on the block. -/
def blockPart (s : State) (blk : Nat) (ctxs : List Nat) : State :=
  if 8 ≤ blk ∧ blk < 16 then s.resetGrate (blk - 8)
    else if blk = 16 ∨ blk = 17 then s.resetLoupe ctxs
    else if 256 ≤ blk then s.closePort innerHit (blk - 256) []
    else if blk = 40 then { s with chip := { s.chip with comp := [], decomp := [] } } else s

/-- A hit inside a reset. -/
theorem innerHit_keeps (q : State) (a b : Nat) : (innerHit q a b).faults.shadows = q.faults.shadows ∧ (innerHit q a b).faults.heldR = q.faults.heldR ∧ (innerHit q a b).host.epoch = q.host.epoch ∧
    (innerHit q a b).params = q.params ∧ (innerHit q a b).otp = q.otp ∧ (innerHit q a b).clk = q.clk := by
  unfold innerHit; simp

/-- What that part keeps. -/
theorem blockPart_keeps (s : State) (blk : Nat) (ctxs : List Nat) : let t := blockPart s blk ctxs
    t.faults.shadows = s.faults.shadows ∧ t.faults.heldR = s.faults.heldR ∧ t.host.epoch = s.host.epoch ∧ t.params = s.params ∧ t.otp = s.otp ∧ t.clk = s.clk := by
  have i1 := fun q a b => (innerHit_keeps q a b).1
  have i2 := fun q a b => (innerHit_keeps q a b).2.1
  have i3 := fun q a b => (innerHit_keeps q a b).2.2.1
  have i4 := fun q a b => (innerHit_keeps q a b).2.2.2.1
  have i5 := fun q a b => (innerHit_keeps q a b).2.2.2.2.1
  have i6 := fun q a b => (innerHit_keeps q a b).2.2.2.2.2
  dsimp only
  unfold blockPart
  split
  · simp
  split
  · simp
  split
  · simp [i1, i2, i3, i4, i5, i6]
  split
  · exact ⟨rfl, rfl, rfl, rfl, rfl, rfl⟩
  · exact ⟨rfl, rfl, rfl, rfl, rfl, rfl⟩

/-- A hit without resets. -/
theorem hitBasic_touched (s : State) (n a m c : Nat) : Touched s (s.hitBasic n a m c) := by
  unfold State.hitBasic
  split
  · exact .refl s
  dsimp only
  obtain ⟨x, hx, _⟩ := addCond_frame s n a
  have t0 : Touched s (s.addCond n a) := by rw [hx]; unfold Touched; rfl
  split
  · refine t0.trans ?_
    unfold State.maskHit
    split
    · unfold Touched; rfl
    · exact .refl _
  · exact t0.trans (react_touched _ _ _ _ _)

/-- Lines marked late. -/
theorem barLate_fold (b : Nat) (L : List Nat) : ∀ (s : State), (L.foldl (fun s l => s.barLate l b) s) = { s with raster := { s.raster with late := (L.foldl (fun s l => s.barLate l b) s).raster.late } } ∧
    (∀ x ∈ s.raster.late, x ∈ (L.foldl (fun s l => s.barLate l b) s).raster.late) ∧ ∀ l ∈ L, (l, b) ∈ (L.foldl (fun s l => s.barLate l b) s).raster.late := by
  have mem_add : ∀ (l : List (Nat × Nat)) x y, y ∈ addTo l x ↔ y ∈ l ∨ y = x := by
    intro l x y; unfold addTo; split
    · rename_i h; exact ⟨.inl, fun k => k.elim id (fun e => e ▸ h)⟩
    · simp
  induction L with
  | nil => intro s; exact ⟨rfl, fun _ h => h, fun _ h => by cases h⟩
  | cons a L ih =>
    intro s
    rw [List.foldl_cons]
    obtain ⟨h1, h2, h3⟩ := ih (s.barLate a b)
    refine ⟨?_, fun x hx => h2 x ((mem_add _ _ _).2 (.inl hx)), fun l hl => ?_⟩
    · generalize L.foldl (fun s l => s.barLate l b) (s.barLate a b) = t at h1 ⊢
      exact h1
    · rcases List.mem_cons.1 hl with rfl | hl
      · exact h2 _ ((mem_add _ _ _).2 (.inr rfl))
      · exact h3 l hl

/-- A defect record. -/
theorem defect_law (s : State) (d : Defect) : (s.defect d).raster.late = s.raster.late ∧ (s.defect d).grates = s.grates := by
  unfold State.defect
  dsimp only
  split
  · have T := hitBasic_touched
    refine ⟨?_, ?_⟩
    · rw [(T _ _ _ _ _).fields.2.2.2.2.2.2.2.2.2.2.1]
    · rw [(T _ _ _ _ _).fields.2.2.2.2.2.2.2.2.2.2.2.1]
  · exact ⟨rfl, rfl⟩

/-- Several hits. -/
theorem hits_fold {α : Type} (L : List α) (n a m c : Nat) : ∀ s : State, Touched s (L.foldl (fun s _ => s.hitBasic n a m c) s) := by
  induction L with
  | nil => exact .refl
  | cons x L ih => intro s; exact (hitBasic_touched s n a m c).trans (ih _)

/-- A GRATE's reset (R131). -/
theorem resetGrate_law (s : State) (b : Nat) : ((s.resetGrate b).grate b).stopped = false ∧
    (s.enabledSlots b ≠ [] → ∀ d ∈ s.fire.descs, (d.line, b) ∈ (s.resetGrate b).raster.late) := by
  unfold State.resetGrate
  dsimp only
  generalize hL : (if (s.enabledSlots b).isEmpty = true then [] else s.fire.descs.map Desc.line) = L
  obtain ⟨e1, e2, e3⟩ := barLate_fold b L s
  generalize hu : L.foldl (fun s l => s.barLate l b) s = u at e1 e2 e3
  have ug : u.grates = s.grates := by rw [e1]
  have uf : u.fire.descs = s.fire.descs := by rw [e1]
  have mid : ∀ w : State, w.raster.late = u.raster.late → w.grates = put u.grates b { sel u.grates b {} with stopped := false, chains := [] } →
      ∀ k, ((L.foldl (fun s _ => s.hitBasic F.fetchLate k (idGrate + b) 1) w).grate b).stopped = false ∧
      (s.enabledSlots b ≠ [] → ∀ d ∈ s.fire.descs, (d.line, b) ∈ (L.foldl (fun s _ => s.hitBasic F.fetchLate k (idGrate + b) 1) w).raster.late) := by
    intro w h1 h2 k
    have T := hits_fold L F.fetchLate k (idGrate + b) 1 w
    refine ⟨?_, fun hne d hd => ?_⟩
    · unfold State.grate
      rw [T.fields.2.2.2.2.2.2.2.2.2.2.2.1, h2, sel_put_same]
    · rw [T.fields.2.2.2.2.2.2.2.2.2.2.1, h1]
      apply e3
      rw [← hL, if_neg (by simpa using hne)]
      exact List.mem_map_of_mem hd
  split
  · refine mid _ ?_ ?_ _ <;> rfl
  · refine mid _ ?_ ?_ _ <;> rfl
  · refine mid _ ?_ ?_ _
    · exact (defect_law _ _).1
    · exact (defect_law _ _).2

/-- The part of a GRATE. -/
theorem blockPart_grate (s : State) (b : Nat) (hb : b < 8) (ctxs : List Nat) : blockPart s (8 + b) ctxs = s.resetGrate b := by
  unfold blockPart
  rw [if_pos (by omega), show 8 + b - 8 = b from by omega]

/-- A reset in its parts. -/
theorem resetBlock_eq (s : State) (n blk : Nat) : s.resetBlock n blk =
    (let recent := s.faults.resets.filter (fun p => decide (s.now < p.2 + 10 * perSecond))
     let held := blk ≠ 0 ∧ s.par P.manageFaultResetLimit < (recent.filter (fun p => p.1 == blk)).length + 1
     let w : State := { s with
      faults := { s.faults with
        shadows := s.faults.shadows ++ [({ block := blk, ends := none, ctxs := s.blockCtxs blk } : Shadow)]
        resets := recent ++ [(blk, s.now)]
        heldR := if held then addTo s.faults.heldR blk else s.faults.heldR } }
     let u := blockPart (w.epochOnce (if blk = 0 then 3 else 1) n) blk (s.blockCtxs blk)
     if held then u.hitBasic F.faultResetLimit (blockId blk) idNone 0 else u) := rfl

/-- The reset of a block begins (R463 to R465). -/
theorem block_reset (s : State) (n blk : Nat) : BlockReset s (s.resetBlock n blk) blk := by
  rw [resetBlock_eq]
  dsimp only
  rw [filter2]
  generalize hw : State.mk _ _ _ _ _ _ _ _ _ _ _ _ _ _ _ _ _ _ _ _ _ _ _ _ _ _ _ _ _ _ _ = w
  have w1 : w.faults.shadows = s.faults.shadows ++ [({ block := blk, ends := none, ctxs := s.blockCtxs blk } : Shadow)] := by subst hw; rfl
  have w2 : w.faults.heldR = if blk ≠ 0 ∧ s.par P.manageFaultResetLimit < (s.faults.resets.filter (fun p => decide (s.now < p.2 + 10 * perSecond) && p.1 == blk)).length + 1 then addTo s.faults.heldR blk else s.faults.heldR := by
    subst hw; rfl
  have w3 : w.params = s.params ∧ w.otp = s.otp ∧ w.clk = s.clk ∧ w.host = s.host ∧ w.fire = s.fire ∧ w.splice = s.splice := by subst hw; exact ⟨rfl, rfl, rfl, rfl, rfl, rfl⟩
  clear hw
  obtain ⟨w3, w4, w5, w6, w7, w8⟩ := w3
  obtain ⟨e1, e2, e3, e4, e5, e6, e7, e8, e9, e10⟩ := epochOnce_law w (if blk = 0 then 3 else 1) n
  generalize w.epochOnce (if blk = 0 then 3 else 1) n = v at e1 e2 e3 e4 e5 e6 e7 e8 e9 e10
  obtain ⟨b1, b2, b3, b4, b5, b6⟩ := blockPart_keeps v blk (s.blockCtxs blk)
  have hg : ∀ b, b < 8 → blk = 8 + b → (((blockPart v blk (s.blockCtxs blk)).grate b).stopped = false ∧
      (s.enabledSlots b ≠ [] → ∀ d ∈ s.fire.descs, (d.line, b) ∈ (blockPart v blk (s.blockCtxs blk)).raster.late)) := by
    intro b hb he
    rw [he, blockPart_grate v b hb]
    obtain ⟨g1, g2⟩ := resetGrate_law v b
    refine ⟨g1, fun hne d hd => g2 ?_ d (by rw [e5, w7]; exact hd)⟩
    have : v.enabledSlots b = s.enabledSlots b := by unfold State.enabledSlots; rw [e6, w8]
    rw [this]; exact hne
  have hcod : blk = 40 → (blockPart v blk (s.blockCtxs blk)).chip.comp = [] ∧ (blockPart v blk (s.blockCtxs blk)).chip.decomp = [] := by
    intro h; subst h; exact ⟨rfl, rfl⟩
  generalize blockPart v blk (s.blockCtxs blk) = u at b1 b2 b3 b4 b5 b6 hg hcod
  have T : ∀ c : Prop, ∀ [Decidable c], Touched u (if c then u.hitBasic F.faultResetLimit (blockId blk) idNone 0 else u) := fun c _ => touched_if (hitBasic_touched _ _ _ _ _) (.refl _)
  have T := T (blk ≠ 0 ∧ s.par P.manageFaultResetLimit < (s.faults.resets.filter (fun p => decide (s.now < p.2 + 10 * perSecond) && p.1 == blk)).length + 1)
  generalize (if (blk ≠ 0 ∧ s.par P.manageFaultResetLimit < (s.faults.resets.filter (fun p => decide (s.now < p.2 + 10 * perSecond) && p.1 == blk)).length + 1) then u.hitBasic F.faultResetLimit (blockId blk) idNone 0 else u) = t at T
  have f := T.fields
  have hh : t.faults.heldR = u.faults.heldR ∧ t.host.epoch = u.host.epoch := by rw [T]; exact ⟨rfl, rfl⟩
  have hgr : ∀ b, t.grate b = u.grate b := fun b => by unfold State.grate; rw [f.2.2.2.2.2.2.2.2.2.2.2.1]
  refine ⟨?_, ?_, ?_, fun b hb he => ?_, fun h => ?_, ?_, ?_, ?_⟩
  · rw [f.2.2.2.2.2.2.2.2.2.2.2.2.2.2.2.2.2.2.2.2.2.2.2.2.2.2.1, b1, e1, w1]
  · rw [hh.1, b2, e1, w2]
  · rw [hh.2, b3, e7]
    unfold State.epochMerged State.now
    rw [w6, w5]
  · rw [hgr, f.2.2.2.2.2.2.2.2.2.2.1]; exact hg b hb he
  · rw [f.2.2.2.2.2.2.1]; exact hcod h
  · rw [f.1, b4, e2, w3]
  · rw [f.2.2.2.2.2.2.2.2.2.2.2.2.1, b5, e3, w4]
  · rw [f.2.1, b6, e4, w5]

/-- A unit's state after a write. -/
theorem setSt_st (f : FireBox) (u v w : Nat) (hw : w ≤ 1) (hu : u ≤ 1) : (f.setSt u v).st w = if w = u then v else f.st w := by
  unfold FireBox.setSt FireBox.st
  rcases (show u = 0 ∨ u = 1 by omega) with rfl | rfl <;> rcases (show w = 0 ∨ w = 1 by omega) with rfl | rfl <;> simp

/-- Lines lost (R219). -/
theorem lostLines_law (s : State) (L : List Nat) : let t := s.lostLines L
    t.fb.lostLines = (if L = [] then s.fb.lostLines else sat 32 (s.fb.lostLines + L.length)) ∧ t.fb.lostN = min 2 L.length ∧
    t.fb.active = s.fb.active ∧ t.fb.stA = s.fb.stA ∧ t.fb.stB = s.fb.stB ∧ t.fb.failovers = s.fb.failovers ∧ t.fb.foT32 = s.fb.foT32 ∧ t.fb.foFrom = s.fb.foFrom ∧ t.fb.foTo = s.fb.foTo ∧
    t.fb.foSrc = s.fb.foSrc ∧ t.fb.clean = s.fb.clean ∧ (t.fire.descs = s.fire.descs ∧ t.fire.heldL = s.fire.heldL) ∧ t.host.epoch = s.host.epoch ∧ t.faults.shadows = s.faults.shadows ∧ t.params = s.params ∧
    t.otp = s.otp ∧ t.clk = s.clk ∧ (∀ n, n ≠ F.fbLostLines → t.src n = s.src n) := by
  unfold State.lostLines
  cases L with
  | nil => exact ⟨rfl, rfl, rfl, rfl, rfl, rfl, rfl, rfl, rfl, rfl, rfl, ⟨rfl, rfl⟩, rfl, rfl, rfl, rfl, rfl, fun _ _ => rfl⟩
  | cons a L =>
    dsimp only
    generalize hw : State.mk _ _ _ _ _ _ _ _ _ _ _ _ _ _ _ _ _ _ _ _ _ _ _ _ _ _ _ _ _ _ _ = w
    have T := hitBasic_touched w F.fbLostLines a idNone 0
    have hs : ∀ n, n ≠ F.fbLostLines → (w.hitBasic F.fbLostLines a idNone 0).src n = w.src n := by
      intro n hn
      unfold State.hitBasic
      split
      · rfl
      dsimp only
      obtain ⟨x, hx, hk, _⟩ := addCond_frame w F.fbLostLines a
      rw [← hk n hn]
      split
      · unfold State.maskHit; split <;> rfl
      · exact (react_counted _ _ _ _ _).2.2.2.1 n hn
    have hfb : ∃ x y, (w.hitBasic F.fbLostLines a idNone 0).fb = { w.fb with srcRec := x, halted := y } := by rw [T]; exact ⟨_, _, rfl⟩
    obtain ⟨x, y, hfb⟩ := hfb
    have f := T.fields
    have hep : (w.hitBasic F.fbLostLines a idNone 0).host.epoch = w.host.epoch := by rw [T]
    generalize w.hitBasic F.fbLostLines a idNone 0 = t at T hs hfb f hep
    rw [hfb, f.2.2.2.2.2.1, hep, f.2.2.2.2.2.2.2.2.2.2.2.2.2.2.2.2.2.2.2.2.2.2.2.2.2.2.1, f.1, f.2.2.2.2.2.2.2.2.2.2.2.2.1, f.2.1]
    subst hw
    refine ⟨?_, rfl, rfl, rfl, rfl, rfl, rfl, rfl, rfl, rfl, rfl, ⟨rfl, rfl⟩, rfl, rfl, rfl, rfl, rfl, hs⟩
    rw [if_neg (by simp)]

/-- The fail-over (R217 to R219). -/
theorem failover_law (s : State) (n : Nat) (ha : s.fb.active ≤ 1) : FailedOver s (s.failover n) n := by
  unfold FailedOver State.failover
  dsimp only
  generalize hw : State.setSrc _ _ _ = w
  have w0 : w.params = s.params ∧ w.otp = s.otp ∧ w.clk = s.clk ∧ w.host = s.host ∧ w.fire = s.fire ∧ w.splice = s.splice ∧ w.faults.shadows = s.faults.shadows ∧ w.motion = s.motion ∧
      (w.src n).unit = some s.fb.active ∧
      w.fb.active = s.fb.standby ∧ w.fb.st s.fb.active = 5 ∧ w.fb.st s.fb.standby = 0 ∧ w.fb.failovers = sat 32 (s.fb.failovers + 1) ∧ w.fb.foT32 = s.t32 ∧
      w.fb.foFrom = s.fb.active ∧ w.fb.foTo = s.fb.standby ∧ w.fb.foSrc = n ∧ w.fb.clean = 0 ∧ w.fb.lostLines = s.fb.lostLines := by
    subst hw
    refine ⟨rfl, rfl, rfl, rfl, rfl, rfl, rfl, rfl, ?_, rfl, ?_, ?_, ?_, rfl, rfl, rfl, rfl, rfl, ?_⟩
    · rw [src_setSrc_same]
    · have : FireBox.st (((s.fb.setSt s.fb.active 5).setSt s.fb.standby 0)) s.fb.active = 5 := by
        unfold FireBox.standby
        rw [setSt_st _ _ _ _ ha (by omega), if_neg (by omega), setSt_st _ _ _ _ ha ha, if_pos rfl]
      exact this
    · have : FireBox.st (((s.fb.setSt s.fb.active 5).setSt s.fb.standby 0)) s.fb.standby = 0 := by
        unfold FireBox.standby
        rw [setSt_st _ _ _ _ (by omega) (by omega), if_pos rfl]
      exact this
    · unfold FireBox.setSt
      dsimp only [State.setSrc]
      split <;> split <;> rfl
    · unfold FireBox.setSt
      dsimp only [State.setSrc]
      split <;> split <;> rfl
  clear hw
  obtain ⟨w1, w2, w3, w4, w5, w6, w7, w8, w9, w10, w11, w12, w13, w14, w15, w16, w17, w18, w19⟩ := w0
  obtain ⟨e1, e2, e3, e4, e5, e6, e7, e8, e9, e10⟩ := epochOnce_law w 2 n
  generalize w.epochOnce 2 n = v at e1 e2 e3 e4 e5 e6 e7 e8 e9 e10
  generalize hx : State.mk _ _ _ _ _ _ _ _ _ _ _ _ _ _ _ _ _ _ _ _ _ _ _ _ _ _ _ _ _ _ _ = x
  have x1 : x.fb = v.fb ∧ x.host = v.host ∧ x.params = v.params ∧ x.otp = v.otp ∧ x.clk = v.clk ∧ (∀ k, x.src k = v.src k) := by
    subst hx; exact ⟨rfl, rfl, rfl, rfl, rfl, fun _ => rfl⟩
  have x2 : x.fire.descs = s.fire.descs.filter (fun d => !((s.fire.descs.filter s.duePassed).map Desc.line).contains d.line) := by subst hx; rfl
  have xh : x.fire.heldL = [] := by subst hx; rfl
  have x3 : x.faults.shadows = v.faults.shadows ++ [{ block := 4, ends := some (v.now + 2 * v.linePeriod + v.par P.manageFaultSettleUs * perUs) }] := by subst hx; rfl
  clear hx
  obtain ⟨y1, y2, y3, y4, y5, y6⟩ := x1
  obtain ⟨l1, l2, l3, l4, l5, l6, l7, l8, l9, l10, l11, l12, l13, l14, l15, l16, l17, l18⟩ := lostLines_law x ((s.fire.descs.filter s.duePassed).map Desc.line)
  generalize x.lostLines ((s.fire.descs.filter s.duePassed).map Desc.line) = t at l1 l2 l3 l4 l5 l6 l7 l8 l9 l10 l11 l12 l13 l14 l15 l16 l17 l18
  have hfb : x.fb = w.fb := by rw [y1, e10]
  have hst : ∀ u, t.fb.st u = w.fb.st u := fun u => by unfold FireBox.st; rw [l4, l5, hfb]
  have hlp : v.linePeriod = s.linePeriod := by
    unfold State.linePeriod State.pressMax
    simp only [State.par, e5, w5, e2, w1]
  have hnow : v.now = s.now := by unfold State.now; rw [e4, w3]
  have hem : w.epochMerged = s.epochMerged := by unfold State.epochMerged State.now; rw [w3, w4]
  have hpar : v.par P.manageFaultSettleUs = s.par P.manageFaultSettleUs := by unfold State.par; rw [e2, w1]
  refine ⟨?_, ?_, ?_, ?_, ?_, ?_, ?_, ?_, ?_, ?_, ?_, ?_, ?_, ?_, ?_, ?_, ?_, ?_, ?_⟩
  · rw [l3, hfb, w10]
  · rw [hst, w11]
  · rw [hst, w12]
  · rw [l6, hfb, w13]
  · rw [l7, hfb, w14]
  · rw [l8, hfb, w15]
  · rw [l9, hfb, w16]
  · rw [l10, hfb, w17]
  · rw [l11, hfb, w18]
  · rw [l1, hfb, w19]
  · exact l2
  · rw [l12.1, x2]
  · rw [l12.2, xh]
  · rw [l13, y2, e7, hem, w4]
  · intro hn
    rw [l18 n hn, y6]
    have : v.src n = w.src n := by unfold State.src; rw [e1]
    rw [this, w9]
  · rw [l14, x3, e1, w7, hlp, hnow, hpar]
  · rw [l15, y3, e2, w1]
  · rw [l16, y4, e3, w2]
  · rw [l17, y5, e4, w3]

/-- What a reaction keeps. -/
theorem react_keeps (s : State) (n a m c : Nat) : (s.react n a m c).params = s.params ∧ (s.react n a m c).fb.st = s.fb.st ∧ (s.react n a m c).fb.active = s.fb.active ∧
    (s.react n a m c).faults.shadows = s.faults.shadows := by
  have T := react_touched s n a m c
  refine ⟨T.fields.1, ?_, ?_, T.fields.2.2.2.2.2.2.2.2.2.2.2.2.2.2.2.2.2.2.2.2.2.2.2.2.2.2.1⟩
  · have : ∃ x y, (s.react n a m c).fb = { s.fb with srcRec := x, halted := y } := by rw [T]; exact ⟨_, _, rfl⟩
    obtain ⟨x, y, h⟩ := this
    rw [h]; rfl
  · rw [T]

/-- One registration (R454, R461, R463 to R465). -/
theorem registered_law (s : State) (n a m c : Nat) : Registered s (s.register n a m c) n a m c := by
  have hr := react_counted s n a m c
  obtain ⟨k1, k2, k3, k4⟩ := react_keeps s n a m c
  have hpar : ∀ q, (s.react n a m c).par q = s.par q := fun q => by unfold State.par; rw [k1]
  refine ⟨fun h => ?_, fun h1 h2 => ?_, fun h1 h2 h3 h4 => ?_, fun h1 h2 h3 h4 => ?_, fun blk h1 h2 h3 h4 h5 => ?_, fun h1 h2 h3 h4 h5 => ?_, fun h1 h2 h3 h4 => ?_⟩
  · unfold State.register
    rw [h]; rfl
  · unfold State.register
    rw [h1, h2, if_neg (by decide), if_pos rfl]
    unfold State.maskHit
    split
    · rfl
    · rfl
  all_goals
    have hb : (s.react n a m c).blockOf n a = s.blockOf n a := by
      unfold State.blockOf
      simp only [State.parFrame, k1]
    have hi : ∀ blk, (s.react n a m c).inShadow blk = s.inShadow blk := fun blk => by unfold State.inShadow; rw [k4]
    unfold State.register
    rw [h1, h2, if_neg (show ¬ (!true) = true from by decide), if_neg (show ¬ false = true from by decide)]
    dsimp only
    rw [hb]
  · rw [if_neg h3, if_neg h4]; exact hr
  · rw [if_pos h3]
    rcases h4 with h4 | ⟨blk, h4, h5⟩
    · rw [h4]; exact hr
    · rw [h4]; dsimp only; rw [hi, h5]; exact hr
  · rw [if_pos h3, h4]
    dsimp only
    rw [hi, h5]
    exact ⟨_, hr, block_reset _ n blk⟩
  · rw [if_neg (by omega), if_pos h3]
    have he : (s.react n a m c).fb.eligible = true := by
      unfold FireBox.eligible FireBox.standby at *
      rw [k2, k3]; exact h4
    rw [if_pos he]
    exact ⟨_, hr, failover_law _ n (by rw [k3]; exact h5)⟩
  · rw [if_neg (by omega), if_pos h3]
    have he : (s.react n a m c).fb.eligible = false := by
      unfold FireBox.eligible FireBox.standby at *
      rw [k2, k3]; exact h4
    rw [if_neg (by rw [he]; decide)]
    refine ⟨_, hr, hitBasic_touched _ _ _ _ _, fun hsh => ?_⟩
    have T := counted_touched hr
    generalize s.react n a m c = u at T hr
    unfold State.hitBasic
    have hon : u.faults.on = true := by rw [T.fields.2.2.2.2.2.2.2.2.2.2.2.2.2.2.2.2.2.2.2.2.2.2.2.2.2.2.2]; exact h1
    rw [hon, if_neg (by decide)]
    dsimp only
    obtain ⟨z, hz, _⟩ := addCond_frame u F.fbNoStandby 0
    have hsh' : (u.addCond F.fbNoStandby 0).shadowed F.fbNoStandby 0 idNone = false := by
      rw [← hsh]
      have : (u.addCond F.fbNoStandby 0).params = s.params := by rw [hz]; exact T.fields.1
      have h2 : (u.addCond F.fbNoStandby 0).faults.shadows = s.faults.shadows := by rw [hz]; exact T.fields.2.2.2.2.2.2.2.2.2.2.2.2.2.2.2.2.2.2.2.2.2.2.2.2.2.2.1
      simp only [State.shadowed, h2, State.covers, State.twinBar, State.par, this]
      rfl
    rw [if_neg (by rw [hsh']; decide)]
    exact (react_counted _ _ _ _ _).1

end Sys2Proof.Machine
end

