-- ==== Sys2Proof/Laws/Clear.lean ====
section
/-!
SUPPORT. Laws of clearing a source and of the parameter of a reaction: what ends with a sticky bit, a fold of clears, the record's rule.
-/
namespace Sys2Proof.Machine

/-- A hit while the collector runs. -/
theorem hit_on (s : State) (n a m c : Nat) (h : s.faults.on = true) : s.hit n a m c = (s.addCond n a).register n a m c := by
  unfold State.hit; rw [h]; rfl

/-- What a hit does. -/
theorem hit_reg (s : State) (n a m c : Nat) : Registered (if s.faults.on then s.addCond n a else s) (s.hit n a m c) n a m c := by
  by_cases h : s.faults.on = true
  · rw [if_pos h, hit_on _ _ _ _ _ h]
    exact registered_law _ _ _ _ _
  · have h' : s.faults.on = false := by simpa using h
    rw [if_neg h]
    have : s.hit n a m c = s := by unfold State.hit; rw [h']; rfl
    rw [this]
    refine ⟨fun _ => rfl, ?_, ?_, ?_, ?_, ?_, ?_⟩ <;> intros <;> simp_all

/-- What a hit does while the collector runs. -/
theorem hit_reg' (s : State) (n a m c : Nat) (h : s.faults.on = true) : Registered (s.addCond n a) (s.hit n a m c) n a m c := by
  have := hit_reg s n a m c
  rw [if_pos h] at this
  exact this

/-- A source's write leaves the record. -/
theorem fer_src (s : State) (n : Nat) (x : Source) : (s.setSrc n x).faults.fer = s.faults.fer := by rfl

/-- An event leaves the record. -/
theorem fer_event (s : State) (k : Nat) : (s.event k).faults.fer = s.faults.fer := by
  obtain ⟨_, _, _, h⟩ := event_frame s k; rw [h]

/-- The outputs that follow the ceiling leave the record. -/
theorem fer_refresh (s : State) : s.refresh.faults.fer = s.faults.fer := by
  obtain ⟨_, _, _, _, _, _, _, _, h⟩ := refresh_frame s; rw [h]

/-- The log leaves the record. -/
theorem fer_logHit (s : State) (n a m : Nat) : (s.logHit n a m).faults.fer = s.faults.fer := by
  unfold State.logHit
  dsimp only
  split <;> rfl

/-- A reaction other than NONE makes the record as State.record does. -/
theorem react_fer (s : State) (n a m c : Nat) (h : s.reaction n ≠ 0) : (s.react n a m c).faults.fer = (s.record n a m c).faults.fer := by
  unfold State.react
  dsimp only
  rw [if_neg h]
  generalize hu : State.setSrc s n _ = u
  have uf : u.faults.fer = s.faults.fer := by subst hu; rfl
  have un : u.now = s.now := by subst hu; rfl
  have ut : u.t32 = s.t32 := by subst hu; rfl
  generalize hv : (if isFbSource n = true then { u with fb := { u.fb with srcRec := true } } else u : State) = v
  have vf : v.faults.fer = s.faults.fer := by subst hv; split <;> exact uf
  have vn : v.now = s.now := by subst hv; split <;> exact un
  have vt : v.t32 = s.t32 := by subst hv; split <;> exact ut
  have hr : (v.record n a m c).faults.fer = (s.record n a m c).faults.fer := by
    unfold State.record
    dsimp only
    rw [vf, vn, vt]
  rw [← hr, ← fer_logHit (v.record n a m c) n a m]
  generalize (v.record n a m c).logHit n a m = w
  have hw : (if 2 ≤ s.reaction n then w.event evFault else w).faults.fer = w.faults.fer := by
    split
    · exact fer_event _ _
    · rfl
  rw [← hw]
  generalize (if 2 ≤ s.reaction n then w.event evFault else w) = z
  split
  · rfl
  split
  · rfl
  split
  · split <;> rfl
  split
  · rw [fer_refresh]; rfl
  · rfl

/-- The end of a block's reset in the list of shadows. -/
theorem ends_map (L : List Shadow) (blk e : Nat) : L.map (fun (h : Shadow) => if h.block = blk ∧ h.ends.isNone = true then { h with ends := some e } else h) =
    L.map (fun h => if h.block = blk ∧ h.ends = none then { h with ends := some e } else h) := by
  apply List.map_congr_left
  intro h _
  cases h.ends <;> simp

/-- A block's reset ends. -/
theorem reset_done (s : State) (dt blk : Nat) (h1 : s.inReset blk = true) (h2 : blk ∉ s.faults.heldR) (t : State)
    (h4 : t = { s.pass dt with faults := { s.faults with shadows := s.faults.shadows.map (fun h =>
      if h.block = blk ∧ h.ends = none then { h with ends := some ((s.pass dt).now + s.par P.manageFaultSettleUs * perUs) } else h) } }) :
    exec (.blockResetComplete dt blk) s = if 8 ≤ blk ∧ blk < 16 then .next ((t.checkBanks (blk - 8)).resumeLoads (blk - 8)) else .next t := by
  show execBlockResetComplete _ _ _ = _
  unfold execBlockResetComplete
  dsimp only
  rw [if_neg (by
    rintro (h | h)
    · rw [show (s.pass dt).inReset blk = s.inReset blk from rfl, h1] at h; exact absurd h (by decide)
    · exact h2 (List.contains_iff_mem.1 h)), ends_map, h4]
  rfl

/-- A bank's commit leaves the shadows. -/
theorem commitBank_shadows (s : State) (b j : Nat) : (s.commitBank b j).faults.shadows = s.faults.shadows := by
  unfold State.commitBank
  dsimp only
  have h : ∀ (u : State) k, u.faults.shadows = s.faults.shadows → (u.beginLoad b k j).faults.shadows = s.faults.shadows := by
    intro u k hu
    unfold State.beginLoad
    dsimp only
    split <;> exact hu
  split
  · rfl
  · exact h _ _ rfl
  · exact h _ _ rfl
  · split
    · exact h _ _ rfl
    · split <;> exact h _ _ rfl

/-- The loads that begin leave the shadows. -/
theorem resume_shadows (s : State) (b : Nat) : ((s.checkBanks b).resumeLoads b).faults.shadows = s.faults.shadows := by
  unfold State.resumeLoads
  dsimp only
  have h : ∀ (l : List Nat) (u : State), (l.foldl (fun s j => s.commitBank b j) u).faults.shadows = u.faults.shadows :=
    fun l u => foldl_keeps (fun s j => s.commitBank b j) (fun s => s.faults.shadows) (fun s a => commitBank_shadows s b a) l u
  split
  · show ((((s.checkBanks b).grate b).want).foldl (fun s j => s.commitBank b j) (s.checkBanks b)).faults.shadows = _
    rw [h]; rfl
  · rw [h]; rfl

/-- A GRATE after a write. -/
theorem grate_setGrate (s : State) (b k : Nat) (g : Grate) : (s.setGrate b g).grate k = if k = b then g else s.grate k := by
  unfold State.setGrate State.grate; dsimp only; rw [sel_put]

/-- A second write of a GRATE replaces the first. -/
theorem setGrate_setGrate (s : State) (b : Nat) (g k : Grate) : (s.setGrate b g).setGrate b k = s.setGrate b k := by
  unfold State.setGrate; dsimp only; rw [put_put]

/-- A filter that keeps one number. -/
theorem filter_one (N n : Nat) (p : Nat → Bool) (hn : n < N) (hp : ∀ k, k < N → (p k = true ↔ k = n)) : (List.range N).filter p = [n] := by
  induction N with
  | zero => omega
  | succ N ih =>
    rw [List.range_succ, List.filter_append]
    by_cases h : n = N
    · subst h
      have : (List.range n).filter p = [] := by
        rw [List.filter_eq_nil_iff]
        intro a ha hpa
        have := (hp a (by have := List.mem_range.1 ha; omega)).1 hpa
        have := List.mem_range.1 ha
        omega
      rw [this]
      simp [(hp n (by omega)).2 rfl]
    · rw [ih (by omega) (fun k hk => hp k (by omega))]
      have : p N = false := by
        cases hpn : p N
        · rfl
        · exact absurd ((hp N (by omega)).1 hpn) (fun e => h e.symm)
      simp [this]

/-- The bits of a power of two. -/
theorem bit_pow (n k : Nat) : bit (2 ^ n) k = true ↔ k = n := by
  unfold bit
  have : (2 ^ n / 2 ^ k % 2 == 1) = (2 ^ n).testBit k := by simp [Nat.testBit, Nat.shiftRight_eq_div_pow]
  rw [this, Nat.testBit_two_pow]
  simp [eq_comm]

/-- The one number of a power of two. -/
theorem unmask_pow (N n : Nat) (hn : n < N) : unmask N (2 ^ n) = [n] := filter_one N n _ hn (fun k _ => bit_pow n k)

/-- The end of a plain source's effects. -/
theorem endEffects_eq (s : State) (n : Nat) (h : PlainSource s n) : s.endEffects n =
    if (s.src n).press || n == F.encLost then (s.setSrc n (clearedSource (s.src n))).refresh else s.setSrc n (clearedSource (s.src n)) := by
  obtain ⟨h1, h2, h3⟩ := h
  simp only [List.mem_cons, List.not_mem_nil, or_false, not_or] at h1
  obtain ⟨a1, a2, a3, a4, a5⟩ := h1
  unfold State.endEffects
  extract_lets x s1 s2 s3 st s4 q5 s5 q6 s6 q7 s7
  have e3 : s3 = s2 := by
    show (match x.unit with | some u => _ | none => s2) = s2
    rw [show x.unit = none from h3]
  have e4 : s4 = s2 := by
    rw [← e3]
    exact if_neg (by rw [h2]; exact fun h => absurd h.1 (by decide))
  have e5 : s5 = s2 := by rw [← e4]; exact if_neg a3
  have e6 : s6 = s2 := by rw [← e5]; exact if_neg a2
  have e7 : s7 = s2 := by rw [← e6]; exact if_neg a4
  rw [if_neg a5, e7]
  rfl

/-- What the end of a plain source's effects changes. -/
theorem endEffects_plain (s : State) (n : Nat) (h : PlainSource s n) :
    Touched s (s.endEffects n) ∧ (s.endEffects n).src n = clearedSource (s.src n) ∧ ∀ m, m ≠ n → (s.endEffects n).src m = s.src m := by
  rw [endEffects_eq s n h]
  have h1 := setSrc_touched s n (clearedSource (s.src n))
  have h2 := src_setSrc_same s n (clearedSource (s.src n))
  have h4 : ∀ m, m ≠ n → _ := fun m hm => src_setSrc_other s n m (clearedSource (s.src n)) hm
  generalize s.setSrc n (clearedSource (s.src n)) = w at h1 h2 h4 ⊢
  have hr : w.refresh.faults = w.faults := by obtain ⟨_, _, _, _, _, _, _, _, e⟩ := refresh_frame w; rw [e]
  have hq : ∀ m, w.refresh.src m = w.src m := fun m => by unfold State.src; rw [hr]
  split
  · exact ⟨h1.trans (refresh_touched w), by rw [hq, h2], fun m hm => by rw [hq, h4 m hm]⟩
  · exact ⟨h1, h2, h4⟩

/-- When a clear acts. -/
theorem clears_iff (s : State) (n : Nat) (b : Bool) : Clears s n b ↔ ¬((!(s.src n).sticky) = true ∨ b = true ∨ (isLevel n = true ∧ (!(s.src n).conds.isEmpty) = true)) := by
  unfold Clears
  cases (s.src n).sticky <;> cases b <;> cases isLevel n <;> cases (s.src n).conds <;> simp

/-- A clear that acts. -/
theorem clearSource_yes (s : State) (n : Nat) (b : Bool) (h : Clears s n b) : s.clearSource n b = s.endEffects n := by
  unfold State.clearSource
  rw [if_neg ((clears_iff s n b).1 h)]

/-- A clear that does not. -/
theorem clearSource_no (s : State) (n : Nat) (b : Bool) (h : ¬Clears s n b) : s.clearSource n b = s := by
  unfold State.clearSource
  rw [if_pos (Classical.not_not.1 (fun k => h ((clears_iff s n b).2 k)))]

/-- Several clears. -/
theorem clear_fold (f : Nat → Nat) (hf : ∀ a b, f a = f b → a = b) (sm : Nat → Bool) (L : List Nat) : ∀ s : State, (∀ j ∈ L, PlainSource s (f j)) →
    let t := L.foldl (fun (s : State) j => s.clearSource (f j) (sm j)) s
    Touched s t ∧ (∀ j, j ∈ L ∧ Clears s (f j) (sm j) → t.src (f j) = clearedSource (s.src (f j))) ∧
    (∀ n, (∀ j, n = f j → ¬(j ∈ L ∧ Clears s n (sm j))) → t.src n = s.src n) := by
  induction L with
  | nil => exact fun s _ => ⟨Touched.refl s, fun j h => absurd h.1 (by simp), fun n _ => rfl⟩
  | cons a L ih =>
    intro s h
    have hc : Touched s (s.clearSource (f a) (sm a)) ∧ (Clears s (f a) (sm a) → (s.clearSource (f a) (sm a)).src (f a) = clearedSource (s.src (f a))) ∧
        (¬Clears s (f a) (sm a) → (s.clearSource (f a) (sm a)).src (f a) = s.src (f a)) ∧ ∀ m, m ≠ f a → (s.clearSource (f a) (sm a)).src m = s.src m := by
      by_cases k : Clears s (f a) (sm a)
      · rw [clearSource_yes _ _ _ k]
        obtain ⟨x, y, z⟩ := endEffects_plain s (f a) (h a (List.mem_cons_self ..))
        exact ⟨x, fun _ => y, fun q => absurd k q, z⟩
      · rw [clearSource_no _ _ _ k]
        exact ⟨Touched.refl s, fun q => absurd q k, fun _ => rfl, fun _ _ => rfl⟩
    rw [List.foldl_cons]
    generalize hu : s.clearSource (f a) (sm a) = u at hc
    obtain ⟨c1, c2, c3, c4⟩ := hc
    have hp : ∀ j ∈ L, PlainSource u (f j) := by
      intro j hj
      obtain ⟨p1, p2, p3⟩ := h j (List.mem_cons_of_mem _ hj)
      refine ⟨p1, p2, ?_⟩
      by_cases e : f j = f a
      · rw [e] at p3 ⊢
        by_cases k : Clears s (f a) (sm a)
        · rw [c2 k]; rfl
        · rw [c3 k]; exact p3
      · rw [c4 _ e]; exact p3
    obtain ⟨i1, i2, i3⟩ := ih u hp
    have hcl : ∀ n b, u.src n = clearedSource (s.src n) → ¬Clears u n b := by
      intro n b e k
      have := k.1
      rw [e] at this
      exact absurd this (by simp [clearedSource])
    have hsame : ∀ n b, u.src n = s.src n → (Clears u n b ↔ Clears s n b) := by
      intro n b e; unfold Clears; rw [e]
    refine ⟨c1.trans i1, ?_, ?_⟩
    · rintro j ⟨hj, k⟩
      by_cases e : j = a
      · subst e
        rw [i3 (f j) (fun j' _ q => hcl _ _ (c2 k) q.2), c2 k]
      · have hne : f j ≠ f a := fun q => e (hf _ _ q)
        have hj' : j ∈ L := by
          rcases List.mem_cons.1 hj with q | q
          · exact absurd q e
          · exact q
        rw [i2 j ⟨hj', (hsame _ _ (c4 _ hne)).2 k⟩, c4 _ hne]
    · intro n hn
      by_cases e : n = f a
      · subst e
        have k : ¬Clears s (f a) (sm a) := fun q => hn a rfl ⟨List.mem_cons_self .., q⟩
        have := c3 k
        rw [i3 (f a) (fun j ej q => hn j ej ⟨List.mem_cons_of_mem _ q.1, (hsame _ _ this).1 q.2⟩), this]
      · have := c4 n e
        rw [i3 n (fun j ej q => hn j ej ⟨List.mem_cons_of_mem _ q.1, (hsame _ _ this).1 q.2⟩), this]

/-- A reaction of a source that does not stop the issue leaves that stop. -/
theorem react_halted (s : State) (n a m c : Nat) (h : isFbStop n = false) : (s.react n a m c).fb.halted = s.fb.halted := by
  unfold State.react
  dsimp only
  generalize hu : State.setSrc s n _ = u
  have uf : u.fb = s.fb := by subst hu; rfl
  generalize hv : (if isFbSource n = true then { u with fb := { u.fb with srcRec := true } } else u : State) = v
  have vf : v.fb.halted = s.fb.halted := by subst hv; split <;> rw [← uf]
  split
  · exact vf
  have hr : ((v.record n a m c).logHit n a m).fb = v.fb := by
    rw [show ((v.record n a m c).logHit n a m).fb = (v.record n a m c).fb from by unfold State.logHit; dsimp only; split <;> rfl]
    rfl
  generalize (v.record n a m c).logHit n a m = w at hr
  have hw : (if 2 ≤ s.reaction n then w.event evFault else w).fb = w.fb := by
    split
    · obtain ⟨_, _, _, e⟩ := event_frame w evFault; rw [e]
    · rfl
  generalize (if 2 ≤ s.reaction n then w.event evFault else w) = z at hw
  have hz : z.fb.halted = s.fb.halted := by rw [hw, hr, vf]
  split
  · exact hz
  split
  · exact hz
  split
  · rw [h]; exact hz
  split
  · obtain ⟨_, _, _, _, _, _, _, _, e⟩ := refresh_frame (z.setSrc n { z.src n with press := true })
    rw [e]; exact hz
  · exact hz

/-- The same for a hit. -/
theorem hitBasic_halted (s : State) (n a m c : Nat) (h : isFbStop n = false) : (s.hitBasic n a m c).fb.halted = s.fb.halted := by
  unfold State.hitBasic
  split
  · rfl
  dsimp only
  have e : (s.addCond n a).fb = s.fb := by unfold State.addCond; split <;> rfl
  rw [← e]
  split
  · unfold State.maskHit; split <;> rfl
  · exact react_halted _ _ _ _ _ h

/-- The same for lost lines. -/
theorem lostLines_halted (s : State) (L : List Nat) : (s.lostLines L).fb.halted = s.fb.halted ∧ (s.lostLines L).fb.lockLeft = s.fb.lockLeft := by
  unfold State.lostLines
  cases L with
  | nil => exact ⟨rfl, rfl⟩
  | cons a L =>
    dsimp only
    refine ⟨?_, ?_⟩
    · exact hitBasic_halted _ _ _ _ _ (by decide)
    · generalize hw : State.mk _ _ _ _ _ _ _ _ _ _ _ _ _ _ _ _ _ _ _ _ _ _ _ _ _ _ _ _ _ _ _ = w
      obtain ⟨x, y, e⟩ : ∃ x y, (w.hitBasic F.fbLostLines a idNone 0).fb = { w.fb with srcRec := x, halted := y } := by
        rw [hitBasic_touched w F.fbLostLines a idNone 0]; exact ⟨_, _, rfl⟩
      rw [e]
      subst hw
      rfl

/-- What ends with the bit of a source that something waits for. -/
theorem endEffects_special (s : State) (n : Nat) (hs : isFbStop n = false) (hc : n = F.encWire → Calm s F.encLost) : let u := s.endEffects n
    (n ∉ [F.encLost, F.encWire] → u.src n = clearedSource (s.src n)) ∧
    (∀ i, i ≤ 1 → (s.src n).unit = some i → s.fb.st i = 5 → u.fb.st i = 3 ∧ u.fb.syncLeft = s.par P.fireFbResyncLines) ∧
    (n = F.faultResetLimit → u.faults.heldR = [] ∧ ∀ h ∈ u.faults.shadows, h.block ∈ s.faults.heldR → h.ends ≠ none) ∧
    (n = F.encWire → ∀ e x, (e, x) ∈ s.motion.enc → x.wires = [] → ∃ y, (e, y) ∈ u.motion.enc ∧ y.failed = false ∧ (x.failed = true → y.dir = 0 ∧ y.ref = none)) ∧
    (n = F.vcorePmbus → u.draught.stopped = false ∧ u.draught.waiting = false) ∧ (n = F.tclkUnlock → s.clk.run = true → u.fire.unlock = false) := by
  intro u
  have hu : s.endEffects n = u := rfl
  clear_value u
  unfold State.endEffects at hu
  revert hu
  extract_lets x s1 s2 s3 st s4 q5 s5 q6 s6 q7 s7
  intro hu
  -- up to the unit
  have g1 : s1.src n = clearedSource (s.src n) := src_setSrc_same _ _ _
  have g2 : s2.faults = s1.faults ∧ s2.fb = s.fb ∧ s2.motion.enc = s.motion.enc ∧ s2.params = s.params := by
    show (if _ then s1.refresh else s1 : State).faults = _ ∧ (if _ then s1.refresh else s1 : State).fb = _ ∧ (if _ then s1.refresh else s1 : State).motion.enc = _ ∧
      (if _ then s1.refresh else s1 : State).params = _
    obtain ⟨_, _, _, _, _, _, _, _, e⟩ := refresh_frame s1
    split
    · rw [e]; exact ⟨rfl, rfl, rfl, rfl⟩
    · exact ⟨rfl, rfl, rfl, rfl⟩
  obtain ⟨g2a, g2b, g2c, g2d⟩ := g2
  have g1s : s1.faults.shadows = s.faults.shadows ∧ s1.faults.heldR = s.faults.heldR := ⟨rfl, rfl⟩
  have hx : x = s.src n := rfl
  have g3 : ∃ f, s3 = { s2 with fb := f } ∧ ∀ i, i ≤ 1 → x.unit = some i → s.fb.st i = 5 → f.st i = 3 ∧ f.syncLeft = s.par P.fireFbResyncLines := by
    have e3 : s3 = (match x.unit with
      | some u => if s2.fb.st u = 5 then
          let f := { s2.fb.setSt u 3 with syncLeft := s2.par P.fireFbResyncLines, load := true }
          { s2 with fb := if u = 0 then { f with missA := 0 } else { f with missB := 0 } } else s2
      | none => s2 : State) := rfl
    rw [e3]
    clear_value x s1 s2 s3
    cases hxu : x.unit with
    | none => exact ⟨s2.fb, by rfl, fun i _ h => by cases h⟩
    | some j =>
      dsimp only
      by_cases h5 : s2.fb.st j = 5
      · rw [if_pos h5]
        refine ⟨_, rfl, ?_⟩
        intro i hi e _
        obtain rfl : j = i := by simpa using e
        have hp : s2.par P.fireFbResyncLines = s.par P.fireFbResyncLines := by unfold State.par; rw [g2d]
        rw [hp]
        have := setSt_st s2.fb j 3 j hi hi
        rw [if_pos rfl] at this
        split
        · exact ⟨this, rfl⟩
        · exact ⟨this, rfl⟩
      · rw [if_neg h5]
        refine ⟨s2.fb, by rfl, ?_⟩
        intro i hi e h
        obtain rfl : j = i := by simpa using e
        rw [g2b] at h5
        exact absurd h h5
  obtain ⟨f, g3, g3u⟩ := g3
  have e4 : s4 = s3 := if_neg (by rw [hs]; exact fun h => absurd h.1 (by decide))
  have g4e : s4.clk = s.clk := by
    rw [e4, g3]
    show (if _ then s1.refresh else s1 : State).clk = _
    obtain ⟨_, _, _, _, _, _, _, _, e⟩ := refresh_frame s1
    split
    · rw [e]; rfl
    · rfl
  have g4 : s4.faults = s1.faults ∧ s4.fb = f ∧ s4.motion.enc = s.motion.enc ∧ s4.params = s.params := by
    rw [e4, g3]; exact ⟨g2a, rfl, g2c, g2d⟩
  obtain ⟨g4a, g4b, g4c, g4d⟩ := g4
  have e5 : s5 = if n = F.faultResetLimit then
    { s4 with faults := { s4.faults with
        shadows := s4.faults.shadows.map (fun h => if s4.faults.heldR.contains h.block ∧ h.ends.isNone then
          { h with ends := some (s4.now + s4.par P.manageFaultSettleUs * perUs) } else h), heldR := [] } } else s4 := rfl
  have e6 : s6 = if n = F.encWire then
    { s5 with motion := { s5.motion with enc := s5.motion.enc.map (fun (e : Nat × Enc) =>
        if !e.2.wires.isEmpty then e else
        (e.1, { e.2 with failed := false, dir := if e.2.failed then 0 else e.2.dir, ref := if e.2.failed then none else e.2.ref })) } }.lostCheck
    else s5 := rfl
  have e7 : s7 = if n = F.vcorePmbus then { s6 with draught := { s6.draught with stopped := false, waiting := false } } else s6 := rfl
  clear_value x s1 s2 s3 st s4 q5 s5 q6 s6 q7 s7
  subst hx
  -- the encoder's step
  have g5 : s5.fb = f ∧ s5.motion.enc = s.motion.enc ∧ s5.params = s.params ∧ s5.faults.src = s1.faults.src := by
    rw [e5]; split
    · exact ⟨g4b, g4c, g4d, by rw [← g4a]⟩
    · exact ⟨g4b, g4c, g4d, by rw [g4a]⟩
  obtain ⟨g5a, g5b, g5c, g5d⟩ := g5
  have g6 : s6.fb.st = f.st ∧ s6.fb.syncLeft = f.syncLeft ∧ (n ≠ F.encWire → s6 = s5) := by
    rw [e6]; split
    · rename_i h
      generalize hw : State.mk _ _ _ _ _ _ _ _ _ _ _ _ _ _ _ _ _ _ _ _ _ _ _ _ _ _ _ _ _ _ _ = w
      have hwc : Calm w F.encLost := (hc h).of_params (by subst hw; exact g5c)
      have T := lost_touched w hwc
      have hf : w.fb = f := by subst hw; exact g5a
      refine ⟨?_, ?_, fun k => absurd h k⟩
      · funext i; rw [T]; unfold FireBox.st; dsimp only; rw [hf]
      · rw [T]; dsimp only; rw [hf]
    · exact ⟨by rw [g5a], by rw [g5a], fun _ => rfl⟩
  obtain ⟨g6a, g6b, g6c⟩ := g6
  have g7 : s7.fb = s6.fb ∧ s7.faults = s6.faults ∧ s7.motion = s6.motion := by rw [e7]; split <;> exact ⟨rfl, rfl, rfl⟩
  have gu : u.fb = s7.fb ∧ u.faults = s7.faults ∧ u.motion = s7.motion ∧ u.draught = s7.draught := by rw [← hu]; split <;> exact ⟨rfl, rfl, rfl, rfl⟩
  refine ⟨?_, ?_, ?_, ?_, ?_, ?_⟩
  · intro hn
    simp only [List.mem_cons, List.not_mem_nil, or_false, not_or] at hn
    show State.src u n = _
    unfold State.src
    rw [gu.2.1, g7.2.1, g6c hn.2, g5d]
    exact g1
  · intro i hi h1 h2
    have := g3u i hi h1 h2
    rw [gu.1, g7.1, g6a, g6b]
    exact this
  · intro hn
    rw [gu.2.1, g7.2.1, g6c (by rw [hn]; decide), e5, if_pos hn]
    refine ⟨rfl, ?_⟩
    intro h hh hb
    dsimp only at hh
    obtain ⟨k, _, hk⟩ := List.mem_map.1 hh
    rw [g4a, g1s.2] at hk
    by_cases hd : s.faults.heldR.contains k.block = true ∧ k.ends.isNone = true
    · rw [if_pos hd] at hk
      rw [← hk]; simp
    · rw [if_neg hd] at hk
      subst hk
      intro e
      apply hd
      exact ⟨List.contains_iff_mem.2 hb, by rw [e]; rfl⟩
  · intro hn e x hx hw
    rw [gu.2.2.1, g7.2.2, e6, if_pos hn]
    generalize hq : State.mk _ _ _ _ _ _ _ _ _ _ _ _ _ _ _ _ _ _ _ _ _ _ _ _ _ _ _ _ _ _ _ = w
    have hwc : Calm w F.encLost := (hc hn).of_params (by subst hq; exact g5c)
    have T := lost_touched w hwc
    have he : w.motion.enc = s.motion.enc.map (fun (e : Nat × Enc) =>
        if !e.2.wires.isEmpty then e else
        (e.1, { e.2 with failed := false, dir := if e.2.failed then 0 else e.2.dir, ref := if e.2.failed then none else e.2.ref })) := by
      subst hq; dsimp only; rw [g5b]
    have : (w.lostCheck).motion.enc = w.motion.enc := by rw [T]
    rw [this, he]
    refine ⟨{ x with failed := false, dir := if x.failed then 0 else x.dir, ref := if x.failed then none else x.ref }, List.mem_map.2 ⟨(e, x), hx, ?_⟩, ?_⟩
    · dsimp only
      rw [hw]; rfl
    · exact ⟨rfl, fun h => by simp [h]⟩
  · intro hn
    rw [gu.2.2.2, e7, if_pos hn]
    exact ⟨rfl, rfl⟩
  · intro hn hr
    have : s7.clk = s.clk := by
      rw [e7, if_neg (by rw [hn]; decide), g6c (by rw [hn]; decide), e5, if_neg (by rw [hn]; decide), g4e]
    rw [← hu, if_pos hn, this, hr]
    rfl

/-- The shape of a restart of both units (R226). -/
theorem fbRestart_shape (s : State) : ∃ (w : State) (l : List Nat), s.fbRestart = (if l.isEmpty then w else w.lostLines l) ∧
    w.fb.stA = 0 ∧ w.fb.stB = 2 ∧ w.fb.active = 0 ∧ w.fb.halted = false ∧ w.fb.lockLeft = s.par P.fireFbResyncLines ∧ w.faults = s.faults := by
  unfold State.fbRestart
  dsimp only
  generalize Int.toNat _ = gap
  exact ⟨_, _, rfl, rfl, rfl, rfl, rfl, rfl, rfl⟩

/-- What a restart of both units leaves. -/
theorem fbRestart_fields (s : State) : let u := s.fbRestart
    u.fb.stA = 0 ∧ u.fb.stB = 2 ∧ u.fb.active = 0 ∧ u.fb.halted = false ∧ u.fb.lockLeft = s.par P.fireFbResyncLines ∧
    (∀ n, n ≠ F.fbLostLines → u.src n = s.src n) := by
  dsimp only
  obtain ⟨w, l, e, h1, h2, h3, h4, h5, h6⟩ := fbRestart_shape s
  have h7 : ∀ n, w.src n = s.src n := fun n => by unfold State.src; rw [h6]
  rw [e]
  split
  · exact ⟨h1, h2, h3, h4, h5, fun n _ => h7 n⟩
  · obtain ⟨_, _, la, lA, lB, _, _, _, _, _, _, _, _, _, _, _, _, ls⟩ := lostLines_law w l
    obtain ⟨lh, ll⟩ := lostLines_halted w l
    exact ⟨by rw [lA, h1], by rw [lB, h2], by rw [la, h3], by rw [lh, h4], by rw [ll, h5], fun n hn => by rw [ls n hn, h7]⟩

/-- The entries of a sorted map after a write. -/
theorem mem_put_ne {α : Type} (m : SMap α) (k : Nat) (v : α) (hm : SMapWf m) (e : Nat × α) (h : e ∈ put m k v) : e = (k, v) ∨ (e ∈ m ∧ e.1 ≠ k) := by
  induction m with
  | nil => left; simpa [put] using h
  | cons f t ih =>
    obtain ⟨j, w⟩ := f
    have hc := (smapWf_cons j w t).1 hm
    simp only [put] at h
    split at h
    · rename_i hk
      rcases List.mem_cons.1 h with h | h
      · exact .inl h
      · refine .inr ⟨h, ?_⟩
        rcases List.mem_cons.1 h with h | h
        · rw [h]; dsimp only; omega
        · have := hc.1 e h; omega
    · split at h
      · rename_i hk
        rcases List.mem_cons.1 h with h | h
        · exact .inl h
        · refine .inr ⟨List.mem_cons_of_mem _ h, ?_⟩
          have := hc.1 e h; omega
      · rename_i h1 h2
        rcases List.mem_cons.1 h with h | h
        · refine .inr ⟨h ▸ List.mem_cons_self .., ?_⟩
          rw [h]; exact fun q => h2 q.symm
        · rcases ih hc.2 h with h | h
          · exact .inl h
          · exact .inr ⟨List.mem_cons_of_mem _ h.1, h.2⟩

/-- A source that stopped the issue ends: both units restart. -/
theorem endEffects_stop (s : State) (n : Nat) (hs : isFbStop n = true) (hh : s.fb.halted = true) (hm : SMapWf s.faults.src)
    (ho : ∀ e ∈ s.faults.src, e.1 ≠ n → isFbStop e.1 = true → e.2.hold = false) : let u := s.endEffects n
    u.fb.stA = 0 ∧ u.fb.stB = 2 ∧ u.fb.active = 0 ∧ u.fb.halted = false ∧ u.fb.lockLeft = s.par P.fireFbResyncLines ∧ (u.src n).hold = false := by
  have hn : n = F.fbBothHb ∨ n = F.fbNoStandby ∨ n = F.fbPosition := by
    unfold isFbStop at hs
    simpa [or_assoc] using hs
  have n1 : n ≠ F.faultResetLimit ∧ n ≠ F.encWire ∧ n ≠ F.vcorePmbus ∧ n ≠ F.tclkUnlock ∧ n ≠ F.fbLostLines := by
    rcases hn with h | h | h <;> rw [h] <;> decide
  intro u
  have hu : s.endEffects n = u := rfl
  clear_value u
  unfold State.endEffects at hu
  revert hu
  extract_lets x s1 s2 s3 st s4 q5 s5 q6 s6 q7 s7
  intro hu
  have g1 : s1.src n = clearedSource (s.src n) := src_setSrc_same _ _ _
  have g1m : ∀ e ∈ s1.faults.src, isFbStop e.1 = true → e.2.hold = false := by
    intro e he hf
    rcases mem_put_ne _ _ _ hm _ he with h | h
    · rw [h]
    · exact ho e h.1 h.2 hf
  have g2 : s2.faults = s1.faults ∧ s2.fb.halted = s.fb.halted ∧ s2.params = s.params := by
    show (if _ then s1.refresh else s1 : State).faults = _ ∧ (if _ then s1.refresh else s1 : State).fb.halted = _ ∧ (if _ then s1.refresh else s1 : State).params = _
    obtain ⟨_, _, _, _, _, _, _, _, e⟩ := refresh_frame s1
    split
    · rw [e]; exact ⟨rfl, rfl, rfl⟩
    · exact ⟨rfl, rfl, rfl⟩
  have g3 : s3.faults = s1.faults ∧ s3.fb.halted = s.fb.halted ∧ s3.params = s.params := by
    have e3 : s3 = (match x.unit with
      | some u => if s2.fb.st u = 5 then
          let f := { s2.fb.setSt u 3 with syncLeft := s2.par P.fireFbResyncLines, load := true }
          { s2 with fb := if u = 0 then { f with missA := 0 } else { f with missB := 0 } } else s2
      | none => s2 : State) := rfl
    rw [e3]
    clear_value x s1 s2 s3
    cases x.unit with
    | none => exact g2
    | some j =>
      dsimp only
      split
      · refine ⟨g2.1, ?_, g2.2.2⟩
        rw [← g2.2.1]
        show (if _ then _ else _ : FireBox).halted = _
        unfold FireBox.setSt
        by_cases hj : j = 0
        · rw [if_pos hj, if_pos hj]
        · rw [if_neg hj, if_neg hj]
      · exact g2
  have est : st = s3.faults.src.any (fun (e : Nat × Source) => isFbStop e.1 && e.2.hold) := rfl
  have hst : st = false := by
    rw [est, g3.1]
    rw [List.any_eq_false]
    intro e he
    cases hf : isFbStop e.1
    · simp
    · rw [g1m e he hf]; simp
  have e4 : s4 = s3.fbRestart := if_pos ⟨hs, by rw [g3.2.1, hh], by rw [hst]; rfl⟩
  have e5 : s5 = s4 := if_neg n1.1
  have e6 : s6 = s5 := if_neg n1.2.1
  have e7 : s7 = s6 := if_neg n1.2.2.1
  rw [if_neg n1.2.2.2.1] at hu
  clear_value x s1 s2 s3 st s4 q5 s5 q6 s6 q7 s7
  have h := fbRestart_fields s3
  rw [← e4] at h
  have : u = s4 := by rw [← hu, e7, e6, e5]
  subst this
  refine ⟨h.1, h.2.1, h.2.2.1, h.2.2.2.1, ?_, ?_⟩
  · rw [h.2.2.2.2.1]; unfold State.par; rw [g3.2.2]
  · rw [h.2.2.2.2.2 n n1.2.2.2.2]
    unfold State.src
    rw [g3.1]
    show (s1.src n).hold = _
    rw [g1]; rfl

/-- The row's IDs lie outside a span. -/
def apart (lo hi : Nat) (r : PRow) : Bool := decide (hi < r.base ∨ r.base + 256 * r.insts ≤ lo)

/-- Such a row does not cover an ID of the span. -/
theorem has_apart (lo hi id : Nat) (r : PRow) (h : apart lo hi r = true) (h1 : lo ≤ id) (h2 : id ≤ hi) : r.has id = false := by
  unfold apart at h
  unfold PRow.has
  simp only [decide_eq_true_eq, decide_eq_false_iff_not] at *
  omega

/-- The row of an ID, found by its span. -/
theorem find_apart (l : List PRow) (lo hi id : Nat) (x : PRow) (h1 : lo ≤ id) (h2 : id ≤ hi) (hx : x.has id = true)
    (h : l.find? (fun r => !apart lo hi r) = some x) : l.find? (·.has id) = some x := by
  induction l with
  | nil => cases h
  | cons a l ih =>
    rw [List.find?_cons] at h ⊢
    cases ha : apart lo hi a
    · rw [ha] at h
      have : a = x := by simpa using h
      rw [this, hx]
    · rw [ha] at h
      rw [has_apart lo hi id a ha h1 h2]
      exact ih h

/-- The one row of the reactions. -/
theorem reaction_row : pTable.find? (fun r => !apart 0xA0500001 0xA057FF01 r) = some ⟨0xA0500001, 512, 1, .u8, 0, 8, .now⟩ := by decide +kernel

/-- The row of a source's reaction. -/
theorem reaction_row' (n : Nat) (h : n < 512) : pRow? (0xA0500001 + 256 * n) = some ⟨0xA0500001, 512, 1, .u8, 0, 8, .now⟩ := by
    refine find_apart _ 0xA0500001 0xA057FF01 _ _ (by omega) (by omega) ?_ reaction_row
    unfold PRow.has
    simp only [decide_eq_true_eq]
    omega

/-- No default of chapter 1 has the reactions' first ID. -/
theorem d01 (key : Nat → (Nat → Nat → PKey) → Option Nat) : pDef01 0xA0500001 key = none := by rfl

/-- No default of chapter 2 has the reactions' first ID. -/
theorem d02 (key : Nat → (Nat → Nat → PKey) → Option Nat) : pDef02 0xA0500001 key = none := by rfl

/-- No default of chapter 3 has the reactions' first ID. -/
theorem d03 (key : Nat → (Nat → Nat → PKey) → Option Nat) : pDef03 0xA0500001 key = none := by rfl

/-- No default of chapter 4 has the reactions' first ID. -/
theorem d04 (key : Nat → (Nat → Nat → PKey) → Option Nat) : pDef04 0xA0500001 key = none := by rfl

/-- No default of chapter 5 has the reactions' first ID. -/
theorem d05 (key : Nat → (Nat → Nat → PKey) → Option Nat) : pDef05 0xA0500001 key = none := by rfl

/-- No default of chapter 6 has the reactions' first ID. -/
theorem d06 (key : Nat → (Nat → Nat → PKey) → Option Nat) : pDef06 0xA0500001 key = none := by rfl

/-- No default of chapter 7 has the reactions' first ID. -/
theorem d07 (key : Nat → (Nat → Nat → PKey) → Option Nat) : pDef07 0xA0500001 key = none := by rfl

/-- No default of chapter 8 has the reactions' first ID. -/
theorem d08 (key : Nat → (Nat → Nat → PKey) → Option Nat) : pDef08 0xA0500001 key = none := by rfl

/-- No default of chapter 9 has the reactions' first ID. -/
theorem d09 (key : Nat → (Nat → Nat → PKey) → Option Nat) : pDef09 0xA0500001 key = none := by rfl

/-- No default of chapter 10 has the reactions' first ID. -/
theorem d10 (key : Nat → (Nat → Nat → PKey) → Option Nat) : pDef10 0xA0500001 key = none := by rfl

/-- No default of chapter 11 has the reactions' first ID. -/
theorem d11 (key : Nat → (Nat → Nat → PKey) → Option Nat) : pDef11 0xA0500001 key = none := by rfl

/-- No default of chapter 12 has the reactions' first ID. -/
theorem d12 (key : Nat → (Nat → Nat → PKey) → Option Nat) : pDef12 0xA0500001 key = none := by rfl

/-- No default of chapter 13 has the reactions' first ID. -/
theorem d13 (key : Nat → (Nat → Nat → PKey) → Option Nat) : pDef13 0xA0500001 key = none := by rfl

/-- No default of chapter 14 has the reactions' first ID. -/
theorem d14 (key : Nat → (Nat → Nat → PKey) → Option Nat) : pDef14 0xA0500001 key = none := by rfl

/-- No default of chapter 15 has the reactions' first ID. -/
theorem d15 (key : Nat → (Nat → Nat → PKey) → Option Nat) : pDef15 0xA0500001 key = none := by rfl

/-- The reactions are defaults of chapter 16. -/
theorem d16 (key : Nat → (Nat → Nat → PKey) → Option Nat) : pDef16 0xA0500001 key = key 0xA0500001 (fun i _ => P.manageFaultSourceReaction i) := by rfl

/-- No default of chapter 17 has the reactions' first ID. -/
theorem d17 (key : Nat → (Nat → Nat → PKey) → Option Nat) : pDef17 0xA0500001 key = none := by rfl

/-- No default of chapter 18 has the reactions' first ID. -/
theorem d18 (key : Nat → (Nat → Nat → PKey) → Option Nat) : pDef18 0xA0500001 key = none := by rfl

/-- No default of chapter 20 has the reactions' first ID. -/
theorem d20 (key : Nat → (Nat → Nat → PKey) → Option Nat) : pDef20 0xA0500001 key = none := by rfl

/-- The default a row's key gives. -/
def keyed (b : Nat) (key : Nat → (Nat → Nat → PKey) → Option Nat) : Nat := (pDef01 b key <|> pDef02 b key <|> pDef03 b key <|> pDef04 b key <|> pDef05 b key <|> pDef06 b key <|> pDef07 b key <|> pDef08 b key <|> pDef09 b key <|> pDef10 b key <|> pDef11 b key <|> pDef12 b key <|> pDef13 b key <|> pDef14 b key <|> pDef15 b key <|> pDef16 b key <|> pDef17 b key <|> pDef18 b key <|> pDef20 b key).getD 0

/-- The default of an ID by its row. -/
theorem pDefault_row (id : Nat) (r : PRow) (h : pRow? id = some r) :
    pDefault id = keyed r.base (fun base k => some (k ((id - base) / 256) ((id - base) % 256)).dflt) := by
  unfold pDefault
  rw [h]
  rfl

/-- The default of the reactions' row. -/
theorem keyed_reaction (key : Nat → (Nat → Nat → PKey) → Option Nat) :
    keyed 0xA0500001 key = (key 0xA0500001 (fun i _ => P.manageFaultSourceReaction i)).getD 0 := by
  unfold keyed
  rw [d01, d02, d03, d04, d05, d06, d07, d08, d09, d10, d11, d12, d13, d14, d15, d16, d17, d18, d20]
  cases key 0xA0500001 (fun i _ => P.manageFaultSourceReaction i) <;> rfl

/-- The default of a source's reaction. -/
theorem reaction_default (n : Nat) (h : n < 512) : pDefault (P.manageFaultSourceReaction n).id = (P.manageFaultSourceReaction n).dflt := by
  have hd : (0xA0500001 + 256 * n - 0xA0500001) / 256 = n := by omega
  show pDefault (0xA0500001 + 256 * n) = _
  rw [pDefault_row _ _ (reaction_row' n h)]
  dsimp only
  rw [keyed_reaction]
  dsimp only
  rw [hd, Option.getD_some]

/-- Time leaves the record's registers. -/
theorem readRecord_pass (s : State) (dt o : Nat) (h : o ∈ [0x30100, 0x30104, 0x30108, 0x3010C, 0x30110, 0x30114, 0x30118]) : (s.pass dt).readRecord o = s.readRecord o := by
  simp only [List.mem_cons, List.not_mem_nil, or_false] at h
  rcases h with h | h | h | h | h | h | h <;> subst h <;> rfl

end Sys2Proof.Machine
end

