-- ==== Sys2Proof/Safety.lean ====
section
/-!
DEFINITION. Safe runs: every step answers a next state.
-/
namespace Sys2Proof

/-- `n` steps from a state all answer a next state. -/
def SafeFor (n : Nat) (s : Machine.State) : Prop :=
  match n with
  | 0 => True
  | m + 1 => ∃ t, Machine.step s = .next t ∧ SafeFor m t

end Sys2Proof
end

