-- ==== Sys2Proof/WellFormed.lean ====
section
/-!
DEFINITION. Well-formed commands: the operands that a type cannot bound and that the device's pins, buses or sensors
cannot give otherwise.
-/
namespace Sys2Proof

/-- The operands of a command are ones the device can meet: a datagram's payload and a PCIe write are of real sizes, levels and
voltages lie in their converters' ranges, and control blocks have the 7 bytes of R260. -/
def WellFormed (i : Instr) : Bool :=
  match i with
  | .bar2Write _ addr bytes => addr + bytes.length ≤ 0x10000000 && 0 < bytes.length
  | .bar0RegisterWrite _ addr bytes => addr + bytes.length ≤ 0x400000 && 0 < bytes.length
  | .statusBlock _ _ block | .cap _ _ block | .capAck _ _ block | .retrain _ _ block | .testReport _ _ block => block.length == 7
  | .ltEcho _ _ block _ => block.length == 7
  | .infoData _ _ block data => block.length == 7 && data.length ≤ 256
  | .sensorConvert _ tj mv => tj.length == 24 && mv.length == 16
  | .csiLongPacket _ _ _ pkt _ _ => pkt.dataType < 64 && pkt.bytes.length ≤ 65535
  | .ddrRead _ _ _ granule _ _ _ _ _ l => granule < 2 ^ 31 && l.all (fun r => r.granule < 2 ^ 31)
  | .ddrRefreshDue _ _ _ l => l.all (fun r => r.granule < 2 ^ 31)
  | .ddrScrub _ l => l.all (fun p => p.2.1 < 2 ^ 31)
  | .draughtLineClose _ line mons => line < 2 ^ 32 && mons.all (fun m => m.mon < 64 && m.release ≤ m.deadline)
  | _ => true

end Sys2Proof
end

