-- ==== Sys2Proof/Tests/Slice0.lean ====
section
/-!
SUPPORT. The author's own tests: ill-formed commands, worked examples of the spec, and for every statement with hypotheses
a concrete state and operands that meet them, clause by clause.
-/
set_option Elab.async false

namespace Sys2Proof.Machine

/-! ### Small states -/

/-- A command with a sequence of 7. -/
def tCmd (op : Nat) (pay : Bytes) : Cmd := { op := op, pay := pay, seq := 7 }

/-- A command with one data descriptor of 64 bytes and an argument block. -/
def tDma (op : Nat) (arg : Bytes) : Cmd :=
  { op := op, seq := 7, flags := 0x1000, pay := leB 8 0x1000 ++ leB 4 64 ++ leB 2 1 ++ leB 2 0 ++ arg }

/-- An open session with a queue of 64 entries. -/
def tSes (c : Option Cmd) : Session :=
  { isOpen := true, token := 64, last := 64, lease := 5000, ends := 1000, cmd := c, cq := some { base := 0x1000, depth := 64 } }

/-- A device in READY with the collector running. -/
def tReady : State := { pwr := { kind := 1, porst := true, crs := false }, clk := { run := true }, faults := { on := true } }

/-- The same with local session 0, its slot holding a command. -/
def tHold (c : Cmd) : State := { tReady with host := { loc := [(0, tSes (some c))] } }

/-- The same with a remote session. -/
def tRem (c : Option Cmd) (x : Session) : State := { tReady with host := { rem := [(0, { x with cmd := c })] } }

/-- The same with a PENDING command of local session 0. -/
def tPend (c : Cmd) : State := { tReady with host := { loc := [(0, tSes none)], pends := [{ who := .loc 0, cmd := c }] } }

/-- Decide a `Holds`. -/
theorem tHolds (c : Cmd) (op n : Nat) (h : c.op = op ∧ c.dma = false ∧ c.pay.length = n) : Holds (tHold c) (.loc 0) c op n := ⟨rfl, h⟩

/-- The argument block of a DMA command of `tDma`. -/
def tL (c : Cmd) : List DmaDesc := c.list.1

/-- A state holding a DMA command in slot 0, and what it says of the command. -/
def tHoldsDma (s : State) (c : Cmd) (op n : Nat) : Prop := HoldsDma s (.loc 0) c op n (tL c) c.arg

/-! ### WellFormed refuses an ill-formed term of each check -/

theorem test_wf_bar2Write : WellFormed (.bar2Write 0 0x10000000 [0]) = false ∧ WellFormed (.bar2Write 0 0 []) = false ∧ WellFormed (.bar2Write 0 0 [0]) = true := by decide

theorem test_wf_bar0RegisterWrite : WellFormed (.bar0RegisterWrite 0 0x3FFFFF [0, 0]) = false ∧ WellFormed (.bar0RegisterWrite 0 0 []) = false := by decide

theorem test_wf_blocks : WellFormed (.statusBlock 0 0 []) = false ∧ WellFormed (.cap 0 0 [1]) = false ∧ WellFormed (.capAck 0 0 (List.replicate 8 0)) = false ∧
    WellFormed (.retrain 0 0 []) = false ∧ WellFormed (.testReport 0 0 []) = false ∧ WellFormed (.ltEcho 0 0 [] 0) = false ∧
    WellFormed (.statusBlock 0 0 (List.replicate 7 0)) = true := by decide

theorem test_wf_infoData : WellFormed (.infoData 0 0 (List.replicate 6 0) []) = false ∧ WellFormed (.infoData 0 0 (List.replicate 7 0) (List.replicate 257 0)) = false := by decide +kernel

theorem test_wf_sensorConvert : WellFormed (.sensorConvert 0 [] (List.replicate 16 0)) = false ∧
    WellFormed (.sensorConvert 0 (List.replicate 24 0) []) = false := by decide

theorem test_wf_csiLongPacket : WellFormed (.csiLongPacket 0 0 0 { dataType := 64, hdr := 0, bytes := [], crcOk := true } [] []) = false := by decide

theorem test_wf_ddrScrub : WellFormed (.ddrScrub 0 [(0, 2 ^ 31, .clean)]) = false := by decide

theorem test_wf_ddrRead : WellFormed (.ddrRead 0 (some 0) 0 (2 ^ 31) .clean 0 0 none none []) = false ∧
    WellFormed (.ddrRefreshDue 0 0 0 [{ port := 0, granule := 2 ^ 31 }]) = false := by
  decide +kernel

theorem test_wf_draughtLineClose : WellFormed (.draughtLineClose 0 (2 ^ 32) []) = false ∧ WellFormed (.draughtLineClose 0 0 [{ mon := 64, release := 0, deadline := 1, completion := 1 }]) = false ∧
    WellFormed (.draughtLineClose 0 0 [{ mon := 0, release := 2, deadline := 1, completion := 3 }]) = false := by
  decide

/-! ### Worked examples of the spec -/

/-- R446: the check values of the two polynomials over ASCII "123456789". -/
theorem test_crc_check_values :
    crc32 [0x31, 0x32, 0x33, 0x34, 0x35, 0x36, 0x37, 0x38, 0x39] = 0xCBF43926 ∧
    crc32c [0x31, 0x32, 0x33, 0x34, 0x35, 0x36, 0x37, 0x38, 0x39] = 0xE3069283 := by decide +kernel

/-- R409: the worked address, cg 89,478,541 of a x8 channel of two ranks under order A. -/
theorem test_map_worked_address : dramFields 0 8 2 89478541 = { bg := 1, col := 99, ba := 2, rank := 0, row := 21845 } := by decide


/-! ### FusesOnlyBlow -/

/-- A device in FACTORY, and the step from it. -/
theorem test_wit_FusesOnlyBlow :
    let s : State := { tReady with otp := { lc := 1, rollback := 3 }, pending := [.gstatDropsRead 0 0] }
    LegalCycle s ∧ match step s with | .next _ => True | _ => False := ⟨by unfold LegalCycle; decide, trivial⟩


/-! ### Witnesses: the host window -/

theorem test_wit_HostStatusRegisters : tReady.windowOpen = true ∧ ({} : State).windowOpen = false := by decide

theorem test_wit_SessionSlots :
    tReady.windowOpen = true ∧ (∃ i : Fin 64, (tReady.ses (.loc i)).offered (tReady.pass 1).now = true) ∧
    (let s : State := { tReady with host := { loc := (List.range 64).map (fun i => (i, tSes none)) } }
     s.windowOpen = true ∧ ∀ i : Fin 64, (s.ses (.loc i)).offered (s.pass 1).now = false) ∧
    (let s := tHold (tCmd 0x0107 [])
     s.windowOpen = true ∧ (s.ses (.loc (slotOf 64))).isOpen = true ∧ (s.ses (.loc (slotOf 64))).token = 64) ∧
    (let s := tHold (tCmd 0x0107 [])
     (s.ses (.loc 0)).isOpen = true ∧ (s.ses (.loc 0)).ends ≤ (s.pass 1000).now ∧ Takes s F.leaseExpiry 0 idNone) ∧
    (let s : State := { tReady with host := { loc := [(0, { held := some 5 })] } }
     (s.ses (.loc 0)).held = some 5 ∧ 5 ≤ (s.pass 5).now) := by
  refine ⟨by decide, ⟨0, by decide⟩, by decide, by decide, ⟨by decide, by decide, ?_⟩, by decide⟩
  unfold Takes; decide

/-- A slot image: an accepted NOP. -/
def tImage (op : Nat) : Bytes := leB 2 op ++ leB 2 0 ++ leB 4 8 ++ leB 4 64 ++ leB 4 0 ++ List.replicate 240 0

theorem test_wit_Doorbells :
    (let s : State := { tReady with host := { loc := [(0, tSes none)] }, chip := { scratch := memWriteN [] 0 ((tImage 0x0107).take 16) } }
     s.windowOpen = true ∧ (s.ses (.loc 0)).isOpen = true ∧ (s.ses (.loc 0)).token = 64 ∧ (s.ses (.loc 0)).cmd = none ∧
       BitVec.ofNat 32 (u32 (s.scratch 0 256) 8) = 64 ∧ u16 (s.scratch 0 256) 12 ≤ 240 ∧ opcodes.contains (u16 (s.scratch 0 256) 0) = true) ∧
    (let s := tHold (tCmd 0x0107 [])
     s.windowOpen = true ∧ (s.ses (.loc 0)).isOpen = true ∧ (s.ses (.loc 0)).token = 64 ∧ (s.ses (.loc 0)).cmd = some (tCmd 0x0107 [])) ∧
    (let s : State := { tRem none { tSes none with lastSeq := some 7 } with params := { acc := [(P.hostRemoteEnable.id, 1), (P.hostRemotePortMask.id, 3)] } }
     s.udpOpen 0 = true ∧ (tImage 0x0107).length = 256 ∧ (s.ses (.rem 0)).isOpen = true ∧ (s.ses (.rem 0)).token = 64 ∧
       (s.ses (.rem 0)).cmd = none ∧ (s.ses (.rem 0)).lastSeq = some 7 ∧ BitVec.ofNat 32 (u32 (tImage 0x0107) 4) = 7 + 1 ∧
       (BitVec.ofNat 16 (u16 (tImage 0x0107) 2)).getLsbD 12 = false) ∧
    ((0x10000 : Nat) ≤ 0x10010 ∧ 0x10010 + 4 ≤ 0x14000 ∧ 0x10010 / 256 = (0x10010 + 4 - 1) / 256) ∧
    (let s : State := { tReady with host := { loc := [(0, { tSes none with cq := some { depth := 64, used := 3 }, head := 62 })] } }
     s.windowOpen = true ∧ (s.ses (.loc 0)).cq = some { depth := 64, used := 3 } ∧ (s.ses (.loc 0)).head.toNat = 62 ∧ (62 + 3) % 64 = 1) ∧
    (tReady.ses (.loc 0)).cq = none := by
  decide +kernel

theorem test_wit_SessionCommands :
    (let s := tRem (some (tCmd 0x0101 (leB 4 1000))) {}
     Holds s (.rem 0) (tCmd 0x0101 (leB 4 1000)) 0x0101 4 ∧ (s.ses (.rem 0)).isOpen = false ∧ u32 (leB 4 1000) 0 = 1000) ∧
    Holds (tHold (tCmd 0x0102 [])) (.loc 0) (tCmd 0x0102 []) 0x0102 0 ∧
    (Holds (tHold (tCmd 0x0103 (leB 4 60000))) (.loc 0) (tCmd 0x0103 (leB 4 60000)) 0x0103 4 ∧ u32 (leB 4 60000) 0 = 60000) ∧
    (let p := leB 8 0x40 ++ leB 2 4096 ++ leB 6 0
     Holds (tHold (tCmd 0x0104 p)) (.loc 0) (tCmd 0x0104 p) 0x0104 16 ∧ u64 p 0 % 64 = 0 ∧ u16 p 8 = 4096 ∧ fld p 10 6 = 0) ∧
    (let p := leB 4 1 ++ leB 4 9
     Holds (tRem (some (tCmd 0x0105 p)) (tSes none)) (.rem 0) (tCmd 0x0105 p) 0x0105 8 ∧ u8 p 0 = 1 ∧ fld p 1 3 = 0) ∧
    Holds (tHold (tCmd 0x0107 [])) (.loc 0) (tCmd 0x0107 []) 0x0107 0 := by
  unfold Holds; decide

theorem test_wit_Pcie :
    tReady.pwr.porst = true ∧ ({} : State).pwr.porst = false ∧ tReady.pwr.crs = false ∧ Takes tReady F.pcieLinkDown 0 idNone ∧
      (let s : State := { tReady with pwr := { tReady.pwr with crs := true } }
       s.pwr.crs = true) ∧ CfgItem.power ≠ CfgItem.msix ∧ Takes tReady F.poisonedTlp 0 idLocal := by
  unfold Takes; decide

theorem test_wit_DmaFailures :
    (let c := tDma 0x0603 []
     (tPend c).pend? (.loc 0) 7 = some { who := .loc 0, cmd := c } ∧ ((tPend c).ses (.loc 0)).cq = some { base := 0x1000, depth := 64 }) ∧
    Takes tReady F.dmaError 0x1000 idLocal ∧ Takes tReady F.dmaTimeout 0x1000 idLocal ∧ Takes tReady F.flueTimeout 0xFFFFFFFF 0x3F ∧
    (let s := tHold (tCmd 0x0107 [])
     (s.ses (.loc 0)).cmd = some (tCmd 0x0107 []) ∧ s.pend? (.loc 0) (tCmd 0x0107 []).seq = none) ∧
    (let c := tDma 0x0603 []
     let s := tHold c
     s.pend? (.loc 0) c.seq = none ∧ s.cam.ctx.any (fun e => e.2.previews (.loc 0) 0x1000) = false ∧ (s.ses (.loc 0)).cmd = some c ∧ c.dma = true) ∧
    (0 < tReady.par P.manageFlueTimeoutUs * perUs ∧ tReady.par P.manageFlueTimeoutUs * perUs ≤ 1000000000) := by
  unfold Takes; decide

/-! ### Witnesses: jobs -/

/-- A job in a state. -/
def tJob (n : Nat) : Job := { state := n, planes := 1, flags := 2, repLines := 1, bandLines := 16, width := 1, planeMap := [0] }

/-- A state with one job at index 4095. -/
def tWithJob (s : State) (j : Job) : State := { s with lib := { s.lib with dir := [(4095, j)], libMb := 1, stgMb := 1 } }

/-- The smallest image: one prescreened plane of one line and its one band. -/
def tJobImage : Bytes :=
  leB 4 0x424A4741 ++ leB 2 1 ++ leB 2 2 ++ leB 4 9 ++ leB 1 1 ++ leB 1 0 ++ leB 2 16 ++ leB 4 1 ++ leB 4 0 ++ leB 4 1 ++ leB 1 0 ++
  List.replicate 7 0xFF ++ leB 4 1 ++ leB 8 144 ++ List.replicate 16 0 ++
  (leB 1 1 ++ leB 1 0 ++ leB 2 0 ++ leB 4 80 ++ leB 4 64 ++ leB 4 (crc32c (List.replicate 64 0)).toNat) ++ List.replicate 64 0

/-- The smallest image passes the checks of R87. -/
theorem test_checkImage_smallest : ((checkImage tJobImage).map (fun j => (j.planes, j.secs.length, j.bands, j.bandBytes 0))) = some (1, 1, 1, 64) := by
  decide +kernel

/-- A wrong magic is refused. -/
theorem test_checkImage_magic : checkImage (0 :: tJobImage.drop 1) = none := by decide +kernel

theorem test_wit_JobLoad :
    (let c := tDma 0x0201 (leB 2 4095 ++ List.replicate 14 0)
     tHoldsDma (tHold c) c 0x0201 16 ∧ HasRoom (tHold c) (.loc 0) ∧ (tHold c).pwr.kind ≠ 2 ∧ (tHold c).otp.lc ≠ 4 ∧ u16 c.arg 0 = 4095 ∧
       fld c.arg 2 14 = 0 ∧ ((tHold c).job 4095).state = 0) ∧
    (let c := tCmd 0x0202 (leB 2 4095 ++ leB 2 0 ++ leB 8 4096)
     Holds (tHold c) (.loc 0) c 0x0202 12 ∧ u16 c.pay 0 = 4095 ∧ u16 c.pay 2 = 0 ∧ u64 c.pay 4 % 4096 = 0 ∧ (tHold c).host.bar2 = none ∧
       ((tHold c).job 4095).state = 0) ∧
    (let c := tCmd 0x0202 (leB 2 4095 ++ leB 2 0 ++ leB 8 4096)
     let b : Bar2Win := { who := .loc 0, index := 4095, off := 0, isOpen := true }
     let s : State := tWithJob { tHold c with host := { (tHold c).host with bar2 := some b } } (tJob 1)
     Holds s (.loc 0) c 0x0202 12 ∧ s.host.bar2 = some b ∧ b.index = u16 c.pay 0 ∧ (s.job b.index).state = 1 ∧ b.off < u64 c.pay 4) ∧
    (let s : State := { tReady with host := { bar2 := some { isOpen := true } } }
     s.windowOpen = true ∧ s.host.bar2 = some { isOpen := true }) ∧
    (tReady.windowOpen = true ∧ tReady.host.bar2 = none) ∧
    (let c := tCmd 0x0203 (leB 2 4095 ++ leB 14 0)
     let b : Bar2Win := { who := .loc 0, index := 4095, isOpen := true }
     let s : State := { tHold c with host := { (tHold c).host with bar2 := some b } }
     Holds s (.loc 0) c 0x0203 16 ∧ u16 c.pay 0 = 4095 ∧ u8 c.pay 2 = 0 ∧ u8 c.pay 3 = 0 ∧ u64 c.pay 4 = 0 ∧ u32 c.pay 12 = 0 ∧
       s.host.bar2 = some b) ∧
    (let c := tCmd 0x0203 (leB 2 4095 ++ leB 1 1 ++ leB 1 0 ++ leB 8 64 ++ leB 4 5)
     let b : Bar2Win := { who := .loc 0, index := 4095, isOpen := true }
     let s : State := { tHold c with host := { (tHold c).host with bar2 := some b } }
     Holds s (.loc 0) c 0x0203 16 ∧ HasRoom s (.loc 0) ∧ u8 c.pay 2 = 1 ∧ u8 c.pay 3 = 0 ∧ s.host.bar2 = some b ∧ b.index = u16 c.pay 0) := by
  unfold Holds HasRoom tHoldsDma HoldsDma
  refine ⟨⟨by decide, ⟨_, rfl, by decide⟩, by decide⟩, by decide, by decide, by decide, by decide, by decide, ⟨by decide, ⟨_, rfl, by decide⟩, by decide⟩⟩

/-- A PENDING load of an image of 144 bytes. -/
def tLoad : Cmd := { op := 0x0201, seq := 7, flags := 0x1000, pay := leB 8 0x1000 ++ leB 4 144 ++ leB 2 1 ++ leB 2 0 ++ leB 2 0 ++ List.replicate 14 0 }

theorem test_wit_LoadComplete :
    (let s := tWithJob (tPend tLoad) (tJob 1)
     s.pend? (.loc 0) 7 = some { who := .loc 0, cmd := tLoad } ∧
       ({ who := .loc 0, cmd := tLoad } : Pend).dataIn [] tJobImage = some tJobImage ∧ (checkImage tJobImage).isSome = true ∧
       (s.emptyJob 0).libUsed + ((checkImage tJobImage).map (fun j => j.image.length)).getD 0 ≤ s.libSize) ∧
    ({ who := .loc 0, cmd := tLoad } : Pend).dataIn [] (List.replicate 144 0) = some (List.replicate 144 0) ∧
    checkImage (List.replicate 144 0) = none := by decide +kernel

theorem test_wit_JobStage :
    (let c := tCmd 0x0204 (leB 2 4095 ++ leB 2 0)
     let s := tWithJob (tHold c) (tJob 2)
     Holds s (.loc 0) c 0x0204 4 ∧ HasRoom s (.loc 0) ∧ s.otp.lc ≠ 4 ∧ u16 c.pay 0 = 4095 ∧ u16 c.pay 2 = 0 ∧ (s.job 4095).state = 2) ∧
    (let c := tCmd 0x0205 (leB 2 4095 ++ leB 2 0)
     let s := tWithJob (tHold c) (tJob 7)
     Holds s (.loc 0) c 0x0205 4 ∧ (s.job 4095).state = 7) ∧
    (let c := tCmd 0x0206 (leB 2 4095 ++ leB 2 0)
     let s := tWithJob (tHold c) (tJob 2)
     Holds s (.loc 0) c 0x0206 4 ∧ (s.job 4095).state = 2) ∧
    (let c := tCmd 0x0207 (leB 2 4095 ++ leB 2 0)
     Holds (tHold c) (.loc 0) c 0x0207 4) ∧
    (let c := tDma 0x0208 (leB 2 4095 ++ List.replicate 14 0)
     let s := tWithJob (tHold c) (tJob 2)
     tHoldsDma s c 0x0208 16 ∧ u16 c.arg 0 = 4095 ∧ fld c.arg 2 14 = 0 ∧ 2 ≤ (s.job 4095).state) ∧
    Holds (tHold (tCmd 0x020C [])) (.loc 0) (tCmd 0x020C []) 0x020C 0 := by
  unfold Holds HasRoom tHoldsDma HoldsDma
  refine ⟨⟨by decide, ⟨_, rfl, by decide⟩, by decide⟩, by decide, by decide, by decide, by decide, by decide⟩

theorem test_wit_StageComplete :
    (let c := tCmd 0x0204 (leB 2 4095 ++ leB 2 0)
     let x : Section := { ty := 1, off := 80, len := 64, crc := crc32c (List.replicate 64 0) }
     let j : Job := { tJob 3 with secs := [x], image := tJobImage }
     let p : Pend := { who := .loc 0, cmd := c, obj := 4095 }
     let s : State := tWithJob { tReady with host := { loc := [(0, tSes none)], pends := [p] } } j
     s.pend? (.loc 0) 7 = some p ∧ s.job 4095 = j ∧ j.encrypted = false ∧ s.stageUsed + 64 ≤ s.stageSize ∧
       (expandAll j [x] [] []).toOption = some [(0, List.replicate 64 0)] ∧ j.regionsOk = true ∧ j.bandBytes 0 = 64) ∧
    (let j : Job := { tJob 3 with flags := 3 }
     let s : State := { tWithJob tReady j with vbat := { valid := true, tampered := true } }
     (s.job 4095).encrypted = true ∧ s.encDenied = true) ∧
    (let c := tDma 0x0208 (leB 2 4095 ++ List.replicate 14 0)
     let p : Pend := { who := .loc 0, cmd := c, data := List.replicate 64 0 }
     ∃ l, p.descs [] = some l ∧ p.data.length ≤ total l) := by
  refine ⟨⟨by decide +kernel, by decide +kernel, by decide, by decide +kernel, by decide +kernel, by decide +kernel, by decide⟩, by decide, ⟨_, rfl, by decide⟩⟩

/-! ### Witnesses: rings and splices -/

/-- A state with ring 15 of four records of 64 bytes. -/
def tRing (s : State) : State := { s with lib := { s.lib with rings := [(15, { recBytes := 64, depth := 4 })], stgMb := 1 } }

theorem test_wit_Hopper :
    (let c := tCmd 0x0209 (leB 1 15 ++ leB 3 0 ++ leB 4 64 ++ leB 4 0)
     Holds (tHold c) (.loc 0) c 0x0209 12 ∧ u8 c.pay 0 = 15 ∧ fld c.pay 1 3 = 0 ∧ u32 c.pay 8 = 0 ∧ (tHold c).ringNamed 15 = false) ∧
    (let c := tCmd 0x0209 (leB 1 15 ++ leB 3 0 ++ leB 4 64 ++ leB 4 65536)
     let s : State := { tHold c with lib := { stgMb := 4 } }
     Holds s (.loc 0) c 0x0209 12 ∧ u32 c.pay 4 = 64 ∧ u32 c.pay 8 = 65536 ∧ s.ringNamed 15 = false ∧
       ({ s with lib := { s.lib with rings := cut s.lib.rings 15 } } : State).stageUsed + 64 * 65536 ≤ s.stageSize) ∧
    (let c := tDma 0x020A (leB 1 15 ++ leB 3 0 ++ leB 4 1 ++ leB 8 0)
     let s := tRing (tHold c)
     tHoldsDma s c 0x020A 16 ∧ HasRoom s (.loc 0) ∧ u8 c.arg 0 = 15 ∧ fld c.arg 1 3 = 0 ∧ fld c.arg 8 8 = 0 ∧ u32 c.arg 4 = 1 ∧
       (s.ring 15).recBytes ≠ 0 ∧ total (tL c) = 1 * (s.ring 15).recBytes ∧ (s.ring 15).fill + s.pushing 15 + 1 ≤ (s.ring 15).depth) ∧
    (let c := tDma 0x020A (leB 1 15 ++ leB 3 0 ++ leB 4 1 ++ leB 8 0)
     let s := tRing (tPend c)
     let p : Pend := { who := .loc 0, cmd := c }
     s.pend? (.loc 0) 7 = some p ∧ u8 p.cmd.arg 0 = 15 ∧ u32 p.cmd.arg 4 = 1 ∧ p.dataIn [] [] = some (List.replicate 64 0) ∧
       (s.ring 15).fill + 1 ≤ (s.ring 15).depth ∧ Calm s F.hopperLow) ∧
    (let c := tCmd 0x020B (leB 1 15 ++ leB 3 0)
     Holds (tHold c) (.loc 0) c 0x020B 4 ∧ u8 c.pay 0 = 15 ∧ fld c.pay 1 3 = 0) ∧ Calm tReady F.hopperLow := by
  unfold Holds HasRoom tHoldsDma HoldsDma Calm
  refine ⟨by decide, by decide +kernel, ⟨by decide, ⟨_, rfl, by decide⟩, by decide⟩, by decide, by decide, by decide⟩

/-- A state with a job printing since line 1,000 and the fire position at 2,000. -/
def tPrinting (s : State) : State :=
  { tWithJob s { tJob 6 with repLines := 100, repCount := 20 } with
    splice := { runs := [{ job := 4095, lam := 1000, done := 255 }] }
    motion := { s.motion with wMax := 2000 * (s.lineLen : Int) } }

theorem test_wit_Splices1 :
    (let off : Nat := 2 ^ 32 - 8
     let c := tCmd 0x0301 (leB 2 4095 ++ leB 1 0 ++ leB 1 0 ++ leB 4 20000 ++ leB 4 off ++ leB 4 0)
     let s := tWithJob (tHold c) (tJob 7)
     Holds s (.loc 0) c 0x0301 16 ∧ u16 c.pay 0 = 4095 ∧ u32 c.pay 4 = 20000 ∧ signed 32 (u32 c.pay 8) = -8 ∧ (s.job 4095).state = 7 ∧
       (s.par P.fireSpliceLeadLines : Int) ≤ since (shift32 20000 (-8)) s.pos ∧ s.prevLam = none ∧ s.splicesPending < 3 ∧
       s.pressMax ≤ s.limitOf (demandOf s.geo ((s.job 4095).pre :: s.activeJobs.map (fun p => p.2.pre))) ∧ s.twinClash (s.job 4095) = false ∧
       (s.job 4095).lpi = s.par P.motionFirePitch ∧ Calm s F.hopperLow) := by
  unfold Holds Calm
  decide +kernel

theorem test_wit_Splices2 :
    (let c := tCmd 0x0301 (leB 2 4095 ++ leB 1 1 ++ leB 1 3 ++ leB 4 1 ++ leB 4 20000 ++ leB 4 0)
     let s : State := { tWithJob (tHold c) (tJob 4) with motion := { marks := [(3, { locked := true })] } }
     Holds s (.loc 0) c 0x0301 16 ∧ u8 c.pay 2 = 1 ∧ u8 c.pay 3 = 3 ∧ u32 c.pay 4 = 1 ∧
       (s.par P.fireSpliceLeadLines : Int) ≤ signed 32 (u32 c.pay 8) ∧ (sel s.motion.marks 3 {}).locked = true) := by
  unfold Holds
  decide +kernel

theorem test_wit_Splices3 :
    (let c := tCmd 0x0301 (leB 2 4095 ++ leB 1 2 ++ leB 1 0 ++ leB 4 199 ++ leB 4 0 ++ leB 4 0)
     let s := tPrinting (tHold c)
     Holds s (.loc 0) c 0x0301 16 ∧ s.repeatLine 199 = some 21000 ∧ (s.par P.fireSpliceLeadLines : Int) ≤ since 21000 s.pos ∧
       s.prevLam = some 1000 ∧ (s.minGap : Int) ≤ since 21000 1000) := by
  unfold Holds
  decide +kernel

theorem test_wit_Splices4 :
    (let c := tCmd 0x0302 (leB 2 4095 ++ leB 2 0)
     let s : State := { tWithJob (tHold c) (tJob 5) with splice := { armed := [{ job := 4095 }] } }
     Holds s (.loc 0) c 0x0302 4 ∧ s.splice.armed.find? (fun a => a.job == 4095) = some { job := 4095 } ∧ Calm s F.hopperLow) := by
  unfold Holds Calm
  decide +kernel

theorem test_wit_Splices5 :
    Holds (tHold (tCmd 0x0303 [])) (.loc 0) (tCmd 0x0303 []) 0x0303 0 := by
  unfold Holds
  decide +kernel

theorem test_wit_Splices6 :
    (let c := tCmd 0x0304 (leB 2 4095 ++ leB 2 0)
     let s := tPrinting (tHold c)
     Holds s (.loc 0) c 0x0304 4 ∧ s.atDatum = some { job := 4095, lam := 1000, done := 255 } ∧ (s.job 4095).state = 6 ∧ Calm s F.hopperLow) := by
  unfold Holds Calm
  decide +kernel

/-! ### Witnesses: the DRAUGHT chain -/

/-- Line 100,000 in flight with every slot of bar 7 in service. -/
def tLine (u : Nat) : State :=
  { tReady with
    fire := { views := [(100000, { desc := { line := 100000, unit := u } })] }
    splice := { runs := [{ begun := 255, geo := [((P.rasterBarSlotMask 7).id, 1048575)] }] } }

theorem test_wit_MissedDeadlines :
    (tReady.carries 47 100000 = false ∧ look tReady.fire.views 100000 = none) ∧
    (49 = 48 + ((tLine 1).view 100000).desc.unit ∧ (look (tLine 1).fire.views 100000).isSome = true ∧ (tLine 1).fb.overdue ≠ some 100000 ∧
      (100000, 8) ∉ (tLine 1).draught.recd ∧ Takes (tLine 1) F.lateLine 100000 idNone) ∧
    ((tLine 0).carries 61 100000 = true ∧ (tLine 0).carries 47 100000 = true ∧ (tLine 0).recorded 100000 7 = false ∧ (tLine 0).raster.defects.length < 256 ∧
      Takes (tLine 0) F.barLate 7 idNone) ∧
    ((tLine 0).carries 42 100000 = true ∧ Takes (tLine 0) F.fetchLate 159 idNone) ∧
    (let s : State := { tLine 0 with draught := { recd := [(100000, 8)] } }
     monBar 61 = some 7 ∧ s.carries 61 100000 = true ∧ s.recorded 100000 7 = true) := by
  unfold Takes
  decide +kernel

/-- A DRAUGHT chain at work. -/
def tDraught (d : Draught) (c : Nat) : State := { tLine 0 with draught := d, motion := { tReady.motion with draught := c } }

theorem test_wit_Draught :
    (let s := tDraught {} 120000
     s.par P.manageDraughtLoRatio ≤ 0x010D ∧ 0x010D < s.par P.manageDraughtHiRatio ∧ s.carries 62 100000 = true ∧ s.carries 0 100000 = false ∧
       ({ mon := 62, release := 0, deadline := 269, completion := 256 } : MonRec).ratio = 0x010D ∧ s.draught.inWindow 100000 = true ∧
       ({ winFrom := some 100001 } : Draught).inWindow 100000 = false) ∧
    (let s := tDraught { sinceLow := some 255 } 120000
     s.carries 50 100000 = true ∧ min 0xFFFF 0x010C < s.par P.manageDraughtLoRatio ∧ s.par P.motionCeilingDraughtFloorLps < s.motion.draught ∧
       s.par P.motionCeilingDraughtMinLines ≤ 255 + 1 ∧ Takes s F.draughtCeiling 0 idNone) ∧
    (let s := tDraught { missed := [(100000, 63)] } 0
     (100000, 63) ∈ s.draught.missed ∧ s.motion.draught ≤ s.par P.motionCeilingDraughtFloorLps ∧ s.draught.sinceFloor = none ∧ Takes s F.draughtFloor 0 idNone) ∧
    (let s := tDraught { missed := [(100000, 63)], sinceFloor := some 0 } 0
     (if s.motion.draught ≤ s.par P.motionCeilingDraughtFloorLps then s.draught.sinceFloor else s.draught.sinceLow) = some 0 ∧
       0 + 1 < s.par P.motionCeilingDraughtMinLines) ∧
    (let s := tDraught { good := 10000000 } 5
     s.par P.motionCeilingRecoverLines ≤ s.draught.good) := by
  unfold Takes
  decide +kernel

theorem test_wit_Vcore :
    (let s := tDraught { lines := 1000000, margin := true } 0
     s.draught.waiting = false ∧ s.par P.manageDraughtWindowLines ≤ s.draught.lines ∧ s.draught.setMv < s.par P.manageVcoreMaxMv ∧ Takes s F.draughtMargin 0 idNone) ∧
    (let s := tDraught { lines := 1000000, margin := true, setMv := 5000 } 0
     s.par P.manageVcoreMaxMv ≤ s.draught.setMv ∧ (∀ n ∈ [F.draughtMargin, F.vcoreAtMax, F.draughtCeiling], Calm s n)) ∧
    (let s := tDraught { lines := 1000000, allRelax := false } 0
     (if s.draught.allRelax then s.draught.relaxN + 1 else 0) < s.par P.manageDraughtRelaxWindows) ∧
    (let s := tDraught { lines := 1000000, relaxN := 1000000 } 0
     s.par P.manageDraughtRelaxWindows ≤ s.draught.relaxN + 1 ∧ max (s.par P.manageVcoreMinMv) (s.draught.setMv - s.par P.manageVcoreStepMv) < s.draught.setMv) ∧
    (let s := tDraught { waiting := true } 0
     s.draught.waiting = true ∧ 770 ≤ s.draught.setMv + 10 ∧ s.draught.setMv ≤ 770 + 10 ∧ s.draught.setMv + 10 < 771 ∧ Takes s F.vcorePmbus 0 idNone) := by
  unfold Takes Calm
  decide +kernel

/-! ### Witnesses: lines issued and worked -/

/-- A device with its link locked and nothing outstanding. -/
def tIssue (f : FireBox) : State := { tReady with fb := f }

theorem test_wit_LinesIssued :
    (tReady.issueDue = true ∧ State.reset.issueDue = false) ∧
    (let s : State := tIssue {}
     s.issueDue = true ∧ s.fire.next = 1 ∧
       (∀ n ∈ [F.hopperRecordBad, F.hopperStarved, F.hopperLow, F.spliceBankLate, F.memorySaveFail, F.jobRanOut, F.descCrc], Calm s n) ∧
       (∀ e ∈ s.params.pendLine, e.2.1 ∉ [P.motionFirePitch.id, P.motionFireChannel.id, P.motionFireBackup.id]) ∧ Takes s F.descCrc 1 idNone) ∧
    (let s : State := tIssue { stB := 5 }
     s.issueDue = true ∧ s.fb.st s.fb.standby = 5) ∧
    (let s : State := { tReady with grates := [(7, { bank1 := { tag := 4095 } })], lib := { tReady.lib with dir := [(4095, tJob 3)] },
                                    splice := { runs := [{ job := 4095, geo := [((P.rasterBarSlotMask 7).id, 1)] }] } }
     s.coreRuns 7 = true ∧ ((s.grate 7).bank 1).tag ≠ 0xFFFF ∧ ((s.grate 7).bank 1).loaded = false ∧
       (s.splice.runs.find? (fun r => r.job == 4095)).isSome = true ∧
       (planeFor (s.job 4095) { job := 4095, geo := [((P.rasterBarSlotMask 7).id, 1)] : Run }.g 0) = some 0) ∧
    ({ tReady with grates := [(7, { stopped := true })] } : State).coreRuns 7 = false := by
  unfold Takes Calm
  decide +kernel

theorem test_wit_LinesWorked :
    tReady.nextLine 7 = none ∧
    (let s := tLine 0
     (s.nextLine 7).isSome = true ∧ Calm s F.subUncovered ∧ 19 ∈ gSlots (s.barGeo 7 100000) 7 ∧ gSlots (s.barGeo 0 100000) 0 = []) := by
  unfold Calm
  decide +kernel

/-! ### Witnesses: fire -/

/-- A line due at link time 0 on slot 159, its lane carrying frames, with 5,208 TCLK since the last line. -/
def tDue (d : Desc) (rest : List Desc) (last : Option Nat) : State :=
  { tReady with
    fire := { descs := d :: rest, lastFired := last }
    lanes := [(28, { state := 6, slots := 8, carry := true })] }

/-- A frozen scheduled line. -/
def tFrozen (t : Nat) : Desc := { line := 0xFFFFFFFF, edge := false, frozen := true, target := t }

theorem test_wit_Fire :
    (let s : State := tDue { line := 5, edge := false } [] none
     s.fire.descs.find? (fun d => !d.edge && !d.frozen) = some { line := 5, edge := false } ∧
       (s.pass 0).reached32 (back 0 (s.freezeLead { line := 5, edge := false })) = true) ∧
    (let s : State := tDue { line := 5, edge := false, target := 2 ^ 30 } [] none
     ∀ d, s.fire.descs.find? (fun d => !d.edge && !d.frozen) = some d → (s.pass 0).reached32 (back d.target (s.freezeLead d)) = false) ∧
    (let s : State := tDue (tFrozen 0) [{ line := 0, edge := true }] none
     (s.pass 0).launchPassed (tFrozen 0) = true ∧ s.fb.stalled = false ∧ s.silentBars (tFrozen 0) = [] ∧ (∀ k, k < 8 → s.trigAt k 0xFFFFFFFF = false) ∧
       s.groups (tFrozen 0) ((s.fireSlots (tFrozen 0) []).filter (fun e => !(tFrozen 0).sent.contains e.1)) ≠ [] ∧
       (∀ g ∈ s.groups (tFrozen 0) ((s.fireSlots (tFrozen 0) []).filter (fun e => !(tFrozen 0).sent.contains e.1)), (s.pass 0).groupDue g = true ∧
         ∀ i ∈ g.slots, s.unsentOf [] 0xFFFFFFFF i = false)) := by
  refine ⟨by decide +kernel, ?_, by decide +kernel⟩
  intro s d h
  cases h
  decide +kernel

theorem test_wit_Fire2 :
    (let s : State := { tDue {} [] none with fire := { later := [{ line := 4, lane := 35, slots := [159] }] }, grates := [(7, { codeLine := 4 })] }
     (∀ g ∈ s.fire.later, (s.pass 0).groupDue g = true ∧ g.slots ≠ [] ∧ ∀ i ∈ g.slots, s.unsentOf [] g.line i = false) ∧
       s.fire.unlock = false ∧ s.activeDead = false) ∧
    (let d := tFrozen 5207
     let s : State := tDue d [{ line := 0, edge := true }] (some 1)
     let d' : Desc := { d with target := 5208, t32 := (s.pass 4951).t32At 5208 }
     (s.pass 4951).launchPassed d = true ∧ (s.pass 4951).launchPassed d' = false ∧
       (∀ g ∈ s.groups d' ((s.fireSlots d' (s.silentBars d')).filter (fun e => !d'.sent.contains e.1)), (s.pass 4951).groupDue g = false) ∧ since d.target ((s.fire.lastLink + minFireGap) % 2 ^ 32) < 0) ∧
    (let d := tFrozen 5207
     let s : State := tDue d [{ line := 0, edge := false, target := 5207 }] (some 1)
     (s.pass 4951).launchPassed d = true ∧ since d.target ((s.fire.lastLink + minFireGap) % 2 ^ 32) < 0 ∧ since 5207 ((s.fire.lastLink + minFireGap) % 2 ^ 32) < 0 ∧ Takes s F.fireOverspeed 0 idNone ∧ Takes s F.lineSkip d.line idNone) ∧
    (let s : State := { tDue {} [] none with fire := { heldL := [(28, 7, 0)] } }
     s.fire.heldL.find? (fun e => e.1 == 28) = some (28, 7, 0) ∧
       (List.range 160).filter (fun i => s.laneFor i 7 == some 28 && !s.isLate 7 (i / 20)) ≠ [] ∧
       (∀ i, i < 160 → s.unsentOf [] 0 i = false)) ∧
    (let s : State := { tDue {} [] none with fire := { heldL := [(28, 7, 0)] }, lanes := [(28, { state := 6, slots := 1, carry := true })] }
     (List.range 160).filter (fun i => s.laneFor i 7 == some 28 && !s.isLate 7 (i / 20)) = [140] ∧ Takes s F.frameUnsent 140 idNone) := by
  unfold Takes
  decide +kernel

/-- A legacy slot 7 that serves slot 159. -/
def tLegacy (f : Fire) : State :=
  { tReady with fire := f, splice := { runs := [{ begun := 255, geo := [((P.linkLegacySlotEnable 7).id, 1), ((P.linkLegacySlotBar 7).id, 7), ((P.linkLegacySlotSlot 7).id, 19)] }] } }

theorem test_wit_Legacy :
    (let s := tLegacy { shift := [(5, 0)] }
     s.fire.shift.find? (fun e => e.1 == 5) = some (5, 0) ∧
       max 0 s.fire.latchEnd + (2560 * s.parReset P.linkLegacySckDiv + 10) ≤ (s.pass (2560 * 64 + 10)).clk.tclk ∧
       (s.pass 10).clk.tclk < max 0 s.fire.latchEnd + (2560 * s.parReset P.linkLegacySckDiv + 10)) ∧
    (let s := tLegacy { strobeDue := some (5, 200), latched := some 5, latchEnd := 75 }
     200 ≤ (s.pass 200).clk.tclk ∧ (s.pass 8).clk.tclk < 200 ∧ s.fire.latchEnd + tclk200ns ≤ 200 ∧ s.fire.unlock = false) ∧
    Takes (tLegacy {}) F.legacyLate 5 idNone := by
  unfold Takes
  decide +kernel

/-! ### Witnesses: the FIREBOX pair -/

/-- The device with a pair. -/
def tPair (f : FireBox) : State := { tReady with fb := f }

theorem test_wit_PairHeartbeats :
    (tReady.par P.fireFbHbMiss = 3 ∧ (tPair {}).fb.active ≤ 1 ∧ (tPair {}).fb.linkA = true ∧ (tPair {}).fb.linkB = true ∧ (tPair {}).fb.linkBad = false ∧
      ((tPair {}).src F.fbBothHb).conds = [] ∧ ((tPair {}).src F.fbNoStandby).conds = [] ∧ (tPair {}).fb.hbAt + 256 ≤ ((tPair {}).pass 256).clk.tclk ∧
      ((tPair {}).pass 255).clk.tclk < (tPair {}).fb.hbAt + 256) ∧
    (let s := tPair { linkA := false }
     s.fb.linkA = false ∧ s.fb.st s.fb.standby = 2 ∧ Takes s F.fbLink 0 idNone ∧ (s.src F.fbLink).conds = []) ∧
    (let s := tPair { missB := 2 }
     (if 3 ≤ s.fb.missB + 1 then lostMark else s.fb.missB + 1) = lostMark ∧ s.fb.row ≠ 1 ∧ s.fb.st s.fb.standby ≠ 5 ∧ Takes s F.fbStandbyHb 0 idNone) ∧
    (let s := tPair { missA := 2 }
     s.fb.row ≠ 2 ∧ s.fb.eligible = true ∧ s.faults.on = true) ∧
    (let s := tPair { missA := 2, stB := 4 }
     s.fb.eligible = false ∧ Takes s F.fbNoStandby 0 idNone ∧ (s.src F.fbNoStandby).conds = [] ∧ Takes s F.fbBothHb 0 idNone ∧ (s.src F.fbBothHb).conds = []) := by
  unfold Takes
  decide +kernel

theorem test_wit_PairLink :
    ((tPair { sent := some {} }).fb.sent.isSome = true ∧ (tPair { sent := some {} }).fb.asked = false ∧ (tPair {}).fb.sent.isNone = true) ∧
    (let s := tPair { sent := some {}, asked := true, active := 1, stA := 1 }
     s.fb.asked = true ∧ s.fb.st s.fb.standby = 1 ∧ Takes s F.fbLink 0 idNone ∧ (s.src F.fbLink).conds = []) ∧
    (let s := tPair { stB := 4, lastIssue := 5, retryAt := 5 }
     s.fb.st s.fb.standby = 4 ∧ 0 ≤ since s.fb.lastIssue s.fb.retryAt ∧ Takes s F.fbResyncFail 0 idNone) ∧
    (let s := tPair { stB := 3 }
     s.fb.st s.fb.standby = 3 ∧ s.fb.syncLeft = 0) ∧
    ((tPair {}).fb.linkTA + 4096 ≤ ((tPair {}).pass 4096).clk.tclk ∧ ((tPair {}).pass 4095).clk.tclk < (tPair {}).fb.linkTB + 4096) := by
  unfold Takes
  decide +kernel

theorem test_wit_PairCommands :
    (let s := tPair { active := 1, stA := 1, stB := 0, clean := 1000000 }
     s.par P.fireFbAutoReturn = 1 ∧ s.fb.eligible = true ∧ s.par P.fireFbReturnLines ≤ s.fb.clean ∧ s.fb.halted = false ∧ Takes s F.fbReturn 0 idNone) ∧
    (let c := tCmd 0x1002 []
     let s : State := { tHold c with fb := { clean := 65536 } }
     Holds s (.loc 0) c 0x1002 0 ∧ (s.pass 0).reactionDue = false ∧ s.fb.eligible = true ∧ 65536 ≤ s.fb.clean ∧ s.fb.halted = false ∧ Takes s F.fbReturn 0 idNone) ∧
    (let c := tCmd 0x1003 (leB 4 16777216)
     Holds (tHold c) (.loc 0) c 0x1003 4 ∧ u32 c.pay 0 = 16777216 ∧ (tHold c).fb.eligible = true ∧ (tPair { stB := 5 }).fb.eligible = false) ∧
    (let c := tCmd 0x1001 []
     Holds (tHold c) (.loc 0) c 0x1001 0) := by
  unfold Takes Holds
  decide +kernel

/-! ### Witnesses: lanes -/

/-- A state with one lane. -/
def tLane (s : State) (l : Nat) (x : Lane) : State := { s with lanes := [(l, x)] }

/-- A spare serving primary 31, which is capable again. -/
def tServed (s : State) : State :=
  { s with lanes := [(31, { state := 6, slots := 1, capable := some 0 }), (35, { state := 6 })], spares := [(3, { serving := some 31 })] }

/-- A ready spare of group 3 and a primary. -/
def tSpare (s : State) (x : Lane) : State :=
  { s with lanes := [(31, x), (35, { state := 11 })], params := { acc := [((P.linkLaneEnable 31).id, 1)] }, spares := [(3, { passed := [(7, 0)] })] }

/-- A lane under test. -/
def tTest : Lane := { state := 10, test := some { here := true, ends := 0 } }

theorem test_wit_LaneCommands :
    (let c := tCmd 0x0801 (leB 1 28 ++ leB 1 8 ++ leB 2 0)
     Holds (tHold c) (.loc 0) c 0x0801 4 ∧ (tHold c).pwr.kind ≠ 2 ∧ u8 c.pay 0 + u8 c.pay 1 = 36 ∧ u16 c.pay 2 = 0) ∧
    (let c := tCmd 0x0802 (leB 1 35 ++ leB 3 0)
     let s := tLane (tHold c) 35 { state := 9 }
     Holds s (.loc 0) c 0x0802 4 ∧ u8 c.pay 0 = 35 ∧ fld c.pay 1 3 = 0 ∧ s.servesEnabled 35 = false ∧ (s.lane 35).state ≠ 0) ∧
    (let c := tCmd 0x0803 (leB 1 35 ++ leB 1 4 ++ leB 1 3 ++ leB 1 2 ++ leB 1 40 ++ leB 1 0 ++ leB 2 1)
     let s := tLane (tHold c) 35 { state := 9 }
     Holds s (.loc 0) c 0x0803 8 ∧ u8 c.pay 1 = 4 ∧ u8 c.pay 2 = 3 ∧ u8 c.pay 3 = 2 ∧ u8 c.pay 4 = 40 ∧ u8 c.pay 5 = 0 ∧ u16 c.pay 6 = 1 ∧
       s.servesEnabled 35 = false ∧ (s.lane 35).state ≠ 0) ∧
    (let c := tCmd 0x0804 (leB 1 35 ++ leB 1 1 ++ leB 2 0)
     let s := tLane (tHold c) 35 tTest
     Holds s (.loc 0) c 0x0804 4 ∧ u8 c.pay 1 ≤ 1 ∧ u16 c.pay 2 = 0 ∧ s.lane 35 = tTest ∧ tTest.state = 10 ∧ tTest.test = some { here := true, ends := 0 } ∧ bit (({ here := true, ends := 0 } : LaneTest).dirs) 1 = false ∧
       bit (({ here := true, ends := 0, dirs := 2 } : LaneTest).dirs) 1 = true) := by
  unfold Holds
  decide +kernel

theorem test_wit_LaneTests :
    (let c := tCmd 0x0804 (leB 1 35 ++ leB 3 0)
     Holds (tLane (tHold c) 35 {}) (.loc 0) c 0x0804 4 ∧ ((tLane (tHold c) 35 {}).lane 35).test = none ∧
       ((tLane (tHold c) 35 {}).lane 35).state ≠ 10) ∧
    (let c := tCmd 0x0805 (leB 1 35 ++ leB 3 0)
     Holds (tLane (tHold c) 35 tTest) (.loc 0) c 0x0805 4 ∧ (tLane (tHold c) 35 tTest).lane 35 = tTest ∧ ((tHold c).lane 35).test = none) ∧
    (let c := tCmd 0x0806 (leB 1 31 ++ leB 3 0)
     let s := tSpare (tHold c) { state := 8, slots := 1 }
     Holds s (.loc 0) c 0x0806 4 ∧ (s.pass 1).spareState 3 = 1 ∧ (s.spare 3).switching = none ∧ (s.lane 31).slots ≠ 0) ∧
    (let c := tCmd 0x0807 (leB 1 31 ++ leB 3 0)
     let s := tServed (tHold c)
     Holds s (.loc 0) c 0x0807 4 ∧ s.servedBy 31 = some 3 ∧ (s.lane 31).state = 6 ∧ (s.lane 31).capable ≠ none ∧ (s.spare 3).ret = none ∧
       Takes s F.laneReturn 31 idNone) := by
  unfold Holds Takes
  decide +kernel

/-- A CAP of a concentrator of 5 slots at rate 0, its ACTIVE indication set. -/
def tCap : Bytes := kBlock 0x82 (leB 1 0x15 ++ leB 1 0x09)

/-- The device's CAP for lane 31 at a rate, acknowledged. -/
def tOwn (rate : Nat) : Bytes := leB 1 0x15 ++ leB 1 31 ++ leB 1 7 ++ leB 1 15 ++ leB 1 rate

/-- Lane 31 with CAPs seen and its own sent. -/
def tCapLane (st n acks rate : Nat) : Lane := { state := st, far := blockFields tCap, farN := n, own := tOwn rate, acks := acks, slots := 5 }

theorem test_wit_LanesComeUp :
    ((tLane tReady 31 { state := 1 }).lane 31).state = 1 ∧
    (let s := tSpare (tLane tReady 35 { state := 1 }) {}
     let s : State := { s with lanes := [(35, { state := 1 })], spares := [] }
     (s.lane 35).state = 1 ∧ s.openMember 3 = some 7) ∧
    (let s := tLane tReady 31 { state := 1 }
     (s.lane 31).absent = false ∧ (s.lane 31).since + s.par P.linkLaneDetectMs * perMs ≤ (s.pass (2000 * perMs)).now ∧
       Takes s F.laneAbsent 31 idNone) ∧
    2000000 ≤ ((tReady.pass 125000).now - 0) * bitsPerTwo 0 ∧ 2 * 64 * 66 ≤ ((tReady.pass 512).now - 0) * bitsPerTwo 0 ∧
    trainTime ≤ ((tLane tReady 31 { state := 3 }).pass trainTime).now ∧ blockLockTime ≤ ((tLane tReady 31 { state := 4 }).pass blockLockTime).now ∧
    ((tLane tReady 31 { state := 4, single := true }).lane 31).single = true ∧ Takes tReady F.laneTrainFail 31 idNone ∧
    (let s := tLane tReady 31 { state := 5 }
     goodBlock tCap 0x82 = true ∧ s.servedBy 31 = none ∧ (s.lane 31).far ≠ blockFields tCap) ∧
    (let s := tLane tReady 31 (tCapLane 5 1 0 0)
     let u := (s.pass 1).setLane 31 { tCapLane 5 1 0 0 with farN := 2 }
     (s.lane 31).held = false ∧ (s.lane 31).far = blockFields tCap ∧ u.capRate 31 (blockFields tCap) = some 0) ∧
    (let x : Lane := { state := 5, farN := 1, far := blockFields (kBlock 0x82 (leB 1 0x16)) }
     let u := ((tLane tReady 31 x).pass 1).setLane 31 { x with farN := 2 }
     u.capRate 31 x.far = none ∧ Takes tReady F.laneCapFail 31 idNone) ∧
    (let s : State := { tSpare tReady {} with spares := [(3, { checking := some 7 })] }
     (s.lane 35).state = 11 ∧ (s.spare 3).switching = none ∧ (s.spare 3).checking = some 7) ∧
    (let s : State := { tReady with lanes := [(35, { state := 11, far := blockFields tCap, farN := 1 })], spares := [(3, { sel := 7, switching := some 0 })] }
     bit (u8 (blockFields tCap) 1) 3 = true ∧ s.switchOf 3 = 31 ∧ (s.spare 3).switching = some 0 ∧ (s.lane 35).farN = 1) ∧
    bit (u8 (blockFields tCap) 1) 3 = true := by
  unfold Takes
  decide +kernel

theorem test_wit_LanesExchange :
    (let ack := kBlock 0x83 (tOwn 0)
     goodBlock ack 0x83 = true ∧ (blockFields ack).take 5 = (tCapLane 5 2 0 0).own ∧ (tCapLane 5 2 0 0).own.length = 5) ∧
    (let ack := kBlock 0x83 (tOwn 1)
     goodBlock ack 0x83 = true ∧ (blockFields ack).take 5 = (tCapLane 5 2 1 1).own ∧ u8 (tOwn 1) 4 ≠ (tCapLane 5 2 1 1).rate) ∧
    (let s := tLane tReady 31 (tCapLane 5 2 1 0)
     u8 (tOwn 0) 4 = (s.lane 31).rate ∧ laneLimit s.par 5 0 (s.primarySlots 31) < s.pressMax ∧ Takes s F.laneBudget 31 idNone) ∧
    (let s := tLane { tReady with params := { acc := [(P.motionCeilingPressMaxLps.id, 1000)] } } 31 (tCapLane 5 2 1 0)
     s.pressMax ≤ laneLimit s.par 5 0 (s.primarySlots 31)) ∧
    (let b := kBlock 0x85 (leB 1 1)
     goodBlock b 0x85 = true ∧ u8 b 1 ≤ 1) ∧
    (let s := tSpare (tLane tReady 35 (tCapLane 5 2 1 0)) {}
     let s : State := { s with lanes := [(35, tCapLane 5 2 1 0)], spares := [(3, { sel := 7 })] }
     s.lane 35 = tCapLane 5 2 1 0 ∧ (List.range 8).all (fun m => !(s.members 3).contains m || m == (s.spare 3).sel || (look (s.spare 3).passed m).isSome) = true) ∧
    (tLane tReady 31 { state := 9, retryAt := 5 }).lane 31 = { state := 9, retryAt := 5 } ∧ 5 ≤ ((tLane tReady 31 {}).pass 5).now := by
  unfold Takes
  decide +kernel

theorem test_wit_LanesAreLost :
    ((tLane tReady 31 { state := 6 }).lane 31).state = 6 ∧
    (goodBlock tCap 0x82 = true ∧ (tCapLane 7 1 0 0).far = blockFields tCap) ∧
    (goodBlock (kBlock 0x83 (tOwn 0)) 0x83 = true ∧ (blockFields (kBlock 0x83 (tOwn 0))).take 5 = (tCapLane 7 2 1 0).own ∧
       Takes tReady F.laneRelock 31 idNone) ∧
    (let s := tSpare tReady { state := 7, slots := 1 }
     (s.lane 31).since + s.par P.linkLaneRelockUs * perUs < (s.pass (100000 * perUs)).now ∧ s.servedBy 31 = none ∧
       (s.pass (100000 * perUs)).spareState 3 = 1 ∧ (s.spare 3).switching = none ∧ Takes s F.laneDown 31 idNone) := by
  unfold Takes
  decide +kernel

theorem test_wit_SparesSwitch :
    (let s : State := { tReady with lanes := [(35, { state := 7 })], spares := [(3, { serving := some 31 })] }
     s.par P.linkLaneRelockUs * perUs < (s.pass (100000 * perUs)).now ∧ (s.spare 3).serving = some 31 ∧ Takes s F.laneDown 35 idNone ∧
       Takes s F.laneNoSpare 31 idNone) ∧
    (let s : State := { tReady with lanes := [(35, { state := 6 })], spares := [(3, { sel := 7, switching := some 0 })] }
     0 + trainTime ≤ (s.pass trainTime).now ∧ s.switchOf 3 = 31 ∧ Takes s F.spareFail 31 idNone) ∧
    (let s := tSpare tReady {}
     (s.lane 35).state = 11 ∧ (s.spare 3).serving = none ∧ (s.spare 3).switching = none ∧ s.nextMember 3 ((s.spare 3).sel + 1) = some 7 ∧
       (s.spare 3).checkAt + s.par (P.linkSpareCheckMs 3) * perMs ≤ (s.pass (100000 * perMs)).now) ∧
    (let s : State := { tReady with spares := [(3, { checking := some 7 })] }
     (s.spare 3).checking = some 7 ∧ (s.spare 3).checkAt + 20 * perUs ≤ (s.pass (20 * perUs)).now ∧ Takes s F.spareNotReady 31 idNone ∧ (s.src F.spareNotReady).conds.contains (31#32) = false) ∧
    (let s : State := { tServed tReady with params := { acc := [(P.linkSpareAutoReturn.id, 1)] } }
     s.servedBy 31 = some 3 ∧ (s.lane 31).capable = some 0 ∧ s.par P.linkSpareAutoReturn = 1 ∧
       0 + s.par P.linkSpareReturnS * perSecond ≤ (s.pass (100000 * perSecond)).now ∧ Takes s F.laneReturn 31 idNone) ∧
    (tReady.par P.linkLaneHdrErrLimit < 70000 ∧ Takes tReady F.laneHdrErr 31 idNone) ∧ goodBlock (kBlock 0x88 []) 0x88 = true := by
  unfold Takes
  decide +kernel

/-! ### Witnesses: link time and heads -/

/-- An echo from lane 31. -/
def tEcho (m : Nat) : Bytes := kBlock 0x95 (leB 1 m ++ leB 4 0 ++ leB 1 8)

theorem test_wit_LinkTime :
    (let s := tLane tReady 31 { state := 6 }
     (s.lane 31).state = 6 ∧ s.clk.run = true ∧ (s.lane 31).ltAt + 4096 ≤ (s.pass 4096).clk.tclk ∧ (s.pass 0).clk.tclk < (s.lane 31).ltAt + 4096 ∧
       (s.lane 31).echoDue + s.par P.linkHeadEchoMs * perMs ≤ (s.pass (100000 * perMs)).now ∧ beN (slice (tEcho 0xF) 2 4) = (s.lane 31).echoVal ∧
       beN (slice (tEcho 0xF) 2 4) ≠ (({ state := 6, echoVal := 1 } : Lane)).echoVal) ∧
    (let s : State := { tReady with lanes := [(35, { state := 11 })], spares := [(3, { ltNext := 7 })] }
     (s.lane 35).state = 11 ∧ (s.spare 3).ltNext = 7) ∧
    (goodBlock (tEcho 0xF) 0x95 = true ∧ u8 (tEcho 0xF) 1 = 0xF ∧ (tLane tReady 31 { state := 6, echoAt := some 0 }).lane 31 = { state := 6, echoAt := some 0 }) ∧
    (let x : Lane := { state := 6, echoAt := some 0, delay := 1000000, delayOk := true }
     let s := tLane tReady 31 x
     let d := min 0x00FFFFFF (((s.pass 100).clk.tclk * 256 + 255 - 0 * 256 - 256 * u8 (tEcho 0xF) 6) / 2)
     d + 256 < x.delay ∧ Takes s F.linkTimeDrift 31 idNone) ∧
    (let s : State := { tReady with lanes := [(35, { state := 6, echoAt := some 0 })], spares := [(3, { sel := 7 })] }
     goodBlock (tEcho 7) 0x95 = true ∧ u8 (tEcho 7) 1 = 7 ∧ (s.spare 3).sel = 7 ∧ look (s.spare 3).delays 7 = none) ∧
    (goodBlock [] 0x95 = false ∧ Takes tReady F.upstreamBad 35 idNone) := by
  unfold Takes
  decide +kernel

/-- Slot 159 on lane 31, its head hot. -/
def tHot (s : State) : State :=
  { s with
    lanes := [(31, { state := 6, slots := 1, own := tOwn 0 ++ [] })]
    fire := { s.fire with heads := [(159, { temp := some 500, mTemp := true })] }
    links := [(159, { card := some (List.replicate 256 0) })] }

theorem test_wit_HeadCommands :
    (let c := tCmd 0x0701 (leB 1 7 ++ leB 1 1 ++ leB 1 19 ++ leB 1 0)
     Holds (tHold c) (.loc 0) c 0x0701 4 ∧ u8 c.pay 1 + u8 c.pay 2 = 20) ∧
    (let c := tCmd 0x0702 (leB 20 (2 ^ 159) ++ leB 4 0)
     Holds (tHold c) (.loc 0) c 0x0702 24 ∧ u32 c.pay 20 = 0 ∧ bit (fld c.pay 0 20) 159 = true) ∧
    (let c := tCmd 0x0703 (leB 20 (2 ^ 159) ++ leB 4 0)
     let s := tHot (tHold c)
     Holds s (.loc 0) c 0x0703 24 ∧ u32 c.pay 20 = 0 ∧ (s.head 159).mTemp = true) ∧
    (let c := tCmd 0x0704 (leB 1 159 ++ leB 1 4 ++ leB 1 4 ++ leB 1 0)
     let s := tHot (tHold c)
     Holds s (.loc 0) c 0x0704 4 ∧ u8 c.pay 1 + u8 c.pay 2 = 8 ∧ (s.legacyOf 159).isSome = false ∧ ((s.slotLink 159).card).isSome = true) := by
  unfold Holds
  decide +kernel

theorem test_wit_CardRefresh :
    (let c := tCmd 0x0705 (leB 1 155 ++ leB 3 0)
     let s := tHot (tHold c)
     Holds s (.loc 0) c 0x0705 4 ∧ HasRoom s (.loc 0) ∧ fld c.pay 1 3 = 0 ∧ (s.legacyOf 155).isSome = false ∧
       (s.primaryFor 155).bind (fun l => s.carrier l s.fire.next) = some 31 ∧ (s.lane 31).info = none ∧ (s.lane 31).todo = [] ∧ (s.lane 31).state = 6) := by
  unfold Holds HasRoom
  exact ⟨by decide, ⟨_, rfl, by decide⟩, by decide +kernel⟩

/-- A STATUS of position 0. -/
def tStatus : Bytes := kBlock 0x94 (leB 1 24 ++ beB 2 500 ++ leB 1 0x7F ++ beB 2 0xFFFF)

theorem test_wit_HeadsReport :
    (let s := tHot tReady
     goodBlock tStatus 0x94 = true ∧ u8 tStatus 1 = 0 + 8 * 1 + 16 * 1 ∧ bit (u8 tStatus 4) 7 = false ∧ s.primaryOf 31 = some 31 ∧ 0 < (s.lane 31).slots ∧
       20 * (31 / 4) + s.firstSlot 31 + 0 = 155 ∧
       (∀ n ∈ [F.headTempSoft, F.headTempHard, F.headFrameCrc, F.headRepeat, F.headFireMiss, F.headError, F.linkTimeLost], Calm s n)) ∧
    (goodBlock [] 0x94 = false ∧ Takes tReady F.upstreamBad 31 idNone) ∧
    (let s : State := { tReady with splice := { tReady.splice with runs := [{ begun := 255, geo := [((P.rasterBarSlotMask 7).id, 1048575)] }] } }
     s.hasLimits 159 = true ∧ (s.head 159).stale = false ∧ 0 + s.par P.fireTempStaleMs * perMs ≤ (s.pass (100000 * perMs)).now ∧
       Takes s F.headTempStale 159 idNone ∧ (s.src F.headTempStale).conds.contains (BitVec.ofNat 32 159) = false) := by
  unfold Takes Calm
  decide +kernel

/-- A chunk of zeros for position 0 and its INFO_DATA. -/
def tInfo (chunk : Nat) : Bytes := kBlock 0x97 (leB 1 0 ++ leB 1 0 ++ leB 1 chunk ++ beB 2 (crc16 (List.replicate 32 0)) ++ leB 1 0)

/-- A lane with a read under way. -/
def tReading (chunk tries : Nat) : Lane := { state := 6, slots := 1, info := some { j := 0, chunk := chunk, tries := tries, buf := List.replicate (32 * chunk) 0 } }

/-- The first bytes of a card. -/
def tCardA : Bytes := beB 4 0x4B5A4843 ++ List.replicate 16 0

/-- The bytes from offset 0x28. -/
def tCardC : Bytes := beB 2 5120 ++ leB 1 4 ++ List.replicate 17 0

/-- The head area of a card without its CRC. -/
def tCardHead : Bytes :=
  tCardA ++ List.replicate 20 0 ++ tCardC ++ List.replicate 20 0 ++ List.replicate 20 0 ++ List.replicate 20 0 ++ List.replicate 20 0 ++ List.replicate 20 0 ++ List.replicate 20 0 ++ List.replicate 20 0 ++ List.replicate 20 0 ++ List.replicate 18 0

/-- A whole card that passes its checks. -/
def tCard : Bytes := tCardHead ++ beB 2 27648 ++ List.replicate 14 0 ++ beB 2 43370

theorem test_crc_card : crc16 tCardHead = 27648 := by
  have z : ∀ a b : Bytes, ∀ i, crcMsb 16 0x1021 i (a ++ b) = crcMsb 16 0x1021 (crcMsb 16 0x1021 i a) b := fun _ _ _ => List.foldl_append
  have h0 : crcMsb 16 0x1021 65535 tCardA = 9827 := by decide +kernel
  have h1 : crcMsb 16 0x1021 9827 (List.replicate 20 0) = 47298 := by decide +kernel
  have h2 : crcMsb 16 0x1021 47298 tCardC = 55341 := by decide +kernel
  have h3 : crcMsb 16 0x1021 55341 (List.replicate 20 0) = 26616 := by decide +kernel
  have h4 : crcMsb 16 0x1021 26616 (List.replicate 20 0) = 28854 := by decide +kernel
  have h5 : crcMsb 16 0x1021 28854 (List.replicate 20 0) = 9910 := by decide +kernel
  have h6 : crcMsb 16 0x1021 9910 (List.replicate 20 0) = 19746 := by decide +kernel
  have h7 : crcMsb 16 0x1021 19746 (List.replicate 20 0) = 12046 := by decide +kernel
  have h8 : crcMsb 16 0x1021 12046 (List.replicate 20 0) = 38712 := by decide +kernel
  have h9 : crcMsb 16 0x1021 38712 (List.replicate 20 0) = 18792 := by decide +kernel
  have h10 : crcMsb 16 0x1021 18792 (List.replicate 20 0) = 1175 := by decide +kernel
  have h11 : crcMsb 16 0x1021 1175 (List.replicate 18 0) = 27648 := by decide +kernel
  unfold crc16 tCardHead
  rw [z, z, z, z, z, z, z, z, z, z, z, h0, h1, h2, h3, h4, h5, h6, h7, h8, h9, h10, h11]

theorem test_cardValid_good (b : Bytes) (h1 : crc16 (slice b 0 0xEE) = cardField b 0xEE 2) (h2 : cardField b 0 4 = 0x4B5A4843)
    (h3 : cardField b 0x28 2 = 5120) (h4 : u8 b 0x2A = 4) (h5 : crc16 (slice b 0xF0 14) = cardField b 0xFE 2) : cardValid b = 3 := by
  unfold cardValid
  dsimp only
  rw [h1, h2, h3, h4, h5]
  simp [b2n]

theorem test_cardValid_both : cardValid tCard = 3 := by
  refine test_cardValid_good _ ?_ (by decide +kernel) (by decide +kernel) (by decide +kernel) (by decide +kernel)
  rw [show slice tCard 0 0xEE = tCardHead from by decide +kernel, test_crc_card]
  decide +kernel

theorem test_cardValid_bad (b : Bytes) (h : cardField b 0 4 ≠ 0x4B5A4843) : cardValid b ≠ 3 := by
  unfold cardValid b2n
  simp only [h, false_and, and_false, decide_false, Bool.false_eq_true, if_false, Nat.zero_add]
  split <;> decide

theorem test_cardValid_magic : cardValid (List.replicate 256 0) ≠ 3 := test_cardValid_bad _ (by decide +kernel)

theorem test_wit_HeadCards :
    (goodBlock (tInfo 6) 0x97 = true ∧ u8 (tInfo 6) 1 = 0 ∧ u8 (tInfo 6) 2 = 0 ∧ u8 (tInfo 6) 3 = 6 ∧ u8 (tInfo 6) 6 = 0 ∧
       crc16 (List.replicate 32 0) = beN (slice (tInfo 6) 4 2) ∧ ((tLane tReady 31 (tReading 6 0)).lane 31).info.isSome = true) ∧
    (let d := tCard.drop 224
     let b := kBlock 0x97 (leB 1 0 ++ leB 1 0 ++ leB 1 7 ++ beB 2 (crc16 d) ++ leB 1 0)
     let s := tLane tReady 31 { tReading 7 0 with info := some { j := 0, chunk := 7, buf := tCard.take 224 } }
     goodBlock b 0x97 = true ∧ u8 b 3 = 7 ∧ u8 b 6 = 0 ∧ crc16 d = beN (slice b 4 2) ∧ d.length = 32 ∧ (s.lane 31).todo = [] ∧
       (s.slotLink 155).refresh = [] ∧ (s.slotLink 155).card = none ∧ tCard.take 224 ++ d = tCard ∧ 20 * (31 / 4) + s.firstSlot 31 + 0 = 155) ∧
    (List.replicate 224 0 ++ List.replicate 32 (0 : Byte) = List.replicate 256 0 ∧ goodBlock (tInfo 7) 0x97 = true ∧ u8 (tInfo 7) 6 = 0 ∧ Takes tReady F.headCardBad 155 idNone) ∧
    (let s := tLane tReady 31 (tReading 0 2)
     (s.lane 31).todo = [] ∧ Takes tReady F.headInfoTimeout 155 idNone ∧ 0 + s.par P.linkHeadInfoTimeoutUs * perUs ≤ (s.pass (100000 * perUs)).now ∧
       (s.pass 0).now < 0 + s.par P.linkHeadInfoTimeoutUs * perUs) ∧ goodBlock [] 0x97 = false ∧
    (let s : State := { tPend (tCmd 0x0705 (leB 4 155)) with links := [(155, { refresh := [(.loc 0, 7)] })] }
     (s.slotLink 155).refresh = [(.loc 0, 7)] ∧ (s.pend? (.loc 0) 7).isSome = true ∧ (s.ses (.loc 0)).cq.isSome = true) := by
  unfold Takes
  decide +kernel

/-! ### Witnesses: encoders and marks -/

/-- Channel 3 enabled with a record, the fire channel or not. -/
def tEnc (s : State) (fire : Nat) (e : Enc) : State :=
  { s with
    params := { acc := [((P.motionEncEnable 3).id, 1), ((P.motionEncCpr 3).id, 1000), ((P.motionFireRevwin).id, 10)], line := [(P.motionFireBackup.id, 0xFF)] }
    motion := { s.motion with enc := [(3, e)], fireCh := fire } }

theorem test_wit_MotionCommands :
    (let c := tCmd 0x0A01 []
     Holds (tHold c) (.loc 0) c 0x0A01 0) ∧
    (let c := tCmd 0x0A02 []
     Holds (tHold c) (.loc 0) c 0x0A02 0) ∧
    (let c := tCmd 0x0A03 (leB 1 3 ++ leB 3 0)
     Holds (tHold c) (.loc 0) c 0x0A03 4 ∧ u8 c.pay 0 = 3 ∧ fld c.pay 1 3 = 0) ∧
    (let c := tCmd 0x0A04 (leB 1 3 ++ leB 3 0)
     let s := tEnc (tHold c) 0 {}
     Holds s (.loc 0) c 0x0A04 4 ∧ u8 c.pay 0 = 3 ∧ s.encState 3 = 1 ∧ s.activeJobs = [] ∧ Calm s F.encLost ∧ 3 ≠ s.motion.fireCh) := by
  unfold Holds Calm
  decide +kernel

theorem test_wit_EncodersCount :
    (tReady.enc 3 = {} ∧ tReady.encState 3 ≠ 1) ∧
    (let s := tEnc tReady 0 {}
     s.encState 3 = 1 ∧ s.motion.fireCh ≠ 3 ∧ s.backup ≠ some 3 ∧ quadSteps (s.par (P.motionEncInvert 3) == 1) false false false true = 1 ∧
       quadSteps (s.par (P.motionEncInvert 3) == 1) false false true false = 3 ∧ quadSteps (s.par (P.motionEncInvert 3) == 1) false false true true = 2 ∧
       filteredEnc (s.pass 1000).clk.tclk (s.par (P.motionEncFilter 3)) {} false true = { b := true, bAt := 1000 } ∧
       filteredEnc (s.pass 1000).clk.tclk (s.par (P.motionEncFilter 3)) {} true true = { a := true, b := true, aAt := 1000, bAt := 1000 } ∧
       Takes s F.qambig 3 idNone) ∧
    (let s := tEnc tReady 0 { dir := 2 }
     (s.enc 3).dir ≠ 0 ∧ Takes s F.qskip 3 idNone) ∧
    (let s := tEnc tReady 3 {}
     s.motion.fireCh = 3 ∧ s.backup = none ∧ s.motion.corr = [] ∧ s.motion.trim = [] ∧ s.motion.vValid = false ∧ s.motion.rev = false ∧
       max (s.enc 3).maxPos ((s.enc 3).pos + 1) - ((s.enc 3).pos - 1) ≤ (s.par P.motionFireRevwin : Int) ∧
       max s.motion.wMax (s.motion.w - (s.parLine (P.motionEncCountWu 3) : Int)) / (s.lineLen : Int) = s.motion.wMax / (s.lineLen : Int)) := by
  unfold Takes
  decide +kernel

/-- The sequence of R298: forward steps with invert 0, and backward with invert 1. -/
theorem test_quad_sequence :
    ([(false, false), (false, true), (true, true), (true, false)].zip [(false, true), (true, true), (true, false), (false, false)]).all
      (fun p => quadSteps false p.1.1 p.1.2 p.2.1 p.2.2 == 1 && quadSteps true p.1.1 p.1.2 p.2.1 p.2.2 == 3) = true := by decide

theorem test_wit_EncoderFaults :
    (let s := tEnc tReady 3 {}
     s.par (P.motionEncEnable 3) ≠ 0 ∧ 624 < s.par (P.motionEncWireTclk 3) ∧ s.par (P.motionEncWireTclk 3) ≤ 625 ∧ Takes s F.encWire (4 * 3 + 2) idNone ∧ (s.src F.encWire).conds.contains (BitVec.ofNat 32 14) = false) ∧
    (tEnc tReady 3 { wires := [2] }).encState 3 = 1 ∧
    (let e : Enc := { dir := 1 }
     let s := tEnc tReady 3 e
     s.enc 3 = e ∧ e.wires.contains 2 = false ∧ s.par (P.motionEncCpr 3) = 1000 ∧ indexCounts 1000 e.ref e.count = none ∧
       e.zAt + 2 * (s.par (P.motionEncFilter 3) + 1) ≤ (s.pass 1000).clk.tclk ∧ (s.pass 0).clk.tclk < e.zAt + 2 * (s.par (P.motionEncFilter 3) + 1)) ∧
    (let e : Enc := { dir := 1, count := 1000, ref := some 0 }
     let s := tEnc tReady 3 e
     (e.count - 0).toInt.natAbs ≤ 2 * 1000 ∧ ((e.count - 0).toInt - 1000).natAbs ≤ s.par (P.motionEncIndexTol 3) ∧ Takes s F.indexDrift 3 idNone) ∧
    (let e : Enc := { dir := 1, count := 2000, ref := some 0 }
     let s := tEnc tReady 3 e
     (e.count - 0).toInt.natAbs ≤ 2 * 1000 ∧ s.par (P.motionEncIndexTol 3) < ((e.count - 0).toInt - 1000).natAbs ∧ Takes s F.indexSlip 3 idNone) := by
  unfold Takes
  decide +kernel

/-- Mark input 3 enabled with a record. -/
def tMark (x : Mark) : State :=
  { tReady with params := { acc := [((P.motionMarkEnable 3).id, 1)] }, motion := { tReady.motion with marks := [(3, x)], w := 2 ^ 60 } }

theorem test_wit_Marks :
    ((tMark {}).par (P.motionMarkEnable 3) ≠ 0 ∧ ((tMark { edgeAt := 5 }).pass 0).clk.tclk < 5 + (tMark {}).par (P.motionMarkFilter 3) + 1 ∧
      (tMark {}).par (P.motionMarkPolarity 3) = (if false then 1 else 0)) ∧
    (let x : Mark := { locked := true, expect := some 0 }
     let s := tMark x
     s.par (P.motionMarkEnable 3) ≠ 0 ∧ s.mark 3 = x ∧ s.par (P.motionMarkWindowWu 3) * wuUnit < (s.motion.w - 0).natAbs ∧
       x.edgeAt + s.par (P.motionMarkFilter 3) + 1 ≤ (s.pass 1000).clk.tclk ∧ s.par (P.motionMarkPolarity 3) = (if true then 0 else 1) ∧
       s.motion.wAt ≠ (s.pass 1000).clk.tclk) ∧
    ((tMark {}).par (P.motionMarkTrim 3) = 0 ∨ (tMark {}).datumRun = none) ∧ Calm (tMark {}) F.hopperLow ∧
    (let x : Mark := { locked := true, expect := some (2 ^ 60) }
     let s := tMark x
     s.motion.w ≤ 2 ^ 60 + ((s.par (P.motionMarkWindowWu 3) * wuUnit : Nat) : Int)) ∧
    (let x : Mark := { locked := true, expect := some 0 }
     let s := tMark x
     (0 : Int) + ((s.par (P.motionMarkWindowWu 3) * wuUnit : Nat) : Int) < s.motion.w ∧ x.fly + 1 < s.par (P.motionMarkFlywheelMax 3) ∧
       Takes s F.markMissing 3 idNone) ∧
    (tReady.motion.lastEdge + tReady.par P.motionVelStopMs * perMs ≤ (tReady.pass (100000 * perMs)).now ∧
       (tReady.pass 0).now < tReady.motion.lastEdge + tReady.par P.motionVelStopMs * perMs) ∧
    (let s : State := { tReady with params := { acc := [(P.motionMsgEnable.id, 1)] } }
     s.par P.motionMsgEnable ≠ 0 ∧ s.motion.msgAt + s.par P.motionMsgPeriodMs * perMs ≤ (s.pass (100000 * perMs)).now ∧
       (s.pass 0).now < s.motion.msgAt + s.par P.motionMsgPeriodMs * perMs) ∧ tReady.par P.motionMsgEnable = 0 ∧
    (let s : State := { tReady with
       faults := { on := true, src := [(F.hopperLow, { press := true })] }
       motion := { tReady.motion with vValid := true, vSince := 1, vTimes := [(2, 2 ^ 30), (1, 0)] } }
     s.ceiling * (1000 + s.par P.motionCeilingOverTolPm) < s.lps * 1000 ∧
       s.motion.fellAt + s.par P.motionCeilingStopMs * perMs < (s.pass (100000 * perMs)).now ∧ Takes s F.ceilingIgnored 0 idNone) := by
  unfold Takes Calm
  decide +kernel

/-- A pulse shorter than the filter's samples leaves the level (R296); one that lasts is taken. -/
theorem test_filter :
    (filteredEnc 3 4 { aAt := 0 } true false).a = false ∧ (filteredEnc 5 4 { aAt := 0 } true false).a = true := by decide

/-! ### Witnesses: time, triggers and sensors -/

/-- A schedule holding one entry. -/
def tSched (s : State) (e : Nat) (x : Sched) : State := { s with time := { s.time with sched := [(e, x)] } }

/-- TIME set to a second's last nanosecond. -/
def tSet : Cmd := tCmd 0x0B02 (leB 6 (2 ^ 48 - 1) ++ leB 2 0 ++ leB 4 999999999)

/-- A schedule entry's 32 bytes, base T32. -/
def tEntry (action target index period : Nat) : Bytes :=
  leB 1 action ++ leB 1 0 ++ leB 1 1 ++ leB 1 target ++ leB 4 10000 ++ leB 6 0 ++ leB 2 index ++ leB 4 period ++ leB 4 0 ++ leB 4 0 ++ leB 4 0

theorem test_wit_TimeCommands :
    Holds (tHold (tCmd 0x0B01 [])) (.loc 0) (tCmd 0x0B01 []) 0x0B01 0 ∧ Holds (tHold (tCmd 0x0B03 [])) (.loc 0) (tCmd 0x0B03 []) 0x0B03 0 ∧
    (let s := tSched (tHold tSet) 63 { base := 0, next := 0 }
     Holds s (.loc 0) tSet 0x0B02 12 ∧ u16 tSet.pay 6 = 0 ∧ u32 tSet.pay 8 < 1000000000 ∧ s.time.credit = true) ∧
    (let s := tSched (tHold tSet) 63 { base := 1, next := 0, action := 3, target := 7 }
     s.time.sched = [(63, { base := 1, next := 0, action := 3, target := 7 })] ∧ (s.trig 7).active = false ∧ Calm s F.trigUnmatched ∧ Takes s F.schedLate 63 idNone) := by
  unfold Holds Takes Calm
  decide +kernel

theorem test_wit_TimeNonePassed : NonePassed (tSched tReady 63 { base := 1, next := 2 ^ 40 }) (2 ^ 40 * nsUnit - 1) := by
  unfold NonePassed; decide +kernel

theorem test_wit_TimeSchedule :
    (let c := tCmd 0x0B04 (tEntry 3 7 0 1000)
     let s : State := { tHold c with params := { acc := [((P.timeTrigMode 7).id, 1)] } }
     Holds s (.loc 0) c 0x0B04 32 ∧ schedRange c.pay = true ∧ u8 c.pay 0 ≠ 1 ∧ ((s.pass 0).schedAt c.pay).isSome = true ∧ look s.time.sched 63 = none) ∧
    (let c := tCmd 0x0B04 (tEntry 1 0 4095 0)
     Holds (tHold c) (.loc 0) c 0x0B04 32 ∧ schedRange c.pay = true ∧ u8 c.pay 0 = 1 ∧ (((tHold c).pass 0).schedAt c.pay).isSome = true) ∧
    (let c := tCmd 0x0B05 (leB 1 63 ++ leB 3 0)
     let s := tSched { tHold c with host := { (tHold c).host with pends := [{ who := .loc 0, cmd := tCmd 0x0B04 [] }] } } 63 { owner := some (.loc 0, 7) }
     Holds s (.loc 0) c 0x0B05 4 ∧ fld c.pay 1 3 = 0 ∧ look s.time.sched 63 = some { owner := some (.loc 0, 7) } ∧
       s.pend? (.loc 0) 7 = some { who := .loc 0, cmd := tCmd 0x0B04 [] } ∧ ((s.ses (.loc 0)).cq).isSome = true) ∧
    (let c := tCmd 0x0B06 (leB 1 63 ++ leB 3 0)
     Holds (tSched (tHold c) 63 {}) (.loc 0) c 0x0B06 4 ∧ fld c.pay 1 3 = 0) := by
  unfold Holds
  decide +kernel

/-- PTP runs on port 1. -/
def tPtp (s : State) (servo n : Nat) (credit : Bool) : State :=
  { s with params := { acc := [(P.timePtpEnable.id, 1), (P.timePtpPort.id, 1), (P.timePtpOptions.id, 8)] }, time := { s.time with servo := servo, inLock := n, credit := credit } }

theorem test_wit_PtpSync :
    (let s := tPtp tReady 4 0 true
     s.par P.timePtpEnable = 1 ∧ s.par P.timePtpPort = 1 ∧ s.par P.timePtpStepThresholdNs < (1001 - s.parS 32 (P.timePortAsymmetryNs 1)).natAbs ∧
       Calm s F.timeRateLimit ∧ s.par P.timePtpLockNs < 1001 ∧ s.time.skip = false) ∧
    (let s : State := { tPtp tReady 3 0 true with time := { servo := 3, skip := true } }
     s.par P.timePtpEnable = 1 ∧ s.par P.timePtpPort = 1 ∧ s.time.servo = 3 ∧ s.time.skip = true) ∧
    (let s := tPtp tReady 3 0 false
     s.par P.timePtpStepThresholdNs < (-1001 - s.parS 32 (P.timePortAsymmetryNs 1)).natAbs ∧ Takes s F.ptpStepRefused 0 idNone ∧ Takes s F.timeRateLimit 0 idNone) ∧
    (let s := tPtp tReady 2 15 true
     (100 - s.parS 32 (P.timePortAsymmetryNs 1)).natAbs ≤ s.par P.timePtpLockNs ∧ 100 ≤ s.par P.timePtpStepThresholdNs) := by
  unfold Takes Calm
  decide +kernel

theorem test_wit_PtpRest :
    (let s := tPtp tReady 2 0 true
     s.time.lastSync + s.par P.timePtpTimeoutMs * perMs ≤ (s.pass (3000 * perMs)).now ∧ Takes s F.ptpLost 0 idNone) ∧
    (let s : State := { tPtp tReady 2 0 true with time := { servo := 2, q := [(3, List.replicate 64 7)] } }
     s.ptpHeeds [0, 0, 0, 0, 0] = true ∧ u8 [0#8] 0 % 16 < 4 ∧ ((sel s.time.q 3 []).drop 1).length < 64 ∧ 64 ≤ ((sel s.time.q 3 []).drop 0).length ∧
       Takes s F.ptpTsLost 1 idNone) ∧
    (let s : State := { tPtp tReady 2 0 true with params := { acc := [(P.timePtpDomain.id, 7), (P.timePtpOptions.id, 1)] } }
     s.ptpHeeds [0, 0, 0, 0, 0] = false ∧ bit (s.par P.timePtpOptions) 0 = true ∧ 44 ≤ (List.replicate 44 (0#8)).length) ∧
    (let s := tPtp tReady 3 0 true
     s.ptpHeeds [4, 0, 0, 0, 0] = true ∧ 4 ≤ u8 [4#8] 0 % 16 ∧ bit (s.par P.timePtpOptions) 3 = true ∧ s.time.servo ≠ 1 ∧ s.time.servo ≠ 2 ∧ s.time.servo ≠ 5 ∧ padTo 8 [1#8] ≠ s.time.master) := by
  unfold Takes
  decide +kernel

/-- Output 7 with a pulse due. -/
def tTrig (active : Bool) : State := { tReady with time := { trig := [(7, { active := active, ends := 0, due := [(0xFFFFFFFF, 100)] })] } }

theorem test_wit_Triggers :
    (((tTrig false).trig 7).due = [(0xFFFFFFFF, 100)] ∧ 100 ≤ ((tTrig false).pass 100).clk.tclk ∧ Calm (tTrig false) F.trigUnmatched) ∧
    (((tTrig true).trig 7).active = true ∧ Takes (tTrig true) F.trigOverrun 7 idNone ∧ ((tTrig true).trig 7).ends ≤ ((tTrig true).pass 0).clk.tclk) := by
  unfold Takes Calm
  decide +kernel

theorem test_wit_ScheduleExecute :
    (let x : Sched := { action := 3, target := 7, period := 1000, left := 2, report := true }
     let s := tSched tReady 63 x
     look s.time.sched 63 = some x ∧ x.next ≤ (if x.base = 0 then (s.pass 0).t32ns else (s.pass 0).devNs) ∧ (s.trig 7).active = false ∧ (s.pass 0).dueBefore 63 = false) ∧
    (let s : State := { tReady with time := { sched := [(62, { next := 0 }), (63, {})] } }
     62 < 63 ∧ (62, ({ next := 0 } : Sched)) ∈ s.time.sched ∧ (s.pass 0).dueBefore 63 = true) ∧
    (let x : Sched := { action := 2, target := 2, base := 1 }
     let s := tSched tReady 0 x
     look s.time.sched 0 = some x ∧ x.next ≤ (s.pass 0).devNs ∧ (∀ n ∈ [F.tjWarn, F.tjCrit, F.vmonRange, F.boardSensorFail], Calm s n) ∧ (s.pass 0).dueBefore 0 = false) ∧
    (let x : Sched := { action := 1, owner := some (.loc 0, 7) }
     let s := tSched (tPend (tCmd 0x0B04 [])) 0 x
     let v : State := { s.pass 0 with time := { s.time with sched := cut s.time.sched 0 } }
     look s.time.sched 0 = some x ∧ (s.pend? (.loc 0) 7).isSome = true ∧ ((s.ses (.loc 0)).cq).isSome = true ∧
       (match v.arm 0 0 0 s.pos 0 with | .inl st => st | .inr _ => 0) = St.state) := by
  unfold Calm
  decide +kernel

/-- A job that can be armed far ahead. -/
def tArmable : State :=
  { tSched (tPend (tCmd 0x0B04 [])) 0 { action := 1, owner := some (.loc 0, 7), off := 100000 } with
    lib := { dir := [(0, tJob 4)] } }

theorem test_wit_JobStart :
    (let v : State := { tArmable.pass 0 with time := { tArmable.time with sched := cut tArmable.time.sched 0 } }
     (v.arm 0 0 0 tArmable.pos 100000).isRight = true ∧ Calm tArmable F.hopperLow ∧ (tArmable.pend? (.loc 0) 7).isSome = true) := by
  unfold Calm
  decide +kernel

/-- Board sensor 63 on PMBus, format LINEAR11, read at time 0; legacy slot 7 of bar 7 reads it. -/
def tBoard (fails : Nat) : State :=
  { tReady with
    params := { acc := [((P.manageBoardConfig 63).id, 2 ^ 31 + 2 * 2 ^ 12), ((P.linkLegacySlotTempSensor 7).id, 63)] }
    splice := { runs := [{ begun := 255, geo := [((P.linkLegacySlotEnable 7).id, 1), ((P.linkLegacySlotBar 7).id, 7), ((P.linkLegacySlotSlot 7).id, 19)] }] }
    mgmt := { boards := [(63, { value := -4500, fails := fails, goodAt := some 0 })] } }

theorem test_wit_Sensors :
    (let c := tCmd 0x1004 (leB 4 0)
     Holds (tHold c) (.loc 0) c 0x1004 4 ∧ u8 c.pay 0 = 0) ∧
    (let c := tCmd 0x1004 (leB 4 2)
     Holds (tHold c) (.loc 0) c 0x1004 4 ∧ u8 c.pay 0 = 1 + 1 ∧ fld c.pay 1 3 = 0) ∧
    (tReady.trimming = false ∧ (List.replicate 24 (1500 : Int)).length = 24 ∧ (List.replicate 16 4000).length = 16 ∧ (∀ n ∈ [F.tjWarn, F.tjCrit, F.vmonRange], Calm tReady n) ∧
      (tReady.par P.manageTsenseTjCrit : Int) ≤ clamp (-400) 1500 (tReady.trimTj 0 1500) ∧ tReady.mgmt.convNext ≤ (tReady.pass 0).now ∧ Takes tReady F.tjCrit 0 idNone) ∧
    (Takes tReady F.vmonRange 15 idNone ∧ tReady.par (P.manageVmonHighMv 15) < 4000) ∧
    (let s : State := { tReady with pwr := { kind := 0, stage := 5, trimSteps := 15 } }
     s.pwr.kind = 0 ∧ 5 ≤ s.pwr.stage ∧ s.pwr.trimSteps < 16) ∧
    (let s : State := { tReady with mgmt := { convNext := 625000, vregNext := 625000, boards := [(0, { nextAt := 625000 })], legacyNext := [(7, 625000)] } }
     (s.pass 624999).now < s.mgmt.convNext ∧ s.mgmt.convNext ≤ (s.pass 625000).now ∧ (s.pass 624999).now < s.mgmt.vregNext ∧
       (s.pass 624999).now < (s.board 0).nextAt ∧ (s.pass 624999).now < sel s.mgmt.legacyNext 7 0) ∧
    ((tBoard 1).boardOn 63 = true ∧ (tBoard 1).trimming = false ∧ ((tBoard 1).board 63).fails < 2 ∧ ((tBoard 1).board 63).nextAt ≤ ((tBoard 1).pass 0).now ∧ 2 ≤ ((tBoard 2).board 63).fails ∧ Takes (tBoard 2) F.boardSensorFail 63 idNone) ∧
    ((tBoard 0).par (P.linkLegacySlotTempSensor 7) = 63 ∧ ((tBoard 0).pass 10).boardStale 63 = false ∧ (-4500 : Int) % 100 = 0 ∧ Calm (tBoard 0) F.headTempSoft ∧
      (List.range 160).find? (fun i => (tBoard 0).legacyOf i == some 7) = some 159) ∧
    (64 ≤ tReady.par (P.linkLegacySlotTempSensor 0) ∧ Takes tReady F.vregAlert 0xFFFF idNone) := by
  unfold Takes Holds Calm
  decide +kernel

/-! ### Witnesses: cameras -/

/-- A DMA command with one data descriptor of `n` bytes and an argument block. -/
def tDmaN (op n : Nat) (arg : Bytes) : Cmd :=
  { op := op, seq := 7, flags := 0x1000, pay := leB 8 0x1000 ++ leB 4 n ++ leB 2 1 ++ leB 2 0 ++ arg }

/-- Port 3 runs with context 15 bound to its virtual channel 15 for RAW8, 4 pixels by 2 lines, without a trigger or a stream. -/
def tCam (x : Ctx) : State :=
  let p : SMap Nat := [((P.inspectCtxEnable 15).id, 1), ((P.inspectCtxPort 15).id, 3), ((P.inspectCtxVc 15).id, 15), ((P.inspectCtxDataType 15).id, 0x2A),
    ((P.inspectCtxWidth 15).id, 4), ((P.inspectCtxHeight 15).id, 2), ((P.inspectCtxTrig 15).id, 0xFF)]
  { tReady with
    params := { acc := put p (P.inspectPortEnable 3).id 1, frame := p }
    cam := { tReady.cam with ctx := [(15, x)] } }

theorem test_wit_CameraStatus :
    (let c := tCmd 0x0901 (leB 1 15 ++ leB 1 7 ++ leB 2 0)
     Holds (tHold c) (.loc 0) c 0x0901 4 ∧ (tHold c).pwr.kind ≠ 2 ∧ u8 c.pay 0 = 15 ∧ u8 c.pay 1 = 7 ∧ u16 c.pay 2 = 0) ∧
    (let c := tCmd 0x0905 (leB 1 15 ++ leB 3 0)
     Holds (tHold c) (.loc 0) c 0x0905 4 ∧ u8 c.pay 0 = 15 ∧ fld c.pay 1 3 = 0) ∧
    (let c := tCmd 0x0907 (leB 1 15 ++ leB 1 0 ++ leB 2 2 ++ leB 4 64)
     let s : State := { tHold c with lib := { tReady.lib with stgMb := 1 } }
     Holds s (.loc 0) c 0x0907 8 ∧ u8 c.pay 0 = 15 ∧ u8 c.pay 1 = 0 ∧ u16 c.pay 2 = 2 ∧ u32 c.pay 4 = 64 ∧ s.nozzleOn 15 = false ∧
       s.stageUsed - (s.ctx 15).ringN * (s.ctx 15).ringB + 2 * 64 ≤ s.stageSize) ∧
    (let c := tCmd 0x0907 (leB 1 15 ++ leB 1 0 ++ leB 2 1024 ++ leB 4 0xFFFFFFFF)
     let s := tHold c
     Holds s (.loc 0) c 0x0907 8 ∧ s.nozzleOn 15 = false ∧ s.stageSize < s.stageUsed - (s.ctx 15).ringN * (s.ctx 15).ringB + 1024 * 0xFFFFFFFF) ∧
    (let s : State := { tReady with params := { acc := [((P.inspectCtxStreamEnable 61).id, 1)] } }
     s.nozzleOn 15 = true) := by
  unfold Holds
  decide +kernel

theorem test_wit_CameraTransfers :
    (let c := tDmaN 0x0902 65536 []
     tHoldsDma (tHold c) c 0x0902 0 ∧ c.arg = [] ∧ HasRoom (tHold c) (.loc 0) ∧ chainOf (tL c) = none ∧ total (tL c) = 65536) ∧
    (let c := tDmaN 0x0903 10892 (leB 16 15)
     tHoldsDma (tHold c) c 0x0903 16 ∧ u8 c.arg 0 = 15 ∧ fld c.arg 1 15 = 0 ∧ chainOf (tL c) = none ∧ total (tL c) = 10892) ∧
    (let c := tDmaN 0x0906 33554432 (leB 1 15 ++ leB 1 0 ++ leB 2 60000 ++ leB 12 0)
     tHoldsDma (tHold c) c 0x0906 16 ∧ u8 c.arg 0 = 15 ∧ u8 c.arg 1 = 0 ∧ u16 c.arg 2 = 60000 ∧ fld c.arg 4 12 = 0 ∧
       (follow (tL c) []).map total = some 33554432 ∧ (tHold c).streamBytes 15 3 ≤ 33554432) ∧
    (let c : Cmd := { tDmaN 0x0904 0 [] with
        pay := leB 8 0x1000 ++ leB 4 33554432 ++ leB 2 0 ++ leB 2 0 ++ (leB 8 0x4000000 ++ leB 4 33554432 ++ leB 2 1 ++ leB 2 0 ++ leB 16 15) }
     tHoldsDma (tHold c) c 0x0904 16 ∧ u8 c.arg 0 = 15 ∧ fld c.arg 1 15 = 0 ∧ (follow (tL c) []).map List.length = some 2 ∧
       (follow (tL c) []).map (fun m => m.all (fun d => decide ((tHold c).streamBytes 15 2 ≤ d.bytes))) = some true ∧ ((tHold c).ctx 15).prev = none) ∧
    (let s := tCam { capt := [{ who := .loc 0, seq := 7, ends := 0 }] }
     ((s.ctx 15).capt.find? (fun q => q.who == .loc 0 && q.seq == 7)).map Capture.ends = some (s.pass 0).now) := by
  unfold HasRoom tHoldsDma HoldsDma
  exact ⟨⟨by decide, by decide, ⟨_, rfl, by decide⟩, by decide, by decide⟩, ⟨by decide, by decide, by decide, by decide, by decide⟩,
    ⟨by decide, by decide, by decide, by decide, by decide, by decide, by decide +kernel⟩,
    ⟨by decide, by decide, by decide, by decide, by decide +kernel, by decide⟩, by decide +kernel⟩

/-- A table of unused entries is well formed and empty; a table of zeros breaks the order of R358. -/
theorem test_defect_tables : parseDefects (List.replicate 65536 255) = some [] ∧ parseDefects (List.replicate 65536 0) = none := by
  have h (x : Byte) : (List.range 16384).map (fun i => u32 (List.replicate 65536 x) (4 * i)) = List.replicate 16384 (leN (List.replicate 4 x)) := by
    rw [List.eq_replicate_iff]
    refine ⟨by rw [List.length_map, List.length_range], ?_⟩
    intro b hb
    obtain ⟨i, hi, rfl⟩ := List.mem_map.1 hb
    have := List.mem_range.1 hi
    unfold u32 fld slice
    simp only [List.drop_replicate, List.take_replicate, List.length_replicate]
    rw [show min 4 (65536 - 4 * i) = 4 by omega]
    rfl
  refine ⟨?_, ?_⟩ <;> unfold parseDefects <;> rw [h] <;> dsimp only
  · rw [show leN (List.replicate 4 (255 : Byte)) = 0xFFFFFFFF by decide]
    have e : (List.replicate 16384 0xFFFFFFFF).takeWhile (· != 0xFFFFFFFF) = [] := by
      rw [List.takeWhile_replicate]; rfl
    have d : (List.replicate 16384 0xFFFFFFFF).dropWhile (· != 0xFFFFFFFF) = List.replicate 16384 0xFFFFFFFF := by
      rw [List.dropWhile_replicate]; rfl
    rw [e, d]
    rw [List.all_replicate]
    rfl
  · rw [show leN (List.replicate 4 (0 : Byte)) = 0 by decide]
    have e : (List.replicate 16384 0).takeWhile (· != 0xFFFFFFFF) = List.replicate 16384 0 := by
      rw [List.takeWhile_replicate]; rfl
    have r : ((List.replicate 16384 0).zip ((List.replicate 16384 0).drop 1)).all (fun (p : Nat × Nat) => decide (p.1 < p.2)) = false := by
      rw [List.drop_replicate, List.zip_replicate, List.all_replicate]; rfl
    rw [e, r, Bool.and_false, Bool.false_and]
    rfl

theorem test_wit_FrameStart :
    (let s := tCam {}
     s.portOn 3 = true ∧ (∀ x, x < 16 → ((x ∈ s.ctxsOn 3 15 ∨ x ∈ s.ctxsPending 3 15) ↔ x = 15)) ∧
       15 ∈ (((s.pass 0).closeFrame State.fault 15 true false).latchBank 15).ctxsOn 3 15 ∧
       (((s.pass 0).closeFrame State.fault 15 true false).latchBank 15).loupeOn 15 = true ∧
       (((s.pass 0).closeFrame State.fault 15 true false).latchBank 15).parFrame (P.inspectCtxTrig 15) = 0xFF ∧ SMapWf s.params.acc) ∧
    (tReady.portOn 3 = false) ∧ (let s := tCam {}
     s.ctxsOn 3 0 = [] ∧ s.ctxsPending 3 0 = []) := by
  unfold SMapWf
  decide +kernel

theorem test_wit_FrameEnd :
    (let s := tCam { frame := some { lines := 2 } }
     s.portOn 3 = true ∧ (s.ctxsOn 3 15).filter (fun c => (s.ctx c).frame.isSome || (s.ctx c).dropping) = [15] ∧ s.parFrame (P.inspectCtxHeight 15) ≤ 2 ∧
       (∀ t, t < 4 → s.stream 15 t {} = none)) ∧
    (let s := tCam { dropping := true }
     (s.ctxsOn 3 15).filter (fun c => (s.ctx c).frame.isSome || (s.ctx c).dropping) = [15]) ∧
    (let s := tCam {}
     ∀ c ∈ s.ctxsOn 3 15, (s.ctx c).frame = none ∧ (s.ctx c).dropping = false) ∧
    (let s := tCam { frame := some { lines := 1 } }
     1 < s.parFrame (P.inspectCtxHeight 15) ∧ Takes s F.frameShort 15 idNone ∧ Takes s F.csiPhyErr 3 idNone) := by
  unfold Takes
  decide +kernel

theorem test_wit_NoFrame :
    (let x : Ctx := { pulseAt := some 0 }
     let s := tCam x
     let s : State := { s with params := { s.params with frame := [((P.inspectCtxFrameTimeoutMs 15).id, 1), ((P.inspectCtxTrig 15).id, 0)] } }
     s.parFrame (P.inspectCtxFrameTimeoutMs 15) ≠ 0 ∧ s.parFrame (P.inspectCtxTrig 15) ≠ 0xFF ∧
       0 + s.parFrame (P.inspectCtxFrameTimeoutMs 15) * perMs ≤ (s.pass (10 * perMs)).now ∧ Takes s F.camNoFrame 15 idNone ∧ (s.pass 0).now < 0 + perSecond) := by
  unfold Takes
  decide +kernel

theorem test_wit_LongPackets :
    (let x : Ctx := { frame := some { lines := 1 } }
     let s := tCam x
     let u := (s.pass 0).drain []
     s.portOn 3 = true ∧ (s.ctxsOn 3 15).filter (fun c => s.parFrame (P.inspectCtxDataType c) == 0x2A) = [15] ∧ s.loupeOn 15 = true ∧ u.ctx 15 = x ∧
       1 < s.parFrame (P.inspectCtxHeight 15) ∧ samples 0x2A [1, 2, 3, 255] = [256, 512, 768, 65280] ∧
       ¬(1000 * x.fifo ≤ s.par P.inspectFifoPressurePm * 65536 ∧ s.par P.inspectFifoPressurePm * 65536 < 1000 * (x.fifo + 4)) ∧
       s.ctxsOn 3 15 = [15] ∧ Takes s F.lineWidth 15 idNone ∧ Takes s F.csiCrc 15 idNone ∧ Takes s F.csiHdrEcc 3 idNone) ∧
    (let s := tCam {}
     ∀ c ∈ s.ctxsOn 3 0, (0x2A : Nat) ≠ 0x12 ∧ s.parFrame (P.inspectCtxDataType c) ≠ 0x2A) ∧
    (let s := tCam { frame := some { lines := 2 } }
     s.parFrame (P.inspectCtxHeight 15) ≤ 2 ∧ Takes s F.frameLong 15 idNone) ∧
    (let s := tCam { frame := some {}, fifoL := [65529, 4] }
     (s.ctx 15).fifo = 65533 ∧ s.nextCtx (s.parFrame (P.inspectCtxPipe 15)) = some 15 ∧ (s.ctx 15).fifoL.head? = some 65529) ∧
    (let s := tCam { frame := some {}, fifoL := [65533] }
     ¬(1000 * 65533 ≤ s.par P.inspectFifoPressurePm * 65536 ∧ s.par P.inspectFifoPressurePm * 65536 < 1000 * (65533 + 4)) ∧ 65536 < 65533 + 4 ∧
       (∀ t, t < 4 → s.stream 15 t {} = none) ∧ Takes s F.frameDropped 15 idNone) := by
  unfold Takes
  decide +kernel

/-! ### Witnesses: the colour loop -/

/-- A zone of a covered bar in mode RUN. -/
def tZone (s : State) (z : Zone) (r : Bool) : State :=
  { s with loop := { s.loop with zones := [(3199, z)], bars := [(7, { mode := 2, job := some 4095, staleRec := r })] }, fire := { s.fire with next := 100000 } }

theorem test_wit_LoopCommands :
    (let c := tCmd 0x0601 (leB 1 0x80 ++ leB 3 0)
     Holds (tHold c) (.loc 0) c 0x0601 4 ∧ fld c.pay 1 3 = 0) ∧
    (let c := tCmd 0x0602 (leB 1 0x80 ++ leB 1 2 ++ leB 1 0xFF ++ leB 1 0)
     Holds (tHold c) (.loc 0) c 0x0602 4 ∧ u8 c.pay 1 = 2 ∧ u8 c.pay 2 = 0xFF ∧ u8 c.pay 3 = 0) ∧
    (let c := tCmd 0x0603 (leB 1 7 ++ leB 1 0 ++ leB 2 381 ++ leB 1 19 ++ leB 3 0)
     Holds (tHold c) (.loc 0) c 0x0603 8 ∧ u16 c.pay 2 + u8 c.pay 4 = 400 ∧ fld c.pay 5 3 = 0) ∧
    (let c := tCmd 0x0604 (leB 1 7 ++ leB 1 1 ++ leB 2 399 ++ leB 2 0xFFFF)
     Holds (tHold c) (.loc 0) c 0x0604 (4 + 2 * 1) ∧ u8 c.pay 1 = 1 ∧ u16 c.pay 2 + 1 = 400 ∧
       (signed 16 (u16 c.pay 4)).natAbs ≤ (tHold c).par P.loopZoneLimit) ∧
    (let c := tCmd 0x0605 []
     Holds (tHold c) (.loc 0) c 0x0605 0) := by
  unfold Holds
  decide +kernel

/-- A job in READY with a colour memory. -/
def tMemJob : Job := { tJob 3 with memValid := true, memory := List.replicate 16 1 }

/-- A DMA command of 12,816 bytes for job 4095. -/
def tMem (op : Nat) : Cmd :=
  { op := op, seq := 7, flags := 0x1000, pay := leB 8 0x1000 ++ leB 4 12816 ++ leB 2 1 ++ leB 2 0 ++ leB 2 4095 ++ List.replicate 14 0 }

theorem test_wit_ColourMemory :
    (let s := tWithJob (tHold (tMem 0x0606)) tMemJob
     tHoldsDma s (tMem 0x0606) 0x0606 16 ∧ HasRoom s (.loc 0) ∧ u16 (tMem 0x0606).arg 0 = 4095 ∧ fld (tMem 0x0606).arg 2 14 = 0 ∧
       (s.job 4095).memValid = true) ∧
    (({ who := .loc 0, cmd := tMem 0x0606 } : Pend).descs []).map total = some 12816 ∧
    (let s := tWithJob (tHold (tMem 0x0607)) tMemJob
     tHoldsDma s (tMem 0x0607) 0x0607 16 ∧ HasRoom s (.loc 0) ∧ 2 ≤ (s.job 4095).state ∧ (s.job 4095).state ≠ 5 ∧ (s.job 4095).state ≠ 6 ∧
       total (tL (tMem 0x0607)) = 12816) ∧
    (let s := tWithJob tReady { tMemJob with memValid := false }
     (s.job 4095).memOpen = true ∧ s.libUsed + 12816 ≤ s.libSize) ∧
    (let s := tWithJob tReady { tMemJob with memValid := false, stored := 1040000 }
     (s.job 4095).memOpen = true ∧ s.libSize < s.libUsed + 12816) := by
  unfold HasRoom tHoldsDma HoldsDma
  refine ⟨⟨by decide, ⟨_, rfl, by decide⟩, by decide⟩, by decide, ⟨by decide, ⟨_, rfl, by decide⟩, by decide, by decide, by decide, by decide⟩, by decide, by decide⟩

/-- A colour memory of zeros is well formed but for its header. -/
theorem test_memory_zeros : memoryOk (List.replicate 12816 0) = false := by decide +kernel

theorem test_wit_ZonesOfTheLoop :
    (let x : Zone := { lastEl := 4294705152 }
     let s := tZone tReady x true
     s.zone (400 * 7 + 399) = x ∧ x.stale = false ∧ x.notCov = false ∧ (s.barLoop 7).job ≠ none ∧ s.zoneMode 7 = 2 ∧
       (s.par P.loopStaleLines : Int) ≤ since s.pos x.lastEl ∧ (s.barLoop 7).staleRec = true) ∧
    ((tZone tReady {} false).barLoop 7).staleRec = false ∧ Takes (tZone tReady {} false) F.zoneStale 7 idNone ∧
    0 ≤ since (tZone tReady { ramping := true, pEnd := 100000 } true).fire.next 100000 ∧
    (let s : State := { tReady with cam := { tReady.cam with ctx := [(15, { meas := [{}] })] } }
     s.loupeOn 15 = true ∧ (s.ctx 15).meas = {} :: [] ∧ Calm s F.zoneLimit ∧ Calm s F.loopConfig ∧ Calm s F.nozzleOut ∧ Calm s F.nozzleWeak ∧
       Calm s F.checkAge ∧ Calm s F.checkSuspect) ∧
    (let x : Zone := { pEnd := 5 }
     0 ≤ since 5 x.pEnd ∧ x.acc.length + 1 < 8) ∧
    (let x : Zone := { acc := [(10, 1)] }
     let s := tZone tReady x true
     s.zoneMode 7 = 2 ∧ roundAway ((x.acc.map (fun (e : Int × Nat) => e.1 * (e.2 : Int))).sum) ((x.acc.map Prod.snd).sum : Nat) = 10 ∧
       (10 : Int).natAbs ≤ s.par P.loopZoneLimit) := by
  unfold Takes Calm
  decide +kernel

/-! ### Witnesses: memory and compression -/

/-- DDR channels in the states of a list. -/
def tDdr (l : List DdrChan) : State := { tReady with ddr := { ch := (List.range l.length).zip l } }

/-- The device with a job at the head of an engine's queue. -/
def tCodec (comp : Bool) (j : CodecJob) : State :=
  { tPend (tMem 0x1103) with chip := if comp then { comp := [j] } else { decomp := [j] } }

theorem test_wit_MemoryCommands :
    (let c := tCmd 0x1101 (leB 1 2 ++ leB 3 0)
     Holds (tHold c) (.loc 0) c 0x1101 4 ∧ u8 c.pay 0 = 2 ∧ fld c.pay 1 3 = 0) ∧
    (let c := tCmd 0x1102 (leB 1 2 ++ leB 1 0 ++ leB 2 0)
     let s : State := { tHold c with ddr := { ch := [(2, { state := 2 })] } }
     Holds s (.loc 0) c 0x1102 4 ∧ s.pwr.kind ≠ 2 ∧ u8 c.pay 0 = 2 ∧ u8 c.pay 1 = 0 ∧ u16 c.pay 2 = 0 ∧ s.trained 2 = true ∧ 0 < s.parReset P.memoryDdrRanks) ∧
    (let c := tCmd 0x1102 (leB 1 2 ++ leB 1 1 ++ leB 2 0)
     Holds (tHold c) (.loc 0) c 0x1102 4 ∧ u8 c.pay 0 = 2 ∧ u8 c.pay 1 = 1 ∧ u16 c.pay 2 = 0 ∧ (tHold c).trained 2 = false) ∧
    (let c := tCmd 0x1104 (leB 1 3 ++ leB 1 1 ++ leB 1 1 ++ leB 1 0 ++ leB 8 0x3FFFFF ++ leB 8 1)
     let s := tHold c
     Holds s (.loc 0) c 0x1104 20 ∧ HasRoom s (.loc 0) ∧ u8 c.pay 0 = 3 ∧ u8 c.pay 1 = 1 ∧ u8 c.pay 2 = 1 ∧ u8 c.pay 3 = 0 ∧ u64 c.pay 4 + u64 c.pay 12 = s.spaceSize 1 ∧
       u64 c.pay 12 = 1 ∧ (s.scanEngine 3).who = none ∧ (s.setScan 3 { who := some (.loc 1, 3) } |>.scanEngine 3).who ≠ none) := by
  unfold Holds HasRoom
  refine ⟨by decide, by decide, by decide, ⟨by decide, ⟨_, rfl, by decide⟩, by decide, by decide, by decide, by decide, by decide, by decide, by decide, by decide⟩⟩

/-- A codec command for one of the three modes. -/
def tCodecCmd (m : Nat) : Cmd := tDma 0x1103 (leB 1 m ++ leB 3 0 ++ leB 4 64 ++ leB 28 0 |>.take 32)

theorem test_wit_CodecCommands :
    (let c := tCodecCmd 0
     let s := tHold c
     tHoldsDma s c 0x1103 32 ∧ HasRoom s (.loc 0) ∧ s.pwr.kind ≠ 2 ∧ u8 c.arg 0 = 0 ∧ fld c.arg 1 3 = 0 ∧ fld c.arg 0x14 12 = 0 ∧ s.chip.decomp.length < 32) ∧
    (let c := tCodecCmd 2
     let s := tHold c
     tHoldsDma s c 0x1103 32 ∧ HasRoom s (.loc 0) ∧ s.pwr.kind ≠ 2 ∧ u8 c.arg 0 = 2 ∧ fld c.arg 1 3 = 0 ∧ u32 c.arg 0x10 = 0 ∧ fld c.arg 0x14 12 = 0 ∧ s.chip.comp.length < 32) ∧
    (let s : State := { tHold (tCodecCmd 2) with chip := { comp := List.replicate 32 {} } }
     32 ≤ s.chip.comp.length) := by
  unfold HasRoom tHoldsDma HoldsDma
  refine ⟨⟨by decide, ⟨_, rfl, by decide⟩, by decide, by decide, by decide, by decide, by decide⟩,
    ⟨by decide, ⟨_, rfl, by decide⟩, by decide, by decide, by decide, by decide, by decide, by decide⟩, by decide⟩

theorem test_wit_CodecJobs :
    (let j : CodecJob := { who := some (.loc 0, 7), mode := 1, inLen := 4 }
     let s := tCodec true j
     s.chip.comp = [j] ∧ (s.pend? (.loc 0) 7).isSome = true ∧ ((s.ses (.loc 0)).cq).isSome = true ∧ (((s.pend? (.loc 0) 7).bind (·.descs [])).map total) = some 12816 ∧
       (inflate [3, 0] 0).isSome = true ∧ (tCodec false j).chip.decomp = [j] ∧ inflate (padTo j.inLen [7]) 1 = none ∧ Takes (tCodec false j) F.codecStream 0xFFFFFFFF idCodec) ∧
    tReady.chip.comp = [] ∧ tReady.chip.decomp = [] := by
  unfold Takes
  decide +kernel

theorem test_wit_Scans :
    (let x : Scan := { who := some (.loc 0, 7), space := 1, start := 0x2FFFF, len := 1 }
     let s := (tPend (tCmd 0x1104 [])).setScan 3 x
     s.scanEngine 3 = x ∧ (s.pend? (.loc 0) 7).isSome = true ∧ ((s.ses (.loc 0)).cq).isSome = true ∧ ((s.pass 0).setScan 3 {}).scratchBytes x.start x.len = some [0] ∧
       x.start / 64 ≤ 0xBFF ∧ 0xBFF ≤ (x.start + x.len - 1) / 64 ∧ Takes s F.scratchEcc (64 * 0xBFF) (idScan + 3) ∧ Takes s F.scanPoison 3 (idScan + 3)) ∧
    (let x : Scan := { who := some (.loc 0, 7), space := 0, start := 0, len := 64 }
     x.space ≠ 1 ∧ tReady.offlineIn (x.start / 64) ((x.start + x.len - 1) / 64) = none) ∧
    tReady.scratchBytes 0x8800 1 = none ∧ tReady.scratchBytes 0x7FFF 1 = some [0] ∧ tReady.scratchBytes 0x7FFF 2 = none ∧ Takes tReady F.secureScratchDenied 0 0x21 ∧ (0x21 : BitVec 8).toNat ≠ idFender ∧ (tReady.scanEngine 3).who = none := by
  unfold Takes
  decide +kernel

/-- A read and the write it waits on, both of granule 5 of channel 0. -/
def tReqs : List DdrReq := [{ port := 8, granule := 5, write := true, part := true }, { port := 11, granule := 5, who := some (.loc 0, 7) }]

theorem test_wit_DdrQueue :
    (let s := tDdr [{ state := 2 }]
     let u := (s.pass 100).enter 0 tReqs
     let e : DdrReq × Nat := ({ port := 11, granule := 5, who := some (.loc 0, 7) }, 100)
     s.trained 0 = true ∧ (u.issueRead 4 0).2 = some e ∧ ((u.issueRead 4 0).1.chan 0).state ≠ 4 ∧ ((u.issueRead 4 0).1.chan 0).reqs = [] ∧
       u.drains 0 = true ∧ (u.reqChoices 0).length = 1 ∧ (u.nextReq 0).isSome = true ∧ (u.chan 0).streak < 4) ∧
    ((tDdr [{ state := 2 }]).issueRead 0 0).2 = none ∧
    (let s := (tDdr [{ state := 2 }]).enter 0 [{ port := 8, granule := 1 }, { port := 8, granule := 2 ^ 20 }]
     let h : State := s.setChan 0 { s.chan 0 with rows := [s.reqRow { port := 8, granule := 2 ^ 20 }] }
     (h.nextReq 0).map (fun e => e.1.granule) = some (2 ^ 20) ∧
       ((h.setChan 0 { h.chan 0 with streak := 4 }).nextReq 0).map (fun e => e.1.granule) = some 1) ∧
    ((tDdr [{ state := 2 }]).enter 0 ((List.range 48).map (fun i => { port := 8, granule := i, write := true }) ++ [{ port := 8, granule := 99 }])).drains 0 = true ∧
    ((tDdr [{ state := 2 }]).enter 0 ((List.range 47).map (fun i => { port := 8, granule := i, write := true }) ++ [{ port := 8, granule := 99 }])).drains 0 = false := by
  decide +kernel

theorem test_wit_DdrReads :
    (let s := tDdr [{ state := 2 }]
     s.trained 0 = true ∧ 2000 ≤ 2 * s.portTarget 8 ∧ (s.chan 0).state ≠ 4 ∧ Takes s F.ddrEccCorr 5 0x20 ∧ Takes s F.ddrEccReread 5 0x20 ∧ Takes s F.ddrEccPoison 5 0x20) ∧
    (let s : State := { tPend (tMem 0x1103) with ddr := { ch := [(0, { state := 2 })] } }
     (s.pend? (.loc 0) 7).isSome = true ∧ ((s.ses (.loc 0)).cq).isSome = true) ∧
    (let s : State := { tHold (tMem 0x0606) with ddr := { ch := [(0, { state := 2 })] } }
     s.pend? (.loc 0) 7 = none ∧ (s.ses (.loc 0)).cmd = some (tMem 0x0606)) ∧
    (let s := tDdr [{ state := 2 }]
     2 * s.portTarget 8 < 10 ^ 9 ∧ look s.ddr.lateAt 8 = none ∧ Takes s F.ddrQosLate 8 idNone) ∧
    (let s : State := { tReady with ddr := { ch := [(0, { state := 2 })], lateAt := [(8, 0)] } }
     look s.ddr.lateAt 8 = some 0 ∧ (s.pass 624999999).now < perSecond ∧ perSecond ≤ (s.pass 625000000).now) ∧
    (tDdr [{ state := 3 }]).trained 0 = false := by
  unfold Takes
  decide +kernel

theorem test_wit_DdrAlerts :
    (let s := tDdr [{}, {}, { state := 2, caFails := 1, crcFails := 2 }]
     (s.chan 2).state = 2 ∧ (s.chan 2).caFails + 1 < 3 ∧ 3 ≤ (s.chan 2).crcFails + 1 ∧ Takes s F.ddrCaParity 2 idNone ∧ Takes s F.ddrChannelOffline 2 idNone ∧
       (s.src F.ddrChannelOffline).conds.contains (BitVec.ofNat 32 2) = false ∧ (s.chan 1).state ≠ 2) ∧
    (let s : State := { tDdr [{ state := 2, caFails := 2 }] with params := { reset := [(P.memoryDdrWriteCrc.id, 1)] } }
     3 ≤ (s.chan 0).caFails + 1 ∧ s.parReset P.memoryDdrWriteCrc ≠ 0 ∧ (s.chan 0).crcFails + 1 < 3 ∧ Takes s F.ddrWriteCrc 0 idNone) := by
  unfold Takes
  decide +kernel

theorem test_wit_DdrRefresh :
    (let s := tDdr [{ state := 2 }]
     (s.chan 0).state = 2 ∧ 0 < s.parReset P.memoryDdrRanks ∧ 1 < s.parReset P.memoryDdrRanks ∧ 2 ≤ s.urgency 8 (10 ^ 9) ∧ s.urgency 8 0 < 2) ∧
    (tReady.ddr.tempNext ≤ (tReady.pass 0).now ∧ Calm tReady F.ddrTempStale ∧ Calm tReady F.ddrOvertemp ∧ Calm tReady F.ddrRefreshDouble ∧ tReady.par P.memoryDdrTempSensor = 0xFF) ∧
    (let s : State := { tBoard 0 with params := { acc := [((P.manageBoardConfig 63).id, 2 ^ 31 + 2 * 2 ^ 12), (P.memoryDdrTempSensor.id, 63)] } }
     s.par P.memoryDdrTempSensor ≠ 0xFF ∧ (s.boardTemp 63).isSome = true) ∧
    (let s : State := { tReady with params := { acc := [(P.memoryDdrTempSensor.id, 63)] } }
     s.par P.memoryDdrTempSensor ≠ 0xFF ∧ s.boardTemp 63 = none ∧ (s.pass 62499999).now < 100 * perMs ∧ 100 * perMs ≤ (s.pass 62500000).now) ∧
    (let s : State := { tDdr [{ state := 2 }] with params := { acc := [(P.memoryDdrScrubHours.id, 24)] } }
     s.par P.memoryDdrScrubHours ≠ 0 ∧ s.ddr.scrubNext ≤ (s.pass 0).now ∧ Takes s F.ddrEccCorr 0 idNone ∧ Takes s F.ddrEccPoison 0 idNone) ∧
    (let s : State := { tReady with params := { acc := [(P.memoryDdrScrubHours.id, 0)] } }
     s.par P.memoryDdrScrubHours = 0) ∧
    (let s : State := { tReady with ddr := { ch := [(0, { state := 2, refDue := [(0, 78000)] })], tempNext := 6250000, scrubNext := 6250000 } }
     16 * (s.pass 4874).now < sel (s.chan 0).refDue 0 0 ∧ sel (s.chan 0).refDue 0 0 ≤ 16 * (s.pass 4875).now ∧ (s.pass 0).now < s.ddr.tempNext ∧
       (s.pass 0).now < s.ddr.scrubNext) ∧
    (∃ c, c < 3 ∧ (tDdr [{ state := 4 }]).trained c = true) := by
  unfold Takes Calm
  refine ⟨by decide +kernel, by decide +kernel, ⟨by decide +kernel, ?_⟩, by decide +kernel, by decide +kernel, by decide +kernel, by decide +kernel, ⟨0, by decide +kernel, by decide +kernel⟩⟩
  unfold State.boardTemp
  rw [if_pos (by decide +kernel)]
  rfl

theorem test_wit_AddressMap :
    (tDdr [{ state := 2 }]).trainedList ≠ [] ∧ 0 < (tDdr [{ state := 2 }]).chanGranules := by decide +kernel

/-! ### Witnesses: the fault collector -/

/-- A device in READY whose collector holds some state. -/
def tFault (f : Faults) : State := { tReady with faults := { f with on := true } }

/-- The same with a command in slot 0. -/
def tFaultCmd (f : Faults) (c : Cmd) : State := { tHold c with faults := { f with on := true } }

theorem test_wit_FaultHits :
    ((fsrc? 1).isSome = true ∧ tReady.faults.fer.valid = false ∧ tReady.faults.on = true) ∧
    (let s := tFault { fer := { valid := true, source := 2 } }
     s.faults.fer.valid = true ∧ s.faults.fer.atT = (s.pass 0).now ∧ 1 < s.faults.fer.source ∧ s.reaction 1 ≠ 0 ∧ s.shadowed 1 0 0xFF = false) ∧
    ((fsrc? 0x1FF).isSome = false) := by decide +kernel

theorem test_wit_FaultRecord :
    (let s := tFault { fer := { valid := true, source := 2 } }
     Counted s (s.react 1 0 0 0) 1 0 0 0 ∧ s.reaction 1 ≠ 0 ∧ s.faults.fer.valid = true ∧ s.faults.fer.atT = s.now) ∧
    (let s := tFault { fer := { valid := true, source := 2, atT := 5 } }
     Counted s (s.react 1 0 0 0) 1 0 0 0 ∧ s.reaction 1 ≠ 0 ∧ s.faults.fer.valid = true ∧ s.faults.fer.atT ≠ s.now) :=
  ⟨⟨react_counted _ _ _ _ _, by decide +kernel, by decide +kernel, by decide +kernel⟩, ⟨react_counted _ _ _ _ _, by decide +kernel, by decide +kernel, by decide +kernel⟩⟩

theorem test_wit_ResetsAndShadows :
    (let s := tFault { shadows := [{ block := 1 }] }
     s.inReset 1 = true ∧ 1 ∉ s.faults.heldR) ∧
    (let s := tFault { shadows := [{ block := 15 }] }
     s.inReset (8 + 7) = true ∧ 8 + 7 ∉ s.faults.heldR ∧ (s.grate 7).want = []) ∧
    (let s : State := { tFault { shadows := [{ block := 8 }] } with grates := [(0, { want := [1] })] }
     s.inReset (8 + 0) = true ∧ 8 + 0 ∉ s.faults.heldR ∧ (s.grate 0).want ≠ []) ∧
    (tReady.inReset 1 = false ∧ 1 ∈ (tFault { heldR := [1] }).faults.heldR) ∧
    (let s := tFault { shadows := [{ block := 1, ends := some 0 }] }
     s.faults.shadows.find? (fun h => h.block == 1 && h.finished (s.pass 0).now) = some { block := 1, ends := some 0 } ∧
       (∀ e ∈ s.faults.src, ∀ a ∈ e.2.conds, (s.pass 0).covers { block := 1, ends := some 0 } e.1 a.toNat idNone = false)) ∧
    (let s := tFault { shadows := [{ block := 40, ends := some 0 }], src := [(0x053, { conds := [0] })] }
     s.faults.shadows.find? (fun h => h.block == 40 && h.finished (s.pass 0).now) = some { block := 40, ends := some 0 } ∧
       (s.pass 0).covers { block := 40, ends := some 0 } 0x053 0 idNone = true) ∧
    (tReady.faults.shadows.find? (fun h => h.block == 1 && h.finished (tReady.pass 0).now) = none) := by decide +kernel

theorem test_wit_FaultStatus :
    (let c := tCmd 0x0C01 (leB 1 16 ++ leB 3 0 ++ (List.range 16).flatMap (fun k => leB 2 (511 - k)))
     Holds (tHold c) (.loc 0) c 0x0C01 (4 + 2 * 16) ∧ (tHold c).pwr.kind ≠ 2 ∧ u8 c.pay 0 = 16 ∧ fld c.pay 1 3 = 0 ∧
       (∀ x ∈ (List.range 16).map (fun k => u16 c.pay (4 + 2 * k)), x < 512)) := by
  unfold Holds
  decide +kernel

theorem test_wit_FaultClear :
    (let c := tCmd 0x0C02 (leB 64 2)
     let s := tFaultCmd { src := [(1, { sticky := true })] } c
     Holds s (.loc 0) c 0x0C02 64 ∧ s.pwr.kind ≠ 2 ∧ (∀ n, n < 512 → bit (fld c.pay 0 64) n = true → PlainSource s n) ∧ Clears s 1 false) := by
  unfold Holds PlainSource Clears
  decide +kernel

theorem test_wit_FaultRearm :
    (let c := tCmd 0x0C03 []
     Holds (tHold c) (.loc 0) c 0x0C03 0) := by
  unfold Holds
  decide +kernel

theorem test_wit_FaultReactionRead :
    (let c := tCmd 0x0C04 (leB 1 0 ++ leB 1 56 ++ leB 2 0 ++ (List.range 56).flatMap (fun k => leB 4 (511 - k)))
     Holds (tHold c) (.loc 0) c 0x0C04 (4 + 4 * 56) ∧ u8 c.pay 0 = 0 ∧ u8 c.pay 1 = 56 ∧ u16 c.pay 2 = 0 ∧
       (∀ k, k < 56 → u16 c.pay (4 + 4 * k) < 512 ∧ u8 c.pay (6 + 4 * k) = 0 ∧ u8 c.pay (7 + 4 * k) = 0)) := by
  unfold Holds
  decide +kernel

theorem test_wit_FaultReactionWrite :
    (let c := tCmd 0x0C04 (leB 1 1 ++ leB 1 1 ++ leB 2 0 ++ leB 2 1 ++ leB 1 8 ++ leB 1 0)
     Holds (tHold c) (.loc 0) c 0x0C04 8 ∧ u8 c.pay 0 = 1 ∧ u8 c.pay 1 = 1 ∧ u16 c.pay 2 = 0 ∧ u16 c.pay 4 = 1 ∧ u8 c.pay 6 = 8 ∧ u8 c.pay 7 = 0 ∧
       reactionOk 1 8 = true ∧ (tHold c).reactionDenied 1 8 = false) := by
  unfold Holds
  decide +kernel

theorem test_wit_FaultReactionBad :
    (let c := tCmd 0x0C04 (leB 1 1 ++ leB 1 1 ++ leB 2 0 ++ leB 2 1 ++ leB 1 9 ++ leB 1 0)
     Holds (tHold c) (.loc 0) c 0x0C04 (4 + 4 * 1) ∧ u8 c.pay 0 = 1 ∧ u8 c.pay 1 = 1 ∧ u16 c.pay 2 = 0 ∧
       reactionOk (u16 c.pay (4 + 4 * 0)) (u8 c.pay (6 + 4 * 0)) = false) := by
  unfold Holds
  decide +kernel

theorem test_wit_FaultInject :
    (let c := tCmd 0x0C05 (leB 2 1 ++ leB 2 0 ++ leB 4 0xFFFFFFFF)
     Holds (tHold c) (.loc 0) c 0x0C05 8 ∧ u16 c.pay 0 = 1 ∧ (fsrc? 1).isSome = true ∧ u16 c.pay 2 = 0 ∧ (tHold c).injectDenied = false) := by
  unfold Holds
  decide +kernel

theorem test_wit_FaultFsum :
    (let s := tFault { src := [(511, { sticky := true })] }
     s.windowOpen = true ∧ (∀ j, j < 32 → (0x80000000#32).getLsbD j = true → PlainSource s (32 * 15 + j)) ∧ Clears s (32 * 15 + 31) ((0#32).getLsbD 31)) := by
  unfold PlainSource Clears
  decide +kernel

theorem test_wit_FaultFsumClosed :
    (({ tReady with host := { flr := true } } : State).windowOpen = false) := by
  decide +kernel

theorem test_wit_SpecialSources :
    (let c := tCmd 0x0C02 (leB 64 (2 ^ F.encWire))
     let s := { tFaultCmd { src := [(F.encWire, { sticky := true })] } c with motion := { tReady.motion with enc := [(0, { failed := true })] } }
     Holds s (.loc 0) c 0x0C02 64 ∧ F.encWire < 512 ∧ fld c.pay 0 64 = 2 ^ F.encWire ∧ Clears s F.encWire false ∧ isFbStop F.encWire = false ∧ Calm s F.encLost ∧
       (0, ({ failed := true } : Enc)) ∈ s.motion.enc) ∧
    (let c := tCmd 0x0C02 (leB 64 (2 ^ F.fbActiveHb))
     let s := { tFaultCmd { src := [(F.fbActiveHb, { sticky := true, unit := some 1 })] } c with fb := { tReady.fb with stB := 5 } }
     Clears s F.fbActiveHb false ∧ isFbStop F.fbActiveHb = false ∧ F.fbActiveHb ≠ F.encWire ∧ (s.src F.fbActiveHb).unit = some 1 ∧ s.fb.st 1 = 5) ∧
    (let c := tCmd 0x0C02 (leB 64 (2 ^ F.faultResetLimit))
     let s := tFaultCmd { src := [(F.faultResetLimit, { sticky := true })], heldR := [1], shadows := [{ block := 1 }] } c
     fld c.pay 0 64 = 2 ^ F.faultResetLimit ∧ Clears s F.faultResetLimit false) ∧
    (let c := tCmd 0x0C02 (leB 64 (2 ^ F.fbNoStandby))
     let s := { tFaultCmd { src := [(F.fbNoStandby, { sticky := true, hold := true })] } c with fb := { tReady.fb with halted := true } }
     Holds s (.loc 0) c 0x0C02 64 ∧ fld c.pay 0 64 = 2 ^ F.fbNoStandby ∧ Clears s F.fbNoStandby false ∧ isFbStop F.fbNoStandby = true ∧ s.fb.halted = true ∧
       SMapWf s.faults.src ∧ (∀ e ∈ s.faults.src, e.1 ≠ F.fbNoStandby → isFbStop e.1 = true → e.2.hold = false)) := by
  unfold Holds Clears Calm SMapWf
  decide +kernel

theorem test_wit_Rearm :
    let s : State := { tReady with faults := { on := true, fer := { valid := true, source := 40, cons := 3 } } }
    s.windowOpen = true ∧ (1 : BitVec 32).getLsbD 0 = true ∧ (fsrc? F.lineSkip).isSome = true ∧ s.faults.on = true ∧ s.reaction F.lineSkip ≠ 0 ∧ s.reaction F.lineSkip ≠ 6 ∧ s.reaction F.lineSkip ≠ 7 ∧
      s.rearm.shadowed F.lineSkip 0 0 = false := by decide +kernel

/-! ### Witnesses: log, update and security -/

/-- A device in a life-cycle state with a command in slot 0. -/
def tLife (lc : Nat) (c : Cmd) : State := { tHold c with otp := { lc := lc } }

/-- An image whose header verifies, of secver 6. -/
def tFw : Image := { bytes := (List.range 32).zip (leB 4 0x46574741 ++ leB 2 1 ++ leB 2 3 ++ leB 4 0x020400 ++ leB 2 6 ++ leB 2 0 ++ leB 4 0 ++ leB 12 0), len := 128, verified := 1 }

/-- An open update of image B. -/
def tUpdate (s : State) : State := { s with mgmt := { upd := { state := 1, img := 1, len := 300, who := some (.loc 0) } }, flash := { imgB := { tFw with verified := 2 } } }

theorem test_wit_LogCommands :
    (let c := tCmd 0x0D01 (leB 4 0xFFFFFFFF ++ leB 1 1 ++ leB 1 7 ++ leB 2 0)
     let s : State := { tHold c with flash := { log := [{ seq := 0 }, { seq := 0xFFFFFFFF }, { seq := 0xFFFFFFFE }] } }
     Holds s (.loc 0) c 0x0D01 8 ∧ s.pwr.kind ≠ 2 ∧ u32 c.pay 0 = 0xFFFFFFFF ∧ u8 c.pay 4 = 1 ∧ u8 c.pay 5 = 7 ∧ u16 c.pay 6 = 0 ∧
       ((s.flash.log.reverse.filter (fun e => le32 0xFFFFFFFF e.seq.toNat)).take 7).map LogEntry.seq = [0xFFFFFFFF, 0]) ∧
    (let c := tCmd 0x0D02 []
     Holds (tHold c) (.loc 0) c 0x0D02 0 ∧ (tHold c).mgmt.log = [] ∧ (tHold c).flash.log = []) ∧
    (let c := tCmd 0x0D03 (leB 8 5)
     Holds (tHold c) (.loc 0) c 0x0D03 8) ∧
    (let s : State := { tReady with mgmt := { uncop := 1, lostNow := 3 } }
     s.mgmt.upd.erasing = false ∧ s.mgmt.uncop ≠ 0 ∧ s.mgmt.lostNow ≠ 0 ∧ Takes s F.logFlash 0 idStoker) := by
  unfold Holds Takes
  decide +kernel

theorem test_wit_Updates :
    (let c := tCmd 0x0E01 (leB 1 1 ++ leB 3 0 ++ leB 4 7864320)
     Holds (tHold c) (.loc 0) c 0x0E01 8 ∧ HasRoom (tHold c) (.loc 0) ∧ (tHold c).otp.lc ≠ 4 ∧ u8 c.pay 0 = 1 ∧ fld c.pay 1 3 = 0 ∧ u32 c.pay 4 = 7864320 ∧
       ((tHold c).flash.img 1).running = false ∧ (tHold c).mgmt.upd.state ≠ 1 ∧ (tUpdate (tHold c)).mgmt.upd.state = 1) ∧
    (let s := tUpdate (tPend (tCmd 0x0E01 []))
     (s.pend? (.loc 0) 7).isSome = true ∧ (∃ q, (s.ses (.loc 0)).cq = some q) ∧ s.mgmt.upd.img = 1) ∧
    (let c := tCmd 0x0E02 (leB 4 76 ++ leB 2 224 ++ leB 2 0 ++ leB 224 1)
     let s := tUpdate (tHold c)
     Holds s (.loc 0) c 0x0E02 (8 + 224) ∧ u16 c.pay 4 = 224 ∧ u16 c.pay 6 = 0 ∧ s.mgmt.upd.state = 1 ∧ u32 c.pay 0 + 224 = s.mgmt.upd.len) ∧
    (let c := tDma 0x0E02 (leB 4 236 ++ leB 12 0)
     tHoldsDma (tUpdate (tHold c)) c 0x0E02 16 ∧ fld c.arg 4 12 = 0 ∧ u32 c.arg 0 + total (tL c) = 300) ∧
    (let s := tUpdate (tPend (tDma 0x0E02 (leB 4 236 ++ leB 12 0)))
     (s.pend? (.loc 0) 7).isSome = true ∧ (((s.pend? (.loc 0) 7).bind (·.dataIn [] [5])).map List.length) = some 64) ∧
    (let c := tCmd 0x0E03 []
     Holds (tUpdate (tHold c)) (.loc 0) c 0x0E03 0 ∧ (tHold c).mgmt.upd.state ≠ 1) ∧
    (let s := tUpdate (tPend (tCmd 0x0E03 []))
     (s.pend? (.loc 0) 7).isSome = true ∧ s.headerVerifies (s.flash.img 1) = true ∧ s.headerVerifies {} = false ∧ Takes s F.updateVerify 0 idStoker) := by
  unfold HasRoom tHoldsDma HoldsDma
  refine ⟨⟨by unfold Holds; decide +kernel, ⟨_, rfl, by decide⟩, by decide +kernel⟩, ⟨by decide +kernel, ⟨_, rfl⟩, by decide +kernel⟩, by unfold Holds; decide +kernel,
    by decide +kernel, by decide +kernel, by unfold Holds; decide +kernel, by unfold Takes; decide +kernel⟩

theorem test_wit_UpdateDirectory :
    (let c := tCmd 0x0E04 (leB 1 1 ++ leB 3 0)
     let s : State := { tHold c with flash := { imgB := tFw } }
     Holds s (.loc 0) c 0x0E04 4 ∧ u8 c.pay 0 = 1 ∧ fld c.pay 1 3 = 0 ∧ (s.flash.img 1).running = false ∧ (s.flash.img 1).verified = 1 ∧
       s.headerVerifies (s.flash.img 1) = true) ∧
    (let c := tCmd 0x0E06 []
     Holds (tUpdate (tHold c)) (.loc 0) c 0x0E06 0 ∧ (tUpdate (tHold c)).mgmt.upd.state = 1) ∧
    (let c := tCmd 0x0E07 []
     Holds (tHold c) (.loc 0) c 0x0E07 0 ∧ (tHold c).running = none) ∧
    (let c := tCmd 0x0E05 []
     let s : State := { tHold c with flash := { imgB := { tFw with running := true }, dir0 := some { gen := 4, preferred := 1, mode := 1 }, dir1 := some { gen := 3 } } }
     Holds s (.loc 0) c 0x0E05 0 ∧ s.running = some (1, s.flash.imgB) ∧ leN (memReadN s.flash.imgB.bytes 0x0C 2) = 6 ∧ s.flash.dirNow.mode = 1 ∧ s.flash.dirNow.preferred = 1 ∧
       s.otp.rollback < 6) ∧
    (let s : State := { tReady with flash := { imgB := { tFw with running := true } }, otp := { rollback := 6 } }
     s.running = some (1, s.flash.imgB) ∧ s.flash.dirNow.mode ≠ 1 ∧ 6 ≤ s.otp.rollback) := by
  unfold Holds
  decide +kernel

/-- A token of the device of serial 0 with the nonce 9. -/
def tToken (scope : Nat) : Bytes := leB 8 0 ++ leB 16 9 ++ leB 6 100 ++ leB 1 scope ++ leB 1 3 ++ leB 64 0

theorem test_wit_Secure :
    (let c := tCmd 0x0F01 []
     Holds (tHold c) (.loc 0) c 0x0F01 0) ∧ (let c := tCmd 0x0F02 []
     Holds (tHold c) (.loc 0) c 0x0F02 0) ∧
    (let c := tCmd 0x0F03 (tToken 31)
     let s : State := { tHold c with sec := { nonce := some (9, 5) } }
     Holds s (.loc 0) c 0x0F03 96 ∧ u8 c.pay 0x1E = 31 ∧ s.now + 0 < 5 ∧ fld c.pay 8 16 = (9 : BitVec 128).toNat ∧ u32 c.pay 0 = s.otp.serial.toNat / 2 ^ 32 ∧
       u32 c.pay 4 = s.otp.serial.toNat % 2 ^ 32 ∧ (s.pass 0).devSec < fld c.pay 0x18 6 ∧ u8 c.pay 0x1F < 4 ∧ s.otp.revoked.getLsbD (u8 c.pay 0x1F) = false ∧ s.otp.lc ≠ 4 ∧
       Takes s F.unlockFail 0 idFender) ∧
    (let c := tCmd 0x0F03 (tToken 31)
     (tHold c).sec.nonce = none ∧ Takes (tHold c) F.unlockFail 0 idFender) := by
  unfold Holds Takes
  refine ⟨by decide +kernel, by decide +kernel, by decide +kernel, by decide +kernel⟩

theorem test_wit_SecureSteps :
    (let c := tCmd 0x0F04 []
     let s : State := { tHold c with sec := { scope := 1 } }
     Holds s (.loc 0) c 0x0F04 0 ∧ s.sec.scope ≠ 0) ∧
    (let c := tCmd 0x0F05 (leB 1 3 ++ leB 3 0 ++ leB 4 1)
     let s : State := { tLife 2 c with sec := { scope := 8 } }
     Holds s (.loc 0) c 0x0F05 8 ∧ u8 c.pay 0 = 3 ∧ fld c.pay 1 3 = 0 ∧ s.otp.lc = 2 ∧ s.sec.scope.testBit 3 = true) ∧
    (let c := tCmd 0x0F05 (leB 1 4 ++ leB 3 0 ++ leB 4 0)
     Holds (tLife 0 c) (.loc 0) c 0x0F05 8 ∧ u8 c.pay 0 = 4 ∧ (tLife 0 c).otp.lc ≠ 4 ∧ u32 c.pay 4 = (tLife 0 c).otp.serial.toNat % 2 ^ 32) ∧
    (let c := tCmd 0x0F06 (leB 1 15 ++ leB 63 0)
     Holds (tLife 2 c) (.loc 0) c 0x0F06 64 ∧ u8 c.pay 0 = 15 ∧ fld c.pay 1 3 = 0 ∧ (tLife 2 c).otp.lc = 2 ∧ (tLife 2 c).vbat.tampered = false ∧ Takes (tLife 2 c) F.keyUnwrap 0 idFender) := by
  unfold Holds Takes
  decide +kernel

theorem test_wit_Tampered :
    (let c := tCmd 0x0F06 (leB 1 15 ++ leB 63 0)
     let s : State := { tHold c with vbat := { tampered := true } }
     s.vbat.tampered = true ∧ Holds s (.loc 0) c 0x0F06 64 ∧ s.pwr.kind ≠ 2 ∧ u8 c.pay 0 < 16 ∧ fld c.pay 1 3 = 0) ∧
    (let s : State := { tPend (tCmd 0x0204 []) with vbat := { tampered := true }, lib := { dir := [(0, { tJob 3 with flags := 1 })] } }
     (s.pend? (.loc 0) 7).isSome = true ∧ ((s.ses (.loc 0)).cq).isSome = true ∧ (s.pend? (.loc 0) 7).map (fun p => p.obj.toNat) = some 0 ∧ (s.job 0).encrypted = true) ∧
    (let c := tCmd 0x0F07 []
     let s : State := { tLife 2 c with vbat := { tampered := true }, sec := { scope := 16 } }
     Holds s (.loc 0) c 0x0F07 0 ∧ s.otp.lc = 2 ∧ s.sec.scope.testBit 4 = true ∧ (tLife 2 c).sec.scope.testBit 4 = false ∧ (tLife 3 c).otp.lc = 3) := by
  unfold Holds
  decide +kernel

theorem test_wit_Trips :
    (let s : State := { tReady with vbat := { cfg := [((P.secureTamperEnable 3).id, 1), (P.secureMeshEnable.id, 1)] }, chip := { wiping := true } }
     s.tamperOn 4 = true ∧ s.tamperOn 3 = true ∧ s.tamperOn 0 = false ∧ s.tamperTrips 4 false 2 = true ∧ s.tamperTrips 4 false 1 = false ∧
       s.tamperTrips 3 false 16 = true ∧ s.tamperTrips 3 false 15 = false ∧ s.tamperTrips 3 true 255 = false ∧ s.vbat.valid = true ∧ s.pwr.rails = true ∧ s.pwr.kind = 1 ∧ Takes s F.tamper 4 idFender ∧
       s.host.pends = []) ∧
    (let s : State := { State.reset with vbat := { cfg := [((P.secureTamperEnable 3).id, 1)] }, pwr := { rails := false } }
     s.tamperOn 3 = true ∧ s.vbat.valid = true ∧ s.pwr.rails = false ∧ State.reset.pwr.rails = true ∧ State.reset.pwr.kind = 0 ∧ State.reset.pwr.stage < 7) ∧
    (let s : State := { tReady with sec := { scope := 1 } }
     s.sec.expiry ≤ (s.pass 0).devSec ∧ s.sec.scope ≠ 0) := by
  unfold Takes
  decide +kernel

/-! ### Witnesses: power and KINDLING -/

/-- A device in KINDLING whose last completed stage is `n`. -/
def tStage (n : Nat) : State := { pwr := { porst := true, stage := n, trimSteps := 16 }, clk := { run := true }, faults := { on := true } }

/-- An image whose header verifies. -/
def tImg : Image := { bytes := [(0, 0x41), (1, 0x47), (2, 0x57), (3, 0x46), (4, 1)], len := 128, verified := 1 }

/-- The sweep of R406's example. -/
def tSweep : List Bool := List.replicate 18 false ++ List.replicate 30 true ++ [false, true]

/-- A trained channel. -/
def tTrained (n : Nat) : TrainFate := .trained (List.replicate n { read := List.replicate 40 true, write := List.replicate 40 true })

/-- R406: a sweep that passes from step 18 to step 47 has a width of 30 and a delay of 32. -/
theorem test_eye : eyeOf tSweep = (18, 30) ∧ eyeDelay (eyeOf tSweep) = 32 := by decide +kernel

theorem test_wit_PowerAndClock :
    (({} : State).pwr.porst = false ∧ ({} : State).pwr.rails = true ∧ 625 ≤ 2 * perMs) ∧ tReady.pwr.porst = true ∧ tReady.pwr.rails = true ∧
    ({ pwr := { rails := false } } : State).pwr.rails = false ∧ tReady.clk.run = true ∧
    (let s : State := { tStage 3 with clk := {} }
     s.clk.run = false ∧ s.pwr.porst = true ∧ 3 ≤ s.pwr.stage ∧ Takes s F.tclkUnlock 0 idNone) := by
  unfold Takes; decide

theorem test_wit_KindlingStages :
    (let s : State := { tStage 3 with flash := { imgA := tImg } }
     s.atStage 3 = true ∧ s.flash.dirNow.mode = 0 ∧ s.flash.dirNow.preferred = 0 ∧ s.imageState (s.flash.img 0) true = 1) ∧
    ((tStage 3).atStage 3 = true ∧ (tStage 3).imageState (tStage 3).flash.imgA true ≠ 1 ∧ (tStage 3).imageState (tStage 3).flash.imgB true ≠ 1) ∧
    ((tStage 4).atStage 4 = true ∧ (tStage 4).trimOk = true ∧ 770 ≤ (tStage 4).parReset P.manageVcoreStartMv + 10 ∧
      (tStage 4).parReset P.manageVcoreStartMv ≤ 770 + 10) ∧
    ((tStage 5).atStage 5 = true ∧ (tStage 5).parReset (P.memoryChEnable 2) ≠ 0 ∧ (tStage 5).trainsOk (tTrained 18) = true ∧
      2 * (tStage 5).parReset P.memoryDdrMinEyeSteps ≤ 40) ∧
    (let s : State := { tStage 6 with ddr := { ch := [(0, { state := 2 }), (1, { state := 2 })] } }
     s.atStage 6 = true ∧ s.vbat.valid = true ∧ s.vbat.lcMirror = s.otp.lc ∧ s.vbat.banked = false ∧ s.vbat.tripKind = false ∧ s.otp.lcPart = false ∧
       s.pwr.fbNew = false ∧ s.pwr.pmbFail = false ∧
       s.parReset P.hostJobLibraryMb + s.parReset P.hostJobStageMb ≤ s.dramGb * 1024 - 2048) ∧
    (tStage 7).atStage 7 = true ∧ ((tStage 8).atStage 8 = true ∧ trimStepCount ≤ (tStage 8).pwr.trimSteps) := by
  decide +kernel

/-! ### Witnesses: parameters -/

/-- A PARAM write of one member. -/
def tWrite (id v : Nat) : Cmd := tCmd 0x0402 (leB 1 1 ++ leB 3 0 ++ leB 4 id ++ leB 4 v)

theorem test_wit_ParamReadsAndWrites :
    (let c := tCmd 0x0401 (leB 1 29 ++ leB 3 0 ++ (List.replicate 29 (leB 4 0x31100002)).flatten)
     Holds (tHold c) (.loc 0) c 0x0401 (4 + 4 * 29) ∧ u8 c.pay 0 = 29 ∧ fld c.pay 1 3 = 0 ∧
       ∀ i ∈ (List.range 29).map (fun k => u32 c.pay (4 + 4 * k)), (pRow? i).isSome = true) ∧
    (let c := tWrite 0x31100002 15
     let s := (tHold c).pass 1
     Holds (tHold c) (.loc 0) c 0x0402 12 ∧ u8 c.pay 0 = 1 ∧ fld c.pay 1 3 = 0 ∧ members 1 (c.pay.drop 4) = [(0x31100002, 15)] ∧
       s.firstFailure (s.acceptAll [(0x31100002, 15)]) 0 [(0x31100002, 15)] = none ∧
       s.memberFails (s.acceptValue 0x31100002 15) 0x31100002 15 = none ∧ pClass 0x31100002 = .line ∧ isMinRatio 0x31100002 = false ∧
       ctxOfParam 0x31100002 = none ∧ s.paramRead 0x31100002 ≠ 15 ∧ s.deafTo 0x31100002 = false) ∧
    (let c := tWrite 0x31100002 16
     let s := (tHold c).pass 1
     Holds (tHold c) (.loc 0) c 0x0402 12 ∧ s.firstFailure (s.acceptAll [(0x31100002, 16)]) 0 [(0x31100002, 16)] = some (0, St.badParam)) ∧
    (let c := tWrite 0x20200003 0
     let s := (tHold c).pass 1
     Holds (tHold c) (.loc 0) c 0x0402 12 ∧ s.memberFails (s.acceptValue 0x20200003 0) 0x20200003 0 = none ∧ pClass 0x20200003 ≠ .line ∧
       s.paramRead 0x20200003 = 0) := by
  unfold Holds
  decide +kernel

theorem test_wit_ParamDeaf :
    let id := (P.rasterBarSlotMask 7).id
    let c := tCmd 0x0401 (leB 1 1 ++ leB 3 0 ++ leB 4 id)
    let s : State := { tHold c with grates := [(7, { stopped := true })] }
    Holds s (.loc 0) c 0x0401 8 ∧ u8 c.pay 0 = 1 ∧ fld c.pay 1 3 = 0 ∧ (pRow? id).isSome = true ∧ [id].find? (fun i => (s.pass 1).deafTo i) = some id ∧
      Takes s F.flueTimeout id (Sess.initiator (.loc 0)) ∧
      (let s := (s.pass 1); s.firstFailure (s.acceptAll [(id, 0)]) 0 [(id, 0)] = none ∧ [(id, 0)].findIdx? (fun m => s.deafTo m.1) = some 0) ∧
      (tHold c).deafTo id = false := by
  unfold Holds Takes
  decide +kernel

theorem test_wit_ParamBulk :
    (let c := tDma 0x0403 (leB 4 0 ++ leB 4 0 ++ leB 8 0)
     tHoldsDma (tHold c) c 0x0403 16 ∧ fld c.arg 8 8 = 0 ∧ (tPend c).pend? (.loc 0) 7 = some { who := .loc 0, cmd := c } ∧
       (Pend.descs { who := .loc 0, cmd := c } []).isSome = true ∧ definedIds 0 0 = []) ∧
    (let c := tDma 0x0404 (leB 4 8 ++ leB 12 0)
     let b := (List.replicate 8 (leB 4 0x20800010 ++ leB 4 65535)).flatten
     let ms := List.replicate 8 (0x20800010, 65535)
     let s := (tPend c).pass 1
     tHoldsDma (tHold c) c 0x0404 16 ∧ u32 c.arg 0 = 8 ∧ fld c.arg 4 12 = 0 ∧ total (tL c) = 8 * 8 ∧
       ((tPend c).ses (.loc 0)).cq.isSome = true ∧ Pend.dataIn { who := .loc 0, cmd := c } [] b = some b ∧ members 8 b = ms ∧
       s.firstFailure (s.acceptAll ms) 0 ms = none ∧
       (lastOnly ms).filter (fun m => s.paramRead m.1 != m.2) = [(0x20800010, 65535)] ∧ pClass 0x20800010 = .splice ∧ ctxOfParam 0x20800010 = none) ∧
    (let c := tDma 0x0404 (leB 4 8 ++ leB 12 0)
     let ms := List.replicate 8 (0x20200003, 1048576)
     let s := (tPend c).pass 1
     s.firstFailure (s.acceptAll ms) 0 ms = some (0, St.badParam)) := by
  unfold tHoldsDma HoldsDma
  decide +kernel

/-! ### Witnesses: the Ledger -/

/-- A LEDGER write of the last entry. -/
def tLedWrite (m : Nat) : Cmd := tCmd 0x0502 (leB 4 819199 ++ leB 1 1 ++ leB 1 m ++ leB 2 0 ++ leB 4 0x40000000)

theorem test_wit_LedgerWrites :
    (let c := tCmd 0x0501 (leB 4 819142 ++ leB 1 57 ++ leB 3 0)
     Holds (tHold c) (.loc 0) c 0x0501 8 ∧ u32 c.pay 0 + u8 c.pay 4 = 819199 ∧ fld c.pay 5 3 = 0 ∧ 819142 + 57 ≤ ledgerSize) ∧
    (let c := tLedWrite 63
     Holds (tHold c) (.loc 0) c 0x0502 (8 + 4 * 1) ∧ u32 c.pay 0 = 819199 ∧ u8 c.pay 4 = 1 ∧ 819199 + 1 ≤ ledgerSize ∧ u8 c.pay 5 = 63 ∧
       u16 c.pay 6 = 0 ∧ (tHold c).resetBars 819199 1 63 = []) ∧
    (let c := tLedWrite 8
     let s : State := { tHold c with faults := { on := true, shadows := [{ block := 15, ends := none }] } }
     s.heldBar 819199 1 8 = none ∧ s.resetBars 819199 1 8 ≠ []) ∧
    (let c := tLedWrite 16
     let s : State := { tHold c with faults := { on := true, heldR := [15] } }
     s.heldBar 819199 1 16 = some 7 ∧ Takes s F.flueTimeout (max 819199 (102400 * 7)) (Sess.initiator (.loc 0))) ∧
    (let c := tDma 0x0503 (leB 4 0 ++ leB 4 16 ++ leB 1 63 ++ leB 7 0)
     tHoldsDma (tHold c) c 0x0503 16 ∧ u32 c.arg 4 = 16 ∧ u8 c.arg 8 = 63 ∧ fld c.arg 9 7 = 0 ∧ total (tL c) = 4 * 16 ∧
       Pend.dataIn { who := .loc 0, cmd := c } [] (List.replicate 64 1) = some (List.replicate 64 1) ∧ (tPend c).resetBars 0 16 63 = []) := by
  unfold Holds tHoldsDma HoldsDma Takes
  decide +kernel

theorem test_wit_LedgerDumps :
    (let c := tDma 0x0504 (leB 4 819183 ++ leB 4 16 ++ leB 8 0)
     tHoldsDma (tHold c) c 0x0504 16 ∧ u32 c.arg 0 + u32 c.arg 4 = 819199 ∧ fld c.arg 8 8 = 0 ∧
       (Pend.descs { who := .loc 0, cmd := c } []).map total = some 64) ∧
    (let c := tCmd 0x0505 (leB 1 7 ++ leB 3 0)
     Holds (tHold c) (.loc 0) c 0x0505 4 ∧ u8 c.pay 0 = 7 ∧ fld c.pay 1 3 = 0 ∧ (tPend c).pend? (.loc 0) 7 = some { who := .loc 0, cmd := c }) ∧
    tReady.ready = true ∧ tReady.scrubDue ≤ (tReady.pass 0).now + perUs ∧
    (let s : State := { tReady with ledger := { scrub := 819199, scrubAt := some 0 } }
     s.scrubDue = 624999237 ∧ (s.pass 624990000).now + perUs < s.scrubDue) ∧
    Calm tReady F.ledgerEccCorr ∧ Takes tReady F.ledgerEccCorr tReady.ledger.scrub idNone ∧
    Takes tReady F.ledgerEcc tReady.ledger.scrub idNone := by
  unfold Holds tHoldsDma HoldsDma Takes Calm
  decide +kernel

end Sys2Proof.Machine
end

section
/-!
The status registers with a side effect (R9 to R11, R45, R49, R52), and what a closed window leaves of the writes of BAR0.
-/
namespace Sys2Proof.Machine

/-- A W1C write keeps a bit that is set now, or set by the device in the same cycle, unless it was written as 1 before that (R10). -/
theorem w1c_bit (events same : BitVec 4) (e : BitVec 4) (mask : BitVec 32) (k : Nat) (hk : k < 4)
    (he : e.getLsbD k = (events.getLsbD k || same.getLsbD k)) :
    (e &&& (~~~(mask.setWidth 4) ||| same)).getLsbD k = ((events.getLsbD k && !mask.getLsbD k) || same.getLsbD k) := by
  simp only [BitVec.getLsbD_and, BitVec.getLsbD_or, BitVec.getLsbD_not, BitVec.getLsbD_setWidth, he, hk, decide_true, Bool.true_and]
  cases same.getLsbD k <;> simp

/-- The events that come in the cycle of the write are raised, then the written bits clear (R10, R49). -/
theorem gstatEventsClear_law (dt : Nat) (mask : BitVec 32) (same : BitVec 4) (s : State) :
    ∃ t, exec (.gstatEventsClear dt mask same) s = .next t ∧
      (∀ k, k < 4 → t.host.events.getLsbD k = ((s.host.events.getLsbD k && !mask.getLsbD k) || same.getLsbD k)) ∧
      t = { s.pass dt with host := { s.host with events := t.host.events, pba := t.host.pba }, out := t.out } := by
  obtain ⟨e, p, o, hraised, hbits⟩ :=
    foldl_event (unmask 4 same.toNat) (s.pass dt) (fun k hk => ((mem_unmask 4 same.toNat k).1 hk).1)
  have hsame : ∀ k, k < 4 → e.getLsbD k = (s.host.events.getLsbD k || same.getLsbD k) := by
    intro k hk
    rw [hbits k hk, State.pass_host]
    simp [mem_unmask, hk, bit_toNat]
  have hexec : exec (.gstatEventsClear dt mask same) s = .next { s.pass dt with
      host := { s.host with events := e &&& (~~~(mask.setWidth 4) ||| same), pba := p }, out := o } := by
    show execGstatEventsClear dt mask same s = _
    unfold execGstatEventsClear
    dsimp only
    rw [hraised]
    rfl
  exact ⟨_, hexec, fun k hk => w1c_bit s.host.events same e mask k hk (hsame k hk), rfl⟩

/-- Time leaves the window as it is. -/
@[simp] theorem windowOpen_pass (s : State) (dt : Nat) : (s.pass dt).windowOpen = s.windowOpen := rfl

/-- An open window takes the snapshot (R52). -/
theorem snapTake_open (dt : Nat) (s : State) (h : s.windowOpen = true) :
    exec (.snapTake dt) s = .next { s.pass dt with
      host := { s.host with snapCount := s.host.snapCount + 1, snapSec := BitVec.ofNat 48 (s.pass dt).devSec,
                            snapNs := BitVec.ofNat 32 (s.pass dt).devSub, snapT32 := (s.pass dt).t32 } } := by
  show execSnapTake dt s = _
  simp [execSnapTake, h]

section ClosedWindow

variable {s : State} (h : s.windowOpen = false) (dt : Nat)
include h

/-- A closed window takes no snapshot (R44, R52). -/
theorem snapTake_closed : exec (.snapTake dt) s = .next (s.pass dt) := by
  show execSnapTake dt s = _
  simp [execSnapTake, h]

/-- A closed window offers no slot (R45). -/
theorem claimRead_closed : exec (.claimRead dt) s = .next { s.pass dt with out := .read 0x15000 0 :: s.out } := by
  show execClaimRead dt s = _
  simp [execClaimRead, h, State.emit]

/-- A closed window renews no lease. -/
theorem renew_closed (token : BitVec 32) : exec (.renew dt token) s = .next (s.pass dt) := by
  show execRenew dt token s = _
  simp [execRenew, h]

/-- A closed window releases no session. -/
theorem release_closed (token : BitVec 32) : exec (.release dt token) s = .next (s.pass dt) := by
  show execRelease dt token s = _
  simp [execRelease, h]

/-- A closed window takes no doorbell, whatever error HOB would meet. -/
theorem doorbell_closed (i : Fin 64) (token : BitVec 32) (ecc : Option (Fin 32 × Bool)) :
    exec (.doorbell dt i token ecc) s = .next (s.pass dt) := by
  show execDoorbell dt i token ecc s = _
  simp [execDoorbell, h]

/-- A closed window moves no queue's head. -/
theorem cqHeadWrite_closed (i : Fin 64) (v : BitVec 32) : exec (.cqHeadWrite dt i v) s = .next (s.pass dt) := by
  show execCqHeadWrite dt i v s = _
  simp [execCqHeadWrite, h]

/-- A closed window keeps no written byte. -/
theorem bar0RegisterWrite_closed (addr : Nat) (bytes : Bytes) : exec (.bar0RegisterWrite dt addr bytes) s = .next (s.pass dt) := by
  show execBar0RegisterWrite dt addr bytes s = _
  simp [execBar0RegisterWrite, h]

/-- A closed window clears no fault. -/
theorem fsumClear_closed (k : Fin 16) (mask same : BitVec 32) : exec (.fsumClear dt k mask same) s = .next (s.pass dt) := by
  show execFsumClear dt k mask same s = _
  simp [execFsumClear, h]

end ClosedWindow

/-- Settles O4: the events by the fold of the raised bits, the reads of the drops registers by definition, the rest by the window. -/
theorem hostStatusRegisters : Obligations.HostStatusRegisters := by
  unfold Obligations.HostStatusRegisters
  refine ⟨gstatEventsClear_law, ?drops, ?udpDrops, snapTake_open, ?closed⟩
  case drops => exact fun _ _ _ => rfl
  case udpDrops => exact fun _ _ _ => rfl
  case closed =>
    intro dt s h
    exact ⟨snapTake_closed h dt, claimRead_closed h dt, fun token => ⟨renew_closed h dt token, release_closed h dt token⟩,
      fun i token ecc => doorbell_closed h dt i token ecc, fun i v => cqHeadWrite_closed h dt i v,
      fun addr bytes => bar0RegisterWrite_closed h dt addr bytes⟩

end Sys2Proof.Machine
end

section
/-!
The FAULT commands (R456 to R458, R469, R533) and the host's write of the fault summary (R51): each command's answer, then what it leaves of the
sources.
-/
namespace Sys2Proof.Machine

/-! ### A plain command that ends at once -/

/-- Time leaves what a slot holds. -/
theorem Holds.pass {s : State} {w : Sess} {c : Cmd} {op n : Nat} (h : Holds s w c op n) (dt : Nat) : Holds (s.pass dt) w c op n := by
  unfold Holds at *
  rwa [pass_ses]

/-- Time neither starts nor stops the clocks (R24). -/
theorem pass_run (s : State) (dt : Nat) : (s.pass dt).clk.run = s.clk.run := by
  simp only [State.pass_clk, Clock.pass]
  split <;> rfl

/-- A command whose meaning gives a final answer is answered so. -/
theorem runCmd_answered {s u : State} {w : Sess} {c : Cmd} {op n status : Nat} {pay : Bytes} {f : Cmd → Reply} (h : Holds s w c op n)
    (hf : f c = .done status pay u) : Answered u (s.runCmd w op f) w c status pay := by
  obtain ⟨hcmd, hop, -, -⟩ := h
  rw [runCmd_eq s w c op f hcmd hop, hf]
  exact reply_answered s u w c status pay

/-- A held command of the row's length passes the check of its form. -/
theorem Holds.plain {s : State} {w : Sess} {c : Cmd} {op n : Nat} (h : Holds s w c op n) (t : State) (k : Reply) : plain t c n k = k := by
  obtain ⟨-, -, hdma, hlen⟩ := h
  exact plain_ok t c n k hdma hlen

/-- A condition that does not hold refuses the command. -/
theorem need_refuses (s : State) (b : Bool) (st : Nat) (k : Reply) (h : b = false) : need s b st k = refuse s st := by
  simp [need, h]

/-! ### FAULT status -/

/-- The seven words of the first-error record: the last is FER_REARM, which reads zero (R9, R47). -/
theorem recordWords (s : State) :
    [0x30100, 0x30104, 0x30108, 0x3010C, 0x30110, 0x30114, 0x30118].flatMap (fun o => leB 4 (s.readRecord o)) =
      leB 4 (b2n s.faults.fer.valid * 2 ^ 31 + s.faults.fer.source) ++ leB 4 s.faults.fer.addr.toNat ++
      leB 4 (s.faults.fer.master * 256 + s.faults.fer.access) ++ leB 4 s.faults.fer.t32.toNat ++
      leB 4 (s.faults.fer.cons * 65536 + s.faults.fer.merged) ++ leB 4 s.faults.fer.simul ++ leB 4 0 := by
  simp only [List.flatMap_cons, List.flatMap_nil, List.append_nil, List.append_assoc]
  rfl

/-- FAULT status answers the summary, the record and the counts asked. -/
theorem faultStatus_answers (dt n : Nat) (w : Sess) (s : State) (c : Cmd) (l : List Nat) (h : Holds s w c 0x0C01 (4 + 2 * n)) (hk : s.pwr.kind ≠ 2)
    (hn : u8 c.pay 0 = n) (h16 : n ≤ 16) (hz : fld c.pay 1 3 = 0) (hl : l = (List.range n).map (fun k => u16 c.pay (4 + 2 * k)))
    (hsrc : ∀ x ∈ l, x < 512) : ∃ t, exec (.faultStatus dt w) s = .next t ∧
      Answered (s.pass dt) t w c St.ok ((List.range 16).flatMap (fun k => leB 4 (s.fsum k)) ++
        leB 4 (b2n s.faults.fer.valid * 2 ^ 31 + s.faults.fer.source) ++ leB 4 s.faults.fer.addr.toNat ++ leB 4 (s.faults.fer.master * 256 + s.faults.fer.access) ++
        leB 4 s.faults.fer.t32.toNat ++ leB 4 (s.faults.fer.cons * 65536 + s.faults.fer.merged) ++ leB 4 s.faults.fer.simul ++ leB 4 0 ++
        l.flatMap (fun x => leB 2 x ++ leB 2 (s.src x).hits)) := by
  subst hn hl
  refine ⟨_, rfl, runCmd_answered (h.pass dt) ?_⟩
  dsimp only
  rw [h.plain, need_ok _ _ _ _ (by simpa [h16, hz] using hsrc), vet_ok (s.pass dt) _ hk, recordWords]
  simp only [List.append_assoc]
  rfl

/-! ### FAULT clear and the write of the summary -/

/-- FAULT clear clears in the order of the mask, and answers what is still set. -/
theorem faultClear_answers {s : State} {w : Sess} {c : Cmd} (h : Holds s w c 0x0C02 64) (hk : s.pwr.kind ≠ 2) (dt : Nat) (L : List Nat)
    (hL : unmask 512 (fld c.pay 0 64) = L) : ∃ t, exec (.faultClear dt w) s = .next t ∧
      Answered (L.foldl (fun (s : State) n => s.clearSource n false) (s.pass dt)) t w c St.ok
        (leB 64 (maskOf (L.filter (fun n => ((L.foldl (fun (s : State) n => s.clearSource n false) (s.pass dt)).src n).sticky)))) := by
  refine ⟨_, rfl, runCmd_answered (h.pass dt) ?_⟩
  dsimp only
  rw [h.plain, vet_ok (s.pass dt) _ hk, hL]

/-- FAULT clear of the sources that nothing waits for. -/
theorem faultClear_plain (dt : Nat) (w : Sess) (s : State) (c : Cmd) (h : Holds s w c 0x0C02 64) (hk : s.pwr.kind ≠ 2)
    (hp : ∀ n, n < 512 → bit (fld c.pay 0 64) n = true → PlainSource s n) : ∃ t u, exec (.faultClear dt w) s = .next t ∧
      (∀ n, n < 512 ∧ bit (fld c.pay 0 64) n = true ∧ Clears s n false → u.src n = clearedSource (s.src n)) ∧
      (∀ n, ¬(n < 512 ∧ bit (fld c.pay 0 64) n = true ∧ Clears s n false) → u.src n = s.src n) ∧ Touched (s.pass dt) u ∧
      Answered u t w c St.ok (leB 64 (maskOf ((unmask 512 (fld c.pay 0 64)).filter (fun n => (u.src n).sticky)))) := by
  obtain ⟨t, hexec, hans⟩ := faultClear_answers h hk dt _ rfl
  obtain ⟨htouch, hcleared, hkept⟩ := clear_fold id (fun _ _ e => e) (fun _ => false) (unmask 512 (fld c.pay 0 64)) (s.pass dt)
    (fun n hn => let ⟨hlt, hbit⟩ := (mem_unmask _ _ _).1 hn; hp n hlt hbit)
  refine ⟨t, _, hexec, ?_, ?_, htouch, hans⟩
  · rintro n ⟨hlt, hbit, hclears⟩
    exact hcleared n ⟨(mem_unmask _ _ _).2 ⟨hlt, hbit⟩, hclears⟩
  · intro n hn
    refine hkept n fun j hj ⟨hmem, hclears⟩ => hn ?_
    obtain rfl : n = j := hj
    obtain ⟨hlt, hbit⟩ := (mem_unmask _ _ _).1 hmem
    exact ⟨hlt, hbit, hclears⟩

/-- FAULT clear of one source whose bit clears ends the source's effects. -/
theorem faultClear_single {s : State} {w : Sess} {c : Cmd} {n : Nat} (h : Holds s w c 0x0C02 64) (hk : s.pwr.kind ≠ 2) (dt : Nat) (hn : n < 512)
    (hm : fld c.pay 0 64 = 2 ^ n) (hc : Clears s n false) : ∃ t, exec (.faultClear dt w) s = .next t ∧
      Answered ((s.pass dt).endEffects n) t w c St.ok (leB 64 (maskOf ([n].filter (fun k => (((s.pass dt).endEffects n).src k).sticky)))) := by
  have h1 := faultClear_answers h hk dt [n] (by rw [hm, unmask_pow 512 n hn])
  rw [List.foldl_cons, List.foldl_nil, clearSource_yes (s.pass dt) n false hc] at h1
  exact h1

/-- A write of 1 to the bits of a summary word whose sources nothing waits for. -/
theorem fsumClear_plain (dt : Nat) (k : Fin 16) (mask same : BitVec 32) (s : State) (h : s.windowOpen = true)
    (hp : ∀ j, j < 32 → mask.getLsbD j = true → PlainSource s (32 * k.val + j)) : ∃ t, exec (.fsumClear dt k mask same) s = .next t ∧
      (∀ j, j < 32 ∧ mask.getLsbD j = true ∧ Clears s (32 * k.val + j) (same.getLsbD j) → t.src (32 * k.val + j) = clearedSource (s.src (32 * k.val + j))) ∧
      (∀ n, (∀ j, n = 32 * k.val + j → ¬(j < 32 ∧ mask.getLsbD j = true ∧ Clears s n (same.getLsbD j))) → t.src n = s.src n) ∧ Touched (s.pass dt) t := by
  have hmem : ∀ j, j ∈ unmask 32 mask.toNat ↔ j < 32 ∧ mask.getLsbD j = true := fun j => by rw [mem_unmask, bit_toNat]
  have hexec : exec (.fsumClear dt k mask same) s =
      .next ((unmask 32 mask.toNat).foldl (fun (s : State) j => s.clearSource (32 * k.val + j) (same.getLsbD j)) (s.pass dt)) := by
    show execFsumClear dt k mask same s = _
    simp [execFsumClear, h]
  obtain ⟨htouch, hcleared, hkept⟩ := clear_fold (fun j => 32 * k.val + j) (fun _ _ e => Nat.add_left_cancel e) same.getLsbD (unmask 32 mask.toNat) (s.pass dt)
    (fun j hj => let ⟨hlt, hbit⟩ := (hmem j).1 hj; hp j hlt hbit)
  refine ⟨_, hexec, ?_, ?_, htouch⟩
  · rintro j ⟨hlt, hbit, hclears⟩
    exact hcleared j ⟨(hmem j).2 ⟨hlt, hbit⟩, hclears⟩
  · intro n hn
    refine hkept n fun j hj ⟨hm, hclears⟩ => hn j hj ?_
    obtain ⟨hlt, hbit⟩ := (hmem j).1 hm
    exact ⟨hlt, hbit, hclears⟩

/-! ### FAULT reaction -/

/-- Time leaves whether a reaction is denied. -/
@[simp] theorem reactionDenied_pass (s : State) (dt n r : Nat) : (s.pass dt).reactionDenied n r = s.reactionDenied n r := rfl

/-- A source's reaction reads as it was written (R456). -/
theorem reaction_setReaction (s : State) (n r : Nat) (h : n < 512) : (s.setReaction n r).reaction n = r :=
  accept_sel _ _ _ _ (reaction_default n h)

/-- FAULT reaction reads the reactions asked. -/
theorem faultReaction_reads (dt n : Nat) (w : Sess) (s : State) (c : Cmd) (h : Holds s w c 0x0C04 (4 + 4 * n)) (hk : s.pwr.kind ≠ 2)
    (hop : u8 c.pay 0 = 0) (hn : u8 c.pay 1 = n) (h1 : 1 ≤ n) (h56 : n ≤ 56) (hz : u16 c.pay 2 = 0)
    (hm : ∀ k, k < n → u16 c.pay (4 + 4 * k) < 512 ∧ u8 c.pay (6 + 4 * k) = 0 ∧ u8 c.pay (7 + 4 * k) = 0) :
    ∃ t, exec (.faultReaction dt w) s = .next t ∧
      Answered (s.pass dt) t w c St.ok (leB 1 0 ++ leB 1 n ++ leB 2 0 ++
        (List.range n).flatMap (fun k => leB 2 (u16 c.pay (4 + 4 * k)) ++ leB 1 (s.reaction (u16 c.pay (4 + 4 * k))) ++ leB 1 0)) := by
  subst hn
  have hm' : ∀ k, k < u8 c.pay 1 → (u16 c.pay (4 + 4 * k) < 512 ∧ u8 c.pay (7 + 4 * k) = 0) ∧ u8 c.pay (6 + 4 * k) = 0 := fun k hlt =>
    let ⟨hsrc, hz6, hz7⟩ := hm k hlt
    ⟨⟨hsrc, hz7⟩, hz6⟩
  refine ⟨_, rfl, runCmd_answered (h.pass dt) ?_⟩
  dsimp only
  rw [h.plain, need_ok _ _ _ _ (by simpa [hop, h1, h56, hz] using hm'), vet_ok (s.pass dt) _ hk, if_pos hop, hop, List.flatMap_map]
  rfl

/-- FAULT reaction gives a source the reaction that it may have. -/
theorem faultReaction_writes (dt n r : Nat) (w : Sess) (s : State) (c : Cmd) (h : Holds s w c 0x0C04 8) (hk : s.pwr.kind ≠ 2) (hop : u8 c.pay 0 = 1)
    (h1 : u8 c.pay 1 = 1) (hz : u16 c.pay 2 = 0) (hsrc : u16 c.pay 4 = n) (hn : n < 512) (hr : u8 c.pay 6 = r) (hz7 : u8 c.pay 7 = 0)
    (hok : reactionOk n r = true) (hden : s.reactionDenied n r = false) : ∃ t u, exec (.faultReaction dt w) s = .next t ∧
      u = { s.pass dt with params := { s.params with acc := u.params.acc } } ∧ u.reaction n = r ∧
      Answered u t w c St.ok (leB 1 1 ++ leB 1 1 ++ leB 2 0 ++ (leB 2 n ++ leB 1 r ++ leB 1 0)) := by
  subst hsrc hr
  have hset := reaction_setReaction (s.pass dt) _ (u8 c.pay 6) hn
  refine ⟨_, (s.pass dt).setReaction (u16 c.pay 4) (u8 c.pay 6), rfl, rfl, hset, runCmd_answered (h.pass dt) ?_⟩
  have hone : (List.range (u8 c.pay 1)).map (fun k => (u16 c.pay (4 + 4 * k), u8 c.pay (6 + 4 * k), u8 c.pay (7 + 4 * k))) =
      [(u16 c.pay 4, u8 c.pay 6, u8 c.pay 7)] := by rw [h1]; rfl
  dsimp only
  rw [hone, h1, hop, h.plain, need_ok _ _ _ _ (by simp [hz, hn, hz7, hok]), vet_ok (s.pass dt) _ hk, if_neg Nat.one_ne_zero, if_neg (by simpa using hden)]
  simp only [List.foldl_cons, List.foldl_nil, List.flatMap_cons, List.flatMap_nil, List.append_nil, hset]

/-- FAULT reaction writes no member when one is wrong. -/
theorem faultReaction_refuses (dt n : Nat) (w : Sess) (s : State) (c : Cmd) (h : Holds s w c 0x0C04 (4 + 4 * n)) (hop : u8 c.pay 0 = 1)
    (hn : u8 c.pay 1 = n)
    (hbad : ∃ k, k < n ∧ ¬(u16 c.pay (4 + 4 * k) < 512 ∧ u8 c.pay (7 + 4 * k) = 0 ∧ reactionOk (u16 c.pay (4 + 4 * k)) (u8 c.pay (6 + 4 * k)) = true)) :
    ∃ t, exec (.faultReaction dt w) s = .next t ∧ Answered (s.pass dt) t w c St.badParam [] := by
  subst hn
  refine ⟨_, rfl, runCmd_answered (h.pass dt) ?_⟩
  obtain ⟨k, hlt, hwrong⟩ := hbad
  have hmem : (u16 c.pay (4 + 4 * k), u8 c.pay (6 + 4 * k), u8 c.pay (7 + 4 * k)) ∈ (List.range (u8 c.pay 1)).map
      (fun k => (u16 c.pay (4 + 4 * k), u8 c.pay (6 + 4 * k), u8 c.pay (7 + 4 * k))) := List.mem_map.2 ⟨k, List.mem_range.2 hlt, rfl⟩
  dsimp only
  rw [h.plain, need_refuses]
  · rfl
  · rw [Bool.and_eq_false_iff, List.all_eq_false]
    exact .inr ⟨_, hmem, by simpa [hop, and_assoc] using hwrong⟩

/-! ### FAULT inject -/

/-- Time leaves whether an injection is denied. -/
@[simp] theorem injectDenied_pass (s : State) (dt : Nat) : (s.pass dt).injectDenied = s.injectDenied := rfl

/-- FAULT inject registers one hit, with the command's initiator as master (R469). -/
theorem faultInject_registers (dt n : Nat) (w : Sess) (s : State) (c : Cmd) (h : Holds s w c 0x0C05 8) (hk : s.pwr.kind ≠ 2) (hn : u16 c.pay 0 = n)
    (hsrc : (fsrc? n).isSome = true) (hz : u16 c.pay 2 = 0) (hden : s.injectDenied = false) : ∃ t u, exec (.faultInject dt w) s = .next t ∧
      Registered ((s.pass dt).taken w) u n (u32 c.pay 4) (Sess.initiator w) 0 ∧ Answered u t w c St.ok [] := by
  subst hn
  refine ⟨_, _, rfl, registered_law _ _ _ _ _, runCmd_answered (h.pass dt) ?_⟩
  dsimp only
  rw [h.plain, need_ok _ _ _ _ (by simp [hsrc, hz]), vet_ok (s.pass dt) _ hk, need_ok _ _ _ _ (by simp [hden])]

/-- Settles O47: a lemma for each command; of a clear, the fold over plain sources, or the end of the one source's effects. -/
theorem faultCommandsAnswer : Obligations.FaultCommandsAnswer := by
  unfold Obligations.FaultCommandsAnswer
  refine ⟨faultStatus_answers, faultClear_plain, ?special, ?stop, faultReaction_reads, faultReaction_writes, ?refused, faultInject_registers,
    fsumClear_plain, fun dt k mask same s h => fsumClear_closed h dt k mask same⟩
  case special =>
    intro dt n w s c h hk hn hm hc hstop hcalm
    obtain ⟨t, hexec, hans⟩ := faultClear_single h hk dt hn hm hc
    obtain ⟨hsrc, hunit, hblocks, henc, hvcore, hclock⟩ := endEffects_special (s.pass dt) n hstop hcalm
    exact ⟨t, _, hexec, hans, hsrc, hunit, hblocks, henc, hvcore, fun hn hrun => hclock hn ((pass_run s dt).trans hrun)⟩
  case stop =>
    intro dt n w s c h hk hn hm hc hstop hhalted hwf hfree
    obtain ⟨t, hexec, hans⟩ := faultClear_single h hk dt hn hm hc
    exact ⟨t, _, hexec, hans, endEffects_stop (s.pass dt) n hstop hhalted hwf hfree⟩
  case refused =>
    intro dt n w s c h _ hop hn _ _ _ hbad
    exact faultReaction_refuses dt n w s c h hop hn hbad

end Sys2Proof.Machine
end

section
/-!
The life of a session (R54 to R58): CLAIM, RENEW, RELEASE, the end of a lease and the holdback after it.
-/
namespace Sys2Proof.Machine

/-! ### Opening and renewing -/

/-- Taking a free value leaves the sessions. -/
@[simp] theorem fresh_ses (s : State) (w : Sess) : s.fresh.ses w = s.ses w := by
  cases w <;> rfl

/-- An output leaves the sessions. -/
@[simp] theorem emit_ses (s : State) (o : Output) (w : Sess) : (s.emit o).ses w = s.ses w := by
  cases w <;> rfl

/-- The record of a session just opened in a slot (R54 to R56). -/
def openedSession (s : State) (w : Sess) (i leaseMs : Nat) (q : Option Cq) : Session :=
  { s.ses w with
    isOpen := true, token := s.newToken i (s.ses w).last, last := s.newToken i (s.ses w).last, lease := leaseMs,
    ends := s.now + leaseMs * perMs, held := none, cq := q, lastSeq := none, stored := [], entries := [] }

/-- Opening a session writes its record and takes a free value for the token. -/
theorem openSession_eq (s : State) (w : Sess) (i leaseMs : Nat) (q : Option Cq) :
    s.openSession w i leaseMs q = (s.setSes w (openedSession s w i leaseMs q)).fresh := rfl

/-- Every other session stands. -/
theorem ses_openSession (s : State) (w v : Sess) (i leaseMs : Nat) (q : Option Cq) :
    (s.openSession w i leaseMs q).ses v = if v = w then openedSession s w i leaseMs q else s.ses v := by
  rw [openSession_eq, fresh_ses, ses_setSes]

/-- A read of CLAIM opens a session in the slot picked, and reads its token and its number (R54). -/
theorem claimRead_picks {dt : Nat} {s : State} {i : Fin 64} (h : s.windowOpen = true) (hi : (s.pass dt).pickSlot s.host.loc = some i) :
    exec (.claimRead dt) s = .next (((s.pass dt).fresh.openSession (.loc i) i.val (s.par P.hostSessionLeaseMs) none).emit
      (.read 0x15000 (BitVec.ofNat 64
        ((openedSession (s.pass dt).fresh (.loc i) i.val (s.par P.hostSessionLeaseMs) none).token.toNat * 2 ^ 32 + 2 ^ 31 + i.val)))) := by
  show execClaimRead dt s = _
  unfold execClaimRead
  simp only [windowOpen_pass, h, State.pass_host, hi, Bool.not_true, Bool.false_eq_true, if_false, ses_openSession, if_true]
  rfl

/-- A read of CLAIM with a slot to offer opens a session in one (R54 to R56). -/
theorem claimRead_claims (dt : Nat) (s : State) (h : s.windowOpen = true)
    (hoffer : ∃ i : Fin 64, (s.ses (.loc i)).offered (s.pass dt).now = true) :
    ∃ t i, exec (.claimRead dt) s = .next t ∧ (s.ses (.loc i)).offered (s.pass dt).now = true ∧
      (t.ses (.loc i)).isOpen = true ∧ 64 ≤ (t.ses (.loc i)).token.toNat ∧ (t.ses (.loc i)).token.toNat % 64 = i.val ∧
      (t.ses (.loc i)).token ≠ (s.ses (.loc i)).last ∧ (t.ses (.loc i)).lease = s.par P.hostSessionLeaseMs ∧
      (t.ses (.loc i)).ends = (s.pass dt).now + s.par P.hostSessionLeaseMs * perMs ∧
      (∀ v, v ≠ .loc i → t.ses v = s.ses v) ∧
      t = { s.pass dt with
              host := { s.host with loc := t.host.loc }, free := t.free,
              out := .read 0x15000 (BitVec.ofNat 64 ((t.ses (.loc i)).token.toNat * 2 ^ 32 + 2 ^ 31 + i.val)) :: s.out } := by
  obtain ⟨i, hpick, hfree⟩ := pickSlot_some (s.pass dt) s.host.loc hoffer
  obtain ⟨hlow, hslot, hnew⟩ := newToken_ok (s.pass dt).fresh i.val (s.ses (.loc i)).last i.isLt
  refine ⟨_, i, claimRead_picks h hpick, hfree, ?_⟩
  simp only [emit_ses, ses_openSession, if_true]
  refine ⟨rfl, hlow, hslot, hnew, rfl, rfl, fun v hv => ?_, rfl⟩
  rw [if_neg hv, fresh_ses, pass_ses]

/-- A read of CLAIM with no slot to offer reads zero (R54). -/
theorem claimRead_full (dt : Nat) (s : State) (h : s.windowOpen = true)
    (hfull : ∀ i : Fin 64, (s.ses (.loc i)).offered (s.pass dt).now = false) :
    exec (.claimRead dt) s = .next { s.pass dt with out := .read 0x15000 0 :: s.out } := by
  have hpick : (s.pass dt).pickSlot s.host.loc = none := pickSlot_none (s.pass dt) s.host.loc hfull
  show execClaimRead dt s = _
  simp [execClaimRead, h, hpick, State.emit]

/-- A write of RENEW with the token of an open session starts its lease anew (R56). -/
theorem renew_renews (dt : Nat) (token : BitVec 32) (s : State) (h : s.windowOpen = true)
    (hopen : (s.ses (.loc (slotOf token))).isOpen = true) (htok : (s.ses (.loc (slotOf token))).token = token) :
    exec (.renew dt token) s = .next ((s.pass dt).setSes (.loc (slotOf token))
      { s.ses (.loc (slotOf token)) with ends := (s.pass dt).now + (s.ses (.loc (slotOf token))).lease * perMs }) := by
  show execRenew dt token s = _
  simp [execRenew, h, hopen, htok, State.renew]

/-! ### Losing a session -/

/-- A write of RELEASE with the token ends the session (R57, R58). -/
theorem release_ends (dt : Nat) (token : BitVec 32) (s : State) (h : s.windowOpen = true)
    (hopen : (s.ses (.loc (slotOf token))).isOpen = true) (htok : (s.ses (.loc (slotOf token))).token = token) :
    ∃ t, exec (.release dt token) s = .next t ∧ (t.ses (.loc (slotOf token))).isOpen = false ∧
      (t.ses (.loc (slotOf token))).cmd = none ∧ (t.ses (.loc (slotOf token))).cq = none ∧
      (t.ses (.loc (slotOf token))).last = token ∧
      t.host.pends = s.host.pends.filter (fun p => !(p.who == .loc (slotOf token))) ∧
      (∀ v, v ≠ .loc (slotOf token) → t.ses v = s.ses v) := by
  have hexec : exec (.release dt token) s = .next ((s.pass dt).endSession (.loc (slotOf token))) := by
    show execRelease dt token s = _
    simp [execRelease, h, hopen, htok]
  obtain ⟨-, hses, hothers, hhost⟩ := endSession_law (s.pass dt) (.loc (slotOf token))
  refine ⟨_, hexec, by rw [hses], by rw [hses], by rw [hses], by rw [hses]; exact htok, by rw [hhost]; rfl, fun v hv => ?_⟩
  rw [hothers v hv, pass_ses]

/-- The end of a session keeps the parameters and the fault collector. -/
theorem endSession_keeps (s : State) (w : Sess) :
    (s.endSession w).params = s.params ∧ (s.endSession w).faults = s.faults ∧ (s.endSession w).motion = s.motion ∧
      (s.endSession w).fire = s.fire ∧ (s.endSession w).clk = s.clk := by
  obtain ⟨⟨_, _, _, _, _, _, _, _, hframe⟩, -⟩ := endSession_law s w
  rw [hframe]
  exact ⟨rfl, rfl, rfl, rfl, rfl⟩

/-- A session's record is no part of what hits depend on. -/
theorem setSes_keeps (s : State) (w : Sess) (x : Session) :
    (s.setSes w x).params = s.params ∧ (s.setSes w x).faults = s.faults ∧ (s.setSes w x).motion = s.motion ∧
      (s.setSes w x).fire = s.fire ∧ (s.setSes w x).clk = s.clk := by
  rw [setSes_frame]
  exact ⟨rfl, rfl, rfl, rfl, rfl⟩

/-- What hits touch leaves the sessions. -/
theorem Touched.ses {s t : State} (h : Touched s t) (w : Sess) : t.ses w = s.ses w := by
  unfold Touched at h
  rw [h]
  cases w <;> rfl

/-- A lease that has run out ends the session, holds its slot back for one lease length and is recorded (R57). -/
theorem leaseExpiry_expires (dt : Nat) (who : Sess) (s : State) (hopen : (s.ses who).isOpen = true)
    (hends : (s.ses who).ends ≤ (s.pass dt).now) (htakes : Takes s F.leaseExpiry 0 idNone) :
    ∃ t, exec (.leaseExpiry dt who) s = .next t ∧ (t.ses who).isOpen = false ∧
      (t.ses who).held = some ((s.pass dt).now + (s.ses who).lease * perMs) ∧
      (t.src F.leaseExpiry).sticky = true ∧ (t.src F.leaseExpiry).hits = sat 16 ((s.src F.leaseExpiry).hits + 1) := by
  obtain ⟨-, hended, -⟩ := endSession_law (s.pass dt) who
  obtain ⟨hparams, hfaults, -, -, hclk⟩ := endSession_keeps (s.pass dt) who
  generalize hu : (s.pass dt).endSession who = u at hended hparams hfaults hclk
  generalize hv : u.setSes who { u.ses who with held := some (u.now + (s.ses who).lease * perMs) } = v
  obtain ⟨hvparams, hvfaults, -⟩ := setSes_keeps u who { u.ses who with held := some (u.now + (s.ses who).lease * perMs) }
  rw [hv] at hvparams hvfaults
  have hexec : exec (.leaseExpiry dt who) s = .next (v.fault F.leaseExpiry 0) := by
    show execLeaseExpiry dt who s = _
    simp only [execLeaseExpiry, pass_ses, hopen, hu, Bool.not_true, Bool.false_eq_true, false_or, if_neg (Nat.not_lt.2 hends), ← hv]
  have hvses : v.ses who = { u.ses who with held := some (u.now + (s.ses who).lease * perMs) } := by
    rw [← hv, ses_setSes_same]
  obtain ⟨hsticky, hhits, -, -, -, -, -, -, -, -, -, htouch⟩ :=
    hit_recorded v F.leaseExpiry 0 idNone 0 (takes_frame s v _ _ _ (hvfaults.trans hfaults) (hvparams.trans hparams) htakes)
  have hses : (v.fault F.leaseExpiry 0).ses who = v.ses who := htouch.ses who
  have hsrc : v.src F.leaseExpiry = s.src F.leaseExpiry := by
    simp only [State.src, hvfaults, hfaults, State.pass_faults]
  refine ⟨_, hexec, ?_, ?_, hsticky, hsrc ▸ hhits⟩
  · rw [hses, hvses, hended]
  · rw [hses, hvses, State.now, hclk]; rfl

/-- The end of a holdback frees the slot (R57). -/
theorem leaseHoldbackEnd_frees (dt : Nat) (who : Sess) (s : State) (e : Nat) (hheld : (s.ses who).held = some e) (he : e ≤ (s.pass dt).now) :
    exec (.leaseHoldbackEnd dt who) s = .next ((s.pass dt).setSes who { s.ses who with held := none }) := by
  show execLeaseHoldbackEnd dt who s = _
  simp [execLeaseHoldbackEnd, hheld, he]

/-- Settles O5: a lemma for each row; CLAIM by the choice of a slot and its new token, the ends by what the end of a session leaves. -/
theorem sessionSlotsClaimRenewRelease : Obligations.SessionSlotsClaimRenewRelease := by
  unfold Obligations.SessionSlotsClaimRenewRelease
  exact ⟨claimRead_claims, claimRead_full, renew_renews, release_ends, leaseExpiry_expires, leaseHoldbackEnd_frees⟩

end Sys2Proof.Machine
end

section
/-!
What arrives at the slots (R45, R60 to R62, R69, R74, R75): doorbells, datagrams, writes of BAR0 and CQ_HEAD, and the resending of remote entries.
-/
namespace Sys2Proof.Machine

/-! ### Acceptance -/

/-- A session that is open has no old token in a holdback (R57). -/
theorem expiredToken_open {s : State} {w : Sess} (h : (s.ses w).isOpen = true) (token : BitVec 32) : s.expiredToken w token = false := by
  simp [State.expiredToken, h]

/-- The flags a slot image keeps are IRQ and DMA; DMA is bit 12 of its flags (R59, R63). -/
theorem parseCmd_dma (img : Bytes) (e : BitVec 16) : (parseCmd img e).dma = (BitVec.ofNat 16 (u16 img 2)).getLsbD 12 := by
  have hmask : (0x5000 : BitVec 16).getLsbD 12 = true := by decide
  simp only [Cmd.dma, parseCmd, BitVec.getLsbD_and, hmask, Bool.and_true]

/-- An image that passes the checks of R61 is accepted: its command stands in the slot, and the lease runs anew (R56, R60). -/
theorem acceptCmd_accepts {s : State} {w : Sess} {img : Bytes} (htok : BitVec.ofNat 32 (u32 img 8) = (s.ses w).token) (hlen : u16 img 12 ≤ 240)
    (hop : opcodes.contains (u16 img 0) = true) (hdma : ∀ i, w = .rem i → (BitVec.ofNat 16 (u16 img 2)).getLsbD 12 = false) :
    s.acceptCmd w img = s.setSes w
      { s.ses w with cmd := some { parseCmd img s.host.epoch with atT := s.now }, ends := s.now + (s.ses w).lease * perMs } := by
  have hrenew : s.renew w = s.setSes w { s.ses w with ends := s.now + (s.ses w).lease * perMs } := rfl
  have hkept : (s.renew w).host.epoch = s.host.epoch ∧ (s.renew w).now = s.now := by
    rw [hrenew, setSes_frame]; exact ⟨rfl, rfl⟩
  obtain ⟨hepoch, hnow⟩ := hkept
  have hknown : opcodes.contains (parseCmd img s.host.epoch).op = true := hop
  unfold State.acceptCmd
  dsimp only
  rw [hepoch, hnow, hrenew, ses_setSes_same, setSes_setSes, if_neg (fun h => h.1 htok), if_neg (Nat.not_lt.2 hlen),
    if_neg (by simpa using hknown)]
  cases w with
  | loc i => rfl
  | rem i =>
    have : Cmd.dma { parseCmd img s.host.epoch with atT := s.now } = false := (parseCmd_dma img s.host.epoch).trans (hdma i rfl)
    simp only [this, Bool.false_eq_true, if_false]

/-- The holder of an open session's token passes the check of R57. -/
theorem holder_passes {x : Session} {token : BitVec 32} (hopen : x.isOpen = true) (htok : x.token = token) :
    ¬((!x.isOpen) = true ∨ x.token ≠ token) := by
  simp [hopen, htok]

/-- A slot without a command is free to take one (R62). -/
theorem free_passes {x : Session} (hfree : x.cmd = none) : ¬(x.cmd.isSome = true) := by
  simp [hfree]

/-- A doorbell with the session's token accepts the command of its slot (R60, R61). -/
theorem doorbell_accepts (dt : Nat) (i : Fin 64) (s : State) (token : BitVec 32) :
    let w := Sess.loc i
    let img := s.scratch (slotBase w) 256
    s.windowOpen = true → (s.ses w).isOpen = true → (s.ses w).token = token → (s.ses w).cmd = none →
    BitVec.ofNat 32 (u32 img 8) = token → u16 img 12 ≤ 240 → opcodes.contains (u16 img 0) = true →
    exec (.doorbell dt i token none) s = .next ((s.pass dt).setSes w
      { s.ses w with cmd := some { parseCmd img s.host.epoch with atT := (s.pass dt).now }, ends := (s.pass dt).now + (s.ses w).lease * perMs }) := by
  intro w img h hopen htok hfree himg hlen hop
  have hexpired : (s.pass dt).expiredToken w token = false := expiredToken_open (by rw [pass_ses]; exact hopen) token
  have haccept : (s.pass dt).acceptCmd w img = _ :=
    acceptCmd_accepts (by rw [pass_ses, himg, htok]) hlen hop (fun _ hrem => nomatch hrem)
  have hexec : exec (.doorbell dt i token none) s = .next ((s.pass dt).acceptCmd w img) := by
    show execDoorbell dt i token none s = _
    simp only [execDoorbell, windowOpen_pass, h, Bool.not_true, Bool.false_eq_true, if_false, pass_ses]
    rw [if_neg (by rw [hexpired]; decide), if_neg (holder_passes hopen htok), if_neg (free_passes hfree)]
    rfl
  rw [hexec, haccept, pass_ses]
  rfl

/-- A doorbell while the slot holds a command only counts DOORBELL_BUSY (R62). -/
theorem doorbell_busy (dt : Nat) (i : Fin 64) (s : State) (token : BitVec 32) (c : Cmd) (h : s.windowOpen = true)
    (hopen : (s.ses (.loc i)).isOpen = true) (htok : (s.ses (.loc i)).token = token) (hcmd : (s.ses (.loc i)).cmd = some c) :
    exec (.doorbell dt i token none) s = .next { s.pass dt with host := { s.host with dropBusy := sat 8 (s.host.dropBusy + 1) } } := by
  have hexpired : (s.pass dt).expiredToken (.loc i) token = false := expiredToken_open (by rw [pass_ses]; exact hopen) token
  show execDoorbell dt i token none s = _
  simp [execDoorbell, h, hexpired, hopen, htok, hcmd]

/-- The sessions are no part of the scratchpad. -/
theorem setScratch_ses (s : State) (a : Nat) (b : Bytes) (w : Sess) : (s.setScratch a b).ses w = s.ses w := by
  cases w <;> rfl

/-- A datagram with the next sequence accepts its command and keeps its image, address and port (R60, R73, R74). -/
theorem udpDatagram_accepts (dt : Nat) (port : Fin 2) (peer : BitVec 48) (bytes : Bytes) (s : State) (l : BitVec 32) :
    let token := BitVec.ofNat 32 (u32 bytes 8)
    let w := Sess.rem (slotOf token)
    s.udpOpen port.val = true → bytes.length = 256 → token ≠ 0 → (s.ses w).isOpen = true → (s.ses w).token = token → (s.ses w).cmd = none →
    (s.ses w).lastSeq = some l → BitVec.ofNat 32 (u32 bytes 4) = l + 1 → u16 bytes 12 ≤ 240 → opcodes.contains (u16 bytes 0) = true →
    (BitVec.ofNat 16 (u16 bytes 2)).getLsbD 12 = false →
    ∃ t, exec (.udpDatagram dt port peer true bytes) s = .next t ∧
      t.ses w = { s.ses w with cmd := some { parseCmd bytes s.host.epoch with atT := (s.pass dt).now }, ends := (s.pass dt).now + (s.ses w).lease * perMs,
                               lastSeq := some (l + 1), peer := peer, port := port.val } ∧
      t.scratch (slotBase w) 256 = bytes ∧ (∀ v, v ≠ w → t.ses v = s.ses v) ∧
      t = { s.pass dt with host := { s.host with rem := t.host.rem }, chip := { s.chip with scratch := t.chip.scratch } } := by
  intro token w hudp hlen hne hopen htok hfree hlast hseq hpay hop hdma
  have hexpired : (s.pass dt).expiredToken w token = false := expiredToken_open (by rw [pass_ses]; exact hopen) token
  have hnew : ¬((s.ses w).lastSeq = some (l + 1)) := by simp [hlast]
  have hudp' : (s.pass dt).udpOpen port.val = true := hudp
  generalize hu : ((s.pass dt).setSes w { s.ses w with lastSeq := some (l + 1), peer := peer, port := port.val }).setScratch (slotBase w) bytes = u
  have hexec : exec (.udpDatagram dt port peer true bytes) s = .next (u.acceptCmd w bytes) := by
    show execUdpDatagram dt port peer true bytes s = _
    simp only [execUdpDatagram, hudp', hlen, pass_ses, hseq, Bool.not_true, Bool.false_eq_true, if_false, not_true, ne_eq, or_self]
    rw [if_neg (fun h => hne h.1), if_neg (by rw [hexpired]; decide), if_neg (holder_passes hopen htok), if_neg (free_passes hfree),
      if_neg hnew, if_neg (by simp [hlast, w, token]), ← hu]
  have huses : ∀ v, u.ses v = if v = w then { s.ses w with lastSeq := some (l + 1), peer := peer, port := port.val } else s.ses v := fun v => by
    rw [← hu, setScratch_ses, ses_setSes, pass_ses]
  have huscratch : u.scratch (slotBase w) 256 = bytes := by
    rw [← hu]; exact setScratch_scratch_n _ _ _ _ hlen
  have hframe : u = { s.pass dt with host := { s.host with rem := u.host.rem }, chip := { s.chip with scratch := u.chip.scratch } } := by
    rw [← hu]; rfl
  have haccept := acceptCmd_accepts (s := u) (w := w) (img := bytes) (by rw [huses, if_pos rfl]; exact htok.symm) hpay hop (fun _ _ => hdma)
  refine ⟨_, hexec, ?_, ?_, ?_, ?_⟩
  · rw [haccept, ses_setSes_same, huses, if_pos rfl, hframe]; rfl
  · rw [haccept, setSes_frame]; exact huscratch
  · intro v hv
    rw [haccept, ses_setSes_other _ _ _ _ hv, huses, if_neg hv]
  · rw [haccept, hframe]; rfl

/-! ### Writes of BAR0 -/

/-- A write inside one slot lands in its bytes of the scratchpad and nowhere else (R45). -/
theorem bar0RegisterWrite_slot (dt addr : Nat) (bytes : Bytes) (s : State) (h : s.windowOpen = true) (hne : bytes ≠ [])
    (hlo : 0x10000 ≤ addr) (hhi : addr + bytes.length ≤ 0x14000) (hslot : addr / 256 = (addr + bytes.length - 1) / 256) :
    ∃ t, exec (.bar0RegisterWrite dt addr bytes) s = .next t ∧ t.scratch (addr - 0x10000) bytes.length = bytes ∧
      (∀ x, x < addr - 0x10000 ∨ addr - 0x10000 + bytes.length ≤ x → memRead t.chip.scratch x = memRead s.chip.scratch x) ∧
      t = { s.pass dt with chip := { s.chip with scratch := t.chip.scratch } } := by
  have hexec : exec (.bar0RegisterWrite dt addr bytes) s = .next ((s.pass dt).setScratch (addr - 0x10000) bytes) := by
    show execBar0RegisterWrite dt addr bytes s = _
    simp only [execBar0RegisterWrite, windowOpen_pass, h, List.length_eq_zero_iff, hne, Bool.not_true, Bool.false_eq_true, or_self, if_false]
    rw [if_pos ⟨hlo, hhi, hslot⟩]
  exact ⟨_, hexec, setScratch_scratch _ _ _, fun x hx => setScratch_memRead_other _ _ x bytes hx, rfl⟩

/-- The distance from one place of a ring to the place `a` entries on is `a`. -/
theorem ring_distance {h a d v : Nat} (hh : h < d) (ha : a < d) (hmove : (h + a) % d = v) : (v + d - h % d) % d = a := by
  rw [Nat.mod_eq_of_lt hh]
  rcases Nat.lt_or_ge (h + a) d with hlt | hge
  · rw [Nat.mod_eq_of_lt hlt] at hmove
    rw [show v + d - h = a + d by omega, Nat.add_mod_right, Nat.mod_eq_of_lt ha]
  · rw [Nat.mod_eq_sub_mod hge, Nat.mod_eq_of_lt (by omega)] at hmove
    rw [show v + d - h = a by omega, Nat.mod_eq_of_lt ha]

/-- A write of CQ_HEAD that moves the head on by no more entries than are posted frees them (R69). -/
theorem cqHeadWrite_frees (dt : Nat) (i : Fin 64) (value : BitVec 32) (s : State) (q : Cq) (a : Nat)
    (h : s.windowOpen = true) (hq : (s.ses (.loc i)).cq = some q) (hhead : (s.ses (.loc i)).head.toNat < q.depth)
    (_ : value.toNat % 4096 < q.depth) (_ : q.depth ≤ 4096) (ha : 0 < a) (hused : a ≤ q.used) (hlt : a < q.depth)
    (hmove : ((s.ses (.loc i)).head.toNat + a) % q.depth = value.toNat % 4096) :
    exec (.cqHeadWrite dt i value) s = .next ((s.pass dt).setSes (.loc i)
      { s.ses (.loc i) with head := BitVec.ofNat 12 (value.toNat % 4096), cq := some { q with used := q.used - a } }) := by
  have hdist : (value.toNat % 4096 + q.depth - (s.ses (.loc i)).head.toNat % q.depth) % q.depth = a := ring_distance hhead hlt hmove
  show execCqHeadWrite dt i value s = _
  simp only [execCqHeadWrite, windowOpen_pass, h, Bool.not_true, Bool.false_eq_true, if_false, pass_ses, hq, hdist]
  have hsome : ¬(a = 0 ∧ q.used = q.depth) := fun hfull => absurd hfull.1 (Nat.ne_of_gt ha)
  rw [if_neg hsome, if_neg (Nat.not_lt.2 hused)]

/-- Without a queue a write of CQ_HEAD does nothing (log 74). -/
theorem cqHeadWrite_noQueue (dt : Nat) (i : Fin 64) (value : BitVec 32) (s : State) (hq : (s.ses (.loc i)).cq = none) :
    exec (.cqHeadWrite dt i value) s = .next (s.pass dt) := by
  show execCqHeadWrite dt i value s = _
  simp [execCqHeadWrite, hq]

/-! ### Resending -/

/-- A resend sends every entry again that was last sent 100 ms ago or longer, and notes when (R75). -/
theorem remoteCompletionResend_resends (dt : Nat) (i : Fin 64) (s : State) :
    exec (.remoteCompletionResend dt i) s = .next { (s.pass dt).setSes (.rem i) { s.ses (.rem i) with
        entries := (s.ses (.rem i)).entries.map (fun e => if e.2.2 + 100 * perMs ≤ (s.pass dt).now then (e.1, e.2.1, (s.pass dt).now) else e) } with
      out := (((s.ses (.rem i)).entries.filter (fun e => decide (e.2.2 + 100 * perMs ≤ (s.pass dt).now))).map (fun e =>
        Output.datagram (s.ses (.rem i)).port (s.ses (.rem i)).peer (remoteImage (s.ses (.rem i)).token e.2.1))).reverse ++ s.out } := by
  show execRemoteCompletionResend dt i s = _
  simp only [execRemoteCompletionResend, pass_ses, resendDue, decide_eq_true_eq]
  rfl

/-- Settles O6: of acceptance, the image that passes R61; of CQ_HEAD, the distance on the ring; the writes and the resend by their rows. -/
theorem doorbellsAndDatagramsAreAccepted : Obligations.DoorbellsAndDatagramsAreAccepted := by
  unfold Obligations.DoorbellsAndDatagramsAreAccepted
  exact ⟨doorbell_accepts, doorbell_busy, udpDatagram_accepts, bar0RegisterWrite_slot, cqHeadWrite_frees, remoteCompletionResend_resends,
    cqHeadWrite_noQueue⟩

end Sys2Proof.Machine
end

section
/-!
The SESSION commands (R524): each row's effect, then the answer in its slot.
-/
namespace Sys2Proof.Machine

/-- A request for a session gives a remote slot its token, lease and epoch (R73). -/
theorem sessionOpen_opens (dt : Nat) (i : Fin 64) (s : State) (c : Cmd) (h : Holds s (.rem i) c 0x0101 4) (hclosed : (s.ses (.rem i)).isOpen = false)
    (hlo : 100 ≤ u32 c.pay 0) (hhi : u32 c.pay 0 ≤ 60000) :
    ∃ t u tok, exec (.sessionOpen dt (.rem i)) s = .next t ∧ 64 ≤ tok.toNat ∧ tok.toNat % 64 = i.val ∧ tok ≠ (s.ses (.rem i)).last ∧
      u = { ((s.pass dt).setSes (.rem i) { s.ses (.rem i) with
              isOpen := true, token := tok, last := tok, lease := u32 c.pay 0, ends := (s.pass dt).now + u32 c.pay 0 * perMs, held := none,
              cq := some {}, lastSeq := none, stored := [], entries := [] }) with free := s.free + 1 } ∧
      Answered u t (.rem i) c St.ok
        (leB 4 tok.toNat ++ leB 4 (u32 c.pay 0) ++ leB 2 s.host.epoch.toNat ++ leB 1 1 ++ leB 1 0) := by
  obtain ⟨hlow, hslot, hnew⟩ := newToken_ok (s.pass dt) i.val (s.ses (.rem i)).last i.isLt
  refine ⟨_, (s.pass dt).openSession (.rem i) i.val (u32 c.pay 0) (some {}), _, rfl, hlow, hslot, hnew, rfl, runCmd_answered (h.pass dt) ?_⟩
  dsimp only
  rw [h.plain, need_ok _ _ _ _ (by simp [hlo, hhi]), pass_ses, hclosed, if_neg Bool.false_ne_true, if_neg (by omega : ¬u32 c.pay 0 = 0),
    ses_openSession, if_pos rfl]
  rfl

/-- A close is answered, and then the session ends (R58). -/
theorem sessionClose_ends (dt : Nat) (w : Sess) (s : State) (c : Cmd) (h : Holds s w c 0x0102 0) :
    ∃ t u, exec (.sessionClose dt w) s = .next t ∧ Answered (s.pass dt) u w c St.ok [] ∧ t = u.endSession w ∧
      (t.ses w).isOpen = false ∧ (t.ses w).cmd = none ∧ (t.ses w).cq = none ∧ (∀ p ∈ t.host.pends, p.who ≠ w) := by
  generalize hu : (s.pass dt).runCmd w 0x0102 (fun c => plain (s.pass dt) c 0 (.done St.ok [] (s.pass dt))) = u
  have hans : Answered (s.pass dt) u w c St.ok [] := hu ▸ runCmd_answered (h.pass dt) (h.plain _ _)
  obtain ⟨-, hses, -, hhost⟩ := endSession_law u w
  have hexec : exec (.sessionClose dt w) s = .next (u.endSession w) := by
    obtain ⟨hcmd, hop, hdma, hlen⟩ := h
    show execSessionClose dt w s = _
    simp only [execSessionClose, pass_ses, hcmd, hu]
    rw [if_pos ⟨hop, by simp [hdma], hlen⟩]
  refine ⟨_, u, hexec, hans, rfl, by rw [hses], by rw [hses], by rw [hses], fun p hp => ?_⟩
  rw [hhost] at hp
  simpa using (List.mem_filter.1 hp).2

/-- A lease command sets the lease, which runs anew from the command's acceptance (R56). -/
theorem sessionLease_sets (dt : Nat) (w : Sess) (s : State) (c : Cmd) (h : Holds s w c 0x0103 4) (hk : s.pwr.kind ≠ 2) (hlo : 100 ≤ u32 c.pay 0)
    (hhi : u32 c.pay 0 ≤ 60000) : ∃ t, exec (.sessionLease dt w) s = .next t ∧
      Answered ((s.pass dt).setSes w { s.ses w with lease := u32 c.pay 0, ends := c.atT + u32 c.pay 0 * perMs }) t w c St.ok
        (leB 4 (u32 c.pay 0)) := by
  refine ⟨_, rfl, runCmd_answered (h.pass dt) ?_⟩
  dsimp only
  rw [h.plain, need_ok _ _ _ _ (by simp [hlo, hhi]), vet_ok (s.pass dt) _ hk, pass_ses]

/-- A queue setup gives a local session an empty ring in its first pass (R67). -/
theorem sessionQueueSetup_sets (dt : Nat) (i : Fin 64) (s : State) (c : Cmd) (h : Holds s (.loc i) c 0x0104 16) (hk : s.pwr.kind ≠ 2)
    (hbase : u64 c.pay 0 % 64 = 0) (hdepth : u16 c.pay 8 ∈ [64, 128, 256, 512, 1024, 2048, 4096]) (hz : fld c.pay 10 6 = 0)
    (hidle : ∀ p ∈ s.host.pends, p.who ≠ .loc i) : ∃ t, exec (.sessionQueueSetup dt (.loc i)) s = .next t ∧
      Answered ((s.pass dt).setSes (.loc i) { s.ses (.loc i) with
        cq := some { base := BitVec.ofNat 64 (u64 c.pay 0), depth := u16 c.pay 8, reserved := 0, used := 0, tail := 0, phase := true },
        head := 0 }) t (.loc i) c St.ok [] := by
  have hnone : (!(s.pass dt).host.pends.any (fun p => p.who == .loc i)) = true := by simpa using hidle
  refine ⟨_, rfl, runCmd_answered (h.pass dt) ?_⟩
  dsimp only
  rw [h.plain, need_ok _ _ _ _ (decide_eq_true ⟨hbase, hdepth, hz⟩), vet_ok (s.pass dt) _ hk, need_ok _ _ _ _ rfl, need_ok _ _ _ _ hnone, pass_ses]

/-- A completion ack drops the entry it names (R75). -/
theorem sessionCompletionAck_drops (dt : Nat) (i : Fin 64) (s : State) (c : Cmd) (h : Holds s (.rem i) c 0x0105 8) (hk : s.pwr.kind ≠ 2)
    (hn : u8 c.pay 0 = 1) (hz : fld c.pay 1 3 = 0) : ∃ t, exec (.sessionCompletionAck dt (.rem i)) s = .next t ∧
      Answered ((s.pass dt).setSes (.rem i) ((s.ses (.rem i)).ack (BitVec.ofNat 32 (u32 c.pay 4)))) t (.rem i) c St.ok [] := by
  refine ⟨_, rfl, runCmd_answered (h.pass dt) ?_⟩
  dsimp only
  rw [hn, h.plain, need_ok _ _ _ _ (by simp [hz]), vet_ok (s.pass dt) _ hk, need_ok _ _ _ _ rfl, pass_ses]
  rfl

/-- A NOP answers the epoch and the time left of the lease (R56). -/
theorem sessionNop_answers (dt : Nat) (w : Sess) (s : State) (c : Cmd) (h : Holds s w c 0x0107 0) :
    ∃ t, exec (.sessionNop dt w) s = .next t ∧
      Answered (s.pass dt) t w c St.ok
        (leB 2 s.host.epoch.toNat ++ leB 2 0 ++ leB 4 (((s.ses w).ends - (s.pass dt).now) / perMs)) := by
  refine ⟨_, rfl, runCmd_answered (h.pass dt) ?_⟩
  rw [h.plain, pass_ses]
  rfl

/-- Settles O7: a lemma for each row, by its checks and the answer of a command that ends at once; close by what the end of a session leaves. -/
theorem sessionCommandsAnswer : Obligations.SessionCommandsAnswer := by
  unfold Obligations.SessionCommandsAnswer
  exact ⟨sessionOpen_opens, sessionClose_ends, sessionLease_sets, sessionQueueSetup_sets, sessionCompletionAck_drops, sessionNop_answers⟩

end Sys2Proof.Machine
end

section
/-!
PCI Express (R42 to R44, R70, R77, R563): the function level reset, configuration requests and what the function records.
-/
namespace Sys2Proof.Machine

/-! ### The function level reset -/

/-- The local session of one slot ends, and the slot's token and head read zero (R44). -/
def flrClose (s : State) (i : Nat) : State :=
  if h : i < 64 then
    let w := Sess.loc ⟨i, h⟩
    let s := if (s.ses w).isOpen then s.endSession w else s
    s.setSes w { s.ses w with head := 0, token := 0 }
  else s

/-- A function level reset changes the epoch, closes the listed local slots and turns the window and MSI-X off (R44, R70). -/
theorem flrBegin_eq (s : State) :
    let t := ((s.epochUp 4 0).host.loc.map Prod.fst).foldl flrClose (s.epochUp 4 0)
    s.flrBegin = { t with host := { t.host with
      flr := true, msixOn := false, msix := [], pba := [],
      cfg := { t.host.cfg with bar0 := 0, bar2 := 0, readReq := 512, d3 := false, msixMask := false } } } := rfl

/-- `t` is `s` after local sessions were closed, as far as a function level reset is judged: no remote session opens or ends, and no local
session opens. -/
structure LocalsClosed (s t : State) : Prop where
  params : t.params = s.params
  faults : t.faults = s.faults
  motion : t.motion = s.motion
  fire : t.fire = s.fire
  host : t.host = { s.host with loc := t.host.loc, rem := t.host.rem, bar2 := t.host.bar2, pends := t.host.pends }
  remotes : ∀ i, (t.ses (.rem i)).isOpen = (s.ses (.rem i)).isOpen
  locals : ∀ i, (s.ses (.loc i)).isOpen = false → (t.ses (.loc i)).isOpen = false

theorem LocalsClosed.refl (s : State) : LocalsClosed s s := ⟨rfl, rfl, rfl, rfl, rfl, fun _ => rfl, fun _ h => h⟩

theorem LocalsClosed.trans {s t u : State} (h : LocalsClosed s t) (k : LocalsClosed t u) : LocalsClosed s u where
  params := k.params.trans h.params
  faults := k.faults.trans h.faults
  motion := k.motion.trans h.motion
  fire := k.fire.trans h.fire
  host := by rw [k.host, h.host]
  remotes := fun i => (k.remotes i).trans (h.remotes i)
  locals := fun i hi => k.locals i (h.locals i hi)

/-- The end of a local session. -/
theorem endSession_closes (s : State) (i : Fin 64) : LocalsClosed s (s.endSession (.loc i)) := by
  obtain ⟨-, hses, hothers, hhost⟩ := endSession_law s (.loc i)
  obtain ⟨hparams, hfaults, hmotion, hfire, -⟩ := endSession_keeps s (.loc i)
  refine ⟨hparams, hfaults, hmotion, hfire, by rw [hhost], fun j => by rw [hothers _ (by simp)], fun j hj => ?_⟩
  by_cases hij : Sess.loc j = .loc i
  · rw [hij, hses]
  · rw [hothers _ hij, hj]

/-- A slot's token and head written. -/
theorem setSes_closes (s : State) (i : Fin 64) (x : Session) (hx : x.isOpen = (s.ses (.loc i)).isOpen) : LocalsClosed s (s.setSes (.loc i) x) := by
  obtain ⟨hparams, hfaults, hmotion, hfire, -⟩ := setSes_keeps s (.loc i) x
  refine ⟨hparams, hfaults, hmotion, hfire, rfl, fun j => by rw [ses_setSes_other _ _ _ _ (by simp)], fun j hj => ?_⟩
  by_cases hij : Sess.loc j = .loc i
  · rw [hij, ses_setSes_same, hx, ← hij, hj]
  · rw [ses_setSes_other _ _ _ _ hij, hj]

/-- Closing a slot closes its session and opens none. -/
theorem flrClose_closes (s : State) (i : Fin 64) : LocalsClosed s (flrClose s i.val) ∧ ((flrClose s i.val).ses (.loc i)).isOpen = false := by
  have hstep : flrClose s i.val = State.setSes (if (s.ses (.loc i)).isOpen then s.endSession (.loc i) else s) (.loc i)
      { State.ses (if (s.ses (.loc i)).isOpen then s.endSession (.loc i) else s) (.loc i) with head := 0, token := 0 } := dif_pos i.isLt
  rw [hstep, ses_setSes_same]
  split
  · obtain ⟨-, hses, -⟩ := endSession_law s (.loc i)
    exact ⟨(endSession_closes s i).trans (setSes_closes _ i _ rfl), by rw [hses]⟩
  · rename_i hclosed
    exact ⟨setSes_closes s i _ rfl, by simpa using hclosed⟩

/-- Closing a number that is no slot does nothing. -/
theorem flrClose_noSlot (s : State) (i : Nat) (h : ¬i < 64) : flrClose s i = s := dif_neg h

/-- Closing several slots closes each of them and opens none. -/
theorem foldl_flrClose (l : List Nat) (s : State) :
    LocalsClosed s (l.foldl flrClose s) ∧ ∀ i : Fin 64, i.val ∈ l → ((l.foldl flrClose s).ses (.loc i)).isOpen = false := by
  induction l generalizing s with
  | nil => exact ⟨.refl s, by simp⟩
  | cons a t ih =>
    obtain ⟨hrest, hmem⟩ := ih (flrClose s a)
    have hfirst : LocalsClosed s (flrClose s a) := by
      by_cases ha : a < 64
      · exact (flrClose_closes s ⟨a, ha⟩).1
      · rw [flrClose_noSlot s a ha]; exact .refl s
    refine ⟨hfirst.trans hrest, fun i hi => ?_⟩
    rcases List.mem_cons.1 hi with rfl | hi
    · exact hrest.locals i (flrClose_closes s i).2
    · exact hmem i hi

/-- An index that a map holds is among its indices. -/
theorem mem_keys_of_look {α : Type} (m : SMap α) (k : Nat) (v : α) (h : look m k = some v) : k ∈ m.map Prod.fst := by
  induction m with
  | nil => simp [look] at h
  | cons e t ih =>
    obtain ⟨j, w⟩ := e
    simp only [look] at h
    split at h
    · simp [*]
    · exact List.mem_cons_of_mem _ (ih h)

/-- An open local session's slot is listed. -/
theorem listed_of_open {s : State} {i : Fin 64} (h : (s.ses (.loc i)).isOpen = true) : i.val ∈ s.host.loc.map Prod.fst := by
  cases hlook : look s.host.loc i.val with
  | none => simp [State.ses, sel, hlook] at h
  | some x => exact mem_keys_of_look _ _ _ hlook

/-- What a function level reset leaves (R44, R70). -/
theorem flrBegin_law (s : State) :
    s.flrBegin.host.epoch = s.host.epoch + 1 ∧ s.flrBegin.host.ecKind = 4 ∧ s.flrBegin.host.ecEpoch = s.host.epoch + 1 ∧ s.flrBegin.host.flr = true ∧
    s.flrBegin.host.msixOn = false ∧ (∀ i, (s.flrBegin.ses (.loc i)).isOpen = false) ∧
    (∀ i, (s.flrBegin.ses (.rem i)).isOpen = (s.ses (.rem i)).isOpen) ∧
    s.flrBegin.params = s.params ∧ s.flrBegin.faults = s.faults ∧ s.flrBegin.motion = s.motion ∧ s.flrBegin.fire = s.fire := by
  obtain ⟨⟨_, _, _, _, _, _, _, _, _, _, _, hframe⟩, hopen⟩ := epochUp_law s 4 0
  have heq := flrBegin_eq s
  generalize s.epochUp 4 0 = u at hframe hopen heq
  obtain ⟨hclosed, hall⟩ := foldl_flrClose (u.host.loc.map Prod.fst) u
  generalize (u.host.loc.map Prod.fst).foldl flrClose u = v at hclosed hall heq
  have hses : ∀ w, s.flrBegin.ses w = v.ses w := fun w => by rw [heq]; cases w <;> rfl
  have hhost : s.flrBegin.host.epoch = s.host.epoch + 1 ∧ s.flrBegin.host.ecKind = 4 ∧ s.flrBegin.host.ecEpoch = s.host.epoch + 1 := by
    rw [heq]
    dsimp only
    rw [hclosed.host, hframe]
    exact ⟨rfl, rfl, rfl⟩
  obtain ⟨hepoch, hkind, hcause⟩ := hhost
  refine ⟨hepoch, hkind, hcause, by rw [heq], by rw [heq], fun i => ?_, fun i => ?_, ?_, ?_, ?_, ?_⟩
  · rw [hses]
    cases hi : (u.ses (.loc i)).isOpen with
    | true => exact hall i (listed_of_open hi)
    | false => exact hclosed.locals i hi
  · rw [hses, hclosed.remotes i, (hopen (.rem i)).1]
    rfl
  · rw [heq]; exact hclosed.params.trans (by rw [hframe])
  · rw [heq]; exact hclosed.faults.trans (by rw [hframe])
  · rw [heq]; exact hclosed.motion.trans (by rw [hframe])
  · rw [heq]; exact hclosed.fire.trans (by rw [hframe])

/-- PE_PERST_N has the effect of a function level reset once PORST_N is high (R563). -/
theorem pePerstN_high (dt : Nat) (s : State) (h : s.pwr.porst = true) : exec (.pePerstN dt) s = exec (.functionLevelReset dt) s := by
  show execPePerstN dt s = execFunctionLevelReset dt s
  simp [execPePerstN, execFunctionLevelReset, h]

/-- Before PORST_N rises PE_PERST_N does nothing (R563). -/
theorem pePerstN_low (dt : Nat) (s : State) (h : s.pwr.porst = false) : exec (.pePerstN dt) s = .next (s.pass dt) := by
  show execPePerstN dt s = _
  simp [execPePerstN, h]

/-! ### Configuration requests -/

/-- Before the function is ready every request is answered with Retry Status (R43). -/
theorem pcieConfigRequest_retry (dt : Nat) (req : CfgReq) (s : State) (h : s.pwr.crs = true) :
    exec (.pcieConfigRequest dt req) s = .next { s.pass dt with out := .config true 0 :: s.out } := by
  show execPcieConfigRequest dt req s = _
  simp [execPcieConfigRequest, h, State.emit]

/-- A read answers its item (R42). -/
theorem pcieConfigRequest_reads (dt : Nat) (item : CfgItem) (s : State) (h : s.pwr.crs = false) :
    exec (.pcieConfigRequest dt (.read item)) s = .next { s.pass dt with out := .config false (s.cfgValue item) :: s.out } ∧
    (item = .ids → s.cfgValue item = 0x28081DA7) ∧
    (item = .subsys → s.cfgValue item = BitVec.ofNat 64 (s.otp.subsys.toNat * 65536 + s.otp.subven.toNat)) := by
  refine ⟨?_, fun hids => by rw [hids]; rfl, fun hsub => by rw [hsub]; rfl⟩
  show execPcieConfigRequest dt (.read item) s = _
  simp only [execPcieConfigRequest, State.pass_pwr, h, Bool.false_eq_true, if_false]
  rfl

/-- Once the function is ready a write is answered and takes effect (R42). -/
theorem pcieConfigRequest_write (dt : Nat) (item : CfgItem) (v : BitVec 64) (s : State) (h : s.pwr.crs = false) :
    exec (.pcieConfigRequest dt (.write item v)) s = .next (((s.pass dt).emit (.config false 0)).cfgWrite item v) := by
  show execPcieConfigRequest dt (.write item v) s = _
  simp only [execPcieConfigRequest, State.pass_pwr, h, Bool.false_eq_true, if_false]

/-- Sending what is pending touches the pending bits and the outputs alone. -/
theorem sendPending_frame (s : State) : ∃ p o, s.sendPending = { s with host := { s.host with pba := p }, out := o } := by
  unfold State.sendPending
  split
  · exact ⟨s.host.pba, s.out, rfl⟩
  · exact ⟨_, _, rfl⟩

/-- A write of the MSI-X control sets enable and mask, and may send what was pending (R42). -/
theorem pcieConfigRequest_writesMsix (dt : Nat) (v : BitVec 64) (s : State) (h : s.pwr.crs = false) :
    ∃ t, exec (.pcieConfigRequest dt (.write .msix v)) s = .next t ∧ t.host.msixOn = v.getLsbD 15 ∧ t.host.cfg.msixMask = v.getLsbD 14 ∧
      t = { s.pass dt with host := { s.host with msixOn := v.getLsbD 15, cfg := { s.host.cfg with msixMask := v.getLsbD 14 }, pba := t.host.pba }, out := t.out } := by
  obtain ⟨p, o, hsent⟩ := sendPending_frame { (s.pass dt).emit (.config false 0) with
    host := { s.host with msixOn := v.getLsbD 15, cfg := { s.host.cfg with msixMask := v.getLsbD 14 } } }
  exact ⟨_, (pcieConfigRequest_write dt .msix v s h).trans (congrArg _ hsent), rfl, rfl, rfl⟩

/-- A number masked with the complement of its low `n` bits is a multiple of `2 ^ n`. -/
theorem clearLow_mod (v : BitVec 64) (n : Nat) : (v &&& ~~~((BitVec.allOnes n).setWidth 64)).toNat % 2 ^ n = 0 := by
  have hlow : (v &&& ~~~((BitVec.allOnes n).setWidth 64)).setWidth n = 0 := by
    apply BitVec.eq_of_getLsbD_eq
    intro i hi
    simp [hi]
  rw [← BitVec.toNat_setWidth, hlow]
  rfl

/-- A write of an item other than the MSI-X control touches the configuration space alone: a constant stays, a BAR keeps its size's bits 0 (R42). -/
theorem cfgWrite_law (s : State) (item : CfgItem) (v : BitVec 64) (h : item ≠ .msix) :
    ∃ c, s.cfgWrite item v = { s with host := { s.host with cfg := c } } ∧ (item ∈ [.ids, .cls, .subsys] → c = s.host.cfg) ∧
      (item = .bar false → c.bar0.toNat % 2 ^ 22 = 0) ∧ (item = .bar true → c.bar2.toNat % 2 ^ 28 = 0) := by
  cases item with
  | ids | cls | subsys => exact ⟨s.host.cfg, rfl, fun _ => rfl, nofun, nofun⟩
  | bar two =>
    cases two with
    | true => exact ⟨_, rfl, by simp, nofun, fun _ => clearLow_mod v 28⟩
    | false => exact ⟨_, rfl, by simp, fun _ => clearLow_mod v 22, nofun⟩
  | payload =>
    unfold State.cfgWrite
    dsimp only
    split
    · exact ⟨_, rfl, by simp, nofun, nofun⟩
    · exact ⟨s.host.cfg, rfl, by simp, nofun, nofun⟩
  | readReq =>
    unfold State.cfgWrite
    dsimp only
    split
    · exact ⟨_, rfl, by simp, nofun, nofun⟩
    · exact ⟨s.host.cfg, rfl, by simp, nofun, nofun⟩
  | power =>
    unfold State.cfgWrite
    dsimp only
    split
    · exact ⟨_, rfl, by simp, nofun, nofun⟩
    · split
      · exact ⟨_, rfl, by simp, nofun, nofun⟩
      · exact ⟨s.host.cfg, rfl, by simp, nofun, nofun⟩
  | msix => exact absurd rfl h
  | aer => exact ⟨_, rfl, by simp, nofun, nofun⟩

/-- A write of another item is answered and touches the configuration space alone (R42). -/
theorem pcieConfigRequest_writesItem (dt : Nat) (item : CfgItem) (v : BitVec 64) (s : State) (h : s.pwr.crs = false) (hitem : item ≠ .msix) :
    ∃ t, exec (.pcieConfigRequest dt (.write item v)) s = .next t ∧
      t = { s.pass dt with host := { s.host with cfg := t.host.cfg }, out := .config false 0 :: s.out } ∧
      (item ∈ [.ids, .cls, .subsys] → t.host.cfg = s.host.cfg) ∧
      (item = .bar false → t.host.cfg.bar0.toNat % 2 ^ 22 = 0) ∧ (item = .bar true → t.host.cfg.bar2.toNat % 2 ^ 28 = 0) := by
  obtain ⟨c, hwritten, hconst, hbar0, hbar2⟩ := cfgWrite_law ((s.pass dt).emit (.config false 0)) item v hitem
  exact ⟨_, (pcieConfigRequest_write dt item v s h).trans (congrArg _ hwritten), rfl, hconst, hbar0, hbar2⟩

/-- Settles O8: the reset by what an epoch change and the end of each local session leave, the requests by what a write touches, the records by
what a hit leaves. -/
theorem pcieEventsTakeEffect : Obligations.PcieEventsTakeEffect := by
  unfold Obligations.PcieEventsTakeEffect
  refine ⟨fun dt s => ⟨_, rfl, flrBegin_law (s.pass dt)⟩, pePerstN_high, pePerstN_low, fun _ _ => rfl, pcieConfigRequest_retry, pcieConfigRequest_reads,
    pcieConfigRequest_writesMsix, pcieConfigRequest_writesItem, ?linkDown, ?poisoned⟩
  case linkDown => exact fun dt s htakes => ⟨_, rfl, pass_fault_recorded s dt F.pcieLinkDown 0 htakes⟩
  case poisoned =>
    intro dt _ s htakes
    exact ⟨_, rfl, hit_recorded _ F.poisonedTlp 0 idLocal 2 (takes_frame s _ _ _ _ rfl rfl htakes)⟩

end Sys2Proof.Machine
end

section
/-!
The two ways a job image comes in (R46, R84, R86 to R88): JOB_LOAD by DMA and the windows of BAR2, and what its arrival leaves.
-/
namespace Sys2Proof.Machine

/-! ### Commands that answer PENDING -/

/-- Time leaves the room of a queue. -/
theorem HasRoom.pass {s : State} {w : Sess} (h : HasRoom s w) (dt : Nat) : HasRoom (s.pass dt) w := by
  unfold HasRoom at *
  rwa [pass_ses]

/-- A command whose meaning answers PENDING waits with its entry reserved. -/
theorem runCmd_waiting {s u : State} {w : Sess} {c : Cmd} {op obj : Nat} {data pay : Bytes} {f : Cmd → Reply} (hcmd : (s.ses w).cmd = some c)
    (hop : c.op = op) (hroom : HasRoom s w) (hf : f c = .pend obj u data pay) : Waiting u (s.runCmd w op f) w c obj data pay := by
  rw [runCmd_eq s w c op f hcmd hop, hf]
  exact reply_waiting s u w c obj data pay hroom

/-! ### The directory -/

/-- A directory entry that is written reads back, and the others stand. -/
theorem job_setJob (s : State) (i x : Nat) (j : Job) : (s.setJob i j).job x = if x = i then j else s.job x :=
  sel_put s.lib.dir i x j {}

/-- Emptying an entry leaves the others. -/
theorem job_emptyJob_other (s : State) {i x : Nat} (h : x ≠ i) : (s.emptyJob i).job x = s.job x := by
  simp only [State.job, State.emptyJob, sel, look_cut_other _ _ _ h]

/-! ### Claiming an entry -/

/-- JOB_LOAD claims an EMPTY entry and waits for the image (R84, R86). -/
theorem jobLoad_claims (dt : Nat) (w : Sess) (s : State) (c : Cmd) (l : List DmaDesc) (a : Bytes) (h : HoldsDma s w c 0x0201 16 l a)
    (hroom : HasRoom s w) (hk : s.pwr.kind ≠ 2) (hlc : s.otp.lc ≠ 4) (hi : u16 a 0 < 4096) (hz : fld a 2 14 = 0) (hempty : (s.job (u16 a 0)).state = 0) :
    ∃ t, exec (.jobLoad dt w) s = .next t ∧ Waiting ((s.pass dt).setJob (u16 a 0) { state := 1 }) t w c (u16 a 0) [] [] := by
  obtain ⟨hcmd, hop, hdma, hlen, hlist, harg⟩ := h
  have hempty' : ((s.pass dt).job (u16 a 0)).state = 0 := hempty
  refine ⟨_, rfl, runCmd_waiting (by rw [pass_ses]; exact hcmd) hop (hroom.pass dt) ?_⟩
  dsimp only
  rw [dmaForm_ok _ c 16 l a _ hdma hlen hlist harg, need_ok _ _ _ _ (by simp [indexOk, hi, hz]), vet_ok (s.pass dt) _ hk, hasQueue_ok _ _ _ (hroom.pass dt),
    need_ok _ _ _ _ (by simp [hempty']), notRetired_ok (s.pass dt) _ hlc]

/-- The first window of an image claims an EMPTY entry and BAR2 (R84, R86). -/
theorem jobWindowOpen_claims (dt : Nat) (w : Sess) (s : State) (c : Cmd) (h : Holds s w c 0x0202 12) (hk : s.pwr.kind ≠ 2) (hi : u16 c.pay 0 < 4096)
    (hz : u16 c.pay 2 = 0) (hoff : u64 c.pay 4 % 4096 = 0) (hfree : s.host.bar2 = none) (hempty : (s.job (u16 c.pay 0)).state = 0) :
    ∃ t, exec (.jobWindowOpen dt w) s = .next t ∧
      Answered { (s.pass dt).setJob (u16 c.pay 0) { state := 1 } with
        host := { s.host with bar2 := some { who := w, index := u16 c.pay 0, off := u64 c.pay 4, isOpen := true } } } t w c St.ok [] := by
  have hempty' : ((s.pass dt).job (u16 c.pay 0)).state = 0 := hempty
  refine ⟨_, rfl, runCmd_answered (h.pass dt) ?_⟩
  dsimp only
  rw [h.plain, need_ok _ _ _ _ (by simp [indexOk, hi, hz, hoff]), vet_ok (s.pass dt) _ hk, State.pass_host, hfree]
  exact need_ok _ _ _ _ (by simp [hempty'])

/-- A later window of the same image opens further on (R86). -/
theorem jobWindowOpen_moves (dt : Nat) (w : Sess) (s : State) (c : Cmd) (b : Bar2Win) (h : Holds s w c 0x0202 12) (hk : s.pwr.kind ≠ 2)
    (hi : u16 c.pay 0 < 4096) (hz : u16 c.pay 2 = 0) (hoff : u64 c.pay 4 % 4096 = 0) (hbar2 : s.host.bar2 = some b) (hwho : b.who = w)
    (hindex : b.index = u16 c.pay 0) (hloading : (s.job b.index).state = 1) (hon : b.off < u64 c.pay 4) :
    ∃ t, exec (.jobWindowOpen dt w) s = .next t ∧
      Answered { s.pass dt with host := { s.host with bar2 := some { b with off := u64 c.pay 4, isOpen := true } } } t w c St.ok [] := by
  have hloading' : ((s.pass dt).job (u16 c.pay 0)).state = 1 := hindex ▸ hloading
  refine ⟨_, rfl, runCmd_answered (h.pass dt) ?_⟩
  dsimp only
  rw [h.plain, need_ok _ _ _ _ (by simp [indexOk, hi, hz, hoff]), vet_ok (s.pass dt) _ hk, State.pass_host, hbar2]
  dsimp only
  rw [if_neg (by simp [hwho]), need_ok _ _ _ _ (by simp [hindex, hloading', hon])]

/-! ### Bytes through BAR2 -/

/-- Delivered bytes stand at their offsets, and every other offset is as it was. -/
theorem look_deliverBytes (b : Bytes) (m : SMap (BitVec 8)) (a x : Nat) :
    look (deliverBytes m a b) x = if a ≤ x ∧ x < a + b.length then b[x - a]? else look m x := by
  induction b generalizing m a with
  | nil => rw [deliverBytes, if_neg (by simp only [List.length_nil]; omega)]
  | cons y t ih =>
    rw [deliverBytes, ih, List.length_cons]
    rcases Nat.lt_trichotomy x a with hlt | rfl | hgt
    · rw [if_neg (by omega), if_neg (by omega), look_put_other _ _ _ _ (by omega)]
    · rw [if_neg (by omega), if_pos (by omega), look_put_same, Nat.sub_self, List.getElem?_cons_zero]
    · obtain ⟨k, rfl⟩ : ∃ k, x = a + 1 + k := ⟨x - (a + 1), by omega⟩
      rw [look_put_other _ _ _ _ (by omega), show a + 1 + k - (a + 1) = k by omega, show a + 1 + k - a = k + 1 by omega, List.getElem?_cons_succ]
      by_cases hin : k < t.length
      · rw [if_pos (by omega), if_pos (by omega)]
      · rw [if_neg (by omega), if_neg (by omega)]

/-- A write while a window is open is kept at its image offset (R46, R86). -/
theorem bar2Write_keeps (dt addr : Nat) (bytes : Bytes) (s : State) (b : Bar2Win) (h : s.windowOpen = true) (hbar2 : s.host.bar2 = some b)
    (hopen : b.isOpen = true) :
    ∃ m, exec (.bar2Write dt addr bytes) s = .next { s.pass dt with host := { s.host with bar2 := some { b with bytes := m } } } ∧
      (∀ k, (h : k < bytes.length) → look m (b.off + addr + k) = some bytes[k]) ∧
      (∀ x, x < b.off + addr ∨ b.off + addr + bytes.length ≤ x → look m x = look b.bytes x) := by
  refine ⟨deliverBytes b.bytes (b.off + addr) bytes, ?_, fun k hk => ?_, fun x hx => ?_⟩
  · show execBar2Write dt addr bytes s = _
    simp [execBar2Write, hbar2, hopen, h]
  · rw [look_deliverBytes, if_pos (by omega), Nat.add_sub_cancel_left, List.getElem?_eq_getElem hk]
  · rw [look_deliverBytes, if_neg (by omega)]

/-- A write with no window open is only counted (R46). -/
theorem bar2Write_drops (dt addr : Nat) (bytes : Bytes) (s : State) (h : s.windowOpen = false ∨ ∀ b, s.host.bar2 = some b → b.isOpen = false) :
    exec (.bar2Write dt addr bytes) s = .next { s.pass dt with host := { s.host with dropBar2 := sat 8 (s.host.dropBar2 + 1) } } := by
  show execBar2Write dt addr bytes s = _
  unfold execBar2Write
  dsimp only
  rw [State.pass_host]
  cases hbar2 : s.host.bar2 with
  | none => rfl
  | some b =>
    have hshut : ¬(b.isOpen = true ∧ (s.pass dt).windowOpen = true) := by
      rcases h with hclosed | hnone
      · simp [hclosed]
      · simp [hnone b hbar2]
    exact if_neg hshut

/-! ### Closing a window -/

/-- A close that is not the final one leaves the bytes for the next window (R86). -/
theorem jobWindowClose_pauses (dt : Nat) (w : Sess) (s : State) (c : Cmd) (b : Bar2Win) (h : Holds s w c 0x0203 16) (hk : s.pwr.kind ≠ 2)
    (hi : u16 c.pay 0 < 4096) (hfinal : u8 c.pay 2 = 0) (hz : u8 c.pay 3 = 0) (hlen : u64 c.pay 4 = 0) (hcrc : u32 c.pay 12 = 0)
    (hbar2 : s.host.bar2 = some b) (hwho : b.who = w) (hindex : b.index = u16 c.pay 0) (hopen : b.isOpen = true) :
    ∃ t, exec (.jobWindowClose dt w) s = .next t ∧
      Answered { s.pass dt with host := { s.host with bar2 := some { b with isOpen := false } } } t w c St.ok [] := by
  refine ⟨_, rfl, runCmd_answered (h.pass dt) ?_⟩
  dsimp only
  rw [h.plain, need_ok _ _ _ _ (by simp [indexOk, hi, hfinal, hz, hlen, hcrc]), vet_ok (s.pass dt) _ hk, State.pass_host, hbar2]
  dsimp only
  rw [need_ok _ _ _ _ (by simp [hwho, hindex, hopen]), if_pos hfinal]

/-- The final close gives BAR2 up and makes the image PENDING (R86). -/
theorem jobWindowClose_ends (dt : Nat) (w : Sess) (s : State) (c : Cmd) (b : Bar2Win) (h : Holds s w c 0x0203 16) (hroom : HasRoom s w)
    (hk : s.pwr.kind ≠ 2) (hi : u16 c.pay 0 < 4096) (hfinal : u8 c.pay 2 = 1) (hz : u8 c.pay 3 = 0) (hbar2 : s.host.bar2 = some b) (hwho : b.who = w)
    (hindex : b.index = u16 c.pay 0) (hopen : b.isOpen = true) :
    ∃ t, exec (.jobWindowClose dt w) s = .next t ∧
      Waiting { s.pass dt with host := { s.host with bar2 := none } } t w c b.index (windowImage b.bytes (u64 c.pay 4)) [] := by
  obtain ⟨hcmd, hop, -, -⟩ := h.pass dt
  refine ⟨_, rfl, runCmd_waiting hcmd hop (hroom.pass dt) ?_⟩
  dsimp only
  rw [h.plain, need_ok _ _ _ _ (by simp [indexOk, hi, hfinal, hz]), vet_ok (s.pass dt) _ hk, State.pass_host, hbar2]
  dsimp only
  rw [need_ok _ _ _ _ (by simp [hwho, hindex, hopen]), if_neg (by omega), hasQueue_ok _ _ _ (hroom.pass dt), hindex]

/-! ### The image has arrived -/

/-- How the image of a load comes: over its descriptors, or through the windows with the CRC of its close (R86). -/
def Pend.Brings (p : Pend) (chain : List Bytes) (data img : Bytes) : Prop :=
  p.cmd.op = 0x0201 ∧ p.dataIn chain data = some img ∨ p.cmd.op = 0x0203 ∧ p.data = img ∧ crc32c img = BitVec.ofNat 32 (u32 p.cmd.pay 12)

/-- A load ends by the check of its image (R87): none fails it, a job is stored. -/
def State.loadJudged (s : State) (p : Pend) : Option Job → State
  | none => s.loadFails p p.obj.toNat St.badParam
  | some j => s.storeJob p p.obj.toNat j

/-- An image that has come is judged by R87. -/
theorem loadComplete_checks {dt : Nat} {w : Sess} {seq : BitVec 32} {chain : List Bytes} {data img : Bytes} {s : State} {p : Pend}
    (hp : s.pend? w seq = some p) (hb : p.Brings chain data img) :
    exec (.loadComplete dt w seq chain data) s =
      .next ((s.pass dt).loadJudged p (checkImage img)) := by
  have hp' : (s.pass dt).pend? w seq = some p := hp
  show execLoadComplete dt w seq chain data s = _
  unfold execLoadComplete
  dsimp only
  rcases hb with ⟨hop, hin⟩ | ⟨hop, rfl, hcrc⟩
  · rw [finish_some _ _ _ _ _ _ hp' (by simp [hop]), if_neg (by simp [hop]), hin]
    rfl
  · rw [finish_some _ _ _ _ _ _ hp' (by simp [hop]), if_pos hop, if_pos hcrc]
    rfl

/-- An image that is not good leaves its entry EMPTY and completes BAD_PARAM (R84, R87). -/
theorem loadComplete_bad (dt : Nat) (w : Sess) (seq : BitVec 32) (chain : List Bytes) (data img : Bytes) (s : State) (p : Pend)
    (hp : s.pend? w seq = some p) (hq : ∃ q, (s.ses w).cq = some q) (hb : p.Brings chain data img) (hbad : checkImage img = none) :
    ∃ t, exec (.loadComplete dt w seq chain data) s = .next t ∧ Posted ((s.pass dt).emptyJob p.obj.toNat) t p St.badParam p.obj.toNat 0 idHob := by
  obtain ⟨q, hq⟩ := hq
  obtain ⟨rfl, -⟩ := pend_who _ _ _ _ hp
  refine ⟨_, loadComplete_checks hp hb, ?_⟩
  rw [hbad]
  exact complete_posted _ p q _ _ _ hq

/-- What the bands of a job save, those that do not shrink, and the free values left (R87). -/
def State.bandPacking (s : State) (j : Job) : Nat × Nat × Nat :=
  if j.compresses then storeBands j (ofType j.secs 1) s.free else (0, 0, s.free)

/-- The codec's counters after a job's bands were packed (R450). -/
def State.afterPacking (s : State) (j : Job) : State :=
  let s' : State := { s with free := (s.bandPacking j).2.2 }
  if j.compresses then s'.codecRan (ofType j.secs 1).length (s.bandPacking j).2.1 0 else s'

/-- Packing touches the codec's counters and the free values alone. -/
theorem afterPacking_frame (s : State) (j : Job) : s.afterPacking j = { s with
    chip := { s.chip with jobs := (s.afterPacking j).chip.jobs, noshr := (s.afterPacking j).chip.noshr, strErr := (s.afterPacking j).chip.strErr },
    free := (s.afterPacking j).free } := by
  unfold State.afterPacking
  dsimp only
  split <;> rfl

/-- The LOADED entry of a checked image: its bytes less what packing saves (R84, R88). -/
def State.loadedEntry (s : State) (j : Job) : Job :=
  { j with state := 2, stored := j.image.length - (s.bandPacking j).1, noshrink := (s.bandPacking j).2.1 }

/-- An image whose bands the codec does not compress is stored as delivered (R87). -/
theorem loadedEntry_plain (s : State) (j : Job) (h : j.compresses = false) :
    (s.loadedEntry j).stored = j.image.length ∧ (s.loadedEntry j).noshrink = 0 := by
  simp [State.loadedEntry, State.bandPacking, h]

/-- The library does not depend on the codec's counters. -/
theorem emptyJob_afterPacking_lib (s : State) (j : Job) (i : Nat) : ((s.afterPacking j).emptyJob i).lib = (s.emptyJob i).lib := by
  rw [afterPacking_frame]
  rfl

/-- An image that fits becomes a LOADED entry (R84, R88). -/
theorem storeJob_fits {s : State} {p : Pend} {i : Nat} {j : Job} (h : (s.emptyJob i).libUsed + j.image.length ≤ s.libSize) :
    s.storeJob p i j = (((s.afterPacking j).emptyJob i).setJob i (s.loadedEntry j)).complete p St.ok (s.loadedEntry j).stored
      (if j.compresses then idCodec else idHob) := by
  have hroom : ¬((s.afterPacking j).emptyJob i).libSize < ((s.afterPacking j).emptyJob i).libUsed + (s.loadedEntry j).stored := by
    have hless : (s.loadedEntry j).stored ≤ j.image.length := Nat.sub_le _ _
    have hsize : s.libSize = (s.emptyJob i).libSize := rfl
    simp only [State.libUsed, State.libSize, emptyJob_afterPacking_lib] at h hsize ⊢
    omega
  exact if_neg hroom

/-- A good image that fits becomes a LOADED entry of no more bytes than the image (R84, R87, R88). -/
theorem loadComplete_good (dt : Nat) (w : Sess) (seq : BitVec 32) (chain : List Bytes) (data img : Bytes) (s : State) (p : Pend) (j : Job)
    (hp : s.pend? w seq = some p) (hq : ∃ q, (s.ses w).cq = some q) (hb : p.Brings chain data img) (hgood : checkImage img = some j)
    (hfits : (s.emptyJob p.obj.toNat).libUsed + j.image.length ≤ s.libSize) :
    ∃ t u n k, exec (.loadComplete dt w seq chain data) s = .next t ∧ n ≤ j.image.length ∧ (j.compresses = false → n = j.image.length ∧ k = 0) ∧
      u.job p.obj.toNat = { j with state := 2, stored := n, noshrink := k } ∧ (∀ x, x ≠ p.obj.toNat → u.job x = s.job x) ∧
      u = { s.pass dt with lib := { s.lib with dir := u.lib.dir }, chip := { s.chip with jobs := u.chip.jobs, noshr := u.chip.noshr, strErr := u.chip.strErr }, free := u.free } ∧
      Posted u t p St.ok p.obj.toNat n (if j.compresses then idCodec else idHob) := by
  obtain ⟨q, hq⟩ := hq
  obtain ⟨rfl, -⟩ := pend_who _ _ _ _ hp
  have hframe := afterPacking_frame (s.pass dt) j
  have hexec := loadComplete_checks (dt := dt) hp hb
  rw [hgood, State.loadJudged, storeJob_fits (s := s.pass dt) hfits] at hexec
  generalize (s.pass dt).afterPacking j = v at hframe hexec
  refine ⟨_, (v.emptyJob p.obj.toNat).setJob p.obj.toNat ((s.pass dt).loadedEntry j), ((s.pass dt).loadedEntry j).stored,
    ((s.pass dt).loadedEntry j).noshrink, hexec, Nat.sub_le _ _, loadedEntry_plain _ j, ?_, fun x hx => ?_, ?_, complete_posted _ p q _ _ _ ?_⟩
  · rw [job_setJob, if_pos rfl]
    rfl
  · rw [job_setJob, if_neg hx, job_emptyJob_other v hx, hframe]
    rfl
  · rw [hframe]; rfl
  · rw [hframe]; exact hq

/-- Settles O10: a lemma for each row; bytes by where they are delivered, the arrival by the check of the image and what packing saves. -/
theorem jobLoadPath : Obligations.JobLoadPath := by
  unfold Obligations.JobLoadPath
  exact ⟨jobLoad_claims, jobWindowOpen_claims, jobWindowOpen_moves, bar2Write_keeps, bar2Write_drops, jobWindowClose_pauses, jobWindowClose_ends,
    loadComplete_good, loadComplete_bad⟩

end Sys2Proof.Machine
end

section
/-!
A job after it is loaded (R83, R84, R88 to R90, R134, R496): staging and unstaging, its entry deleted and read, its image exported, and the defects
recorded of the print.
-/
namespace Sys2Proof.Machine

/-! ### The form of a command -/

/-- Time leaves what a slot holds. -/
theorem HoldsDma.pass {s : State} {w : Sess} {c : Cmd} {op n : Nat} {l : List DmaDesc} {a : Bytes} (h : HoldsDma s w c op n l a) (dt : Nat) :
    HoldsDma (s.pass dt) w c op n l a := by
  unfold HoldsDma at *
  rwa [pass_ses]

/-- A held DMA command of the row's argument block passes the check of its form. -/
theorem HoldsDma.dmaForm {s : State} {w : Sess} {c : Cmd} {op n : Nat} {l : List DmaDesc} {a : Bytes} (h : HoldsDma s w c op n l a) (t : State)
    (k : List DmaDesc → Bytes → Reply) : dmaForm t c n k = k l a := by
  obtain ⟨-, -, hdma, hlen, hlist, harg⟩ := h
  exact dmaForm_ok t c n l a k hdma hlen hlist harg

/-- A DMA command whose meaning answers PENDING waits with its entry reserved. -/
theorem HoldsDma.waiting {s u : State} {w : Sess} {c : Cmd} {op n obj : Nat} {l : List DmaDesc} {a data pay : Bytes} {f : Cmd → Reply}
    (h : HoldsDma s w c op n l a) (hroom : HasRoom s w) (hf : f c = .pend obj u data pay) : Waiting u (s.runCmd w op f) w c obj data pay := by
  obtain ⟨hcmd, hop, -⟩ := h
  exact runCmd_waiting hcmd hop hroom hf

/-- A held command on a directory index goes on with that index (R525). -/
theorem Holds.indexed {s : State} {w : Sess} {c : Cmd} {op : Nat} (h : Holds s w c op 4) (t : State) (k : Nat → Reply) (hk : t.pwr.kind ≠ 2)
    (hi : u16 c.pay 0 < 4096) (hz : u16 c.pay 2 = 0) : indexForm t c k = k (u16 c.pay 0) := by
  unfold indexForm
  rw [h.plain, need_ok _ _ _ _ (by simp [indexOk, hi, hz]), vet_ok _ _ hk]

/-- The work of a PENDING command that completes from a state of the same queue posts its entry. -/
theorem finish_posted {s u : State} {w : Sess} {seq : BitVec 32} {ops : List Nat} {f : Pend → State} {p : Pend} {status result unit : Nat} (dt : Nat)
    (hp : s.pend? w seq = some p) (hq : ∃ q, (s.ses w).cq = some q) (hop : p.cmd.op ∈ ops) (hses : u.ses w = s.ses w)
    (hf : f p = u.complete p status result unit) : Posted u ((s.pass dt).finish w seq ops f) p status p.obj.toNat result unit := by
  obtain ⟨q, hq⟩ := hq
  obtain ⟨rfl, -⟩ := pend_who _ _ _ _ hp
  have hp' : (s.pass dt).pend? p.who seq = some p := hp
  rw [finish_some _ _ _ _ _ _ hp' hop, hf]
  exact complete_posted u p q _ _ _ (by rw [hses, hq])

/-! ### The directory -/

/-- Time leaves the directory. -/
@[simp] theorem job_pass (s : State) (dt i : Nat) : (s.pass dt).job i = s.job i := rfl

/-- An emptied entry is EMPTY. -/
theorem job_emptyJob_same (s : State) (i : Nat) : (s.emptyJob i).job i = {} := by
  simp only [State.job, State.emptyJob, sel, look_cut_same]
  rfl

/-- A written entry leaves the sessions. -/
theorem setJob_ses (s : State) (i : Nat) (j : Job) (w : Sess) : (s.setJob i j).ses w = s.ses w := by
  cases w <;> rfl

/-- The codec's counters leave the sessions. -/
theorem codecRan_ses (s : State) (jobs noshr errs : Nat) (w : Sess) : (s.codecRan jobs noshr errs).ses w = s.ses w := by
  cases w <;> rfl

/-- An answer leaves the directory. -/
theorem Answered.job {s t : State} {w : Sess} {c : Cmd} {status : Nat} {pay : Bytes} (h : Answered s t w c status pay) (i : Nat) : t.job i = s.job i := by
  obtain ⟨-, -, -, -, -, -, -, -, -, -, -, hrest⟩ := h
  rw [hrest]
  rfl

/-! ### Staging -/

/-- Time denies no key. -/
@[simp] theorem encDenied_pass (s : State) (dt : Nat) : (s.pass dt).encDenied = s.encDenied := rfl

/-- Time empties no key slot. -/
@[simp] theorem kekMissing_pass (s : State) (dt : Nat) (j : Job) : (s.pass dt).kekMissing j = s.kekMissing j := rfl

/-- JOB_STAGE starts a LOADED job (R84, R89). -/
theorem jobStage_starts (dt : Nat) (w : Sess) (s : State) (c : Cmd) (h : Holds s w c 0x0204 4) (hroom : HasRoom s w) (hk : s.pwr.kind ≠ 2)
    (hlc : s.otp.lc ≠ 4) (hi : u16 c.pay 0 < 4096) (hz : u16 c.pay 2 = 0) (hloaded : (s.job (u16 c.pay 0)).state = 2) :
    ∃ t, exec (.jobStage dt w) s = .next t ∧
      Waiting ((s.pass dt).setJob (u16 c.pay 0) { s.job (u16 c.pay 0) with state := 3 }) t w c (u16 c.pay 0) [] [] := by
  obtain ⟨hcmd, hop, -, -⟩ := h.pass dt
  refine ⟨_, rfl, runCmd_waiting hcmd hop (hroom.pass dt) ?_⟩
  dsimp only
  rw [h.plain, need_ok _ _ _ _ (by simp [indexOk, hi, hz]), vet_ok (s.pass dt) _ hk, hasQueue_ok _ _ _ (hroom.pass dt),
    need_ok _ _ _ _ (by simp [hloaded]), notRetired_ok (s.pass dt) _ hlc, job_pass]

/-- A job that nothing denies, that the region has the room for and whose bands expand is STAGED with its bytes (R84, R89). -/
theorem stageComplete_stages (dt : Nat) (w : Sess) (seq : BitVec 32) (keyOk : Bool) (plain : List (Nat × Option Bytes)) (s : State) (p : Pend) (j : Job)
    (bands : List Section) (need : Nat) (m : SMap Bytes) (hp : s.pend? w seq = some p) (hq : ∃ q, (s.ses w).cq = some q) (hop : p.cmd.op = 0x0204)
    (hj : s.job p.obj.toNat = j) (hkey : j.encrypted = true → s.encDenied = false ∧ s.kekMissing j = false ∧ keyOk = true)
    (hbands : bands = (ofType j.secs 1).filter (fun x => decide (x.plane < j.planes))) (hneed : need = (bands.map (fun x => j.bandBytes x.index)).sum)
    (hroom : s.stageUsed + need ≤ s.stageSize) (hexpand : expandAll j bands plain [] = .ok m) (hregions : j.regionsOk = true) :
    ∃ t, exec (.stageComplete dt w seq keyOk plain) s = .next t ∧
      Posted ((if j.deflated then (s.pass dt).codecRan bands.length 0 0 else s.pass dt).setJob p.obj.toNat
        { j with state := 4, staged := m, stageBytes := need }) t p St.ok p.obj.toNat need
        (if j.encrypted then idFender else if j.deflated then idCodec else idHob) := by
  have hgranted : ¬(j.encrypted = true ∧ (s.pass dt).encDenied = true) := by
    rintro ⟨henc, hdenied⟩
    rw [encDenied_pass, (hkey henc).1] at hdenied
    exact absurd hdenied (by decide)
  have hunwraps : ¬(j.encrypted = true ∧ ((s.pass dt).kekMissing j = true ∨ (!keyOk) = true)) := by
    rintro ⟨henc, hlost⟩
    obtain ⟨-, hkek, hok⟩ := hkey henc
    rw [kekMissing_pass, hkek, hok] at hlost
    exact absurd hlost (by decide)
  have hfits : ¬((s.pass dt).stageSize < (s.pass dt).stageUsed + need) := Nat.not_lt.2 hroom
  refine ⟨_, rfl, finish_posted dt hp hq (by simp [hop]) ?_ ?_⟩
  · rw [setJob_ses]
    split
    · rw [codecRan_ses, pass_ses]
    · rw [pass_ses]
  · dsimp only
    rw [job_pass, hj, if_neg hgranted, if_neg hunwraps, ← hbands, ← hneed, if_neg hfits, hexpand]
    simp only [hregions, Bool.not_true, Bool.false_eq_true, if_false]

/-- An encrypted job whose staging is denied returns to LOADED (R84, R496). -/
theorem stageComplete_denies (dt : Nat) (w : Sess) (seq : BitVec 32) (keyOk : Bool) (plain : List (Nat × Option Bytes)) (s : State) (p : Pend)
    (hp : s.pend? w seq = some p) (hq : ∃ q, (s.ses w).cq = some q) (hop : p.cmd.op = 0x0204) (henc : (s.job p.obj.toNat).encrypted = true)
    (hdenied : s.encDenied = true) : ∃ t, exec (.stageComplete dt w seq keyOk plain) s = .next t ∧
      Posted ((s.pass dt).setJob p.obj.toNat { s.job p.obj.toNat with state := 2, staged := [], stageBytes := 0 }) t p St.denied p.obj.toNat 0 idFender := by
  refine ⟨_, rfl, finish_posted dt hp hq (by simp [hop]) (by rw [setJob_ses, pass_ses]) ?_⟩
  dsimp only
  rw [job_pass, if_pos ⟨henc, (encDenied_pass s dt).trans hdenied⟩, State.stageFails, job_pass]

/-- JOB_UNSTAGE returns a STAGED or DONE job to LOADED (R84). -/
theorem jobUnstage_unstages (dt : Nat) (w : Sess) (s : State) (c : Cmd) (h : Holds s w c 0x0205 4) (hk : s.pwr.kind ≠ 2) (hi : u16 c.pay 0 < 4096)
    (hz : u16 c.pay 2 = 0) (hstaged : (s.job (u16 c.pay 0)).state = 4 ∨ (s.job (u16 c.pay 0)).state = 7) :
    ∃ t, exec (.jobUnstage dt w) s = .next t ∧
      Answered ((s.pass dt).setJob (u16 c.pay 0) { s.job (u16 c.pay 0) with state := 2, staged := [], stageBytes := 0 }) t w c St.ok [] := by
  refine ⟨_, rfl, runCmd_answered (h.pass dt) ?_⟩
  rw [h.indexed (s.pass dt) _ hk hi hz, need_ok _ _ _ _ (by simpa using hstaged), job_pass]

/-! ### The entry deleted, read and exported -/

/-- JOB_DELETE empties the entry of a LOADED job, and no other (R84, R88). -/
theorem jobDelete_empties (dt : Nat) (w : Sess) (s : State) (c : Cmd) (h : Holds s w c 0x0206 4) (hk : s.pwr.kind ≠ 2) (hi : u16 c.pay 0 < 4096)
    (hz : u16 c.pay 2 = 0) (hloaded : (s.job (u16 c.pay 0)).state = 2) :
    ∃ t, exec (.jobDelete dt w) s = .next t ∧ Answered ((s.pass dt).emptyJob (u16 c.pay 0)) t w c St.ok [] ∧
      (t.job (u16 c.pay 0)).state = 0 ∧ (∀ k, k ≠ u16 c.pay 0 → t.job k = s.job k) := by
  obtain ⟨t, hexec, hanswered⟩ : ∃ t, exec (.jobDelete dt w) s = .next t ∧ Answered ((s.pass dt).emptyJob (u16 c.pay 0)) t w c St.ok [] := by
    refine ⟨_, rfl, runCmd_answered (h.pass dt) ?_⟩
    rw [h.indexed (s.pass dt) _ hk hi hz, need_ok _ _ _ _ (by simp [hloaded])]
  refine ⟨t, hexec, hanswered, ?_, fun k hne => ?_⟩
  · rw [hanswered.job, job_emptyJob_same]
  · rw [hanswered.job, job_emptyJob_other _ hne, job_pass]

/-- JOB_INFO answers the directory entry (R83). -/
theorem jobInfo_answers (dt : Nat) (w : Sess) (s : State) (c : Cmd) (h : Holds s w c 0x0207 4) (hk : s.pwr.kind ≠ 2) (hi : u16 c.pay 0 < 4096)
    (hz : u16 c.pay 2 = 0) : ∃ t, exec (.jobInfo dt w) s = .next t ∧
      Answered (s.pass dt) t w c St.ok ({ s.job (u16 c.pay 0) with printed := s.printedOf (u16 c.pay 0) } : Job).info :=
  ⟨_, rfl, runCmd_answered (h.pass dt) (h.indexed (s.pass dt) _ hk hi hz)⟩

/-- JOB_EXPORT takes the image as it stands at acceptance (R90). -/
theorem jobExport_takes (dt : Nat) (w : Sess) (s : State) (c : Cmd) (l : List DmaDesc) (a : Bytes) (h : HoldsDma s w c 0x0208 16 l a)
    (hroom : HasRoom s w) (hk : s.pwr.kind ≠ 2) (hi : u16 a 0 < 4096) (hz : fld a 2 14 = 0) (hloaded : 2 ≤ (s.job (u16 a 0)).state) :
    ∃ t, exec (.jobExport dt w) s = .next t ∧ Waiting (s.pass dt) t w c (u16 a 0) (s.job (u16 a 0)).image [] := by
  refine ⟨_, rfl, (h.pass dt).waiting (hroom.pass dt) ?_⟩
  dsimp only
  rw [h.dmaForm, need_ok _ _ _ _ (by simp [indexOk, hi, hz]), vet_ok (s.pass dt) _ hk, hasQueue_ok _ _ _ (hroom.pass dt), job_pass,
    need_ok _ _ _ _ (decide_eq_true hloaded)]

/-- Data that the descriptors hold goes out over them before the entry is posted (R65, R581). -/
theorem finishOut_fits {s : State} {p : Pend} {chain : List Bytes} {l : List DmaDesc} {data : Bytes} (hl : p.descs chain = some l)
    (hfits : data.length ≤ total l) (result unit : Nat) :
    s.finishOut p chain data result unit = (s.emits (scatter l data)).complete p St.ok result unit := by
  unfold State.finishOut
  rw [hl]
  exact if_neg (Nat.not_lt.2 hfits)

/-- The end of JOB_EXPORT writes the image over the descriptors (R90). -/
theorem exportComplete_writes (dt : Nat) (w : Sess) (seq : BitVec 32) (chain : List Bytes) (s : State) (p : Pend) (l : List DmaDesc)
    (hp : s.pend? w seq = some p) (hq : ∃ q, (s.ses w).cq = some q) (hop : p.cmd.op = 0x0208) (hl : p.descs chain = some l)
    (hfits : p.data.length ≤ total l) : ∃ t, exec (.exportComplete dt w seq chain) s = .next t ∧
      Posted ((s.pass dt).emits (scatter l p.data)) t p St.ok p.obj.toNat p.data.length idHob := by
  obtain ⟨o, ho⟩ := emits_frame (s.pass dt) (scatter l p.data)
  refine ⟨_, rfl, finish_posted dt hp hq (by simp [hop]) ?_ (finishOut_fits hl hfits _ _)⟩
  rw [ho]
  exact pass_ses s dt w

/-- JOB_DEFECTS answers the oldest seven records and the count of those overwritten, and drops both (R134). -/
theorem jobDefects_drops (dt : Nat) (w : Sess) (s : State) (c : Cmd) (h : Holds s w c 0x020C 0) (hk : s.pwr.kind ≠ 2) :
    ∃ t, exec (.jobDefects dt w) s = .next t ∧
      Answered { s.pass dt with raster := { s.raster with defects := s.raster.defects.drop 7, lost := 0, ovf := false } } t w c St.ok
        (leB 1 (s.raster.defects.take 7).length ++ leB 3 0 ++ leB 4 s.raster.lost ++ (s.raster.defects.take 7).flatMap Defect.bytes) := by
  refine ⟨_, rfl, runCmd_answered (h.pass dt) ?_⟩
  dsimp only
  rw [h.plain, vet_ok (s.pass dt) _ hk]
  rfl

/-- Settles O11: a lemma for each row; the end of staging by whether anything denies it. -/
theorem jobStageAndKeep : Obligations.JobStageAndKeep := by
  unfold Obligations.JobStageAndKeep
  exact ⟨jobStage_starts, stageComplete_stages, stageComplete_denies, jobUnstage_unstages, jobDelete_empties, jobInfo_answers, jobExport_takes,
    exportComplete_writes, jobDefects_drops⟩

end Sys2Proof.Machine
end

section
/-!
HOPPER rings (R91, R92, R94, R95) and the forecast that every change of the work to come computes again (R106 to R108).
-/
namespace Sys2Proof.Machine

/-! ### The forecast -/

/-- The forecast sets the HOPPER contribution to what is computed of the state before it, and leaves every record (R106 to R108). -/
theorem forecast_kept {v : State} (h : Calm v F.hopperLow) : v.forecast.motion.hopper = v.hopperForecast ∧
    RingsKept { v with motion := { v.motion with hopper := v.forecast.motion.hopper } } v.forecast := by
  obtain ⟨hkept, hvalue⟩ := forecast_law v h
  rw [hvalue]
  exact ⟨rfl, hkept⟩

/-- What a forecast touches leaves the sessions. -/
theorem RingsKept.ses {s t : State} (h : RingsKept s t) (w : Sess) : t.ses w = s.ses w := by
  rw [h.1.ses]
  cases w <;> rfl

/-- A forecast leaves the sessions. -/
theorem forecast_ses {v : State} (h : Calm v F.hopperLow) (w : Sess) : v.forecast.ses w = v.ses w := by
  obtain ⟨-, hkept⟩ := forecast_kept h
  generalize v.forecast = u at hkept ⊢
  rw [hkept.ses]
  cases w <;> rfl

/-- Row HOPPER_FORECAST computes the forecast each millisecond (R107). -/
theorem hopperForecast_computes (dt : Nat) (s : State) (h : Calm s F.hopperLow) :
    ∃ t, exec (.hopperForecast dt) s = .next t ∧ t.motion.hopper = (s.pass dt).hopperForecast ∧
      RingsKept { s.pass dt with motion := { s.motion with hopper := t.motion.hopper } } t :=
  ⟨_, rfl, forecast_kept (v := s.pass dt) (h.of_params rfl)⟩

/-! ### A ring is set up and read -/

/-- Time leaves the rings. -/
@[simp] theorem ring_pass (s : State) (dt r : Nat) : (s.pass dt).ring r = s.ring r := rfl

/-- Time names no ring. -/
@[simp] theorem ringNamed_pass (s : State) (dt r : Nat) : (s.pass dt).ringNamed r = s.ringNamed r := rfl

/-- Time pushes no record. -/
@[simp] theorem pushing_pass (s : State) (dt r : Nat) : (s.pass dt).pushing r = s.pushing r := rfl

/-- Depth 0 frees a ring that no job names (R91). -/
theorem hopperSetup_frees (dt r : Nat) (w : Sess) (s : State) (c : Cmd) (h : Holds s w c 0x0209 12) (hk : s.pwr.kind ≠ 2) (hr : u8 c.pay 0 = r)
    (hr15 : r ≤ 15) (hz : fld c.pay 1 3 = 0) (hd : u32 c.pay 8 = 0) (hfree : s.ringNamed r = false) :
    ∃ t, exec (.hopperSetup dt w) s = .next t ∧ Answered { s.pass dt with lib := { s.lib with rings := cut s.lib.rings r } } t w c St.ok [] := by
  subst hr
  refine ⟨_, rfl, runCmd_answered (h.pass dt) ?_⟩
  dsimp only
  rw [h.plain, need_ok _ _ _ _ (by simp [hr15, hz, hd]), vet_ok (s.pass dt) _ hk, need_ok _ _ _ _ (by simp [hfree]), if_pos hd]
  rfl

/-- A ring that no job names takes its record size and depth when the stage region has the room (R91). -/
theorem hopperSetup_sets (dt r rb d : Nat) (w : Sess) (s : State) (c : Cmd) (h : Holds s w c 0x0209 12) (hk : s.pwr.kind ≠ 2) (hr : u8 c.pay 0 = r)
    (hr15 : r ≤ 15) (hz : fld c.pay 1 3 = 0) (hrb : u32 c.pay 4 = rb) (hrb64 : 64 ≤ rb) (hrbMax : rb ≤ 2 ^ 24) (hrbMod : rb % 64 = 0)
    (hd : u32 c.pay 8 = d) (hd2 : 2 ≤ d) (hdMax : d ≤ 65536) (hfree : s.ringNamed r = false)
    (hroom : ({ s with lib := { s.lib with rings := cut s.lib.rings r } } : State).stageUsed + rb * d ≤ s.stageSize) :
    ∃ t, exec (.hopperSetup dt w) s = .next t ∧
      Answered ({ s.pass dt with lib := { s.lib with rings := cut s.lib.rings r } }.setRing r { recBytes := rb, depth := d }) t w c St.ok [] := by
  subst hr hrb hd
  refine ⟨_, rfl, runCmd_answered (h.pass dt) ?_⟩
  dsimp only
  rw [h.plain, need_ok _ _ _ _ (decide_eq_true ⟨hr15, hz, Or.inr ⟨hd2, hdMax, hrb64, hrbMax, hrbMod⟩⟩), vet_ok (s.pass dt) _ hk,
    need_ok _ _ _ _ (by simp [hfree]), if_neg (by omega)]
  exact need_ok _ _ _ _ (decide_eq_true hroom)

/-- What is left of a ring in lines, as HOPPER_STATUS reads it: all ones when every repeat is covered (R94). -/
def linesLeft (a : Option Nat) : Nat := (a.map (sat 32)).getD 0xFFFFFFFF

/-- What is left of a ring in milliseconds at the present speed (R94). -/
def State.msLeft (s : State) : Option Nat → Nat
  | some v => if s.lps = 0 then 0xFFFFFFFF else sat 32 (v * 1000 / s.lps)
  | none => 0xFFFFFFFF

/-- HOPPER_STATUS answers the ring, what is left of it in lines and milliseconds, and the records bound last (R94, R106). -/
theorem hopperStatus_answers (dt r : Nat) (w : Sess) (s : State) (c : Cmd) (a : Option Nat) (h : Holds s w c 0x020B 4) (hk : s.pwr.kind ≠ 2)
    (hr : u8 c.pay 0 = r) (hr15 : r ≤ 15) (hz : fld c.pay 1 3 = 0) (ha : a = (if s.ringNamed r then s.ringLines r else none)) :
    ∃ t, exec (.hopperStatus dt w) s = .next t ∧
      Answered (s.pass dt) t w c St.ok
        (leB 4 (s.ring r).fill ++ leB 4 (s.ring r).depth ++ leB 4 (s.ring r).recBytes ++
          leB 4 (linesLeft a) ++ leB 4 (s.msLeft a) ++ leB 4 s.lib.binding.rep ++ leB 2 s.lib.binding.job ++ leB 2 0 ++ leB 2 s.lib.binding.mask ++ leB 2 0 ++
          (List.range 16).flatMap (fun k => leB 4 (sel s.lib.binding.tags k 0).toNat)) := by
  subst hr
  have ha' : (if (s.pass dt).ringNamed (u8 c.pay 0) = true then (s.pass dt).ringLines (u8 c.pay 0) else none) = a := ha.symm
  refine ⟨_, rfl, runCmd_answered (h.pass dt) ?_⟩
  dsimp only
  rw [h.plain, need_ok _ _ _ _ (decide_eq_true ⟨hr15, hz⟩), vet_ok (s.pass dt) _ hk, ha']
  cases a <;> rfl

/-! ### Records are pushed -/

/-- A length that the descriptors carry, or that a chained list will, goes on (R581). -/
theorem fixedLen_ok (s : State) (l : List DmaDesc) (n : Nat) (k : Reply) (h : chainOf l = none → total l = n) : fixedLen s l n k = k := by
  refine if_neg ?_
  rintro ⟨hchain, hne⟩
  exact hne (h (Option.isNone_iff_eq_none.1 hchain))

/-- HOPPER_PUSH waits for records that fit (R92). -/
theorem hopperPush_waits (dt r n : Nat) (w : Sess) (s : State) (c : Cmd) (l : List DmaDesc) (a : Bytes) (h : HoldsDma s w c 0x020A 16 l a)
    (hroom : HasRoom s w) (hk : s.pwr.kind ≠ 2) (hr : u8 a 0 = r) (hr15 : r ≤ 15) (hz : fld a 1 3 = 0) (hz8 : fld a 8 8 = 0) (hn : u32 a 4 = n)
    (hset : (s.ring r).recBytes ≠ 0) (hlen : chainOf l = none → total l = n * (s.ring r).recBytes)
    (hfits : (s.ring r).fill + s.pushing r + n ≤ (s.ring r).depth) :
    ∃ t, exec (.hopperPush dt w) s = .next t ∧ Waiting (s.pass dt) t w c r [] [] := by
  subst hr hn
  refine ⟨_, rfl, (h.pass dt).waiting (hroom.pass dt) ?_⟩
  dsimp only
  rw [h.dmaForm, need_ok _ _ _ _ (decide_eq_true ⟨hr15, hz, hz8⟩), vet_ok (s.pass dt) _ hk, hasQueue_ok _ _ _ (hroom.pass dt), ring_pass, pushing_pass,
    need_ok _ _ _ _ (decide_eq_true hset), fixedLen_ok _ _ _ _ hlen, need_ok _ _ _ _ (decide_eq_true hfits)]

/-- Records that have arrived stand at the end of the ring; the forecast is computed again and the entry carries the fill (R92, R107). -/
theorem hopperPushComplete_stores (dt r n : Nat) (w : Sess) (seq : BitVec 32) (chain : List Bytes) (data b : Bytes) (s : State) (p : Pend) (y : Ring)
    (hp : s.pend? w seq = some p) (hq : ∃ q, (s.ses w).cq = some q) (hop : p.cmd.op = 0x020A) (hr : u8 p.cmd.arg 0 = r) (hn : u32 p.cmd.arg 4 = n)
    (hb : p.dataIn chain data = some b) (hlen : b.length = n * (s.ring r).recBytes) (hfits : (s.ring r).fill + n ≤ (s.ring r).depth)
    (hcalm : Calm s F.hopperLow) (hy : y = { s.ring r with recs := (s.ring r).recs ++ (chunks (s.ring r).recBytes n b).map parseRec }) :
    ∃ t u, exec (.hopperPushComplete dt w seq chain data) s = .next t ∧ u.motion.hopper = ((s.pass dt).setRing r y).hopperForecast ∧
      RingsKept { (s.pass dt).setRing r y with motion := { s.motion with hopper := u.motion.hopper } } u ∧
      Posted u t p St.ok p.obj.toNat y.fill idHob := by
  subst hr hn
  have hcalm' : Calm ((s.pass dt).setRing (u8 p.cmd.arg 0) y) F.hopperLow := hcalm.of_params rfl
  obtain ⟨hvalue, hkept⟩ := forecast_kept hcalm'
  refine ⟨_, _, rfl, hvalue, hkept, finish_posted dt hp hq (by simp [hop]) ?_ ?_⟩
  · rw [forecast_ses hcalm']
    cases w <;> rfl
  · dsimp only
    rw [hb]
    dsimp only
    rw [ring_pass, if_neg (fun hne => hne hlen), if_neg (Nat.not_lt.2 hfits), ← hy]

/-- Settles O12: a lemma for each row, a setup by its depth; whatever moves the forecast by what the forecast touches. -/
theorem hopperRingsFillAndForecast : Obligations.HopperRingsFillAndForecast := by
  unfold Obligations.HopperRingsFillAndForecast
  refine ⟨hopperSetup_frees, hopperSetup_sets, hopperPush_waits, hopperPushComplete_stores, ?status, hopperForecast_computes⟩
  case status =>
    intro dt r w s c a h hk hr hr15 hz ha
    obtain ⟨t, hexec, hans⟩ := hopperStatus_answers dt r w s c _ h hk hr hr15 hz ha
    refine ⟨t, hexec, ?_⟩
    cases a with
    | none => exact hans
    | some v => exact hans

end Sys2Proof.Machine
end

section
/-!
The SPLICE commands (R96 to R98, R103, R105, R161): the entry an armed splice takes, what lets a splice be armed, and what disarming, reading the
events and stopping leave.
-/
namespace Sys2Proof.Machine

/-! ### The entry of an armed splice -/

/-- Entry numbers that no splice ARMED or switching holds. -/
def State.freeEntries (s : State) : List Nat := [0, 1, 2].filter (fun e => !s.usedEntries.contains e)

/-- The entry number that the next armed splice takes: a free value picks it (log 11). -/
def State.nextEntry (s : State) : Nat := (s.freeEntries[Config.value s.free % s.freeEntries.length]?).getD 0

/-- Each splice that is ARMED or switching holds one entry. -/
theorem usedEntries_length (s : State) : s.usedEntries.length = s.splicesPending := by
  simp only [State.usedEntries, State.splicesPending, List.length_append, List.length_map]

/-- Different members of a list are no more than it has places. -/
theorem length_le_of_nodup_subset {l m : List Nat} (hl : l.Nodup) (h : l ⊆ m) : l.length ≤ m.length := by
  induction l generalizing m with
  | nil => exact Nat.zero_le _
  | cons a t ih =>
    obtain ⟨ha, ht⟩ := List.nodup_cons.1 hl
    have hmem : a ∈ m := h List.mem_cons_self
    have hrest : t ⊆ m.erase a := by
      intro x hx
      have hne : x ≠ a := fun hxa => ha (hxa ▸ hx)
      exact (List.mem_erase_of_ne hne).2 (h (List.mem_cons_of_mem a hx))
    have hlen := ih ht hrest
    have hpos := List.length_pos_of_mem hmem
    rw [List.length_erase_of_mem hmem] at hlen
    rw [List.length_cons]
    omega

/-- Of three entries one is free while fewer than three splices are pending (R97). -/
theorem freeEntries_ne_nil {s : State} (h : s.splicesPending < 3) : s.freeEntries ≠ [] := by
  intro hnone
  have hall : [0, 1, 2] ⊆ s.usedEntries := by
    intro e he
    have := List.filter_eq_nil_iff.1 hnone e he
    simpa using this
  have hlen := length_le_of_nodup_subset (by decide) hall
  rw [usedEntries_length] at hlen
  exact absurd hlen (Nat.not_le.2 h)

/-- The entry a splice takes is one of the three and unused. -/
theorem nextEntry_unused {s : State} (h : s.splicesPending < 3) : s.nextEntry < 3 ∧ s.nextEntry ∉ s.usedEntries := by
  have hmem : s.nextEntry ∈ s.freeEntries := by
    have hlt := Nat.mod_lt (Config.value s.free) (List.length_pos_iff.2 (freeEntries_ne_nil h))
    rw [State.nextEntry, List.getElem?_eq_getElem hlt]
    exact List.getElem_mem hlt
  obtain ⟨hthree, hfree⟩ := List.mem_filter.1 hmem
  refine ⟨?_, by simpa using hfree⟩
  revert hthree
  generalize s.nextEntry = e
  revert e
  decide

/-! ### What lets a splice be armed -/

/-- Time leaves the fire position. -/
@[simp] theorem pos_pass (s : State) (dt : Nat) : (s.pass dt).pos = s.pos := rfl

/-- None of the refusals of R96, R97, R127, R161 and R303 meets a splice of job `i` at the line `lam`. -/
structure State.SpliceFits (s : State) (i ref input : Nat) (off : Int) (lam : Option Nat) : Prop where
  staged : (s.job i).state = 4 ∨ (s.job i).state = 7
  cycle : s.otp.lc ≠ 4
  line : ref = 2 → lam ≠ none
  lead : ∀ l, lam = some l → (s.par P.fireSpliceLeadLines : Int) ≤ since l s.pos
  leadMark : lam = none → (s.par P.fireSpliceLeadLines : Int) ≤ off
  gap : ∀ l q, lam = some l → s.prevLam = some q → (s.minGap : Int) ≤ since l q
  mark : ref = 1 → (sel s.motion.marks input {}).locked = true
  pending : s.splicesPending < 3
  speed : s.pressMax ≤ s.limitOf (demandOf s.geo ((s.job i).pre :: s.activeJobs.map (fun p => p.2.pre)))
  twins : s.twinClash (s.job i) = false
  pitch : (s.job i).lpi = s.par P.motionFirePitch

/-- Time lets the same splices be armed. -/
theorem State.SpliceFits.pass {s : State} {i ref input : Nat} {off : Int} {lam : Option Nat} (h : s.SpliceFits i ref input off lam) (dt : Nat) :
    (s.pass dt).SpliceFits i ref input off lam where
  staged := h.staged
  cycle := h.cycle
  line := h.line
  lead := h.lead
  leadMark := h.leadMark
  gap := h.gap
  mark := h.mark
  pending := h.pending
  speed := h.speed
  twins := h.twins
  pitch := h.pitch

/-- The splice as it stands among the armed ones (R96). -/
def State.newSplice (s : State) (i ref input value : Nat) (off : Int) (lam : Option Nat) : Armed :=
  { entry := s.nextEntry, job := i, lam := lam, ref := ref, input := input, left := if ref = 1 then value else 0, off := off }

/-- A splice that nothing refuses is placed with the next entry (R96, R97). -/
theorem arm_places {s : State} {i ref input value : Nat} {off : Int} {lam : Option Nat} (h : s.SpliceFits i ref input off lam)
    (hlam : lam = (if ref = 0 then some (shift32 value off) else if ref = 2 then (s.repeatLine value).map (fun l => shift32 l off) else none)) :
    s.arm i ref input value off =
      .inr (s.fresh.placeSplice (s.newSplice i ref input value off lam), lam.getD 0xFFFFFFFF, s.nextEntry) := by
  unfold State.arm
  dsimp only
  have hstaged : ¬(!decide ((s.job i).state = 4 ∨ (s.job i).state = 7)) = true := by
    intro hneg
    rw [decide_eq_true h.staged] at hneg
    exact Bool.false_ne_true hneg
  rw [if_neg hstaged, if_neg h.cycle, ← hlam]
  refine (if_neg ?_).trans rfl
  rintro (⟨href, hnone⟩ | hsoon | hclose | ⟨href, hlocked⟩ | hfull | ⟨hslow, -⟩ | htwins | hpitch)
  · exact h.line href (Option.isNone_iff_eq_none.1 hnone)
  · cases lam with
    | none => exact Int.not_lt.2 (h.leadMark rfl) (of_decide_eq_true hsoon)
    | some l => exact Int.not_lt.2 (h.lead l rfl) (of_decide_eq_true hsoon)
  · cases lam with
    | none => exact Bool.false_ne_true hclose
    | some l =>
      cases hprev : s.prevLam with
      | none =>
        rw [hprev] at hclose
        exact Bool.false_ne_true hclose
      | some q =>
        rw [hprev] at hclose
        exact Int.not_lt.2 (h.gap l q rfl hprev) (of_decide_eq_true hclose)
  · rw [h.mark href] at hlocked
    exact Bool.false_ne_true hlocked
  · exact absurd h.pending (Nat.not_lt.2 hfull)
  · exact absurd h.speed (Nat.not_le.2 hslow)
  · rw [h.twins] at htwins
    exact Bool.false_ne_true htwins
  · exact hpitch h.pitch

/-! ### Arming -/

/-- The state in which the forecast is computed for an armed splice: its job ARMED, the splice last, an event queued (R96, R103, R105). -/
def State.withSplice (s : State) (a : Armed) : State :=
  ({ s.setJob a.job { s.job a.job with state := 5 } with
    splice := { s.splice with armed := s.splice.armed ++ [a] }, free := s.free + 1 } : State).spliceEvent 1 0xFF a.job (a.lam.getD 0xFFFFFFFF) 0

/-- Placing a splice computes the forecast with it armed. -/
theorem placeSplice_eq (s : State) (a : Armed) : s.fresh.placeSplice a = (s.withSplice a).forecast := rfl

/-- An event bit leaves the parameters. -/
theorem event_params (s : State) (k : Nat) : (s.event k).params = s.params := by
  obtain ⟨e, p, o, h⟩ := event_frame s k
  rw [h]

/-- A splice event leaves the parameters. -/
theorem spliceEvent_params (s : State) (kind bar index line rep : Nat) : (s.spliceEvent kind bar index line rep).params = s.params := event_params _ _

/-- SPLICE_ARM arms a splice that nothing refuses, and answers its line and entry (R96 to R98, R103, R105). -/
theorem spliceArm_arms (dt i ref input value : Nat) (off : Int) (w : Sess) (s : State) (c : Cmd) (lam : Option Nat) (h : Holds s w c 0x0301 16)
    (hk : s.pwr.kind ≠ 2) (hform : indexOk i ∧ ref ≤ 2 ∧ input ≤ 3 ∧ (ref = 1 ∨ input = 0) ∧ (ref ≠ 1 ∨ 1 ≤ value) ∧ u32 c.pay 12 = 0)
    (hi : u16 c.pay 0 = i) (href : u8 c.pay 2 = ref) (hinput : u8 c.pay 3 = input) (hvalue : u32 c.pay 4 = value) (hoff : signed 32 (u32 c.pay 8) = off)
    (hlam : lam = (if ref = 0 then some (shift32 value off) else if ref = 2 then (s.repeatLine value).map (fun l => shift32 l off) else none))
    (hfits : s.SpliceFits i ref input off lam) (hcalm : Calm s F.hopperLow) :
    ∃ t u v e, exec (.spliceArm dt w) s = .next t ∧ e < 3 ∧ e ∉ s.usedEntries ∧
      v = ({ (s.pass dt).setJob i { s.job i with state := 5 } with
        splice := { s.splice with armed := s.splice.armed ++
          [{ entry := e, job := i, lam := lam, ref := ref, input := input, left := if ref = 1 then value else 0, off := off }] }
        free := s.free + 1 } : State).spliceEvent 1 0xFF i (lam.getD 0xFFFFFFFF) 0 ∧
      u.motion.hopper = v.hopperForecast ∧ RingsKept { v with motion := { v.motion with hopper := u.motion.hopper } } u ∧
      Answered u t w c St.ok (leB 4 (lam.getD 0xFFFFFFFF) ++ leB 1 e ++ leB 3 0) := by
  subst hi href hinput hvalue hoff
  obtain ⟨hthree, hunused⟩ := nextEntry_unused hfits.pending
  have hplaced := arm_places (value := u32 c.pay 4) (hfits.pass dt) hlam
  rw [placeSplice_eq] at hplaced
  have hcalm' : Calm ((s.pass dt).withSplice ((s.pass dt).newSplice (u16 c.pay 0) (u8 c.pay 2) (u8 c.pay 3) (u32 c.pay 4) (signed 32 (u32 c.pay 8)) lam))
      F.hopperLow := hcalm.of_params (spliceEvent_params _ _ _ _ _ _)
  obtain ⟨hhopper, hkept⟩ := forecast_kept hcalm'
  refine ⟨_, _, _, s.nextEntry, rfl, hthree, hunused, rfl, hhopper, hkept, runCmd_answered (h.pass dt) ?_⟩
  dsimp only
  rw [h.plain, need_ok _ _ _ _ (decide_eq_true hform), vet_ok (s.pass dt) _ hk, hplaced]
  rfl

/-! ### Disarming, reading and stopping -/

/-- SPLICE_DISARM drops the splice of a job, which returns to STAGED (R98). -/
theorem spliceDisarm_drops (dt i : Nat) (w : Sess) (s : State) (c : Cmd) (a : Armed) (h : Holds s w c 0x0302 4) (hk : s.pwr.kind ≠ 2)
    (hindex : u16 c.pay 0 = i) (hi : i < 4096) (hz : u16 c.pay 2 = 0) (ha : s.splice.armed.find? (fun a => a.job == i) = some a)
    (hcalm : Calm s F.hopperLow) :
    ∃ t u v, exec (.spliceDisarm dt w) s = .next t ∧
      v = { (s.pass dt).setJob i { s.job i with state := 4 } with
        splice := { s.splice with armed := s.splice.armed.filter (fun x => x.job != i) } } ∧
      u.motion.hopper = v.hopperForecast ∧ RingsKept { v with motion := { v.motion with hopper := u.motion.hopper } } u ∧
      Answered u t w c St.ok [] := by
  have hjob : a.job = i := by simpa using List.find?_some ha
  subst hindex
  have hcalm' : Calm ((s.pass dt).disarm a) F.hopperLow := hcalm.of_params rfl
  obtain ⟨hhopper, hkept⟩ := forecast_kept hcalm'
  refine ⟨_, _, _, rfl, ?_, hhopper, hkept, runCmd_answered (h.pass dt) ?_⟩
  · rw [← hjob]
    rfl
  · rw [h.indexed (s.pass dt) _ hk hi hz, State.pass_splice, ha]

/-- SPLICE_EVENTS answers the oldest fourteen events and the count of those lost, and drops both (R105, R527). -/
theorem spliceEvents_drops (dt : Nat) (w : Sess) (s : State) (c : Cmd) (h : Holds s w c 0x0303 0) (hk : s.pwr.kind ≠ 2) :
    ∃ t, exec (.spliceEvents dt w) s = .next t ∧
      Answered { s.pass dt with splice := { s.splice with events := s.splice.events.drop 14, lost := 0 } } t w c St.ok
        (eventRead ((s.splice.events.take 14).map SpliceEvent.bytes) s.splice.lost) := by
  refine ⟨_, rfl, runCmd_answered (h.pass dt) ?_⟩
  rw [h.plain, vet_ok (s.pass dt) _ hk]
  rfl

/-- SPLICE_STOP ends the job at the datum with its present repeat, and answers the repeats and the line of their end (R103). -/
theorem spliceStop_ends (dt i n : Nat) (w : Sess) (s : State) (c : Cmd) (r : Run) (h : Holds s w c 0x0304 4) (hk : s.pwr.kind ≠ 2)
    (hindex : u16 c.pay 0 = i) (hi : i < 4096) (hz : u16 c.pay 2 = 0) (hrun : s.atDatum = some r) (hjob : r.job = i) (hprints : (s.job i).state = 6)
    (hcalm : Calm s F.hopperLow)
    (hn : n = (let cur := back s.pos r.lam / max 1 (s.job i).repLines + 1
         if (s.job i).repCount = 0 then cur else min (s.job i).repCount cur)) :
    ∃ t u v, exec (.spliceStop dt w) s = .next t ∧ v = (s.pass dt).setJob i { s.job i with repCount := n } ∧
      u.motion.hopper = v.hopperForecast ∧ RingsKept { v with motion := { v.motion with hopper := u.motion.hopper } } u ∧
      Answered u t w c St.ok (leB 4 n ++ leB 4 (fwd r.lam (n * (s.job i).repLines))) := by
  subst hindex
  have hrun' : (s.pass dt).atDatum = some r := hrun
  have hcalm' : Calm ((s.pass dt).setJob (u16 c.pay 0) { s.job (u16 c.pay 0) with repCount := n }) F.hopperLow := hcalm.of_params rfl
  obtain ⟨hhopper, hkept⟩ := forecast_kept hcalm'
  refine ⟨_, _, _, rfl, rfl, hhopper, hkept, runCmd_answered (h.pass dt) ?_⟩
  dsimp only at hn ⊢
  rw [h.indexed (s.pass dt) _ hk hi hz, hrun']
  dsimp only
  rw [job_pass, pos_pass, if_neg (by simp [hjob, hprints]), ← hn]

/-- Settles O13: an accepted splice by what refuses none, and the forecast that arming, disarming and stopping compute. -/
theorem splicesArmAndStop : Obligations.SplicesArmAndStop := by
  unfold Obligations.SplicesArmAndStop
  refine ⟨?arm, spliceDisarm_drops, spliceEvents_drops, spliceStop_ends⟩
  case arm =>
    intro dt i ref input value off w s c lam h hk hindex hi href hrefMax hinput hinputMax hmarkInput hvalue hmarkValue hoff hz staged cycle hlam line
      lead leadMark gap mark pending speed twins pitch hcalm
    exact spliceArm_arms dt i ref input value off w s c lam h hk ⟨decide_eq_true hi, hrefMax, hinputMax, hmarkInput, hmarkValue, hz⟩ hindex href hinput
      hvalue hoff hlam ⟨staged, cycle, line, lead, leadMark, gap, mark, pending, speed, twins, pitch⟩ hcalm

end Sys2Proof.Machine
end

section
/-!
The HEAD commands (R195, R197, R198, R280, R281, R283, R292, R530): the status of slots, the host's mutes, and the card a slot's head carries.
-/
namespace Sys2Proof.Machine

/-! ### The slots of a bitmap -/

/-- Time leaves a slot's temperature record. -/
@[simp] theorem head_pass (s : State) (dt i : Nat) : (s.pass dt).head i = s.head i := rfl

/-- Time leaves what LINK holds of a slot. -/
@[simp] theorem slotLink_pass (s : State) (dt i : Nat) : (s.pass dt).slotLink i = s.slotLink i := rfl

/-- Only the head records changed. -/
def State.withHeads (s : State) (m : SMap SlotHead) : State := { s with fire := { s.fire with heads := m } }

/-- A step over a list of slots that changes each slot's own record by `g` changes the records of those slots by `g` and no other. -/
theorem foldl_heads (f : State → Nat → State) (g : Nat → SlotHead → SlotHead) (s : State)
    (hf : ∀ m i, f (s.withHeads m) i = (s.withHeads m).setHead i (g i ((s.withHeads m).head i))) (l : List Nat) (hl : l.Nodup) (m : SMap SlotHead) :
    ∃ m', l.foldl f (s.withHeads m) = s.withHeads m' ∧
      ∀ i, (s.withHeads m').head i = if i ∈ l then g i ((s.withHeads m).head i) else (s.withHeads m).head i := by
  induction l generalizing m with
  | nil => exact ⟨m, rfl, fun i => by simp⟩
  | cons a l ih =>
    obtain ⟨ha, hl⟩ := List.nodup_cons.1 hl
    obtain ⟨m', hfold, hheads⟩ := ih hl (put m a (g a ((s.withHeads m).head a)))
    refine ⟨m', by rw [List.foldl_cons, hf]; exact hfold, fun i => ?_⟩
    have hput : (s.withHeads (put m a (g a ((s.withHeads m).head a)))).head i =
        if i = a then g a ((s.withHeads m).head a) else (s.withHeads m).head i := head_setHead (s.withHeads m) a i _
    rw [hheads, hput]
    by_cases h : i = a
    · subst h; simp [ha]
    · simp [h]

/-- The slots of a bitmap come once each. -/
theorem nodup_bitmapSlots (p : Bytes) : (bitmapSlots p).Nodup := List.nodup_range.filter _

/-- The slots of a bitmap are those below 160 whose bit is set (R518). -/
theorem mem_bitmapSlots (p : Bytes) (i : Nat) : i ∈ bitmapSlots p ↔ i < 160 ∧ bit (fld p 0 20) i = true := mem_unmask 160 (fld p 0 20) i

/-! ### Status and mutes -/

/-- HEAD_STATUS answers 12 bytes a slot (R530). -/
theorem headStatus_answers (dt b first n : Nat) (w : Sess) (s : State) (c : Cmd) (h : Holds s w c 0x0701 4) (hk : s.pwr.kind ≠ 2) (hb : u8 c.pay 0 = b)
    (hb8 : b < 8) (hfirst : u8 c.pay 1 = first) (hn : u8 c.pay 2 = n) (h1 : 1 ≤ n) (h19 : n ≤ 19) (h20 : first + n ≤ 20) (hz : u8 c.pay 3 = 0) :
    ∃ t, exec (.headStatus dt w) s = .next t ∧
      Answered (s.pass dt) t w c St.ok (leB 1 b ++ leB 1 first ++ leB 1 n ++ leB 1 0 ++
        (List.range n).flatMap (fun k => s.headBytes (20 * b + first + k))) := by
  subst hb hfirst hn
  refine ⟨_, rfl, runCmd_answered (h.pass dt) ?_⟩
  dsimp only
  rw [h.plain, need_ok _ _ _ _ (decide_eq_true ⟨hb8, h1, h19, h20, hz⟩), vet_ok (s.pass dt) _ hk]
  rfl

/-- HEAD_MUTE mutes the slots of its bitmap by the HOST source and no other (R197). -/
theorem headMute_mutes (dt : Nat) (w : Sess) (s : State) (c : Cmd) (h : Holds s w c 0x0702 24) (hk : s.pwr.kind ≠ 2) (hz : u32 c.pay 20 = 0) :
    ∃ t u, exec (.headMute dt w) s = .next t ∧ u = { s.pass dt with fire := { s.fire with heads := u.fire.heads } } ∧
      (∀ i, u.head i = if i < 160 ∧ bit (fld c.pay 0 20) i = true then { s.head i with mHost := true } else s.head i) ∧
      Answered u t w c St.ok (leB 4 s.fire.next) := by
  obtain ⟨m, hfold, hheads⟩ := foldl_heads (fun s i => s.setHead i { s.head i with mHost := true }) (fun _ x => { x with mHost := true }) (s.pass dt)
    (fun _ _ => rfl) (bitmapSlots c.pay) (nodup_bitmapSlots c.pay) s.fire.heads
  refine ⟨_, (s.pass dt).withHeads m, rfl, rfl, fun i => ?_, runCmd_answered (h.pass dt) ?_⟩
  · rw [hheads]
    simp only [mem_bitmapSlots]
    rfl
  · dsimp only
    rw [h.plain, need_ok _ _ _ _ (decide_eq_true hz), vet_ok (s.pass dt) _ hk, ← hfold]
    rfl

/-- Whether a slot's last temperature lies below its hard limit less the hysteresis (R195, R198). -/
def State.cool (s : State) (i : Nat) (x : SlotHead) : Bool :=
  match x.temp with
  | some t => decide (t < s.parS 16 (P.fireBarSlotTempHard i) - (s.par (P.fireBarSlotTempHyst i) : Int))
  | none => false

/-- A slot's record after the host has unmuted it (R198). -/
def State.unmuted (s : State) (i : Nat) (x : SlotHead) : SlotHead := { x with mHost := false, mTemp := x.mTemp && !s.cool i x }

/-- Unmuting a slot changes its record alone. -/
theorem unmute_eq (s : State) (i : Nat) : s.unmute i = s.setHead i (s.unmuted i (s.head i)) := rfl

/-- HEAD_UNMUTE ends the HOST mute of the slots of its bitmap, and the TEMP mute of those that are cool (R198). -/
theorem headUnmute_unmutes (dt : Nat) (w : Sess) (s : State) (c : Cmd) (left : List Nat) (h : Holds s w c 0x0703 24) (hk : s.pwr.kind ≠ 2)
    (hz : u32 c.pay 20 = 0) (hleft : left = (bitmapSlots c.pay).filter (fun i => (s.unmuted i (s.head i)).mTemp)) :
    ∃ t u, exec (.headUnmute dt w) s = .next t ∧ u = { s.pass dt with fire := { s.fire with heads := u.fire.heads } } ∧
      (∀ i, u.head i = if i < 160 ∧ bit (fld c.pay 0 20) i = true then { s.head i with mHost := false, mTemp := left.contains i } else s.head i) ∧
      Answered u t w c (if left = [] then St.ok else St.state) (leB 4 s.fire.next ++ leB 20 (maskOf left)) := by
  obtain ⟨m, hfold, hheads⟩ := foldl_heads State.unmute s.unmuted (s.pass dt) (fun m i => unmute_eq _ i) (bitmapSlots c.pay)
    (nodup_bitmapSlots c.pay) s.fire.heads
  have hheads' : ∀ i, ((s.pass dt).withHeads m).head i = if i ∈ bitmapSlots c.pay then s.unmuted i (s.head i) else s.head i := hheads
  have hmuted : (bitmapSlots c.pay).filter (fun i => (((s.pass dt).withHeads m).head i).mTemp) = left := by
    rw [hleft]
    exact List.filter_congr fun i hi => by rw [hheads', if_pos hi]
  refine ⟨_, (s.pass dt).withHeads m, rfl, rfl, fun i => ?_, runCmd_answered (h.pass dt) ?_⟩
  · rw [hheads']
    simp only [mem_bitmapSlots]
    split
    · next hi =>
      have : left.contains i = (s.unmuted i (s.head i)).mTemp := by
        rw [hleft, Bool.eq_iff_iff, List.contains_iff_mem, List.mem_filter, and_iff_right ((mem_bitmapSlots _ _).2 hi)]
      rw [this]
      rfl
    · rfl
  · have hfold' : (bitmapSlots c.pay).foldl State.unmute (s.pass dt) = (s.pass dt).withHeads m := hfold
    dsimp only
    rw [h.plain, need_ok _ _ _ _ (decide_eq_true hz), vet_ok (s.pass dt) _ hk, hfold', hmuted]
    simp only [List.isEmpty_iff]
    rfl

/-! ### Cards -/

/-- HEAD_CARD_READ answers the chunks asked of the card held (R292). -/
theorem headCardRead_answers (dt i first n : Nat) (w : Sess) (s : State) (c : Cmd) (b : Bytes) (h : Holds s w c 0x0704 4) (hk : s.pwr.kind ≠ 2)
    (hi : u8 c.pay 0 = i) (h160 : i < 160) (hfirst : u8 c.pay 1 = first) (hn : u8 c.pay 2 = n) (h1 : 1 ≤ n) (h4 : n ≤ 4) (h8 : first + n ≤ 8)
    (hz : u8 c.pay 3 = 0) (hkazpo : (s.legacyOf i).isSome = false) (hcard : (s.slotLink i).card = some b) :
    ∃ t, exec (.headCardRead dt w) s = .next t ∧
      Answered (s.pass dt) t w c St.ok (leB 1 (s.slotLink i).valid ++ leB 3 0 ++ slice b (32 * first) (32 * n)) := by
  subst hi hfirst hn
  have hkazpo' : ((s.pass dt).legacyOf (u8 c.pay 0)).isSome = false := hkazpo
  refine ⟨_, rfl, runCmd_answered (h.pass dt) ?_⟩
  dsimp only
  rw [h.plain, need_ok _ _ _ _ (decide_eq_true ⟨h160, by omega, h1, h4, h8, hz⟩), vet_ok (s.pass dt) _ hk, hkazpo', slotLink_pass, hcard]

/-- A lane written as it was sends the same INFO_READ. -/
theorem sendInfo_setLane_self (s : State) (l : Nat) (r : InfoRead) : (s.setLane l (s.lane l)).sendInfo l r = s.sendInfo l r := by
  rw [sendInfo_eq', sendInfo_eq', lane_setLane, if_pos rfl, State.setLane_lanes, put_put]
  rfl

/-- A lane with nothing to read starts the read of a card at once (R281). -/
theorem rereadCard_starts (s : State) (l j : Nat) (hactive : (s.lane l).state = 6) (hinfo : (s.lane l).info = none) (htodo : (s.lane l).todo = []) :
    s.rereadCard l j = s.sendInfo l { j := j } := by
  have hqueued : (s.setLane l { s.lane l with todo := [j] }).lane l = { s.lane l with todo := [j] } := (lane_setLane _ _ _ _).trans (if_pos rfl)
  have hkept : ({ s.lane l with todo := [] } : Lane) = s.lane l := by rw [← htodo]
  have hstart : (s.setLane l { s.lane l with todo := [j] }).startInfo l = (s.setLane l (s.lane l)).sendInfo l { j := j } := by
    unfold State.startInfo
    rw [hqueued]
    dsimp only
    rw [if_neg (by simp [hactive, hinfo]), setLane_setLane, hkept]
  unfold State.rereadCard
  dsimp only
  split
  · next r hreading => exact nomatch hinfo.symm.trans hreading
  · rw [htodo]
    exact hstart.trans (sendInfo_setLane_self s l _)

/-- HEAD_CARD_REFRESH waits, and the slot's card is read from its first chunk on (R292). -/
theorem headCardRefresh_reads (dt i l : Nat) (w : Sess) (s : State) (c : Cmd) (x : Lane) (h : Holds s w c 0x0705 4) (hk : s.pwr.kind ≠ 2)
    (hroom : HasRoom s w) (hi : u8 c.pay 0 = i) (h160 : i < 160) (hz : fld c.pay 1 3 = 0) (hkazpo : (s.legacyOf i).isSome = false)
    (hlane : (s.primaryFor i).bind (fun l => s.carrier l s.fire.next) = some l) (hx : s.lane l = x) (hactive : x.state = 6) (hinfo : x.info = none)
    (htodo : x.todo = []) :
    ∃ t u, exec (.headCardRefresh dt w) s = .next t ∧
      u = { s.pass dt with
        links := put s.links i { s.slotLink i with refresh := (s.slotLink i).refresh ++ [(w, c.seq)] }
        lanes := put s.lanes l { x with info := some { j := s.slotPos i, tag := BitVec.ofNat 8 (Config.value s.free), sentAt := (s.pass dt).now } }
        out := .block l (infoReadBlock (s.slotPos i) (BitVec.ofNat 8 (Config.value s.free)) 0) :: s.out
        free := s.free + 1 } ∧
      Waiting u t w c i [] [] := by
  subst hi hx
  have hhead : (s.pass dt).headLane (u8 c.pay 0) = some l := by
    unfold State.headLane
    exact (if_neg (by simp [show ((s.pass dt).legacyOf (u8 c.pay 0)).isSome = false from hkazpo])).trans hlane
  obtain ⟨hcmd, hop, -, -⟩ := h.pass dt
  refine ⟨_, _, rfl, rfl, runCmd_waiting hcmd hop (hroom.pass dt) ?_⟩
  dsimp only
  rw [h.plain, need_ok _ _ _ _ (decide_eq_true ⟨h160, hz⟩), vet_ok (s.pass dt) _ hk, hasQueue_ok _ _ _ (hroom.pass dt), hhead]
  refine congrArg (Reply.pend (u8 c.pay 0) · [] []) ((rereadCard_starts _ _ _ ?_ ?_ ?_).trans (sendInfo_eq' _ _ _))
  · exact hactive
  · exact hinfo
  · exact htodo

/-- Settles O25: the mutes by a fold over the slots of the bitmap, the refresh by the read that a free lane starts at once. -/
theorem headCommandsAnswer : Obligations.HeadCommandsAnswer := by
  unfold Obligations.HeadCommandsAnswer
  exact ⟨headStatus_answers, headMute_mutes, headUnmute_unmutes, headCardRead_answers, headCardRefresh_reads⟩

end Sys2Proof.Machine
end

section
/-!
What the heads report (R195, R196, R260, R277, R279, R293): a STATUS block, what it leaves of its slot and of the others, and a temperature going stale.
-/
namespace Sys2Proof.Machine

/-! ### What a report touches -/

/-- `t` differs from `s` at most in the head records, what LINK holds of the slots, the lanes, the spares, and what hits touch. -/
def OnHeads (s t : State) : Prop :=
  Touched { s with fire := { s.fire with heads := t.fire.heads }, links := t.links, lanes := t.lanes, spares := t.spares } t

theorem OnHeads.trans {s t u : State} (h : OnHeads s t) (k : OnHeads t u) : OnHeads s u := by
  unfold OnHeads Touched at *
  rw [k, h]

/-- What hits touch is among it. -/
theorem OnHeads.of_touched {s t : State} (h : Touched s t) : OnHeads s t := by
  unfold OnHeads Touched at *
  rw [h]

/-- A report changes no parameter, so every reaction stands. -/
theorem OnHeads.calm {s t : State} {n : Nat} (h : OnHeads s t) (hn : Calm s n) : Calm t n := by
  refine hn.of_params ?_
  unfold OnHeads Touched at h
  rw [h]

/-- The temperature record of slot `i` after a report of `raw`: 0x8000 reports none, any other is the temperature, which at the soft limit makes the slot
soft and at the hard limit mutes it; the other slots' records stand (R195, R277). -/
def TempReported (s t : State) (i raw : Nat) : Prop :=
  (∀ k, k ≠ i → t.head k = s.head k) ∧
  (raw = 0x8000 → t.head i = s.head i) ∧
  (raw ≠ 0x8000 → (t.head i).temp = some (signed 16 raw) ∧ (t.head i).tempT = s.t32 ∧ (t.head i).mHost = (s.head i).mHost) ∧
  (raw ≠ 0x8000 → s.hasLimits i = true → s.parS 16 (P.fireBarSlotTempSoft i) ≤ signed 16 raw → (t.head i).soft = true) ∧
  (raw ≠ 0x8000 → s.hasLimits i = true → s.parS 16 (P.fireBarSlotTempHard i) ≤ signed 16 raw → (t.head i).mTemp = true)

/-- The record is one of the fire schedule's. -/
theorem TempReported.of_fire {s t u : State} {i raw : Nat} (h : TempReported s t i raw) (hfire : u.fire = t.fire) : TempReported s u i raw := by
  have hhead : ∀ k, u.head k = t.head k := fun k => by unfold State.head; rw [hfire]
  unfold TempReported
  simp only [hhead]
  exact h

/-! ### The steps of a STATUS -/

/-- LT_VALID and `alive` of a STATUS (R277, R279). -/
def State.heard (s : State) (i : Nat) (valid : Bool) (alive : BitVec 16) : State :=
  s.setLink i { s.slotLink i with ltValid := valid, alive := alive }

/-- The temperature of a STATUS, when it brings one (R195, R277). -/
def State.takeTemp (s : State) (i raw : Nat) : State := if raw = 0x8000 then s else s.tempReport i (signed 16 raw)

/-- What follows the flags of a STATUS: a changed card is read again, LINK_TIME_LOST follows LT_VALID, and a switch whose slots all have link time is
complete (R248, R279, R283). -/
def State.closeStatus (s : State) (l j i : Nat) (valid changed : Bool) : State :=
  let s := if changed then s.rereadCard l j else s
  let s := if valid then s.lower F.linkTimeLost i else s.raise F.linkTimeLost i
  if l < 32 ∨ !((s.primaryOf l).map s.primarySlots |>.getD []).all (fun i => (s.slotLink i).ltValid) then s
  else s.setSpare (l - 32) { s.spare (l - 32) with switching := none }

/-- A STATUS takes its steps in this order. -/
theorem status_eq {s : State} {l j i : Nat} (b : Bytes) (h : s.slotOn l j = some i) :
    s.status l j b = (((s.heard i (bit (u8 b 1) 3) (BitVec.ofNat 16 (beN (slice b 5 2)))).takeTemp i (beN (slice b 2 2))).statusFlags i (u8 b 4)).closeStatus
      l j i (bit (u8 b 1) 3) (bit (u8 b 1) 4) := by
  unfold State.status
  rw [h]
  rfl

/-- What the temperature of a STATUS leaves. -/
theorem takeTemp_law (s : State) (i raw : Nat) (hsoft : Calm s F.headTempSoft) (hhard : Calm s F.headTempHard) :
    TempReported s (s.takeTemp i raw) i raw ∧ (s.takeTemp i raw).links = s.links ∧ (s.takeTemp i raw).lanes = s.lanes ∧
      (s.takeTemp i raw).spares = s.spares ∧ OnHeads s (s.takeTemp i raw) := by
  unfold State.takeTemp
  by_cases h : raw = 0x8000
  · rw [if_pos h]
    exact ⟨⟨fun _ _ => rfl, fun _ => rfl, absurd h, absurd h, absurd h⟩, rfl, rfl, rfl, .of_touched (.refl s)⟩
  · rw [if_neg h]
    obtain ⟨x, htouch, htemp, hT, hmHost, hxsoft, hxhard⟩ := temp_law s i (signed 16 raw) hsoft hhard
    generalize s.tempReport i (signed 16 raw) = t at htouch
    have hhead : ∀ k, t.head k = if k = i then x else s.head k := fun k => by
      rw [← head_setHead]
      unfold Touched at htouch
      rw [htouch]
      rfl
    have hi : t.head i = x := (hhead i).trans (if_pos rfl)
    refine ⟨⟨fun k hk => (hhead k).trans (if_neg hk), fun h' => absurd h' h, fun _ => ?_, fun _ => ?_, fun _ => ?_⟩, ?_⟩
    · rw [hi]; exact ⟨htemp, hT, hmHost⟩
    · rw [hi]; exact hxsoft
    · rw [hi]; exact hxhard
    · unfold OnHeads
      unfold Touched at *
      rw [htouch]
      exact ⟨rfl, rfl, rfl, rfl⟩

/-- What follows the flags leaves the records of the slots; only a changed card touches the lanes, and only a spare's STATUS the spares. -/
theorem closeStatus_law (s : State) (l j i : Nat) (valid changed : Bool) (h : Calm s F.linkTimeLost) :
    let t := s.closeStatus l j i valid changed
    t.fire = s.fire ∧ t.links = s.links ∧ (changed = false → t.lanes = s.lanes) ∧ (l < 32 → t.spares = s.spares) ∧ OnHeads s t := by
  unfold State.closeStatus
  dsimp only
  generalize hu : (if changed = true then s.rereadCard l j else s) = u
  have hread : u = { s with lanes := u.lanes, out := u.out, free := u.free } := by
    rw [← hu]
    split
    · exact reread_frame s l j
    · rfl
  have hlanes : changed = false → u.lanes = s.lanes := fun hc => by rw [← hu, hc]; rfl
  have hcalm : Calm u F.linkTimeLost := h.of_params (by rw [hread])
  generalize hv : (if valid = true then u.lower F.linkTimeLost i else u.raise F.linkTimeLost i) = v
  have htouch : Touched u v := hv ▸ touched_if (lower_touched u _ _) (raise_touched u _ _ hcalm)
  have hkept : v.fire = s.fire ∧ v.links = s.links ∧ v.lanes = u.lanes ∧ v.spares = s.spares ∧ OnHeads s v := by
    unfold OnHeads
    unfold Touched at *
    rw [htouch, hread]
    exact ⟨rfl, rfl, rfl, rfl, rfl⟩
  obtain ⟨hfire, hlinks, hvlanes, hspares, hon⟩ := hkept
  split
  · exact ⟨hfire, hlinks, fun hc => hvlanes.trans (hlanes hc), fun _ => hspares, hon⟩
  · next hspare =>
    exact ⟨hfire, hlinks, fun hc => hvlanes.trans (hlanes hc), fun hl => absurd (.inl hl) hspare, hon.trans (by unfold OnHeads Touched; rfl)⟩

/-- What LINK holds of a slot is one of its records. -/
theorem slotLink_of_links {s t : State} (h : t.links = s.links) (k : Nat) : t.slotLink k = s.slotLink k := by
  unfold State.slotLink
  rw [h]

/-- What LINK holds of a slot after a STATUS (R279, R293). -/
def SlotLink.reported (x : SlotLink) (valid : Bool) (alive : BitVec 16) (fl : Nat) : SlotLink :=
  { x with ltValid := valid, alive := alive, flags := BitVec.ofNat 8 fl, frameErr := sat 32 (x.frameErr + b2n (bit fl 0) + b2n (bit fl 1)),
           fireMiss := sat 32 (x.fireMiss + b2n (bit fl 2 || bit fl 3 || bit fl 6)) }

/-- What a STATUS leaves of its slot, of the other slots, of the lanes and the spares. -/
theorem status_law (s : State) (l j i : Nat) (b : Bytes) (hslot : s.slotOn l j = some i)
    (hcalm : ∀ n ∈ [F.headTempSoft, F.headTempHard, F.headFrameCrc, F.headRepeat, F.headFireMiss, F.headError, F.linkTimeLost], Calm s n) :
    let t := s.status l j b
    (∀ k, t.slotLink k =
      if k = i then (s.slotLink i).reported (bit (u8 b 1) 3) (BitVec.ofNat 16 (beN (slice b 5 2))) (u8 b 4) else s.slotLink k) ∧
    TempReported s t i (beN (slice b 2 2)) ∧ (bit (u8 b 1) 4 = false → t.lanes = s.lanes) ∧ (l < 32 → t.spares = s.spares) ∧ OnHeads s t := by
  intro t
  have ht : t = _ := status_eq b hslot
  generalize hs1 : s.heard i (bit (u8 b 1) 3) (BitVec.ofNat 16 (beN (slice b 5 2))) = s1 at ht
  have on1 : OnHeads s s1 := by subst hs1; unfold OnHeads Touched; rfl
  have link1 : ∀ k, s1.slotLink k =
      if k = i then { s.slotLink i with ltValid := bit (u8 b 1) 3, alive := BitVec.ofNat 16 (beN (slice b 5 2)) } else s.slotLink k :=
    fun k => by rw [← hs1]; exact link_setLink s i k _
  obtain ⟨temp2, links2, lanes2, spares2, on2⟩ := takeTemp_law s1 i (beN (slice b 2 2)) (on1.calm (hcalm _ (by simp))) (on1.calm (hcalm _ (by simp)))
  have temp2' : TempReported s (s1.takeTemp i (beN (slice b 2 2))) i (beN (slice b 2 2)) := by subst hs1; exact temp2
  generalize s1.takeTemp i (beN (slice b 2 2)) = s2 at ht links2 lanes2 spares2 on2 temp2'
  have on2 := on1.trans on2
  have flags3 := flags_law s2 i (u8 b 4) (on2.calm (hcalm _ (by simp))) (on2.calm (hcalm _ (by simp))) (on2.calm (hcalm _ (by simp)))
    (on2.calm (hcalm _ (by simp)))
  generalize s2.statusFlags i (u8 b 4) = s3 at ht flags3
  have on3 : OnHeads s s3 := (on2.trans (by unfold OnHeads Touched; rfl)).trans (.of_touched flags3)
  obtain ⟨fire4, links4, lanes4, spares4, on4⟩ := closeStatus_law s3 l j i (bit (u8 b 1) 3) (bit (u8 b 1) 4) (on3.calm (hcalm _ (by simp)))
  rw [← ht] at fire4 links4 lanes4 spares4 on4
  obtain ⟨-, -, -, -, -, fire3, -, lanes3, spares3, links3, -⟩ := flags3.fields
  have lanes1 : s1.lanes = s.lanes := by subst hs1; rfl
  have spares1 : s1.spares = s.spares := by subst hs1; rfl
  refine ⟨fun k => ?_, temp2'.of_fire (fire4.trans fire3), fun hc => ?_, fun hl => ?_, on3.trans on4⟩
  · rw [slotLink_of_links (links4.trans links3), link_setLink, slotLink_of_links links2, slotLink_of_links links2, link1, link1, if_pos rfl]
    split <;> rfl
  · exact (lanes4 hc).trans (lanes3.trans (lanes2.trans lanes1))
  · exact (spares4 hl).trans (spares3.trans (spares2.trans spares1))

/-! ### The rows -/

/-- The fields of a STATUS's first parameter: the position, LT_VALID and CARD_CHANGED (R277). -/
theorem status_fields {x j v cc : Nat} (h : x = j + 8 * v + 16 * cc) (hj : j < 8) (hv : v ≤ 1) (hcc : cc ≤ 1) :
    x < 32 ∧ x % 8 = j ∧ bit x 3 = decide (v = 1) ∧ (cc = 0 → bit x 4 = false) := by
  subst h
  refine ⟨by omega, by omega, ?_, fun hz => ?_⟩
  · rw [bit, Bool.eq_iff_iff, beq_iff_eq, decide_eq_true_iff]
    omega
  · rw [bit, beq_eq_false_iff_ne]
    omega

/-- A good STATUS block of a position that an ACTIVE lane carries is taken for its slot (R260, R277, log 42). -/
theorem statusBlock_taken (dt j p : Nat) (lane : Fin 36) (block : Bytes) (s : State) (hgood : goodBlock block 0x94 = true) (h32 : u8 block 1 < 32)
    (hj : u8 block 1 % 8 = j) (hfl : bit (u8 block 4) 7 = false) (hp : s.primaryOf lane.val = some p) (hactive : (s.lane lane.val).state = 6)
    (hslots : j < (s.lane p).slots) : exec (.statusBlock dt lane block) s = .next ((s.pass dt).status lane.val j block) := by
  subst hj
  have hp' : (s.pass dt).primaryOf lane.val = some p := hp
  show execStatusBlock dt lane block s = _
  unfold execStatusBlock
  dsimp only
  rw [if_neg (by simp [hgood, hfl]; omega), hp']
  exact if_neg fun h => h.elim (fun h => h hactive) (Nat.not_le.2 hslots)

/-- A STATUS of a slot sets what LINK and EMBER hold of it, and leaves the other slots (R195, R277, R279, R293). -/
theorem statusBlock_reports (dt j v cc p i raw fl : Nat) (lane : Fin 36) (block : Bytes) (s : State) (x : SlotLink) (hgood : goodBlock block 0x94 = true)
    (hbits : u8 block 1 = j + 8 * v + 16 * cc) (hj : j < 8) (hv : v ≤ 1) (hcc : cc ≤ 1) (hfl : u8 block 4 = fl) (hfl7 : bit fl 7 = false)
    (hp : s.primaryOf lane.val = some p) (hactive : (s.lane lane.val).state = 6) (hslots : j < (s.lane p).slots)
    (hi : i = 20 * (p / 4) + s.firstSlot p + j) (hx : s.slotLink i = x) (hraw : raw = beN (slice block 2 2))
    (hcalm : ∀ n ∈ [F.headTempSoft, F.headTempHard, F.headFrameCrc, F.headRepeat, F.headFireMiss, F.headError, F.linkTimeLost], Calm s n) :
    ∃ t, exec (.statusBlock dt lane block) s = .next t ∧
      t.slotLink i = x.reported (decide (v = 1)) (BitVec.ofNat 16 (beN (slice block 5 2))) fl ∧
      (∀ k, k ≠ i → t.slotLink k = s.slotLink k ∧ t.head k = s.head k) ∧ TempReported (s.pass dt) t i raw ∧
      (cc = 0 → t.lanes = s.lanes) ∧ (lane.val < 32 → t.spares = s.spares) ∧ OnHeads (s.pass dt) t := by
  subst hfl hx hraw
  obtain ⟨h32, hpos, hvalid, hchanged⟩ := status_fields hbits hj hv hcc
  have hslot : (s.pass dt).slotOn lane.val j = some i := by
    rw [hi]
    exact congrArg (Option.map _) hp
  obtain ⟨hlink, htemp, hlanes, hspares, hon⟩ := status_law (s.pass dt) lane.val j i block hslot (fun n hn => (hcalm n hn).of_params rfl)
  refine ⟨_, statusBlock_taken dt j p lane block s hgood h32 hpos hfl7 hp hactive hslots, ?_, fun k hk => ⟨?_, htemp.1 k hk⟩, htemp,
    fun hc => hlanes (hchanged hc), hspares, hon⟩
  · rw [hlink, if_pos rfl, hvalid]
    rfl
  · rw [hlink, if_neg hk]
    rfl

/-- A STATUS block that is bad, or whose reserved bits are not zero, is counted and recorded (R260). -/
theorem statusBlock_bad (dt : Nat) (lane : Fin 36) (block : Bytes) (s : State)
    (hbad : goodBlock block 0x94 = false ∨ 32 ≤ u8 block 1 ∨ bit (u8 block 4) 7 = true) (h : Takes s F.upstreamBad lane.val idNone) :
    ∃ t, exec (.statusBlock dt lane block) s = .next t ∧
      Recorded ((s.pass dt).setLane lane.val { s.lane lane.val with upBad := sat 32 ((s.lane lane.val).upBad + 1) }) t F.upstreamBad lane.val idNone 0 := by
  have hexec : exec (.statusBlock dt lane block) s = .next ((s.pass dt).badUpstream lane.val) := by
    show execStatusBlock dt lane block s = _
    unfold execStatusBlock
    dsimp only
    exact if_pos (by simpa using hbad)
  exact ⟨_, hexec, hit_recorded _ _ _ _ _ (takes_frame s _ _ _ _ rfl rfl h)⟩

/-- A condition that does not hold yet is raised by a hit (R453). -/
theorem raise_new {s : State} {n a : Nat} (h : (s.src n).conds.contains (BitVec.ofNat 32 a) = false) : s.raise n a = s.fault n a :=
  if_neg (by rw [h]; exact Bool.false_ne_true)

/-- No report of a slot with limits for `stale_ms` makes it soft and records HEAD_TEMP_STALE (R195). -/
theorem headTempStale_stales (dt : Nat) (slot : Fin 160) (s : State) (hlimits : s.hasLimits slot.val = true) (hfresh : (s.head slot.val).stale = false)
    (hdue : (s.head slot.val).tempAt + s.par P.fireTempStaleMs * perMs ≤ (s.pass dt).now) (h : Takes s F.headTempStale slot.val idNone)
    (hnew : (s.src F.headTempStale).conds.contains (BitVec.ofNat 32 slot.val) = false) :
    ∃ t u, exec (.headTempStale dt slot) s = .next t ∧
      Recorded ((s.pass dt).setHead slot.val { s.head slot.val with stale := true, soft := true }) u F.headTempStale slot.val idNone 0 ∧ t = u.refresh := by
  generalize hv : (s.pass dt).setHead slot.val { s.head slot.val with stale := true, soft := true } = v
  have hexec : exec (.headTempStale dt slot) s = .next (v.raise F.headTempStale slot.val).refresh := by
    have hlimits' : (s.pass dt).hasLimits slot.val = true := hlimits
    show execHeadTempStale dt slot s = _
    unfold execHeadTempStale
    dsimp only
    rw [if_neg, ← hv]
    · rfl
    · rintro (hnone | hstale | hearly)
      · simp [hlimits'] at hnone
      · exact absurd hstale (by simp [hfresh])
      · exact absurd hdue (Nat.not_le.2 hearly)
  have hnew' : (v.src F.headTempStale).conds.contains (BitVec.ofNat 32 slot.val) = false := by subst hv; exact hnew
  rw [raise_new hnew'] at hexec
  exact ⟨_, _, hexec, hit_recorded _ _ _ _ _ (takes_frame s _ _ _ _ (by subst hv; rfl) (by subst hv; rfl) h), rfl⟩

/-- Settles O26: a STATUS step by step, each with what it leaves of the records and what hits touch; a bad block and a stale temperature by their hit. -/
theorem headsReport : Obligations.HeadsReport := by
  unfold Obligations.HeadsReport
  refine ⟨?report, statusBlock_bad, headTempStale_stales⟩
  case report =>
    intro dt j v cc p i raw fl lane block s x hgood hbits hj hv hcc hfl hfl7 hp hactive hslots hi hx hraw hcalm
    obtain ⟨t, hexec, hlink, hothers, ⟨-, hnone, htemp, hsoft, hmuted⟩, hlanes, hspares, hon⟩ :=
      statusBlock_reports dt j v cc p i raw fl lane block s x hgood hbits hj hv hcc hfl hfl7 hp hactive hslots hi hx hraw hcalm
    exact ⟨t, hexec, hlink, hothers, hnone, htemp, hsoft, hmuted, hlanes, hspares, hon⟩

end Sys2Proof.Machine
end

section
/-!
A scheduled line on its target (R190, R191, R193, R266, R273, R274): its freeze, its launch, and what happens when it comes too close behind the line
before it.
-/
namespace Sys2Proof.Machine

/-! ### What changes nothing -/

/-- A fold whose steps each leave the state leaves it. -/
theorem foldl_same {α : Type} {f : State → α → State} {s : State} {l : List α} (h : ∀ a ∈ l, f s a = s) : l.foldl f s = s := by
  induction l with
  | nil => rfl
  | cons a l ih =>
    rw [List.foldl_cons, h a List.mem_cons_self]
    exact ih fun b hb => h b (List.mem_cons_of_mem a hb)

/-- A line that no trigger's grid holds pulses no output (R340). -/
theorem trigDue_none {s : State} {line : Nat} (at_ : Nat) (h : ∀ k, k < 8 → s.trigAt k line = false) : s.trigDue [line] at_ = s := by
  refine foldl_same fun k hk => ?_
  dsimp only
  rw [List.filter_cons_of_neg (by simp [h k (List.mem_range.1 hk)])]
  rfl

/-- Without a legacy slot no strobe falls due (R287). -/
theorem legacyDue_none {s : State} (d : Desc) (silent : List Nat) (due : Nat) (h : ∀ i, (s.legacyOf i).isSome = false) : s.legacyDue d silent due = s := by
  unfold State.legacyDue
  exact if_pos (by simp [h])

/-! ### Freezing (R190, R191) -/

/-- The oldest unfrozen scheduled line freezes when its freeze time has come. -/
theorem targetFreeze_freezes (dt : Nat) (s : State) (d : Desc) (hfind : s.fire.descs.find? (fun d => !d.edge && !d.frozen) = some d)
    (hdue : (s.pass dt).reached32 (back d.target (s.freezeLead d)) = true) :
    exec (.targetFreeze dt) s = .next { s.pass dt with fire := { s.fire with
      descs := s.fire.descs.map (fun e => if e.line = d.line then { e with frozen := true, fallback := decide (1 < since d.line s.pos) } else e)
      fallbacks := if 1 < since d.line s.pos then sat 32 (s.fire.fallbacks + 1) else s.fire.fallbacks } } := by
  have hexec : exec (.targetFreeze dt) s = .next ((s.pass dt).freeze d.line) := by
    show execTargetFreeze dt s = _
    unfold execTargetFreeze
    dsimp only
    rw [State.pass_fire, hfind]
    exact if_pos hdue
  rw [hexec]
  unfold State.freeze
  simp only [decide_eq_true_eq]
  rfl

/-- Until then nothing changes. -/
theorem targetFreeze_waits (dt : Nat) (s : State) (h : ∀ d, s.fire.descs.find? (fun d => !d.edge && !d.frozen) = some d →
    (s.pass dt).reached32 (back d.target (s.freezeLead d)) = false) : exec (.targetFreeze dt) s = .next (s.pass dt) := by
  show execTargetFreeze dt s = _
  unfold execTargetFreeze
  dsimp only
  split
  · next d hfind => exact if_neg (Bool.eq_false_iff.1 (h d hfind))
  · rfl

/-! ### FIRE blocks (R266, R273) -/

/-- The FIRE block of a group whose frames have all left. -/
def State.fireOf (s : State) (g : Later) : Output := .fire g.lane g.line g.target (fireBlock (s.fireMask g.slots false) g.line g.target)

/-- Every frame of a group's slots has left, and it has a slot. -/
def State.Whole (s : State) (un : List Nat) (g : Later) : Prop := g.slots ≠ [] ∧ ∀ i ∈ g.slots, s.unsentOf un g.line i = false

/-- A whole group leaves as one FIRE block. -/
theorem launchGroup_whole {s : State} {un : List Nat} {g : Later} (h : s.Whole un g) : State.launchGroup un s g = s.emit (s.fireOf g) := by
  obtain ⟨hne, hsent⟩ := h
  have hlate : g.slots.filter (s.unsentOf un g.line) = [] := List.filter_eq_nil_iff.2 fun i hi => by simp [hsent i hi]
  have hgo : g.slots.filter (fun i => !s.unsentOf un g.line i) = g.slots := List.filter_eq_self.2 fun i hi => by simp [hsent i hi]
  unfold State.launchGroup
  dsimp only
  rw [hlate, hgo]
  exact if_neg (by simpa using hne)

/-- Whole groups leave in order, and nothing else changes. -/
theorem foldl_launchGroup {un : List Nat} (gs : List Later) (s : State) (h : ∀ g ∈ gs, s.Whole un g) :
    gs.foldl (State.launchGroup un) s = s.emits (gs.map s.fireOf) := by
  induction gs generalizing s with
  | nil => rfl
  | cons g gs ih =>
    rw [List.foldl_cons, launchGroup_whole (h g List.mem_cons_self), ih (s.emit (s.fireOf g)) fun x hx => h x (List.mem_cons_of_mem g hx)]
    have hkept : (s.emit (s.fireOf g)).fireOf = s.fireOf := rfl
    unfold State.emits
    rw [hkept, List.map_cons, List.reverse_cons, List.append_assoc]
    rfl

/-- A group of a line's slots is of that line and has a slot. -/
theorem groups_mem {s : State} {d : Desc} {slots : List (Nat × Nat)} {g : Later} (h : g ∈ s.groups d slots) : g.line = d.line ∧ g.slots ≠ [] := by
  obtain ⟨e, he, rfl⟩ := List.mem_map.1 h
  obtain ⟨x, hx, rfl⟩ := List.mem_map.1 (List.mem_eraseDups.1 he)
  exact ⟨rfl, List.ne_nil_of_mem (List.mem_map_of_mem (List.mem_filter.2 ⟨hx, by simp⟩))⟩

/-! ### The parts of a launch -/

/-- A line that no launch takes: it fires on its edge, or its target is not frozen (R188, R190, R191). -/
def Desc.Idle (d : Desc) : Prop := d.edge = true ∨ d.frozen = false ∨ d.fallback = true

/-- A launch takes no group of an idle line early. -/
theorem launchEarly_idle {d : Desc} (un : List Nat) (s : State) (h : d.Idle) : State.launchEarly un s d = s :=
  if_pos (by obtain h | h | h := h <;> simp [h])

/-- A launch takes no group early whose time has not come (R274). -/
theorem launchEarly_none {s : State} {d : Desc} (un : List Nat)
    (h : ∀ g ∈ s.groups d ((s.fireSlots d (s.silentBars d)).filter (fun e => !d.sent.contains e.1)), s.groupDue g = false) :
    State.launchEarly un s d = s := by
  have hsent : ∀ e : Desc, (if e.line = d.line then { e with sent := e.sent ++ [] } else e) = e := fun e => by
    rw [List.append_nil]
    exact ite_self e
  unfold State.launchEarly
  split
  · rfl
  · split
    · rfl
    · dsimp only
      rw [List.filter_eq_nil_iff.2 fun g hg => by simp [h g hg]]
      simp only [List.flatMap_nil, List.foldl_nil, hsent, List.map_id']

/-- A launch time takes the groups of positive phase, then the oldest line, then the groups of negative phase (R274). -/
theorem scheduledFireLaunch_next {dt : Nat} {unsent : List (Fin 160)} {s u : State}
    (h : ((s.pass dt).launchLater (unsent.map Fin.val)).launchFront (unsent.map Fin.val) = u)
    (hearly : ∀ d ∈ u.fire.descs, State.launchEarly (unsent.map Fin.val) u d = u) :
    exec (.scheduledFireLaunch dt unsent) s = .next u := by
  subst h
  exact congrArg Host.Outcome.next (foldl_same hearly)

/-- No group of positive phase leaves before its time. -/
theorem launchLater_none {s : State} (un : List Nat) (h : ∀ g ∈ s.fire.later, s.groupDue g = false) : s.launchLater un = s := by
  have hdue : s.fire.later.filter s.groupDue = [] := List.filter_eq_nil_iff.2 fun g hg => by simp [h g hg]
  have hkept : s.fire.later.filter (fun g => !s.groupDue g) = s.fire.later := List.filter_eq_self.2 fun g hg => by simp [h g hg]
  unfold State.launchLater
  dsimp only
  rw [hdue, hkept]
  exact ite_self s

/-- Without a group of positive phase none leaves. -/
theorem launchLater_nil {s : State} (un : List Nat) (h : s.fire.later = []) : s.launchLater un = s :=
  launchLater_none un (by rw [h]; exact fun _ hg => absurd hg List.not_mem_nil)

/-- With the clock locked and the active unit alive nothing is silenced (R24, R215). -/
theorem not_silenced {s : State} (hlock : s.fire.unlock = false) (halive : s.activeDead = false) : ¬(s.fire.unlock = true ∨ s.activeDead = true) := by
  simp [hlock, halive]

/-- Every group of positive phase leaves whose time has come and whose frames have left, with the clock locked and the active unit alive. -/
theorem launchLater_all {s : State} {un : List Nat} (h : ∀ g ∈ s.fire.later, s.groupDue g = true ∧ s.Whole un g) (hlock : s.fire.unlock = false)
    (halive : s.activeDead = false) :
    s.launchLater un = { s with fire := { s.fire with later := [] } }.emits (s.fire.later.map s.fireOf) := by
  have hdue : s.fire.later.filter s.groupDue = s.fire.later := List.filter_eq_self.2 fun g hg => (h g hg).1
  have hkept : s.fire.later.filter (fun g => !s.groupDue g) = [] := List.filter_eq_nil_iff.2 fun g hg => by simp [h g hg]
  unfold State.launchLater
  dsimp only
  rw [hdue, hkept]
  exact (if_neg (not_silenced hlock halive)).trans (foldl_launchGroup _ _ fun g hg => (h g hg).2)

/-- With no line due nothing is launched. -/
theorem launchFront_idle {s : State} (un : List Nat) (h : ∀ d ∈ s.fire.descs, d.held = false ∧ d.Idle) : s.launchFront un = s := by
  unfold State.launchFront
  split
  · rfl
  · next d rest hdescs =>
    obtain ⟨hheld, hidle⟩ := h d (by rw [hdescs]; exact List.mem_cons_self)
    rw [if_neg (by simp [hheld])]
    exact if_pos (by obtain h | h | h := hidle <;> simp [h])

/-! ### The oldest line -/

/-- The launch time of a frozen scheduled line has come, and the active unit answers (R190; log 17). -/
structure State.LaunchDue (s : State) (d : Desc) : Prop where
  edge : d.edge = false
  frozen : d.frozen = true
  held : d.held = false
  fallback : d.fallback = false
  passed : s.launchPassed d = true
  running : s.fb.stalled = false

/-- The least target of a line after the last one fired (R193). -/
def State.leastTarget (s : State) : Nat := (s.fire.lastLink + minFireGap) % 2 ^ 32

/-- A line that is due goes on to the rule of the least distance. -/
theorem State.LaunchDue.goes {s : State} {d : Desc} (h : s.LaunchDue d) :
    ¬d.held = true ∧ ¬(d.edge = true ∨ (!d.frozen) = true ∨ d.fallback = true ∨ (!s.launchPassed d) = true ∨
      s.fb.stalled = true ∧ (!s.activeDead) = true) := by
  simp [h.edge, h.frozen, h.held, h.fallback, h.passed, h.running]

/-- A line that is due, far enough behind the last one, launches. -/
theorem launchFront_launches {s : State} {d : Desc} {rest : List Desc} (un : List Nat) (hdescs : s.fire.descs = d :: rest) (h : s.LaunchDue d)
    (hfar : s.fire.lastFired.isSome = true → 0 ≤ since d.target s.leastTarget) : s.launchFront un = s.launch d un := by
  obtain ⟨hheld, hgoes⟩ := h.goes
  unfold State.launchFront
  rw [hdescs]
  dsimp only
  rw [if_neg hheld, if_neg hgoes]
  exact if_neg fun hclose => Int.not_lt.2 (hfar hclose.1) hclose.2

/-- A launch with no slot left out, each frame gone, no trigger, no legacy slot and no group that waits: the FIRE blocks leave and the line is the last
one fired (R190, R206, R273). -/
theorem launch_fires {s : State} {d : Desc} {un : List Nat} {gs : List Later} (hsilent : s.silentBars d = [])
    (htrig : ∀ k, k < 8 → s.trigAt k d.line = false) (hlegacy : ∀ i, (s.legacyOf i).isSome = false)
    (hgs : gs = s.groups d ((s.fireSlots d []).filter (fun e => !d.sent.contains e.1)))
    (hdue : ∀ g ∈ gs, s.groupDue g = true) (hsent : ∀ g ∈ gs, ∀ i ∈ g.slots, s.unsentOf un d.line i = false) :
    s.launch d un = (s.emits (gs.map s.fireOf)).fired d.line d.target := by
  have hwhole : ∀ g ∈ gs, s.Whole un g := fun g hg => by
    obtain ⟨hline, hne⟩ := groups_mem (hgs ▸ hg)
    exact ⟨hne, hline ▸ hsent g hg⟩
  have hall : gs.filter s.groupDue = gs := List.filter_eq_self.2 hdue
  have hnone : gs.filter (fun g => !s.groupDue g) = [] := List.filter_eq_nil_iff.2 fun g hg => by simp [hdue g hg]
  have hlater : ({ s with fire := { s.fire with later := s.fire.later ++ [] } } : State) = s := by rw [List.append_nil]
  unfold State.launch
  rw [trigDue_none _ htrig]
  dsimp only
  rw [hsilent, show s.noFireOn d.line [] = s from rfl, if_neg (by decide), ← hgs, hnone, hlater, hall, foldl_launchGroup gs s hwhole, legacyDue_none]
  exact hlegacy

/-- The oldest line launches on its target (R190, R266, R273). -/
theorem scheduledFireLaunch_fires (dt : Nat) (unsent : List (Fin 160)) (s : State) (d : Desc) (rest : List Desc) (gs : List Later)
    (hdescs : s.fire.descs = d :: rest) (h : (s.pass dt).LaunchDue d) (hfar : s.fire.lastFired.isSome = true → 0 ≤ since d.target s.leastTarget)
    (hlater : s.fire.later = []) (hsilent : s.silentBars d = []) (htrig : ∀ k, k < 8 → s.trigAt k d.line = false)
    (hlegacy : ∀ i, (s.legacyOf i).isSome = false) (hrest : ∀ e ∈ rest, e.Idle)
    (hgs : gs = s.groups d ((s.fireSlots d []).filter (fun e => !d.sent.contains e.1))) (hdue : ∀ g ∈ gs, (s.pass dt).groupDue g = true)
    (hsent : ∀ g ∈ gs, ∀ i ∈ g.slots, s.unsentOf (unsent.map Fin.val) d.line i = false) :
    exec (.scheduledFireLaunch dt unsent) s = .next { s.pass dt with
      fire := { s.fire with
        descs := rest.filter (fun e => e.line != d.line), lastFired := some d.line, lastLink := d.target
        lastTclk := (((s.pass dt).clk.tclk : Int) + since d.target (s.pass dt).link).toNat }
      out := (gs.map s.fireOf).reverse ++ s.out } := by
  have hfired : (s.pass dt).launchFront (unsent.map Fin.val) = ((s.pass dt).emits (gs.map s.fireOf)).fired d.line d.target :=
    (launchFront_launches (s := s.pass dt) _ hdescs h hfar).trans (launch_fires (s := s.pass dt) hsilent htrig hlegacy hgs hdue hsent)
  have hretired : s.fire.descs.filter (fun e => e.line != d.line) = rest.filter (fun e => e.line != d.line) := by
    rw [hdescs]
    exact List.filter_cons_of_neg (by simp)
  have hu : ((s.pass dt).emits (gs.map s.fireOf)).fired d.line d.target = { s.pass dt with
      fire := { s.fire with
        descs := rest.filter (fun e => e.line != d.line), lastFired := some d.line, lastLink := d.target
        lastTclk := (((s.pass dt).clk.tclk : Int) + since d.target (s.pass dt).link).toNat }
      out := (gs.map s.fireOf).reverse ++ s.out } := by
    rw [← hretired]
    rfl
  refine scheduledFireLaunch_next ?_ fun e he => launchEarly_idle _ _ (hrest e (List.mem_filter.1 he).1)
  rw [launchLater_nil (s := s.pass dt) _ hlater, hfired, hu]

/-- With nothing due nothing changes. -/
theorem scheduledFireLaunch_waits (dt : Nat) (unsent : List (Fin 160)) (s : State) (hlater : ∀ g ∈ s.fire.later, (s.pass dt).groupDue g = false)
    (hidle : ∀ d ∈ s.fire.descs, d.held = false ∧ d.Idle) : exec (.scheduledFireLaunch dt unsent) s = .next (s.pass dt) := by
  refine scheduledFireLaunch_next ?_ fun d hd => launchEarly_idle _ _ (hidle d hd).2
  rw [launchLater_none (s := s.pass dt) _ hlater, launchFront_idle (s := s.pass dt) _ hidle]

/-- Groups of positive phase leave at their own time (R274). -/
theorem scheduledFireLaunch_later (dt : Nat) (unsent : List (Fin 160)) (s : State)
    (hlater : ∀ g ∈ s.fire.later, (s.pass dt).groupDue g = true ∧ s.Whole (unsent.map Fin.val) g) (hlock : s.fire.unlock = false)
    (halive : s.activeDead = false) (hidle : ∀ d ∈ s.fire.descs, d.held = false ∧ d.Idle) :
    exec (.scheduledFireLaunch dt unsent) s = .next { s.pass dt with
      fire := { s.fire with later := [] }
      out := (s.fire.later.map s.fireOf).reverse ++ s.out } := by
  refine scheduledFireLaunch_next ?_ fun d hd => launchEarly_idle _ _ (hidle d hd).2
  rw [launchLater_all (s := s.pass dt) hlater hlock halive, launchFront_idle]
  · rfl
  · exact hidle

/-! ### Overspeed (R193) -/

/-- A line too close behind the last one is postponed to the least distance when no line after it falls due before that. -/
theorem launchFront_postpones {s : State} {d : Desc} {rest : List Desc} (un : List Nat) (hdescs : s.fire.descs = d :: rest) (h : s.LaunchDue d)
    (hlast : s.fire.lastFired.isSome = true) (hclose : since d.target s.leastTarget < 0)
    (hrest : ∀ e ∈ rest, e.edge = true ∨ 0 ≤ since e.target s.leastTarget) {u : State} (hu : u = s.fault F.fireOverspeed 0)
    {d' : Desc} (hd' : d' = { d with target := s.leastTarget, t32 := u.t32At s.leastTarget }) (hwait : u.launchPassed d' = false) :
    s.launchFront un = { u with fire := { u.fire with descs := d' :: rest } } := by
  obtain ⟨hheld, hgoes⟩ := h.goes
  subst hu
  unfold State.launchFront
  rw [hdescs]
  dsimp only
  rw [if_neg hheld, if_neg hgoes, if_pos ⟨hlast, hclose⟩]
  refine (if_neg ?notDropped).trans ?postponed
  case notDropped =>
    cases rest with
    | nil => exact Bool.false_ne_true
    | cons e rest =>
      have hfar : e.edge = true ∨ 0 ≤ since e.target ((s.fire.lastLink + minFireGap) % 2 ^ 32) := hrest e List.mem_cons_self
      obtain he | he := hfar
      · simp [he]
      · rw [Bool.and_eq_true, decide_eq_true_eq]
        exact fun ⟨_, hnear⟩ => Int.not_lt.2 he hnear
  case postponed =>
    subst hd'
    exact if_neg (Bool.eq_false_iff.1 hwait)

/-- A line too close behind the last one is dropped when the line after it falls due before the least distance. -/
theorem launchFront_drops {s : State} {d e : Desc} {rest : List Desc} (un : List Nat) (hdescs : s.fire.descs = d :: e :: rest) (h : s.LaunchDue d)
    (hlast : s.fire.lastFired.isSome = true) (hclose : since d.target s.leastTarget < 0) (hedge : e.edge = false) (hnext : since e.target s.leastTarget < 0)
    {u : State} (hu : u = s.fault F.fireOverspeed 0) (htrig : ∀ k, k < 8 → u.trigAt k d.line = false) :
    s.launchFront un = (u.skipLine d.line).fault F.lineSkip d.line := by
  obtain ⟨hheld, hgoes⟩ := h.goes
  have hdropped : (!e.edge && decide (since e.target ((s.fire.lastLink + minFireGap) % 2 ^ 32) < 0)) = true := by
    rw [hedge, Bool.not_false, Bool.true_and]
    exact decide_eq_true hnext
  subst hu
  unfold State.launchFront
  rw [hdescs]
  dsimp only
  rw [if_neg hheld, if_neg hgoes, if_pos ⟨hlast, hclose⟩]
  refine (if_pos hdropped).trans ?_
  rw [trigDue_none _ htrig]

/-- A line that goes out as no-fire on every bar leaves the schedule and is noted (R171). -/
theorem skipLine_eq (s : State) (line : Nat) :
    s.skipLine line = { s with fire := { s.fire with
      descs := s.fire.descs.filter (fun d => d.line != line), noFired := s.fire.noFired ++ [(line, 0xFF)] } } := by
  have hbars : maskOf (List.range 8) = 0xFF := by decide
  have hnoted : s.noFireOn line (List.range 8) = { s with fire := { s.fire with noFired := s.fire.noFired ++ [(line, maskOf (List.range 8))] } } := rfl
  unfold State.skipLine
  rw [hnoted, hbars]
  rfl

/-- A line too close behind the last one is postponed with FIRE_OVERSPEED. -/
theorem scheduledFireLaunch_postpones (dt : Nat) (unsent : List (Fin 160)) (s : State) (d d' : Desc) (rest : List Desc) (hdescs : s.fire.descs = d :: rest)
    (h : (s.pass dt).LaunchDue d) (hlast : s.fire.lastFired.isSome = true) (hclose : since d.target s.leastTarget < 0) (hlater : s.fire.later = [])
    (hrest : ∀ e ∈ rest, e.edge = true ∨ (e.frozen = false ∨ e.fallback = true) ∧ 0 ≤ since e.target s.leastTarget)
    (hd' : d' = { d with target := s.leastTarget, t32 := (s.pass dt).t32At s.leastTarget }) (hwait : (s.pass dt).launchPassed d' = false)
    (hearly : ∀ g ∈ s.groups d' ((s.fireSlots d' (s.silentBars d')).filter (fun e => !d'.sent.contains e.1)), (s.pass dt).groupDue g = false)
    (htakes : Takes s F.fireOverspeed 0 idNone) :
    ∃ t u, exec (.scheduledFireLaunch dt unsent) s = .next t ∧ Recorded (s.pass dt) u F.fireOverspeed 0 idNone 0 ∧
      t = { u with fire := { s.fire with descs := d' :: rest } } := by
  have hrec := pass_fault_recorded s dt _ _ htakes
  have htouch := fault_touched (s.pass dt) F.fireOverspeed 0 htakes.calm
  generalize hu : (s.pass dt).fault F.fireOverspeed 0 = u at hrec htouch
  obtain ⟨-, hclk, -, -, -, hfire, -⟩ := htouch.fields
  have hfront : (s.pass dt).launchFront (unsent.map Fin.val) = { u with fire := { s.fire with descs := d' :: rest } } := by
    rw [launchFront_postpones (s := s.pass dt) (u := u) (d' := d') (unsent.map Fin.val) hdescs h hlast hclose
      (fun e he => (hrest e he).imp_right fun ⟨_, hfar⟩ => hfar) hu.symm ?retarget ?wait, hfire]
    · rfl
    case retarget =>
      rw [hd']
      unfold State.t32At State.link
      rw [hclk]
      rfl
    case wait =>
      rw [← hwait]
      unfold State.launchPassed State.view State.link
      rw [hclk, hfire]
  refine ⟨_, u, scheduledFireLaunch_next (u := { u with fire := { s.fire with descs := d' :: rest } }) ?_ fun e he => ?_, hrec, rfl⟩
  · rw [launchLater_nil (s := s.pass dt) _ hlater, hfront]
  · obtain rfl | he := List.mem_cons.1 he
    · refine launchEarly_none _ ?_
      unfold Touched at htouch
      rw [htouch]
      exact hearly
    · exact launchEarly_idle _ _ ((hrest e he).imp_right fun ⟨hidle, _⟩ => hidle)

/-- A line too close behind the last one, with the next close behind it, is dropped with FIRE_OVERSPEED and LINE_SKIP. -/
theorem scheduledFireLaunch_drops (dt : Nat) (unsent : List (Fin 160)) (s : State) (d e : Desc) (rest : List Desc) (hdescs : s.fire.descs = d :: e :: rest)
    (h : (s.pass dt).LaunchDue d) (hlast : s.fire.lastFired.isSome = true) (hclose : since d.target s.leastTarget < 0) (hlater : s.fire.later = [])
    (hedge : e.edge = false) (hnext : since e.target s.leastTarget < 0) (hrest : ∀ x ∈ e :: rest, x.Idle)
    (htrig : ∀ k, k < 8 → s.trigAt k d.line = false) (htakes : Takes s F.fireOverspeed 0 idNone) (hskip : Takes s F.lineSkip d.line idNone) :
    ∃ t u, exec (.scheduledFireLaunch dt unsent) s = .next t ∧ Recorded (s.pass dt) u F.fireOverspeed 0 idNone 0 ∧
      Recorded { u with fire := { s.fire with descs := (e :: rest).filter (fun x => x.line != d.line), noFired := s.fire.noFired ++ [(d.line, 0xFF)] } }
        t F.lineSkip d.line idNone 0 := by
  have hrec := pass_fault_recorded s dt _ _ htakes
  have htouch := fault_touched (s.pass dt) F.fireOverspeed 0 htakes.calm
  generalize hu : (s.pass dt).fault F.fireOverspeed 0 = u at hrec htouch
  obtain ⟨-, -, -, -, -, hfire, -⟩ := htouch.fields
  have htrig' : ∀ k, k < 8 → u.trigAt k d.line = false := by
    unfold Touched at htouch
    rw [htouch]
    exact htrig
  have htakes' : Takes u F.lineSkip d.line idNone := takes_touched _ _ htouch _ _ _ (takes_frame s (s.pass dt) _ _ _ rfl rfl hskip)
  have hskipped : u.skipLine d.line = { u with fire := { s.fire with
      descs := (e :: rest).filter (fun x => x.line != d.line), noFired := s.fire.noFired ++ [(d.line, 0xFF)] } } := by
    rw [skipLine_eq, hfire, State.pass_fire, hdescs, List.filter_cons_of_neg (by simp)]
  have hfront := launchFront_drops (s := s.pass dt) (unsent.map Fin.val) hdescs h hlast hclose hedge hnext hu.symm htrig'
  rw [hskipped] at hfront
  generalize hv : ({ u with fire := { s.fire with
      descs := (e :: rest).filter (fun x => x.line != d.line), noFired := s.fire.noFired ++ [(d.line, 0xFF)] } } : State) = v at hfront
  have htakesv : Takes v F.lineSkip d.line idNone := takes_frame u v _ _ _ (by rw [← hv]) (by rw [← hv]) htakes'
  obtain ⟨-, -, -, -, -, hfirev, -⟩ := (fault_touched v F.lineSkip d.line htakesv.calm).fields
  refine ⟨_, u, scheduledFireLaunch_next (u := v.fault F.lineSkip d.line) ?_ fun x hx => ?_, hrec, ?_⟩
  · rw [launchLater_nil (s := s.pass dt) _ hlater, hfront]
  · rw [hfirev, ← hv] at hx
    have hx : x ∈ (e :: rest).filter (fun x => x.line != d.line) := hx
    exact launchEarly_idle _ _ (hrest x (List.mem_filter.1 hx).1)
  · rw [hv]
    exact hit_recorded _ _ _ _ _ htakesv

end Sys2Proof.Machine
end

section
/-!
Held lanes (R194, R266) and the legacy port (R287, R289).
-/
namespace Sys2Proof.Machine

/-! ### The release of a held lane (R194) -/

/-- The slots of a line that a lane carries, on the bars that have not gone late (R33). -/
def State.heldSlots (s : State) (lane line : Nat) : List Nat :=
  (List.range 160).filter (fun i => s.laneFor i line == some lane && !s.isLate line (i / 20))

/-- A lane holds no longer. -/
def State.releaseLane (s : State) (lane : Nat) : State := { s with fire := { s.fire with heldL := s.fire.heldL.filter (fun x => x.1 != lane) } }

/-- A lane that holds nothing releases nothing. -/
theorem heldFireRelease_none (dt : Nat) (lane : Fin 36) (unsent : List (Fin 160)) (s : State)
    (h : s.fire.heldL.find? (fun e => e.1 == lane.val) = none) : exec (.heldFireRelease dt lane unsent) s = .next (s.pass dt) := by
  show execHeldFireRelease dt lane unsent s = _
  unfold execHeldFireRelease
  dsimp only
  rw [State.pass_fire, h]

section HeldLane

variable {dt line at_ : Nat} {lane : Fin 36} {s : State} {slots : List Nat}
  (hheld : s.fire.heldL.find? (fun e => e.1 == lane.val) = some (lane.val, line, at_)) (hslots : s.heldSlots lane.val line = slots)
include hheld hslots

/-- Silenced, the bars of a held lane's slots go out as no-fire (R24, R215). -/
theorem heldFireRelease_silenced (unsent : List (Fin 160)) (hsilenced : s.fire.unlock = true ∨ s.activeDead = true) :
    exec (.heldFireRelease dt lane unsent) s = .next (((s.pass dt).releaseLane lane.val).noFireOn line ((slots.map (· / 20)).eraseDups)) := by
  subst hslots
  show execHeldFireRelease dt lane unsent s = _
  unfold execHeldFireRelease
  dsimp only
  rw [State.pass_fire, hheld]
  exact if_pos hsilenced

/-- Not silenced, the slots of a held lane fire whose frames have left; the others print no-fire (R194, R266). -/
theorem heldFireRelease_goes (unsent : List (Fin 160)) (hlock : s.fire.unlock = false) (halive : s.activeDead = false) :
    exec (.heldFireRelease dt lane unsent) s = .next
      (((slots.filter (s.unsentOf (unsent.map Fin.val) line)).foldl (State.frameUnsent line) ((s.pass dt).releaseLane lane.val)).fireEdge line lane.val at_
        (slots.filter (fun i => !s.unsentOf (unsent.map Fin.val) line i))) := by
  subst hslots
  show execHeldFireRelease dt lane unsent s = _
  unfold execHeldFireRelease
  dsimp only
  rw [State.pass_fire, hheld]
  exact if_neg (not_silenced hlock halive)

end HeldLane

/-- A held lane fires at once when its frames have left. -/
theorem heldFireRelease_fires (dt line at_ : Nat) (lane : Fin 36) (unsent : List (Fin 160)) (s : State) (slots : List Nat)
    (hheld : s.fire.heldL.find? (fun e => e.1 == lane.val) = some (lane.val, line, at_)) (hslots : slots = s.heldSlots lane.val line) (hne : slots ≠ [])
    (hsent : ∀ i ∈ slots, s.unsentOf (unsent.map Fin.val) line i = false) (hlock : s.fire.unlock = false) (halive : s.activeDead = false) :
    exec (.heldFireRelease dt lane unsent) s = .next { s.pass dt with
      fire := { s.fire with heldL := s.fire.heldL.filter (fun x => x.1 != lane.val) }
      out := .fire lane.val line at_ (fireBlock (s.fireMask slots true) line at_) :: s.out } := by
  have hlate : slots.filter (s.unsentOf (unsent.map Fin.val) line) = [] := List.filter_eq_nil_iff.2 fun i hi => by simp [hsent i hi]
  have hgo : slots.filter (fun i => !s.unsentOf (unsent.map Fin.val) line i) = slots := List.filter_eq_self.2 fun i hi => by simp [hsent i hi]
  rw [heldFireRelease_goes hheld hslots.symm unsent hlock halive, hlate, hgo]
  exact congrArg Host.Outcome.next (if_neg (by simpa using hne))

/-- A held lane that is silenced goes out as no-fire. -/
theorem heldFireRelease_noFire (dt line at_ : Nat) (lane : Fin 36) (unsent : List (Fin 160)) (s : State) (slots : List Nat)
    (hheld : s.fire.heldL.find? (fun e => e.1 == lane.val) = some (lane.val, line, at_)) (hslots : slots = s.heldSlots lane.val line) (hne : slots ≠ [])
    (hsilenced : s.fire.unlock = true ∨ s.activeDead = true) :
    exec (.heldFireRelease dt lane unsent) s = .next { s.pass dt with
      fire := { s.fire with heldL := s.fire.heldL.filter (fun x => x.1 != lane.val)
                            noFired := s.fire.noFired ++ [(line, maskOf ((slots.map (· / 20)).eraseDups))] } } := by
  obtain ⟨i, hi⟩ := List.exists_mem_of_ne_nil slots hne
  have hbars : (slots.map (· / 20)).eraseDups ≠ [] := List.ne_nil_of_mem (List.mem_eraseDups.2 (List.mem_map_of_mem hi))
  rw [heldFireRelease_silenced hheld hslots.symm unsent hsilenced]
  exact congrArg Host.Outcome.next (if_neg (by simpa using hbars))

/-- A held slot whose frame has not left is recorded as FRAME_UNSENT and counted on its lane (R266). -/
theorem heldFireRelease_unsent (dt line at_ : Nat) (lane : Fin 36) (slot : Fin 160) (s : State)
    (hheld : s.fire.heldL.find? (fun e => e.1 == lane.val) = some (lane.val, line, at_)) (hslots : s.heldSlots lane.val line = [slot.val])
    (hlock : s.fire.unlock = false) (halive : s.activeDead = false) (h : Takes s F.frameUnsent slot.val idNone) :
    ∃ t, exec (.heldFireRelease dt lane [slot]) s = .next t ∧
      Recorded { s.pass dt with
        fire := { s.fire with heldL := s.fire.heldL.filter (fun x => x.1 != lane.val) }
        lanes := put s.lanes lane.val { s.lane lane.val with unsent := sat 32 ((s.lane lane.val).unsent + 1) } } t F.frameUnsent slot.val idNone 0 := by
  have hmem : slot.val ∈ s.heldSlots lane.val line := by rw [hslots]; exact List.mem_singleton_self _
  have hcarried : s.laneFor slot.val line = some lane.val := by
    obtain ⟨-, hcond⟩ := List.mem_filter.1 hmem
    rw [Bool.and_eq_true, beq_iff_eq] at hcond
    exact hcond.1
  have hunsent : s.unsentOf ([slot].map Fin.val) line slot.val = true := by simp [State.unsentOf]
  have hcarried' : ((s.pass dt).releaseLane lane.val).laneFor slot.val line = some lane.val := hcarried
  have hcounted : State.frameUnsent line ((s.pass dt).releaseLane lane.val) slot.val = State.fault { s.pass dt with
      fire := { s.fire with heldL := s.fire.heldL.filter (fun x => x.1 != lane.val) }
      lanes := put s.lanes lane.val { s.lane lane.val with unsent := sat 32 ((s.lane lane.val).unsent + 1) } } F.frameUnsent slot.val := by
    unfold State.frameUnsent
    rw [hcarried']
    rfl
  refine ⟨_, heldFireRelease_goes hheld hslots [slot] hlock halive, ?_⟩
  rw [List.filter_cons_of_pos hunsent, List.filter_nil, List.filter_cons_of_neg (by simpa using hunsent), List.filter_nil,
    List.foldl_cons, List.foldl_nil, hcounted]
  exact hit_recorded _ _ _ _ _ (takes_frame s _ _ _ _ rfl rfl h)

/-! ### LG_LATCH (R287) -/

/-- LG_LATCH rises when the line is shifted out, the line before has had its STROBE, and 40 ns have passed since that ended. -/
theorem legacyLatch_rises (dt line : Nat) (s : State) (e : Nat × Nat) (hshift : s.fire.shift.find? (fun e => e.1 == line) = some e)
    (hover : max e.2 s.fire.latchEnd + (2560 * s.parReset P.linkLegacySckDiv + 10) ≤ (s.pass dt).clk.tclk)
    (hahead : ∀ l t, s.fire.strobeDue = some (l, t) → l = line) (hstrobe : s.fire.strobe = true → s.fire.strobeEnd + tclk40ns ≤ (s.pass dt).clk.tclk) :
    exec (.legacyLatch dt line) s = .next { s.pass dt with
      fire := { s.fire with latched := some line, latchEnd := (s.pass dt).clk.tclk + tclk32ns
                            shift := s.fire.shift.filter (fun e => decide (0 < since e.1 line)) }
      out := .legacy line 0x1000 [] :: s.out } := by
  have hshifted : (s.pass dt).shiftOver line = true := by
    unfold State.shiftOver
    rw [State.pass_fire, hshift]
    exact decide_eq_true hover
  have hnone : (s.pass dt).strobeAhead line = false := by
    unfold State.strobeAhead
    rw [State.pass_fire]
    split
    · next l t hdue => simp [hahead l t hdue]
    · rfl
  show execLegacyLatch dt line s = _
  unfold execLegacyLatch
  dsimp only
  refine if_neg ?_
  rintro (hwait | hwait | ⟨hon, hearly⟩)
  · simp [hshifted] at hwait
  · simp [hnone] at hwait
  · exact Nat.not_le.2 hearly (hstrobe hon)

/-- LG_LATCH stays low while a line has none of its frame to shift, is still shifting, comes after another's STROBE, or comes within 40 ns of the last. -/
theorem legacyLatch_waits (dt line : Nat) (s : State) (h : (∀ e ∈ s.fire.shift, e.1 ≠ line) ∨
      (∃ e, s.fire.shift.find? (fun e => e.1 == line) = some e ∧
        (s.pass dt).clk.tclk < max e.2 s.fire.latchEnd + (2560 * s.parReset P.linkLegacySckDiv + 10)) ∨
      (∃ l t, s.fire.strobeDue = some (l, t) ∧ l ≠ line) ∨
      (s.fire.strobe = true ∧ (s.pass dt).clk.tclk < s.fire.strobeEnd + tclk40ns)) :
    exec (.legacyLatch dt line) s = .next (s.pass dt) := by
  show execLegacyLatch dt line s = _
  unfold execLegacyLatch
  dsimp only
  refine if_pos ?_
  obtain hnone | ⟨e, hshift, hearly⟩ | ⟨l, t, hdue, hother⟩ | hstrobe := h
  · refine .inl ?_
    have hfind : s.fire.shift.find? (fun e => e.1 == line) = none := List.find?_eq_none.2 fun e he => by simpa using hnone e he
    unfold State.shiftOver
    rw [State.pass_fire, hfind]
    rfl
  · refine .inl ?_
    have hshifting : decide (max e.2 s.fire.latchEnd + (2560 * s.parReset P.linkLegacySckDiv + 10) ≤ (s.pass dt).clk.tclk) = false :=
      decide_eq_false (Nat.not_le.2 hearly)
    unfold State.shiftOver
    rw [State.pass_fire, hshift]
    exact congrArg (! ·) hshifting
  · refine .inr (.inl ?_)
    unfold State.strobeAhead
    rw [State.pass_fire, hdue]
    simpa using hother
  · exact .inr (.inr hstrobe)

/-! ### STROBE (R287, R289) -/

/-- The line's strobe falls due no longer. -/
def State.strobeTaken (s : State) : State := { s with fire := { s.fire with strobeDue := none } }

/-- Without the clock's lock the strobe that is due stays low (R24). -/
theorem legacyStrobe_unlocked (dt line at_ : Nat) (s : State) (hdue : s.fire.strobeDue = some (line, at_)) (hnow : at_ ≤ (s.pass dt).clk.tclk)
    (hlock : s.fire.unlock = true) : exec (.legacyStrobe dt line) s = .next (s.pass dt).strobeTaken := by
  show execLegacyStrobe dt line s = _
  unfold execLegacyStrobe
  dsimp only
  rw [State.pass_fire, hdue]
  exact (if_pos ⟨rfl, hnow⟩).trans (if_pos hlock)

/-- STROBE rises for a line latched at least 200 ns before, and lasts `strobe_tclk` (R287). -/
theorem legacyStrobe_rises (dt line at_ : Nat) (s : State) (hdue : s.fire.strobeDue = some (line, at_)) (hnow : at_ ≤ (s.pass dt).clk.tclk)
    (hlock : s.fire.unlock = false) (hlatched : s.fire.latched = some line) (hend : s.fire.latchEnd + tclk200ns ≤ at_) :
    exec (.legacyStrobe dt line) s = .next { s.pass dt with
      fire := { s.fire with strobeDue := none, strobe := true, strobeEnd := at_ + s.parLine P.linkLegacyStrobeTclk }
      out := .legacy line 0x2000 [] :: s.out } := by
  show execLegacyStrobe dt line s = _
  unfold execLegacyStrobe
  dsimp only
  rw [State.pass_fire, hdue]
  refine (if_pos ⟨rfl, hnow⟩).trans ((if_neg (Bool.eq_false_iff.1 hlock)).trans (if_neg ?_))
  rintro (hother | hearly)
  · exact hother hlatched
  · exact Nat.not_le.2 hearly hend

/-- A strobe whose latch is missing or less than 200 ns old is LEGACY_LATE and stays low (R289). -/
theorem legacyStrobe_late (dt line at_ : Nat) (s : State) (hdue : s.fire.strobeDue = some (line, at_)) (hnow : at_ ≤ (s.pass dt).clk.tclk)
    (hlock : s.fire.unlock = false) (hlate : s.fire.latched ≠ some line ∨ at_ < s.fire.latchEnd + tclk200ns) (h : Takes s F.legacyLate line idNone) :
    ∃ t, exec (.legacyStrobe dt line) s = .next t ∧ Recorded (s.pass dt).strobeTaken t F.legacyLate line idNone 0 := by
  have hexec : exec (.legacyStrobe dt line) s = .next ((s.pass dt).strobeTaken.fault F.legacyLate line) := by
    show execLegacyStrobe dt line s = _
    unfold execLegacyStrobe
    dsimp only
    rw [State.pass_fire, hdue]
    exact (if_pos ⟨rfl, hnow⟩).trans ((if_neg (Bool.eq_false_iff.1 hlock)).trans (if_pos hlate))
  exact ⟨_, hexec, hit_recorded _ _ _ _ _ (takes_frame s _ _ _ _ rfl rfl h)⟩

/-- A line whose strobe is not due leaves it low. -/
theorem legacyStrobe_waits (dt line : Nat) (s : State) (h : ∀ at_, s.fire.strobeDue = some (line, at_) → (s.pass dt).clk.tclk < at_) :
    exec (.legacyStrobe dt line) s = .next (s.pass dt) := by
  show execLegacyStrobe dt line s = _
  unfold execLegacyStrobe
  dsimp only
  split
  · next l t hdue =>
    refine if_neg ?_
    rintro ⟨rfl, hnow⟩
    exact Nat.not_le.2 (h t hdue) hnow
  · rfl

/-- Settles O18: the rows of a scheduled line by what each part of a launch does, the held lanes and the legacy port by their conditions. -/
theorem linesLaunchOnTheirTargets : Obligations.LinesLaunchOnTheirTargets := by
  unfold Obligations.LinesLaunchOnTheirTargets
  refine ⟨targetFreeze_freezes, targetFreeze_waits, ?fires, scheduledFireLaunch_waits, ?later, ?postponed, ?dropped, heldFireRelease_none,
    heldFireRelease_fires, heldFireRelease_noFire, heldFireRelease_unsent, legacyLatch_rises, legacyLatch_waits, legacyStrobe_rises, legacyStrobe_unlocked,
    legacyStrobe_late, legacyStrobe_waits⟩
  case fires =>
    intro dt unsent s d rest gs hdescs edge frozen held fallback passed running hfar hlater hsilent htrig hlegacy hrest hgs hdue hsent
    have hline : gs.map (fun g => Output.fire g.lane d.line g.target (fireBlock (s.fireMask g.slots false) d.line g.target)) = gs.map s.fireOf :=
      List.map_congr_left fun g hg => by
        obtain ⟨hg, -⟩ := groups_mem (hgs ▸ hg)
        rw [State.fireOf, hg]
    rw [hline]
    exact scheduledFireLaunch_fires dt unsent s d rest gs hdescs ⟨edge, frozen, held, fallback, passed, running⟩ hfar hlater hsilent htrig hlegacy hrest hgs
      hdue hsent
  case later =>
    intro dt unsent s hlater hlock halive hidle
    exact scheduledFireLaunch_later dt unsent s hlater hlock halive hidle
  case postponed =>
    intro dt need unsent s d d' rest hdescs edge frozen held fallback passed running hlast hneed hclose hlater hrest hd' hwait hearly htakes
    rw [hneed, ← State.leastTarget] at hclose hrest hd'
    exact scheduledFireLaunch_postpones dt unsent s d d' rest hdescs ⟨edge, frozen, held, fallback, passed, running⟩ hlast hclose hlater hrest hd' hwait
      hearly htakes
  case dropped =>
    intro dt need unsent s d e rest hdescs edge frozen held fallback passed running hlast hneed hclose hlater hedge hnext hrest htrig htakes hskip
    rw [hneed, ← State.leastTarget] at hclose hnext
    exact scheduledFireLaunch_drops dt unsent s d e rest hdescs ⟨edge, frozen, held, fallback, passed, running⟩ hlast hclose hlater hedge hnext hrest htrig
      htakes hskip

end Sys2Proof.Machine
end

section
/-!
The FIREBOX pair keeps watch (R207, R213 to R217, R221 to R223): what a hit and the end of a condition leave of a source, the rows of the table of R215, the
partner link, and resynchronisation.
-/
namespace Sys2Proof.Machine

/-! ### Hits and conditions of single sources -/

/-- While the collector runs a condition is noted and its source registered once (R453). -/
theorem hit_eq_register {s : State} (hon : s.faults.on = true) (n a m c : Nat) : s.hit n a m c = (s.addCond n a).register n a m c :=
  if_neg (by rw [hon]; decide)

/-- The ceiling's outputs leave every source. -/
theorem src_refresh (s : State) (n : Nat) : s.refresh.src n = s.src n := by
  obtain ⟨_, _, _, _, _, _, _, _, h⟩ := refresh_frame s
  rw [h]
  rfl

/-- The reactions 0 to 5 and 8 leave the FIREBOX unit that a source holds. -/
theorem react_unit (s : State) (n a m c : Nat) : ((s.react n a m c).src n).unit = (s.src n).unit := by
  obtain ⟨-, -, -, -, hcounted, -, -, ⟨l, u, hlogged⟩, -, -⟩ := react_common s n a m c
  unfold State.react
  dsimp only at hcounted hlogged ⊢
  generalize (if isFbSource n = true then _ else _ : State) = s2 at hcounted hlogged ⊢
  generalize (if 2 ≤ s.reaction n then _ else _ : State) = s4 at hlogged ⊢
  have hset : ∀ x : Source, x.unit = (s4.src n).unit → ((s4.setSrc n x).src n).unit = (s.src n).unit := fun x hx => by
    rw [src_setSrc_same, hx, hlogged]
  split
  · rw [hcounted, if_pos rfl]
  split
  · exact hset _ rfl
  split
  · exact hset _ rfl
  split
  · split
    · exact hset { s4.src n with hold := true } rfl
    · exact hset _ rfl
  split
  · rw [src_refresh]
    exact hset _ rfl
  · rw [hlogged]

/-- A hit that the collector takes leaves the FIREBOX unit that its source holds. -/
theorem hit_unit {s : State} {n a m : Nat} (h : Takes s n a m) (c : Nat) : ((s.hit n a m c).src n).unit = (s.src n).unit := by
  obtain ⟨hon, hshadow, hreset, hswitch⟩ := h
  obtain ⟨src, hframe, -, hsrc⟩ := addCond_frame s n a
  have hon' : (s.addCond n a).faults.on = true := by rw [hframe]; exact hon
  have hshadow' : (s.addCond n a).shadowed n a m = false := by rw [hframe]; exact hshadow
  have hreaction : (s.addCond n a).reaction n = s.reaction n := by rw [hframe]; rfl
  have hreact : (s.addCond n a).register n a m c = (s.addCond n a).react n a m c := by
    unfold State.register
    rw [hon', hshadow', hreaction]
    dsimp only
    rw [if_neg hreset, if_neg hswitch]
    rfl
  rw [hit_eq_register hon, hreact, react_unit, hsrc]

/-- The end of a condition leaves the other sources. -/
theorem src_lower_other (s : State) (a : Nat) {n m : Nat} (h : m ≠ n) : (s.lower n a).src m = s.src m := src_setSrc_other s n m _ h

/-- Where a source has no condition its end leaves every source. -/
theorem src_lower_idle {s : State} {n : Nat} (h : (s.src n).conds = []) (a m : Nat) : (s.lower n a).src m = s.src m := by
  by_cases hm : m = n
  · subst hm
    unfold State.lower
    rw [src_setSrc_same, h, List.filter_nil, ← h]
  · exact src_lower_other s a hm

/-- A source without conditions takes a hit when its condition begins (R453). -/
theorem raise_recorded {s : State} {n : Nat} (a : Nat) (h : Takes s n a idNone) (hnew : (s.src n).conds = []) :
    Recorded s (s.raise n a) n a idNone 0 := by
  rw [raise_new (by rw [hnew]; rfl)]
  exact hit_recorded s n a idNone 0 h

/-! ### The partner link (R207, R214, R221) -/

/-- The pair after the partner link has failed under a COPY or LOCKSTEP standby: the standby is STALE until its line of retry comes (R221, R222). -/
def State.linkLost (s : State) : State :=
  { s with fb := { s.fb.setSt s.fb.standby 4 with
    linkBad := true, asked := false, sent := none, retryAt := fwd s.fb.lastIssue (s.par P.fireFbResyncRetryLines), clean := 0 } }

/-- The link's failure makes a COPY or LOCKSTEP standby STALE, and FB_LINK begins. -/
theorem linkFails_eq {s : State} (h : s.fb.st s.fb.standby = 1 ∨ s.fb.st s.fb.standby = 2) : s.linkFails = s.linkLost.raise F.fbLink 0 := by
  have hsyncing : ¬ s.fb.st s.fb.standby = 3 := by omega
  unfold State.linkFails State.linkLost
  dsimp only
  rw [if_neg hsyncing, if_pos h]
  unfold FireBox.setSt
  split <;> rfl

/-- The link's failure is recorded when it begins. -/
theorem linkFails_recorded {s : State} (h : s.fb.st s.fb.standby = 1 ∨ s.fb.st s.fb.standby = 2) (htakes : Takes s F.fbLink 0 idNone)
    (hnew : (s.src F.fbLink).conds = []) : Recorded s.linkLost s.linkFails F.fbLink 0 idNone 0 := by
  rw [linkFails_eq h]
  exact raise_recorded 0 (takes_frame s _ _ _ _ rfl rfl htakes) hnew

/-- A unit that does not hear its partner breaks the link (R214). -/
theorem not_linked {f : FireBox} (h : f.linkA = false ∨ f.linkB = false) : ¬ (f.linkA && f.linkB) = true := by
  rw [Bool.and_eq_true]
  rintro ⟨hA, hB⟩
  obtain hA' | hB' := h
  · exact Bool.false_ne_true (hA'.symm.trans hA)
  · exact Bool.false_ne_true (hB'.symm.trans hB)

/-- With no record on its way none arrives. -/
theorem stateRecordReceive_none (dt : Nat) (good : Bool) (s : State) (h : s.fb.sent = none) :
    exec (.stateRecordReceive dt good) s = .next (s.pass dt) := by
  show execStateRecordReceive dt good s = _
  unfold execStateRecordReceive
  dsimp only
  rw [State.pass_fb, h]

/-- A good record is committed, and the standby has heard its partner (R207, R214). -/
theorem stateRecordReceive_good (dt : Nat) (s : State) (r : FbRec) (h : s.fb.sent = some r) (hactive : s.fb.active ≤ 1) :
    exec (.stateRecordReceive dt true) s = .next { s.pass dt with
      fb := { s.fb with
        prev := s.fb.saved, saved := some r, sent := none, asked := false, load := false
        linkA := s.fb.linkA || s.fb.standby == 0, linkB := s.fb.linkB || s.fb.standby == 1
        linkTA := if s.fb.standby = 0 then (s.pass dt).clk.tclk else s.fb.linkTA
        linkTB := if s.fb.standby = 1 then (s.pass dt).clk.tclk else s.fb.linkTB } } := by
  have hexec : exec (.stateRecordReceive dt true) s = .next ({ s.pass dt with
      fb := { s.fb with prev := s.fb.saved, saved := some r, sent := none, asked := false, load := false } }.linkFrame (s.fb.standby == 1)) := by
    show execStateRecordReceive dt true s = _
    unfold execStateRecordReceive
    dsimp only
    rw [State.pass_fb, h]
    rfl
  have hstandby : s.fb.standby = 0 ∨ s.fb.standby = 1 := by
    unfold FireBox.standby
    omega
  rw [hexec]
  obtain h0 | h1 := hstandby
  · simp [State.linkFrame, h0]
  · simp [State.linkFrame, h1]

/-- The first bad copy of a record is asked for once more (R207). -/
theorem stateRecordReceive_asks (dt : Nat) (s : State) (r : FbRec) (h : s.fb.sent = some r) (hasked : s.fb.asked = false) :
    exec (.stateRecordReceive dt false) s = .next { s.pass dt with fb := { s.fb with asked := true } } := by
  show execStateRecordReceive dt false s = _
  unfold execStateRecordReceive
  dsimp only
  rw [State.pass_fb, h]
  dsimp only
  rw [hasked]
  rfl

/-- The second bad copy fails the link (R207, R221). -/
theorem stateRecordReceive_fails (dt : Nat) (s : State) (r : FbRec) (h : s.fb.sent = some r) (hasked : s.fb.asked = true) :
    exec (.stateRecordReceive dt false) s = .next (s.pass dt).linkFails := by
  show execStateRecordReceive dt false s = _
  unfold execStateRecordReceive
  dsimp only
  rw [State.pass_fb, h]
  dsimp only
  rw [hasked]
  rfl

/-- The last good frame that a unit (false A, true B) received (R214). -/
def FireBox.linkHeard (f : FireBox) (unit : Bool) : Nat := if unit then f.linkTB else f.linkTA

/-- A unit without a good frame for 4,096 TCLK clears its partner-link flag (R214). -/
theorem privateLinkTimeout_clears (dt : Nat) (unit : Bool) (s : State) (h : s.fb.linkHeard unit + 4096 ≤ (s.pass dt).clk.tclk) :
    exec (.privateLinkTimeout dt unit) s =
      .next { s.pass dt with fb := if unit then { s.fb with linkB := false } else { s.fb with linkA := false } } :=
  if_neg (Nat.not_lt.2 h)

/-- A good frame within 4,096 TCLK keeps the flag (R214). -/
theorem privateLinkTimeout_keeps (dt : Nat) (unit : Bool) (s : State) (h : (s.pass dt).clk.tclk < s.fb.linkHeard unit + 4096) :
    exec (.privateLinkTimeout dt unit) s = .next (s.pass dt) :=
  if_pos h

/-! ### Resynchronisation (R222, R223) -/

/-- A standby that is not STALE, or whose line of retry has not come, does not retry. -/
theorem resyncRetry_waits (dt : Nat) (s : State) (h : s.fb.st s.fb.standby ≠ 4 ∨ since s.fb.lastIssue s.fb.retryAt < 0) :
    exec (.resyncRetry dt) s = .next (s.pass dt) :=
  if_pos h

/-- At its line a STALE standby is SYNCING when both units hear each other. -/
theorem resyncRetry_starts (dt : Nat) (s : State) (hstale : s.fb.st s.fb.standby = 4) (hline : 0 ≤ since s.fb.lastIssue s.fb.retryAt)
    (hA : s.fb.linkA = true) (hB : s.fb.linkB = true) : exec (.resyncRetry dt) s = .next { s.pass dt with
      fb := { s.fb.setSt s.fb.standby 3 with syncLeft := s.par P.fireFbResyncLines, load := true } } := by
  show execResyncRetry dt s = _
  unfold execResyncRetry
  dsimp only
  rw [State.pass_fb, if_neg (by omega), if_pos (by rw [hA, hB]; rfl)]
  rfl

/-- Without the link the retry fails and the next is as many lines away. -/
theorem resyncRetry_fails (dt : Nat) (s : State) (hstale : s.fb.st s.fb.standby = 4) (hline : 0 ≤ since s.fb.lastIssue s.fb.retryAt)
    (hlink : s.fb.linkA = false ∨ s.fb.linkB = false) (htakes : Takes s F.fbResyncFail 0 idNone) : ∃ t, exec (.resyncRetry dt) s = .next t ∧
      Recorded { s.pass dt with
        fb := { s.fb.setSt s.fb.standby 4 with retryAt := fwd s.fb.lastIssue (s.par P.fireFbResyncRetryLines), clean := 0 } } t F.fbResyncFail 0 idNone 0 := by
  have hexec : exec (.resyncRetry dt) s = .next (s.pass dt).resyncFails := by
    show execResyncRetry dt s = _
    unfold execResyncRetry
    dsimp only
    rw [State.pass_fb, if_neg (by omega), if_neg (not_linked hlink)]
  exact ⟨_, hexec, hit_recorded _ _ _ _ _ (takes_frame s _ _ _ _ rfl rfl htakes)⟩

/-- A SYNCING standby whose lines have matched is in COPY. -/
theorem resyncComplete_passes (dt : Nat) (s : State) (hsyncing : s.fb.st s.fb.standby = 3) (hleft : s.fb.syncLeft = 0) :
    exec (.resyncComplete dt) s = .next { s.pass dt with
      fb := { s.fb.setSt s.fb.standby 1 with clean := 0, saved := s.fb.lastCheck s.fb.active } } :=
  if_pos ⟨hsyncing, hleft⟩

/-- Any other standby, or one with lines left, stays as it is. -/
theorem resyncComplete_waits (dt : Nat) (s : State) (h : s.fb.st s.fb.standby ≠ 3 ∨ s.fb.syncLeft ≠ 0) :
    exec (.resyncComplete dt) s = .next (s.pass dt) :=
  if_neg fun ⟨hsyncing, hleft⟩ => h.elim (fun h => h hsyncing) (fun h => h hleft)

end Sys2Proof.Machine
end

section
/-!
Heartbeats (R213) and the table of R215, row by row.
-/
namespace Sys2Proof.Machine

/-- The pair after a heartbeat request has left counts `a` and `b` (R213). -/
def State.hbCounted (s : State) (a b : Nat) : State := { s with fb := { s.fb with missA := a, missB := b, hbAt := s.clk.tclk } }

/-- The row of the table that is decided is noted (R215). -/
def State.rowNoted (s : State) (lostActive lostStandby : Bool) : State := { s with fb := { s.fb with row := s.hbRow lostActive lostStandby } }

/-- Before 256 TCLK have passed there is no request. -/
theorem heartbeatRequest_early (dt : Nat) (aTog bTog : Bool) (s : State) (h : (s.pass dt).clk.tclk < s.fb.hbAt + 256) :
    exec (.heartbeatRequest dt aTog bTog) s = .next (s.pass dt) :=
  if_pos h

/-- A request counts for each unit and decides the row of the selected unit and of the other. -/
theorem heartbeatRequest_judges {dt a b act sby : Nat} {aTog bTog : Bool} {s : State}
    (hdue : s.fb.hbAt + 256 ≤ (s.pass dt).clk.tclk) (ha : a = missNext (s.par P.fireFbHbMiss) s.fb.missA aTog)
    (hb : b = missNext (s.par P.fireFbHbMiss) s.fb.missB bTog) (hact : act = if s.fb.active = 0 then a else b) (hsby : sby = if s.fb.active = 0 then b else a) :
    exec (.heartbeatRequest dt aTog bTog) s = .next (((s.pass dt).hbCounted a b).judge (act == lostMark) (sby == lostMark)) := by
  have hexec : exec (.heartbeatRequest dt aTog bTog) s =
      if s.fb.active = 0 then .next (((s.pass dt).hbCounted a b).judge (a == lostMark) (b == lostMark))
      else .next (((s.pass dt).hbCounted a b).judge (b == lostMark) (a == lostMark)) := by
    subst ha hb
    exact if_neg (Nat.not_lt.2 hdue)
  rw [hexec, hact, hsby]
  split <;> rfl

/-- The conditions of FB_BOTH_HB and FB_NO_STANDBY end where the row is not theirs. -/
def State.rowEntered (s : State) (lostActive lostStandby : Bool) : State :=
  let t := s.rowNoted lostActive lostStandby
  let t := if lostActive && lostStandby then t else t.lower F.fbBothHb 0
  if lostActive && !lostStandby then t else t.lower F.fbNoStandby 0

section RowEntered

variable (s : State) (lostActive lostStandby : Bool)

/-- A row's beginning touches the sources alone. -/
theorem rowEntered_touched : Touched (s.rowNoted lostActive lostStandby) (s.rowEntered lostActive lostStandby) :=
  have both := touched_if (.refl _) (lower_touched (s.rowNoted lostActive lostStandby) F.fbBothHb 0)
  touched_if both (both.trans (lower_touched _ F.fbNoStandby 0))

/-- So it does whatever becomes of the pair. -/
theorem rowEntered_touched_with (f : FireBox) :
    Touched { s.rowNoted lostActive lostStandby with fb := f } { s.rowEntered lostActive lostStandby with fb := f } := by
  have htouch := rowEntered_touched s lostActive lostStandby
  generalize s.rowEntered lostActive lostStandby = t at htouch ⊢
  unfold Touched at *
  rw [htouch]

/-- A row's beginning leaves the pair. -/
theorem rowEntered_fb : (s.rowEntered lostActive lostStandby).fb = (s.rowNoted lostActive lostStandby).fb := by
  unfold State.rowEntered
  dsimp only
  split <;> split <;> rfl

/-- A row's beginning leaves a source unless its condition ends. -/
theorem src_rowEntered {n : Nat} (hboth : (lostActive && lostStandby) = true ∨ n ≠ F.fbBothHb)
    (hno : (lostActive && !lostStandby) = true ∨ n ≠ F.fbNoStandby) : (s.rowEntered lostActive lostStandby).src n = s.src n := by
  unfold State.rowEntered
  dsimp only
  generalize ht : (if (lostActive && lostStandby) = true then _ else _ : State) = t
  have hsrc : t.src n = s.src n := by
    rw [← ht]
    split
    · rfl
    · next h => exact src_lower_other _ 0 (hboth.resolve_left h)
  split
  · exact hsrc
  · next h => exact (src_lower_other _ 0 (hno.resolve_left h)).trans hsrc

/-- The link's failure counts the lines of retry from the line issued before the row began. -/
theorem rowEntered_linkLost : (s.rowEntered lostActive lostStandby).linkLost = { s.rowEntered lostActive lostStandby with
    fb := { (s.rowEntered lostActive lostStandby).fb.setSt s.fb.standby 4 with
      linkBad := true, asked := false, sent := none, retryAt := fwd s.fb.lastIssue (s.par P.fireFbResyncRetryLines), clean := 0 } } := by
  obtain ⟨hparams, -⟩ := (rowEntered_touched s lostActive lostStandby).fields
  have hfb := rowEntered_fb s lostActive lostStandby
  have hstandby : (s.rowEntered lostActive lostStandby).fb.standby = s.fb.standby := by rw [hfb]; rfl
  have hissue : (s.rowEntered lostActive lostStandby).fb.lastIssue = s.fb.lastIssue := by rw [hfb]; rfl
  have hpar : (s.rowEntered lostActive lostStandby).par = s.par := by unfold State.par; rw [hparams]; rfl
  rw [State.linkLost, hstandby, hissue, hpar]

/-- The collector takes what it took before. -/
theorem rowEntered_takes {n : Nat} (h : Takes s n 0 idNone) : Takes (s.rowEntered lostActive lostStandby) n 0 idNone :=
  takes_touched _ _ (rowEntered_touched s lostActive lostStandby) _ _ _ (takes_frame s _ _ _ _ rfl rfl h)

end RowEntered

/-- Neither heartbeat lost: the link decides. -/
theorem judge_neither (s : State) : s.judge false false =
    if (s.fb.linkA && s.fb.linkB) = true then (s.rowEntered false false).linkReturns else (s.rowEntered false false).linkFails := rfl

/-- The standby's heartbeat lost: it is declared faulty when the row is new. -/
theorem judge_standby (s : State) : s.judge false true =
    if (s.hbRow false true != s.fb.row && s.fb.st s.fb.standby != 5) = true then (s.rowEntered false true).standbyFaulty F.fbStandbyHb
    else s.rowEntered false true := rfl

/-- The selected unit's heartbeat lost: the standby's state decides. -/
theorem judge_active (s : State) : s.judge true false =
    if (!s.fb.eligible) = true then (s.rowEntered true false).raise F.fbNoStandby 0
    else if (s.hbRow true false != s.fb.row) = true then (s.rowEntered true false).fault F.fbActiveHb 0 else s.rowEntered true false := rfl

/-- Both heartbeats lost. -/
theorem judge_both (s : State) : s.judge true true = (s.rowEntered true true).raise F.fbBothHb 0 := rfl

/-- Both units answer and both hear each other: only the row is noted. -/
theorem judge_watches {s : State} (hA : s.fb.linkA = true) (hB : s.fb.linkB = true) (hbad : s.fb.linkBad = false)
    (hboth : (s.src F.fbBothHb).conds = []) (hno : (s.src F.fbNoStandby).conds = []) :
    Touched (s.rowNoted false false) (s.judge false false) ∧ ∀ n, (s.judge false false).src n = s.src n := by
  have hjudge : s.judge false false = s.rowEntered false false := by
    rw [judge_neither, if_pos (by rw [hA, hB]; rfl)]
    exact if_neg (by rw [rowEntered_fb]; exact Bool.eq_false_iff.1 hbad)
  rw [hjudge]
  refine ⟨rowEntered_touched s _ _, fun n => ?_⟩
  have hno' : (((s.rowNoted false false).lower F.fbBothHb 0).src F.fbNoStandby).conds = [] := by
    rw [src_lower_other _ 0 (by decide)]
    exact hno
  exact (src_lower_idle hno' 0 n).trans (src_lower_idle (s := s.rowNoted false false) hboth 0 n)

/-- Both units answer but one hears nothing: the link has failed. -/
theorem judge_linkFails {s : State} (hlink : s.fb.linkA = false ∨ s.fb.linkB = false) (hst : s.fb.st s.fb.standby = 1 ∨ s.fb.st s.fb.standby = 2)
    (htakes : Takes s F.fbLink 0 idNone) (hnew : (s.src F.fbLink).conds = []) :
    Recorded (s.rowEntered false false).linkLost (s.judge false false) F.fbLink 0 idNone 0 := by
  rw [judge_neither, if_neg (not_linked hlink)]
  refine linkFails_recorded (by rw [rowEntered_fb]; exact hst) (rowEntered_takes s _ _ htakes) ?_
  rw [src_rowEntered s _ _ (.inr (by decide)) (.inr (by decide))]
  exact hnew

/-- A unit is FAULTY once declared so, and the source that declared it holds it (R217, R458). -/
theorem standbyFaulty_law {s : State} {n : Nat} (h : Takes s n 0 idNone) :
    Touched { s with fb := s.fb.setSt s.fb.standby 5 } (s.standbyFaulty n) ∧ (s.standbyFaulty n).fb.st s.fb.standby = 5 ∧
      ((s.standbyFaulty n).src n).sticky = true ∧ ((s.standbyFaulty n).src n).unit = some s.fb.standby ∧
      ((s.standbyFaulty n).src n).hits = sat 16 ((s.src n).hits + 1) := by
  generalize hv : s.fbFaulty s.fb.standby n = v
  have hfaulty : Touched { s with fb := s.fb.setSt s.fb.standby 5 } v := hv ▸ setSrc_touched _ n _
  have hsrc : v.src n = { s.src n with unit := some s.fb.standby } := hv ▸ src_setSrc_same _ n _
  have htakes : Takes v n 0 idNone := takes_touched _ _ hfaulty _ _ _ (takes_frame s _ _ _ _ rfl rfl h)
  have heq : s.standbyFaulty n = v.fault n 0 := by rw [← hv]; rfl
  have hst : (s.fb.setSt s.fb.standby 5).st s.fb.standby = 5 := by
    have hle : s.fb.standby ≤ 1 := Nat.sub_le 1 _
    rw [setSt_st _ _ _ _ hle hle, if_pos rfl]
  obtain ⟨hsticky, hhits, -⟩ := hit_recorded v n 0 idNone 0 htakes
  have htouch := hfaulty.trans (fault_touched v n 0 htakes.calm)
  rw [heq]
  refine ⟨htouch, ?_, hsticky, ?_, ?_⟩
  · rw [← hst, htouch]
    rfl
  · exact (hit_unit htakes 0).trans (by rw [hsrc])
  · exact hhits.trans (by rw [hsrc])

/-- The standby's heartbeat newly lost: it is FAULTY, held by FB_STANDBY_HB. -/
theorem judge_standbyLost {s : State} (hrow : s.fb.row ≠ 1) (hst : s.fb.st s.fb.standby ≠ 5) (htakes : Takes s F.fbStandbyHb 0 idNone) :
    let t := s.judge false true
    Touched { s.rowNoted false true with fb := (s.rowNoted false true).fb.setSt s.fb.standby 5 } t ∧ t.fb.st s.fb.standby = 5 ∧
      (t.src F.fbStandbyHb).sticky = true ∧ (t.src F.fbStandbyHb).unit = some s.fb.standby ∧
      (t.src F.fbStandbyHb).hits = sat 16 ((s.src F.fbStandbyHb).hits + 1) := by
  have hjudge : s.judge false true = (s.rowEntered false true).standbyFaulty F.fbStandbyHb := by
    have hrow' : s.hbRow false true = 1 := rfl
    rw [judge_standby, hrow', if_pos]
    rw [Bool.and_eq_true, bne_iff_ne, bne_iff_ne]
    exact ⟨hrow.symm, hst⟩
  have hsrc : (s.rowEntered false true).src F.fbStandbyHb = s.src F.fbStandbyHb := src_rowEntered s _ _ (.inr (by decide)) (.inr (by decide))
  have hlaw := standbyFaulty_law (rowEntered_takes s false true htakes)
  rw [rowEntered_fb, hsrc, ← hjudge] at hlaw
  obtain ⟨htouch, hheld⟩ := hlaw
  exact ⟨(rowEntered_touched_with s false true _).trans htouch, hheld⟩

/-- The selected unit's heartbeat newly lost with an eligible standby: FB_ACTIVE_HB registers. -/
theorem judge_activeLost {s : State} (hrow : s.fb.row ≠ 2) (helig : s.fb.eligible = true) (hon : s.faults.on = true) :
    ∃ x, Touched (s.rowNoted true false) x ∧ Registered x (s.judge true false) F.fbActiveHb 0 idNone 0 := by
  have hnew : (s.hbRow true false != s.fb.row) = true := by
    have hrow' : s.hbRow true false = 2 := if_pos helig
    rw [hrow', bne_iff_ne]
    exact hrow.symm
  have hon' : (s.rowEntered true false).faults.on = true := hon
  rw [judge_active, if_neg (by rw [helig]; decide), if_pos hnew, State.fault, hit_eq_register hon']
  obtain ⟨src, hframe, -⟩ := addCond_frame (s.rowEntered true false) F.fbActiveHb 0
  exact ⟨_, (rowEntered_touched s _ _).trans (by unfold Touched; rw [hframe]), registered_law _ _ _ _ _⟩

/-- The selected unit's heartbeat lost with no eligible standby: FB_NO_STANDBY begins. -/
theorem judge_noStandby {s : State} (helig : s.fb.eligible = false) (htakes : Takes s F.fbNoStandby 0 idNone) (hnew : (s.src F.fbNoStandby).conds = []) :
    Recorded (s.rowEntered true false) (s.judge true false) F.fbNoStandby 0 idNone 0 := by
  rw [judge_active, if_pos (by rw [helig]; rfl)]
  refine raise_recorded 0 (rowEntered_takes s _ _ htakes) ?_
  rw [src_rowEntered s _ _ (.inr (by decide)) (.inl rfl)]
  exact hnew

/-- Both heartbeats lost: FB_BOTH_HB begins. -/
theorem judge_bothLost {s : State} (htakes : Takes s F.fbBothHb 0 idNone) (hnew : (s.src F.fbBothHb).conds = []) :
    Recorded (s.rowEntered true true) (s.judge true true) F.fbBothHb 0 idNone 0 := by
  rw [judge_both]
  refine raise_recorded 0 (rowEntered_takes s _ _ htakes) ?_
  rw [src_rowEntered s _ _ (.inl rfl) (.inr (by decide))]
  exact hnew

/-- Settles O19: a request by the row of the table of R215 that it decides, the link and resynchronisation by a lemma for each row. -/
theorem fireboxPairKeepsWatch : Obligations.FireboxPairKeepsWatch := by
  unfold Obligations.FireboxPairKeepsWatch
  refine ⟨?request, heartbeatRequest_early, ?record, ?link, ?retry, fun dt s => ⟨resyncComplete_passes dt s, resyncComplete_waits dt s⟩⟩
  case request =>
    intro dt lim a b act sby aTog bTog s y hlim _ ha hb hact hsby hy hdue
    have hexec := heartbeatRequest_judges (aTog := aTog) (bTog := bTog) hdue (hlim ▸ ha) (hlim ▸ hb) hact hsby
    have hy : y = ((s.pass dt).hbCounted a b).rowNoted (act == lostMark) (sby == lostMark) := hy
    have takes : ∀ n, Takes s n 0 idNone → Takes ((s.pass dt).hbCounted a b) n 0 idNone := fun n h => takes_frame s _ _ _ _ rfl rfl h
    refine ⟨?watches, ?linkFails, ?standbyLost, ?activeLost, ?noStandby, ?bothLost⟩
    case watches =>
      intro hactAlive hsbyAlive hA hB hbad hboth hno
      rw [beq_false_of_ne hactAlive, beq_false_of_ne hsbyAlive] at hexec hy
      exact ⟨_, hexec, hy ▸ judge_watches hA hB hbad hboth hno⟩
    case linkFails =>
      intro hactAlive hsbyAlive hlink hst htakes hnew
      rw [beq_false_of_ne hactAlive, beq_false_of_ne hsbyAlive] at hexec hy
      have hrec := judge_linkFails (s := (s.pass dt).hbCounted a b) hlink hst (takes _ htakes) hnew
      rw [rowEntered_linkLost] at hrec
      exact ⟨_, _, hexec, hy ▸ rowEntered_touched _ _ _, hrec⟩
    case standbyLost =>
      intro hactAlive hsbyLost hrow hst htakes
      rw [beq_false_of_ne hactAlive, beq_iff_eq.2 hsbyLost] at hexec hy
      exact ⟨_, hexec, hy ▸ judge_standbyLost hrow hst (takes _ htakes)⟩
    case activeLost =>
      intro hactLost hsbyAlive hrow helig hon
      rw [beq_iff_eq.2 hactLost, beq_false_of_ne hsbyAlive] at hexec hy
      obtain ⟨x, htouch, hreg⟩ := judge_activeLost (s := (s.pass dt).hbCounted a b) hrow helig hon
      exact ⟨x, _, hexec, hy ▸ htouch, hreg⟩
    case noStandby =>
      intro hactLost hsbyAlive helig htakes hnew
      rw [beq_iff_eq.2 hactLost, beq_false_of_ne hsbyAlive] at hexec hy
      exact ⟨_, _, hexec, hy ▸ rowEntered_touched _ _ _, judge_noStandby helig (takes _ htakes) hnew⟩
    case bothLost =>
      intro hactLost hsbyLost htakes hnew
      rw [beq_iff_eq.2 hactLost, beq_iff_eq.2 hsbyLost] at hexec hy
      exact ⟨_, _, hexec, hy ▸ rowEntered_touched _ _ _, judge_bothLost (takes _ htakes) hnew⟩
  case record =>
    intro dt s
    refine ⟨fun good => stateRecordReceive_none dt good s, stateRecordReceive_good dt s, stateRecordReceive_asks dt s, ?fails⟩
    intro r hsent hasked hst htakes hnew
    exact ⟨_, stateRecordReceive_fails dt s r hsent hasked, linkFails_recorded (s := s.pass dt) hst (takes_frame s _ _ _ _ rfl rfl htakes) hnew⟩
  case link =>
    intro dt s
    exact ⟨privateLinkTimeout_clears dt false s, privateLinkTimeout_clears dt true s, privateLinkTimeout_keeps dt false s, privateLinkTimeout_keeps dt true s,
      rfl, rfl⟩
  case retry =>
    intro dt s
    exact ⟨resyncRetry_waits dt s, resyncRetry_starts dt s, resyncRetry_fails dt s⟩

end Sys2Proof.Machine
end

section
/-!
The return to A and the DIAG commands on the pair (R205, R224, R225, R227, R228, R535).
-/
namespace Sys2Proof.Machine

/-! ### The selector moves (R224) -/

/-- The pair after the selector has moved to the standby, before FB_RETURN is recorded: the standby is ACTIVE, the other a COPY standby. -/
def State.swapped (s : State) : State :=
  { s with fb := { (s.fb.setSt s.fb.active 1).setSt s.fb.standby 0 with
    active := s.fb.standby, saved := s.fb.lastCheck s.fb.active, prev := none, sent := none, lockLeft := 0 } }

/-- The move records FB_RETURN. -/
theorem switchPair_recorded {s : State} (h : Takes s F.fbReturn 0 idNone) : Recorded s.swapped s.switchPair F.fbReturn 0 idNone 0 :=
  hit_recorded s.swapped F.fbReturn 0 idNone 0 (takes_frame s _ _ _ _ rfl rfl h)

/-- The return comes by itself with B selected, A eligible and clean long enough, and the pair not halted (R224, R227). -/
theorem fireboxAutoReturn_moves (dt : Nat) (s : State) (hactive : s.fb.active = 1) (hauto : s.par P.fireFbAutoReturn = 1) (helig : s.fb.eligible = true)
    (hclean : s.par P.fireFbReturnLines ≤ s.fb.clean) (hhalted : s.fb.halted = false) :
    exec (.fireboxAutoReturn dt) s = .next (s.pass dt).switchPair :=
  if_pos ⟨hauto, hactive, helig, hclean, (Bool.not_eq_true' _).mpr hhalted⟩

/-- Otherwise the selector stays. -/
theorem fireboxAutoReturn_stays (dt : Nat) (s : State) (h : s.fb.active = 0 ∨ s.par P.fireFbAutoReturn ≠ 1 ∨ s.fb.eligible = false ∨
    s.fb.clean < s.par P.fireFbReturnLines ∨ s.fb.halted = true) : exec (.fireboxAutoReturn dt) s = .next (s.pass dt) := by
  refine if_neg ?_
  rintro ⟨hauto, hactive, helig, hclean, hrunning⟩
  have hactive : s.fb.active = 1 := hactive
  have hrunning : s.fb.halted = false := (Bool.not_eq_true' _).mp hrunning
  obtain hA | hoff | hunfit | hdirty | hhalted := h
  · omega
  · exact hoff hauto
  · exact absurd helig (Bool.eq_false_iff.1 hunfit)
  · exact absurd hclean (Nat.not_le.2 hdirty)
  · exact Bool.false_ne_true (hrunning.symm.trans hhalted)

/-- A unit is eligible as a COPY or LOCKSTEP standby (R204). -/
theorem eligible_iff (f : FireBox) : f.eligible = true ↔ f.st f.standby = 1 ∨ f.st f.standby = 2 := by
  unfold FireBox.eligible
  rw [Bool.or_eq_true, beq_iff_eq, beq_iff_eq]

/-! ### The DIAG commands -/

/-- A switch may be commanded: the standby is eligible and clean, the pair not halted, and no fault reaction due at the boundary (R225, R227). -/
def State.switchable (s : State) : Bool := s.fb.eligible && decide (65536 ≤ s.fb.clean) && !s.fb.halted && !s.reactionDue

/-- The four conditions of a commanded switch. -/
theorem switchable_iff (s : State) :
    s.switchable = true ↔ s.fb.eligible = true ∧ 65536 ≤ s.fb.clean ∧ s.fb.halted = false ∧ s.reactionDue = false := by
  unfold State.switchable
  simp only [Bool.and_eq_true, decide_eq_true_eq, Bool.not_eq_true', and_assoc]

/-- Any of the four conditions missing bars the switch. -/
theorem not_switchable {s : State} (h : s.fb.eligible = false ∨ s.fb.clean < 65536 ∨ s.fb.halted = true ∨ s.reactionDue = true) :
    s.switchable = false := by
  rw [Bool.eq_false_iff, ne_eq, switchable_iff]
  rintro ⟨helig, hclean, hhalted, hreaction⟩
  simp [helig, hhalted, hreaction, Nat.not_lt.2 hclean] at h

section Commands

variable {dt : Nat} {w : Sess} {s : State} {c : Cmd} (hk : s.pwr.kind ≠ 2)
include hk

/-- A switch that may be commanded moves the selector and answers the line issued next. -/
theorem diagFireboxSwitch_moves (h : Holds s w c 0x1002 0) (hswitch : (s.pass dt).switchable = true) :
    ∃ t, exec (.diagFireboxSwitch dt w) s = .next t ∧ Answered (s.pass dt).switchPair t w c St.ok (leB 4 s.fire.next) := by
  refine ⟨_, rfl, runCmd_answered (h.pass dt) ?_⟩
  rw [h.plain, vet_ok (s.pass dt) _ hk, ← State.switchable, need_ok _ _ _ _ hswitch]
  rfl

/-- Any other switch completes STATE. -/
theorem diagFireboxSwitch_refuses (h : Holds s w c 0x1002 0) (hswitch : (s.pass dt).switchable = false) :
    ∃ t, exec (.diagFireboxSwitch dt w) s = .next t ∧ Answered (s.pass dt) t w c St.state [] := by
  refine ⟨_, rfl, runCmd_answered (h.pass dt) ?_⟩
  rw [h.plain, vet_ok (s.pass dt) _ hk, ← State.switchable, need_refuses _ _ _ _ hswitch]
  rfl

/-- Lockstep runs an eligible standby in LOCKSTEP, one that runs so for no fewer lines than it has left (R228). -/
theorem diagFireboxLockstep_runs {n : Nat} (h : Holds s w c 0x1003 4) (hn : u32 c.pay 0 = n) (hmin : 1024 ≤ n) (hmax : n ≤ 16777216)
    (helig : s.fb.eligible = true) : ∃ t, exec (.diagFireboxLockstep dt w) s = .next t ∧
      Answered { s.pass dt with fb := { s.fb.setSt s.fb.standby 2 with lockLeft := if s.fb.st s.fb.standby = 2 then max s.fb.lockLeft n else n } } t w c
        St.ok [] := by
  subst hn
  refine ⟨_, rfl, runCmd_answered (h.pass dt) ?_⟩
  dsimp only
  rw [h.plain, need_ok _ _ _ _ (decide_eq_true ⟨hmin, hmax⟩), vet_ok (s.pass dt) _ hk, need_ok _ (s.pass dt).fb.eligible _ _ helig]
  rfl

/-- Without an eligible standby lockstep completes STATE. -/
theorem diagFireboxLockstep_refuses {n : Nat} (h : Holds s w c 0x1003 4) (hn : u32 c.pay 0 = n) (hmin : 1024 ≤ n) (hmax : n ≤ 16777216)
    (helig : s.fb.eligible = false) : ∃ t, exec (.diagFireboxLockstep dt w) s = .next t ∧ Answered (s.pass dt) t w c St.state [] := by
  subst hn
  refine ⟨_, rfl, runCmd_answered (h.pass dt) ?_⟩
  dsimp only
  rw [h.plain, need_ok _ _ _ _ (decide_eq_true ⟨hmin, hmax⟩), vet_ok (s.pass dt) _ hk, need_refuses _ (s.pass dt).fb.eligible _ _ helig]
  rfl

/-- Status answers the pair's record (R228, R535). -/
theorem diagFireboxStatus_answers (h : Holds s w c 0x1001 0) : ∃ t, exec (.diagFireboxStatus dt w) s = .next t ∧ Answered (s.pass dt) t w c St.ok
    (leB 1 s.fb.stA ++ leB 1 s.fb.stB ++ leB 1 s.fb.active ++ leB 1 0 ++ leB 4 s.fb.clean ++ leB 4 s.fb.failovers ++ leB 4 s.fb.lostLines ++ leB 4 s.fb.mism ++
      leB 4 s.fb.foT32.toNat ++ leB 1 s.fb.foFrom ++ leB 1 s.fb.foTo ++ leB 2 s.fb.foSrc ++ leB 4 s.fb.lost0 ++ leB 4 s.fb.lost1 ++ leB 1 s.fb.lostN ++
      leB 3 0) := by
  refine ⟨_, rfl, runCmd_answered (h.pass dt) ?_⟩
  dsimp only
  rw [h.plain, vet_ok (s.pass dt) _ hk]
  rfl

end Commands

/-- Settles O20: the return by the state that the move of the selector leaves, the commands by their checks and the answer of one that ends at once. -/
theorem fireboxPairIsCommanded : Obligations.FireboxPairIsCommanded := by
  unfold Obligations.FireboxPairIsCommanded
  refine ⟨?selector, eligible_iff, ?lockstep, fun dt w s c h hk => diagFireboxStatus_answers hk h⟩
  case selector =>
    intro dt u s y hu _ hy
    subst hu
    have hy : y = (s.pass dt).swapped := hy
    have hrec : Takes s F.fbReturn 0 idNone → Recorded y (s.pass dt).switchPair F.fbReturn 0 idNone 0 := fun h =>
      hy ▸ switchPair_recorded (takes_frame s _ _ _ _ rfl rfl h)
    refine ⟨?moves, fireboxAutoReturn_stays dt s, ?commanded⟩
    case moves =>
      intro hactive hauto helig hclean hhalted htakes
      exact ⟨_, fireboxAutoReturn_moves dt s hactive hauto helig hclean hhalted, hrec htakes⟩
    case commanded =>
      intro w c h hk
      refine ⟨fun helig hclean hhalted hreaction htakes => ?_, fun hbarred => diagFireboxSwitch_refuses hk h (not_switchable hbarred)⟩
      obtain ⟨t, hexec, hanswer⟩ := diagFireboxSwitch_moves hk h ((switchable_iff (s.pass dt)).2 ⟨helig, hclean, hhalted, hreaction⟩)
      exact ⟨_, t, hexec, hrec htakes, hanswer⟩
  case lockstep =>
    intro dt n w s c h hk hn hmin hmax
    exact ⟨diagFireboxLockstep_runs hk h hn hmin hmax, diagFireboxLockstep_refuses hk h hn hmin hmax⟩

end Sys2Proof.Machine
end

section
/-!
What lanes and spares read after the writes of their operations, and LINK_TIME with its echo (R260, R265, R269 to R271): when a block is sent, what it carries,
and the delay that the echo gives.
-/
namespace Sys2Proof.Machine

/-! ### Lanes and spares after a write -/

@[simp] theorem lane_setLane_same (s : State) (l : Nat) (x : Lane) : (s.setLane l x).lane l = x := sel_put_same _ _ _ _
@[simp] theorem spare_setSpare_same (s : State) (k : Nat) (y : Spare) : (s.setSpare k y).spare k = y := sel_put_same _ _ _ _
@[simp] theorem lane_setSpare (s : State) (k l : Nat) (y : Spare) : (s.setSpare k y).lane l = s.lane l := rfl
@[simp] theorem spare_setLane (s : State) (l k : Nat) (x : Lane) : (s.setLane l x).spare k = s.spare k := rfl
@[simp] theorem lane_emit (s : State) (o : Output) (l : Nat) : (s.emit o).lane l = s.lane l := rfl
@[simp] theorem spare_emit (s : State) (o : Output) (k : Nat) : (s.emit o).spare k = s.spare k := rfl

/-! ### LINK_TIME (R265, R269, R271) -/

/-- The delay known for a lane, or for a member of a spare's group. -/
def State.knownDelay (s : State) (l : Nat) : Option Nat → Option Nat
  | some m => look (s.spare (l - 32)).delays m
  | none => if (s.lane l).delayOk then some (s.lane l).delay else none

/-- A LINK_TIME without ECHO only leaves. -/
theorem sendLinkTime_plain (s : State) (l : Nat) (m : Option Nat) :
    s.sendLinkTime l false m = s.emit (.block l (linkTimeBlock s.link false (s.knownDelay l m) (m.getD 0xF))) := by
  cases m <;> rfl

/-- With ECHO its departure and the value sent are noted too (R270). -/
theorem sendLinkTime_echo (s : State) (l : Nat) (m : Option Nat) : s.sendLinkTime l true m = { s with
    lanes := put s.lanes l { s.lane l with
      echoAt := some s.clk.tclk, echoDue := s.now, echoVal := (s.link * 256 + (s.knownDelay l m).getD 0) / 256 % 2 ^ 32 }
    out := .block l (linkTimeBlock s.link true (s.knownDelay l m) (m.getD 0xF)) :: s.out } := by
  cases m <;> rfl

/-- A LINK_TIME is due on a lane that is ACTIVE or SPARE_READY, once in 4,096 TCLK while TCLK is locked. -/
def State.linkTimeDue (s : State) (l : Nat) : Prop :=
  ((s.lane l).state = 6 ∨ (s.lane l).state = 11) ∧ s.clk.run = true ∧ (s.lane l).ltAt + 4096 ≤ s.clk.tclk

/-- An echo is due on an ACTIVE lane every `echo_ms` while TCLK is locked (R270). -/
def State.echoDue (s : State) (l : Nat) : Prop :=
  (s.lane l).state = 6 ∧ s.clk.run = true ∧ (s.lane l).echoDue + s.par P.linkHeadEchoMs * perMs ≤ s.now

section LinkTime

variable {dt : Nat} {lane : Fin 36} {s : State}

/-- One that is not due is not sent. -/
theorem linkTimeSend_waits (h : ¬ (s.pass dt).linkTimeDue lane.val) : exec (.linkTimeSend dt lane) s = .next (s.pass dt) := by
  refine if_pos (Decidable.byContradiction fun hdue => h ?_)
  simp only [not_or, Bool.not_eq_true', Bool.not_eq_false, decide_eq_true_eq, Nat.not_lt] at hdue
  exact hdue

/-- One that is due is noted, and a spare's names the group's members in turn. -/
theorem linkTimeSend_due (h : (s.pass dt).linkTimeDue lane.val) : exec (.linkTimeSend dt lane) s =
    let u := (s.pass dt).setLane lane.val { s.lane lane.val with ltAt := (s.pass dt).clk.tclk }
    let y := s.spare (lane.val - 32)
    if lane.val < 32 then .next (u.sendLinkTime lane.val false none)
    else .next ((u.setSpare (lane.val - 32) { y with ltNext := (y.ltNext + 1) % 8 }).sendLinkTime lane.val false (some y.ltNext)) := by
  obtain ⟨hstate, hrun, hdue⟩ := h
  refine if_neg ?_
  simpa [hstate, hrun, -State.pass_clk] using hdue

/-- An echo that is due asks for the lane's delay, on a spare for that of the member selected. -/
theorem echoMeasure_due (h : (s.pass dt).echoDue lane.val) : exec (.echoMeasure dt lane) s =
    .next ((s.pass dt).sendLinkTime lane.val true (if lane.val < 32 then none else some (s.spare (lane.val - 32)).sel)) := by
  obtain ⟨hstate, hrun, hdue⟩ := h
  refine if_neg ?_
  simpa [hstate, hrun, -State.pass_clk] using hdue

/-! ### LT_ECHO (R260, R270) -/

variable {block : Bytes} {frac : Fin 256}

/-- A block that is bad, or whose reserved bits are not zero, is counted and recorded. -/
theorem ltEcho_bad (h : goodBlock block 0x95 = false ∨ 16 ≤ u8 block 1) :
    exec (.ltEcho dt lane block frac) s = .next ((s.pass dt).badUpstream lane.val) := by
  refine if_pos ?_
  simpa using h

/-- An echo that was not asked for, or brings another value than the one sent, has no effect. -/
theorem ltEcho_stray (hgood : goodBlock block 0x95 = true) (hmember : u8 block 1 < 16)
    (h : (s.lane lane.val).echoAt = none ∨ beN (slice block 2 4) ≠ (s.lane lane.val).echoVal) :
    exec (.ltEcho dt lane block frac) s = .next (s.pass dt) := by
  show execLtEcho dt lane block frac s = _
  unfold execLtEcho
  dsimp only
  rw [if_neg (by simpa [hgood] using hmember), lane_pass]
  split
  · rfl
  · next dep hdep =>
    rw [if_pos (.inr (h.resolve_left (by simp [hdep])))]

/-- The delay that an echo gives: half the time between departure and arrival, to 1/256 TCLK and less the turnaround. -/
def echoDelay (arrived frac dep turn : Nat) : Nat := min 0x00FFFFFF ((arrived * 256 + frac - dep * 256 - 256 * turn) / 2)

/-- A delay differs by more than one TCLK from the one known. -/
def drifts (known : Option Nat) (d : Nat) : Bool := known.any (fun o => decide (o + 256 < d ∨ d + 256 < o))

/-- The lane and its spare after an echo has given a delay. -/
def State.delayed (s : State) (l member d : Nat) : State :=
  let u := s.setLane l { s.lane l with echoAt := none, delay := d, delayOk := true }
  if l < 32 then u else u.setSpare (l - 32) { s.spare (l - 32) with delays := put (s.spare (l - 32)).delays member d }

/-- The echo that was asked for sets the delay, and records a change of more than one TCLK. -/
theorem ltEcho_asked {dep d : Nat} (hgood : goodBlock block 0x95 = true) (hmember : u8 block 1 < 16)
    (hasked : u8 block 1 = if lane.val < 32 then 0xF else (s.spare (lane.val - 32)).sel) (hdep : (s.lane lane.val).echoAt = some dep)
    (hval : beN (slice block 2 4) = (s.lane lane.val).echoVal) (hd : d = echoDelay (s.pass dt).clk.tclk frac.val dep (u8 block 6)) :
    exec (.ltEcho dt lane block frac) s =
      .next (if drifts (s.knownDelay lane.val (if lane.val < 32 then none else some (u8 block 1))) d
        then ((s.pass dt).delayed lane.val (u8 block 1) d).fault F.linkTimeDrift lane.val else (s.pass dt).delayed lane.val (u8 block 1) d) := by
  subst hd
  show execLtEcho dt lane block frac s = _
  unfold execLtEcho
  dsimp only
  rw [if_neg (by simpa [hgood] using hmember), lane_pass, hdep]
  dsimp only
  rw [if_neg (by simpa [hval, spare_pass] using hasked)]
  have hknown : (if lane.val < 32 then if (s.lane lane.val).delayOk = true then some (s.lane lane.val).delay else none
      else look ((s.pass dt).spare (lane.val - 32)).delays (u8 block 1)) =
      s.knownDelay lane.val (if lane.val < 32 then none else some (u8 block 1)) := by
    split <;> rfl
  rw [hknown]
  generalize s.knownDelay lane.val _ = known
  cases known with
  | none => rfl
  | some o =>
    simp only [drifts, Option.any_some, decide_eq_true_eq]
    rfl

end LinkTime

/-! ### The statement -/

/-- Settles O24: LINK_TIME by the block it sends and what ECHO notes, the echo by whether it is bad, stray or the one asked for. -/
theorem linkTimeIsSentAndMeasured : Obligations.LinkTimeIsSentAndMeasured := by
  unfold Obligations.LinkTimeIsSentAndMeasured
  refine ⟨?primary, ?notDue, ?spare, ?echo, ?echoSpare, ?measures, ?drifts, ?member, ?stray, ?bad⟩
  case primary =>
    intro dt lane s x hx hstate hl hrun hdue
    subst hx
    rw [linkTimeSend_due ⟨hstate, (pass_run s dt).trans hrun, hdue⟩]
    dsimp only
    rw [if_pos hl, sendLinkTime_plain, State.knownDelay, lane_setLane_same]
    rfl
  case notDue =>
    intro dt lane s h
    refine linkTimeSend_waits ?_
    rintro ⟨hstate, hrun, hdue⟩
    rw [pass_run] at hrun
    obtain ⟨hstate6, hstate11⟩ | hstopped | hearly := h
    · exact hstate.elim hstate6 hstate11
    · exact Bool.false_ne_true (hstopped.symm.trans hrun)
    · exact Nat.not_le.2 hearly hdue
  case spare =>
    intro dt k m lane s hstate hl hm hrun hdue
    subst hm
    have hk : lane.val - 32 = k := by omega
    rw [linkTimeSend_due ⟨hstate, (pass_run s dt).trans hrun, hdue⟩]
    dsimp only
    rw [if_neg (by omega), sendLinkTime_plain, State.knownDelay, hk, spare_setSpare_same]
    rfl
  case echo =>
    intro dt lane s x hx hstate hl hrun hdue
    subst hx
    rw [echoMeasure_due ⟨hstate, (pass_run s dt).trans hrun, hdue⟩, if_pos hl, sendLinkTime_echo, State.knownDelay, lane_pass]
    split <;> rfl
  case echoSpare =>
    intro dt k lane s x hx hstate hl hrun hdue
    subst hx
    have hk : lane.val - 32 = k := by omega
    rw [echoMeasure_due ⟨hstate, (pass_run s dt).trans hrun, hdue⟩, if_neg (by omega), sendLinkTime_echo, State.knownDelay, hk]
    rfl
  case measures =>
    intro dt dep d lane block frac s x hgood hmember hl hx hdep hval hd hnear
    subst hx
    rw [ltEcho_asked hgood (by omega) (by rw [if_pos hl, hmember]) hdep hval hd, if_pos hl, if_neg, State.delayed, if_pos hl]
    · rfl
    · rw [State.knownDelay]
      obtain hnew | hnear := hnear
      · simp [hnew, drifts]
      · split <;> simp [drifts, hnear]
  case drifts =>
    intro dt dep d lane block frac s x hgood hmember hl hx hdep hval hd hknown hfar htakes
    subst hx
    have hexec := ltEcho_asked hgood (by omega) (by rw [if_pos hl, hmember]) hdep hval hd
    rw [if_pos hl, State.knownDelay, if_pos hknown, if_pos (by simpa [drifts] using hfar), State.delayed, if_pos hl] at hexec
    exact ⟨_, hexec, hit_recorded _ _ _ _ _ (takes_frame s _ _ _ _ rfl rfl htakes)⟩
  case member =>
    intro dt k m dep d lane block frac s x hgood hmember hm hl hsel hx hdep hval hd hnone
    subst hx
    have hk : lane.val - 32 = k := by omega
    have hspare : ¬ lane.val < 32 := by omega
    rw [ltEcho_asked hgood (by omega) (by rw [if_neg hspare, hk, hmember, hsel]) hdep hval hd, if_neg hspare, State.knownDelay, hmember, hk, hnone,
      State.delayed, if_neg hspare, hk]
    rfl
  case stray => exact fun dt lane block frac s hgood hmember h => ltEcho_stray hgood hmember h
  case bad =>
    intro dt lane block frac s h htakes
    exact ⟨_, ltEcho_bad h, hit_recorded _ _ _ _ _ (takes_frame s _ _ _ _ rfl rfl htakes)⟩

end Sys2Proof.Machine
end

section
/-!
The LANE commands (R247, R248, R251 to R254, R256, R530): the form they share, the PRBS test's checker and counters, and each command's answer.
-/
namespace Sys2Proof.Machine

/-! ### The checker (R254) -/

/-- A bit checked changes a lane's lock and counters alone. -/
theorem check_frame (code : Nat) (x : Lane) (k : Checker) (b : Bool) : ∃ locked bits errs losses,
    (x.check code k b).1 = { x with locked := locked, bits := bits, errs := errs, losses := losses } := by
  unfold Lane.check
  dsimp only
  generalize (if k.fill < (prbsTaps code).1 then 0 else if b == prbsNext code k.reg then k.good + 1 else 0) = good
  split
  · split
    · exact ⟨true, x.bits, x.errs, x.losses, rfl⟩
    · exact ⟨x.locked, x.bits, x.errs, x.losses, rfl⟩
  · split
    · exact ⟨false, _, _, _, rfl⟩
    · exact ⟨x.locked, _, _, x.losses, rfl⟩

/-- So do all the bits of a test. -/
theorem checkAll_frame (code : Nat) (rx : List Bool) (x : Lane) (k : Checker) : ∃ locked bits errs losses,
    (x.checkAll code k rx).1 = { x with locked := locked, bits := bits, errs := errs, losses := losses } := by
  induction rx generalizing x k with
  | nil => exact ⟨_, _, _, _, rfl⟩
  | cons b rx ih =>
    obtain ⟨locked, bits, errs, losses, hcheck⟩ := check_frame code x k b
    obtain ⟨locked', bits', errs', losses', hrest⟩ := ih (x.check code k b).1 (x.check code k b).2
    exact ⟨locked', bits', errs', losses', hrest.trans (by rw [hcheck])⟩

/-- A lane and its checker once the bits received are taken up: none while the device alone sends the pattern (R252). -/
def LaneTest.taken (e : LaneTest) (x : Lane) (rx : List Bool) : Lane × Checker :=
  if bit e.dirs 1 = true then x.checkAll e.pattern e.chk rx else (x, e.chk)

/-- What it has taken up is in the lane's lock and counters. -/
theorem taken_frame (e : LaneTest) (x : Lane) (rx : List Bool) : ∃ locked bits errs losses,
    (e.taken x rx).1 = { x with locked := locked, bits := bits, errs := errs, losses := losses } := by
  unfold LaneTest.taken
  split
  · exact checkAll_frame _ _ _ _
  · exact ⟨_, _, _, _, rfl⟩

/-- The errors injected periodically depend on when the lane's test began and its rate (R254). -/
theorem periodic_setLane (s : State) (l : Nat) (x : Lane) (e : LaneTest) (hsince : x.since = (s.lane l).since) (hrate : x.rate = (s.lane l).rate) :
    (s.setLane l x).periodic l e = s.periodic l e := by
  unfold State.periodic
  rw [lane_setLane_same, hsince, hrate]
  rfl

/-- A running test looked at: the lane has taken up its bits, nothing else has changed, and a write of the lane replaces it. -/
theorem seeTest_law (s : State) (dt l : Nat) (rx : List Bool) (e : LaneTest) (htest : (s.lane l).test = some e) (hhere : e.here = true) :
    let t := (s.pass dt).seeTest l rx
    t.lane l = { (e.taken (s.lane l) rx).1 with test := some { e with chk := (e.taken (s.lane l) rx).2 } } ∧
      (∀ y, t.setLane l y = (s.pass dt).setLane l y) ∧ ∀ d, t.periodic l d = (s.pass dt).periodic l d := by
  obtain ⟨locked, bits, errs, losses, hframe⟩ := taken_frame e (s.lane l) rx
  by_cases hdirs : bit e.dirs 1 = true
  · have htaken : e.taken (s.lane l) rx = (s.lane l).checkAll e.pattern e.chk rx := if_pos hdirs
    rw [htaken] at hframe ⊢
    dsimp only
    rw [seeTest_setLane s dt l _ e rx rfl htest hhere hdirs]
    exact ⟨lane_setLane_same _ _ _, setLane_setLane _ _ _, fun d => periodic_setLane _ _ _ _ (by rw [hframe]; rfl) (by rw [hframe]; rfl)⟩
  · have htaken : e.taken (s.lane l) rx = (s.lane l, e.chk) := if_neg hdirs
    rw [htaken]
    dsimp only
    rw [seeTest_idle s dt l e rx htest (Bool.eq_false_iff.2 hdirs)]
    exact ⟨by rw [lane_pass, ← htest], fun _ => rfl, fun _ => rfl⟩

/-- Without a test of the device's own there is nothing to look at. -/
theorem seeTest_none (s : State) (l : Nat) (rx : List Bool) (h : ∀ e, (s.lane l).test = some e → e.here = false) : s.seeTest l rx = s := by
  unfold State.seeTest
  dsimp only
  split
  · next e htest => rw [if_pos (by simp [h e htest])]
  · rfl

/-! ### The commands on a test, and those on a lane -/

/-- A lane that is on and serves no enabled slot may be retrained or tested. -/
theorem lane_spared {s : State} (dt : Nat) {l : Nat} (hserves : s.servesEnabled l = false) (hon : (s.lane l).state ≠ 0) :
    (!(s.pass dt).servesEnabled l && ((s.pass dt).lane l).state != 0) = true := by
  rw [servesEnabled_pass, hserves, lane_pass]
  simpa using hon

/-- One error injected where it is asked for and the device's own generator runs. -/
def State.injectOne (s : State) (l flags : Nat) : State :=
  let sends : Bool := match (s.lane l).test with | some t => t.here && bit t.dirs 0 | none => false
  if flags = 1 ∧ sends then s.setLane l { s.lane l with injected := sat 32 ((s.lane l).injected + 1) } else s

/-- The counters that a read answers, `injecting` errors having been injected periodically. -/
def Lane.testBytes (x : Lane) (running : Bool) (injecting : Nat) : Bytes :=
  leB 1 (b2n x.locked + 2 * b2n running) ++ leB 3 0 ++ leB 8 x.bits ++ leB 4 x.errs ++ leB 4 (sat 32 (x.injected + injecting)) ++ leB 4 x.losses ++
    padTo 8 x.report

/-- Errors injected periodically by the test that the device runs, if one does. -/
def State.injecting (s : State) (l : Nat) : Nat := match (s.lane l).test with | some t => if t.here then s.periodic l t else 0 | none => 0

section Commands

variable {dt : Nat} {w : Sess} {s : State} {c : Cmd} (hk : s.pwr.kind ≠ 2)
include hk

/-- A held command on a lane goes on with that lane (R530). -/
theorem Holds.laneForm {op n : Nat} (h : Holds s w c op 4) (hl : u8 c.pay 0 < n) (hz : fld c.pay 1 3 = 0) (k : Nat → Reply) :
    laneForm (s.pass dt) c n k = k (u8 c.pay 0) := by
  unfold Machine.laneForm
  rw [h.plain, need_ok _ _ _ _ (decide_eq_true ⟨hl, hz⟩), vet_ok (s.pass dt) _ hk]

/-- LANE_TEST_READ takes up the bits received, injects one error where asked, and answers the counters. -/
theorem laneTestRead_answers {rx : List Bool} (h : Holds s w c 0x0804 4) (hl : u8 c.pay 0 < 36) (hflags : u8 c.pay 1 ≤ 1) (hz : u16 c.pay 2 = 0)
    (hrun : u8 c.pay 1 = 0 ∨ (s.lane (u8 c.pay 0)).state = 10) :
    let u := ((s.pass dt).seeTest (u8 c.pay 0) rx).injectOne (u8 c.pay 0) (u8 c.pay 1)
    ∃ t, exec (.laneTestRead dt w rx) s = .next t ∧
      Answered u t w c St.ok ((u.lane (u8 c.pay 0)).testBytes ((s.lane (u8 c.pay 0)).state == 10) (u.injecting (u8 c.pay 0))) := by
  refine ⟨_, rfl, runCmd_answered (h.pass dt) ?_⟩
  dsimp only
  rw [h.plain, need_ok _ _ _ _ (decide_eq_true ⟨hl, hflags, hz⟩), vet_ok (s.pass dt) _ hk, need_ok _ _ _ _ (by simpa [lane_pass] using hrun)]
  rfl

/-- Of a running test a read of the counters takes up the bits, and injects one error when asked and the device sends. -/
theorem laneTestRead_running {rx : List Bool} {e : LaneTest} {y : Lane} (h : Holds s w c 0x0804 4) (hl : u8 c.pay 0 < 36) (hflags : u8 c.pay 1 ≤ 1)
    (hz : u16 c.pay 2 = 0) (hstate : (s.lane (u8 c.pay 0)).state = 10) (htest : (s.lane (u8 c.pay 0)).test = some e) (hhere : e.here = true)
    (hdirs : bit e.dirs 1 = true) (hy : y = { ((s.lane (u8 c.pay 0)).checkAll e.pattern e.chk rx).1 with
      test := some { e with chk := ((s.lane (u8 c.pay 0)).checkAll e.pattern e.chk rx).2 }
      injected := if u8 c.pay 1 = 1 ∧ bit e.dirs 0 = true then sat 32 ((s.lane (u8 c.pay 0)).injected + 1) else (s.lane (u8 c.pay 0)).injected }) :
    ∃ t, exec (.laneTestRead dt w rx) s = .next t ∧
      Answered ((s.pass dt).setLane (u8 c.pay 0) y) t w c St.ok (y.testBytes true ((s.pass dt).periodic (u8 c.pay 0) e)) := by
  obtain ⟨t, hexec, hanswer⟩ := laneTestRead_answers hk h hl hflags hz (.inr hstate) (dt := dt) (rx := rx)
  rw [seeTest_setLane s dt _ _ e rx rfl htest hhere hdirs] at hanswer
  obtain ⟨locked, bits, errs, losses, hframe⟩ := checkAll_frame e.pattern rx (s.lane (u8 c.pay 0)) e.chk
  generalize (s.lane (u8 c.pay 0)).checkAll e.pattern e.chk rx = z at hframe hy hanswer
  have hinject : ((s.pass dt).setLane (u8 c.pay 0) { z.1 with test := some { e with chk := z.2 } }).injectOne (u8 c.pay 0) (u8 c.pay 1) =
      (s.pass dt).setLane (u8 c.pay 0) y := by
    unfold State.injectOne
    rw [lane_setLane_same, hy, hframe, setLane_setLane]
    dsimp only
    rw [hhere, Bool.true_and]
    split <;> rfl
  have hperiodic : ((s.pass dt).setLane (u8 c.pay 0) y).injecting (u8 c.pay 0) = (s.pass dt).periodic (u8 c.pay 0) e := by
    have htest : y.test = some { e with chk := z.2 } := by rw [hy]
    unfold State.injecting
    rw [lane_setLane_same, htest]
    dsimp only
    rw [if_pos hhere, periodic_setLane]
    · rfl
    · rw [hy, hframe]; rfl
    · rw [hy, hframe]; rfl
  rw [hinject, hperiodic, lane_setLane_same, hstate] at hanswer
  exact ⟨t, hexec, hanswer⟩

/-- With no bits to take up and no error to inject a read only answers. -/
theorem laneTestRead_looks {rx : List Bool} (h : Holds s w c 0x0804 4) (hl : u8 c.pay 0 < 36) (hflags : u8 c.pay 1 = 0) (hz : u16 c.pay 2 = 0)
    (hsee : (s.pass dt).seeTest (u8 c.pay 0) rx = s.pass dt) : ∃ t, exec (.laneTestRead dt w rx) s = .next t ∧
      Answered (s.pass dt) t w c St.ok ((s.lane (u8 c.pay 0)).testBytes ((s.lane (u8 c.pay 0)).state == 10) ((s.pass dt).injecting (u8 c.pay 0))) := by
  have hanswer := laneTestRead_answers hk h hl (by omega) hz (.inl hflags) (dt := dt) (rx := rx)
  rw [hsee, hflags] at hanswer
  exact hanswer

/-- LANE_TEST_STOP ends the device's generator and checker, the bits received taken up (R252). -/
theorem laneTestStop_stops {rx : List Bool} {e : LaneTest} (h : Holds s w c 0x0805 4) (hl : u8 c.pay 0 < 36) (hz : fld c.pay 1 3 = 0)
    (htest : (s.lane (u8 c.pay 0)).test = some e) (hhere : e.here = true) :
    let z := e.taken (s.lane (u8 c.pay 0)) rx
    ∃ t, exec (.laneTestStop dt w rx) s = .next t ∧
      Answered ((s.pass dt).setLane (u8 c.pay 0) { z.1 with
        locked := false, injected := sat 32 (z.1.injected + (s.pass dt).periodic (u8 c.pay 0) e)
        test := some { e with chk := z.2, here := false, inj := 0 } }) t w c St.ok [] := by
  obtain ⟨hlane, hwrite, hperiodic⟩ := seeTest_law s dt (u8 c.pay 0) rx e htest hhere
  refine ⟨_, rfl, runCmd_answered (h.pass dt) ?_⟩
  rw [h.laneForm hk hl hz]
  dsimp only
  rw [hlane]
  dsimp only
  rw [if_pos hhere, hwrite, hperiodic]
  rfl

/-- With no test there is nothing to stop. -/
theorem laneTestStop_idle {rx : List Bool} (h : Holds s w c 0x0805 4) (hl : u8 c.pay 0 < 36) (hz : fld c.pay 1 3 = 0)
    (htest : (s.lane (u8 c.pay 0)).test = none) : ∃ t, exec (.laneTestStop dt w rx) s = .next t ∧ Answered (s.pass dt) t w c St.ok [] := by
  refine ⟨_, rfl, runCmd_answered (h.pass dt) ?_⟩
  rw [h.laneForm hk hl hz]
  dsimp only
  rw [seeTest_none (s.pass dt) _ _ (fun e he => nomatch htest.symm.trans he), lane_pass, htest]

/-- LANE_STATUS answers 28 bytes for each lane asked. -/
theorem laneStatus_answers (h : Holds s w c 0x0801 4) (h1 : 1 ≤ u8 c.pay 1) (h8 : u8 c.pay 1 ≤ 8) (h36 : u8 c.pay 0 + u8 c.pay 1 ≤ 36)
    (hz : u16 c.pay 2 = 0) : ∃ t, exec (.laneStatus dt w) s = .next t ∧ Answered (s.pass dt) t w c St.ok
      (leB 1 (u8 c.pay 1) ++ leB 3 0 ++ (List.range (u8 c.pay 1)).flatMap (fun i => (s.pass dt).laneBytes (u8 c.pay 0 + i))) := by
  refine ⟨_, rfl, runCmd_answered (h.pass dt) ?_⟩
  dsimp only
  rw [h.plain, need_ok _ _ _ _ (decide_eq_true ⟨h1, h8, h36, hz⟩), vet_ok (s.pass dt) _ hk]

/-- LANE_RETRAIN puts such a lane into TRAIN at rate 0 (R256). -/
theorem laneRetrain_trains (h : Holds s w c 0x0802 4) (hl : u8 c.pay 0 < 36) (hz : fld c.pay 1 3 = 0)
    (hserves : s.servesEnabled (u8 c.pay 0) = false) (hon : (s.lane (u8 c.pay 0)).state ≠ 0) : ∃ t, exec (.laneRetrain dt w) s = .next t ∧
      Answered ((s.pass dt).setLane (u8 c.pay 0)
        (inTrain { s.lane (u8 c.pay 0) with fails := 0, single := false, capable := none } (s.pass dt).now 0)) t w c St.ok [] := by
  refine ⟨_, rfl, runCmd_answered (h.pass dt) ?_⟩
  rw [h.laneForm hk hl hz, need_ok _ _ _ _ (lane_spared dt hserves hon), enterTrain_eq, lane_setLane_same, setLane_setLane]
  rfl

/-- LANE_TEST_START puts such a lane into TEST, tells the concentrator three times, and begins the device's own pattern (R252 to R254). -/
theorem laneTestStart_starts (h : Holds s w c 0x0803 8) (hl : u8 c.pay 0 < 36) (hpat : u8 c.pay 1 ≤ 4) (hdirs : u8 c.pay 2 ≤ 3)
    (hinj : u8 c.pay 3 = 0 ∧ u8 c.pay 4 = 0 ∨ u8 c.pay 3 = 2 ∧ 10 ≤ u8 c.pay 4 ∧ u8 c.pay 4 ≤ 40) (hz : u8 c.pay 5 = 0) (hms : 1 ≤ u16 c.pay 6)
    (hserves : s.servesEnabled (u8 c.pay 0) = false) (hon : (s.lane (u8 c.pay 0)).state ≠ 0) : ∃ t, exec (.laneTestStart dt w) s = .next t ∧
      Answered (((s.pass dt).setLane (u8 c.pay 0) { s.lane (u8 c.pay 0) with
          state := 10, since := (s.pass dt).now, locked := false, bits := 0, errs := 0, losses := 0, injected := 0, carry := false, info := none,
          todo := [], capable := none,
          test := some { pattern := u8 c.pay 1, dirs := u8 c.pay 2, inj := u8 c.pay 3, e := u8 c.pay 4, ends := (s.pass dt).now + u16 c.pay 6 * perMs,
                         here := true } }).emits
        (List.replicate 3 (.block (u8 c.pay 0) (kBlock 0x86 (leB 1 (u8 c.pay 1) ++ leB 1 (u8 c.pay 2) ++ beB 2 (u16 c.pay 6)))) ++
          (if bit (u8 c.pay 2) 0 = true then [Output.pattern (u8 c.pay 0) (u8 c.pay 1)] else []))) t w c St.ok [] := by
  have hform : (u8 c.pay 3 = 0 ∨ u8 c.pay 3 = 2) ∧ (if u8 c.pay 3 = 2 then 10 ≤ u8 c.pay 4 ∧ u8 c.pay 4 ≤ 40 else u8 c.pay 4 = 0) := by
    obtain ⟨hnone, he⟩ | ⟨hsome, he⟩ := hinj
    · exact ⟨.inl hnone, by rw [hnone]; exact he⟩
    · exact ⟨.inr hsome, by rw [hsome]; exact he⟩
  refine ⟨_, rfl, runCmd_answered (h.pass dt) ?_⟩
  dsimp only
  rw [h.plain, need_ok _ _ _ _ (decide_eq_true ⟨hl, hpat, hdirs, hform.1, hform.2, hz, hms⟩), vet_ok (s.pass dt) _ hk,
    need_ok _ _ _ _ (lane_spared dt hserves hon)]
  split <;> rfl

/-! ### Spares (R248, R251) -/

/-- LANE_SPARE_SWITCH begins the switch of a primary to its group's ready spare. -/
theorem laneSpareSwitch_begins (h : Holds s w c 0x0806 4) (hl : u8 c.pay 0 < 32) (hz : fld c.pay 1 3 = 0)
    (hready : (s.pass dt).spareState (u8 c.pay 0 / 8) = 1) (hfree : (s.spare (u8 c.pay 0 / 8)).switching = none) (hslots : (s.lane (u8 c.pay 0)).slots ≠ 0) :
    ∃ t, exec (.laneSpareSwitch dt w) s = .next t ∧ Answered ((s.pass dt).beginSwitchTo (u8 c.pay 0 / 8) (u8 c.pay 0)) t w c St.ok [] := by
  refine ⟨_, rfl, runCmd_answered (h.pass dt) ?_⟩
  rw [h.laneForm hk hl hz, need_ok]
  rw [hready, spare_pass, hfree, lane_pass]
  simpa using hslots

end Commands

/-- A served primary that is ACTIVE-capable again may return, unless its return is under way (R251). -/
theorem mayReturn_served {s : State} {l k : Nat} (hserved : s.servedBy l = some k) (hactive : (s.lane l).state = 6) (hcapable : (s.lane l).capable ≠ none)
    (hret : (s.spare k).ret = none) : s.mayReturn l = some k := by
  unfold State.mayReturn
  rw [hserved]
  exact if_pos ⟨hactive, Option.isSome_iff_ne_none.2 hcapable, by rw [hret]; rfl⟩

/-- The state in which the return of a primary has begun, before LANE_RETURN is recorded. -/
def State.returning (s : State) (k l : Nat) : State :=
  { s with
    spares := put s.spares k { s.spare k with ret := some (l, fwd s.fire.next 16) }
    lanes := put s.lanes l { s.lane l with carry := (s.primarySlots l).all (fun i => (s.slotLink i).ltValid), start := none }
    out := .block (32 + k) (kBlock 0x84 (leB 1 (l % 8) ++ leB 1 1 ++ beB 4 (fwd s.fire.next 16))) :: s.out }

/-- A return begins 16 lines ahead, and is recorded as it begins. -/
theorem beginReturn_eq (s : State) (k l : Nat) : s.beginReturn k l = ((s.returning k l).fault F.laneReturn l, fwd s.fire.next 16) := rfl

/-- What the return leaves when its source takes the hit. -/
theorem beginReturn_recorded {s : State} (dt k l : Nat) (h : Takes s F.laneReturn l idNone) :
    Recorded ((s.pass dt).returning k l) ((s.pass dt).beginReturn k l).1 F.laneReturn l idNone 0 := by
  rw [beginReturn_eq]
  exact hit_recorded _ _ _ _ _ (takes_frame s _ _ _ _ rfl rfl h)

/-- LANE_SPARE_RETURN begins the return of a served primary and answers its line. -/
theorem laneSpareReturn_begins {dt k : Nat} {w : Sess} {s : State} {c : Cmd} (hk : s.pwr.kind ≠ 2) (h : Holds s w c 0x0807 4) (hl : u8 c.pay 0 < 32)
    (hz : fld c.pay 1 3 = 0) (hret : (s.pass dt).mayReturn (u8 c.pay 0) = some k) : ∃ t, exec (.laneSpareReturn dt w) s = .next t ∧
      Answered ((s.pass dt).beginReturn k (u8 c.pay 0)).1 t w c St.ok (leB 4 (fwd s.fire.next 16)) := by
  refine ⟨_, rfl, runCmd_answered (h.pass dt) ?_⟩
  rw [h.laneForm hk hl hz, hret]
  rfl

/-! ### The statement -/

/-- Settles O21: each command by its form and the state it leaves; the reads of a test by what the checker takes up. -/
theorem laneCommandsAnswer : Obligations.LaneCommandsAnswer := by
  unfold Obligations.LaneCommandsAnswer
  refine ⟨?status, ?retrain, ?start, ?running, ?sending, ?idle, ?stops, ?noTest, ?switches, ?returns⟩
  case status =>
    intro dt first n w s c h hk hfirst hn h1 h8 h36 hz
    subst hfirst hn
    exact laneStatus_answers hk h h1 h8 h36 hz
  case retrain =>
    intro dt l w s c h hk hl h36 hz hserves hon
    subst hl
    exact laneRetrain_trains hk h h36 hz hserves hon
  case start =>
    intro dt l pat dirs inj e ms w s c h hk hl h36 hpat h4 hdirs h3 hinj he hform hz hms h1 hserves hon
    subst hl hpat hdirs hinj he hms
    exact laneTestStart_starts hk h h36 h4 h3 hform hz h1 hserves hon
  case running =>
    intro dt l rx w s c x y e h hk hl h36 hflags hz hx hstate htest hhere hdirs hy
    subst hl hx
    exact laneTestRead_running hk h h36 hflags hz hstate htest hhere hdirs hy
  case sending =>
    intro dt l rx w s c x e h hk hl h36 hflags hz hx hstate htest hhere hdirs
    subst hl hx
    obtain ⟨t, hexec, hanswer⟩ := laneTestRead_looks hk h h36 hflags hz (seeTest_idle s dt _ e rx htest hdirs)
    have hinjecting : (s.pass dt).injecting (u8 c.pay 0) = (s.pass dt).periodic (u8 c.pay 0) e := by
      unfold State.injecting
      rw [lane_pass, htest]
      exact if_pos hhere
    rw [hstate, hinjecting] at hanswer
    exact ⟨t, hexec, hanswer⟩
  case idle =>
    intro dt l rx w s c x h hk hl h36 hflags hz hx hstate htest
    subst hl hx
    obtain ⟨t, hexec, hanswer⟩ := laneTestRead_looks hk h h36 hflags hz (seeTest_none (s.pass dt) _ rx htest)
    have hinjecting : (s.pass dt).injecting (u8 c.pay 0) = 0 := by
      unfold State.injecting
      rw [lane_pass]
      split
      · next e he => rw [htest e he]; rfl
      · rfl
    rw [beq_false_of_ne hstate, hinjecting] at hanswer
    exact ⟨t, hexec, hanswer⟩
  case stops =>
    intro dt l rx w s c x z e k h hk hl h36 hz hx htest hhere hzk
    subst hl hx
    obtain rfl : z = (e.taken (s.lane (u8 c.pay 0)) rx).1 := congrArg Prod.fst hzk
    obtain rfl : k = (e.taken (s.lane (u8 c.pay 0)) rx).2 := congrArg Prod.snd hzk
    exact laneTestStop_stops hk h h36 hz htest hhere
  case noTest =>
    intro dt l rx w s c h hk hl h36 hz htest
    subst hl
    exact laneTestStop_idle hk h h36 hz htest
  case switches =>
    intro dt l w s c h hk hl h32 hz hready hfree hslots
    subst hl
    obtain ⟨t, hexec, hanswer⟩ := laneSpareSwitch_begins hk h h32 hz hready hfree hslots
    exact ⟨t, _, hexec, beginSwitchTo_eq _ _ _, hanswer⟩
  case returns =>
    intro dt l k w s c h hk hl h32 hz hserved hactive hcapable hret htakes
    subst hl
    obtain ⟨t, hexec, hanswer⟩ := laneSpareReturn_begins (dt := dt) hk h h32 hz (mayReturn_served hserved hactive hcapable hret)
    exact ⟨t, _, hexec, beginReturn_recorded dt k _ htakes, hanswer⟩

end Sys2Proof.Machine
end

section
/-!
The bring-up of a lane (R237 to R242, R247, R248, R251): what each row's event does, the exchange of CAPs, and the spare that has come up with its group's
members.
-/
namespace Sys2Proof.Machine

/-! ### Lanes alone changed -/

/-- A lane written is among what `OnLanes` leaves free. -/
theorem OnLanes.of_setLane {s t : State} {l : Nat} {x : Lane} (h : OnLanes (s.setLane l x) t) : OnLanes s t := h

/-- A lane written with its CAP and slots as they were keeps its primary slots. -/
theorem primarySlots_setLane (s : State) (l : Nat) (x : Lane) (hslots : x.slots = (s.lane l).slots) (hown : x.own = (s.lane l).own) :
    (s.setLane l x).primarySlots l = s.primarySlots l :=
  primarySlots_congr _ _ _ (by rw [lane_setLane_same, hslots]) (by rw [lane_setLane_same, hown]) rfl

/-- KS_SEL touches its spare and leaves. -/
theorem ksSel_eq (s : State) (k m : Nat) :
    s.ksSel k m = { s with spares := put s.spares k { s.spare k with sel := m }, out := .ksSel k m :: s.out } := rfl

/-- Time leaves the members that have not passed. -/
theorem openMember_pass (s : State) (dt k : Nat) : (s.pass dt).openMember k = s.openMember k := rfl

/-! ### From DETECT to CAP (R237 to R240) -/

section Rows

variable {dt : Nat} {lane : Fin 36} {s : State}

/-- Termination and signal take a primary from DETECT to TRAIN, and a spare whose members have all passed (R237). -/
theorem laneDetectPoll_trains (hstate : (s.lane lane.val).state = 1) (h : lane.val < 32 ∨ s.openMember (lane.val - 32) = none) :
    exec (.laneDetectPoll dt lane true true) s = .next ((s.pass dt).enterTrain lane.val 0) := by
  show execLaneDetectPoll dt lane true true s = _
  unfold execLaneDetectPoll
  dsimp only
  rw [if_neg (by simp [lane_pass, hstate])]
  obtain hl | hnone := h
  · rw [if_pos hl]
  · rw [openMember_pass, hnone]
    dsimp only
    rw [ite_self]

/-- A spare with a member that has not passed selects it first (R247). -/
theorem laneDetectPoll_selects {m : Nat} (hstate : (s.lane lane.val).state = 1) (hl : 32 ≤ lane.val) (hopen : s.openMember (lane.val - 32) = some m) :
    exec (.laneDetectPoll dt lane true true) s = .next (((s.pass dt).ksSel (lane.val - 32) m).enterTrain lane.val 0) := by
  show execLaneDetectPoll dt lane true true s = _
  unfold execLaneDetectPoll
  dsimp only
  rw [if_neg (by simp [lane_pass, hstate]), if_neg (by omega), openMember_pass, hopen]

/-- No head within `detect_ms` is recorded once. -/
theorem laneAbsent_records (hstate : (s.lane lane.val).state = 1) (hnew : (s.lane lane.val).absent = false)
    (hdue : (s.lane lane.val).since + s.par P.linkLaneDetectMs * perMs ≤ (s.pass dt).now) (h : Takes s F.laneAbsent lane.val idNone) :
    ∃ t, exec (.laneAbsent dt lane) s = .next t ∧
      Recorded ((s.pass dt).setLane lane.val { s.lane lane.val with absent := true }) t F.laneAbsent lane.val idNone 0 := by
  refine ⟨_, if_neg ?_, hit_recorded _ _ _ _ _ (takes_frame s _ _ _ _ rfl rfl h)⟩
  rintro (hother | habsent | hearly)
  · exact hother hstate
  · exact Bool.false_ne_true (hnew.symm.trans habsent)
  · exact absurd hdue (Nat.not_le.2 hearly)

/-- Bit lock comes when the bits that it asks for have had their time (R238). -/
theorem bitLock_locks (hstate : (s.lane lane.val).state = 2)
    (hbits : 2000000 ≤ ((s.pass dt).now - (s.lane lane.val).since) * bitsPerTwo (s.lane lane.val).rate) :
    exec (.bitLock dt lane) s = .next ((s.pass dt).setLane lane.val { s.lane lane.val with state := 3 }) :=
  congrArg _ (if_pos ⟨hstate, hbits⟩)

/-- The end of TRAIN's period with bit lock goes on to the search for block lock. -/
theorem trainPeriodEnd_locked (hstate : (s.lane lane.val).state = 3) (hdue : (s.lane lane.val).since + trainTime ≤ (s.pass dt).now) :
    exec (.trainPeriodEnd dt lane true) s = .next ((s.pass dt).setLane lane.val { s.lane lane.val with state := 4, since := (s.pass dt).now }) := by
  show execTrainPeriodEnd dt lane true s = _
  unfold execTrainPeriodEnd
  dsimp only
  rw [lane_pass, if_neg (by simp [hstate, hdue]), if_pos ⟨hstate, rfl⟩]

/-- Without it the attempt fails. -/
theorem trainPeriodEnd_fails {ok : Bool} (hstate : (s.lane lane.val).state = 2 ∨ (s.lane lane.val).state = 3 ∧ ok = false)
    (hdue : (s.lane lane.val).since + trainTime ≤ (s.pass dt).now) :
    exec (.trainPeriodEnd dt lane ok) s = .next ((s.pass dt).attemptFails lane.val) := by
  show execTrainPeriodEnd dt lane ok s = _
  unfold execTrainPeriodEnd
  dsimp only
  rw [lane_pass]
  obtain h2 | ⟨h3, hok⟩ := hstate
  · rw [if_neg (by simp [h2, hdue]), if_neg (by simp [h2])]
  · rw [if_neg (by simp [h3, hdue]), if_neg (by simp [hok])]

/-- Block lock comes after the time of 64 blocks (R239). -/
theorem blockLock_locks (hstate : (s.lane lane.val).state = 4)
    (hbits : 2 * 64 * 66 ≤ ((s.pass dt).now - (s.lane lane.val).since) * bitsPerTwo (s.lane lane.val).rate) :
    exec (.blockLock dt lane) s = .next ((s.pass dt).setLane lane.val
      { s.lane lane.val with state := 5, since := (s.pass dt).now, farN := 0, acks := 0 }) :=
  congrArg _ (if_pos ⟨hstate, hbits⟩)

/-- No block lock in its time fails the attempt. -/
theorem blockLockTimeout_fails (hstate : (s.lane lane.val).state = 4) (hdue : (s.lane lane.val).since + blockLockTime ≤ (s.pass dt).now) :
    exec (.blockLockTimeout dt lane) s = .next ((s.pass dt).attemptFails lane.val) :=
  congrArg _ (if_pos ⟨hstate, hdue⟩)

/-- An exchange of CAPs that takes too long fails the attempt, unless the lane is held in CAP (R242). -/
theorem capTimeout_fails (hstate : (s.lane lane.val).state = 5) (hheld : (s.lane lane.val).held = false)
    (hdue : (s.lane lane.val).since + trainTime ≤ (s.pass dt).now) :
    exec (.capTimeout dt lane) s = .next ((s.pass dt).attemptFails lane.val) :=
  congrArg _ (if_pos ⟨hstate, by rw [lane_pass, hheld]; rfl, hdue⟩)

/-- A RETRAIN received in CAP sends the lane to TRAIN at its rate. -/
theorem retrain_trains {block : Bytes} (hgood : goodBlock block 0x85 = true) (hrate : u8 block 1 ≤ 1) (hstate : (s.lane lane.val).state = 5) :
    exec (.retrain dt lane block) s = .next ((s.pass dt).enterTrain lane.val (u8 block 1)) :=
  congrArg _ (if_pos ⟨hgood, hrate, hstate⟩)

/-- A DOWN or FAILED primary tries again at its time, from FAILED with a single attempt (R240, R251). -/
theorem laneRetry_trains (hl : lane.val < 32) (hdue : (s.lane lane.val).retryAt ≤ (s.pass dt).now)
    (hstate : (s.lane lane.val).state = 8 ∨ (s.lane lane.val).state = 9) : exec (.laneRetry dt lane) s = .next ((s.pass dt).setLane lane.val
      (inTrain { s.lane lane.val with single := (s.lane lane.val).state == 9, fails := if (s.lane lane.val).state = 9 then (s.lane lane.val).fails else 0 }
        (s.pass dt).now 0)) := by
  show execLaneRetry dt lane s = _
  unfold execLaneRetry
  dsimp only
  rw [lane_pass, if_neg (Nat.not_lt.2 hdue), if_pos hstate, if_pos hl, enterTrain_eq, lane_setLane_same, setLane_setLane]
  rfl

/-- A lane held in CAP begins the exchange again at its time (R242). -/
theorem laneRetry_exchanges (hdue : (s.lane lane.val).retryAt ≤ (s.pass dt).now) (hstate : (s.lane lane.val).state = 5)
    (hheld : (s.lane lane.val).held = true) : exec (.laneRetry dt lane) s = .next ((s.pass dt).setLane lane.val
      { s.lane lane.val with held := false, since := (s.pass dt).now, farN := 0, acks := 0 }) := by
  show execLaneRetry dt lane s = _
  unfold execLaneRetry
  dsimp only
  rw [lane_pass, if_neg (Nat.not_lt.2 hdue), if_neg (by simp [hstate]), if_pos ⟨hstate, hheld⟩]

/-! ### CAP (R242, R247, R248) -/

section Caps

variable {block : Bytes} (hgood : goodBlock block 0x82 = true)
include hgood

/-- A CAP that is neither for a switch nor for a check takes part in the lane's own exchange. -/
theorem cap_exchanges (h : (s.lane lane.val).state ≠ 11) : exec (.cap dt lane block) s = .next ((s.pass dt).capIn lane.val (blockFields block)) := by
  show execCap dt lane block s = _
  unfold execCap
  dsimp only
  rw [if_neg (by simp [hgood]), if_pos (.inr h)]

/-- A CAP of the member that a SPARE_READY spare checks passes the check. -/
theorem cap_checks {m : Nat} (hl : 32 ≤ lane.val) (hready : (s.lane lane.val).state = 11) (hfree : (s.spare (lane.val - 32)).switching = none)
    (hcheck : (s.spare (lane.val - 32)).checking = some m) : exec (.cap dt lane block) s =
      .next (((s.pass dt).setLane lane.val { s.lane lane.val with far := blockFields block }).memberPassed (lane.val - 32) m) := by
  show execCap dt lane block s = _
  unfold execCap
  dsimp only
  rw [if_neg (by simp [hgood]), if_neg (by simp [hl, lane_pass, hready]), spare_pass, hfree, if_neg (by decide), spare_setLane, spare_pass, hcheck]
  rfl

/-- The second identical CAP with the ACTIVE indication completes a switch. -/
theorem cap_switches {q : Nat} (hl : 32 ≤ lane.val) (hready : (s.lane lane.val).state = 11) (hswitch : (s.spare (lane.val - 32)).switching = some q)
    (hactive : bit (u8 (blockFields block) 1) 3 = true) (hfar : (s.lane lane.val).far = blockFields block) (hone : (s.lane lane.val).farN = 1) :
    exec (.cap dt lane block) s = .next (((s.pass dt).setLane lane.val { s.lane lane.val with farN := 2 }).serve (lane.val - 32)) := by
  show execCap dt lane block s = _
  unfold execCap
  dsimp only
  rw [if_neg (by simp [hgood]), if_neg (by simp [hl, lane_pass, hready]), spare_pass, hswitch, if_pos Option.isSome_some,
    if_neg (by simp [hactive]), lane_pass, if_pos hfar, hone, if_pos rfl, ← hfar]

end Caps

end Rows

/-- A switch that the member's CAP completes: the spare serves the primary with its slots, none of whose link time is valid yet (R248, R271). -/
theorem cap_serves {dt q l : Nat} {lane : Fin 36} {s : State} {block : Bytes} (hgood : goodBlock block 0x82 = true) (hl : 32 ≤ lane.val)
    (hready : (s.lane lane.val).state = 11) (hswitch : (s.spare (lane.val - 32)).switching = some q)
    (hactive : bit (u8 (blockFields block) 1) 3 = true) (hfar : (s.lane lane.val).far = blockFields block) (hone : (s.lane lane.val).farN = 1)
    (hmember : s.switchOf (lane.val - 32) = l) (h32 : l < 32) :
    ∃ t, exec (.cap dt lane block) s = .next t ∧ (t.spare (lane.val - 32)).serving = some l ∧ (t.lane lane.val).state = 6 ∧
      (t.lane lane.val).slots = (s.lane l).slots ∧ (∀ i ∈ s.primarySlots l, (t.slotLink i).ltValid = false) ∧ OnLanes (s.pass dt) t := by
  have hexec := cap_switches (dt := dt) hgood hl hready hswitch hactive hfar hone
  have hspare : 32 + (lane.val - 32) = lane.val := by omega
  generalize hu : (s.pass dt).setLane lane.val { s.lane lane.val with farN := 2 } = u at hexec
  have hother : u.lane l = s.lane l := by
    rw [← hu, lane_setLane, if_neg (by omega)]
    rfl
  have hprimary : u.primarySlots l = s.primarySlots l := primarySlots_congr s u l (by rw [hother]) (by rw [hother]) (by rw [← hu]; rfl)
  obtain ⟨hserving, hstate, hslots, hinvalid, hon⟩ := serve_law u (lane.val - 32) l (by rw [← hu]; exact hmember) h32
  rw [hspare] at hstate hslots
  rw [hother] at hslots
  rw [hprimary] at hinvalid
  exact ⟨_, hexec, hserving, hstate, hslots, hinvalid, by subst hu; exact hon.of_setLane⟩

/-- The first CAP of a pair is kept. -/
theorem capIn_first {s : State} {l : Nat} {p : Bytes} (hstate : (s.lane l).state = 5) (hheld : (s.lane l).held = false) (hserved : s.servedBy l = none)
    (hnew : (s.lane l).far ≠ p) : s.capIn l p = s.setLane l { s.lane l with far := p, farN := 1 } := by
  unfold State.capIn
  dsimp only
  rw [if_pos hstate, hheld, hserved, beq_false_of_ne hnew]
  rfl

/-- The second CAP of a pair is judged. -/
theorem capIn_second {s : State} {l : Nat} {p : Bytes} (hstate : (s.lane l).state = 5) (hheld : (s.lane l).held = false) (hsame : (s.lane l).far = p)
    (hone : (s.lane l).farN = 1) : s.capIn l p = (s.setLane l { s.lane l with farN := 2 }).capPair l := by
  subst hsame
  unfold State.capIn
  dsimp only
  rw [if_pos hstate, hheld, beq_self_eq_true, hone]
  simp

/-- A usable concentrator gets the device's CAP, and the lane its slots (R241, R242). -/
theorem capPair_sends {s : State} {l rate : Nat} (h : s.capRate l (s.lane l).far = some rate) : s.capPair l = { s with
    lanes := put s.lanes l { s.lane l with
      own := s.ownCap l (u8 (s.lane l).far 0 % 16) rate, slots := u8 (s.lane l).far 0 % 16, acks := 0 }
    out := .block l (kBlock 0x82 (s.ownCap l (u8 (s.lane l).far 0 % 16) rate ++ leB 1 (b2n (decide (32 ≤ l))))) :: s.out } := by
  unfold State.capPair
  dsimp only
  rw [h]
  dsimp only
  rw [State.sendCap, lane_setLane_same]
  rfl

/-- Any other fails the attempt, recorded. -/
theorem capPair_fails {s : State} {l : Nat} (h : s.capRate l (s.lane l).far = none) : s.capPair l = (s.fault F.laneCapFail l).attemptFails l := by
  unfold State.capPair
  dsimp only
  rw [h]

/-! ### CAP_ACK (R242, R245) -/

/-- A good CAP_ACK that repeats the device's own CAP, sent once two CAPs had come. -/
def Lane.acked (x : Lane) (block : Bytes) : Prop :=
  goodBlock block 0x83 = true ∧ 2 ≤ x.farN ∧ x.own.length = 5 ∧ (blockFields block).take 5 = x.own

/-- The lane may take an acknowledgement: it is in CAP, or in RELOCK within its time. -/
def State.awaitsAck (s : State) (x : Lane) : Prop := x.state = 5 ∨ x.state = 7 ∧ s.now ≤ x.since + s.par P.linkLaneRelockUs * perUs

/-- A matching acknowledgement is counted; the second ends the exchange or the relock. -/
theorem capAck_counts {dt : Nat} {lane : Fin 36} {block : Bytes} {s : State} (h : (s.lane lane.val).acked block)
    (hawaits : (s.pass dt).awaitsAck (s.lane lane.val)) : exec (.capAck dt lane block) s =
      let u := (s.pass dt).setLane lane.val { s.lane lane.val with acks := (s.lane lane.val).acks + 1 }
      if (s.lane lane.val).acks + 1 < 2 then .next u
      else .next (if (s.lane lane.val).state = 7 then u.relocked lane.val else u.exchanged lane.val) := by
  obtain ⟨hgood, hfar, hown, hfields⟩ := h
  refine if_neg ?_
  rintro (hbad | hlate | hfew | hunsent | hother)
  · simp [hgood] at hbad
  · rw [State.awaitsAck] at hawaits
    simp only [lane_pass, State.relockOpen, decide_eq_true_eq, hawaits, Bool.not_eq_true', decide_eq_false_iff_not, not_true] at hlate
  · exact absurd hfar (Nat.not_le.2 hfew)
  · exact hunsent hown
  · exact hother hfields

/-- The first of the two only counts. -/
theorem capAck_first {dt : Nat} {lane : Fin 36} {block : Bytes} {s : State} (h : (s.lane lane.val).acked block)
    (hawaits : (s.pass dt).awaitsAck (s.lane lane.val)) (hacks : (s.lane lane.val).acks = 0) :
    exec (.capAck dt lane block) s = .next ((s.pass dt).setLane lane.val { s.lane lane.val with acks := 1 }) := by
  rw [capAck_counts h hawaits, hacks]
  dsimp only
  rw [if_pos (by decide)]

/-- In CAP the second completes the exchange. -/
theorem capAck_completes {dt : Nat} {lane : Fin 36} {block : Bytes} {s : State} (h : (s.lane lane.val).acked block)
    (hstate : (s.lane lane.val).state = 5) (hacks : (s.lane lane.val).acks = 1) :
    exec (.capAck dt lane block) s = .next (((s.pass dt).setLane lane.val { s.lane lane.val with acks := 2 }).exchanged lane.val) := by
  rw [capAck_counts h (.inl hstate), hacks, hstate]
  dsimp only
  rw [if_neg (by decide), if_neg (by decide)]

/-- A new rate retrains both ends (R242). -/
theorem exchanged_retrains {s : State} {l : Nat} (h : u8 (s.lane l).own 4 ≠ (s.lane l).rate) :
    s.exchanged l = (s.emit (.block l (kBlock 0x85 (leB 1 (u8 (s.lane l).own 4))))).enterTrain l (u8 (s.lane l).own 4) := if_pos h

/-- At the rate agreed a spare has come up with its member (R247). -/
theorem exchanged_spare {s : State} {l : Nat} (h : u8 (s.lane l).own 4 = (s.lane l).rate) (hl : 32 ≤ l) : s.exchanged l = s.spareUp (l - 32) := by
  unfold State.exchanged
  dsimp only
  rw [if_neg (Decidable.not_not.2 h), if_pos hl]

/-- A primary whose limit lies below the press maximum is held in CAP, recorded (R242). -/
theorem exchanged_holds {s : State} {l : Nat} (h : u8 (s.lane l).own 4 = (s.lane l).rate) (hl : l < 32)
    (hlimit : laneLimit s.par (s.lane l).slots (s.lane l).rate (s.primarySlots l) < s.pressMax) : s.exchanged l =
      (s.setLane l { s.lane l with held := true, acks := 0, farN := 0, retryAt := s.now + s.par P.linkLaneRetryMs * perMs }).fault F.laneBudget l := by
  unfold State.exchanged
  dsimp only
  rw [if_neg (Decidable.not_not.2 h), if_neg (Nat.not_le.2 hl), if_pos hlimit]

/-- Any other primary is ACTIVE. -/
theorem exchanged_activates {s : State} {l : Nat} (h : u8 (s.lane l).own 4 = (s.lane l).rate) (hl : l < 32)
    (hlimit : s.pressMax ≤ laneLimit s.par (s.lane l).slots (s.lane l).rate (s.primarySlots l)) : s.exchanged l = s.toActive l true := by
  unfold State.exchanged
  dsimp only
  rw [if_neg (Decidable.not_not.2 h), if_neg (Nat.not_le.2 hl), if_neg (Nat.not_lt.2 hlimit)]

/-! ### Spares (R247) -/

/-- A member that passes is noted, and the condition against it ends. -/
theorem memberPassed_law (s : State) (k m : Nat) : let t := s.memberPassed k m
    t.lanes = s.lanes ∧ t.links = s.links ∧ t.out = s.out ∧ t.params = s.params ∧ t.clk = s.clk ∧ OnLanes s t ∧
      t.spare k = { s.spare k with passed := put (s.spare k).passed m s.now, checking := none } :=
  ⟨rfl, rfl, rfl, rfl, rfl, lower_touched _ _ _, spare_setSpare_same _ _ _⟩

/-- With every other member passed, none is left open once the one selected has passed too. -/
theorem openMember_none {s t : State} {k v : Nat} (hpar : t.params = s.params)
    (hpassed : (t.spare k).passed = put (s.spare k).passed (s.spare k).sel v)
    (h : ∀ m, (s.members k).contains m = true → m ≠ (s.spare k).sel → (look (s.spare k).passed m).isSome = true) : t.openMember k = none := by
  have hmembers : t.members k = s.members k := by
    unfold State.members State.par
    rw [hpar]
  refine List.find?_eq_none.2 fun m hm => ?_
  rw [hmembers] at hm
  rw [hpassed, Bool.not_eq_true, Option.isNone_eq_false_iff]
  by_cases hsel : m = (s.spare k).sel
  · rw [hsel, look_put_same]
    rfl
  · rw [look_put_other _ _ _ _ hsel]
    exact h m (List.contains_iff_mem.2 hm) hsel

/-- Once every other member has passed, a spare that has come up with the one selected is SPARE_READY, and selects none. -/
theorem spareUp_ready {s : State} {k : Nat}
    (h : ∀ m, (s.members k).contains m = true → m ≠ (s.spare k).sel → (look (s.spare k).passed m).isSome = true) : let t := s.spareUp k
    (t.lane (32 + k)).state = 11 ∧ (t.lane (32 + k)).fails = 0 ∧
      t.spare k = { s.spare k with passed := put (s.spare k).passed (s.spare k).sel s.now, checking := none, checkAt := s.now } ∧
      t.out = .block (32 + k) (kBlock 0x84 (leB 1 0xFF)) :: s.out ∧ OnLanes s t := by
  obtain ⟨-, -, hout, hparams, hclk, hon, hspare⟩ := memberPassed_law s k (s.spare k).sel
  generalize hv : s.memberPassed k (s.spare k).sel = v at hout hparams hclk hon hspare
  have hnow : v.now = s.now := congrArg Clock.real hclk
  generalize hx : ({ v.lane (32 + k) with fails := 0, single := false } : Lane) = x
  have hopen : (v.setLane (32 + k) x).openMember k = none :=
    openMember_none hparams (congrArg Spare.passed hspare) h
  have hup : s.spareUp k = (((v.setLane (32 + k) x).setSpare k { v.spare k with checkAt := v.now }).setLane (32 + k)
      { x with state := 11, since := v.now }).emit (.block (32 + k) (kBlock 0x84 (leB 1 0xFF))) := by
    unfold State.spareUp
    dsimp only
    rw [hv, hx, hopen]
    dsimp only
    rw [lane_setSpare, lane_setLane_same]
    rfl
  dsimp only
  rw [hup]
  refine ⟨?_, ?_, ?_, congrArg _ hout, ?_⟩
  · rw [lane_emit, lane_setLane_same]
  · rw [lane_emit, lane_setLane_same, ← hx]
  · rw [spare_emit, spare_setLane, spare_setSpare_same, hspare, hnow]
  · unfold OnLanes at *
    unfold Touched at *
    rw [hon]
    rfl

/-- A primary that the exchange makes ACTIVE (R237, R242). -/
theorem toActive_active (s : State) (l : Nat) : let t := s.toActive l true
    (t.lane l).state = 6 ∧ (t.lane l).fails = 0 ∧ (t.lane l).rate = (s.lane l).rate ∧ (t.lane l).slots = (s.lane l).slots ∧
      (∀ i ∈ s.primarySlots l, (t.slotLink i).ltValid = false) ∧ (∀ k, k ≠ l → t.lane k = s.lane k) ∧ OnLanes s t := by
  obtain ⟨⟨_, _, _, _, _, _, hlane⟩, hothers, -, hinvalid, hframe⟩ := toActive_law s l true
  dsimp only
  rw [hlane]
  refine ⟨rfl, rfl, rfl, rfl, hinvalid rfl, hothers, onLanes_of _ _ ?_⟩
  rw [hframe]

/-! ### The second acknowledgement -/

section Completed

variable {dt : Nat} {lane : Fin 36} {block : Bytes} {s : State} (hack : (s.lane lane.val).acked block) (hstate : (s.lane lane.val).state = 5)
  (hacks : (s.lane lane.val).acks = 1)
include hack hstate hacks

/-- At a new rate both ends are retrained. -/
theorem capAck_retrains (hrate : u8 (s.lane lane.val).own 4 ≠ (s.lane lane.val).rate) : exec (.capAck dt lane block) s = .next { s.pass dt with
    lanes := put s.lanes lane.val (inTrain (s.lane lane.val) (s.pass dt).now (u8 (s.lane lane.val).own 4))
    out := .block lane.val (kBlock 0x85 (leB 1 (u8 (s.lane lane.val).own 4))) :: s.out } := by
  rw [capAck_completes hack hstate hacks, exchanged_retrains, lane_setLane_same, enterTrain_eq, lane_emit, lane_setLane_same]
  · rw [State.setLane, State.emit_lanes, State.setLane_lanes, put_put]
    rfl
  · rw [lane_setLane_same]
    exact hrate

/-- A primary too slow for the press is held in CAP, recorded. -/
theorem capAck_holds (hrate : u8 (s.lane lane.val).own 4 = (s.lane lane.val).rate) (hl : lane.val < 32)
    (hlimit : laneLimit s.par (s.lane lane.val).slots (s.lane lane.val).rate (s.primarySlots lane.val) < s.pressMax)
    (htakes : Takes s F.laneBudget lane.val idNone) : ∃ t, exec (.capAck dt lane block) s = .next t ∧
      Recorded ((s.pass dt).setLane lane.val { s.lane lane.val with
        held := true, acks := 0, farN := 0, retryAt := (s.pass dt).now + s.par P.linkLaneRetryMs * perMs }) t F.laneBudget lane.val idNone 0 := by
  have hexec := capAck_completes (dt := dt) hack hstate hacks
  rw [exchanged_holds (by rw [lane_setLane_same]; exact hrate) hl, lane_setLane_same, setLane_setLane] at hexec
  · exact ⟨_, hexec, hit_recorded _ _ _ _ _ (takes_frame s _ _ _ _ rfl rfl htakes)⟩
  · rw [lane_setLane_same, primarySlots_setLane]
    · exact hlimit
    · rfl
    · rfl

/-- Any other primary is ACTIVE, with no slot's link time valid yet. -/
theorem capAck_activates (hrate : u8 (s.lane lane.val).own 4 = (s.lane lane.val).rate) (hl : lane.val < 32)
    (hlimit : s.pressMax ≤ laneLimit s.par (s.lane lane.val).slots (s.lane lane.val).rate (s.primarySlots lane.val)) :
    ∃ t, exec (.capAck dt lane block) s = .next t ∧ (t.lane lane.val).state = 6 ∧ (t.lane lane.val).fails = 0 ∧
      (t.lane lane.val).rate = (s.lane lane.val).rate ∧ (t.lane lane.val).slots = (s.lane lane.val).slots ∧
      (∀ i ∈ s.primarySlots lane.val, (t.slotLink i).ltValid = false) ∧ (∀ k, k ≠ lane.val → t.lane k = s.lane k) ∧ OnLanes (s.pass dt) t := by
  have hexec := capAck_completes (dt := dt) hack hstate hacks
  generalize hy : ({ s.lane lane.val with acks := 2 } : Lane) = y at hexec
  obtain ⟨hown, hslots, hyrate⟩ : y.own = (s.lane lane.val).own ∧ y.slots = (s.lane lane.val).slots ∧ y.rate = (s.lane lane.val).rate := by
    rw [← hy]
    exact ⟨rfl, rfl, rfl⟩
  have hprimary : ((s.pass dt).setLane lane.val y).primarySlots lane.val = s.primarySlots lane.val :=
    primarySlots_setLane (s.pass dt) _ _ hslots hown
  rw [exchanged_activates (by rw [lane_setLane_same, hown, hyrate]; exact hrate) hl
    (by rw [lane_setLane_same, hprimary, hslots, hyrate]; exact hlimit)] at hexec
  obtain ⟨hactive, hfails, htrate, htslots, hinvalid, hothers, hon⟩ := toActive_active ((s.pass dt).setLane lane.val y) lane.val
  rw [lane_setLane_same, hyrate] at htrate
  rw [lane_setLane_same, hslots] at htslots
  rw [hprimary] at hinvalid
  refine ⟨_, hexec, hactive, hfails, htrate, htslots, hinvalid, fun k hk => ?_, hon.of_setLane⟩
  rw [hothers k hk, lane_setLane, if_neg hk]
  rfl

/-- A spare whose other members have all passed is SPARE_READY. -/
theorem capAck_readies {k : Nat} (hrate : u8 (s.lane lane.val).own 4 = (s.lane lane.val).rate) (hl : lane.val = 32 + k)
    (hpassed : ∀ m, (s.members k).contains m = true → m ≠ (s.spare k).sel → (look (s.spare k).passed m).isSome = true) :
    ∃ t, exec (.capAck dt lane block) s = .next t ∧ (t.lane lane.val).state = 11 ∧ (t.lane lane.val).fails = 0 ∧
      t.spare k = { s.spare k with passed := put (s.spare k).passed (s.spare k).sel (s.pass dt).now, checking := none, checkAt := (s.pass dt).now } ∧
      t.out = .block lane.val (kBlock 0x84 (leB 1 0xFF)) :: s.out ∧ OnLanes (s.pass dt) t := by
  have hk : lane.val - 32 = k := by omega
  have hexec := capAck_completes (dt := dt) hack hstate hacks
  rw [exchanged_spare (by rw [lane_setLane_same]; exact hrate) (by omega), hk] at hexec
  obtain ⟨hready, hfails, hspare, hout, hon⟩ :=
    spareUp_ready (s := (s.pass dt).setLane lane.val { s.lane lane.val with acks := 2 }) hpassed
  rw [← hl] at hready hfails hout
  exact ⟨_, hexec, hready, hfails, hspare, hout, hon.of_setLane⟩

end Completed

/-! ### The statement -/

/-- Settles O22: each row by what its event does; an acknowledgement by whether it is the first, and the second by where the exchange ends. -/
theorem lanesComeUp : Obligations.LanesComeUp := by
  unfold Obligations.LanesComeUp
  refine ⟨fun _ _ _ => laneDetectPoll_trains, fun _ _ _ _ => laneDetectPoll_selects, fun _ _ _ => laneAbsent_records, fun _ _ _ => bitLock_locks,
    fun _ _ _ => trainPeriodEnd_locked, ?period, fun _ _ _ => blockLock_locks, ?blockLock, ?firstCap, ?capPair, ?capFails, ?check, ?switch, ?firstAck,
    ?newRate, ?held, ?active, ?late, fun _ _ _ _ => retrain_trains, ?retry, ?again, ?spare⟩
  case period => exact fun dt lane ok s hstate hdue => ⟨_, trainPeriodEnd_fails hstate hdue, attempt_failed s dt lane.val⟩
  case blockLock => exact fun dt lane s hstate hdue => ⟨_, blockLockTimeout_fails hstate hdue, attempt_failed s dt lane.val⟩
  case late => exact fun dt lane s hstate hheld hdue => ⟨_, capTimeout_fails hstate hheld hdue, attempt_failed s dt lane.val⟩
  case firstCap =>
    intro dt lane block s x hgood hx hstate hheld hserved hnew
    subst hx
    rw [cap_exchanges hgood (by omega), capIn_first (s := s.pass dt) hstate hheld hserved hnew]
    rfl
  case capPair =>
    intro dt rate lane block s u x hgood hx hstate hheld hsame hone hu hrate
    subst hx hu
    rw [cap_exchanges hgood (by omega), capIn_second (s := s.pass dt) hstate hheld hsame hone, capPair_sends (rate := rate)]
    · rw [lane_setLane_same, State.setLane_lanes, put_put]
      rfl
    · rw [lane_setLane_same]
      exact hrate
  case capFails =>
    intro dt lane block s u x hgood hx hstate hheld hsame hone hu hrate htakes
    subst hx hu
    refine ⟨_, _, ?_, hit_recorded _ _ _ _ _ (takes_frame s _ _ _ _ rfl rfl htakes), attempt_failed' _ _⟩
    rw [cap_exchanges hgood (by omega), capIn_second (s := s.pass dt) hstate hheld hsame hone, capPair_fails]
    · rfl
    · rw [lane_setLane_same]
      exact hrate
  case check =>
    intro dt m lane block s hgood hl hready hfree hcheck
    obtain ⟨hlanes, -, -, -, -, hon, hspare⟩ :=
      memberPassed_law ((s.pass dt).setLane lane.val { s.lane lane.val with far := blockFields block }) (lane.val - 32) m
    refine ⟨_, cap_checks hgood hl hready hfree hcheck, ?_, hspare, hon.of_setLane⟩
    rw [State.lane, hlanes]
    exact lane_setLane_same _ _ _
  case switch => exact fun dt q l lane block s hgood hl hready hswitch hactive hfar hone => cap_serves hgood hl hready hswitch hactive hfar hone
  case firstAck =>
    intro dt lane block s x hgood hx hstate hfar hown hfields hacks
    subst hx
    exact capAck_first ⟨hgood, hfar, hown, hfields⟩ hstate hacks
  case retry =>
    intro dt lane s x hx hl hdue hstate
    subst hx
    exact laneRetry_trains hl hdue hstate
  case again =>
    intro dt lane s x hx hdue hstate hheld
    subst hx
    exact laneRetry_exchanges hdue hstate hheld
  case newRate =>
    intro dt lane block s x hgood hx hstate hfar hown hfields hacks hrate
    subst hx
    exact capAck_retrains ⟨hgood, hfar, hown, hfields⟩ hstate hacks hrate
  case held =>
    intro dt lane block s x hgood hx hl hstate hfar hown hfields hacks hrate hlimit htakes
    subst hx
    exact capAck_holds ⟨hgood, hfar, hown, hfields⟩ hstate hacks hrate hl hlimit htakes
  case active =>
    intro dt lane block s x hgood hx hl hstate hfar hown hfields hacks hrate hlimit
    subst hx
    exact capAck_activates ⟨hgood, hfar, hown, hfields⟩ hstate hacks hrate hl hlimit
  case spare =>
    intro dt k lane block s x hgood hx hl hstate hfar hown hfields hacks hrate hpassed
    subst hx
    exact capAck_readies ⟨hgood, hfar, hown, hfields⟩ hstate hacks hrate hl hpassed

end Sys2Proof.Machine
end

section
/-!
Lanes that are lost and what replaces them (R239, R244, R245, R247, R248, R250 to R252, R254, R256): lock lost and relocked, a lane DOWN and its spare, the checks
of a spare, header errors, and the end of a test.
-/
namespace Sys2Proof.Machine

/-! ### What hits leave of lanes and spares -/

/-- A lane is one of the records. -/
theorem lane_of_lanes {s t : State} (h : t.lanes = s.lanes) (l : Nat) : t.lane l = s.lane l := by
  unfold State.lane
  rw [h]

/-- A spare is one of the records. -/
theorem spare_of_spares {s t : State} (h : t.spares = s.spares) (k : Nat) : t.spare k = s.spare k := by
  unfold State.spare
  rw [h]

/-- Hits leave the lanes. -/
theorem Touched.lane {s t : State} (h : Touched s t) (l : Nat) : t.lane l = s.lane l :=
  lane_of_lanes (by rw [h]) l

/-- Hits leave the spares. -/
theorem Touched.spare {s t : State} (h : Touched s t) (k : Nat) : t.spare k = s.spare k :=
  spare_of_spares (by rw [h]) k

/-- What a source's hit leaves when the collector takes it. -/
theorem fault_recorded {s : State} {n a : Nat} (h : Takes s n a idNone) : Recorded s (s.fault n a) n a idNone 0 := hit_recorded s n a idNone 0 h

/-- It touches what hits touch. -/
theorem Takes.touched {s : State} {n a : Nat} (h : Takes s n a idNone) : Touched s (s.fault n a) := fault_touched s n a h.calm

/-! ### Lock lost and relocked (R244, R245) -/

section Rows

variable {dt : Nat} {lane : Fin 36} {s : State}

/-- An ACTIVE lane that loses lock is in RELOCK, its card read abandoned. -/
theorem lockLoss_relocks (hactive : (s.lane lane.val).state = 6) :
    exec (.lockLoss dt lane) s = .next ((s.pass dt).setLane lane.val { s.lane lane.val with
      state := 7, since := (s.pass dt).now, farN := 0, acks := 0, info := none, todo := [], echoAt := none, capable := none }) :=
  congrArg _ (if_pos hactive)

/-- In RELOCK two CAPs as before make the device send its own. -/
theorem capIn_relock {l : Nat} {p : Bytes} (hstate : (s.lane l).state = 7) (hsame : (s.lane l).far = p) (hone : (s.lane l).farN = 1) :
    s.capIn l p = (s.setLane l { s.lane l with farN := 2 }).sendCap l := by
  subst hsame
  unfold State.capIn
  dsimp only
  rw [beq_self_eq_true, hone, if_neg (by omega), if_pos ⟨hstate, rfl⟩, if_pos rfl]

/-- The second acknowledgement within its time brings the lane back. -/
theorem capAck_relocks {block : Bytes} (hack : (s.lane lane.val).acked block) (hstate : (s.lane lane.val).state = 7)
    (hopen : (s.pass dt).now ≤ (s.lane lane.val).since + s.par P.linkLaneRelockUs * perUs) (hacks : (s.lane lane.val).acks = 1) :
    exec (.capAck dt lane block) s = .next (((s.pass dt).setLane lane.val { s.lane lane.val with acks := 2 }).relocked lane.val) := by
  rw [capAck_counts hack (.inr ⟨hstate, hopen⟩), hacks]
  dsimp only
  rw [if_neg (by decide), if_pos hstate]

/-- A lane brought back is ACTIVE, counted and recorded; the slots keep their link time, and the other lanes and the spares stand. -/
theorem relocked_law (s : State) (l : Nat) (h : Takes s F.laneRelock l idNone) : let t := s.relocked l
    (t.lane l).state = 6 ∧ (t.lane l).relocks = sat 32 ((s.lane l).relocks + 1) ∧ (t.src F.laneRelock).sticky = true ∧
      (∀ k, k ≠ l → t.lane k = s.lane k) ∧ t.links = s.links ∧ t.spares = s.spares := by
  generalize hx : ({ s.lane l with relocks := sat 32 ((s.lane l).relocks + 1) } : Lane) = x
  obtain ⟨⟨_, _, _, _, _, _, hlane⟩, hothers, hlinks, -, hframe⟩ := toActive_law (s.setLane l x) l false
  generalize hu : (s.setLane l x).toActive l false = u at hlane hothers hlinks hframe
  have htakes : Takes u F.laneRelock l idNone := takes_frame s _ _ _ _ (by rw [hframe]; rfl) (by rw [hframe]; rfl) h
  obtain ⟨hsticky, -⟩ := fault_recorded htakes
  have htouch := htakes.touched
  obtain ⟨-, -, -, -, -, -, -, -, hspares', hlinks', -⟩ := htouch.fields
  obtain ⟨o, f, g, r, hresend⟩ := resend_law (u.fault F.laneRelock l) l
  have ht : s.relocked l = (u.fault F.laneRelock l).resend l := by rw [← hu, ← hx]; rfl
  have hlaneOf : ∀ k, ((u.fault F.laneRelock l).resend l).lane k = u.lane k := fun k => by
    rw [hresend]
    exact htouch.lane k
  dsimp only
  rw [ht]
  refine ⟨?_, ?_, ?_, fun k hk => ?_, ?_, ?_⟩
  · rw [hlaneOf, hlane]
  · rw [hlaneOf, hlane, lane_setLane_same, ← hx]
  · rw [hresend]
    exact hsticky
  · rw [hlaneOf, hothers k hk, lane_setLane, if_neg hk]
  · rw [hresend]
    exact hlinks'.trans (hlinks rfl)
  · rw [hresend]
    exact hspares'.trans (by rw [hframe]; rfl)

/-! ### A lane DOWN (R245, R248, R250) -/

/-- Once the relock time has passed the lane is DOWN. -/
theorem relockTimeout_downs (hstate : (s.lane lane.val).state = 7)
    (hlate : (s.lane lane.val).since + s.par P.linkLaneRelockUs * perUs < (s.pass dt).now) :
    exec (.relockTimeout dt lane) s = .next ((s.pass dt).laneDown lane.val) := by
  refine congrArg _ (if_pos ⟨hstate, ?_⟩)
  rw [State.relockOpen, Bool.not_eq_true', decide_eq_false_iff_not]
  exact Nat.not_le.2 hlate

/-- The lane as it goes DOWN, to try again after the retry time. -/
def State.downed (s : State) (l : Nat) : State :=
  s.setLane l { s.lane l with
    state := 8, since := s.now, fails := 0, single := false, capable := none, carry := false, retryAt := s.now + s.par P.linkLaneRetryMs * perMs }

/-- A primary that goes DOWN is recorded, and seeks its group's spare. -/
theorem laneDown_primary {l : Nat} (hl : l < 32) : s.laneDown l = ((s.downed l).fault F.laneDown l).seekSpare l := if_pos hl

/-- A spare that goes DOWN while it serves leaves its primary without one. -/
theorem laneDown_spare {l p : Nat} (hl : 32 ≤ l) (hp : (((s.downed l).fault F.laneDown l).spare (l - 32)).serving = some p) :
    s.laneDown l = let u := (s.downed l).fault F.laneDown l
      (u.setSpare (l - 32) { u.spare (l - 32) with serving := none, ret := none, switching := none }).fault F.laneNoSpare p := by
  show (if l < 32 then _ else _) = _
  rw [if_neg (Nat.not_lt.2 hl)]
  unfold State.downed at *
  rw [hp]

/-- A DOWN primary that no spare serves takes its group's ready spare. -/
theorem seekSpare_switches {l : Nat} (hserved : s.servedBy l = none) (hready : s.spareState (l / 8) = 1) (hfree : (s.spare (l / 8)).switching = none) :
    s.seekSpare l = s.beginSwitchTo (l / 8) l := by
  unfold State.seekSpare
  dsimp only
  rw [hserved, hready, hfree]
  rfl

/-- What a spare is depends on its lane, its record, the parameters and the time. -/
theorem spareState_congr {t : State} {k : Nat} (hlane : t.lane (32 + k) = s.lane (32 + k)) (hspare : t.spare k = s.spare k) (hparams : t.params = s.params)
    (hclk : t.clk = s.clk) : t.spareState k = s.spareState k := by
  have hpar : t.par = s.par := by unfold State.par; rw [hparams]
  have hnow : t.now = s.now := congrArg Clock.real hclk
  have hpassed : t.allPassed k = s.allPassed k := by
    unfold State.allPassed State.members
    rw [hspare, hpar, hnow]
  unfold State.spareState
  rw [hlane, hspare, hpassed]

/-- A primary whose relock fails is DOWN, recorded, and its group's ready spare takes over. -/
theorem relockTimeout_primary (hstate : (s.lane lane.val).state = 7)
    (hlate : (s.lane lane.val).since + s.par P.linkLaneRelockUs * perUs < (s.pass dt).now) (hl : lane.val < 32) (hserved : s.servedBy lane.val = none)
    (hready : (s.pass dt).spareState (lane.val / 8) = 1) (hfree : (s.spare (lane.val / 8)).switching = none) (h : Takes s F.laneDown lane.val idNone) :
    ∃ u, Recorded ((s.pass dt).downed lane.val) u F.laneDown lane.val idNone 0 ∧
      exec (.relockTimeout dt lane) s = .next (u.beginSwitchTo (lane.val / 8) lane.val) ∧ u.spare (lane.val / 8) = s.spare (lane.val / 8) ∧
      u.lane (32 + lane.val / 8) = s.lane (32 + lane.val / 8) := by
  have htakes : Takes ((s.pass dt).downed lane.val) F.laneDown lane.val idNone := takes_frame s _ _ _ _ rfl rfl h
  have hrec := fault_recorded htakes
  have htouch := htakes.touched
  have hexec := relockTimeout_downs hstate hlate
  rw [laneDown_primary hl] at hexec
  generalize ((s.pass dt).downed lane.val).fault F.laneDown lane.val = u at hexec hrec htouch
  obtain ⟨hparams, hclk, -⟩ := htouch.fields
  have hspareOf : ∀ k, u.spare k = s.spare k := htouch.spare
  have hspareLane : u.lane (32 + lane.val / 8) = s.lane (32 + lane.val / 8) := by
    rw [htouch.lane, State.downed, lane_setLane, if_neg (by omega)]
    rfl
  have hserved' : u.servedBy lane.val = none := by
    unfold State.servedBy at *
    simp only [hspareOf]
    exact hserved
  have hready' : u.spareState (lane.val / 8) = 1 :=
    (spareState_congr (s := s.pass dt) hspareLane (hspareOf _) hparams hclk).trans hready
  rw [seekSpare_switches hserved' hready' (by rw [hspareOf]; exact hfree)] at hexec
  exact ⟨u, hrec, hexec, hspareOf _, hspareLane⟩

/-- A spare whose relock fails while it serves is DOWN, recorded, and its primary has no spare. -/
theorem relockTimeout_spare {p : Nat} (hstate : (s.lane lane.val).state = 7)
    (hlate : (s.lane lane.val).since + s.par P.linkLaneRelockUs * perUs < (s.pass dt).now) (hl : 32 ≤ lane.val)
    (hserving : (s.spare (lane.val - 32)).serving = some p) (hdown : Takes s F.laneDown lane.val idNone) (hnone : Takes s F.laneNoSpare p idNone) :
    ∃ t u, exec (.relockTimeout dt lane) s = .next t ∧ Recorded ((s.pass dt).downed lane.val) u F.laneDown lane.val idNone 0 ∧
      (t.spare (lane.val - 32)).serving = none ∧ (t.src F.laneNoSpare).sticky = true := by
  have takes : ∀ n a, Takes s n a idNone → Takes ((s.pass dt).downed lane.val) n a idNone := fun n a h => takes_frame s _ _ _ _ rfl rfl h
  have hrec := fault_recorded (takes _ _ hdown)
  have htouch := (takes _ _ hdown).touched
  have hserving' : ((((s.pass dt).downed lane.val).fault F.laneDown lane.val).spare (lane.val - 32)).serving = some p := by
    rw [htouch.spare]
    exact hserving
  have hexec := relockTimeout_downs hstate hlate
  rw [laneDown_spare hl hserving'] at hexec
  dsimp only at hexec
  have htakes := takes_touched _ _ htouch _ _ _ (takes _ _ hnone)
  generalize ((s.pass dt).downed lane.val).fault F.laneDown lane.val = u at hexec hrec htakes
  generalize hv : u.setSpare (lane.val - 32) { u.spare (lane.val - 32) with serving := none, ret := none, switching := none } = v at hexec
  have htakes' : Takes v F.laneNoSpare p idNone := takes_frame u _ _ _ _ (by rw [← hv]; rfl) (by rw [← hv]; rfl) htakes
  obtain ⟨hsticky, -⟩ := fault_recorded htakes'
  refine ⟨_, u, hexec, hrec, ?_, hsticky⟩
  rw [htakes'.touched.spare, ← hv, spare_setSpare_same]

/-! ### Spares (R247, R248, R251) -/

/-- A switch that has not delivered in its time is recorded and undone. -/
theorem spareSwitchTimeout_undoes {q : Nat} {spare : Fin 4} (hswitch : (s.spare spare.val).switching = some q) (hlate : q + trainTime ≤ (s.pass dt).now) :
    exec (.spareSwitchTimeout dt spare) s =
      let u := (s.pass dt).fault F.spareFail (s.switchOf spare.val)
      let x := u.lane (32 + spare.val)
      .next ((u.setSpare spare.val { u.spare spare.val with switching := none, serving := none, ret := none }).setLane (32 + spare.val)
        { x with state := if x.state = 6 then 11 else x.state, carry := false, info := none, todo := [] }) := by
  show execSpareSwitchTimeout dt spare s = _
  unfold execSpareSwitchTimeout
  dsimp only
  rw [spare_pass, hswitch]
  dsimp only
  rw [if_neg (Nat.not_lt.2 hlate)]
  rfl

/-- The spare has selected the member it checks and asked for its CAP. -/
def State.askMember (s : State) (k m : Nat) : State :=
  { s with
    spares := put s.spares k { s.spare k with sel := m, checking := some m, checkAt := s.now }
    out := .block (32 + k) (kBlock 0x87 (leB 1 m)) :: .ksSel k m :: s.out }

/-- A SPARE_READY spare checks its next member when a check is due, with the echo that measures the member's delay. -/
theorem spareCheck_asks {m : Nat} {spare : Fin 4} (hready : (s.lane (32 + spare.val)).state = 11) (hserving : (s.spare spare.val).serving = none)
    (hfree : (s.spare spare.val).switching = none) (hdue : (s.spare spare.val).checkAt + s.par (P.linkSpareCheckMs spare.val) * perMs ≤ (s.pass dt).now)
    (hnext : s.nextMember spare.val ((s.spare spare.val).sel + 1) = some m) :
    exec (.spareCheck dt spare) s = .next (((s.pass dt).askMember spare.val m).sendLinkTime (32 + spare.val) true (some m)) := by
  have hnext' : (s.pass dt).nextMember spare.val ((s.spare spare.val).sel + 1) = some m := hnext
  have hselected : ((s.pass dt).ksSel spare.val m).spare spare.val = { s.spare spare.val with sel := m } := sel_put_same _ _ _ _
  show execSpareCheck dt spare s = _
  unfold execSpareCheck
  dsimp only
  rw [spare_pass, if_neg, hnext']
  · dsimp only
    rw [hselected, ksSel_eq, State.setSpare, put_put]
    rfl
  · rintro (hother | hserves | hswitches | hearly)
    · exact hother hready
    · simp [hserving] at hserves
    · simp [hfree] at hswitches
    · exact absurd hdue (Nat.not_le.2 hearly)

/-- What a check leaves of the spare and the outputs. -/
theorem askMember_echo (s : State) (k m : Nat) : let t := (s.askMember k m).sendLinkTime (32 + k) true (some m)
    (t.spare k).sel = m ∧ (t.spare k).checking = some m ∧
      (∃ b, t.out = .block (32 + k) b :: .block (32 + k) (kBlock 0x87 (leB 1 m)) :: .ksSel k m :: s.out) ∧ OnLanes s t := by
  have hspare : ((s.askMember k m).sendLinkTime (32 + k) true (some m)).spare k = { s.spare k with sel := m, checking := some m, checkAt := s.now } :=
    sel_put_same _ _ _ _
  dsimp only
  rw [hspare]
  exact ⟨rfl, rfl, ⟨_, rfl⟩, onLanes_of _ _ rfl⟩

/-- A check without an answer takes the member's pass away, and SPARE_NOT_READY begins. -/
theorem spareCheckTimeout_fails {m : Nat} {spare : Fin 4} (hcheck : (s.spare spare.val).checking = some m)
    (hlate : (s.spare spare.val).checkAt + 20 * perUs ≤ (s.pass dt).now) (h : Takes s F.spareNotReady (8 * spare.val + m) idNone)
    (hnew : (s.src F.spareNotReady).conds.contains (BitVec.ofNat 32 (8 * spare.val + m)) = false) : ∃ t, exec (.spareCheckTimeout dt spare) s = .next t ∧
      Recorded ((s.pass dt).setSpare spare.val { s.spare spare.val with checking := none, passed := cut (s.spare spare.val).passed m }) t
        F.spareNotReady (8 * spare.val + m) idNone 0 := by
  generalize hu : (s.pass dt).setSpare spare.val { s.spare spare.val with checking := none, passed := cut (s.spare spare.val).passed m } = u
  have hexec : exec (.spareCheckTimeout dt spare) s = .next (u.raise F.spareNotReady (8 * spare.val + m)) := by
    show execSpareCheckTimeout dt spare s = _
    unfold execSpareCheckTimeout
    dsimp only
    rw [spare_pass, hcheck]
    dsimp only
    rw [if_neg (Nat.not_lt.2 hlate), hu]
  have hnew' : (u.src F.spareNotReady).conds.contains (BitVec.ofNat 32 (8 * spare.val + m)) = false := by subst hu; exact hnew
  rw [raise_new hnew'] at hexec
  exact ⟨_, hexec, hit_recorded _ _ _ _ _ (takes_frame s _ _ _ _ (by subst hu; rfl) (by subst hu; rfl) h)⟩

/-- The return begins by itself once the primary has been ACTIVE-capable for `return_s`. -/
theorem spareAutoReturn_begins {k q : Nat} (hret : s.mayReturn lane.val = some k) (hcapable : (s.lane lane.val).capable = some q)
    (hauto : s.par P.linkSpareAutoReturn = 1) (hdue : q + s.par P.linkSpareReturnS * perSecond ≤ (s.pass dt).now) :
    exec (.spareAutoReturn dt lane) s = .next ((s.pass dt).beginReturn k lane.val).1 := by
  have hret' : (s.pass dt).mayReturn lane.val = some k := hret
  show execSpareAutoReturn dt lane s = _
  unfold execSpareAutoReturn
  dsimp only
  rw [hret', lane_pass, hcapable]
  exact congrArg _ (if_pos ⟨hauto, hdue⟩)

/-! ### Header errors and the end of a test (R239, R252, R254, R256) -/

/-- The errors counted in the present second, and when it began. -/
def State.headerSecond (s : State) (x : Lane) : Nat × Nat := if x.hdrAt + perSecond ≤ s.now then (0, s.now) else (x.hdrN, x.hdrAt)

/-- Header errors of an ACTIVE lane are counted; LANE_HDR_ERR comes when a second's count passes the limit. -/
theorem laneHdrErr_counts {errs : Nat} (hactive : (s.lane lane.val).state = 6) : exec (.laneHdrErr dt lane errs) s =
    let r := (s.pass dt).headerSecond (s.lane lane.val)
    let u := (s.pass dt).setLane lane.val { s.lane lane.val with
      hdrErr := sat 32 ((s.lane lane.val).hdrErr + errs), hdrN := r.1 + errs, hdrAt := r.2 }
    .next (if r.1 ≤ s.par P.linkLaneHdrErrLimit ∧ s.par P.linkLaneHdrErrLimit < r.1 + errs then u.fault F.laneHdrErr lane.val else u) := by
  show execLaneHdrErr dt lane errs s = _
  unfold execLaneHdrErr State.headerSecond
  dsimp only
  rw [lane_pass, if_neg (Decidable.not_not.2 hactive)]
  by_cases hfresh : (s.lane lane.val).hdrAt + perSecond ≤ (s.pass dt).now
  · simp only [hfresh, decide_true, if_true]
    rfl
  · simp only [hfresh, decide_false, if_false]
    rfl

/-- A test whose time is over ends in TRAIN at rate 0, its bits taken up and its injected errors counted. -/
theorem laneTestEnd_trains {rx : List Bool} {e : LaneTest} (hstate : (s.lane lane.val).state = 10) (htest : (s.lane lane.val).test = some e)
    (hhere : e.here = true) (hend : e.ends ≤ (s.pass dt).now) : let z := (e.taken (s.lane lane.val) rx).1
    exec (.laneTestEnd dt lane rx) s = .next ((s.pass dt).setLane lane.val
      (inTrain { z with injected := sat 32 (z.injected + (s.pass dt).periodic lane.val e), fails := 0, single := false } (s.pass dt).now 0)) := by
  obtain ⟨hlane, hwrite, hperiodic⟩ := seeTest_law s dt lane.val rx e htest hhere
  show execLaneTestEnd dt lane rx s = _
  unfold execLaneTestEnd
  dsimp only
  rw [lane_pass, htest]
  dsimp only
  rw [if_neg (by omega), hwrite, hperiodic, hlane, enterTrain_eq, lane_setLane_same, setLane_setLane]
  rfl

end Rows

/-! ### The statement -/

/-- Settles O23: lock lost and relocked by what brings a lane back, a lane DOWN by where its primary finds a spare, the other rows by what their event does. -/
theorem lanesAreLostAndReplaced : Obligations.LanesAreLostAndReplaced := by
  unfold Obligations.LanesAreLostAndReplaced
  refine ⟨fun _ _ _ => lockLoss_relocks, ?cap, ?back, ?down, ?spareDown, ?undone, ?check, ?noAnswer, ?autoReturn, ?headers, ?testEnd, ?report⟩
  case cap =>
    intro dt lane block s x hgood hx hstate hsame hone
    subst hx
    rw [cap_exchanges hgood (by omega), capIn_relock (s := s.pass dt) hstate hsame hone, State.sendCap, lane_setLane_same]
    rfl
  case back =>
    intro dt lane block s x hgood hx hstate hfar hown hfields hacks hopen htakes
    subst hx
    obtain ⟨hactive, hrelocks, hsticky, hothers, hlinks, hspares⟩ :=
      relocked_law ((s.pass dt).setLane lane.val { s.lane lane.val with acks := 2 }) lane.val (takes_frame s _ _ _ _ rfl rfl htakes)
    rw [lane_setLane_same] at hrelocks
    refine ⟨_, capAck_relocks ⟨hgood, hfar, hown, hfields⟩ hstate hopen hacks, hactive, hrelocks, hsticky, fun k hk => ?_, hlinks, hspares⟩
    rw [hothers k hk, lane_setLane, if_neg hk]
    rfl
  case down =>
    intro dt lane s x hx hstate hlate hl hserved hready hfree htakes
    subst hx
    obtain ⟨u, hrec, hexec, hspare, hlane⟩ := relockTimeout_primary hstate hlate hl hserved hready hfree htakes
    refine ⟨_, u, hexec, hrec, ?_⟩
    rw [beginSwitchTo_eq, hspare, hlane]
  case spareDown =>
    intro dt p lane s x hx hstate hlate hl hserving hdown hnone
    subst hx
    exact relockTimeout_spare hstate hlate hl hserving hdown hnone
  case undone =>
    intro dt q l k spare s hk hswitch hlate hl htakes
    subst hk hl
    have htouch := (takes_frame s (s.pass dt) _ _ _ rfl rfl htakes).touched
    refine ⟨_, _, spareSwitchTimeout_undoes hswitch hlate, pass_fault_recorded s dt _ _ htakes, ?_⟩
    rw [htouch.lane, htouch.spare]
    rfl
  case check =>
    intro dt k m spare s hk hready hserving hfree hdue hnext
    subst hk
    obtain ⟨hsel, hchecking, ⟨b, hout⟩, hon⟩ := askMember_echo (s.pass dt) spare.val m
    exact ⟨_, b, spareCheck_asks hready hserving hfree hdue hnext, hsel, hchecking, hout, hon⟩
  case noAnswer =>
    intro dt k m spare s hk hcheck hlate htakes hnew
    subst hk
    exact spareCheckTimeout_fails hcheck hlate htakes hnew
  case autoReturn =>
    intro dt l k q lane s hl hserved hactive hcapable hret hauto hdue htakes
    subst hl
    have hmay := mayReturn_served hserved hactive (by rw [hcapable]; exact Option.some_ne_none q) hret
    exact ⟨_, spareAutoReturn_begins hmay hcapable hauto hdue, beginReturn_recorded dt k _ htakes⟩
  case headers =>
    intro dt errs was at_ lane s u hactive hsecond hu
    obtain rfl : was = ((s.pass dt).headerSecond (s.lane lane.val)).1 := congrArg Prod.fst hsecond
    obtain rfl : at_ = ((s.pass dt).headerSecond (s.lane lane.val)).2 := congrArg Prod.snd hsecond
    subst hu
    refine ⟨fun hfew => ?_, fun hbelow habove htakes => ⟨_, ?_, fault_recorded (takes_frame s _ _ _ _ rfl rfl htakes)⟩⟩
    · rw [laneHdrErr_counts hactive]
      dsimp only
      rw [if_neg (by omega)]
    · rw [laneHdrErr_counts hactive]
      dsimp only
      rw [if_pos ⟨hbelow, habove⟩]
  case testEnd =>
    intro dt lane rx s x z e k hx htest hstate hend hhere hz
    subst hx
    obtain rfl : z = (e.taken (s.lane lane.val) rx).1 := congrArg Prod.fst hz
    exact laneTestEnd_trains hstate htest hhere hend
  case report => exact fun dt lane block s hgood => congrArg _ (if_pos hgood)

end Sys2Proof.Machine
end

section
/-!
A head card is read chunk by chunk (R260, R280 to R283, R292): what an INFO_DATA or a timeout does to the read under way, and what the end of a read leaves of
the slot's card and of the refreshes that wait for it.
-/
namespace Sys2Proof.Machine

/-! ### What a recorded hit leaves -/

/-- A recorded hit sets the sticky bit, is counted, and touches what hits touch. -/
theorem Recorded.counts {s t : State} {n a master access : Nat} (h : Recorded s t n a master access) :
    (t.src n).sticky = true ∧ (t.src n).hits = sat 16 ((s.src n).hits + 1) ∧ Touched s t := by
  obtain ⟨hsticky, hhits, -, -, -, -, -, -, -, -, -, htouch⟩ := h
  exact ⟨hsticky, hhits, htouch⟩

/-- Hits leave what LINK holds of the slots. -/
theorem Touched.links {s t : State} (h : Touched s t) : t.links = s.links := by rw [h]

/-- Hits leave the lanes' records. -/
theorem Touched.lanes {s t : State} (h : Touched s t) : t.lanes = s.lanes := by rw [h]

/-! ### Refreshes (R292) -/

/-- A refresh that ends with none waiting leaves the slot just written. -/
theorem finishRefresh_written {t : State} {m : SMap SlotLink} {i : Nat} {x : SlotLink} (hlinks : t.links = put m i x) (hidle : x.refresh = []) :
    t.finishRefresh i = t := by
  have hlink : t.slotLink i = x := by unfold State.slotLink; rw [hlinks, sel_put_same]
  rw [finish_nil t i (by rw [hlink]; exact hidle), hlink, hlinks, put_put, ← hlinks]

/-- A refresh that ends with none waiting leaves what LINK holds of every slot. -/
theorem slotLink_finishRefresh_idle {t : State} {i : Nat} (hidle : (t.slotLink i).refresh = []) (k : Nat) :
    (t.finishRefresh i).slotLink k = t.slotLink k := by
  rw [finish_nil t i hidle]
  refine (link_setLink t i k (t.slotLink i)).trans ?_
  split
  · next h => rw [h]
  · rfl

/-- A refresh that waits for the slot completes with its `card_valid`. -/
theorem finishRefresh_posts (i : Nat) (w : Sess) (seq : BitVec 32) (s : State) (p : Pend) (hwait : (s.slotLink i).refresh = [(w, seq)])
    (hp : s.pend? w seq = some p) (hcq : ∃ q, (s.ses w).cq = some q) :
    Posted { s with links := put s.links i { s.slotLink i with refresh := [] } } (s.finishRefresh i) p St.ok i (s.slotLink i).valid 0 := by
  obtain ⟨q, hq⟩ := hcq
  generalize hu : s.setLink i { s.slotLink i with refresh := [] } = u
  have hpend : u.pend? w seq = some p := by rw [← hu]; exact hp
  have hfinish : s.finishRefresh i = u.completeObj p St.ok i (s.slotLink i).valid 0 := by
    unfold State.finishRefresh
    dsimp only
    rw [hwait, hu, List.foldl_cons, List.foldl_nil]
    dsimp only
    rw [hpend]
  have hqueue : (u.ses p.who).cq = some q := by rw [(pend_who s w seq p hp).1, ← hu]; cases w <;> exact hq
  have hposted := completeObj_posted u p q St.ok i (s.slotLink i).valid 0 hqueue
  rw [hfinish]
  subst hu
  exact hposted

/-! ### A whole card (R283) -/

/-- What LINK holds of a slot whose card has been read. -/
def SlotLink.carded (x : SlotLink) (b : Bytes) : SlotLink := { x with card := some b, valid := cardValid b }

/-- The first card of a slot, its checks all passed, is stored. -/
theorem cardRead_valid {s : State} {i : Nat} {b : Bytes} (hidle : (s.slotLink i).refresh = []) (hfirst : (s.slotLink i).card = none)
    (hvalid : cardValid b = 3) : s.cardRead i b = s.setLink i ((s.slotLink i).carded b) := by
  unfold State.cardRead
  dsimp only
  rw [hfirst, hvalid]
  dsimp only
  rw [if_neg (fun h => h rfl), if_neg Bool.false_ne_true, SlotLink.carded, hvalid]
  exact finishRefresh_written (m := s.links) (x := { s.slotLink i with card := some b, valid := 3 }) rfl hidle

/-- A card that fails a check is stored all the same, and recorded. -/
theorem cardRead_bad {s : State} {i : Nat} {b : Bytes} (hidle : (s.slotLink i).refresh = []) (hbad : cardValid b ≠ 3)
    (h : Takes s F.headCardBad i idNone) : s.cardRead i b = (s.setLink i ((s.slotLink i).carded b)).fault F.headCardBad i := by
  have htakes : Takes (s.setLink i ((s.slotLink i).carded b)) F.headCardBad i idNone := takes_frame s _ _ _ _ rfl rfl h
  unfold State.cardRead
  dsimp only
  rw [if_pos hbad]
  exact finishRefresh_written (m := s.links) (x := (s.slotLink i).carded b) htakes.touched.links hidle

/-! ### The read of a lane (R280, R281) -/

/-- A lane whose read has ended. -/
def State.infoDone (s : State) (l : Nat) : State := s.setLane l { s.lane l with info := none }

/-- The end of a read leaves where the lane's slots begin. -/
theorem slotOn_infoDone (s : State) {l j i : Nat} (hl : l < 32) (hi : i = 20 * (l / 4) + s.firstSlot l + j) : (s.infoDone l).slotOn l j = some i := by
  have hfirst : (s.infoDone l).firstSlot l = s.firstSlot l := by
    unfold State.firstSlot State.infoDone
    rw [lane_setLane_same]
    rfl
  rw [slotOn_eq _ _ _ hl, hfirst, hi]

/-- Once its read has ended, a lane that nothing waits for starts no other, whatever was done to the slot in between. -/
theorem startInfo_infoDone {s t : State} {l : Nat} (hlanes : t.lanes = (s.infoDone l).lanes) (htodo : (s.lane l).todo = []) : t.startInfo l = t := by
  refine startInfo_none t l ?_
  rw [lane_of_lanes hlanes, State.infoDone, lane_setLane_same]
  exact htodo

section Read

variable {s : State} {l i : Nat} {r : InfoRead} {data : Bytes}

/-- A chunk before the eighth leads to the next one's read. -/
theorem infoChunk_next (hagain : r.again = false) (hchunk : r.chunk < 7) :
    s.infoChunk l r data = s.sendInfo l { r with chunk := r.chunk + 1, tries := 0, buf := r.buf ++ data } := by
  unfold State.infoChunk
  dsimp only
  rw [hagain, if_neg Bool.false_ne_true, if_pos hchunk]

/-- The eighth chunk makes the card of the slot. -/
theorem infoChunk_last (hagain : r.again = false) (hchunk : r.chunk = 7) (hl : l < 32) (hi : i = 20 * (l / 4) + s.firstSlot l + r.j) :
    s.infoChunk l r data = ((s.infoDone l).cardRead i (r.buf ++ data)).startInfo l := by
  unfold State.infoChunk
  dsimp only
  rw [hagain, if_neg Bool.false_ne_true, if_neg (by omega), ← State.infoDone, slotOn_infoDone s hl hi]

/-- A failed read of a card asked for anew restarts at its first chunk. -/
theorem infoFails_restarts (hagain : r.again = true) : s.infoFails l r = s.sendInfo l { j := r.j } := if_pos hagain

/-- The first two failures repeat the chunk's read. -/
theorem infoFails_repeats (hagain : r.again = false) (htries : r.tries < 2) : s.infoFails l r = s.sendInfo l { r with tries := r.tries + 1 } := by
  unfold State.infoFails
  rw [hagain, if_neg Bool.false_ne_true, if_pos (by omega)]

/-- The third abandons the read, and is recorded. -/
theorem infoFails_abandons (hagain : r.again = false) (htries : 2 ≤ r.tries) (hl : l < 32) (hi : i = 20 * (l / 4) + s.firstSlot l + r.j) :
    s.infoFails l r = (((s.infoDone l).fault F.headInfoTimeout i).finishRefresh i).startInfo l := by
  unfold State.infoFails
  dsimp only
  rw [hagain, if_neg Bool.false_ne_true, if_neg (by omega), ← State.infoDone, slotOn_infoDone s hl hi]

end Read

/-! ### INFO_DATA (R260, R280, R283) -/

/-- An INFO_DATA brings the whole chunk that the read is at. -/
def InfoRead.BroughtBy (r : InfoRead) (block data : Bytes) : Prop :=
  goodBlock block 0x97 = true ∧ u8 block 1 = r.j ∧ r.j < 8 ∧ u8 block 6 = 0 ∧ u8 block 2 = r.tag.toNat ∧ u8 block 3 = r.chunk ∧ data.length = 32 ∧
    crc16 data = beN (slice block 4 2)

section Rows

variable {dt i : Nat} {lane : Fin 36} {block data : Bytes} {s : State} {r : InfoRead}

/-- Such an answer is taken for the read under way. -/
theorem infoData_taken (h : r.BroughtBy block data) (hread : (s.lane lane.val).info = some r) :
    exec (.infoData dt lane block data) s = .next ((s.pass dt).infoChunk lane.val r data) := by
  obtain ⟨hgood, hj, hj8, hzero, htag, hchunk, hlen, hcrc⟩ := h
  have hstatus : u8 block 1 / 16 = 0 := by omega
  have hpos : u8 block 1 % 8 = r.j := by omega
  have hbit : bit (u8 block 1) 3 = false := by rw [bit, beq_eq_false_iff_ne]; omega
  show execInfoData dt lane block data s = _
  unfold execInfoData
  dsimp only
  rw [if_neg (by simp [hgood, hbit, hzero]), lane_pass, hread]
  dsimp only
  rw [if_neg (by simp [hstatus, hpos, htag, hchunk, hlen, hcrc, cardField]), if_pos hstatus]

/-- A chunk before the eighth leads to the next one's read. -/
theorem infoData_next {tag : BitVec 8} (h : r.BroughtBy block data) (hread : (s.lane lane.val).info = some r) (hagain : r.again = false)
    (hchunk : r.chunk < 7) (htag : tag = BitVec.ofNat 8 (Config.value s.free)) :
    exec (.infoData dt lane block data) s = .next { s.pass dt with
      lanes := put s.lanes lane.val { s.lane lane.val with info := some { r with chunk := r.chunk + 1, tries := 0, tag := tag, sentAt := (s.pass dt).now, buf := r.buf ++ data } }
      out := .block lane.val (infoReadBlock r.j tag (r.chunk + 1)) :: s.out
      free := s.free + 1 } := by
  subst htag
  rw [infoData_taken h hread, infoChunk_next hagain hchunk, sendInfo_eq']
  rfl

/-- The eighth stores the slot's first card, its checks all passed. -/
theorem infoData_stores (h : r.BroughtBy block data) (hread : (s.lane lane.val).info = some r) (hagain : r.again = false) (hchunk : r.chunk = 7)
    (htodo : (s.lane lane.val).todo = []) (hl : lane.val < 32) (hi : i = 20 * (lane.val / 4) + s.firstSlot lane.val + r.j)
    (hidle : (s.slotLink i).refresh = []) (hfirst : (s.slotLink i).card = none) (hvalid : cardValid (r.buf ++ data) = 3) :
    exec (.infoData dt lane block data) s = .next { s.pass dt with
      lanes := put s.lanes lane.val { s.lane lane.val with info := none }
      links := put s.links i { s.slotLink i with card := some (r.buf ++ data), valid := 3 } } := by
  have hcard : ((s.pass dt).infoDone lane.val).cardRead i (r.buf ++ data) =
      ((s.pass dt).infoDone lane.val).setLink i ((s.slotLink i).carded (r.buf ++ data)) := cardRead_valid hidle hfirst hvalid
  have hstart := startInfo_infoDone (s := s.pass dt) (t := ((s.pass dt).infoDone lane.val).setLink i ((s.slotLink i).carded (r.buf ++ data))) rfl htodo
  rw [infoData_taken h hread, infoChunk_last (s := s.pass dt) hagain hchunk hl hi, hcard, hstart, SlotLink.carded, hvalid]
  rfl

/-- The eighth stores a card that fails a check too, and the failure is recorded. -/
theorem infoData_storesBad (h : r.BroughtBy block data) (hread : (s.lane lane.val).info = some r) (hagain : r.again = false) (hchunk : r.chunk = 7)
    (htodo : (s.lane lane.val).todo = []) (hl : lane.val < 32) (hi : i = 20 * (lane.val / 4) + s.firstSlot lane.val + r.j)
    (hidle : (s.slotLink i).refresh = []) (hbad : cardValid (r.buf ++ data) ≠ 3) (htakes : Takes s F.headCardBad i idNone) :
    ∃ t u, exec (.infoData dt lane block data) s = .next t ∧
      u = ((s.pass dt).infoDone lane.val).setLink i ((s.slotLink i).carded (r.buf ++ data)) ∧ Recorded u t F.headCardBad i idNone 0 := by
  generalize hu : ((s.pass dt).infoDone lane.val).setLink i ((s.slotLink i).carded (r.buf ++ data)) = u
  have htaken : Takes u F.headCardBad i idNone := takes_frame s _ _ _ _ (by rw [← hu]; rfl) (by rw [← hu]; rfl) htakes
  have hcard : ((s.pass dt).infoDone lane.val).cardRead i (r.buf ++ data) = u.fault F.headCardBad i := by
    rw [← hu]
    exact cardRead_bad hidle hbad (takes_frame s _ _ _ _ rfl rfl htakes)
  have hlanes : (u.fault F.headCardBad i).lanes = ((s.pass dt).infoDone lane.val).lanes := htaken.touched.lanes.trans (by rw [← hu]; rfl)
  refine ⟨_, _, ?_, rfl, fault_recorded htaken⟩
  rw [infoData_taken h hread, infoChunk_last (s := s.pass dt) hagain hchunk hl hi, hcard, startInfo_infoDone hlanes htodo]

/-- A block that is bad, or whose reserved bits are not zero, is counted and recorded (R260). -/
theorem infoData_bad (hbad : goodBlock block 0x97 = false ∨ bit (u8 block 1) 3 = true ∨ u8 block 6 ≠ 0) (htakes : Takes s F.upstreamBad lane.val idNone) :
    ∃ t, exec (.infoData dt lane block data) s = .next t ∧
      Recorded ((s.pass dt).setLane lane.val { s.lane lane.val with upBad := sat 32 ((s.lane lane.val).upBad + 1) }) t F.upstreamBad lane.val idNone 0 := by
  have hexec : exec (.infoData dt lane block data) s = .next ((s.pass dt).badUpstream lane.val) := by
    refine if_pos ?_
    simpa using hbad
  exact ⟨_, hexec, fault_recorded (takes_frame s _ _ _ _ rfl rfl htakes)⟩

/-! ### INFO_TIMEOUT (R281) -/

/-- Within its time a read goes on. -/
theorem infoTimeout_early (hread : (s.lane lane.val).info = some r) (hearly : (s.pass dt).now < r.sentAt + s.par P.linkHeadInfoTimeoutUs * perUs) :
    exec (.infoTimeout dt lane) s = .next (s.pass dt) := by
  show execInfoTimeout dt lane s = _
  unfold execInfoTimeout
  dsimp only
  rw [lane_pass, hread]
  exact congrArg _ (if_pos hearly)

/-- After it the read has failed. -/
theorem infoTimeout_fails (hread : (s.lane lane.val).info = some r) (hlate : r.sentAt + s.par P.linkHeadInfoTimeoutUs * perUs ≤ (s.pass dt).now) :
    exec (.infoTimeout dt lane) s = .next ((s.pass dt).infoFails lane.val r) := by
  show execInfoTimeout dt lane s = _
  unfold execInfoTimeout
  dsimp only
  rw [lane_pass, hread]
  exact congrArg _ (if_neg (Nat.not_lt.2 hlate))

/-- The third failure of a chunk abandons the read and is recorded; what LINK holds of every slot stands. -/
theorem infoTimeout_abandons (hread : (s.lane lane.val).info = some r) (hagain : r.again = false)
    (hlate : r.sentAt + s.par P.linkHeadInfoTimeoutUs * perUs ≤ (s.pass dt).now) (htries : 2 ≤ r.tries) (htodo : (s.lane lane.val).todo = [])
    (hl : lane.val < 32) (hi : i = 20 * (lane.val / 4) + s.firstSlot lane.val + r.j) (hidle : (s.slotLink i).refresh = [])
    (htakes : Takes s F.headInfoTimeout i idNone) :
    ∃ t u, exec (.infoTimeout dt lane) s = .next t ∧ u = (s.pass dt).infoDone lane.val ∧ (t.src F.headInfoTimeout).sticky = true ∧
      (t.src F.headInfoTimeout).hits = sat 16 ((s.src F.headInfoTimeout).hits + 1) ∧ Touched { u with links := t.links } t ∧
      ∀ k, t.slotLink k = s.slotLink k := by
  have htaken : Takes ((s.pass dt).infoDone lane.val) F.headInfoTimeout i idNone := takes_frame s _ _ _ _ rfl rfl htakes
  obtain ⟨hsticky, hhits, htouch⟩ := (fault_recorded htaken).counts
  have hrow := infoTimeout_fails hread hlate
  rw [infoFails_abandons (s := s.pass dt) hagain htries hl hi] at hrow
  generalize ((s.pass dt).infoDone lane.val).fault F.headInfoTimeout i = v at hsticky hhits htouch hrow
  have hlink : ∀ k, v.slotLink k = s.slotLink k := slotLink_of_links htouch.links
  have hidle' : (v.slotLink i).refresh = [] := by rw [hlink]; exact hidle
  have hfinish := finish_nil v i hidle'
  have hstart : (v.finishRefresh i).startInfo lane.val = v.finishRefresh i :=
    startInfo_infoDone (s := s.pass dt) (by rw [hfinish]; exact htouch.lanes) htodo
  rw [hstart] at hrow
  refine ⟨_, _, hrow, rfl, ?_, ?_, ?_, fun k => (slotLink_finishRefresh_idle hidle' k).trans (hlink k)⟩
  · rw [hfinish]
    exact hsticky
  · rw [hfinish]
    exact hhits
  · rw [hfinish]
    unfold Touched at *
    rw [htouch]

end Rows

/-- Settles O27: a whole chunk by what it makes of the read, the third failure and a bad card by their hit, a refresh by the entry it posts. -/
theorem headCardsAreRead : Obligations.HeadCardsAreRead := by
  unfold Obligations.HeadCardsAreRead
  refine ⟨?next, ?stores, ?storesBad, ?repeats, ?abandons, ?waits, fun _ _ _ _ _ => infoData_bad, finishRefresh_posts⟩
  case next =>
    intro dt lane block data s r tag hgood hj hj8 hzero hrtag hrchunk hlen hcrc hread hagain hchunk htag
    exact infoData_next ⟨hgood, hj, hj8, hzero, hrtag, hrchunk, hlen, hcrc⟩ hread hagain hchunk htag
  case stores =>
    intro dt i lane block data s r hgood hj hj8 hzero hrtag hrchunk hlen hcrc
    exact infoData_stores ⟨hgood, hj, hj8, hzero, hrtag, hrchunk, hlen, hcrc⟩
  case storesBad =>
    intro dt i lane block data s r hgood hj hj8 hzero hrtag hrchunk hlen hcrc hread hagain hchunk htodo hl hi hidle hbad htakes
    obtain ⟨t, u, hexec, hu, hrec⟩ :=
      infoData_storesBad (dt := dt) ⟨hgood, hj, hj8, hzero, hrtag, hrchunk, hlen, hcrc⟩ hread hagain hchunk htodo hl hi hidle hbad htakes
    obtain ⟨hsticky, hhits, htouch⟩ := hrec.counts
    subst hu
    exact ⟨t, _, hexec, rfl, hsticky, hhits, htouch.links, htouch⟩
  case repeats =>
    intro dt lane s r tag hread hagain hlate htries htag
    subst htag
    rw [infoTimeout_fails hread hlate, infoFails_repeats hagain htries, sendInfo_eq']
    rfl
  case abandons => exact fun _ _ _ _ _ => infoTimeout_abandons
  case waits =>
    intro dt lane s r tag hread htag
    subst htag
    refine ⟨infoTimeout_early hread, fun hlate hagain => ?_⟩
    rw [infoTimeout_fails hread hlate, infoFails_restarts hagain, sendInfo_eq']
    rfl

end Sys2Proof.Machine
end

section
/-!
The sensors (R290, R473 to R476, R508, R518, R535): DIAG sensors, the conversion of temperatures and monitors with their hits, board sensors, the temperatures
of legacy slots, and the core regulator.
-/
namespace Sys2Proof.Machine

/-! ### DIAG sensors (R535) -/

section Diag

variable {dt : Nat} {w : Sess} {s : State} {c : Cmd}

/-- Part 0 answers the on-die temperatures and monitors, and which of them are stale. -/
theorem diagSensors_onDie (h : Holds s w c 0x1004 4) (hk : s.pwr.kind ≠ 2) (hpart : u8 c.pay 0 = 0) (hz : fld c.pay 1 3 = 0) :
    ∃ t, exec (.diagSensors dt w) s = .next t ∧
      Answered (s.pass dt) t w c St.ok ((List.range 24).flatMap (fun i => leB 2 (unsigned 16 (sel s.mgmt.tj i 0))) ++
        (List.range 16).flatMap (fun i => leB 2 (sel s.mgmt.mv i 0)) ++
        leB 4 (maskOf ((List.range 24).filter (fun i => s.trimming || (look s.mgmt.tj i).isNone))) ++
        leB 4 (maskOf ((List.range 16).filter (fun i => s.trimming || (look s.mgmt.mv i).isNone)))) := by
  refine ⟨_, rfl, runCmd_answered (h.pass dt) ?_⟩
  dsimp only
  rw [h.plain, need_ok _ _ _ _ (decide_eq_true ⟨by omega, hz⟩), vet_ok (s.pass dt) _ hk, if_pos hpart]
  rfl

/-- Parts 1 and 2 answer 32 board sensors each. -/
theorem diagSensors_boards {n : Nat} (h : Holds s w c 0x1004 4) (hk : s.pwr.kind ≠ 2) (hpart : u8 c.pay 0 = n + 1) (hn : n ≤ 1)
    (hz : fld c.pay 1 3 = 0) : ∃ t, exec (.diagSensors dt w) s = .next t ∧
      Answered (s.pass dt) t w c St.ok ((List.range 32).flatMap (fun k => leB 4 (unsigned 32 (s.board (32 * n + k)).value)) ++
        leB 4 (maskOf ((List.range 32).filter (fun k => (s.pass dt).boardStale (32 * n + k))))) := by
  refine ⟨_, rfl, runCmd_answered (h.pass dt) ?_⟩
  dsimp only
  rw [h.plain, need_ok _ _ _ _ (decide_eq_true ⟨by omega, hz⟩), vet_ok (s.pass dt) _ hk, hpart, if_neg (Nat.succ_ne_zero n), Nat.add_sub_cancel]
  rfl

end Diag

/-! ### Conversions (R473, R474, R508) -/

/-- Conversions run in RUN, and in KINDLING from stage 5 on. -/
theorem converting_of {s : State} (h : s.pwr.kind = 1 ∨ s.pwr.kind = 0 ∧ 5 ≤ s.pwr.stage) : s.converting = true := by
  simpa [State.converting] using h

/-- The highest of a map of readings, as `State.tjMax` takes it (R473). -/
def hottest (m : SMap Int) : Int := ((m.map Prod.snd).max?).getD 0

/-- No listed reading is above the highest. -/
theorem le_hottest {m : SMap Int} {k : Nat} {v : Int} (h : look m k = some v) : v ≤ hottest m := by
  have hmem : v ∈ m.map Prod.snd := by
    induction m with
    | nil => exact nomatch h
    | cons e t ih =>
      obtain ⟨j, x⟩ := e
      rw [look] at h
      split at h
      · exact List.mem_cons.2 (.inl (Option.some.inj h).symm)
      · exact List.mem_cons_of_mem _ (ih h)
  unfold hottest
  cases hmax : (m.map Prod.snd).max? with
  | none => exact absurd hmem (by rw [List.max?_eq_none_iff.1 hmax]; exact List.not_mem_nil)
  | some x => exact (List.max?_le_iff hmax).1 (Int.le_refl x) v hmem

/-- A repeated hit is due: there was none, or the last is a second ago (R473). -/
def HitDue (last : Option Nat) (now : Nat) : Prop := last = none ∨ ∃ a, last = some a ∧ a + perSecond ≤ now

/-- A condition that holds hits when its hit is due. -/
theorem repeatHit_due {last : Option Nat} {now : Nat} {holds : Bool} (hholds : holds = true) (h : HitDue last now) :
    repeatHit last holds now = (some now, true) := by
  unfold repeatHit
  rw [hholds, if_neg (by decide)]
  obtain hnone | ⟨a, hlast, hago⟩ := h
  · rw [hnone]
  · rw [hlast]
    exact if_pos hago

section Hottest

variable (s : State) (m : SMap Int)

/-- The warning's last hit and whether one is due, with the temperatures `m`. -/
def State.warnHit : Option Nat × Bool := repeatHit s.mgmt.warnAt (decide ((s.par P.manageTsenseTjWarn : Int) ≤ hottest m)) s.now

/-- The critical threshold's last hit and whether one is due, with the temperatures `m`. -/
def State.critHit : Option Nat × Bool := repeatHit s.mgmt.critAt (decide ((s.par P.manageTsenseTjCrit : Int) ≤ hottest m)) s.now

/-- A conversion has stored the temperatures `m` and the times of the last hits. -/
def State.tjTaken : State := { s with mgmt := { s.mgmt with tj := m, warnAt := (s.warnHit m).1, critAt := (s.critHit m).1 } }

/-- The warning hits first. -/
def State.warned : State := if (s.warnHit m).2 then (s.tjTaken m).fault F.tjWarn 0 else s.tjTaken m

/-- Then the critical threshold. -/
def State.hotHits : State := if (s.critHit m).2 then (s.warned m).fault F.tjCrit 0 else s.warned m

end Hottest

section Hot

variable {s : State} {m : SMap Int} {tj : List Int} {k : Nat} {v : Int} (hwarn : Calm s F.tjWarn) (hcrit : Calm s F.tjCrit)

include hwarn in
/-- The warning touches what hits touch. -/
theorem warned_touched : Touched (s.tjTaken m) (s.warned m) := touched_if (fault_touched _ _ _ (hwarn.of_params rfl)) (.refl _)

include hwarn hcrit in
/-- So do both. -/
theorem hotHits_touched : Touched (s.tjTaken m) (s.hotHits m) :=
  have hfirst : Touched (s.tjTaken m) (s.warned m) := warned_touched hwarn
  touched_if (hfirst.trans (fault_touched _ _ _ (hcrit.of_params hfirst.fields.1))) hfirst

include hwarn hcrit in
/-- A conversion stores its temperatures and then hits, on the highest of them (R473). -/
theorem convertTj_hits (htrim : s.trimming = false) : s.convertTj tj = s.hotHits (s.convertTj tj).mgmt.tj := by
  obtain ⟨m, hm⟩ : ∃ m, s.convertTj tj = s.hotHits m := ⟨_, if_neg (by rw [htrim]; decide)⟩
  have hstored : (s.convertTj tj).mgmt.tj = m := by
    rw [hm]
    exact (mgmt_touched (hotHits_touched hwarn hcrit)).1
  rw [hstored, hm]

include hwarn hcrit in
/-- A stored temperature at a threshold puts the highest there. -/
theorem hottest_reaches {n : Nat} (htrim : s.trimming = false) (hk : k < 24) (hv : tj[k]? = some v)
    (hhot : (n : Int) ≤ clamp (-400) 1500 (s.trimTj k v)) : decide ((n : Int) ≤ hottest (s.convertTj tj).mgmt.tj) = true := by
  obtain ⟨-, -, -, -, -, hstored, -⟩ := convertTj_law s tj hwarn hcrit
  exact decide_eq_true (Int.le_trans hhot (le_hottest (hstored htrim k v hk hv)))

include hcrit in
/-- A temperature at the warning threshold records TJ_WARN when its hit is due. -/
theorem convertTj_warns (htrim : s.trimming = false) (hk : k < 24) (hv : tj[k]? = some v)
    (hhot : (s.par P.manageTsenseTjWarn : Int) ≤ clamp (-400) 1500 (s.trimTj k v)) (htakes : Takes s F.tjWarn 0 idNone) (hdue : HitDue s.mgmt.warnAt s.now) :
    ((s.convertTj tj).src F.tjWarn).sticky = true ∧ ((s.convertTj tj).src F.tjWarn).hits = sat 16 ((s.src F.tjWarn).hits + 1) := by
  have hreach := hottest_reaches htakes.calm hcrit htrim hk hv hhot
  rw [convertTj_hits htakes.calm hcrit htrim]
  generalize (s.convertTj tj).mgmt.tj = m at hreach
  have hhit : (s.warnHit m).2 = true := congrArg Prod.snd (repeatHit_due hreach hdue)
  have hwarned : s.warned m = (s.tjTaken m).fault F.tjWarn 0 := if_pos hhit
  have hkept : (s.hotHits m).src F.tjWarn = (s.warned m).src F.tjWarn := by
    unfold State.hotHits
    split
    · exact hit_other _ _ _ _ _ _ (hcrit.of_params (warned_touched htakes.calm).fields.1) (by decide)
    · rfl
  have htaken : Takes (s.tjTaken m) F.tjWarn 0 idNone := takes_frame s _ _ _ _ rfl rfl htakes
  obtain ⟨hsticky, hhits, -⟩ := fault_recorded htaken
  rw [hkept, hwarned]
  exact ⟨hsticky, hhits⟩

include hwarn in
/-- A temperature at the critical threshold records TJ_CRIT when its hit is due. -/
theorem convertTj_crits (htrim : s.trimming = false) (hk : k < 24) (hv : tj[k]? = some v)
    (hhot : (s.par P.manageTsenseTjCrit : Int) ≤ clamp (-400) 1500 (s.trimTj k v)) (htakes : Takes s F.tjCrit 0 idNone) (hdue : HitDue s.mgmt.critAt s.now) :
    ((s.convertTj tj).src F.tjCrit).sticky = true ∧ ((s.convertTj tj).src F.tjCrit).hits = sat 16 ((s.src F.tjCrit).hits + 1) := by
  have hreach := hottest_reaches hwarn htakes.calm htrim hk hv hhot
  rw [convertTj_hits hwarn htakes.calm htrim]
  generalize (s.convertTj tj).mgmt.tj = m at hreach
  have hhit : (s.critHit m).2 = true := congrArg Prod.snd (repeatHit_due hreach hdue)
  have hhits : s.hotHits m = (s.warned m).fault F.tjCrit 0 := if_pos hhit
  have hkept : (s.warned m).src F.tjCrit = s.src F.tjCrit := by
    unfold State.warned
    split
    · exact hit_other _ _ _ _ _ _ (hwarn.of_params rfl) (by decide)
    · rfl
  have htaken : Takes (s.warned m) F.tjCrit 0 idNone :=
    takes_touched _ _ (warned_touched hwarn) _ _ _ (takes_frame s _ _ _ _ rfl rfl htakes)
  obtain ⟨hsticky, hcount, -⟩ := fault_recorded htaken
  rw [hkept] at hcount
  rw [hhits]
  exact ⟨hsticky, hcount⟩

end Hot

/-- A monitor found outside its window for the first time is stored and recorded (R474). -/
theorem monitor_records (i mv : Nat) (s : State) (htakes : Takes s F.vmonRange i idNone) (hfirst : look s.mgmt.rangeAt i = none) (hmv : mv ≤ 4000)
    (hcore : i = 0 → s.mgmt.vcoreAt + 2 * perMs ≤ s.now ∧ (mv + 30 < s.draught.setMv ∨ s.draught.setMv + 30 < mv))
    (hrail : i ≠ 0 → mv < s.par (P.manageVmonLowMv i) ∨ s.par (P.manageVmonHighMv i) < mv) :
    Recorded { s with mgmt := { s.mgmt with mv := put s.mgmt.mv i mv, rangeAt := put s.mgmt.rangeAt i s.now } } (s.monitor i mv) F.vmonRange i idNone 0 := by
  have hout : s.monitorOk i mv = false := by
    unfold State.monitorOk
    split
    · next hi =>
      obtain ⟨hsettled, hoff⟩ := hcore hi
      rw [Bool.or_eq_false_iff, decide_eq_false_iff_not, decide_eq_false_iff_not]
      omega
    · next hi =>
      have hoff := hrail hi
      rw [decide_eq_false_iff_not]
      omega
  have hhit : repeatHit (look s.mgmt.rangeAt i) (!s.monitorOk i mv) s.now = (some s.now, true) := repeatHit_due (by rw [hout]; rfl) (.inl hfirst)
  unfold State.monitor
  dsimp only
  rw [Nat.min_eq_right hmv, hhit]
  exact fault_recorded (takes_frame s _ _ _ _ rfl rfl htakes)

section Convert

variable {dt : Nat} {tj : List Int} {mv : List Nat} {s : State}

/-- The time of the next conversion is set. -/
def State.convAt (s : State) (next : Nat) : State := { s with mgmt := { s.mgmt with convNext := next } }

/-- A conversion that is due runs. -/
theorem sensorConvert_due (hon : s.converting = true) (hdue : s.mgmt.convNext ≤ (s.pass dt).now) :
    exec (.sensorConvert dt tj mv) s =
      .next (((((s.pass dt).convAt ((s.pass dt).now + s.par P.manageTsensePeriodMs * perMs)).convertTj tj).convertMv mv).trimStep) := if_pos ⟨hon, hdue⟩

/-- One that is not due does nothing. -/
theorem sensorConvert_early (hearly : (s.pass dt).now < s.mgmt.convNext) : exec (.sensorConvert dt tj mv) s = .next (s.pass dt) :=
  if_neg fun h => absurd h.2 (Nat.not_le.2 hearly)

/-- While trims are applied a conversion holds the readings and applies the next trim step (R508). -/
theorem sensorConvert_trims (hkind : s.pwr.kind = 0) (hstage : 5 ≤ s.pwr.stage) (hsteps : s.pwr.trimSteps < 16) (hdue : s.mgmt.convNext ≤ (s.pass dt).now) :
    exec (.sensorConvert dt tj mv) s = .next { s.pass dt with
      pwr := { s.pwr with trimSteps := s.pwr.trimSteps + 1 }
      mgmt := { s.mgmt with convNext := (s.pass dt).now + s.par P.manageTsensePeriodMs * perMs } } := by
  generalize hu : (s.pass dt).convAt ((s.pass dt).now + s.par P.manageTsensePeriodMs * perMs) = u
  have htrim : u.trimming = true := by
    rw [← hu]
    exact Bool.and_eq_true_iff.2 ⟨beq_iff_eq.2 hkind, decide_eq_true hsteps⟩
  have htj : u.convertTj tj = u := if_pos htrim
  have hmv : u.convertMv mv = u := if_pos htrim
  rw [sensorConvert_due (converting_of (.inr ⟨hkind, hstage⟩)) hdue, hu, htj, hmv, State.trimStep, if_pos htrim, ← hu]
  rfl

end Convert

/-- `t` is `u` after a conversion of temperatures and monitors, the trims applied: every reading is stored, each threshold reached whose hit is due is
recorded, and neither the board sensors nor the power state moved (R473, R474). -/
def Converted (u t : State) (tj : List Int) (mv : List Nat) : Prop :=
  (∀ k v, tj[k]? = some v → look t.mgmt.tj k = some (clamp (-400) 1500 (u.trimTj k v))) ∧
  (∀ k v, mv[k]? = some v → look t.mgmt.mv k = some (min 4000 (u.trimMv k v))) ∧
  (∀ k v, tj[k]? = some v → (u.par P.manageTsenseTjWarn : Int) ≤ clamp (-400) 1500 (u.trimTj k v) → Takes u F.tjWarn 0 idNone → HitDue u.mgmt.warnAt u.now →
    (t.src F.tjWarn).sticky = true ∧ (t.src F.tjWarn).hits = sat 16 ((u.src F.tjWarn).hits + 1)) ∧
  (∀ k v, tj[k]? = some v → (u.par P.manageTsenseTjCrit : Int) ≤ clamp (-400) 1500 (u.trimTj k v) → Takes u F.tjCrit 0 idNone → HitDue u.mgmt.critAt u.now →
    (t.src F.tjCrit).sticky = true ∧ (t.src F.tjCrit).hits = sat 16 ((u.src F.tjCrit).hits + 1)) ∧
  t.mgmt.boards = u.mgmt.boards ∧ t.pwr = u.pwr ∧ ConvTo u t

/-- A conversion does so, by the laws of its two parts. -/
theorem convert_converted {u : State} {tj : List Int} {mv : List Nat} (htrim : u.trimming = false) (htj : tj.length = 24) (hmv : mv.length = 16)
    (hcalm : ∀ n ∈ [F.tjWarn, F.tjCrit, F.vmonRange], Calm u n) : Converted u ((u.convertTj tj).convertMv mv).trimStep tj mv := by
  have hwarn := hcalm F.tjWarn (by decide)
  have hcrit := hcalm F.tjCrit (by decide)
  obtain ⟨hconv, -, -, hboards, hpwr, htjs, -⟩ := convertTj_law u tj hwarn hcrit
  have hrange : Calm (u.convertTj tj) F.vmonRange := (hcalm F.vmonRange (by decide)).of_params hconv.params
  obtain ⟨hconv', hkept, hboards', -, -, hpwr', hmvs⟩ := convertMv_law (u.convertTj tj) mv hrange
  have hstep : ((u.convertTj tj).convertMv mv).trimStep = (u.convertTj tj).convertMv mv := if_neg (by rw [trimming_pwr (hpwr'.trans hpwr), htrim]; decide)
  have htj' : ∀ {k v}, tj[k]? = some v → k < 24 := fun hv => htj ▸ (List.getElem?_eq_some_iff.1 hv).1
  have hmv' : ∀ {k v}, mv[k]? = some v → k < 16 := fun hv => hmv ▸ (List.getElem?_eq_some_iff.1 hv).1
  have hsrc : ∀ n, n ≠ F.vmonRange → ((u.convertTj tj).convertMv mv).src n = (u.convertTj tj).src n := fun n hn => convertMv_src _ mv n hn hrange
  unfold Converted
  rw [hstep, hkept, hsrc F.tjWarn (by decide), hsrc F.tjCrit (by decide)]
  refine ⟨fun k v hv => htjs htrim k v (htj' hv) hv, fun k v hv => ?_, fun k v hv hhot htakes => convertTj_warns hcrit htrim (htj' hv) hv hhot htakes,
    fun k v hv hhot htakes => convertTj_crits hwarn htrim (htj' hv) hv hhot htakes, hboards'.trans hboards, hpwr'.trans hpwr, hconv.trans hconv'⟩
  have htrims : (u.convertTj tj).trimMv k v = u.trimMv k v := by rw [hconv]; rfl
  rw [← htrims]
  exact hmvs (by rw [trimming_pwr hpwr, htrim]) k v (hmv' hv) hv

/-- A conversion that moves neither a board sensor nor the power state touches the readings, their hits' times and what hits touch. -/
theorem ConvTo.touched_convAt {s t : State} {next : Nat} (hconv : ConvTo (s.convAt next) t) (hboards : t.mgmt.boards = s.mgmt.boards) (hpwr : t.pwr = s.pwr) :
    Touched { s with mgmt := { s.mgmt with
      tj := t.mgmt.tj
      mv := t.mgmt.mv
      warnAt := t.mgmt.warnAt
      critAt := t.mgmt.critAt
      rangeAt := t.mgmt.rangeAt
      convNext := next } } t := by
  unfold ConvTo at hconv
  rw [hboards, hpwr] at hconv
  exact hconv

/-- What a row's conversion leaves, of the state before time passed. -/
theorem Converted.leaves {dt next : Nat} {tj : List Int} {mv : List Nat} {s t : State} (h : Converted ((s.pass dt).convAt next) t tj mv) :
    (∀ k v, tj[k]? = some v → look t.mgmt.tj k = some (clamp (-400) 1500 (s.trimTj k v))) ∧
      (∀ k v, mv[k]? = some v → look t.mgmt.mv k = some (min 4000 (s.trimMv k v))) ∧
      (∀ k v, tj[k]? = some v → (s.par P.manageTsenseTjWarn : Int) ≤ clamp (-400) 1500 (s.trimTj k v) → Takes s F.tjWarn 0 idNone →
        HitDue s.mgmt.warnAt (s.pass dt).now → (t.src F.tjWarn).sticky = true ∧ (t.src F.tjWarn).hits = sat 16 ((s.src F.tjWarn).hits + 1)) ∧
      (∀ k v, tj[k]? = some v → (s.par P.manageTsenseTjCrit : Int) ≤ clamp (-400) 1500 (s.trimTj k v) → Takes s F.tjCrit 0 idNone →
        HitDue s.mgmt.critAt (s.pass dt).now → (t.src F.tjCrit).sticky = true ∧ (t.src F.tjCrit).hits = sat 16 ((s.src F.tjCrit).hits + 1)) ∧
      Touched { s.pass dt with mgmt := { s.mgmt with
        tj := t.mgmt.tj
        mv := t.mgmt.mv
        warnAt := t.mgmt.warnAt
        critAt := t.mgmt.critAt
        rangeAt := t.mgmt.rangeAt
        convNext := next } } t := by
  obtain ⟨htjs, hmvs, hwarn, hcrit, hboards, hpwr, hconv⟩ := h
  exact ⟨htjs, hmvs, fun k v hv hhot htakes => hwarn k v hv hhot (takes_frame s _ _ _ _ rfl rfl htakes),
    fun k v hv hhot htakes => hcrit k v hv hhot (takes_frame s _ _ _ _ rfl rfl htakes), hconv.touched_convAt hboards hpwr⟩

/-- A due conversion, the trims applied, is such a conversion. -/
theorem sensorConvert_converts {dt : Nat} {tj : List Int} {mv : List Nat} {s : State} (hon : s.converting = true) (htrim : s.trimming = false)
    (hdue : s.mgmt.convNext ≤ (s.pass dt).now) (htj : tj.length = 24) (hmv : mv.length = 16) (hcalm : ∀ n ∈ [F.tjWarn, F.tjCrit, F.vmonRange], Calm s n) :
    ∃ t, exec (.sensorConvert dt tj mv) s = .next t ∧
      Converted ((s.pass dt).convAt ((s.pass dt).now + s.par P.manageTsensePeriodMs * perMs)) t tj mv :=
  ⟨_, sensorConvert_due hon hdue, convert_converted (u := (s.pass dt).convAt _) htrim htj hmv fun n hn => (hcalm n hn).of_params rfl⟩

/-! ### Board sensors (R475) -/

/-- A sensor's record after a write. -/
@[simp] theorem board_setBoard_same (s : State) (i : Nat) (b : Sensor) : (s.setBoard i b).board i = b := sel_put_same _ _ _ _

/-- A second write of a sensor replaces the first. -/
@[simp] theorem setBoard_setBoard (s : State) (i : Nat) (b c : Sensor) : (s.setBoard i b).setBoard i c = s.setBoard i c := by
  unfold State.setBoard
  dsimp only
  rw [put_put]

/-- A quotient whose rounding is open is one of its two neighbours, the quotient itself when it is whole (log 11). -/
theorem either_bounds (s : State) (n : Int) (d : Nat) :
    n / (d : Int) ≤ s.either n d ∧ s.either n d ≤ n / (d : Int) + 1 ∧ (n % (d : Int) = 0 → s.either n d = n / (d : Int)) := by
  unfold State.either
  split
  · next hwhole => exact ⟨by omega, by omega, fun _ => by omega⟩
  · next hpart => exact ⟨by omega, by omega, fun hwhole => absurd hwhole hpart⟩

section Board

variable {dt : Nat} {i : Fin 64} {raw : Option SensorWord} {s : State}

/-- A sensor that is on and due is read, the time of its next read set. -/
theorem boardSensorRead_due (hconv : s.converting = true) (hon : s.boardOn i.val = true) (hdue : (s.board i.val).nextAt ≤ (s.pass dt).now) :
    exec (.boardSensorRead dt i raw) s = .next (((s.pass dt).setBoard i.val
      { s.board i.val with nextAt := (s.pass dt).now + s.par (P.manageBoardPeriodMs i.val) * perMs }).readBoard i.val raw) :=
  if_pos ⟨hconv, hon, hdue⟩

/-- One that is off or not due is not read. -/
theorem boardSensorRead_idle (h : s.boardOn i.val = false ∨ (s.pass dt).now < (s.board i.val).nextAt) :
    exec (.boardSensorRead dt i raw) s = .next (s.pass dt) := by
  refine if_neg fun ⟨_, hon, hdue⟩ => ?_
  obtain hoff | hearly := h
  · exact Bool.false_ne_true (hoff.symm.trans hon)
  · exact absurd hdue (Nat.not_le.2 hearly)

section Read

variable {k : Nat} {b : Sensor} (hon : s.boardOn k = true)

include hon in
/-- What one read makes of a sensor's record `b`, its trims applied: a word is stored in 1/1,000 of its unit. -/
theorem readBoard_word {d : Nat} {n : Int} {x : SensorWord} (htrim : s.trimming = false)
    (hword : wordValue (bits (s.par (P.manageBoardConfig k)) 12 3) x = (n, d)) :
    (s.setBoard k b).readBoard k (some x) =
      (s.setBoard k { b with value := clamp (-2147483648) 2147483647 (s.either n d), fails := 0, goodAt := some s.now }).fresh := by
  have hon' : (s.setBoard k b).boardOn k = true := hon
  have htrim' : (s.setBoard k b).trimming = false := htrim
  have hword' : wordValue (bits ((s.setBoard k b).par (P.manageBoardConfig k)) 12 3) x = (n, d) := hword
  unfold State.readBoard
  rw [hon', if_neg (by decide)]
  dsimp only
  rw [htrim', if_neg Bool.false_ne_true, hword', board_setBoard_same, setBoard_setBoard]
  rfl

include hon in
/-- A failed read before the third in a row is counted. -/
theorem readBoard_fails (hfew : b.fails < 2) : (s.setBoard k b).readBoard k none = s.setBoard k { b with fails := b.fails + 1 } := by
  have hon' : (s.setBoard k b).boardOn k = true := hon
  unfold State.readBoard
  rw [hon', if_neg (by decide), board_setBoard_same]
  simp only [setBoard_setBoard]
  exact if_pos (by omega)

include hon in
/-- The third is recorded. -/
theorem readBoard_thirdFails (hmany : 2 ≤ b.fails) :
    (s.setBoard k b).readBoard k none = (s.setBoard k { b with fails := 0 }).fault F.boardSensorFail k := by
  have hon' : (s.setBoard k b).boardOn k = true := hon
  unfold State.readBoard
  rw [hon', if_neg (by decide), board_setBoard_same]
  simp only [setBoard_setBoard]
  exact if_neg (by omega)

end Read

end Board

/-! ### Legacy slots (R290) -/

/-- A sensor that is none, off or STALE gives no temperature. -/
theorem boardTemp_none {s : State} {k : Nat} (h : 64 ≤ k ∨ s.boardOn k = false ∨ s.boardStale k = true) : s.boardTemp k = none := by
  refine if_neg fun ⟨hk, hon, hfresh⟩ => ?_
  obtain hfar | hoff | hstale := h
  · omega
  · exact Bool.false_ne_true (hoff.symm.trans hon)
  · rw [hstale] at hfresh
    exact Bool.false_ne_true hfresh

/-- A sensor that is on and not STALE gives its value, whole tenths of a degree as they are. -/
theorem boardTemp_whole {s : State} {k : Nat} {v : Int} (hk : k < 64) (hon : s.boardOn k = true) (hfresh : s.boardStale k = false)
    (hwhole : v % 100 = 0) (hv : (s.board k).value = v) : s.boardTemp k = some (v / 100) := by
  unfold State.boardTemp
  obtain ⟨-, -, hexact⟩ := either_bounds s v 100
  rw [if_pos ⟨hk, hon, by rw [hfresh]; rfl⟩, hv, hexact hwhole]
  rfl

/-- A legacy slot's sensor gives its temperature report. -/
theorem legacyTempRead_reports {dt i k : Nat} {v : Int} {slot : Fin 8} {s : State}
    (hslot : (List.range 160).find? (fun i => s.legacyOf i == some slot.val) = some i) (hsensor : s.par (P.linkLegacySlotTempSensor slot.val) = k)
    (hk : k < 64) (hon : s.boardOn k = true) (hfresh : (s.pass dt).boardStale k = false) (hwhole : v % 100 = 0) (hv : (s.board k).value = v)
    (hdue : sel s.mgmt.legacyNext slot.val 0 ≤ (s.pass dt).now) :
    exec (.legacyTempRead dt slot) s = .next (State.tempReport { (s.pass dt).fresh with
      mgmt := { s.mgmt with legacyNext := put s.mgmt.legacyNext slot.val ((s.pass dt).now + 10 * perMs) } } i (v / 100)) := by
  have hslot' : (List.range 160).find? (fun i => (s.pass dt).legacyOf i == some slot.val) = some i := hslot
  have htemp : (s.pass dt).boardTemp ((s.pass dt).par (P.linkLegacySlotTempSensor slot.val)) = some (v / 100) := by
    subst hsensor
    exact boardTemp_whole hk hon hfresh hwhole hv
  refine (if_neg (Nat.not_lt.2 hdue)).trans ?_
  dsimp only
  rw [hslot', htemp]
  rfl

/-- A report sets the slot's temperature and what its limits make of it, and leaves the other slots' records (R195). -/
theorem tempReport_reports {s : State} {i : Nat} {v : Int} (hsoft : Calm s F.headTempSoft) (hhard : Calm s F.headTempHard) :
    let t := s.tempReport i v
    (t.head i).temp = some v ∧ (t.head i).tempT = s.t32 ∧ (t.head i).mHost = (s.head i).mHost ∧ (∀ j, j ≠ i → t.head j = s.head j) ∧
      (s.hasLimits i = true → s.parS 16 (P.fireBarSlotTempSoft i) ≤ v → (t.head i).soft = true) ∧
      (s.hasLimits i = true → s.parS 16 (P.fireBarSlotTempHard i) ≤ v → (t.head i).mTemp = true) ∧
      Touched { s with fire := { s.fire with heads := t.fire.heads } } t := by
  obtain ⟨x, htouch, htemp, htempT, hmHost, hxsoft, hxhard⟩ := temp_law s i v hsoft hhard
  dsimp only
  generalize s.tempReport i v = t at htouch
  obtain ⟨-, -, -, -, -, hfire, -⟩ := htouch.fields
  have hhead : ∀ j, t.head j = if j = i then x else s.head j := fun j => by
    rw [← head_setHead, State.head, hfire]
    rfl
  rw [hhead i, if_pos rfl, hfire]
  exact ⟨htemp, htempT, hmHost, fun j hj => (hhead j).trans (if_neg hj), hxsoft, hxhard, htouch⟩

/-- A slot without a sensor that is on and not STALE makes no report, nor one that is not due. -/
theorem legacyTempRead_none {dt : Nat} {slot : Fin 8} {s : State}
    (h : 64 ≤ s.par (P.linkLegacySlotTempSensor slot.val) ∨ s.boardOn (s.par (P.linkLegacySlotTempSensor slot.val)) = false ∨
      (s.pass dt).boardStale (s.par (P.linkLegacySlotTempSensor slot.val)) = true ∨ (s.pass dt).now < sel s.mgmt.legacyNext slot.val 0) :
    exec (.legacyTempRead dt slot) s = .next (s.pass dt) := by
  show execLegacyTempRead dt slot s = _
  unfold execLegacyTempRead
  dsimp only
  by_cases hearly : (s.pass dt).now < sel s.mgmt.legacyNext slot.val 0
  · exact if_pos hearly
  · have hnone : (s.pass dt).boardTemp ((s.pass dt).par (P.linkLegacySlotTempSensor slot.val)) = none :=
      boardTemp_none (h.imp id (Or.imp id fun h => h.resolve_right hearly))
    rw [hnone]
    refine (if_neg hearly).trans ?_
    split
    · next hsome => exact nomatch hsome
    · rfl

/-! ### The statement -/

/-- Settles O35: a conversion by the laws of its two parts and their hits, a board sensor by what one read makes of its record, a legacy slot by its
report, the regulator by its rows. -/
theorem sensorsAreReadAndChecked : Obligations.SensorsAreReadAndChecked := by
  unfold Obligations.SensorsAreReadAndChecked
  refine ⟨fun _ _ _ _ => diagSensors_onDie, fun _ _ _ _ _ => diagSensors_boards, ?stores, fun _ _ _ _ => sensorConvert_early, monitor_records,
    fun _ _ _ _ => sensorConvert_trims, ?word, ?fails, fun _ _ _ _ => boardSensorRead_idle, ?thirdFails, ?legacy, fun _ _ _ => legacyTempRead_none, ?polled,
    ?pollEarly, ?alert⟩
  case stores =>
    intro dt tj mv s hon htrim hdue htj hmv hcalm
    obtain ⟨t, hrow, hconverted⟩ := sensorConvert_converts (converting_of hon) htrim hdue htj hmv hcalm
    exact ⟨t, hrow, hconverted.leaves⟩
  case word =>
    intro dt d n i x s hconv htrim hon hdue hword
    refine ⟨(s.pass dt).either n d, ?_, either_bounds _ n d⟩
    rw [boardSensorRead_due (converting_of hconv) hon hdue, readBoard_word (s := s.pass dt) hon htrim hword]
    rfl
  case fails =>
    intro dt i s hconv hon hdue hfew
    exact (boardSensorRead_due (converting_of hconv) hon hdue).trans (congrArg _ (readBoard_fails (s := s.pass dt) hon hfew))
  case thirdFails =>
    intro dt i s hconv hon hdue hmany htakes
    exact ⟨_, (boardSensorRead_due (converting_of hconv) hon hdue).trans (congrArg _ (readBoard_thirdFails (s := s.pass dt) hon hmany)),
      fault_recorded (takes_frame s _ _ _ _ rfl rfl htakes)⟩
  case legacy =>
    intro dt i k v slot s hslot hsensor hk hon hfresh hwhole hv hdue hsoft hhard
    have hrow := legacyTempRead_reports hslot hsensor hk hon hfresh hwhole hv hdue
    generalize hu : ({ (s.pass dt).fresh with
      mgmt := { s.mgmt with legacyNext := put s.mgmt.legacyNext slot.val ((s.pass dt).now + 10 * perMs) } } : State) = u at hrow
    have hreport := tempReport_reports (s := u) (i := i) (v := v / 100) (hsoft.of_params (by rw [← hu]; rfl)) (hhard.of_params (by rw [← hu]; rfl))
    generalize u.tempReport i (v / 100) = t at hrow hreport
    subst hu
    exact ⟨t, hrow, hreport⟩
  case polled => exact fun dt ma v s hdue => if_neg (Nat.not_lt.2 hdue)
  case pollEarly => exact fun dt r s hearly => if_pos hearly
  case alert => exact fun dt status s htakes => ⟨_, rfl, fault_recorded (takes_frame s _ _ _ _ rfl rfl htakes)⟩

end Sys2Proof.Machine
end

section
/-!
The MOTION commands (R302, R304, R310, R315, R319, R320, R532): what the three reads answer, and what the choice of another fire channel moves.
-/
namespace Sys2Proof.Machine

/-! ### The reads -/

section Reads

variable {dt : Nat} {w : Sess} {s : State} {c : Cmd}

/-- Time leaves a channel's bytes. -/
@[simp] theorem encBytes_pass (s : State) (dt : Nat) : (s.pass dt).encBytes = s.encBytes := rfl

/-- Time leaves the ceiling message. -/
@[simp] theorem ceilMsg_pass (s : State) (dt : Nat) : (s.pass dt).ceilMsg = s.ceilMsg := rfl

/-- MOTION status answers the channels, the web position and the velocity model. -/
theorem motionStatus_answers (h : Holds s w c 0x0A01 0) (hk : s.pwr.kind ≠ 2) : ∃ t, exec (.motionStatus dt w) s = .next t ∧
    Answered (s.pass dt) t w c St.ok ((List.range 4).flatMap s.encBytes ++ leB 1 s.motion.fireCh ++ leB 1 (b2n s.motion.vValid) ++ leB 2 0 ++
      leB 8 (unsigned 64 s.motion.w) ++ leB 8 (unsigned 64 s.motion.wMax) ++ leB 4 s.pos ++ leB 4 s.lps ++ leB 4 s.edgeHz) := by
  refine ⟨_, rfl, runCmd_answered (h.pass dt) ?_⟩
  rw [h.plain, vet_ok (s.pass dt) _ hk, encBytes_pass]
  rfl

/-- MOTION ceiling answers the ceiling message. -/
theorem motionCeiling_answers (h : Holds s w c 0x0A02 0) (hk : s.pwr.kind ≠ 2) :
    ∃ t, exec (.motionCeiling dt w) s = .next t ∧ Answered (s.pass dt) t w c St.ok s.ceilMsg := by
  refine ⟨_, rfl, runCmd_answered (h.pass dt) ?_⟩
  rw [h.plain, vet_ok (s.pass dt) _ hk, ceilMsg_pass]

/-- MOTION marks answers an input's state and its last four marks. -/
theorem motionMarks_answers {k : Nat} (h : Holds s w c 0x0A03 4) (hk : s.pwr.kind ≠ 2) (hinput : u8 c.pay 0 = k) (hk4 : k < 4) (hz : fld c.pay 1 3 = 0) :
    ∃ t, exec (.motionMarks dt w) s = .next t ∧
      Answered (s.pass dt) t w c St.ok (leB 1 k ++ leB 1 (s.markState k) ++ leB 2 0 ++ leB 4 (unsigned 32 (s.mark k).err) ++ leB 4 (s.mark k).spur ++
        (List.range 4).flatMap (fun i => markBytes (s.mark k).last[i]?)) := by
  subst hinput
  refine ⟨_, rfl, runCmd_answered (h.pass dt) ?_⟩
  dsimp only
  rw [h.plain, need_ok _ _ _ _ (decide_eq_true ⟨hk4, hz⟩), vet_ok (s.pass dt) _ hk]
  rfl

end Reads

/-! ### Another fire channel (R304, R307) -/

/-- A channel whose distance to the other starts again (R304). -/
def Enc.undistanced (e : Enc) : Enc := { e with dist := 0 }

/-- The new fire channel: its distance from its maximum starts again too (R305). -/
def Enc.restarted (e : Enc) : Enc := { e with pos := 0, maxPos := 0, dist := 0 }

/-- Channel `c` moves the web from now on, and the distances of all channels start again. -/
def State.fireMoved (s : State) (c : Nat) : State :=
  let u : State := { s with motion := { s.motion with fireCh := c, enc := s.motion.enc.map (fun e => (e.1, e.2.undistanced)) } }
  u.setEnc c (u.enc c).restarted

/-- The velocity model is invalid and the next lines are EDGE (R192, R307). -/
def State.unmodelled (s : State) : State :=
  { s with motion := { s.motion with vValid := false, vEdges := 0, vSince := 0, vTimes := [] }, fire := { s.fire with sched := false } }

/-- An invalid velocity model, and what the outputs that follow the ceiling touch. -/
theorem invalidate_touched (s : State) : Touched s.unmodelled s.invalidate := refresh_touched _

/-- A channel among channels whose distances start again. -/
theorem sel_undistanced (m : SMap Enc) (j : Nat) : sel (m.map (fun e => (e.1, e.2.undistanced))) j {} = (sel m j {}).undistanced := by
  unfold sel
  rw [look_map m Enc.undistanced j]
  cases look m j <;> rfl

/-- The channels after the fire channel has moved. -/
theorem enc_fireMoved (s : State) (c j : Nat) : (s.fireMoved c).enc j = if j = c then (s.enc c).restarted else (s.enc j).undistanced := by
  have hzero : ∀ j, State.enc { s with motion := { s.motion with fireCh := c, enc := s.motion.enc.map (fun e => (e.1, e.2.undistanced)) } } j =
    (s.enc j).undistanced := sel_undistanced s.motion.enc
  unfold State.fireMoved
  dsimp only
  rw [enc_setEnc, hzero c, hzero j]
  rfl

/-- The fire channel stays. -/
theorem setFire_same {s : State} {c : Nat} (h : s.motion.fireCh = c) : s.setFire c = s := if_pos h

/-- The fire channel moves; besides, the velocity model is invalid and ENC_LOST follows its condition. -/
theorem setFire_moves {s : State} {c : Nat} (h : s.motion.fireCh ≠ c) (hcalm : Calm s F.encLost) : Touched (s.fireMoved c).unmodelled (s.setFire c) := by
  have hmove : s.setFire c = (s.fireMoved c).invalidate.lostCheck := if_neg h
  have hinvalid := invalidate_touched (s.fireMoved c)
  rw [hmove]
  exact hinvalid.trans (lost_touched _ (hcalm.of_params (hinvalid.fields.1)))

/-- What the choice of a fire channel leaves: the counts, the directions and the web position stay. -/
theorem setFire_law {s : State} {c : Nat} (hcalm : Calm s F.encLost) : let t := s.setFire c
    t.motion.fireCh = c ∧ t.motion.w = s.motion.w ∧ t.motion.wMax = s.motion.wMax ∧
      (∀ j, (t.enc j).count = (s.enc j).count ∧ (t.enc j).dir = (s.enc j).dir) ∧
      (c ≠ s.motion.fireCh → t.motion.vValid = false ∧ t.motion.vEdges = 0 ∧ t.fire.sched = false ∧ (t.enc c).pos = 0) ∧
      (c = s.motion.fireCh → t.motion = s.motion ∧ t.fire = s.fire) ∧
      Touched { s with motion := t.motion, fire := { s.fire with sched := t.fire.sched } } t := by
  by_cases h : s.motion.fireCh = c
  · rw [setFire_same h]
    exact ⟨h, rfl, rfl, fun _ => ⟨rfl, rfl⟩, fun hne => absurd h.symm hne, fun _ => ⟨rfl, rfl⟩, .refl s⟩
  · have htouch := setFire_moves h hcalm
    generalize s.setFire c = t at htouch ⊢
    have henc : ∀ j, t.enc j = if j = c then (s.enc c).restarted else (s.enc j).undistanced := fun j => by
      rw [← enc_fireMoved]
      unfold State.enc
      rw [htouch]
      rfl
    have hweb : t.motion.fireCh = c ∧ t.motion.w = s.motion.w ∧ t.motion.wMax = s.motion.wMax := by
      rw [htouch]
      exact ⟨rfl, rfl, rfl⟩
    have hmodel : t.motion.vValid = false ∧ t.motion.vEdges = 0 ∧ t.fire.sched = false := by
      rw [htouch]
      exact ⟨rfl, rfl, rfl⟩
    obtain ⟨hfire, hw, hwMax⟩ := hweb
    obtain ⟨hvalid, hedges, hsched⟩ := hmodel
    refine ⟨hfire, hw, hwMax, fun j => ?_, fun _ => ⟨hvalid, hedges, hsched, ?_⟩, fun heq => absurd heq.symm h, ?_⟩
    · rw [henc j]
      split
      · next hj => rw [hj]; exact ⟨rfl, rfl⟩
      · exact ⟨rfl, rfl⟩
    · rw [henc c, if_pos rfl]
      rfl
    · unfold Touched at *
      rw [htouch]
      rfl

/-! ### The command -/

/-- The accepted fire channel and that of the line in force are `k`. -/
def State.fireAccepted (s : State) (k : Nat) : State :=
  { s with params := { s.params with
      acc := accept s.params.acc P.motionFireChannel.id k
      line := accept s.params.line P.motionFireChannel.id k } }

/-- An accepted value leaves the other parameters. -/
theorem sel_accept_other (m : SMap Nat) {id j : Nat} (v d : Nat) (h : j ≠ id) : sel (accept m id v) j d = sel m j d := by
  unfold accept
  split
  · unfold sel
    rw [look_cut_other m id j h]
  · exact sel_put_other m id j v d h

/-- The accepted fire channel is no reaction. -/
theorem Calm.fireAccepted {s : State} {n : Nat} (h : Calm s n) (hid : (P.manageFaultSourceReaction n).id ≠ P.motionFireChannel.id) (k : Nat) :
    Calm (s.fireAccepted k) n := by
  have hreaction : (s.fireAccepted k).reaction n = s.reaction n := sel_accept_other _ _ _ hid
  unfold Calm at *
  rwa [hreaction]

/-- The default of `motion.fire.channel` is that of its row. -/
theorem fireChannel_default : pDefault P.motionFireChannel.id = P.motionFireChannel.dflt := by decide +kernel

/-- MOTION channel select makes an OK channel the fire channel while no job is ARMED or PRINTING. -/
theorem motionChannelSelect_answers {dt k : Nat} {w : Sess} {s : State} {c : Cmd} (h : Holds s w c 0x0A04 4) (hk : s.pwr.kind ≠ 2) (hch : u8 c.pay 0 = k)
    (hk4 : k < 4) (hz : fld c.pay 1 3 = 0) (hok : s.encState k = 1) (hidle : s.activeJobs = []) :
    ∃ t, exec (.motionChannelSelect dt w) s = .next t ∧ Answered (((s.pass dt).fireAccepted k).setFire k) t w c St.ok [] := by
  subst hch
  have hfree : ((s.pass dt).encState (u8 c.pay 0) == 1 && (s.pass dt).activeJobs.isEmpty) = true := by
    show (s.encState (u8 c.pay 0) == 1 && s.activeJobs.isEmpty) = true
    rw [hok, hidle]
    rfl
  refine ⟨_, rfl, runCmd_answered (h.pass dt) ?_⟩
  dsimp only
  rw [h.plain, need_ok _ _ _ _ (decide_eq_true ⟨hk4, hz⟩), vet_ok (s.pass dt) _ hk, need_ok _ _ _ _ hfree]
  rfl

/-- Settles O28: the reads by what they answer, the choice of a channel by what moves with it. -/
theorem motionCommandsAnswer : Obligations.MotionCommandsAnswer := by
  unfold Obligations.MotionCommandsAnswer
  refine ⟨fun _ _ _ _ => motionStatus_answers, fun _ _ _ _ => motionCeiling_answers, fun _ _ _ _ _ => motionMarks_answers, ?select⟩
  case select =>
    intro dt k w s c h hk hch hk4 hz hok hidle hcalm
    obtain ⟨t, hrow, hanswered⟩ := motionChannelSelect_answers (dt := dt) h hk hch hk4 hz hok hidle
    obtain ⟨hfire, hw, hwMax, hcount, hmoved, hsame, htouch⟩ := setFire_law (c := k) (Calm.fireAccepted (s := s.pass dt) (hcalm.of_params rfl) (by decide) k)
    generalize ((s.pass dt).fireAccepted k).setFire k = u at hanswered hfire hw hwMax hcount hmoved hsame htouch
    have hparams : u.params = ((s.pass dt).fireAccepted k).params := htouch.fields.1
    refine ⟨t, u, hrow, hanswered, hfire, ?_, ?_, hw, hwMax, hcount, hmoved, hsame, ?_⟩
    · rw [State.par, hparams]
      exact accept_sel _ _ _ _ fireChannel_default
    · rw [State.parLine, hparams]
      exact accept_sel _ _ _ _ fireChannel_default
    · rw [hparams]
      exact htouch

end Sys2Proof.Machine
end

section
/-!
The encoders (R296, R298, R299, R302, R305, R307): the filter's levels, what the decoder makes of a step, and what a step of the fire channel makes of the web
position and the velocity model.
-/
namespace Sys2Proof.Machine

/-- What hits touch leaves the channels. -/
theorem Touched.enc {s t : State} (h : Touched s t) (k : Nat) : t.enc k = s.enc k := by
  rw [State.enc, h]
  rfl

/-! ### Quadrature steps (R296, R298, R299) -/

/-- A line keeps its level, whether the new one does not differ or comes too soon. -/
theorem filtered_level (s : State) (f at_ : Nat) (old new : Bool) :
    (if s.filtered f at_ old new then new else old) = if at_ + f + 1 ≤ s.clk.tclk then new else old := by
  cases old <;> cases new <;> simp [State.filtered]

/-- The filter as the sampler applies it: only a level that differs is taken. -/
theorem filteredEnc_eq (s : State) (f : Nat) (e : Enc) (a b : Bool) :
    { e with
      a := if s.filtered f e.aAt e.a a then a else e.a
      b := if s.filtered f e.bAt e.b b then b else e.b
      aAt := if s.filtered f e.aAt e.a a then s.clk.tclk else e.aAt
      bAt := if s.filtered f e.bAt e.b b then s.clk.tclk else e.bAt } = filteredEnc s.clk.tclk f e a b := by
  rw [filtered_level, filtered_level]
  simp [State.filtered, filteredEnc]

/-- A step leads to one of four places of the sequence. -/
theorem quadSteps_lt (invert a b a' b' : Bool) : quadSteps invert a b a' b' < 4 := by
  unfold quadSteps
  split <;> exact Nat.mod_lt _ (by decide)

/-- What the decoder makes of `d` steps of a channel that is OK, its new levels taken. -/
def State.decoded (u : State) (c d : Nat) (un : List Nat) : State :=
  match d with
  | 0 => u
  | 1 => (u.setEnc c { u.enc c with dir := 1 }).moveCount c 1 un
  | 3 => (u.setEnc c { u.enc c with dir := 2 }).moveCount c (-1) un
  | _ =>
    if (u.enc c).dir = 0 then
      if (u.fault F.qambig c).motion.fireCh = c then (u.fault F.qambig c).invalidate else u.fault F.qambig c
    else (u.fault F.qskip c).moveCount c (if (u.enc c).dir = 1 then 2 else -2) un

section Edge

variable {dt c : Nat} {ch : Fin 4} {a b : Bool} {un : List (Fin 160)} {s : State} {e f : Enc} (hch : ch.val = c) (he : s.enc c = e)
  (hf : f = filteredEnc (s.pass dt).clk.tclk (s.par (P.motionEncFilter c)) e a b)

include hch he hf

/-- An edge of a channel that is OFF or FAILED takes the levels alone; otherwise the decoder counts. -/
theorem encoderEdge_eq : exec (.encoderEdge dt ch a b un) s = .next (if s.encState c ≠ 1 then (s.pass dt).setEnc c f
    else ((s.pass dt).setEnc c f).decoded c (quadSteps (s.par (P.motionEncInvert c) == 1) e.a e.b f.a f.b) (un.map Fin.val)) := by
  subst hch he
  have hf' : filteredEnc (s.pass dt).clk.tclk ((s.pass dt).par (P.motionEncFilter ch.val)) ((s.pass dt).enc ch.val) a b = f := hf.symm
  have hstate : ((s.pass dt).setEnc ch.val f).encState ch.val = s.encState ch.val := encState_of _ _ _ rfl (by
    rw [enc_setEnc, if_pos rfl, hf]
    rfl)
  have hdir : ((s.pass dt).enc ch.val).dir = (((s.pass dt).setEnc ch.val f).enc ch.val).dir := by
    rw [enc_setEnc, if_pos rfl, hf]
    rfl
  show execEncoderEdge dt ch a b un s = _
  unfold execEncoderEdge
  dsimp only
  rw [filteredEnc_eq, filtered_level, filtered_level, hf', hstate, hdir]
  generalize hd : quadSteps _ _ _ _ _ = d
  have hd' : quadSteps (s.par (P.motionEncInvert ch.val) == 1) (s.enc ch.val).a (s.enc ch.val).b f.a f.b = d := by
    rw [← hd, hf]
    rfl
  rw [hd']
  split
  · rfl
  · have hlt := quadSteps_lt (s.par (P.motionEncInvert ch.val) == 1) (s.enc ch.val).a (s.enc ch.val).b f.a f.b
    rw [hd'] at hlt
    obtain rfl | rfl | rfl | rfl : d = 0 ∨ d = 1 ∨ d = 3 ∨ d = 2 := by omega
    · rfl
    · rfl
    · rfl
    · by_cases hknown : (((s.pass dt).setEnc ch.val f).enc ch.val).dir = 0
      · exact (if_pos hknown).trans (congrArg _ (if_pos hknown).symm)
      · exact (if_neg hknown).trans (congrArg _ (if_neg hknown).symm)

/-- A channel that is OFF or FAILED counts nothing (R297). -/
theorem encoderEdge_notOk (hstate : s.encState c ≠ 1) : exec (.encoderEdge dt ch a b un) s = .next ((s.pass dt).setEnc c f) := by
  rw [encoderEdge_eq hch he hf, if_pos hstate]

/-- The steps of a channel that is OK are decoded. -/
theorem encoderEdge_ok {d : Nat} (hstate : s.encState c = 1) (hsteps : quadSteps (s.par (P.motionEncInvert c) == 1) e.a e.b f.a f.b = d) :
    exec (.encoderEdge dt ch a b un) s = .next (((s.pass dt).setEnc c f).decoded c d (un.map Fin.val)) := by
  rw [encoderEdge_eq hch he hf, if_neg (fun hne => hne hstate), hsteps]

end Edge

section Decoded

variable (s : State) (c : Nat) (f : Enc) (un : List Nat)

/-- A forward step of a channel whose levels are taken. -/
theorem decoded_one : (s.setEnc c f).decoded c 1 un = (s.setEnc c { f with dir := 1 }).moveCount c 1 un := by
  show ((s.setEnc c f).setEnc c { (s.setEnc c f).enc c with dir := 1 }).moveCount c 1 un = _
  rw [enc_setEnc, if_pos rfl, setEnc_setEnc]

/-- A backward step. -/
theorem decoded_three : (s.setEnc c f).decoded c 3 un = (s.setEnc c { f with dir := 2 }).moveCount c (-1) un := by
  show ((s.setEnc c f).setEnc c { (s.setEnc c f).enc c with dir := 2 }).moveCount c (-1) un = _
  rw [enc_setEnc, if_pos rfl, setEnc_setEnc]

/-- Two steps at once while the direction is known (R299). -/
theorem decoded_known (h : f.dir ≠ 0) :
    (s.setEnc c f).decoded c 2 un = ((s.setEnc c f).fault F.qskip c).moveCount c (if f.dir = 1 then 2 else -2) un := by
  have henc : (s.setEnc c f).enc c = f := by rw [enc_setEnc, if_pos rfl]
  refine (if_neg (by rwa [henc])).trans ?_
  rw [henc]

/-- Two steps at once while it is not (R299). -/
theorem decoded_unknown (h : f.dir = 0) (hfire : ((s.setEnc c f).fault F.qambig c).motion.fireCh ≠ c) :
    (s.setEnc c f).decoded c 2 un = (s.setEnc c f).fault F.qambig c := by
  refine (if_pos ?_).trans (if_neg hfire)
  rwa [enc_setEnc, if_pos rfl]

end Decoded

/-! ### Channels that do not move the web -/

section Other

variable {s : State} {c : Nat} {f : Enc} {un : List Nat} (hfire : s.motion.fireCh ≠ c) (hbackup : s.backup ≠ some c)

include hfire hbackup

/-- A count of a written channel that moves nothing else. -/
theorem moveCount_written (x : Enc) (d : Int) :
    (s.setEnc c x).moveCount c d un = s.setEnc c { x with count := BitVec.ofInt 32 ((x.count.toNat : Int) + d) } := by
  rw [move_other (s.setEnc c x) _ _ _ hfire hbackup, enc_setEnc, if_pos rfl, setEnc_setEnc]

/-- A forward step adds one to the count (R298). -/
theorem decoded_forward : (s.setEnc c f).decoded c 1 un = s.setEnc c { f with dir := 1, count := f.count + 1 } := by
  rw [decoded_one, moveCount_written hfire hbackup, cnt_add]

/-- A backward step takes one away (R298). -/
theorem decoded_backward : (s.setEnc c f).decoded c 3 un = s.setEnc c { f with dir := 2, count := f.count - 1 } := by
  rw [decoded_three, moveCount_written hfire hbackup, cnt_sub]

/-- Two steps at once count in the known direction, after QSKIP (R299). -/
theorem decoded_skips (hdir : f.dir ≠ 0) (htakes : Takes s F.qskip c idNone) :
    (s.setEnc c f).decoded c 2 un = ((s.setEnc c f).fault F.qskip c).setEnc c { f with count := if f.dir = 1 then f.count + 2 else f.count - 2 } := by
  have htouch : Touched (s.setEnc c f) ((s.setEnc c f).fault F.qskip c) := Takes.touched (takes_frame s _ _ _ _ rfl rfl htakes)
  have hcount : BitVec.ofInt 32 ((f.count.toNat : Int) + (if f.dir = 1 then 2 else -2)) = if f.dir = 1 then f.count + 2 else f.count - 2 := by
    split
    · exact cnt_add2 f.count
    · exact cnt_sub2 f.count
  rw [decoded_known _ _ _ _ hdir]
  generalize (s.setEnc c f).fault F.qskip c = u at htouch ⊢
  have henc : u.enc c = f := (htouch.enc c).trans ((enc_setEnc s c c f).trans (if_pos rfl))
  have hfire' : u.motion.fireCh = s.motion.fireCh := by
    rw [htouch]
    rfl
  have hbackup' : u.backup = s.backup := backup_of s u htouch.fields.1 hfire'
  rw [move_other u c _ un (by rwa [hfire']) (by rwa [hbackup']), henc, hcount]

end Other

/-- Two steps at once of a channel whose direction is not known record QAMBIG and count nothing (R299). -/
theorem decoded_ambiguous {s : State} {c : Nat} {f : Enc} {un : List Nat} (hfire : s.motion.fireCh ≠ c) (hdir : f.dir = 0)
    (htakes : Takes s F.qambig c idNone) : (s.setEnc c f).decoded c 2 un = (s.setEnc c f).fault F.qambig c := by
  have htouch : Touched (s.setEnc c f) ((s.setEnc c f).fault F.qambig c) := Takes.touched (takes_frame s _ _ _ _ rfl rfl htakes)
  refine decoded_unknown _ _ _ _ hdir ?_
  rw [htouch]
  exact hfire

/-! ### A step of the fire channel (R302, R305, R307) -/

/-- One step forward or backward. -/
def stepOf (forward : Bool) : Int := if forward then 1 else -1

/-- The time of a step is noted, and the web position before the first step of its TCLK (R307, R318). -/
def State.stepTimed (s : State) (was : Int) : State :=
  { s with motion := { s.motion with
      lastEdge := s.now, wAt := s.clk.tclk, wWas := if s.motion.wAt = s.clk.tclk then s.motion.wWas else was } }

/-- The parts of a step in their order. -/
theorem stepWeb_eq (s : State) (forward : Bool) (un : List Nat) : s.stepWeb (stepOf forward) un =
    (((((s.unitStep forward).stepTimed s.motion.w).velCheck.reverseCheck (stepOf forward)).reachWeb un).refine).refresh := by
  cases forward <;> rfl

/-- The velocity model is valid after 16 forward edges (R307). -/
theorem velCheck_touched (s : State) :
    Touched { s with motion := { s.motion with vValid := s.motion.vValid || decide (16 ≤ s.motion.vEdges) } } s.velCheck := by
  unfold State.velCheck
  split
  · next h =>
    rw [decide_eq_true h.2, Bool.or_true]
    exact refresh_touched _
  · next h =>
    have hkept : (s.motion.vValid || decide (16 ≤ s.motion.vEdges)) = s.motion.vValid := by
      cases hv : s.motion.vValid
      · simpa [hv] using h
      · rfl
    rw [hkept]
    exact .refl s

/-- The fire channel's record is `e`, the greatest web position `m` and the descriptors `l`. -/
def State.webAt (s : State) (e : Enc) (m : Int) (l : List Desc) : State :=
  { s with motion := { s.motion with enc := put s.motion.enc s.motion.fireCh e, wMax := m }, fire := { s.fire with descs := l } }

/-- What hits touch leaves what the step writes. -/
theorem Touched.webAt {s t : State} (h : Touched s t) (e : Enc) (m : Int) (l : List Desc) : Touched (s.webAt e m l) (t.webAt e m l) := by
  unfold State.webAt
  unfold Touched at *
  rw [h]

/-- The channels after it. -/
theorem enc_webAt (s : State) (e : Enc) (m : Int) (l : List Desc) (k : Nat) :
    (s.webAt e m l).enc k = if k = s.motion.fireCh then e else s.enc k := sel_put _ _ _ _ _

/-- Refined targets are the descriptors' (R190). -/
theorem refine_webAt (s : State) (e : Enc) (m : Int) (l : List Desc) : ∃ l', (s.webAt e m l).refine = s.webAt e m l' := ⟨_, rfl⟩

section Follows

variable {s : State} {e : Enc} {d : Int} (he : s.enc s.motion.fireCh = e) (hrev : s.motion.rev = false)
  (hwin : max e.maxPos (e.pos + d) - (e.pos + d) ≤ (s.par P.motionFireRevwin : Int))
  (hline : max s.motion.wMax s.motion.w / (s.lineLen : Int) = s.motion.wMax / (s.lineLen : Int))

include he hrev hwin hline

/-- A step that neither reverses nor reaches a line: the channel's distance and the greatest web position follow (R302, R305). -/
theorem web_follows (un : List Nat) : (s.reverseCheck d).reachWeb un =
    s.webAt { e with pos := e.pos + d, maxPos := max e.maxPos (e.pos + d) } (max s.motion.wMax s.motion.w) s.fire.descs := by
  subst he
  rw [reverse_none s d hwin]
  exact reachWeb_same (s.setEnc s.motion.fireCh _) un hrev hline

/-- So it does where hits have touched the state before; the targets are refined after it (R190). -/
theorem web_settles {t : State} (h : Touched s t) (un : List Nat) :
    ∃ l, Touched (s.webAt { e with pos := e.pos + d, maxPos := max e.maxPos (e.pos + d) } (max s.motion.wMax s.motion.w) l)
      (((t.reverseCheck d).reachWeb un).refine).refresh := by
  have hparams := h.fields.1
  have henc : t.enc t.motion.fireCh = e := by
    have hfire : t.motion.fireCh = s.motion.fireCh := by rw [h]
    rw [hfire, h.enc, he]
  have hw : t.motion.w = s.motion.w := by rw [h]
  have hwMax : t.motion.wMax = s.motion.wMax := by rw [h]
  have hfollows := web_follows (s := t) henc (by rw [h]; exact hrev) (by rwa [State.par, hparams]) (by rwa [hw, hwMax, lineLen_of s t hparams]) un
  rw [hw, hwMax] at hfollows
  rw [hfollows]
  obtain ⟨l, hrefined⟩ := refine_webAt t { e with pos := e.pos + d, maxPos := max e.maxPos (e.pos + d) } (max s.motion.wMax s.motion.w) t.fire.descs
  rw [hrefined]
  exact ⟨l, (h.webAt _ _ _).trans (refresh_touched _)⟩

end Follows

/-- The web has moved to `w` by one step with no correction under way, the model invalid before it (R302, R307). -/
def State.webStepped (s : State) (forward : Bool) (w : Int) (times : List (Nat × Int)) : State :=
  { s with motion := { s.motion with
      w := w, corr := [], trim := [], vSince := 0, vTimes := times
      vEdges := if forward then s.motion.vEdges + 1 else 0
      vValid := forward && decide (15 ≤ s.motion.vEdges)
      lastEdge := s.now, wAt := s.clk.tclk, wWas := if s.motion.wAt = s.clk.tclk then s.motion.wWas else s.motion.w } }

/-- A step of the fire channel that neither reverses nor reaches a line. -/
theorem stepWeb_moves {s : State} {forward : Bool} {e : Enc} {w : Int} (un : List Nat) (he : s.enc s.motion.fireCh = e) (hcorr : s.motion.corr = [])
    (htrim : s.motion.trim = []) (hvalid : s.motion.vValid = false) (hrev : s.motion.rev = false)
    (hw : w = s.motion.w + (if forward then (s.parLine (P.motionEncCountWu s.motion.fireCh) : Int) else -(s.parLine (P.motionEncCountWu s.motion.fireCh) : Int)))
    (hwin : max e.maxPos (e.pos + stepOf forward) - (e.pos + stepOf forward) ≤ (s.par P.motionFireRevwin : Int))
    (hline : max s.motion.wMax w / (s.lineLen : Int) = s.motion.wMax / (s.lineLen : Int)) :
    ∃ times l, Touched ((s.webStepped forward w times).webAt
      { e with pos := e.pos + stepOf forward, maxPos := max e.maxPos (e.pos + stepOf forward) } (max s.motion.wMax w) l) (s.stepWeb (stepOf forward) un) := by
  obtain ⟨times, hunit⟩ := unit_one s forward hcorr htrim hvalid
  rw [← hw] at hunit
  have hchecked : Touched (s.webStepped forward w times) ((s.unitStep forward).stepTimed s.motion.w).velCheck := by
    have hmodel : (forward && decide (15 ≤ s.motion.vEdges)) = (s.motion.vValid || decide (16 ≤ if forward then s.motion.vEdges + 1 else 0)) := by
      cases forward <;> simp [hvalid]
    unfold State.webStepped
    rw [hmodel, hunit]
    exact velCheck_touched _
  obtain ⟨l, hsettled⟩ := web_settles (s := s.webStepped forward w times) he hrev hwin hline hchecked un
  rw [stepWeb_eq]
  exact ⟨times, l, hsettled⟩

/-- Without a backup no distances are compared (R304). -/
theorem track_none {s : State} (h : s.backup = none) (c : Nat) (d : Int) : s.track c d = s := by
  unfold State.track
  rw [h]

/-- A count of the fire channel without a backup is a step of the web (R298, R304). -/
theorem moveCount_fire {s : State} {c : Nat} (hfire : s.motion.fireCh = c) (hbackup : s.backup = none) (x : Enc) (d : Int) (un : List Nat) :
    (s.setEnc c x).moveCount c d un = (s.setEnc c { x with count := BitVec.ofInt 32 ((x.count.toNat : Int) + d) }).stepWeb d un := by
  unfold State.moveCount
  dsimp only
  rw [enc_setEnc, if_pos rfl, setEnc_setEnc]
  generalize hu : State.setEnc s c _ = u
  have hfire' : u.motion.fireCh = c := by rw [← hu]; exact hfire
  have hbackup' : u.backup = none := by rw [← hu]; exact hbackup
  have hkept : (if u.backup = some c ∧ u.encState u.motion.fireCh = 2 then (u.setFire c).fault F.encSwitch 0 else u) = u :=
    if_neg (by rw [hbackup']; exact fun h => nomatch h.1)
  rw [hkept, track_none hbackup', if_pos hfire']

/-- A channel's record after a step in a known direction (R298). -/
def Enc.counted (f : Enc) (forward : Bool) : Enc :=
  { f with dir := if forward then 1 else 2, count := if forward then f.count + 1 else f.count - 1 }

/-- A step of the fire channel is counted and moves the web. -/
theorem decoded_fire {s : State} {c : Nat} (hfire : s.motion.fireCh = c) (hbackup : s.backup = none) (f : Enc) (forward : Bool) (un : List Nat) :
    (s.setEnc c f).decoded c (if forward then 1 else 3) un = (s.setEnc c (f.counted forward)).stepWeb (stepOf forward) un := by
  cases forward
  · exact (decoded_three s c f un).trans ((moveCount_fire hfire hbackup _ _ _).trans (by rw [cnt_sub]; rfl))
  · exact (decoded_one s c f un).trans ((moveCount_fire hfire hbackup _ _ _).trans (by rw [cnt_add]; rfl))

/-- A step of the fire channel that neither reverses nor reaches a line, the model invalid before it and no correction under way. -/
theorem encoderEdge_fire {dt c : Nat} {ch : Fin 4} {a b forward : Bool} {un : List (Fin 160)} {s : State} {e f : Enc} {w : Int} (hch : ch.val = c)
    (he : s.enc c = e) (hf : f = filteredEnc (s.pass dt).clk.tclk (s.par (P.motionEncFilter c)) e a b) (hstate : s.encState c = 1)
    (hfire : s.motion.fireCh = c) (hbackup : s.backup = none) (hcorr : s.motion.corr = []) (htrim : s.motion.trim = [])
    (hvalid : s.motion.vValid = false) (hrev : s.motion.rev = false)
    (hsteps : quadSteps (s.par (P.motionEncInvert c) == 1) e.a e.b f.a f.b = if forward then 1 else 3)
    (hw : w = s.motion.w + (if forward then (s.parLine (P.motionEncCountWu c) : Int) else -(s.parLine (P.motionEncCountWu c) : Int)))
    (hwin : max e.maxPos (e.pos + 1) - (e.pos - 1) ≤ (s.par P.motionFireRevwin : Int))
    (hline : max s.motion.wMax w / (s.lineLen : Int) = s.motion.wMax / (s.lineLen : Int)) :
    ∃ t, exec (.encoderEdge dt ch a b un) s = .next t ∧ t.motion.w = w ∧ t.motion.wMax = max s.motion.wMax w ∧
      (t.enc c).count = (if forward then e.count + 1 else e.count - 1) ∧ (t.enc c).dir = (if forward then 1 else 2) ∧
      t.motion.vEdges = (if forward then s.motion.vEdges + 1 else 0) ∧ t.motion.vValid = (forward && decide (15 ≤ s.motion.vEdges)) ∧
      t.motion.lastEdge = (s.pass dt).now ∧ (∀ k, k ≠ c → t.enc k = s.enc k) ∧
      Touched { s.pass dt with motion := t.motion, fire := { s.fire with descs := t.fire.descs } } t := by
  have hcount : f.count = e.count := by
    rw [hf]
    rfl
  have hrecord : ∀ k, ((s.pass dt).setEnc c (f.counted forward)).enc k = if k = c then f.counted forward else s.enc k := fun k => enc_setEnc _ _ _ _
  have hwin' : max e.maxPos (e.pos + stepOf forward) - (e.pos + stepOf forward) ≤ (s.par P.motionFireRevwin : Int) := by
    cases forward <;> simp only [stepOf, if_true, if_false, Bool.false_eq_true] <;> omega
  subst hfire
  obtain ⟨times, l, htouch⟩ := stepWeb_moves (s := (s.pass dt).setEnc s.motion.fireCh (f.counted forward)) (forward := forward) (e := f.counted forward)
    (un.map Fin.val) ((hrecord _).trans (if_pos rfl)) hcorr htrim hvalid hrev hw (by rw [hf]; exact hwin') hline
  have hrow := (encoderEdge_ok hch he hf hstate hsteps).trans
    (congrArg _ (decoded_fire (s := s.pass dt) (c := s.motion.fireCh) rfl hbackup f forward (un.map Fin.val)))
  refine ⟨_, hrow, ?_⟩
  generalize State.stepWeb _ _ _ = t at htouch ⊢
  have henc : ∀ k, t.enc k = if k = s.motion.fireCh then { f.counted forward with
      pos := f.pos + stepOf forward, maxPos := max f.maxPos (f.pos + stepOf forward) } else s.enc k := fun k => by
    refine (htouch.enc k).trans ((enc_webAt _ _ _ _ k).trans ?_)
    by_cases hk : k = s.motion.fireCh
    · rw [if_pos hk]
      exact if_pos hk
    · rw [if_neg hk]
      exact (if_neg hk).trans ((hrecord k).trans (if_neg hk))
  have hweb : t.motion.w = w ∧ t.motion.wMax = max s.motion.wMax w := by
    rw [htouch]
    exact ⟨rfl, rfl⟩
  have hmodel : t.motion.vEdges = (if forward then s.motion.vEdges + 1 else 0) ∧ t.motion.vValid = (forward && decide (15 ≤ s.motion.vEdges)) ∧
      t.motion.lastEdge = (s.pass dt).now := by
    rw [htouch]
    exact ⟨rfl, rfl, rfl⟩
  obtain ⟨hwNew, hwMax⟩ := hweb
  obtain ⟨hedges, hvalidNew, hlast⟩ := hmodel
  refine ⟨hwNew, hwMax, ?_, ?_, hedges, hvalidNew, hlast, ?_, ?_⟩
  · rw [henc, if_pos rfl, ← hcount]
    rfl
  · rw [henc, if_pos rfl]
    rfl
  · exact fun k hk => (henc k).trans (if_neg hk)
  · unfold Touched at *
    rw [htouch]
    rfl

/-! ### The statement -/

/-- Settles O29: a channel that is not OK takes its levels alone; the others by what the decoder makes of their steps, the fire channel by what a step makes of
the web. -/
theorem encodersCount : Obligations.EncodersCount := by
  unfold Obligations.EncodersCount
  refine ⟨fun _ _ _ _ _ _ _ _ _ => encoderEdge_notOk, ?forward, ?backward, ?still, ?skip, ?ambiguous, ?fire⟩
  case forward =>
    intro dt c ch a b un s e f hch he hf hstate hfire hbackup hsteps
    rw [encoderEdge_ok hch he hf hstate hsteps, decoded_forward (s := s.pass dt) hfire hbackup, hf]
    rfl
  case backward =>
    intro dt c ch a b un s e f hch he hf hstate hfire hbackup hsteps
    rw [encoderEdge_ok hch he hf hstate hsteps, decoded_backward (s := s.pass dt) hfire hbackup, hf]
    rfl
  case still => exact fun dt c ch a b un s e f hch he hf hstate hsteps => encoderEdge_ok hch he hf hstate hsteps
  case skip =>
    intro dt c ch a b un s e f hch he hf hstate hfire hbackup hsteps hdir htakes
    have hdir' : f.dir = e.dir := by rw [hf]; rfl
    have hcount : f.count = e.count := by rw [hf]; rfl
    have htakes' : Takes (s.pass dt) F.qskip c idNone := takes_frame s _ _ _ _ rfl rfl htakes
    have hskips := decoded_skips (s := s.pass dt) (un := un.map Fin.val) hfire hbackup (hdir'.symm ▸ hdir) htakes'
    rw [hdir', hcount] at hskips
    exact ⟨_, _, (encoderEdge_ok hch he hf hstate hsteps).trans (congrArg _ hskips), fault_recorded (takes_frame s _ _ _ _ rfl rfl htakes), by rw [hdir']⟩
  case ambiguous =>
    intro dt c ch a b un s e f hch he hf hstate hfire hsteps hdir htakes
    have hdir' : f.dir = 0 := by rw [hf]; exact hdir
    have htakes' : Takes (s.pass dt) F.qambig c idNone := takes_frame s _ _ _ _ rfl rfl htakes
    exact ⟨_, (encoderEdge_ok hch he hf hstate hsteps).trans (congrArg _ (decoded_ambiguous (s := s.pass dt) hfire hdir' htakes')),
      fault_recorded (takes_frame s _ _ _ _ rfl rfl htakes)⟩
  case fire =>
    intro dt c d ch a b un s e f w hch he hf hstate hfire hbackup hcorr htrim hvalid hrev hsteps hd hw hwin hline
    obtain rfl | rfl := hd
    · exact encoderEdge_fire (forward := true) hch he hf hstate hfire hbackup hcorr htrim hvalid hrev hsteps hw hwin hline
    · exact encoderEdge_fire (forward := false) hch he hf hstate hfire hbackup hcorr htrim hvalid hrev hsteps hw hwin hline

end Sys2Proof.Machine
end

section
/-!
Wire disagreements and the index (R297, R300, R301, R304): what lasts and what ends of a disagreement, what an index captures, and what its comparison with the
reference records.
-/
namespace Sys2Proof.Machine

/-! ### Wire disagreements (R297) -/

section Wire

variable {dt held : Nat} {ch : Fin 4} {wire : Fin 3} {s : State}

/-- A disagreement of a channel that is OFF, or a short one, is none. -/
theorem encWire_early (h : s.par (P.motionEncEnable ch.val) = 0 ∨ held < s.par (P.motionEncWireTclk ch.val)) :
    exec (.encWire dt ch wire held) s = .next (s.pass dt) := if_pos h

/-- A disagreement that lasts is listed and raised; one of A or B makes the channel FAILED. -/
theorem encWire_lasts (hon : s.par (P.motionEncEnable ch.val) ≠ 0) (hheld : s.par (P.motionEncWireTclk ch.val) ≤ held)
    (hnew : (s.src F.encWire).conds.contains (BitVec.ofNat 32 (4 * ch.val + wire.val)) = false) :
    exec (.encWire dt ch wire held) s = .next (((s.pass dt).setEnc ch.val { s.enc ch.val with
      wires := addTo (s.enc ch.val).wires wire.val
      failed := (s.enc ch.val).failed || wire.val != 2 }).fault F.encWire (4 * ch.val + wire.val)).lostCheck := by
  refine (if_neg fun h => h.elim hon (Nat.not_lt.2 hheld)).trans ?_
  rw [raise_new (s := (s.pass dt).setEnc ch.val _) hnew]
  rfl

end Wire

/-! ### The index (R300, R301) -/

/-- What an index captures of its channel at the time `s`. -/
def Enc.captured (e : Enc) (s : State) : Enc := { e with idxCount := e.count, idxT32 := s.t32, idxLink := s.link, zAt := s.clk.tclk }

/-- The circumference correction of a drift on the fire channel (R301). -/
def State.driftCorrected (s : State) (c : Nat) (dev : Int) : State :=
  if s.par (P.motionEncIndexCorrect c) = 1 ∧ s.motion.fireCh = c then
    { s with motion := { s.motion with corr := s.motion.corr ++ [{ total := dev * s.parLine (P.motionEncCountWu c), span := 1024 }] } }
  else s

/-- A correction reads of the state what hits leave. -/
theorem driftCorrected_touched {s t : State} (h : Touched s t) (c : Nat) (dev : Int) : t.driftCorrected c dev =
    if s.par (P.motionEncIndexCorrect c) = 1 ∧ s.motion.fireCh = c then
      { t with motion := { t.motion with corr := s.motion.corr ++ [{ total := dev * s.parLine (P.motionEncCountWu c), span := 1024 }] } }
    else t := by
  have hfire : t.motion.fireCh = s.motion.fireCh := by rw [h]
  have hcorr : t.motion.corr = s.motion.corr := by rw [h]
  unfold State.driftCorrected State.par State.parLine
  rw [hfire, hcorr, h.fields.1]

/-- A reference within two revolutions is compared. -/
theorem indexCounts_some {cpr : Nat} {r count : BitVec 32} (hcpr : cpr ≠ 0) (hnear : (count - r).toInt.natAbs ≤ 2 * cpr) :
    indexCounts cpr (some r) count = some (count - r).toInt := if_neg fun h => h.elim hcpr (Nat.not_lt.2 hnear)

section Index

variable {dt c : Nat} {ch : Fin 4} {s : State} {e : Enc}

/-- An index of a channel that is not OK, with a disagreement on Z, or too soon for the filter, is ignored. -/
theorem indexEdge_ignored (hch : ch.val = c) (h : s.encState c ≠ 1 ∨ (s.enc c).wires.contains 2 = true ∨
    (s.pass dt).clk.tclk < (s.enc c).zAt + 2 * (s.par (P.motionEncFilter c) + 1)) : exec (.indexEdge dt ch) s = .next (s.pass dt) := by
  subst hch
  exact if_pos h

variable (hch : ch.val = c) (he : s.enc c = e) (hok : s.encState c = 1) (hwire : e.wires.contains 2 = false)
  (hfilter : e.zAt + 2 * (s.par (P.motionEncFilter c) + 1) ≤ (s.pass dt).clk.tclk)

include hch he hok hwire hfilter

/-- Any other is taken. -/
theorem indexEdge_taken : ¬((s.pass dt).encState ch.val ≠ 1 ∨ ((s.pass dt).enc ch.val).wires.contains 2 = true ∨
    (s.pass dt).clk.tclk < ((s.pass dt).enc ch.val).zAt + 2 * ((s.pass dt).par (P.motionEncFilter ch.val) + 1)) := by
  subst hch he
  rintro (h | h | h)
  · exact h hok
  · exact Bool.false_ne_true (hwire.symm.trans h)
  · exact absurd hfilter (Nat.not_le.2 h)

/-- An index that is not reached forward is captured alone. -/
theorem indexEdge_captures (hdir : e.dir ≠ 1) : exec (.indexEdge dt ch) s = .next ((s.pass dt).setEnc c (e.captured (s.pass dt))) := by
  refine (if_neg (indexEdge_taken hch he hok hwire hfilter)).trans ?_
  subst hch he
  exact if_pos hdir

section Forward

variable {cpr : Nat} (hdir : e.dir = 1) (hcpr : s.par (P.motionEncCpr c) = cpr)

include hdir hcpr

/-- One reached forward becomes the reference. -/
theorem indexEdge_first (hnone : indexCounts cpr e.ref e.count = none) : exec (.indexEdge dt ch) s =
    .next ((s.pass dt).setEnc c { e.captured (s.pass dt) with ref := if cpr = 0 then none else some e.count }) := by
  refine (if_neg (indexEdge_taken hch he hok hwire hfilter)).trans ?_
  subst hch he hcpr
  refine (if_neg (fun hne => hne hdir)).trans ?_
  dsimp only
  split
  · rw [enc_setEnc, if_pos rfl, setEnc_setEnc]
    rfl
  · next hsome => exact nomatch hnone.symm.trans hsome

/-- Against an earlier reference its deviation is judged. -/
theorem indexEdge_compares {n : Int} (hsome : indexCounts cpr e.ref e.count = some n) :
    exec (.indexEdge dt ch) s = .next (
      let u := (s.pass dt).setEnc c { e.captured (s.pass dt) with ref := if cpr = 0 then none else some e.count, dev := n - cpr }
      if (n - cpr).natAbs ≤ s.par (P.motionEncIndexTol c) then (u.fault F.indexDrift c).driftCorrected c (n - cpr) else u.fault F.indexSlip c) := by
  refine (if_neg (indexEdge_taken hch he hok hwire hfilter)).trans ?_
  subst hch he hcpr
  refine (if_neg (fun hne => hne hdir)).trans ?_
  dsimp only
  split
  · next hnone => exact nomatch hsome.symm.trans hnone
  · next m hm =>
    obtain rfl : n = m := Option.some.inj (hsome.symm.trans hm)
    simp only [enc_setEnc, if_true, setEnc_setEnc]
    unfold State.driftCorrected
    rw [apply_ite Host.Outcome.next, apply_ite Host.Outcome.next]
    rfl

end Forward

end Index

/-! ### The statement -/

/-- Settles O30: a disagreement by what it raises and lowers, an index by what it captures and what its comparison records. -/
theorem encoderFaultsAndIndex : Obligations.EncoderFaultsAndIndex := by
  unfold Obligations.EncoderFaultsAndIndex
  refine ⟨fun _ _ _ _ _ => encWire_early, ?lasts, ?ends, fun _ _ _ _ => indexEdge_ignored, fun _ _ _ _ _ => indexEdge_captures, ?first, ?drift, ?slip⟩
  case lasts =>
    intro dt c held ch wire s e hch he hon hheld htakes hnew
    subst hch he
    exact ⟨_, _, encWire_lasts hon hheld hnew, fault_recorded (takes_frame s _ _ _ _ rfl rfl htakes), rfl⟩
  case ends =>
    intro dt c ch wire s e hch he
    subst hch he
    exact ⟨_, rfl, rfl⟩
  case first => exact fun dt c cpr ch s e hch he hok hwire hfilter hdir hcpr hnone => indexEdge_first hch he hok hwire hfilter hdir hcpr hnone
  case drift =>
    intro dt c cpr ch s e r dev hch he hok hwire hfilter hdir hcpr hne href hnear hdev htol htakes
    subst hdev
    have hrow := indexEdge_compares hch he hok hwire hfilter hdir hcpr (by rw [href]; exact indexCounts_some hne hnear)
    dsimp only at hrow
    rw [if_neg hne, if_pos htol] at hrow
    have htakes' : Takes ((s.pass dt).setEnc c { e.captured (s.pass dt) with ref := some e.count, dev := (e.count - r).toInt - cpr }) F.indexDrift c idNone :=
      takes_frame s _ _ _ _ rfl rfl htakes
    exact ⟨_, _, hrow, fault_recorded htakes', driftCorrected_touched htakes'.touched c _⟩
  case slip =>
    intro dt c cpr ch s e r dev hch he hok hwire hfilter hdir hcpr hne href hnear hdev htol htakes
    subst hdev
    have hrow := indexEdge_compares hch he hok hwire hfilter hdir hcpr (by rw [href]; exact indexCounts_some hne hnear)
    dsimp only at hrow
    rw [if_neg hne, if_neg (Nat.not_le.2 htol)] at hrow
    exact ⟨_, hrow, fault_recorded (takes_frame s _ _ _ _ rfl rfl htakes)⟩

end Sys2Proof.Machine
end

section
/-!
Print marks, the velocity stop and the ceiling's messages (R307, R309 to R311, R315, R317): which edges are marks, what an accepted and a flywheel mark leave, the
datagrams of a period, and the press that ignores the ceiling.
-/
namespace Sys2Proof.Machine

/-! ### Edges of a mark input (R309, R310) -/

/-- What hits touch leaves the mark inputs. -/
theorem Touched.mark {s t : State} (h : Touched s t) (k : Nat) : t.mark k = s.mark k := by
  rw [State.mark, h]
  rfl

/-- A mark of a LOCKED input outside its window is none (R310). -/
def State.strayMark (s : State) (k : Nat) (x : Mark) : Bool :=
  x.locked && (match x.expect with | some e => !s.inMarkWindow k e | none => false)

/-- An input after an accepted mark, before its capture (R310). -/
def State.acceptedMark (s : State) (k : Nat) (x : Mark) : Mark :=
  { x with edgeAt := s.clk.tclk, run := x.run + 1, fly := 0, locked := x.locked || decide (s.par (P.motionMarkLockMarks k) ≤ x.run + 1) }

section Edge

variable {dt k : Nat} {m : Fin 4} {rising : Bool} {s : State} {x : Mark} (hm : m.val = k) (hx : s.mark k = x)

include hm hx

/-- An edge of an input that is OFF, or too soon after the last, is none. -/
theorem markEdge_early (h : s.par (P.motionMarkEnable k) = 0 ∨ (s.pass dt).clk.tclk < x.edgeAt + s.par (P.motionMarkFilter k) + 1) :
    exec (.markEdge dt m rising) s = .next (s.pass dt) := by
  subst hm hx
  exact if_pos h

variable (hon : s.par (P.motionMarkEnable k) ≠ 0) (hfilter : x.edgeAt + s.par (P.motionMarkFilter k) + 1 ≤ (s.pass dt).clk.tclk)

include hon hfilter

/-- An edge of the other polarity is no mark. -/
theorem markEdge_other (hpol : s.par (P.motionMarkPolarity k) = if rising then 1 else 0) :
    exec (.markEdge dt m rising) s = .next ((s.pass dt).setMark k { x with edgeAt := (s.pass dt).clk.tclk }) := by
  subst hm hx
  refine (if_neg fun h => h.elim hon (Nat.not_lt.2 hfilter)).trans (if_pos ?_)
  show rising = (s.par (P.motionMarkPolarity m.val) == 1)
  rw [hpol]
  cases rising <;> rfl

/-- One of the selected polarity is a mark: a stray one is spurious, any other is taken. -/
theorem markEdge_mark (hpol : s.par (P.motionMarkPolarity k) = if rising then 0 else 1) : exec (.markEdge dt m rising) s = .next (
    if (s.pass dt).strayMark k x then (s.pass dt).setMark k { x with edgeAt := (s.pass dt).clk.tclk, spur := sat 32 (x.spur + 1) }
    else (((s.pass dt).setMark k ((s.pass dt).acceptedMark k x)).takeMark k s.motion.w false).trimMark k s.motion.w) := by
  subst hm hx
  refine (if_neg fun h => h.elim hon (Nat.not_lt.2 hfilter)).trans ((if_neg ?_).trans ?_)
  · show ¬rising = (s.par (P.motionMarkPolarity m.val) == 1)
    rw [hpol]
    cases rising <;> decide
  · simp only [mark_setMark, if_true, setMark_setMark]
    rw [apply_ite Host.Outcome.next]
    rfl

end Edge

/-- A mark of a LOCKED input beyond its window in either sample is stray. -/
theorem strayMark_outside {s : State} {k win : Nat} {x : Mark} {e : Int} (hlocked : x.locked = true) (hexpect : x.expect = some e)
    (hwin : s.par (P.motionMarkWindowWu k) * wuUnit = win) (hnow : win < (s.motion.w - e).natAbs)
    (hwas : s.motion.wAt = s.clk.tclk → win < (s.motion.wWas - e).natAbs) : s.strayMark k x = true := by
  have hout : s.inMarkWindow k e = false := by
    unfold State.inMarkWindow
    dsimp only
    rw [hwin, decide_eq_false (Nat.not_le.2 hnow), Bool.false_or]
    by_cases hat : s.motion.wAt = s.clk.tclk
    · rw [decide_eq_false (Nat.not_le.2 (hwas hat)), Bool.and_false]
    · rw [beq_false_of_ne hat, Bool.false_and]
  unfold State.strayMark
  rw [hlocked, hexpect]
  dsimp only
  rw [hout]
  rfl

/-- In SEARCH, and within the window in either sample, it is not. -/
theorem strayMark_inside {s : State} {k win : Nat} {x : Mark} (hwin : s.par (P.motionMarkWindowWu k) * wuUnit = win)
    (h : x.locked = false ∨ ∀ e, x.expect = some e → (s.motion.w - e).natAbs ≤ win ∨ (s.motion.wAt = s.clk.tclk ∧ (s.motion.wWas - e).natAbs ≤ win)) :
    s.strayMark k x = false := by
  unfold State.strayMark
  obtain hsearch | hin := h
  · rw [hsearch, Bool.false_and]
  · cases hexpect : x.expect with
    | none => exact Bool.and_false _
    | some e =>
      have hwindow : s.inMarkWindow k e = true := by
        unfold State.inMarkWindow
        dsimp only
        rw [hwin]
        simpa using hin e hexpect
      dsimp only
      rw [hwindow]
      exact Bool.and_false _

/-! ### What a mark leaves (R309 to R312) -/

/-- The capture of a mark: its record, the next expectation and the splices that count it, before the forecast. -/
def State.markCounted (s : State) (k : Nat) (x : Mark) (w : Int) (fly : Bool) : State :=
  (s.setMark k { x with
    last := ({ datum := BitVec.ofNat 32 (s.datumOf k w), t32 := s.t32, fly := fly } :: x.last).take 4
    expect := some (w + (s.par (P.motionMarkPitchWu k) * wuUnit : Nat)) }).countMark k (s.datumOf k w)

/-- A mark is captured and the forecast follows. -/
theorem takeMark_eq (s : State) (k : Nat) (x : Mark) (w : Int) (fly : Bool) :
    (s.setMark k x).takeMark k w fly = (s.markCounted k x w fly).forecast := by
  unfold State.takeMark
  dsimp only
  rw [mark_setMark, if_pos rfl, setMark_setMark]
  rfl

/-- Without trim, or with no run at the datum, a mark moves the web no further (R312). -/
theorem trimMark_idle {s : State} {k : Nat} (h : s.par (P.motionMarkTrim k) = 0 ∨ s.datumRun = none) (w : Int) : s.trimMark k w = s := by
  unfold State.trimMark
  split
  · rfl
  · next hon =>
    have hnone : s.regError k w = none := by
      unfold State.regError
      rw [h.resolve_left hon]
    rw [hnone]

/-- What the forecast after a mark touches. -/
theorem markCounted_kept {s : State} (k : Nat) (x : Mark) (w : Int) (fly : Bool) (hcalm : Calm s F.hopperLow) :
    RingsKept { s.markCounted k x w fly with motion := { (s.markCounted k x w fly).motion with hopper := (s.markCounted k x w fly).hopperForecast } }
      (s.markCounted k x w fly).forecast := (forecast_law (s.markCounted k x w fly) (hcalm.of_params rfl)).1

/-- An accepted mark that trims nothing leaves the forecast's state. -/
theorem markCounted_untrimmed {s : State} {k : Nat} (x : Mark) (w : Int) (hcalm : Calm s F.hopperLow)
    (htrim : s.par (P.motionMarkTrim k) = 0 ∨ s.datumRun = none) :
    (s.markCounted k x w false).forecast.trimMark k w = (s.markCounted k x w false).forecast := by
  obtain ⟨htouch, -⟩ := markCounted_kept k x w false hcalm
  refine trimMark_idle ?_ w
  generalize (s.markCounted k x w false).forecast = t at htouch ⊢
  have hparams : t.params = s.params := htouch.fields.1
  rw [State.par, hparams, datumRun_of s t hparams (by rw [htouch]; rfl) (by rw [htouch]; rfl)]
  exact htrim

/-- An accepted mark is captured, counted and forecast. -/
theorem markEdge_accepts {dt k win : Nat} {m : Fin 4} {rising : Bool} {s : State} {x : Mark} (hm : m.val = k) (hon : s.par (P.motionMarkEnable k) ≠ 0)
    (hx : s.mark k = x) (hfilter : x.edgeAt + s.par (P.motionMarkFilter k) + 1 ≤ (s.pass dt).clk.tclk)
    (hpol : s.par (P.motionMarkPolarity k) = if rising then 0 else 1) (hwin : s.par (P.motionMarkWindowWu k) * wuUnit = win)
    (hinside : x.locked = false ∨ ∀ e, x.expect = some e → (s.motion.w - e).natAbs ≤ win ∨
      (s.motion.wAt = (s.pass dt).clk.tclk ∧ (s.motion.wWas - e).natAbs ≤ win))
    (htrim : s.par (P.motionMarkTrim k) = 0 ∨ s.datumRun = none) (hcalm : Calm s F.hopperLow) :
    exec (.markEdge dt m rising) s = .next ((s.pass dt).markCounted k ((s.pass dt).acceptedMark k x) s.motion.w false).forecast := by
  rw [markEdge_mark hm hx hon hfilter hpol, if_neg (by rw [strayMark_inside (s := s.pass dt) hwin hinside]; exact Bool.false_ne_true), takeMark_eq,
    markCounted_untrimmed (s := s.pass dt) _ _ (hcalm.of_params rfl) htrim]

/-! ### Flywheel marks (R311) -/

/-- The flywheel marks of an input are `n`; with trim its error is 0 (R312). -/
def State.flown (s : State) (k n : Nat) : State :=
  s.setMark k { s.mark k with fly := n, err := if s.par (P.motionMarkTrim k) = 1 then 0 else (s.mark k).err }

/-- The two writes of a flywheel mark are one. -/
theorem flown_eq (s : State) (k n : Nat) :
    (if s.par (P.motionMarkTrim k) = 1 then s.setMark k { s.mark k with err := 0 } else s).setMark k
      { (if s.par (P.motionMarkTrim k) = 1 then s.setMark k { s.mark k with err := 0 } else s).mark k with fly := n } = s.flown k n := by
  unfold State.flown
  split
  · rw [mark_setMark, if_pos rfl, setMark_setMark]
  · rfl

section Flywheel

variable {dt k : Nat} {m : Fin 4} {s : State} {x : Mark} {e : Int} (hm : m.val = k) (hx : s.mark k = x) (hexpect : x.expect = some e)

include hm hx hexpect

/-- With a mark in the sample, an input that is not LOCKED, or a window that has not passed, no flywheel mark stands. -/
theorem markWindowEnd_idle {mark : Bool} (h : mark = true ∨ s.par (P.motionMarkEnable k) = 0 ∨ x.locked = false ∨
    s.motion.w ≤ e + (s.par (P.motionMarkWindowWu k) * wuUnit : Nat)) : exec (.markWindowEnd dt m mark) s = .next (s.pass dt) := by
  subst hm hx
  have hnow : ((s.pass dt).mark m.val).expect = some e := hexpect
  show execMarkWindowEnd dt m s mark = _
  unfold execMarkWindowEnd
  dsimp only
  rw [hnow]
  exact if_pos (h.imp_right (Or.imp_right (Or.imp_left fun hsearch => congrArg Bool.not hsearch)))

/-- A window that has passed takes a flywheel mark at the expectation and records MARK_MISSING; before `flywheel_max` in a row the input stays LOCKED. -/
theorem markWindowEnd_flies (hon : s.par (P.motionMarkEnable k) ≠ 0) (hlocked : x.locked = true)
    (hpassed : e + (s.par (P.motionMarkWindowWu k) * wuUnit : Nat) < s.motion.w) (hfew : x.fly + 1 < s.par (P.motionMarkFlywheelMax k))
    (hcalm : Calm s F.hopperLow) (hmissing : Calm s F.markMissing) :
    exec (.markWindowEnd dt m false) s = .next ((((s.pass dt).takeMark k e true).flown k (x.fly + 1)).fault F.markMissing k) := by
  subst hm hx
  have hnow : ((s.pass dt).mark m.val).expect = some e := hexpect
  obtain ⟨-, -, hparams, -⟩ := takeMark_law (s.pass dt) m.val e true (hcalm.of_params rfl)
  show execMarkWindowEnd dt m s false = _
  unfold execMarkWindowEnd
  dsimp only
  rw [hnow]
  refine (if_neg ?_).trans ?_
  · rintro (h | h | h | h)
    · exact Bool.false_ne_true h
    · exact hon h
    · exact Bool.false_ne_true ((congrArg Bool.not hlocked).symm.trans h)
    · exact absurd hpassed (Int.not_lt.2 h)
  · generalize (s.pass dt).takeMark m.val e true = u at hparams ⊢
    rw [flown_eq]
    have htouch := fault_touched (u.flown m.val (((s.pass dt).mark m.val).fly + 1)) F.markMissing m.val (hmissing.of_params hparams)
    refine if_pos ?_
    rw [State.par, htouch.fields.1]
    show _ < sel u.params.acc _ _
    rw [hparams]
    exact hfew

end Flywheel

/-! ### The velocity stop (R307) -/

/-- An edge within `stop_ms` keeps the velocity model. -/
theorem velocityStop_early {dt : Nat} {s : State} (h : (s.pass dt).now < s.motion.lastEdge + s.par P.motionVelStopMs * perMs) :
    exec (.velocityStop dt) s = .next (s.pass dt) := if_pos h

/-- None makes it invalid; the web position stays. -/
theorem velocityStop_stops {dt : Nat} {s : State} (h : s.motion.lastEdge + s.par P.motionVelStopMs * perMs ≤ (s.pass dt).now) :
    ∃ t, exec (.velocityStop dt) s = .next t ∧ t.motion.w = s.motion.w ∧ t.motion.wMax = s.motion.wMax ∧ Touched (s.pass dt).unmodelled t := by
  have htouch := invalidate_touched (s.pass dt)
  refine ⟨_, if_neg (Nat.not_lt.2 h), ?_, ?_, htouch⟩
  · rw [htouch]
    rfl
  · rw [htouch]
    rfl

/-! ### The ceiling's messages (R315) -/

/-- The `i`-th datagram from now, on port `p`. -/
def State.ceilDatagram (s : State) (i p : Nat) : Output :=
  .datagram p (BitVec.ofNat 48 (s.par P.motionMsgIp * 65536 + s.par P.motionMsgUdpPort))
    ({ s with motion := { s.motion with seq := s.motion.seq + BitVec.ofNat 32 i } } : State).ceilMsg

/-- The datagrams of several ports leave in order, each with the next sequence. -/
theorem foldl_sendCeilOn (ports : List Nat) (s : State) : ports.foldl State.sendCeilOn s = { s with
    motion := { s.motion with seq := s.motion.seq + BitVec.ofNat 32 ports.length }
    out := (ports.mapIdx s.ceilDatagram).reverse ++ s.out } := by
  induction ports using List.reverseRecOn with
  | nil => rw [List.foldl_nil, List.length_nil, BitVec.add_zero]; rfl
  | append_singleton ports p ih =>
    rw [List.foldl_append, ih, List.mapIdx_concat, List.length_append, BitVec.ofNat_add, ← BitVec.add_assoc, List.reverse_append]
    rfl

/-- The period's datagrams, one for each selected port. -/
theorem ceilingMessagePeriod_sends {dt : Nat} {s : State} (hdue : s.motion.msgAt + s.par P.motionMsgPeriodMs * perMs ≤ (s.pass dt).now)
    (hon : s.par P.motionMsgEnable ≠ 0) : exec (.ceilingMessagePeriod dt) s = .next { s.pass dt with
      motion := { s.motion with msgAt := (s.pass dt).now, seq := s.motion.seq + BitVec.ofNat 32 (unmask 2 (s.par P.motionMsgPortMask)).length }
      out := ((unmask 2 (s.par P.motionMsgPortMask)).mapIdx s.ceilDatagram).reverse ++ s.out } := by
  refine (if_neg (Nat.not_lt.2 hdue)).trans (congrArg _ ((if_neg hon).trans ?_))
  exact foldl_sendCeilOn _ _

/-- The `i`-th of the datagrams that left newest first. -/
theorem getElem?_sent {l : List Nat} {f : Nat → Nat → Output} {out : List Output} {i p : Nat} (h : l[i]? = some p) :
    ((l.mapIdx f).reverse ++ out)[l.length - 1 - i]? = some (f i p) := by
  have hi : i < l.length := (List.getElem?_eq_some_iff.1 h).1
  rw [List.getElem?_append_left (by rw [List.length_reverse, List.length_mapIdx]; omega),
    List.getElem?_reverse (by rw [List.length_mapIdx]; omega), List.length_mapIdx, Nat.sub_sub_self (by omega), List.getElem?_mapIdx, h]
  rfl

/-! ### The press ignores the ceiling (R317) -/

section Ignored

variable {dt : Nat} {s : State}

/-- A measured rate above the ceiling and its tolerance, `stop_ms` after the ceiling last fell, is recorded. -/
theorem ceilingIgnored_records (hfast : s.ceiling * (1000 + s.par P.motionCeilingOverTolPm) < s.lps * 1000)
    (hlate : s.motion.fellAt + s.par P.motionCeilingStopMs * perMs < (s.pass dt).now) :
    exec (.ceilingIgnored dt) s = .next ((s.pass dt).fault F.ceilingIgnored 0) := if_pos ⟨hfast, hlate⟩

/-- A rate within the tolerance, or an earlier one, is not. -/
theorem ceilingIgnored_keeps (h : s.lps * 1000 ≤ s.ceiling * (1000 + s.par P.motionCeilingOverTolPm) ∨
    (s.pass dt).now ≤ s.motion.fellAt + s.par P.motionCeilingStopMs * perMs) : exec (.ceilingIgnored dt) s = .next (s.pass dt) :=
  if_neg fun ⟨hfast, hlate⟩ => h.elim (Nat.not_le.2 hfast) (Nat.not_le.2 hlate)

end Ignored

/-! ### The statement -/

/-- Settles O31: an edge by whether it is a mark and where it falls, a passed window by its flywheel mark, the velocity stop by the invalid model, a period by
the datagrams of its ports. -/
theorem marksVelocityAndCeiling : Obligations.MarksVelocityAndCeiling := by
  unfold Obligations.MarksVelocityAndCeiling
  refine ⟨fun dt k m rising s x hm hx => ⟨markEdge_early hm hx, markEdge_other hm hx⟩, ?stray, ?accepted, ?idle, ?flywheel,
    fun dt s => velocityStop_early, fun dt s => velocityStop_stops, fun dt s hearly => if_pos hearly, ?silent, ?sends, ?ignored,
    fun dt s => ceilingIgnored_keeps⟩
  case stray =>
    intro dt k win m rising s x e hm hon hx hfilter hpol hlocked hexpect hwin hnow hwas
    rw [markEdge_mark hm hx hon hfilter hpol, if_pos (strayMark_outside (s := s.pass dt) hlocked hexpect hwin hnow hwas)]
  case accepted =>
    intro dt k win m rising s x hm hon hx hfilter hpol hwin hinside htrim hcalm
    exact ⟨_, (s.pass dt).markCounted k ((s.pass dt).acceptedMark k x) s.motion.w false, (s.pass dt).datumOf k s.motion.w,
      markEdge_accepts hm hon hx hfilter hpol hwin hinside htrim hcalm, rfl, rfl, markCounted_kept k _ _ false (hcalm.of_params rfl)⟩
  case idle => exact fun dt k m s x e mark hm hx hexpect hidle => markWindowEnd_idle hm hx hexpect hidle
  case flywheel =>
    intro dt k m s x e hm hx hexpect hon hlocked hpassed hfew hcalm htakes
    obtain ⟨hmark, hothers, hparams, hw, hfire, hkept⟩ := takeMark_law (s.pass dt) k e true (hcalm.of_params rfl)
    have hrow := markWindowEnd_flies (dt := dt) hm hx hexpect hon hlocked hpassed hfew hcalm htakes.calm
    generalize (s.pass dt).takeMark k e true = u at hmark hothers hparams hw hfire hkept hrow
    have htakes' : Takes (u.flown k (x.fly + 1)) F.markMissing k idNone :=
      takes_frame u _ _ _ _ rfl rfl (hkept _ _ _ (takes_frame s _ _ _ _ rfl rfl htakes))
    obtain ⟨hsticky, -⟩ := fault_recorded htakes'
    have htouch := htakes'.touched
    have htrim : u.par (P.motionMarkTrim k) = s.par (P.motionMarkTrim k) := by
      rw [State.par, hparams]
      rfl
    have hmarks : ∀ j, (u.flown k (x.fly + 1)).mark j = if j = k then _ else u.mark j := fun j => mark_setMark _ _ _ _
    generalize (u.flown k (x.fly + 1)).fault F.markMissing k = t at hrow hsticky htouch
    refine ⟨t, hrow, hsticky, ?_, fun j hj => ?_, ?_, ?_⟩
    · rw [htouch.mark, hmarks, if_pos rfl, htrim, hmark]
      subst hx
      rfl
    · rw [htouch.mark, hmarks, if_neg hj]
      exact hothers j hj
    · rw [htouch]
      exact hw
    · rw [htouch]
      exact hfire
  case silent => exact fun dt s hdue hoff => (if_neg (Nat.not_lt.2 hdue)).trans (congrArg _ (if_pos hoff))
  case sends =>
    intro dt n s ports hdue hon hports hn
    subst hports hn
    refine ⟨_, ceilingMessagePeriod_sends hdue hon, rfl, ?_, fun i p hi => ⟨_, getElem?_sent hi, rfl⟩, rfl⟩
    show List.length (_ ++ s.out) = _
    rw [List.length_append, List.length_reverse, List.length_mapIdx, Nat.add_comm]
  case ignored =>
    exact fun dt s hfast hlate htakes => ⟨_, ceilingIgnored_records hfast hlate, fault_recorded (takes_frame s _ _ _ _ rfl rfl htakes)⟩

end Sys2Proof.Machine
end

section
/-!
Trigger pulses and schedule entries (R334 to R341, R353, R354, R473): what a due pulse does to its output, and what an entry does when its instant
comes.
-/
namespace Sys2Proof.Machine

/-! ### Pulses of the outputs (R339, R340) -/

section Pulses

variable {dt p a : Nat} {o : Fin 8} {rest : List (Nat × Nat)} {s : State}

/-- The pulse that falls due leaves the list of its output. -/
theorem triggerPulse_due (hdue : (s.trig o.val).due = (p, a) :: rest) (hat : a ≤ (s.pass dt).clk.tclk) :
    exec (.triggerPulse dt o) s = .next (((s.pass dt).setTrig o.val { s.trig o.val with due := rest }).pulse o.val p) := by
  have hdue' : ((s.pass dt).trig o.val).due = (p, a) :: rest := hdue
  show execTriggerPulse dt o s = _
  unfold execTriggerPulse
  dsimp only
  rw [hdue']
  exact if_pos hat

/-- A pulse on an active output is dropped (R339). -/
theorem pulse_active {k : Nat} (h : (s.trig k).active = true) : s.pulse k p = s.fault F.trigOverrun k := if_pos h

/-- A pulse that has lasted its width ends (R339). -/
theorem triggerPulseEnd_ends (hactive : (s.trig o.val).active = true) (hends : (s.trig o.val).ends ≤ (s.pass dt).clk.tclk) :
    exec (.triggerPulseEnd dt o) s = .next (((s.pass dt).setTrig o.val { s.trig o.val with active := false }).emit
      (.trig o.val (s.parLine (P.timeTrigPolarity o.val) == 1))) := by
  have hlevel : (s.pass dt).trigLevel o.val false = (s.parLine (P.timeTrigPolarity o.val) == 1) := Bool.false_bne _
  rw [← hlevel]
  exact if_pos ⟨hactive, hends⟩

end Pulses

/-! ### Entries of the schedule (R336) -/

section Entries

variable {dt : Nat} {i : Fin 64} {conv : Readings} {s : State} {x : Sched}

/-- An entry of a lower number that is due executes first. -/
theorem dueBefore_of_mem {j k : Nat} {y : Sched} (hj : j < k) (hmem : (j, y) ∈ s.time.sched) (hdue : y.next ≤ s.schedNow y) : s.dueBefore k = true :=
  List.any_eq_true.2 ⟨(j, y), hmem, decide_eq_true ⟨hj, hdue⟩⟩

/-- A free entry does nothing, nor one whose instant is to come or that waits for a lower one. -/
theorem scheduleExecute_waits (h : look s.time.sched i.val = none ∨ (∃ x, look s.time.sched i.val = some x ∧ (s.pass dt).schedNow x < x.next) ∨
    (∃ j y, j < i.val ∧ (j, y) ∈ s.time.sched ∧ y.next ≤ (s.pass dt).schedNow y)) : exec (.scheduleExecute dt i conv) s = .next (s.pass dt) := by
  show execScheduleExecute dt i conv s = _
  unfold execScheduleExecute
  dsimp only
  cases hlook : look (s.pass dt).time.sched i.val with
  | none => rfl
  | some x =>
    refine if_neg fun ⟨hinstant, hfirst⟩ => ?_
    obtain hfree | ⟨y, hy, hearly⟩ | ⟨j, y, hj, hmem, hdue⟩ := h
    · exact nomatch hfree.symm.trans hlook
    · obtain rfl : y = x := Option.some.inj (hy.symm.trans hlook)
      exact absurd hinstant (Nat.not_le.2 hearly)
    · rw [dueBefore_of_mem (s := s.pass dt) hj hmem hdue] at hfirst
      exact Bool.false_ne_true hfirst

/-- A TRIGGER entry pulses its output (R339, R354). -/
theorem runSched_triggers {e : Nat} {m : SMap Sched} {r : Readings} (haction : x.action = 3) (hidle : (s.trig x.target).active = false)
    (hcalm : Calm s F.trigUnmatched)
    (hm : m = if x.period ≠ 0 ∧ (x.forever = true ∨ 1 < x.left) then put s.time.sched e { x with next := x.next + x.period, left := x.left - 1 }
      else cut s.time.sched e) :
    ∃ u, Pulsed { s with time := { s.time with sched := m } } u x.target 0xFFFFFFFF ∧
      s.runSched e x r false = if x.report then timeNoted u 0 else u := by
  refine ⟨_, pulse_law _ _ _ hidle (hcalm.of_params rfl), ?_⟩
  rw [run_law s e x r m hm, haction]
  rfl

/-- A CONVERT entry converts (R334, R473). -/
theorem runSched_converts {e : Nat} {m : SMap Sched} {r : Readings} (haction : x.action = 2)
    (hm : m = if x.period ≠ 0 ∧ (x.forever = true ∨ 1 < x.left) then put s.time.sched e { x with next := x.next + x.period, left := x.left - 1 }
      else cut s.time.sched e) :
    s.runSched e x r false =
      if x.report then timeNoted (State.convert { s with time := { s.time with sched := m } } x.target r) 0
      else State.convert { s with time := { s.time with sched := m } } x.target r := by
  rw [run_law s e x r m hm, haction]
  rfl

/-- A JOB_START, which has no period, frees its entry and starts its job (R334, R337). -/
theorem runSched_starts {e : Nat} {r : Readings} (haction : x.action = 1) (hperiod : x.period = 0) (hreport : x.report = false) :
    s.runSched e x r false = (s.freeSched e).jobStart x := by
  rw [run_law s e x r (cut s.time.sched e) (if_neg fun h => h.1 hperiod).symm, haction, hreport]
  rfl

/-- The row on a JOB_START whose instant has come. -/
theorem scheduleExecute_starts (hentry : look s.time.sched i.val = some x) (hfirst : (s.pass dt).dueBefore i.val = false)
    (hinstant : x.next ≤ (if x.base = 0 then (s.pass dt).t32ns else (s.pass dt).devNs)) (haction : x.action = 1) (hperiod : x.period = 0)
    (hreport : x.report = false) : exec (.scheduleExecute dt i conv) s = .next (((s.pass dt).freeSched i.val).jobStart x) := by
  rw [exec_sched s dt i conv x hentry hfirst hinstant, runSched_starts haction hperiod hreport]

end Entries

/-! ### A scheduled JOB_START (R337) -/

section JobStart

variable {v : State} {x : Sched} {w : Sess} {q : BitVec 32} {p : Pend}

/-- The command of an owned entry is the one that still waits. -/
theorem owner_bind (howner : x.owner = some (w, q)) : x.owner.bind (fun o => v.pend? o.1 o.2) = v.pend? w q := by
  rw [howner]
  rfl

/-- A splice that is refused completes the waiting command with the refusal. -/
theorem jobStart_refused {st : Nat} (howner : x.owner = some (w, q)) (hpend : v.pend? w q = some p) (hqueue : ∃ k, (v.ses w).cq = some k)
    (harm : v.arm x.index 0 0 v.pos x.off = .inl st) : Posted v (v.jobStart x) p st p.obj.toNat (shift32 v.pos x.off) idHob := by
  obtain ⟨k, hqueue⟩ := hqueue
  obtain ⟨rfl, -⟩ := pend_who _ _ _ _ hpend
  have hstart : v.jobStart x = v.complete p st (shift32 v.pos x.off) idHob := by
    unfold State.jobStart
    dsimp only
    rw [harm, owner_bind howner, hpend]
  rw [hstart]
  exact complete_posted v p k _ _ _ hqueue

/-- A splice that is armed completes the waiting command OK with its line. -/
theorem jobStart_armed {u : State} {lam e : Nat} (howner : x.owner = some (w, q)) (hpend : v.pend? w q = some p) (hqueue : ∃ k, (v.ses w).cq = some k)
    (harm : v.arm x.index 0 0 v.pos x.off = .inr (u, lam, e)) (hcalm : Calm v F.hopperLow) : Posted u (v.jobStart x) p St.ok p.obj.toNat lam idHob := by
  obtain ⟨k, hqueue⟩ := hqueue
  obtain ⟨rfl, -⟩ := pend_who _ _ _ _ hpend
  have hstart : v.jobStart x = u.complete p St.ok lam idHob := by
    unfold State.jobStart
    dsimp only
    rw [harm, owner_bind howner, hpend]
  rw [hstart]
  exact complete_posted u p k _ _ _ ((congrArg Session.cq (arm_ses _ _ _ _ _ _ _ _ _ hcalm harm p.who)).trans hqueue)

/-- An entry without a waiting command only arms. -/
theorem jobStart_unowned (howner : x.owner = none) :
    v.jobStart x = match v.arm x.index 0 0 v.pos x.off with | .inl _ => v | .inr (u, _, _) => u := by
  unfold State.jobStart
  rw [howner]
  rfl

end JobStart

/-! ### The statement -/

/-- Settles O34: a due pulse by whether its output is idle, an entry by its action, of a JOB_START by whether its splice is armed and its command waits. -/
theorem triggersAndSchedulesFire : Obligations.TriggersAndSchedulesFire := by
  unfold Obligations.TriggersAndSchedulesFire
  refine ⟨?drives, ?overrun, fun dt o s => triggerPulseEnd_ends, fun dt i conv s => scheduleExecute_waits, ?trigger, ?convert, ?refused, ?armed, ?unowned⟩
  case drives =>
    intro dt p a o rest s hdue hat hidle hcalm
    refine ⟨_, triggerPulse_due hdue hat, pulse_law _ _ _ ?_ (hcalm.of_params rfl)⟩
    rw [trig_setTrig, if_pos rfl]
    exact hidle
  case overrun =>
    intro dt p a o rest s hdue hat hactive htakes
    refine ⟨_, triggerPulse_due hdue hat, ?_⟩
    rw [pulse_active]
    · exact fault_recorded (takes_frame s _ _ _ _ rfl rfl htakes)
    · rw [trig_setTrig, if_pos rfl]
      exact hactive
  case trigger =>
    intro dt i conv s x m hentry hfirst hinstant haction hidle hcalm hm
    obtain ⟨u, hpulsed, hrun⟩ := runSched_triggers (s := s.pass dt) (r := conv) haction hidle (hcalm.of_params rfl) hm
    exact ⟨_, u, exec_sched s dt i conv x hentry hfirst hinstant, hpulsed, hrun⟩
  case convert =>
    intro dt i conv s x m hentry hfirst hinstant haction hcalm hm
    obtain ⟨hconv, htj, hmv, hmonitors, hboards⟩ := convert_law { s.pass dt with time := { s.time with sched := m } } x.target conv
      (fun n hn => (hcalm n hn).of_params rfl)
    exact ⟨_, _, exec_sched s dt i conv x hentry hfirst hinstant, runSched_converts haction hm, htj, hmv, hmonitors, hboards, hconv⟩
  case refused =>
    rintro dt st i conv s v w q p x hentry hfirst hinstant haction hperiod hreport howner hpend hqueue rfl harm
    exact ⟨_, scheduleExecute_starts hentry hfirst hinstant haction hperiod hreport, jobStart_refused howner hpend (by cases w <;> exact hqueue) harm⟩
  case armed =>
    rintro dt lam e i conv s v u w q p x hentry hfirst hinstant haction hperiod hreport howner rfl harm hpend hqueue hcalm
    exact ⟨_, scheduleExecute_starts hentry hfirst hinstant haction hperiod hreport,
      jobStart_armed howner hpend (by cases w <;> exact hqueue) harm (hcalm.of_params rfl)⟩
  case unowned =>
    rintro dt i conv s v x hentry hfirst hinstant haction hperiod hreport howner rfl
    rw [scheduleExecute_starts hentry hfirst hinstant haction hperiod hreport, jobStart_unowned howner]
    rfl

end Sys2Proof.Machine
end

section
/-!
The TIME commands (R323, R324, R326, R334, R335, R337, R338, R532): what a step of Device Time does to the entries it passes, then each command's
answer.
-/
namespace Sys2Proof.Machine

/-! ### A step of Device Time (R323, R326, R338) -/

section Step

variable {s : State} {d : Nat} {conv : Readings}

/-- A step that passes no entry executes none. -/
theorem stepTime_passesNone (hwrap : d % devWrap = d) (h : NonePassed s d) : s.stepTime d conv = timeNoted (stepped s d) 2 := by
  rw [stepTime_law s d d conv hwrap.symm]
  have hnone : (stepped s d).time.sched.filter (fun e => e.2.base == 1 && decide (e.2.next ≤ d / nsUnit)) = [] := none_passed s d h
  rw [hnone]
  rfl

/-- A step over the one entry of the schedule executes it once and records SCHED_LATE. -/
theorem stepTime_passesOne {e : Nat} {x : Sched} (hwrap : d % devWrap = d) (hsched : s.time.sched = [(e, x)]) (hbase : x.base = 1)
    (hpassed : x.next ≤ d / nsUnit) : s.stepTime d conv = timeNoted (((stepped s d).runSched e x conv true).fault F.schedLate e) 2 := by
  rw [stepTime_law s d d conv hwrap.symm]
  have hone : (stepped s d).time.sched.filter (fun e => e.2.base == 1 && decide (e.2.next ≤ d / nsUnit)) = [(e, x)] := by
    have hkept : (stepped s d).time.sched = [(e, x)] := hsched
    rw [hkept]
    simp [hbase, hpassed]
  rw [hone]
  rfl

/-- The pulse of an output leaves whether the collector takes a hit. -/
theorem Pulsed.takes {t : State} {k p n a m : Nat} (h : Pulsed s t k p) (htakes : Takes s n a m) : Takes t n a m := by
  obtain ⟨-, -, -, -, -, -, htouch⟩ := h
  exact takes_touched _ _ htouch _ _ _ (takes_frame s _ _ _ _ rfl rfl htakes)

/-- A TRIGGER entry that a step passes for the last time is freed and pulses its output. -/
theorem lateTrigger_pulses {e : Nat} {x : Sched} (hsched : s.time.sched = [(e, x)]) (haction : x.action = 3) (hreport : x.report = false)
    (hperiod : x.period = 0) (hidle : (s.trig x.target).active = false) (hcalm : Calm s F.trigUnmatched) :
    Pulsed { s with time := { s.time with sched := [] } } (s.runSched e x conv true) x.target 0xFFFFFFFF := by
  have hfreed : s.freeSched e = { s with time := { s.time with sched := [] } } := by
    unfold State.freeSched
    rw [hsched, cut_one]
  rw [late_run s e x conv haction hreport hperiod true, hfreed]
  exact pulse_law _ _ _ hidle (hcalm.of_params rfl)

end Step

/-! ### Status, set and step arm -/

section Commands

variable {dt : Nat} {w : Sess} {s : State} {c : Cmd}

/-- TIME status answers the servo and clears the causes (R532). -/
theorem timeStatus_answers (h : Holds s w c 0x0B01 0) (hk : s.pwr.kind ≠ 2) : ∃ t, exec (.timeStatus dt w) s = .next t ∧
    Answered { s.pass dt with time := { s.time with causes := 0 } } t w c St.ok
      (leB 1 s.time.servo ++ leB 1 (b2n s.time.credit) ++ leB 2 s.time.causes.toNat ++ leB 4 (unsigned 32 s.time.offset) ++
        leB 4 s.time.delay ++ leB 4 (unsigned 32 (s.pass dt).clk.rho) ++ leB 4 s.time.steps ++ padTo 8 s.time.master) := by
  refine ⟨_, rfl, runCmd_answered (h.pass dt) ?_⟩
  dsimp only
  rw [h.plain, vet_ok (s.pass dt) _ hk]
  rfl

/-- TIME set with a credit steps to the time given and answers T32 (R323, R326). -/
theorem timeSet_steps {d : Nat} {conv : Readings} (h : Holds s w c 0x0B02 12) (hk : s.pwr.kind ≠ 2) (hz : u16 c.pay 6 = 0)
    (hns : u32 c.pay 8 < 1000000000) (hcredit : s.time.credit = true) (hd : d = (fld c.pay 0 6 * 1000000000 + u32 c.pay 8) * nsUnit) :
    ∃ t, exec (.timeSet dt w conv) s = .next t ∧ Answered ((s.pass dt).stepTime d conv) t w c St.ok (leB 4 (s.pass dt).t32.toNat) := by
  subst hd
  refine ⟨_, rfl, runCmd_answered (h.pass dt) ?_⟩
  dsimp only
  rw [h.plain, need_ok _ _ _ _ (decide_eq_true ⟨hz, hns⟩), vet_ok (s.pass dt) _ hk, need_ok _ (s.pass dt).time.credit _ _ hcredit]

/-- TIME set without a credit is refused (R326). -/
theorem timeSet_refuses {conv : Readings} (h : Holds s w c 0x0B02 12) (hk : s.pwr.kind ≠ 2) (hz : u16 c.pay 6 = 0)
    (hns : u32 c.pay 8 < 1000000000) (hcredit : s.time.credit = false) :
    ∃ t, exec (.timeSet dt w conv) s = .next t ∧ Answered (s.pass dt) t w c St.state [] := by
  refine ⟨_, rfl, runCmd_answered (h.pass dt) ?_⟩
  dsimp only
  rw [h.plain, need_ok _ _ _ _ (decide_eq_true ⟨hz, hns⟩), vet_ok (s.pass dt) _ hk, need_refuses _ (s.pass dt).time.credit _ _ hcredit]
  rfl

/-- TIME step arm grants the credit (R326). -/
theorem timeStepArm_grants (h : Holds s w c 0x0B03 0) (hk : s.pwr.kind ≠ 2) : ∃ t, exec (.timeStepArm dt w) s = .next t ∧
    Answered { s.pass dt with time := { s.time with credit := true } } t w c St.ok [] := by
  refine ⟨_, rfl, runCmd_answered (h.pass dt) ?_⟩
  dsimp only
  rw [h.plain, vet_ok (s.pass dt) _ hk]
  rfl

/-! ### The schedule (R334, R335, R337) -/

/-- The state after an entry is written into the schedule; its number has taken a free value. -/
def State.scheduled (s : State) (e : Nat) (x : Sched) : State :=
  { s with time := { s.time with sched := put s.time.sched e x }, free := s.free + 1 }

/-- The meaning of TIME schedule add, once the entry's form is right, its instant `at_` far enough ahead and entry `e` chosen: a JOB_START is
PENDING on its entry, any other action done. -/
def scheduleReply (s : State) (w : Sess) (c : Cmd) (at_ e : Nat) : Reply :=
  if u8 c.pay 0 == 1 then hasQueue s w (.pend e (s.scheduled e (schedEntry c.pay at_ (some (w, c.seq)))) [] (leB 1 e ++ leB 3 0))
  else .done St.ok (leB 1 e ++ leB 3 0) (s.scheduled e (schedEntry c.pay at_ none))

/-- The row TIME_SCHEDULE_ADD answers so with an unused entry (R334, R335; log 25). -/
theorem timeScheduleAdd_picks {at_ : Nat} (h : Holds s w c 0x0B04 32) (hk : s.pwr.kind ≠ 2) (hrange : schedRange c.pay = true)
    (hat : (s.pass dt).schedAt c.pay = some at_) (hmode : u8 c.pay 0 = 3 → s.par (P.timeTrigMode (u8 c.pay 3)) = 1)
    (hfree : ∃ e, e < 64 ∧ look s.time.sched e = none) :
    ∃ e, e < 64 ∧ look s.time.sched e = none ∧
      exec (.timeScheduleAdd dt w) s = .next ((s.pass dt).reply w c (scheduleReply (s.pass dt) w c at_ e)) := by
  obtain ⟨e, hpick, hlt, hunused⟩ := free_pick s.time.sched (Config.value s.free) hfree
  refine ⟨e, hlt, hunused, ?_⟩
  obtain ⟨hcmd, hop, -, -⟩ := h.pass dt
  refine congrArg Host.Outcome.next ((runCmd_eq _ _ _ _ _ hcmd hop).trans (congrArg _ ?_))
  dsimp only
  rw [h.plain, need_ok _ _ _ _ hrange, vet_ok (s.pass dt) _ hk, hat]
  dsimp only
  rw [if_neg fun hbad => hbad.2 (hmode hbad.1), State.pass_time, State.pass_free, hpick]
  unfold scheduleReply
  cases u8 c.pay 0 == 1 <;> rfl

/-- An entry of TRIGGER or CONVERT is written at once. -/
theorem timeScheduleAdd_writes {at_ : Nat} (h : Holds s w c 0x0B04 32) (hk : s.pwr.kind ≠ 2) (hrange : schedRange c.pay = true)
    (haction : u8 c.pay 0 ≠ 1) (hat : (s.pass dt).schedAt c.pay = some at_)
    (hmode : u8 c.pay 0 = 3 → s.par (P.timeTrigMode (u8 c.pay 3)) = 1) (hfree : ∃ e, e < 64 ∧ look s.time.sched e = none) :
    ∃ t e, exec (.timeScheduleAdd dt w) s = .next t ∧ e < 64 ∧ look s.time.sched e = none ∧
      Answered ((s.pass dt).scheduled e (schedEntry c.pay at_ none)) t w c St.ok (leB 1 e ++ leB 3 0) := by
  obtain ⟨e, hlt, hunused, hexec⟩ := timeScheduleAdd_picks h hk hrange hat hmode hfree
  refine ⟨_, e, hexec, hlt, hunused, ?_⟩
  rw [scheduleReply, if_neg fun hjob => haction (beq_iff_eq.1 hjob)]
  exact reply_answered _ _ _ _ _ _

/-- An entry of JOB_START is written and its command waits. -/
theorem timeScheduleAdd_waits {at_ : Nat} (h : Holds s w c 0x0B04 32) (hk : s.pwr.kind ≠ 2) (hroom : HasRoom s w) (hrange : schedRange c.pay = true)
    (haction : u8 c.pay 0 = 1) (hat : (s.pass dt).schedAt c.pay = some at_) (hfree : ∃ e, e < 64 ∧ look s.time.sched e = none) :
    ∃ t e, exec (.timeScheduleAdd dt w) s = .next t ∧ e < 64 ∧ look s.time.sched e = none ∧
      Waiting ((s.pass dt).scheduled e (schedEntry c.pay at_ (some (w, c.seq)))) t w c e [] (leB 1 e ++ leB 3 0) := by
  have hmode : u8 c.pay 0 = 3 → s.par (P.timeTrigMode (u8 c.pay 3)) = 1 := fun hthree => absurd (haction.symm.trans hthree) (by decide)
  obtain ⟨e, hlt, hunused, hexec⟩ := timeScheduleAdd_picks h hk hrange hat hmode hfree
  refine ⟨_, e, hexec, hlt, hunused, ?_⟩
  rw [scheduleReply, if_pos (beq_iff_eq.2 haction), hasQueue_ok _ _ _ (hroom.pass dt)]
  exact reply_waiting _ _ _ _ _ _ _ (hroom.pass dt)

/-- TIME schedule cancel frees the entry; a command that waits for it completes DISCARDED. -/
theorem timeScheduleCancel_frees {e : Nat} {x : Sched} (h : Holds s w c 0x0B05 4) (hk : s.pwr.kind ≠ 2) (he : u8 c.pay 0 = e) (hlt : e < 64)
    (hz : fld c.pay 1 3 = 0) (hx : look s.time.sched e = some x) :
    ∃ t, exec (.timeScheduleCancel dt w) s = .next t ∧
      Answered (match x.owner.bind (fun o => s.pend? o.1 o.2) with
        | some p => ((s.pass dt).freeSched e).complete p St.discarded 0 idHob
        | none => (s.pass dt).freeSched e) t w c St.ok [] := by
  subst he
  refine ⟨_, rfl, runCmd_answered (h.pass dt) ?_⟩
  dsimp only
  rw [h.plain, need_ok _ _ _ _ (decide_eq_true ⟨hlt, hz⟩), vet_ok (s.pass dt) _ hk, State.pass_time, hx]
  have hpend : (x.owner.bind fun o => ((s.pass dt).freeSched (u8 c.pay 0)).pend? o.1 o.2) = x.owner.bind fun o => s.pend? o.1 o.2 := rfl
  dsimp only
  rw [hpend]
  cases x.owner.bind fun o => s.pend? o.1 o.2 <;> rfl

/-- TIME schedule list answers up to seven entries from the number asked on (R532). -/
theorem timeScheduleList_lists {n : Nat} (h : Holds s w c 0x0B06 4) (hk : s.pwr.kind ≠ 2) (hn : u8 c.pay 0 = n) (hlt : n < 64)
    (hz : fld c.pay 1 3 = 0) : ∃ t, exec (.timeScheduleList dt w) s = .next t ∧
      Answered (s.pass dt) t w c St.ok (leB 1 ((s.time.sched.filter (fun e => decide (n ≤ e.1))).take 7).length ++ leB 3 0 ++
        ((s.time.sched.filter (fun e => decide (n ≤ e.1))).take 7).flatMap (fun e => e.2.bytes e.1)) := by
  subst hn
  refine ⟨_, rfl, runCmd_answered (h.pass dt) ?_⟩
  dsimp only
  rw [h.plain, need_ok _ _ _ _ (decide_eq_true ⟨hlt, hz⟩), vet_ok (s.pass dt) _ hk]
  rfl

end Commands

/-! ### The statement -/

/-- Settles O32: a lemma for each command; of a set, the step that passes no entry and the one that passes one. -/
theorem timeCommandsAnswer : Obligations.TimeCommandsAnswer := by
  unfold Obligations.TimeCommandsAnswer
  refine ⟨fun dt w s c => timeStatus_answers, ?set, ?late, fun dt w conv s c => timeSet_refuses, fun dt w s c => timeStepArm_grants,
    fun dt at_ w s c h hk hrange haction hat hmode hfree => timeScheduleAdd_writes h hk hrange haction hat hmode hfree,
    fun dt at_ w s c h hk hroom hrange haction hat hfree => timeScheduleAdd_waits h hk hroom hrange haction hat hfree, ?cancel, ?discard, ?list⟩
  case set =>
    intro dt d w conv s c h hk hz hns hcredit hd hnone
    have hwrap : d % devWrap = d := hd ▸ set_fits c.pay hns
    have hset := timeSet_steps (dt := dt) (conv := conv) h hk hz hns hcredit hd
    rwa [stepTime_passesNone (s := s.pass dt) hwrap hnone] at hset
  case late =>
    intro dt d e w conv s c x h hk hz hns hcredit hd hsched hbase hpassed haction hreport hperiod hidle hcalm htakes
    have hwrap : d % devWrap = d := hd ▸ set_fits c.pay hns
    obtain ⟨t, hexec, hans⟩ := timeSet_steps (dt := dt) (conv := conv) h hk hz hns hcredit hd
    rw [stepTime_passesOne (s := s.pass dt) hwrap hsched hbase hpassed] at hans
    have hpulsed := lateTrigger_pulses (s := stepped (s.pass dt) d) (conv := conv) hsched haction hreport hperiod hidle (hcalm.of_params rfl)
    exact ⟨t, _, _, hexec, hpulsed, fault_recorded (hpulsed.takes (takes_frame s _ _ _ _ rfl rfl htakes)), hans⟩
  case cancel =>
    intro dt e w s c x h hk he hlt hz hx howner
    have hcancel := timeScheduleCancel_frees (dt := dt) h hk he hlt hz hx
    rw [howner] at hcancel
    exact hcancel
  case discard =>
    intro dt e w o q s c x p h hk he hlt hz hx howner hpend hqueue
    obtain ⟨k, hqueue⟩ := hqueue
    obtain ⟨rfl, -⟩ := pend_who _ _ _ _ hpend
    obtain ⟨t, hexec, hans⟩ := timeScheduleCancel_frees (dt := dt) h hk he hlt hz hx
    have hbind : (x.owner.bind fun o => s.pend? o.1 o.2) = some p := by
      rw [owner_bind howner, hpend]
    rw [hbind] at hans
    have hfreed : (((s.pass dt).freeSched e).ses p.who).cq = some k := by
      rw [← hqueue]
      cases p.who <;> rfl
    exact ⟨t, _, hexec, complete_posted _ p k _ _ _ hfreed, hans⟩
  case list =>
    rintro dt n w s c l h hk hn hlt hz rfl
    exact timeScheduleList_lists h hk hn hlt hz

end Sys2Proof.Machine
end

section
/-!
PTP messages and their timestamps (R329, R331 to R333): what a message of the clock leaves, by its queue and by what the best master clock algorithm
decides.
-/
namespace Sys2Proof.Machine

/-! ### Bytes written into a message -/

/-- Bytes written within a string leave its length. -/
theorem overlay_length {b new : Bytes} {off : Nat} (h : off + new.length ≤ b.length) : (overlay b off new).length = b.length := by
  unfold overlay
  simp only [List.length_append, List.length_take, List.length_drop]
  omega

/-- A field as long as the bytes left is those bytes. -/
theorem slice_of_le {b : Bytes} {off n : Nat} (h : off + n ≤ b.length) : slice b off n = (b.drop off).take n := by
  have hlen : ((b.drop off).take n).length = n := by
    rw [List.length_take, List.length_drop]
    omega
  unfold slice
  dsimp only
  rw [hlen, Nat.sub_self]
  exact List.append_nil _

/-- The bytes written read back. -/
theorem slice_overlay_same {b new : Bytes} {off n : Nat} (hn : new.length = n) (h : off + n ≤ b.length) : slice (overlay b off new) off n = new := by
  subst hn
  have hoff : (b.take off).length = off := List.length_take_of_le (by omega)
  rw [slice_of_le (by rw [overlay_length h]; exact h)]
  unfold overlay
  rw [List.append_assoc, List.drop_left' hoff, List.take_left]

/-- A field before them reads as it was. -/
theorem slice_overlay_before {b new : Bytes} {off at_ n : Nat} (hbefore : at_ + n ≤ off) (h : off + new.length ≤ b.length) :
    slice (overlay b off new) at_ n = slice b at_ n := by
  have htake : (overlay b off new).take (at_ + n) = b.take (at_ + n) := by
    have hoff : at_ + n ≤ (b.take off).length := by
      rw [List.length_take]
      omega
    unfold overlay
    rw [List.append_assoc, List.take_append_of_le_length hoff, List.take_take, Nat.min_eq_left hbefore]
  rw [slice_of_le (by rw [overlay_length h]; omega), slice_of_le (by omega), List.take_drop, List.take_drop, htake]

/-! ### A message as it leaves (R329) -/

/-- A one-step Sync leaves with no correction and with the time. -/
theorem ptpSent_oneStep {s : State} {msg : Bytes} (hsync : u8 msg 0 % 16 = 0) (hone : bit (s.par P.timePtpOptions) 0 = true) (hlen : 44 ≤ msg.length) :
    slice (s.ptpSent msg) 8 8 = leB 8 0 ∧ slice (s.ptpSent msg) 34 10 = beB 6 (s.devNs / 1000000000) ++ beB 4 (s.devNs % 1000000000) := by
  have hflag : (overlay msg 6 [BitVec.ofNat 8 (u8 msg 6) &&& 0xFD]).length = msg.length := overlay_length (by simp only [List.length_singleton]; omega)
  have hzero : (leB 8 0).length = 8 := leB_length 8 0
  have htime : (beB 6 (s.devNs / 1000000000) ++ beB 4 (s.devNs % 1000000000)).length = 10 := by
    simp only [beB, List.length_append, List.length_reverse, leB_length]
  have hcorr := overlay_length (b := overlay msg 6 [BitVec.ofNat 8 (u8 msg 6) &&& 0xFD]) (off := 8) (new := leB 8 0) (by omega)
  unfold State.ptpSent
  rw [if_neg (not_not_intro hsync), if_pos hone]
  dsimp only
  refine ⟨?_, slice_overlay_same htime (by omega)⟩
  rw [slice_overlay_before (by omega) (by omega)]
  exact slice_overlay_same hzero (by omega)

/-- A message of another domain is not the clock's (R329; log 92). -/
theorem ptpHeeds_domain {s : State} {msg : Bytes} (h : u8 msg 4 ≠ s.par P.timePtpDomain) : s.ptpHeeds msg = false := by
  unfold State.ptpHeeds
  rw [beq_false_of_ne h]
  rfl

/-! ### A message is carried (R332, R333) -/

/-- The state after a message of the clock has left or come and its timestamp is taken or lost, before any change of master. -/
def State.ptpCarried (s : State) (port : Nat) (tx : Bool) (msg : Bytes) (taken : Nat) (fast : Bool) : State :=
  let s := if tx then s.emit (.ptp port (bit (s.par P.timePtpOptions) 2) (s.ptpSent msg)) else s
  let k := 2 * port + b2n tx
  let held := (sel s.time.q k []).drop taken
  let event := decide (u8 msg 0 % 16 < 4)
  let full := event && decide (stampDepth ≤ held.length)
  let s := { s with time := { s.time with
    q := put s.time.q k (if event && !full then held ++ [s.ptpStamp tx fast] else held)
    skip := s.time.skip || full } }
  if full then s.fault F.ptpTsLost port else s

/-- The outputs, the timestamps of queue `k` and whether one was lost, set. -/
def State.ptpQueued (s : State) (o : List Output) (k : Nat) (stamps : List Nat) (lost : Bool) : State :=
  { s with out := o, time := { s.time with q := put s.time.q k stamps, skip := s.time.skip || lost } }

/-- What the best master clock algorithm decides takes effect (R331). -/
def State.ptpDecided (s : State) : Bmca → State
  | .keep => s
  | .none => ({ s with time := { s.time with master := [] } } : State).setServo 1
  | .master id =>
    if s.time.master = padTo 8 id ∧ 2 ≤ s.time.servo ∧ s.time.servo ≤ 4 then s
    else ({ s with time := { s.time with master := padTo 8 id, lastSync := s.now } } : State).setServo 2
  | .self => if bit (s.par P.timePtpOptions) 3 then ({ s with time := { s.time with master := [] } } : State).setServo 5 else s

/-- A servo that enters another state than HOLDOVER notes the cause (R331, R532). -/
theorem setServo_enters {s : State} {v : Nat} (hnew : s.time.servo ≠ v) (hv : v ≠ 4) :
    s.setServo v = timeNoted { s with time := { s.time with servo := v, inLock := 0 } } 1 := (if_neg hnew).trans (if_neg hv)

section Messages

variable {dt taken : Nat} {port : Fin 2} {tx fast : Bool} {msg : Bytes} {b : Bmca} {s : State}

/-- A message on another port, of another clock, or with PTP off has no effect. -/
theorem ptpEventMessage_ignored (h : s.par P.timePtpEnable = 0 ∨ s.par P.timePtpPort ≠ port.val ∨ s.ptpHeeds msg = false) :
    exec (.ptpEventMessage dt port tx msg taken b fast) s = .next (s.pass dt) :=
  if_pos (h.imp_right (Or.imp_right fun hheeds => (congrArg not hheeds : (!s.ptpHeeds msg) = true)))

/-- A message of the clock is carried, and then the decision takes effect. -/
theorem ptpEventMessage_heeded (hon : s.par P.timePtpEnable = 1) (hport : s.par P.timePtpPort = port.val) (hheeds : s.ptpHeeds msg = true) :
    exec (.ptpEventMessage dt port tx msg taken b fast) s = .next (((s.pass dt).ptpCarried port.val tx msg taken fast).ptpDecided b) := by
  have hgo : ¬((s.pass dt).par P.timePtpEnable = 0 ∨ (s.pass dt).par P.timePtpPort ≠ port.val ∨ (!(s.pass dt).ptpHeeds msg) = true) := by
    rintro (hoff | hother | hnot)
    · exact absurd (hon.symm.trans hoff) (by decide)
    · exact hother hport
    · exact Bool.false_ne_true ((congrArg not hheeds).symm.trans hnot)
  refine (if_neg hgo).trans ?_
  cases b with
  | keep => rfl
  | none => rfl
  | master id => exact (apply_ite Host.Outcome.next _ _ _).symm
  | self => exact (apply_ite Host.Outcome.next _ _ _).symm

/-- With no timestamp lost only the outputs and the queue differ. -/
theorem ptpQueued_kept (s : State) (o : List Output) (k : Nat) (stamps : List Nat) :
    s.ptpQueued o k stamps false = { s with out := o, time := { s.time with q := put s.time.q k stamps } } := by
  unfold State.ptpQueued
  rw [Bool.or_false]

/-- A lost one marks the exchange. -/
theorem ptpQueued_lost (s : State) (o : List Output) (k : Nat) (stamps : List Nat) :
    s.ptpQueued o k stamps true = { s with out := o, time := { s.time with q := put s.time.q k stamps, skip := true } } := by
  unfold State.ptpQueued
  rw [Bool.or_true]

variable {k : Nat} {held : List Nat} {o : List Output} (hk : k = 2 * port.val + (if tx then 1 else 0)) (hheld : held = (sel s.time.q k []).drop taken)
  (ho : o = if tx then .ptp port.val (bit (s.par P.timePtpOptions) 2) (s.ptpSent msg) :: s.out else s.out)

include hk hheld ho

/-- What is carried: the message leaves, and of an event message the timestamp is taken, or lost where its queue is full. -/
theorem ptpCarried_eq {event full : Bool} (hevent : decide (u8 msg 0 % 16 < 4) = event) (hfull : decide (64 ≤ held.length) = full) :
    s.ptpCarried port.val tx msg taken fast =
      if event && full then (s.ptpQueued o k held true).fault F.ptpTsLost port.val
      else s.ptpQueued o k (if event then held ++ [s.ptpStamp tx fast] else held) false := by
  have hcarried : s.ptpCarried port.val tx msg taken fast =
      if event && full then (s.ptpQueued o k (if event && !(event && full) then held ++ [s.ptpStamp tx fast] else held) (event && full)).fault F.ptpTsLost port.val
      else s.ptpQueued o k (if event && !(event && full) then held ++ [s.ptpStamp tx fast] else held) (event && full) := by
    subst hk hheld ho hevent hfull
    cases tx <;> rfl
  rw [hcarried]
  cases event <;> cases full <;> rfl

/-- A general message takes no timestamp. -/
theorem ptpCarried_general (hgeneral : 4 ≤ u8 msg 0 % 16) : s.ptpCarried port.val tx msg taken fast = s.ptpQueued o k held false :=
  ptpCarried_eq hk hheld ho (decide_eq_false (Nat.not_lt.2 hgeneral)) rfl

/-- An event message takes a timestamp while its queue has room. -/
theorem ptpCarried_stamps (hevent : u8 msg 0 % 16 < 4) (hroom : held.length < 64) :
    s.ptpCarried port.val tx msg taken fast = s.ptpQueued o k (held ++ [s.ptpStamp tx fast]) false :=
  ptpCarried_eq hk hheld ho (decide_eq_true hevent) (decide_eq_false (Nat.not_le.2 hroom))

/-- On a full queue it is lost, and the exchange is skipped (R333). -/
theorem ptpCarried_loses (hevent : u8 msg 0 % 16 < 4) (hfull : 64 ≤ held.length) :
    s.ptpCarried port.val tx msg taken fast = (s.ptpQueued o k held true).fault F.ptpTsLost port.val :=
  ptpCarried_eq hk hheld ho (decide_eq_true hevent) (decide_eq_true hfull)

end Messages

/-- The state of the servo that a decision enters, with the master it selects: LISTENING of none, ACQUIRING of a new master, MASTER of this clock
where it may be one (R331). -/
def Selects (s : State) (b : Bmca) (v : Nat) (m : Bytes) : Prop :=
  v = 1 ∧ b = .none ∧ m = [] ∨ v = 2 ∧ (∃ id, b = .master id ∧ m = padTo 8 id ∧ m ≠ s.time.master) ∨
    v = 5 ∧ b = .self ∧ m = [] ∧ bit (s.par P.timePtpOptions) 3 = true

/-- Such a decision sets the master and the servo's state; of a new master the time-out starts again (R331). -/
theorem ptpDecided_selects {s : State} {b : Bmca} {v : Nat} {m : Bytes} (h : Selects s b v m) (hnew : s.time.servo ≠ v) :
    s.ptpDecided b = timeNoted { s with time := { s.time with
      master := m, servo := v, inLock := 0, lastSync := (if v = 2 then s.now else s.time.lastSync) } } 1 := by
  obtain ⟨rfl, rfl, rfl⟩ | ⟨rfl, id, rfl, rfl, hother⟩ | ⟨rfl, rfl, rfl, hmay⟩ := h
  · exact setServo_enters hnew (by decide)
  · refine (if_neg fun hsame => hother hsame.1.symm).trans ?_
    exact setServo_enters hnew (by decide)
  · refine (if_pos hmay).trans ?_
    exact setServo_enters hnew (by decide)

end Sys2Proof.Machine
end

section
/-!
The PTP servo (R326, R330 to R332): what a Sync does to the clock, then to the servo's state, and its time-out.
-/
namespace Sys2Proof.Machine

/-! ### The servo's state after a Sync (R331) -/

/-- Consecutive Syncs within lock_ns, this one counted. -/
def State.syncsWithin (s : State) (off : Int) : Nat := if off.natAbs ≤ s.par P.timePtpLockNs then s.time.inLock + 1 else 0

/-- The state that `n` such Syncs lead to from state `st`: LOCKED, or ACQUIRING. -/
def servoAfter (st n : Nat) : Nat := if st = 3 ∧ n ≠ 0 ∨ 16 ≤ n then 3 else 2

/-- A Sync leads to ACQUIRING or LOCKED, not to HOLDOVER. -/
theorem servoAfter_ne_holdover (st n : Nat) : servoAfter st n ≠ 4 := by
  unfold servoAfter
  split <;> decide

/-- A clock at the rate's limit records TIME_RATE_LIMIT (R330). -/
def State.rateHit (s : State) : State := if s.clk.rho.natAbs = 500000000 then s.fault F.timeRateLimit 0 else s

/-- The servo enters a state with `n` Syncs counted. -/
def State.servoCounts (s : State) (v n : Nat) : State :=
  { s.setServo v with time := { (s.setServo v).time with inLock := min 16 n } }

/-- What a Sync does to the servo's state is the rate's hit and then the count. -/
theorem syncState_eq (s : State) (st : Nat) (off : Int) :
    s.syncState st off = s.rateHit.servoCounts (servoAfter st (s.rateHit.syncsWithin off)) (s.rateHit.syncsWithin off) := rfl

/-- A noted cause touches the causes and what a message touches, and the TIME event is set. -/
theorem timeNoted_frame (s : State) (k : Nat) : ∃ events pba out,
    timeNoted s k = { s with
      time := { s.time with causes := s.time.causes ||| BitVec.ofNat 16 (2 ^ k) }
      host := { s.host with events := events, pba := pba }
      out := out } ∧ events.getLsbD evTime = true := by
  have hset := event_set { s with time := { s.time with causes := s.time.causes ||| BitVec.ofNat 16 (2 ^ k) } } evTime (by decide)
  obtain ⟨events, pba, out, hevent⟩ := event_frame { s with time := { s.time with causes := s.time.causes ||| BitVec.ofNat 16 (2 ^ k) } } evTime
  rw [hevent] at hset
  exact ⟨events, pba, out, hevent, hset⟩

/-- The count touches the servo's state, the causes noted and what a message touches; no cause noted and no TIME event is lost. -/
theorem servoCounts_law (s : State) (v n : Nat) (hv : v ≠ 4) : ∃ causes events pba out,
    s.servoCounts v n = { s with
      time := { s.time with servo := v, inLock := min 16 n, causes := causes }
      host := { s.host with events := events, pba := pba }
      out := out } ∧
    (∀ k, s.time.causes.getLsbD k = true → causes.getLsbD k = true) ∧
    (s.host.events.getLsbD evTime = true → events.getLsbD evTime = true) := by
  unfold State.servoCounts
  by_cases hsame : s.time.servo = v
  · have hset : s.setServo v = s := if_pos hsame
    subst hsame
    rw [hset]
    exact ⟨s.time.causes, s.host.events, s.host.pba, s.out, rfl, fun _ h => h, fun h => h⟩
  · obtain ⟨events, pba, out, hnoted, hset⟩ := timeNoted_frame { s with time := { s.time with servo := v, inLock := 0 } } 1
    rw [setServo_enters hsame hv, hnoted]
    refine ⟨_, events, pba, out, rfl, fun k h => ?_, fun _ => hset⟩
    rw [BitVec.getLsbD_or, h]
    rfl

/-- The rate's hit touches what hits touch. -/
theorem rateHit_touched {s : State} (h : Calm s F.timeRateLimit) : Touched s s.rateHit := touched_if (fault_touched _ _ _ h) (.refl s)

/-- The Syncs counted do not depend on what hits touch. -/
theorem Touched.syncsWithin {s t : State} (h : Touched s t) (off : Int) : t.syncsWithin off = s.syncsWithin off := by
  rw [h]
  rfl

/-- A Sync within lock_ns is counted, one that is not starts the count again. -/
theorem syncsWithin_of_le {s : State} {off : Int} (h : off.natAbs ≤ s.par P.timePtpLockNs) : s.syncsWithin off = s.time.inLock + 1 := if_pos h

theorem syncsWithin_of_lt {s : State} {off : Int} (h : s.par P.timePtpLockNs < off.natAbs) : s.syncsWithin off = 0 := if_neg (Nat.not_le.2 h)

/-- No Sync counted leads to ACQUIRING. -/
theorem servoAfter_zero (st : Nat) : servoAfter st 0 = 2 := if_neg (by omega)

/-- A Sync within lock_ns keeps LOCKED, and the sixteenth leads to it. -/
theorem servoAfter_locks {st n : Nat} (h : st = 3 ∨ n = 15) : servoAfter st (n + 1) = 3 := if_pos (by omega)

/-- Fewer in ACQUIRING stay there. -/
theorem servoAfter_acquires {n : Nat} (h : n < 15) : servoAfter 2 (n + 1) = 2 := if_neg (by omega)

/-- What a Sync leaves of the servo (R331): LOCKED and sixteen Syncs, or ACQUIRING, the causes noted, and a TIME event that was set. -/
structure SyncJudged (u t : State) (st n : Nat) : Prop where
  clk : t.clk = u.clk
  time : t.time = { u.time with servo := servoAfter st n, inLock := min 16 n, causes := t.time.causes }
  causes : ∀ k, u.time.causes.getLsbD k = true → t.time.causes.getLsbD k = true
  events : u.clk.rho.natAbs ≠ 500000000 → u.host.events.getLsbD evTime = true → t.host.events.getLsbD evTime = true
  sources : t.faults = u.rateHit.faults
  touched : Touched { u with time := t.time } t

/-- The rest of the servo is as the Sync left it. -/
theorem SyncJudged.keeps {u t : State} {st n : Nat} (h : SyncJudged u t st n) : t.time.credit = u.time.credit ∧ t.time.steps = u.time.steps ∧
    t.time.refused = u.time.refused ∧ t.time.lastSync = u.time.lastSync ∧ t.time.offset = u.time.offset ∧ t.time.delay = u.time.delay ∧
    t.time.sched = u.time.sched := by
  rw [h.time]
  exact ⟨rfl, rfl, rfl, rfl, rfl, rfl, rfl⟩

/-- The state and the count that it leaves. -/
theorem SyncJudged.counts {u t : State} {st n : Nat} (h : SyncJudged u t st n) : t.time.servo = servoAfter st n ∧ t.time.inLock = min 16 n :=
  ⟨congrArg TimeUnit.servo h.time, congrArg TimeUnit.inLock h.time⟩

/-- A Sync beyond lock_ns leads to ACQUIRING with none counted. -/
theorem SyncJudged.unlocks {u t : State} {st : Nat} {off : Int} (h : SyncJudged u t st (u.syncsWithin off)) (hoff : u.par P.timePtpLockNs < off.natAbs) :
    t.time.servo = 2 ∧ t.time.inLock = 0 := by
  rw [syncsWithin_of_lt hoff] at h
  exact ⟨h.counts.1.trans (servoAfter_zero st), h.counts.2⟩

/-- A Sync within it keeps LOCKED or, the sixteenth, leads to it. -/
theorem SyncJudged.locks {u t : State} {st : Nat} {off : Int} (h : SyncJudged u t st (u.syncsWithin off)) (hoff : off.natAbs ≤ u.par P.timePtpLockNs)
    (hlocks : st = 3 ∨ u.time.inLock = 15) : t.time.servo = 3 := by
  rw [syncsWithin_of_le hoff] at h
  exact h.counts.1.trans (servoAfter_locks hlocks)

/-- One of the first fifteen is counted. -/
theorem SyncJudged.acquires {u t : State} {off : Int} (h : SyncJudged u t 2 (u.syncsWithin off)) (hoff : off.natAbs ≤ u.par P.timePtpLockNs)
    (hfew : u.time.inLock < 15) : t.time.servo = 2 ∧ t.time.inLock = u.time.inLock + 1 := by
  rw [syncsWithin_of_le hoff] at h
  exact ⟨h.counts.1.trans (servoAfter_acquires hfew), h.counts.2.trans (Nat.min_eq_right (by omega))⟩

/-- Every Sync that reaches the servo does so. -/
theorem syncState_judged {u : State} (st : Nat) (off : Int) (h : Calm u F.timeRateLimit) :
    SyncJudged u (u.syncState st off) st (u.syncsWithin off) := by
  have hhit := rateHit_touched h
  rw [syncState_eq, hhit.syncsWithin]
  generalize u.syncsWithin off = n
  obtain ⟨causes, events, pba, out, hcounts, hcauses, hevents⟩ := servoCounts_law u.rateHit (servoAfter st n) n (servoAfter_ne_holdover st n)
  have htime : u.rateHit.time = u.time := by rw [hhit]
  rw [hcounts]
  rw [htime] at hcauses ⊢
  refine ⟨by rw [hhit], rfl, hcauses, fun hrate hset => hevents ?_, rfl, ?_⟩
  · rwa [show u.rateHit = u from if_neg hrate]
  · unfold Touched at hhit ⊢
    rw [hhit]

/-! ### What a Sync does to the clock (R326, R330) -/

/-- A Sync's offset, delay and time are noted. -/
def State.syncNoted (s : State) (off : Int) (delay : Nat) : State :=
  { s with time := { s.time with offset := clamp (-2147483648) 2147483647 off, delay := sat 32 delay, lastSync := s.now, sum := s.time.sum + off } }

section Sync

variable {dt delay : Nat} {port : Fin 2} {offset off : Int} {conv : Readings} {s : State}

/-- The servo follows a master on this port. -/
structure Follows (s : State) (port : Fin 2) : Prop where
  on : s.par P.timePtpEnable = 1
  port : s.par P.timePtpPort = port.val
  servo : s.time.servo = 2 ∨ s.time.servo = 3 ∨ s.time.servo = 4

/-- A Sync then reaches the servo. -/
theorem Follows.heeds (h : Follows s port) :
    ¬(s.par P.timePtpEnable = 0 ∨ s.par P.timePtpPort ≠ port.val ∨ (!decide (s.time.servo = 2 ∨ s.time.servo = 3 ∨ s.time.servo = 4)) = true) := by
  rintro (hoff | hother | hidle)
  · exact absurd (h.on.symm.trans hoff) (by decide)
  · exact hother h.port
  · rw [decide_eq_true h.servo] at hidle
    exact Bool.false_ne_true hidle

/-- An exchange that has lost a timestamp is skipped (R333). -/
theorem ptpSync_skips (h : Follows s port) (hskip : s.time.skip = true) :
    exec (.ptpSync dt port offset delay conv) s = .next { s.pass dt with time := { s.time with skip := false } } :=
  (if_neg h.heeds).trans (if_pos hskip)

/-- Any other is noted, and then corrects the clock and the servo's state. -/
theorem ptpSync_corrects (h : Follows s port) (hskip : s.time.skip = false) (hoff : off = offset - s.parS 32 (P.timePortAsymmetryNs port.val)) :
    exec (.ptpSync dt port offset delay conv) s = .next ((((s.pass dt).syncNoted off delay).syncRate off s.time.offset
      ((s.pass dt).now - s.time.lastSync) conv).syncState s.time.servo off) := by
  subst hoff
  exact (if_neg h.heeds).trans (if_neg fun hlost => Bool.false_ne_true (hskip.symm.trans hlost))

/-- Whether PTP_STEP_REFUSED has been recorded in this excursion (R330). -/
def State.excursion (s : State) (b : Bool) : State := { s with time := { s.time with refused := b } }

/-- The clock slews at the rate `r`. -/
def State.slewed (s : State) (r : Int) : State := { s with clk := { s.clk with rho := r } }

/-- The time that a far Sync steps to: minus the offset (R330). -/
def State.syncTarget (s : State) (off : Int) : Nat := (((s.clk.devu : Int) - off * nsUnit) % devWrap).toNat

/-- It lies below the wrap. -/
theorem syncTarget_fits (s : State) (off : Int) : s.syncTarget off % devWrap = s.syncTarget off := by
  refine Nat.mod_eq_of_lt ?_
  have hpos : (0 : Int) < devWrap := by decide
  have hlt := Int.emod_lt_of_pos ((s.clk.devu : Int) - off * nsUnit) hpos
  have hge := Int.emod_nonneg ((s.clk.devu : Int) - off * nsUnit) hpos.ne'
  unfold State.syncTarget
  omega

/-- A far Sync steps while a credit is held. -/
theorem syncRate_steps {was : Int} {gap : Nat} (hfar : s.par P.timePtpStepThresholdNs < off.natAbs) (hcredit : s.time.credit = true)
    (hnone : NonePassed s (s.syncTarget off)) :
    s.syncRate off was gap conv = timeNoted (stepped (s.excursion false) (s.syncTarget off)) 2 := by
  have hgo : (decide (s.par P.timePtpStepThresholdNs < off.natAbs) && s.time.credit) = true := by
    rw [decide_eq_true hfar, hcredit]
    rfl
  refine (if_pos hgo).trans ?_
  exact stepTime_passesNone (syncTarget_fits s off) hnone

/-- Without a credit it slews at the limit, and records PTP_STEP_REFUSED once per excursion. -/
theorem syncRate_slews {was : Int} {gap : Nat} (hfar : s.par P.timePtpStepThresholdNs < off.natAbs) (hcredit : s.time.credit = false) :
    s.syncRate off was gap conv =
      if s.time.refused then s.slewed (if 0 < off then -500000000 else 500000000)
      else ((s.slewed (if 0 < off then -500000000 else 500000000)).excursion true).fault F.ptpStepRefused 0 := by
  refine (if_neg ?_).trans (if_pos (decide_eq_true hfar))
  rw [hcredit, Bool.and_false]
  decide

/-- What it leaves: the excursion marked, and of the sources one hit of PTP_STEP_REFUSED where the excursion is new. -/
theorem syncRate_refuses {was : Int} {gap : Nat} (hfar : s.par P.timePtpStepThresholdNs < off.natAbs) (hcredit : s.time.credit = false)
    (htakes : Takes s F.ptpStepRefused 0 idNone) :
    Touched ((s.slewed (if 0 < off then -500000000 else 500000000)).excursion true) (s.syncRate off was gap conv) ∧
      ((s.syncRate off was gap conv).src F.ptpStepRefused).hits =
        (if s.time.refused then (s.src F.ptpStepRefused).hits else sat 16 ((s.src F.ptpStepRefused).hits + 1)) ∧
      ∀ m, m ≠ F.ptpStepRefused → (s.syncRate off was gap conv).src m = s.src m := by
  rw [syncRate_slews hfar hcredit]
  generalize (if 0 < off then (-500000000 : Int) else 500000000) = r
  by_cases hrefused : s.time.refused = true
  · have hmarked : (s.slewed r).excursion true = s.slewed r := by rw [← hrefused]; rfl
    rw [if_pos hrefused, if_pos hrefused, hmarked]
    exact ⟨.refl _, rfl, fun _ _ => rfl⟩
  · have htaken : Takes ((s.slewed r).excursion true) F.ptpStepRefused 0 idNone := takes_frame s _ _ _ _ rfl rfl htakes
    obtain ⟨-, hhits, -, hothers, -⟩ := fault_recorded htaken
    rw [if_neg hrefused, if_neg hrefused]
    exact ⟨htaken.touched, hhits, hothers⟩

/-- A near Sync leaves the controller's rate. -/
theorem syncRate_near {was : Int} {gap : Nat} (hnear : off.natAbs ≤ s.par P.timePtpStepThresholdNs) :
    s.syncRate off was gap conv = (s.slewed (s.servoRate off was gap)).excursion false := by
  have hnot : decide (s.par P.timePtpStepThresholdNs < off.natAbs) = false := decide_eq_false (Nat.not_lt.2 hnear)
  unfold State.syncRate
  rw [hnot]
  rfl

/-- A clamped value lies within its limits. -/
theorem clamp_mem {lo hi : Int} (h : lo ≤ hi) (x : Int) : lo ≤ clamp lo hi x ∧ clamp lo hi x ≤ hi := by
  unfold clamp
  omega

/-- The rate of a slew is the limit. -/
theorem natAbs_slew (off : Int) : (if 0 < off then (-500000000 : Int) else 500000000).natAbs = 500000000 := by
  split <;> rfl

/-- The row on a far Sync with a credit (R326, R330). -/
theorem ptpSync_steps (h : Follows s port) (hskip : s.time.skip = false) (hoff : off = offset - s.parS 32 (P.timePortAsymmetryNs port.val))
    (hfar : s.par P.timePtpStepThresholdNs < off.natAbs) (hcredit : s.time.credit = true) (hnone : NonePassed s ((s.pass dt).syncTarget off))
    (hcalm : Calm s F.timeRateLimit) :
    ∃ t, exec (.ptpSync dt port offset delay conv) s = .next t ∧ t.clk = { (s.pass dt).clk with devu := (s.pass dt).syncTarget off } ∧
      t.time.credit = false ∧ t.time.steps = sat 32 (s.time.steps + 1) ∧ t.time.lastSync = (s.pass dt).now ∧ t.time.delay = sat 32 delay ∧
      ((s.pass dt).clk.rho.natAbs < 500000000 → t.host.events.getLsbD evTime = true) ∧ t.time.causes.getLsbD 2 = true ∧
      (s.par P.timePtpLockNs < off.natAbs → t.time.servo = 2 ∧ t.time.inLock = 0) ∧ t.time.sched = s.time.sched ∧
      Touched { s.pass dt with clk := t.clk, time := t.time, vbat := { (s.pass dt).vbat with sec := t.clk.devu / nsUnit / 1000000000 % 2 ^ 48, sub := 0 } } t := by
  have hexec := ptpSync_corrects (dt := dt) (delay := delay) (conv := conv) h hskip hoff
  rw [syncRate_steps (s := (s.pass dt).syncNoted off delay) hfar hcredit hnone] at hexec
  obtain ⟨events, pba, out, hnoted, hset⟩ :=
    timeNoted_frame (stepped (((s.pass dt).syncNoted off delay).excursion false) (((s.pass dt).syncNoted off delay).syncTarget off)) 2
  generalize timeNoted _ 2 = u at hexec hnoted
  have hjudged := syncState_judged (u := u) s.time.servo off (hcalm.of_params (by rw [hnoted]; rfl))
  generalize u.syncState s.time.servo off = t at hexec hjudged
  have hclk : t.clk = { (s.pass dt).clk with devu := (s.pass dt).syncTarget off } := hjudged.clk.trans (by rw [hnoted]; rfl)
  obtain ⟨hcredit', hsteps, -, hlast, -, hdelay, hsched⟩ := hjudged.keeps
  have hcause : u.time.causes.getLsbD 2 = true := by
    rw [hnoted, BitVec.getLsbD_or, Bool.or_eq_true]
    exact .inr (by decide)
  rw [hnoted] at hcredit' hsteps hlast hdelay hsched
  refine ⟨t, hexec, hclk, hcredit', hsteps, hlast, hdelay, fun hrate => hjudged.events ?_ ?_, hjudged.causes 2 hcause,
    fun hunlocked => hjudged.unlocks ?_, hsched, ?_⟩
  · rw [hnoted]
    exact Nat.ne_of_lt hrate
  · rw [hnoted]
    exact hset
  · rw [hnoted]
    exact hunlocked
  · rw [hclk]
    refine Touched.trans ?_ hjudged.touched
    rw [hnoted]
    rfl

/-- The row on a far Sync without one (R326, R330). -/
theorem ptpSync_slews (h : Follows s port) (hskip : s.time.skip = false) (hoff : off = offset - s.parS 32 (P.timePortAsymmetryNs port.val))
    (hfar : s.par P.timePtpStepThresholdNs < off.natAbs) (hcredit : s.time.credit = false) (hrefused : Takes s F.ptpStepRefused 0 idNone)
    (hlimit : Takes s F.timeRateLimit 0 idNone) :
    ∃ t, exec (.ptpSync dt port offset delay conv) s = .next t ∧
      t.clk = { (s.pass dt).clk with rho := (if 0 < off then -500000000 else 500000000) } ∧ t.time.credit = false ∧ t.time.refused = true ∧
      t.time.steps = s.time.steps ∧ t.time.lastSync = (s.pass dt).now ∧
      (t.src F.ptpStepRefused).hits = (if s.time.refused then (s.src F.ptpStepRefused).hits else sat 16 ((s.src F.ptpStepRefused).hits + 1)) ∧
      (t.src F.timeRateLimit).hits = sat 16 ((s.src F.timeRateLimit).hits + 1) ∧ Touched { s.pass dt with clk := t.clk, time := t.time } t := by
  have hexec := ptpSync_corrects (dt := dt) (delay := delay) (conv := conv) h hskip hoff
  obtain ⟨hslewed, hhits, hothers⟩ := syncRate_refuses (s := (s.pass dt).syncNoted off delay) (was := s.time.offset) (gap := (s.pass dt).now - s.time.lastSync)
    (conv := conv) hfar hcredit (takes_frame s _ _ _ _ rfl rfl hrefused)
  generalize ((s.pass dt).syncNoted off delay).syncRate off s.time.offset ((s.pass dt).now - s.time.lastSync) conv = u at hexec hslewed hhits hothers
  have hlimit' : Takes u F.timeRateLimit 0 idNone := takes_touched _ _ hslewed _ _ _ (takes_frame s _ _ _ _ rfl rfl hlimit)
  have huclk : u.clk = { (s.pass dt).clk with rho := (if 0 < off then -500000000 else 500000000) } := by rw [hslewed]; rfl
  have hutime : u.time = { ((s.pass dt).syncNoted off delay).time with refused := true } := by rw [hslewed]; rfl
  have hhit : u.rateHit = u.fault F.timeRateLimit 0 := if_pos (by rw [huclk]; exact natAbs_slew off)
  have hjudged := syncState_judged s.time.servo off hlimit'.calm
  generalize u.syncState s.time.servo off = t at hexec hjudged
  obtain ⟨hcredit', hsteps, hmarked, hlast, -⟩ := hjudged.keeps
  obtain ⟨-, hcount, -, hkept, -⟩ := fault_recorded hlimit'
  have hsrc : ∀ m, t.src m = (u.fault F.timeRateLimit 0).src m := fun m => by rw [State.src, hjudged.sources, hhit]; rfl
  rw [hutime] at hcredit' hsteps hmarked hlast
  refine ⟨t, hexec, hjudged.clk.trans huclk, hcredit'.trans hcredit, hmarked, hsteps, hlast, ?_, ?_, ?_⟩
  · rw [hsrc, hkept _ (by decide)]
    exact hhits
  · rw [hsrc, hcount, hothers _ (by decide)]
    rfl
  · rw [hjudged.clk]
    refine Touched.trans ?_ hjudged.touched
    unfold Touched at hslewed ⊢
    rw [hslewed]
    rfl

/-- The row on a near Sync (R330, R331). -/
theorem ptpSync_disciplines (h : Follows s port) (hskip : s.time.skip = false) (hoff : off = offset - s.parS 32 (P.timePortAsymmetryNs port.val))
    (hnear : off.natAbs ≤ s.par P.timePtpStepThresholdNs) (hcalm : Calm s F.timeRateLimit) :
    ∃ t r, exec (.ptpSync dt port offset delay conv) s = .next t ∧ -500000000 ≤ r ∧ r ≤ 500000000 ∧
      r = clamp (-500000000) 500000000 (((s.par P.timePtpKp : Int) * Config.offsetRate off s.time.offset ((s.pass dt).now - s.time.lastSync) +
        (s.par P.timePtpKi : Int) * Config.offsetSum (s.time.sum + off)) / 65536) ∧ t.clk = { (s.pass dt).clk with rho := r } ∧
      t.time.credit = s.time.credit ∧ t.time.steps = s.time.steps ∧ t.time.refused = false ∧ t.time.lastSync = (s.pass dt).now ∧
      t.time.offset = clamp (-2147483648) 2147483647 off ∧
      (off.natAbs ≤ s.par P.timePtpLockNs → (s.time.servo = 3 ∨ s.time.inLock = 15) → t.time.servo = 3) ∧
      (off.natAbs ≤ s.par P.timePtpLockNs → s.time.servo = 2 → s.time.inLock < 15 → t.time.servo = 2 ∧ t.time.inLock = s.time.inLock + 1) ∧
      (s.par P.timePtpLockNs < off.natAbs → t.time.servo = 2 ∧ t.time.inLock = 0) ∧ Touched { s.pass dt with clk := t.clk, time := t.time } t := by
  have hexec := ptpSync_corrects (dt := dt) (delay := delay) (conv := conv) h hskip hoff
  rw [syncRate_near (s := (s.pass dt).syncNoted off delay) hnear] at hexec
  obtain ⟨hlow, hhigh⟩ := clamp_mem (lo := -500000000) (hi := 500000000) (by decide) (((s.par P.timePtpKp : Int) *
    Config.offsetRate off s.time.offset ((s.pass dt).now - s.time.lastSync) + (s.par P.timePtpKi : Int) * Config.offsetSum (s.time.sum + off)) / 65536)
  have hjudged := syncState_judged s.time.servo off (hcalm.of_params (t := (((s.pass dt).syncNoted off delay).slewed
    (((s.pass dt).syncNoted off delay).servoRate off s.time.offset ((s.pass dt).now - s.time.lastSync))).excursion false) rfl)
  generalize State.syncState _ _ _ = t at hexec hjudged
  obtain ⟨hcredit, hsteps, hrefused, hlast, hoffset, -⟩ := hjudged.keeps
  refine ⟨t, _, hexec, hlow, hhigh, rfl, hjudged.clk, hcredit, hsteps, hrefused, hlast, hoffset, fun hwithin hlocks => hjudged.locks hwithin hlocks,
    fun hwithin hacquiring hfew => ?_, fun hunlocked => hjudged.unlocks hunlocked, ?_⟩
  · rw [hacquiring] at hjudged
    exact hjudged.acquires hwithin hfew
  · rw [hjudged.clk]
    exact hjudged.touched

/-- No Sync for the time-out makes HOLDOVER, with the rate as it is, and records PTP_LOST (R331). -/
theorem ptpTimeout_holds (hservo : s.time.servo = 2 ∨ s.time.servo = 3) (hlate : s.time.lastSync + s.par P.timePtpTimeoutMs * perMs ≤ (s.pass dt).now)
    (htakes : Takes s F.ptpLost 0 idNone) :
    ∃ t, exec (.ptpTimeout dt) s = .next t ∧ t.time.servo = 4 ∧ t.clk = (s.pass dt).clk ∧
      Recorded (timeNoted { s.pass dt with time := { s.time with servo := 4, inLock := 0 } } 1) t F.ptpLost 0 idNone 0 := by
  have hnew : (s.pass dt).time.servo ≠ 4 := fun hheld => by
    rw [State.pass_time] at hheld
    omega
  have hholds : (s.pass dt).setServo 4 = (timeNoted { s.pass dt with time := { s.time with servo := 4, inLock := 0 } } 1).fault F.ptpLost 0 :=
    (if_neg hnew).trans (if_pos rfl)
  have hexec : exec (.ptpTimeout dt) s = .next ((s.pass dt).setServo 4) := if_pos ⟨hservo, hlate⟩
  rw [hholds] at hexec
  obtain ⟨events, pba, out, hnoted, -⟩ := timeNoted_frame { s.pass dt with time := { s.time with servo := 4, inLock := 0 } } 1
  generalize timeNoted _ 1 = u at hexec hnoted ⊢
  have htakes' : Takes u F.ptpLost 0 idNone := takes_frame s _ _ _ _ (by rw [hnoted]; rfl) (by rw [hnoted]; rfl) htakes
  have htouch := htakes'.touched
  refine ⟨_, hexec, ?_, ?_, fault_recorded htakes'⟩
  · rw [htouch, hnoted]
  · rw [htouch, hnoted]

end Sync

/-! ### The statement -/

/-- Settles O33: a Sync by whether it is far and a credit is held, the time-out by the hit that it records, a message by what it carries and what is
decided at it. -/
theorem ptpDisciplinesDeviceTime : Obligations.PtpDisciplinesDeviceTime := by
  unfold Obligations.PtpDisciplinesDeviceTime
  refine ⟨fun dt delay port offset conv s hon hport hservo => ptpSync_skips ⟨hon, hport, hservo⟩,
    fun dt delay port offset off conv s hon hport hservo => ptpSync_steps ⟨hon, hport, hservo⟩,
    fun dt delay port offset off conv s hon hport hservo => ptpSync_slews ⟨hon, hport, hservo⟩,
    fun dt delay port offset off conv s hon hport hservo => ptpSync_disciplines ⟨hon, hport, hservo⟩,
    fun dt s => ptpTimeout_holds, fun dt taken port tx fast msg b s => ptpEventMessage_ignored, ?heeded,
    fun msg s => ⟨ptpHeeds_domain, fun hother => if_pos hother, ptpSent_oneStep⟩⟩
  case heeded =>
    intro dt taken k n port tx fast msg s held o hon hport hheeds hk hheld ho hn
    subst hn
    refine ⟨fun hevent hroom => ?stamps, fun hevent hfull htakes => ?loses, fun hgeneral => ?general, fun v m b hgeneral hselects hnew => ?selects⟩
    all_goals rw [ptpEventMessage_heeded hon hport hheeds]
    case stamps =>
      rw [ptpCarried_stamps (s := s.pass dt) hk hheld ho hevent hroom, ptpQueued_kept]
      rfl
    case loses =>
      rw [ptpCarried_loses (s := s.pass dt) hk hheld ho hevent hfull, ptpQueued_lost]
      exact ⟨_, rfl, fault_recorded (takes_frame s _ _ _ _ rfl rfl htakes)⟩
    case general =>
      rw [ptpCarried_general (s := s.pass dt) hk hheld ho hgeneral, ptpQueued_kept]
      rfl
    case selects =>
      rw [ptpCarried_general (s := s.pass dt) hk hheld ho hgeneral, ptpQueued_kept]
      exact ⟨_, rfl, ptpDecided_selects hselects hnew⟩

end Sys2Proof.Machine
end

section
/-!
The fuses under the operations of the model: none but the check of stage 7 changes one.
-/
namespace Sys2Proof.Machine

/-! ### Operations of Machine/Operands.lean -/

@[simp] theorem State.vcoreBus_otp (s : State) (l : List (Nat × Option Nat)) : (s.vcoreBus l).otp = s.otp := by rfl

/-! ### Operations of Machine/Session.lean -/

@[simp] theorem State.completeObj_otp (s : State) (p : Pend) (status obj result unit : Nat) :
    (s.completeObj p status obj result unit).otp = s.otp := by simp [State.completeObj]

@[simp] theorem State.reserve_otp (s : State) (w : Sess) (c : Cmd) (obj : Nat) (data : Bytes) :
    (s.reserve w c obj data).otp = s.otp := by simp [State.reserve]

@[simp] theorem State.still_otp (s : State) (p : Pend) (k : State) :
    (s.still p k).otp = if (s.pend? p.who p.cmd.seq).isSome then k.otp else s.otp := by
  unfold State.still
  split <;> rfl

@[simp] theorem State.finishOut_otp (s : State) (p : Pend) (chain : List Bytes) (data : Bytes) (result unit : Nat) :
    (s.finishOut p chain data result unit).otp = s.otp := by
  unfold State.finishOut
  split <;> simp

@[simp] theorem State.taken_otp (s : State) (w : Sess) : (s.taken w).otp = s.otp := by simp [State.taken]

@[simp] theorem State.undo_otp (s : State) (p : Pend) : (s.undo p).otp = s.otp := by simp [State.undo]

@[simp] theorem State.abandonUpdate_otp (s : State) : (s.abandonUpdate).otp = s.otp := by rfl

@[simp] theorem State.closeWindow_otp (s : State) (w : Sess) : (s.closeWindow w).otp = s.otp := by
  unfold State.closeWindow
  split <;> simp

@[simp] theorem State.endSession_otp (s : State) (w : Sess) : (s.endSession w).otp = s.otp := by simp [State.endSession]

@[simp] theorem State.discardSlot_otp (s : State) (e : BitVec 16) (w : Sess) : (s.discardSlot e w).otp = s.otp := by
  unfold State.discardSlot
  split <;> simp

@[simp] theorem State.discardPend_otp (s : State) (e : BitVec 16) (p : Pend) : (s.discardPend e p).otp = s.otp := by simp [State.discardPend]

@[simp] theorem State.epochUp_otp (s : State) (kind source : Nat) : (s.epochUp kind source).otp = s.otp := by simp [State.epochUp]

/-! ### Operations of Machine/Web.lean -/

@[simp] theorem State.setEnc_otp (s : State) (c : Nat) (e : Enc) : (s.setEnc c e).otp = s.otp := by rfl

@[simp] theorem State.setHead_otp (s : State) (slot : Nat) (h : SlotHead) : (s.setHead slot h).otp = s.otp := by rfl

@[simp] theorem State.sendCeilOn_otp (s : State) (port : Nat) : (s.sendCeilOn port).otp = s.otp := by rfl

/-! ### Operations of Machine/Faults.lean -/

@[simp] theorem State.setSpare_otp (s : State) (k : Nat) (x : Spare) : (s.setSpare k x).otp = s.otp := by rfl

@[simp] theorem State.spliceEvent_otp (s : State) (kind bar index line rep : Nat) :
    (s.spliceEvent kind bar index line rep).otp = s.otp := by simp [State.spliceEvent]

@[simp] theorem State.epochOnce_otp (s : State) (kind source : Nat) : (s.epochOnce kind source).otp = s.otp := by simp [State.epochOnce]

@[simp] theorem State.resetBlock_otp (s : State) (n blk : Nat) : (s.resetBlock n blk).otp = s.otp := by simp [State.resetBlock]

@[simp] theorem State.fbFaulty_otp (s : State) (u n : Nat) : (s.fbFaulty u n).otp = s.otp := by rfl

@[simp] theorem State.failover_otp (s : State) (n : Nat) : (s.failover n).otp = s.otp := by simp [State.failover]

@[simp] theorem State.register_otp (s : State) (n a master access : Nat) : (s.register n a master access).otp = s.otp := by
  unfold State.register
  dsimp only
  repeat' split
  all_goals simp

@[simp] theorem State.hit_otp (s : State) (n a master access : Nat) : (s.hit n a master access).otp = s.otp := by simp [State.hit]

@[simp] theorem State.fault_otp (s : State) (n a : Nat) : (s.fault n a).otp = s.otp := by simp [State.fault]

@[simp] theorem State.raise_otp (s : State) (n a : Nat) : (s.raise n a).otp = s.otp := by simp [State.raise]

@[simp] theorem State.lower_otp (s : State) (n a : Nat) : (s.lower n a).otp = s.otp := by rfl

@[simp] theorem State.invalidate_otp (s : State) : (s.invalidate).otp = s.otp := by simp [State.invalidate]

@[simp] theorem State.lostCheck_otp (s : State) : (s.lostCheck).otp = s.otp := by simp [State.lostCheck]

@[simp] theorem State.setFire_otp (s : State) (c : Nat) : (s.setFire c).otp = s.otp := by simp [State.setFire]

@[simp] theorem State.fbRestart_otp (s : State) : (s.fbRestart).otp = s.otp := by simp [State.fbRestart]

/-- A step that keeps the fuses, taken or not. -/
theorem otp_ite {c : Prop} [Decidable c] {o : Otp} {t u : State} (h : t.otp = o) (hu : u.otp = t.otp) : (if c then u else t).otp = o := by
  split
  · exact hu.trans h
  · exact h

@[simp] theorem State.endEffects_otp (s : State) (n : Nat) : (s.endEffects n).otp = s.otp := by
  unfold State.endEffects
  refine otp_ite (otp_ite (otp_ite (otp_ite (otp_ite ?_ (State.fbRestart_otp _)) rfl) (State.lostCheck_otp _)) rfl) rfl
  dsimp only
  split
  · refine otp_ite ?_ rfl
    split <;> simp
  · split <;> simp

@[simp] theorem State.clearSource_otp (s : State) (n : Nat) (same : Bool) : (s.clearSource n same).otp = s.otp := by simp [State.clearSource]

/-! ### Operations of Machine/HostCommands.lean -/

@[simp] theorem State.openSession_otp (s : State) (w : Sess) (i leaseMs : Nat) (q : Option Cq) :
    (s.openSession w i leaseMs q).otp = s.otp := by simp [State.openSession]

@[simp] theorem State.renew_otp (s : State) (w : Sess) : (s.renew w).otp = s.otp := by simp [State.renew]

@[simp] theorem State.badToken_otp (s : State) (master : Nat) : (s.badToken master).otp = s.otp := by simp [State.badToken]

@[simp] theorem State.rearm_otp (s : State) : (s.rearm).otp = s.otp := by rfl

@[simp] theorem State.sendPending_otp (s : State) : (s.sendPending).otp = s.otp := by simp [State.sendPending]

@[simp] theorem State.cfgWrite_otp (s : State) (item : CfgItem) (v : BitVec 64) : (s.cfgWrite item v).otp = s.otp := by
  unfold State.cfgWrite
  split <;> simp

@[simp] theorem State.flrBegin_otp (s : State) : (s.flrBegin).otp = s.otp := by
  unfold State.flrBegin
  refine (foldl_otp _ (fun s i => ?_) _ _).trans (State.epochUp_otp ..)
  split <;> simp

@[simp] theorem State.acceptCmd_otp (s : State) (w : Sess) (img : Bytes) : (s.acceptCmd w img).otp = s.otp := by
  unfold State.acceptCmd
  dsimp only
  repeat' split
  all_goals simp

@[simp] theorem State.answerExpired_otp (s : State) (i : Fin 64) : (s.answerExpired i).otp = s.otp := by simp [State.answerExpired]

@[simp] theorem State.remoteOpen_otp (s : State) (port : Nat) (peer : BitVec 48) (img : Bytes) : (s.remoteOpen port peer img).otp = s.otp := by
  unfold State.remoteOpen
  split <;> simp

@[simp] theorem State.failSlot_otp (s : State) (who : Sess) (seq : BitVec 32) (status : Nat) : (s.failSlot who seq status).otp = s.otp := by
  unfold State.failSlot
  split <;> simp

@[simp] theorem State.dmaFail_otp (s : State) (n : Nat) (who : Sess) (seq : BitVec 32) (addr : BitVec 64) :
    (s.dmaFail n who seq addr).otp = s.otp := by
  unfold State.dmaFail
  dsimp only
  repeat' split
  all_goals simp

/-! ### Operations of Machine/Geometry.lean -/

@[simp] theorem State.keepGap_otp (s : State) : (s.keepGap).otp = s.otp := by rfl

/-! ### Operations of Machine/Jobs.lean -/

@[simp] theorem State.codecRan_otp (s : State) (jobs noshr errs : Nat) : (s.codecRan jobs noshr errs).otp = s.otp := by rfl

@[simp] theorem State.storeJob_otp (s : State) (p : Pend) (i : Nat) (j : Job) : (s.storeJob p i j).otp = s.otp := by simp [State.storeJob]

@[simp] theorem State.loadFails_otp (s : State) (p : Pend) (i status : Nat) : (s.loadFails p i status).otp = s.otp := by simp [State.loadFails]

@[simp] theorem State.stageFails_otp (s : State) (p : Pend) (i status unit : Nat) :
    (s.stageFails p i status unit).otp = s.otp := by simp [State.stageFails]

/-! ### Operations of Machine/Splices.lean -/

@[simp] theorem State.setRing_otp (s : State) (r : Nat) (x : Ring) : (s.setRing r x).otp = s.otp := by rfl

@[simp] theorem State.forecast_otp (s : State) : (s.forecast).otp = s.otp := by simp [State.forecast]

@[simp] theorem State.placeSplice_otp (s : State) (a : Armed) : (s.placeSplice a).otp = s.otp := by simp [State.placeSplice]

@[simp] theorem State.disarm_otp (s : State) (a : Armed) : (s.disarm a).otp = s.otp := by rfl

/-! ### Operations of Machine/Zones.lean -/

@[simp] theorem State.loopEvent_otp (s : State) (kind bar item value line : Nat) :
    (s.loopEvent kind bar item value line).otp = s.otp := by simp [State.loopEvent]

@[simp] theorem State.setZone_otp (s : State) (k : Nat) (x : Zone) : (s.setZone k x).otp = s.otp := by rfl

@[simp] theorem State.startZones_otp (s : State) (p : Nat) : (s.startZones p).otp = s.otp := by rfl

@[simp] theorem State.setBarLoop_otp (s : State) (b : Nat) (x : BarLoop) : (s.setBarLoop b x).otp = s.otp := by rfl

@[simp] theorem State.loadMemory_otp (s : State) (b : Nat) (r : Run) (line : Nat) : (s.loadMemory b r line).otp = s.otp := by
  unfold State.loadMemory
  dsimp only
  rw [State.setBarLoop_otp]
  exact foldl_otp _ (fun _ _ => State.setZone_otp ..) _ _

@[simp] theorem State.keepCopy_otp (s : State) (b : Nat) (r : Run) : (s.keepCopy b r).otp = s.otp := by rfl

@[simp] theorem State.putMemory_otp (s : State) (i : Nat) (m : Bytes) : (s.putMemory i m).1.otp = s.otp := by
  unfold State.putMemory
  dsimp only
  repeat' split
  all_goals simp

@[simp] theorem State.saveMemory_otp (s : State) (r : Run) (line : Nat) : (s.saveMemory r line).otp = s.otp := by
  unfold State.saveMemory
  dsimp only
  split
  · simp
  · split <;> simp

@[simp] theorem State.setEntry_otp (s : State) (i : Nat) (e : BitVec 32) : (s.setEntry i e).otp = s.otp := by rfl

@[simp] theorem State.moveTrims_otp (s : State) (p : Nat) : (s.moveTrims p).otp = s.otp := by
  refine foldl_otp _ (fun s e => ?_) _ _
  split <;> simp

@[simp] theorem State.applyEntry_otp (s : State) (i : Nat) (e : BitVec 32) (m : BitVec 7) :
    (s.applyEntry i e m).otp = s.otp := by simp [State.applyEntry]

@[simp] theorem State.applyLedger_otp (s : State) (p : Nat) : (s.applyLedger p).otp = s.otp := by simp [State.applyLedger]

/-! ### Operations of Machine/Frames.lean -/

@[simp] theorem State.sendFrame_otp (s : State) (d : Desc) (slot : Nat) (codes : List Nat) : (s.sendFrame d slot codes).otp = s.otp := by
  unfold State.sendFrame
  dsimp only
  repeat' split
  all_goals rfl

@[simp] theorem State.resendSlot_otp (line : Nat) (codes : SMap (List Nat)) (s : State) (i : Nat) :
    (State.resendSlot line codes s i).otp = s.otp := by
  unfold State.resendSlot
  split <;> simp

@[simp] theorem State.resend_otp (s : State) (l : Nat) : (s.resend l).otp = s.otp := by simp [State.resend]

@[simp] theorem State.stageMissed_otp (s : State) (b : Nat) : (s.stageMissed b).otp = s.otp := by rfl

/-! ### Operations of Machine/Lines.lean -/

@[simp] theorem State.fetchLine_otp (s : State) (p : Nat) (bad : Bool) : (s.fetchLine p bad).otp = s.otp := by rfl

@[simp] theorem State.dropBad_otp (s : State) (r : Nat) : (s.dropBad r).otp = s.otp := by simp [State.dropBad]

@[simp] theorem State.updRun_otp (s : State) (lam : Nat) (f : Run → Run) : (s.updRun lam f).otp = s.otp := by rfl

@[simp] theorem State.bindRepeat_otp (s : State) (r : Run) (n : Nat) : (s.bindRepeat r n).otp = s.otp := by simp [State.bindRepeat]

@[simp] theorem State.bindRepeats_otp (s : State) (p : Nat) : (s.bindRepeats p).otp = s.otp := by
  refine foldl_otp _ (fun s r => ?_) _ _
  dsimp only
  split
  · rfl
  · exact foldl_otp _ (fun s n => by simp) _ _

@[simp] theorem State.releaseRepeats_otp (s : State) (p : Nat) : (s.releaseRepeats p).otp = s.otp := by rfl

@[simp] theorem State.beginLoad_otp (s : State) (b k job : Nat) : (s.beginLoad b k job).otp = s.otp := by simp [State.beginLoad]

@[simp] theorem State.commitBank_otp (s : State) (b job : Nat) : (s.commitBank b job).otp = s.otp := by
  unfold State.commitBank
  dsimp only
  split <;> simp

@[simp] theorem State.fillBank_otp (s : State) (b k : Nat) : (s.fillBank b k).otp = s.otp := by
  unfold State.fillBank
  dsimp only
  split <;> simp

@[simp] theorem State.commitSplice_otp (s : State) (a : Armed) (lam : Nat) : (s.commitSplice a lam).otp = s.otp := by simp [State.commitSplice]

@[simp] theorem State.commits_otp (s : State) (p : Nat) : (s.commits p).otp = s.otp := by
  refine foldl_otp _ (fun s a => ?_) _ _
  split <;> simp

@[simp] theorem State.barOn_otp (s : State) (job b : Nat) (v : Bool) : (s.barOn job b v).otp = s.otp := by simp [State.barOn]

@[simp] theorem State.finishRun_otp (s : State) (r : Run) (line : Nat) : (s.finishRun r line).otp = s.otp := by simp [State.finishRun]

@[simp] theorem State.dropLimits_otp (s : State) (i : Nat) : (s.dropLimits i).otp = s.otp := by rfl

@[simp] theorem State.beginSwitch_otp (s : State) (r : Run) (b line : Nat) : (s.beginSwitch r b line).otp = s.otp := by
  unfold State.beginSwitch
  split <;> simp

@[simp] theorem State.endSwitch_otp (s : State) (r : Run) (b line : Nat) : (s.endSwitch r b line).otp = s.otp := by
  unfold State.endSwitch
  dsimp only
  repeat' split
  all_goals simp

@[simp] theorem State.barSwitch_otp (s : State) (r : Run) (p b : Nat) : (s.barSwitch r p b).otp = s.otp := by simp [State.barSwitch]

@[simp] theorem State.startPrinting_otp (s : State) (r : Run) (p : Nat) : (s.startPrinting r p).otp = s.otp := by simp [State.startPrinting]

/-- Two states of the same fuses. A predicate of its own, so that a step over a `let` is compared as a state and not through `State.otp`. -/
structure SameFuses (s t : State) : Prop where
  otp : t.otp = s.otp

theorem SameFuses.ite {c : Prop} [Decidable c] {s t u : State} (h : SameFuses s t) (hu : u.otp = t.otp) : SameFuses s (if c then u else t) :=
  ⟨otp_ite h.otp hu⟩

theorem SameFuses.foldl {α : Type} {f : State → α → State} (h : ∀ s a, SameFuses s (f s a)) {s t : State} (l : List α) (ht : SameFuses s t) :
    SameFuses s (l.foldl f t) :=
  ⟨(foldl_otp f (fun s a => (h s a).otp) l t).trans ht.otp⟩

@[simp] theorem State.runOut_otp (s : State) (r : Run) (p : Nat) : (s.runOut r p).otp = s.otp := by
  suffices h : SameFuses s (s.runOut r p) from h.otp
  unfold State.runOut
  split
  · exact ⟨rfl⟩
  dsimp only
  split
  · exact ⟨rfl⟩
  refine .ite (.foldl (fun s b => ?bar) _ ?ended) (State.finishRun_otp ..)
  case bar => exact .ite (.ite ⟨rfl⟩ ((State.updRun_otp ..).trans (State.keepCopy_otp ..))) (State.barOn_otp ..)
  case ended => split <;> exact ⟨by simp⟩

@[simp] theorem State.retireRuns_otp (s : State) (r : Run) (p : Nat) : (s.retireRuns r p).otp = s.otp := by
  unfold State.retireRuns
  split
  · rfl
  · split <;> simp

@[simp] theorem State.pruneRuns_otp (s : State) (p : Nat) : (s.pruneRuns p).otp = s.otp := by rfl

@[simp] theorem State.spliceLine_otp (s : State) (p : Nat) : (s.spliceLine p).otp = s.otp := by
  refine (State.pruneRuns_otp ..).trans ((foldl_otp _ (fun s l => ?_) _ _).trans (State.commits_otp ..))
  refine (State.retireRuns_otp ..).trans ((foldl_otp _ (fun _ _ => State.barSwitch_otp ..) _ _).trans ?_)
  simp

@[simp] theorem State.checkpointEcc_otp (s : State) (e : Nat × Bool) : (s.checkpointEcc e).otp = s.otp := by simp [State.checkpointEcc]

@[simp] theorem State.resyncFails_otp (s : State) : (s.resyncFails).otp = s.otp := by simp [State.resyncFails]

@[simp] theorem State.standbyFaulty_otp (s : State) (n : Nat) : (s.standbyFaulty n).otp = s.otp := by simp [State.standbyFaulty]

@[simp] theorem State.pairIssue_otp (s : State) (d : Desc) (matched : Bool) : (s.pairIssue d matched).otp = s.otp := by rfl

@[simp] theorem State.applyParams_otp (s : State) (p : Nat) : (s.applyParams p).otp = s.otp := by rfl

@[simp] theorem State.rewriteTables_otp (s : State) (p : Nat) : (s.rewriteTables p).otp = s.otp := by simp [State.rewriteTables]

@[simp] theorem State.startFrames_otp (s : State) (p : Nat) : (s.startFrames p).otp = s.otp := by
  refine foldl_otp _ (fun s l => ?_) _ _
  dsimp only
  repeat' split
  all_goals simp

@[simp] theorem State.finishReturns_otp (s : State) : (s.finishReturns).otp = s.otp := by
  refine foldl_otp _ (fun s k => ?_) _ _
  split <;> simp

@[simp] theorem State.bankLines_otp (s : State) (p : Nat) : (s.bankLines p).otp = s.otp := by simp [State.bankLines]

@[simp] theorem State.arbitrate_otp (s : State) (a b again a2 b2 : Bool) (ecc : List (Nat × Bool)) :
    (s.arbitrate a b again a2 b2 ecc).1.otp = s.otp := by
  unfold State.arbitrate
  dsimp only
  split <;> simp

@[simp] theorem State.compareDesc_otp (s : State) (cmp : DescCompare) (ecc : List (Nat × Bool)) : (s.compareDesc cmp ecc).1.otp = s.otp := by
  unfold State.compareDesc
  dsimp only
  repeat' split
  all_goals simp

@[simp] theorem State.boundary_otp (s : State) (p : Nat) (matched bad : Bool) : (s.boundary p matched bad).otp = s.otp := by simp [State.boundary]

@[simp] theorem State.motionParams_otp (s was : State) : (s.motionParams was).otp = s.otp := by simp [State.motionParams]

/-! ### Operations of Machine/Grate.lean -/

@[simp] theorem State.poison_otp (s : State) (key line : Nat) (idx : List Nat) : (s.poison key line idx).otp = s.otp := by rfl

@[simp] theorem State.easelError_otp (s : State) (b sl rg line word bits : Nat) : (s.easelError b sl rg line word bits).otp = s.otp := by
  unfold State.easelError
  dsimp only
  repeat' split
  all_goals simp

@[simp] theorem State.tableError_otp (s : State) (b k word bits : Nat) (matrix : Bool) :
    (s.tableError b k word bits matrix).otp = s.otp := by simp [State.tableError]

@[simp] theorem State.ledgerError_otp (s : State) (i line bits : Nat) : (s.ledgerError i line bits).otp = s.otp := by simp [State.ledgerError]

/-! ### Operations of Machine/Ember.lean -/

@[simp] theorem State.emberError_otp (s : State) (i bits : Nat) : (s.emberError i bits).otp = s.otp := by simp [State.emberError]

@[simp] theorem State.emberTableError_otp (s : State) (key line bits : Nat) :
    (s.emberTableError key line bits).otp = s.otp := by simp [State.emberTableError]

@[simp] theorem State.upset_otp (s : State) (b line : Nat) (u : Upset) : (s.upset b line u).otp = s.otp := by
  unfold State.upset
  split <;> simp

@[simp] theorem State.slotLine_otp (s : State) (v : LineView) (b sl : Nat) (drops : SMap (List Nat)) :
    (s.slotLine v b sl drops).otp = s.otp := by simp [State.slotLine]

@[simp] theorem State.workLine_otp (s : State) (v : LineView) (b : Nat) : (s.workLine v b).otp = s.otp := by simp [State.workLine]

/-! ### Operations of Machine/Fire.lean -/

@[simp] theorem State.setTrig_otp (s : State) (k : Nat) (x : Trig) : (s.setTrig k x).otp = s.otp := by rfl

@[simp] theorem State.trigDue_otp (s : State) (lines : List Nat) (fire : Nat) : (s.trigDue lines fire).otp = s.otp := by
  refine foldl_otp _ (fun s k => ?_) _ _
  dsimp only
  split <;> simp

@[simp] theorem State.trigEdge_otp (s : State) (lines : List Nat) : (s.trigEdge lines).otp = s.otp := by simp [State.trigEdge]

@[simp] theorem State.noFireOn_otp (s : State) (line : Nat) (bars : List Nat) : (s.noFireOn line bars).otp = s.otp := by simp [State.noFireOn]

@[simp] theorem State.retire_otp (s : State) (line : Nat) : (s.retire line).otp = s.otp := by rfl

@[simp] theorem State.skipLine_otp (s : State) (line : Nat) : (s.skipLine line).otp = s.otp := by rfl

@[simp] theorem State.frameUnsent_otp (line : Nat) (s : State) (slot : Nat) : (State.frameUnsent line s slot).otp = s.otp := by
  unfold State.frameUnsent
  split <;> simp

@[simp] theorem State.launchGroup_otp (unsent : List Nat) (s : State) (g : Later) :
    (State.launchGroup unsent s g).otp = s.otp := by simp [State.launchGroup]

@[simp] theorem State.fireEdge_otp (s : State) (line lane at_ : Nat) (slots : List Nat) :
    (s.fireEdge line lane at_ slots).otp = s.otp := by simp [State.fireEdge]

@[simp] theorem State.legacyDue_otp (s : State) (d : Desc) (silent : List Nat) (due : Nat) :
    (s.legacyDue d silent due).otp = s.otp := by simp [State.legacyDue]

@[simp] theorem State.fired_otp (s : State) (line link : Nat) : (s.fired line link).otp = s.otp := by rfl

@[simp] theorem State.launch_otp (s : State) (d : Desc) (unsent : List Nat) : (s.launch d unsent).otp = s.otp := by simp [State.launch]

@[simp] theorem State.launchLater_otp (s : State) (unsent : List Nat) : (s.launchLater unsent).otp = s.otp := by simp [State.launchLater]

@[simp] theorem State.launchEarly_otp (unsent : List Nat) (s : State) (d : Desc) :
    (State.launchEarly unsent s d).otp = s.otp := by simp [State.launchEarly]

@[simp] theorem State.freeze_otp (s : State) (line : Nat) : (s.freeze line).otp = s.otp := by rfl

@[simp] theorem State.refine_otp (s : State) : (s.refine).otp = s.otp := by rfl

@[simp] theorem State.edgeFire_otp (s : State) (d : Desc) (at_ edge : Nat) (unsent : List Nat) :
    (s.edgeFire d at_ edge unsent).otp = s.otp := by simp [State.edgeFire]

@[simp] theorem State.dropHeld_otp (s : State) : (s.dropHeld).otp = s.otp := by simp [State.dropHeld]

@[simp] theorem State.edgeLine_otp (s : State) (d : Desc) (unsent : List Nat) : (s.edgeLine d unsent).otp = s.otp := by simp [State.edgeLine]

@[simp] theorem State.firePostponed_otp (s : State) (unsent : List Nat) : (s.firePostponed unsent).otp = s.otp := by
  unfold State.firePostponed
  split <;> simp

@[simp] theorem State.launchFront_otp (s : State) (unsent : List Nat) : (s.launchFront unsent).otp = s.otp := by
  unfold State.launchFront
  split <;> simp

@[simp] theorem State.lateAfterFailover_otp (s : State) (line : Nat) : (s.lateAfterFailover line).otp = s.otp := by simp [State.lateAfterFailover]

@[simp] theorem State.fetchLate_otp (s : State) (line b : Nat) (ptrs : List (Nat × Nat)) :
    (s.fetchLate line b ptrs).otp = s.otp := by simp [State.fetchLate]

@[simp] theorem State.stageLate_otp (s : State) (line b : Nat) : (s.stageLate line b).otp = s.otp := by simp [State.stageLate]

@[simp] theorem State.lowerDraught_otp (s : State) : (s.lowerDraught).otp = s.otp := by simp [State.lowerDraught]

@[simp] theorem State.ceilingLine_otp (s : State) : (s.ceilingLine).otp = s.otp := by simp [State.ceilingLine]

@[simp] theorem State.setVcore_otp (s : State) (mv : Nat) : (s.setVcore mv).otp = s.otp := by rfl

/-! ### Operations of Machine/FireboxPair.lean -/

@[simp] theorem State.linkFails_otp (s : State) : (s.linkFails).otp = s.otp := by simp [State.linkFails]

@[simp] theorem State.linkReturns_otp (s : State) : (s.linkReturns).otp = s.otp := by simp [State.linkReturns]

@[simp] theorem State.judge_otp (s : State) (lostActive lostStandby : Bool) : (s.judge lostActive lostStandby).otp = s.otp := by simp [State.judge]

@[simp] theorem State.linkFrame_otp (s : State) (unit : Bool) : (s.linkFrame unit).otp = s.otp := by rfl

@[simp] theorem State.switchPair_otp (s : State) : (s.switchPair).otp = s.otp := by simp [State.switchPair]

/-! ### Operations of Machine/Motion.lean -/

@[simp] theorem State.unitStep_otp (s : State) (forward : Bool) : (s.unitStep forward).otp = s.otp := by rfl

@[simp] theorem State.velCheck_otp (s : State) : (s.velCheck).otp = s.otp := by simp [State.velCheck]

@[simp] theorem State.fallBack_otp (s : State) : (s.fallBack).otp = s.otp := by rfl

@[simp] theorem State.reverseCheck_otp (s : State) (delta : Int) : (s.reverseCheck delta).otp = s.otp := by simp [State.reverseCheck]

@[simp] theorem State.reachLines_otp (s : State) (unsent : List Nat) : (s.reachLines unsent).otp = s.otp := by
  unfold State.reachLines
  dsimp only
  repeat' split
  all_goals simp

@[simp] theorem State.reachWeb_otp (s : State) (unsent : List Nat) : (s.reachWeb unsent).otp = s.otp := by simp [State.reachWeb]

@[simp] theorem State.stepWeb_otp (s : State) (delta : Int) (unsent : List Nat) : (s.stepWeb delta unsent).otp = s.otp := by simp [State.stepWeb]

@[simp] theorem State.track_otp (s : State) (c : Nat) (delta : Int) : (s.track c delta).otp = s.otp := by
  unfold State.track
  split <;> simp

@[simp] theorem State.moveCount_otp (s : State) (c : Nat) (delta : Int) (unsent : List Nat) :
    (s.moveCount c delta unsent).otp = s.otp := by simp [State.moveCount]

@[simp] theorem State.countMark_otp (s : State) (k datum : Nat) : (s.countMark k datum).otp = s.otp := by rfl

@[simp] theorem State.trimMark_otp (s : State) (k : Nat) (w : Int) : (s.trimMark k w).otp = s.otp := by
  unfold State.trimMark
  dsimp only
  repeat' split
  all_goals simp

@[simp] theorem State.takeMark_otp (s : State) (k : Nat) (w : Int) (fly : Bool) : (s.takeMark k w fly).otp = s.otp := by simp [State.takeMark]

@[simp] theorem State.loseMarks_otp (s : State) (k : Nat) : (s.loseMarks k).otp = s.otp := by simp [State.loseMarks]

/-! ### Operations of Machine/Lanes.lean -/

@[simp] theorem State.ksSel_otp (s : State) (k m : Nat) : (s.ksSel k m).otp = s.otp := by rfl

@[simp] theorem State.sendLinkTime_otp (s : State) (l : Nat) (echo : Bool) (member : Option Nat) :
    (s.sendLinkTime l echo member).otp = s.otp := by simp [State.sendLinkTime]

@[simp] theorem State.sendInfo_otp (s : State) (l : Nat) (r : InfoRead) : (s.sendInfo l r).otp = s.otp := by rfl

@[simp] theorem State.startInfo_otp (s : State) (l : Nat) : (s.startInfo l).otp = s.otp := by
  unfold State.startInfo
  dsimp only
  repeat' split
  all_goals simp

@[simp] theorem State.enterTrain_otp (s : State) (l rate : Nat) : (s.enterTrain l rate).otp = s.otp := by rfl

@[simp] theorem State.enterDetect_otp (s : State) (l : Nat) : (s.enterDetect l).otp = s.otp := by rfl

@[simp] theorem State.laneOff_otp (s : State) (l : Nat) : (s.laneOff l).otp = s.otp := by
  unfold State.laneOff
  dsimp only
  repeat' split
  all_goals simp

@[simp] theorem State.attemptFails_otp (s : State) (l : Nat) : (s.attemptFails l).otp = s.otp := by simp [State.attemptFails]

@[simp] theorem State.sendCap_otp (s : State) (l : Nat) : (s.sendCap l).otp = s.otp := by rfl

@[simp] theorem State.capPair_otp (s : State) (l : Nat) : (s.capPair l).otp = s.otp := by
  unfold State.capPair
  dsimp only
  split <;> simp

@[simp] theorem State.toActive_otp (s : State) (l : Nat) (fresh : Bool) : (s.toActive l fresh).otp = s.otp := by simp [State.toActive]

@[simp] theorem State.memberPassed_otp (s : State) (k m : Nat) : (s.memberPassed k m).otp = s.otp := by rfl

@[simp] theorem State.spareUp_otp (s : State) (k : Nat) : (s.spareUp k).otp = s.otp := by
  unfold State.spareUp
  dsimp only
  split <;> simp

@[simp] theorem State.exchanged_otp (s : State) (l : Nat) : (s.exchanged l).otp = s.otp := by simp [State.exchanged]

@[simp] theorem State.relocked_otp (s : State) (l : Nat) : (s.relocked l).otp = s.otp := by simp [State.relocked]

@[simp] theorem State.beginSwitchTo_otp (s : State) (k l : Nat) : (s.beginSwitchTo k l).otp = s.otp := by simp [State.beginSwitchTo]

@[simp] theorem State.seekSpare_otp (s : State) (l : Nat) : (s.seekSpare l).otp = s.otp := by simp [State.seekSpare]

@[simp] theorem State.laneDown_otp (s : State) (l : Nat) : (s.laneDown l).otp = s.otp := by
  unfold State.laneDown
  dsimp only
  repeat' split
  all_goals simp

@[simp] theorem State.serve_otp (s : State) (k : Nat) : (s.serve k).otp = s.otp := by simp [State.serve]

@[simp] theorem State.capIn_otp (s : State) (l : Nat) (p : Bytes) : (s.capIn l p).otp = s.otp := by simp [State.capIn]

@[simp] theorem State.seeTest_otp (s : State) (l : Nat) (rx : List Bool) : (s.seeTest l rx).otp = s.otp := by
  unfold State.seeTest
  dsimp only
  split <;> simp

@[simp] theorem State.badUpstream_otp (s : State) (l : Nat) : (s.badUpstream l).otp = s.otp := by simp [State.badUpstream]

/-! ### Operations of Machine/Heads.lean -/

@[simp] theorem State.setLink_otp (s : State) (i : Nat) (x : SlotLink) : (s.setLink i x).otp = s.otp := by rfl

@[simp] theorem State.judgeTemp_otp (s : State) (i : Nat) (t : Int) (fresh : Bool) : (s.judgeTemp i t fresh).otp = s.otp := by simp [State.judgeTemp]

@[simp] theorem State.tempReport_otp (s : State) (i : Nat) (t : Int) : (s.tempReport i t).otp = s.otp := by simp [State.tempReport]

@[simp] theorem State.finishRefresh_otp (s : State) (i : Nat) : (s.finishRefresh i).otp = s.otp := by
  refine (foldl_otp _ (fun s e => ?_) _ _).trans (State.setLink_otp ..)
  split <;> simp

@[simp] theorem State.cardRead_otp (s : State) (i : Nat) (b : Bytes) : (s.cardRead i b).otp = s.otp := by simp [State.cardRead]

@[simp] theorem State.infoFails_otp (s : State) (l : Nat) (r : InfoRead) : (s.infoFails l r).otp = s.otp := by
  unfold State.infoFails
  dsimp only
  repeat' split
  all_goals simp

@[simp] theorem State.infoChunk_otp (s : State) (l : Nat) (r : InfoRead) (data : Bytes) : (s.infoChunk l r data).otp = s.otp := by
  unfold State.infoChunk
  dsimp only
  repeat' split
  all_goals simp

@[simp] theorem State.infoRefused_otp (s : State) (l : Nat) (r : InfoRead) : (s.infoRefused l r).otp = s.otp := by
  unfold State.infoRefused
  dsimp only
  split <;> simp

@[simp] theorem State.rereadCard_otp (s : State) (l j : Nat) : (s.rereadCard l j).otp = s.otp := by
  unfold State.rereadCard
  dsimp only
  split <;> simp

@[simp] theorem State.statusFlags_otp (s : State) (i flags : Nat) : (s.statusFlags i flags).otp = s.otp := by simp [State.statusFlags]

@[simp] theorem State.status_otp (s : State) (l j : Nat) (b : Bytes) : (s.status l j b).otp = s.otp := by
  unfold State.status
  split <;> simp

@[simp] theorem State.unmute_otp (s : State) (i : Nat) : (s.unmute i).otp = s.otp := by rfl

/-! ### Operations of Machine/Sensors.lean -/

@[simp] theorem State.convertTj_otp (s : State) (tj : List Int) : (s.convertTj tj).otp = s.otp := by simp [State.convertTj]

@[simp] theorem State.monitor_otp (s : State) (i mv : Nat) : (s.monitor i mv).otp = s.otp := by simp [State.monitor]

@[simp] theorem State.convertMv_otp (s : State) (mv : List Nat) : (s.convertMv mv).otp = s.otp := by
  unfold State.convertMv
  split
  · rfl
  · refine foldl_otp _ (fun s i => ?_) _ _
    split <;> simp

@[simp] theorem State.trimStep_otp (s : State) : (s.trimStep).otp = s.otp := by simp [State.trimStep]

@[simp] theorem State.setBoard_otp (s : State) (i : Nat) (b : Sensor) : (s.setBoard i b).otp = s.otp := by rfl

@[simp] theorem State.readBoard_otp (s : State) (i : Nat) (raw : Option SensorWord) : (s.readBoard i raw).otp = s.otp := by
  unfold State.readBoard
  dsimp only
  repeat' split
  all_goals simp

/-! ### Operations of Machine/Time.lean -/

@[simp] theorem State.trigRecord_otp (s : State) (c p : Nat) : (s.trigRecord c p).otp = s.otp := by simp [State.trigRecord]

@[simp] theorem State.pulse_otp (s : State) (k p : Nat) : (s.pulse k p).otp = s.otp := by simp [State.pulse]

@[simp] theorem State.timeCause_otp (s : State) (k : Nat) : (s.timeCause k).otp = s.otp := by simp [State.timeCause]

@[simp] theorem State.convert_otp (s : State) (target : Nat) (r : Readings) : (s.convert target r).otp = s.otp := by simp [State.convert]

/-- An answer that is not the refusal comes from past the check. -/
theorem of_ite_inl {α β : Type} {c : Prop} [Decidable c] {a : α} {b : α ⊕ β} {p : β} (h : (if c then .inl a else b) = .inr p) : b = .inr p := by
  split at h
  · cases h
  · exact h

/-- Arming a splice leaves the fuses. -/
theorem State.arm_otp {s t : State} {i ref input value lam e : Nat} {off : Int} (h : s.arm i ref input value off = .inr (t, lam, e)) : t.otp = s.otp := by
  unfold State.arm at h
  obtain ⟨rfl, -⟩ := Prod.mk.inj (Sum.inr.inj (of_ite_inl (of_ite_inl (of_ite_inl h))))
  simp

@[simp] theorem State.jobStart_otp (s : State) (x : Sched) : (s.jobStart x).otp = s.otp := by
  unfold State.jobStart
  dsimp only
  split
  · split <;> simp
  case _ t lam e harm =>
    split <;> simp [State.arm_otp harm]

@[simp] theorem State.freeSched_otp (s : State) (e : Nat) : (s.freeSched e).otp = s.otp := by rfl

@[simp] theorem State.runSched_otp (s : State) (e : Nat) (x : Sched) (r : Readings) (late : Bool) :
    (s.runSched e x r late).otp = s.otp := by simp [State.runSched]

@[simp] theorem State.stepTime_otp (s : State) (devu : Nat) (r : Readings) : (s.stepTime devu r).otp = s.otp := by simp [State.stepTime]

@[simp] theorem State.setServo_otp (s : State) (v : Nat) : (s.setServo v).otp = s.otp := by simp [State.setServo]

@[simp] theorem State.syncRate_otp (s : State) (off was : Int) (gap : Nat) (conv : Readings) :
    (s.syncRate off was gap conv).otp = s.otp := by simp [State.syncRate]

@[simp] theorem State.syncState_otp (s : State) (st : Nat) (off : Int) : (s.syncState st off).otp = s.otp := by simp [State.syncState]

/-! ### Operations of Machine/Cameras.lean -/

@[simp] theorem State.latchBank_otp (s : State) (c : Nat) : (s.latchBank c).otp = s.otp := by rfl

@[simp] theorem State.setPort_otp (s : State) (p : Nat) (x : CamPort) : (s.setPort p x).otp = s.otp := by rfl

@[simp] theorem State.discardPacket_otp (s : State) (p : Nat) : (s.discardPacket p).otp = s.otp := by rfl

@[simp] theorem State.matchTrigger_otp (s : State) (c : Nat) : (s.matchTrigger c).1.otp = s.otp := by
  unfold State.matchTrigger
  dsimp only
  split <;> simp

@[simp] theorem State.startFrame_otp (s : State) (port vc c : Nat) (busy : Bool) : (s.startFrame port vc c busy).otp = s.otp := by
  unfold State.startFrame
  dsimp only
  split
  · simp
  · simp

@[simp] theorem State.enterFifo_otp (s : State) (c n : Nat) (busy : List Nat) : (s.enterFifo c n busy).otp = s.otp := by
  unfold State.enterFifo
  split <;> simp

@[simp] theorem State.addLine_otp (s : State) (c : Nat) (line : Option (List Nat)) : (s.addLine c line).otp = s.otp := by
  unfold State.addLine
  dsimp only
  repeat' split
  all_goals simp

@[simp] theorem State.crcFails_otp (s : State) (port c : Nat) : (s.crcFails port c).otp = s.otp := by simp [State.crcFails]

@[simp] theorem State.addEmbedded_otp (s : State) (c : Nat) (b : Bytes) : (s.addEmbedded c b).otp = s.otp := by rfl

@[simp] theorem State.takeLine_otp (s : State) (c n : Nat) : (s.takeLine c n).otp = s.otp := by simp [State.takeLine]

@[simp] theorem State.drain_otp (s : State) (l : List (Fin 16 × Nat)) : (s.drain l).otp = s.otp := by simp [State.drain]

/-! ### Operations of Machine/Loop.lean -/

@[simp] theorem State.updateZone_otp (s : State) (b z : Nat) : (s.updateZone b z).otp = s.otp := by simp [State.updateZone]

@[simp] theorem State.resumeZone_otp (s : State) (b z : Nat) : (s.resumeZone b z).otp = s.otp := by simp [State.resumeZone]

@[simp] theorem State.measureZone_otp (s : State) (b z : Nat) (delta : Int) (weight printed : Nat) :
    (s.measureZone b z delta weight printed).otp = s.otp := by simp [State.measureZone]

@[simp] theorem State.measureRegion_otp (s : State) (c : Nat) (m : Stream) (r : Run) (b : Nat) (t : Target) (n : Nat) :
    (s.measureRegion c m r b t n).otp = s.otp := by
  refine foldl_otp _ (fun s z => ?_) _ _
  dsimp only
  split <;> simp

@[simp] theorem State.ownWrite_otp (s : State) (i : Nat) (e : BitVec 32) (mask : BitVec 7) : (s.ownWrite i e mask).otp = s.otp := by rfl

@[simp] theorem State.trimNozzle_otp (s : State) (g : Geo) (b : Nat) (u : Ink) (med : Int) :
    (s.trimNozzle g b u med).otp = s.otp := by simp [State.trimNozzle]

@[simp] theorem State.changeState_otp (s : State) (b : Nat) (u : Ink) (cand : Nat) (apply : Bool) :
    (s.changeState b u cand apply).otp = s.otp := by simp [State.changeState]

@[simp] theorem State.checkAge_otp (s : State) (i : Nat) (evaluated : Bool) : (s.checkAge i evaluated).otp = s.otp := by simp [State.checkAge]

@[simp] theorem State.checkStrip_otp (s : State) (c : Nat) (m : Stream) (r : Run) (b : Nat) (t : Target) (n : Nat) (fits : Bool) :
    (s.checkStrip c m r b t n fits).otp = s.otp := by simp [State.checkStrip]

@[simp] theorem State.useTarget_otp (s : State) (c : Nat) (m : Stream) (r : Run) (b ix : Nat) (t : Target) (nozzle fits : Bool) :
    (s.useTarget c m r b ix t nozzle fits).otp = s.otp := by simp [State.useTarget]

@[simp] theorem State.enterMode_otp (s : State) (b mode : Nat) : (s.enterMode b mode).otp = s.otp := by simp [State.enterMode]

@[simp] theorem State.frameOnBar_otp (s : State) (c : Nat) (m : Stream) (b : Nat) (nozzle : Bool) : (s.frameOnBar c m b nozzle).otp = s.otp := by
  unfold State.frameOnBar
  split <;> simp

@[simp] theorem State.setNow_otp (s : State) (k : PKey) (v : Nat) : (s.setNow k v).otp = s.otp := by rfl

/-! ### Operations of Machine/Memory.lean -/

@[simp] theorem State.refreshNow_otp (s : State) (c : Nat) : (s.refreshNow c).otp = s.otp := by rfl

@[simp] theorem State.drainRefresh_otp (s : State) (c : Nat) : (s.drainRefresh c).otp = s.otp := by simp [State.drainRefresh]

@[simp] theorem State.enter_otp (s : State) (c : Nat) (l : List DdrReq) : (s.enter c l).otp = s.otp := by simp [State.enter]

@[simp] theorem State.issueReq_otp (s : State) (c : Nat) (e : DdrReq × Nat) : (s.issueReq c e).otp = s.otp := by rfl

@[simp] theorem State.qosCheck_otp (s : State) (q age : Nat) : (s.qosCheck q age).otp = s.otp := by simp [State.qosCheck]

@[simp] theorem State.failCommand_otp (s : State) (who : Option (Sess × BitVec 32)) (unit : Nat) : (s.failCommand who unit).otp = s.otp := by
  unfold State.failCommand
  repeat' split
  all_goals simp

@[simp] theorem State.poisonGranule_otp (s : State) (slot rg line granule : Nat) (ring : Option Nat) :
    (s.poisonGranule slot rg line granule ring).otp = s.otp := by
  unfold State.poisonGranule
  dsimp only
  repeat' split
  all_goals simp

@[simp] theorem State.readEcc_otp (s : State) (c granule : Nat) (fate : ReadFate) (master : Nat) :
    (s.readEcc c granule fate master).1.otp = s.otp := by
  unfold State.readEcc
  dsimp only
  split
  · rfl
  · split <;> simp

@[simp] theorem State.readReturns_otp (s : State) (c : Nat) (r : DdrReq) (age : Nat) (fate : ReadFate) :
    (s.readReturns c r age fate).otp = s.otp := by
  unfold State.readReturns
  dsimp only
  repeat' split
  all_goals simp

@[simp] theorem State.chanOffline_otp (s : State) (c : Nat) : (s.chanOffline c).otp = s.otp := by simp [State.chanOffline]

@[simp] theorem State.doubleRefresh_otp (s : State) (c : Nat) (cross : Bool) : (s.doubleRefresh c cross).otp = s.otp := by simp [State.doubleRefresh]

@[simp] theorem State.codecOut_otp (s : State) (p : Pend) (l : List DmaDesc) (out : Bytes) (crc : Nat) :
    (s.codecOut p l out crc).otp = s.otp := by simp [State.codecOut]

@[simp] theorem State.setScan_otp (s : State) (e : Nat) (x : Scan) : (s.setScan e x).otp = s.otp := by rfl

/-! ### Operations of Machine/Collector.lean -/

@[simp] theorem State.checkBanks_otp (s : State) (b : Nat) : (s.checkBanks b).otp = s.otp := by rfl

@[simp] theorem State.resumeLoads_otp (s : State) (b : Nat) : (s.resumeLoads b).otp = s.otp := by simp [State.resumeLoads]

@[simp] theorem State.setReaction_otp (s : State) (n r : Nat) : (s.setReaction n r).otp = s.otp := by rfl

/-! ### Operations of Machine/Security.lean -/

@[simp] theorem State.setUpd_otp (s : State) (u : Update) : (s.setUpd u).otp = s.otp := by rfl

@[simp] theorem State.setImg_otp (s : State) (k : Nat) (i : Image) : (s.setImg k i).otp = s.otp := by rfl

@[simp] theorem State.placeImage_otp (s : State) (off : Nat) (b : Bytes) : (s.placeImage off b).otp = s.otp := by rfl

@[simp] theorem State.wipe_otp (s : State) : (s.wipe).otp = s.otp := by simp [State.wipe]

@[simp] theorem State.endUnlock_otp (s : State) (master : Option Nat) : (s.endUnlock master).otp = s.otp := by
  unfold State.endUnlock
  dsimp only
  repeat' split
  all_goals simp

@[simp] theorem State.dropEncrypted_otp (s : State) : (s.dropEncrypted).otp = s.otp := by simp [State.dropEncrypted]

/-! ### Operations of Machine/Kindling.lean -/

@[simp] theorem State.powerReset_otp (s : State) (rails : Bool) : (s.powerReset rails).otp = s.otp := by rfl

@[simp] theorem State.holdOutputs_otp (s : State) : (s.holdOutputs).otp = s.otp := by simp [State.holdOutputs]

@[simp] theorem State.stageDone_otp (s : State) (n : Nat) : (s.stageDone n).otp = s.otp := by rfl

@[simp] theorem State.kindlingStop_otp (s : State) (err kind : Nat) : (s.kindlingStop err kind).otp = s.otp := by rfl

@[simp] theorem State.trainChannel_otp (s : State) (c : Nat) (r : TrainFate) : (s.trainChannel c r).otp = s.otp := by simp [State.trainChannel]

@[simp] theorem State.sizeRegions_otp (s : State) : (s.sizeRegions).otp = s.otp := by simp [State.sizeRegions]

/-! ### Operations of Machine/ParamCommands.lean -/

@[simp] theorem State.acceptValue_otp (s : State) (id v : Nat) : (s.acceptValue id v).otp = s.otp := by simp [State.acceptValue]

@[simp] theorem State.acceptAll_otp (s : State) (ms : List (Nat × Nat)) : (s.acceptAll ms).otp = s.otp := by simp [State.acceptAll]

@[simp] theorem State.laneEnable_otp (s : State) (l : Nat) : (s.laneEnable l).otp = s.otp := by simp [State.laneEnable]

@[simp] theorem State.nowEffect_otp (s : State) (id v : Nat) (busy : List Nat) : (s.nowEffect id v busy).otp = s.otp := by
  unfold State.nowEffect
  dsimp only
  repeat' split
  all_goals simp

@[simp] theorem State.applyMember_otp (s : State) (id v : Nat) (busy : List Nat) : (s.applyMember id v busy).otp = s.otp := by
  unfold State.applyMember
  split <;> simp

@[simp] theorem State.latchOff_otp (s : State) (ms : List (Nat × Nat)) : (s.latchOff ms).otp = s.otp := by simp [State.latchOff]

@[simp] theorem State.saveReset_otp (s : State) (ms : List (Nat × Nat)) : (s.saveReset ms).otp = s.otp := by simp [State.saveReset]

@[simp] theorem State.paramLost_otp (s : State) (ini id : Nat) : (s.paramLost ini id).otp = s.otp := by simp [State.paramLost]

/-! ### Operations of Machine/LedgerCommands.lean -/

@[simp] theorem State.request_otp (s : State) (i : Nat) (e : BitVec 32) (m : Nat) : (s.request i e m).otp = s.otp := by simp [State.request]

@[simp] theorem State.requests_otp (s : State) (i m : Nat) (l : List Nat) : (s.requests i m l).otp = s.otp := by
  induction l generalizing s i with
  | nil => rfl
  | cons e t ih => simp [State.requests, ih]

@[simp] theorem State.flueLost_otp (s : State) (who : Sess) (i b : Nat) : (s.flueLost who i b).otp = s.otp := by simp [State.flueLost]

/-! ### Operations of Machine/Lanes.lean -/

@[simp] theorem State.beginReturn_otp (s : State) (k l : Nat) : (s.beginReturn k l).1.otp = s.otp := by simp [State.beginReturn]

@[simp] theorem State.issueRead_otp (n : Nat) (s : State) (c : Nat) : (State.issueRead n s c).1.otp = s.otp := by
  induction n generalizing s with
  | zero => rfl
  | succ m ih =>
    unfold State.issueRead
    split
    · rfl
    · split
      · exact (ih _).trans (State.issueReq_otp ..)
      · simp

/-! ### Operations of Machine/Memory.lean -/

@[simp] theorem State.scanReads_otp (s : State) (e : Nat) (x : Scan) (stop : Option Nat) (upsets : List (Nat × ReadFate)) :
    (s.scanReads e x stop upsets).1.otp = s.otp := by
  induction upsets generalizing s with
  | nil => rfl
  | cons u l ih =>
    obtain ⟨g, fate⟩ := u
    unfold State.scanReads
    dsimp only
    repeat' split
    all_goals simp [ih]

/-! ### Operations of Machine/ParamCommands.lean -/

@[simp] theorem State.writeParams_otp (s : State) (ini : Nat) (ms : List (Nat × Nat)) (busy : List Nat) (dirOk : Bool) :
    (s.writeParams ini ms busy dirOk).2.2.otp = s.otp := by
  unfold State.writeParams
  dsimp only
  repeat' split
  all_goals simp


/-! ### The fuses under a command's answer -/

/-- The state that an answer leaves before it is delivered. -/
def Reply.state : Reply → State
  | .done _ _ t => t
  | .pend _ t _ _ => t

@[simp] theorem Reply.state_done (status : Nat) (pay : Bytes) (t : State) : (Reply.done status pay t).state = t := rfl

@[simp] theorem Reply.state_pend (obj : Nat) (t : State) (data pay : Bytes) : (Reply.pend obj t data pay).state = t := rfl

@[simp] theorem Reply.state_ite (c : Prop) [Decidable c] (a b : Reply) : (if c then a else b).state = if c then a.state else b.state := by
  split <;> rfl

@[simp] theorem refuse_state (s : State) (status : Nat) : (refuse s status).state = s := rfl

section Checks

variable (s : State) (c : Cmd) (w : Sess) (k : Reply)

@[simp] theorem plain_state (n : Nat) : (plain s c n k).state = if c.dma then s else if c.pay.length ≠ n then s else k.state := by simp [plain]

@[simp] theorem need_state (b : Bool) (status : Nat) : (need s b status k).state = if b then k.state else s := by simp [need]

@[simp] theorem hasQueue_state : (hasQueue s w k).state = if (s.ses w).cq.isNone then s else k.state := by simp [hasQueue]

@[simp] theorem vet_state : (vet s k).state = if s.pwr.kind == 2 then s else k.state := by simp [vet]

@[simp] theorem fixedLen_state (l : List DmaDesc) (n : Nat) :
    (fixedLen s l n k).state = if (chainOf l).isNone ∧ total l ≠ n then s else k.state := by simp [fixedLen]

end Checks

@[simp] theorem notRetired_otp (s : State) (k : Reply) : (notRetired s k).state.otp = bif s.otp.lc == 4 then s.otp else k.state.otp := by
  unfold notRetired
  split
  · simp [*]
  · simp [beq_eq_false_iff_ne.2 ‹_›]

@[simp] theorem updateAllowed_otp (s : State) (k : Reply) : (updateAllowed s k).state.otp = bif s.otp.lc == 4 then s.otp else k.state.otp :=
  notRetired_otp s k

@[simp] theorem dmaForm_otp {s : State} {c : Cmd} {n : Nat} {k : List DmaDesc → Bytes → Reply} (h : ∀ l arg, (k l arg).state.otp = s.otp) :
    (dmaForm s c n k).state.otp = s.otp := by
  unfold dmaForm
  repeat' split
  all_goals simp [h]

@[simp] theorem indexForm_otp {s : State} {c : Cmd} {k : Nat → Reply} (h : ∀ i, (k i).state.otp = s.otp) : (indexForm s c k).state.otp = s.otp := by
  simp [indexForm, h]

@[simp] theorem laneForm_otp {s : State} {c : Cmd} {n : Nat} {k : Nat → Reply} (h : ∀ l, (k l).state.otp = s.otp) :
    (laneForm s c n k).state.otp = s.otp := by
  simp [laneForm, h]

/-- What an accepted command leaves of the fuses: as they were, or as its answer's state has them. -/
theorem reply_otp_cases (s : State) (w : Sess) (c : Cmd) (r : Reply) : (s.reply w c r).otp = r.state.otp ∨ (s.reply w c r).otp = s.otp := by
  cases r with
  | done status pay t => exact .inl (State.deliver_otp ..)
  | pend obj t data pay =>
    unfold State.reply
    dsimp only
    split
    · exact .inl (by simp)
    · exact .inr (State.deliver_otp ..)

@[simp] theorem runCmd_otp {s : State} {w : Sess} {op : Nat} {f : Cmd → Reply} (h : ∀ c, (f c).state.otp = s.otp) :
    (s.runCmd w op f).otp = s.otp := by
  unfold State.runCmd
  split
  · rfl
  case _ c _ =>
    split
    · rfl
    rcases reply_otp_cases s w c (f c) with hr | hr
    · exact hr.trans (h c)
    · exact hr

@[simp] theorem finish_otp {s : State} {w : Sess} {seq : BitVec 32} {ops : List Nat} {f : Pend → State} (h : ∀ p, (f p).otp = s.otp) :
    (s.finish w seq ops f).otp = s.otp := by
  unfold State.finish
  split
  · simp [h]
  · rfl

/-! ### Rows that leave the fuses -/

/-- A row completes and leaves the fuses as they were. -/
def Completes (s : State) (o : Next) : Prop := ∃ t, o = .next t ∧ t.otp = s.otp

@[simp] theorem completes_next {s t : State} : Completes s (.next t) ↔ t.otp = s.otp := by simp [Completes]

@[simp] theorem completes_ite {s : State} {c : Prop} [Decidable c] {a b : Next} : Completes s (if c then a else b) ↔ (c → Completes s a) ∧ (¬c → Completes s b) := by
  split <;> simp [*]

end Sys2Proof.Machine
end

section
/-!
The fuses under the rows (R481, R484 to R486): what every row completes with and leaves of them.
-/
namespace Sys2Proof.Machine

/-! ### Rows of Machine/HostCommands.lean -/

@[simp] theorem execClaimRead_completes (dt : Nat) (s : State) : Completes s (execClaimRead dt s) := by
  unfold execClaimRead
  dsimp only
  repeat' split
  all_goals simp

@[simp] theorem execRelease_completes (dt : Nat) (token : BitVec 32) (s : State) : Completes s (execRelease dt token s) := by simp [execRelease]

@[simp] theorem execRenew_completes (dt : Nat) (token : BitVec 32) (s : State) : Completes s (execRenew dt token s) := by simp [execRenew]

@[simp] theorem execCqHeadWrite_completes (dt : Nat) (i : Fin 64) (value : BitVec 32) (s : State) : Completes s (execCqHeadWrite dt i value s) := by
  unfold execCqHeadWrite
  dsimp only
  repeat' split
  all_goals simp

@[simp] theorem execGstatEventsClear_completes (dt : Nat) (mask : BitVec 32) (same : BitVec 4) (s : State) :
    Completes s (execGstatEventsClear dt mask same s) := by simp [execGstatEventsClear]

@[simp] theorem execGstatDropsRead_completes (dt : Nat) (s : State) (same : BitVec 3) : Completes s (execGstatDropsRead dt s same) := by simp [execGstatDropsRead]

@[simp] theorem execGstatUdpDropsRead_completes (dt : Nat) (s : State) (same : Bool) : Completes s (execGstatUdpDropsRead dt s same) := by simp [execGstatUdpDropsRead]

@[simp] theorem execFsumClear_completes (dt : Nat) (k : Fin 16) (mask same : BitVec 32) (s : State) :
    Completes s (execFsumClear dt k mask same s) := by simp [execFsumClear]

@[simp] theorem execFerRearm_completes (dt : Nat) (value : BitVec 32) (s : State) : Completes s (execFerRearm dt value s) := by simp [execFerRearm]

@[simp] theorem execSnapTake_completes (dt : Nat) (s : State) : Completes s (execSnapTake dt s) := by simp [execSnapTake]

@[simp] theorem execBar0RegisterWrite_completes (dt addr : Nat) (bytes : Bytes) (s : State) :
    Completes s (execBar0RegisterWrite dt addr bytes s) := by simp [execBar0RegisterWrite]

@[simp] theorem execPcieConfigRequest_completes (dt : Nat) (req : CfgReq) (s : State) : Completes s (execPcieConfigRequest dt req s) := by
  unfold execPcieConfigRequest
  dsimp only
  repeat' split
  all_goals simp

@[simp] theorem execPcieLinkDown_completes (dt : Nat) (s : State) : Completes s (execPcieLinkDown dt s) := by simp [execPcieLinkDown]

@[simp] theorem execPoisonedTlp_completes (dt : Nat) (_bar2 : Bool) (s : State) : Completes s (execPoisonedTlp dt _bar2 s) := by simp [execPoisonedTlp]

@[simp] theorem execFunctionLevelReset_completes (dt : Nat) (s : State) : Completes s (execFunctionLevelReset dt s) := by simp [execFunctionLevelReset]

@[simp] theorem execPePerstN_completes (dt : Nat) (s : State) : Completes s (execPePerstN dt s) := by
  unfold execPePerstN
  dsimp only
  split <;> simp

@[simp] theorem execFlrComplete_completes (dt : Nat) (s : State) : Completes s (execFlrComplete dt s) := by simp [execFlrComplete]

@[simp] theorem execDoorbell_completes (dt : Nat) (i : Fin 64) (token : BitVec 32) (ecc : Option (Fin 32 × Bool)) (s : State) :
    Completes s (execDoorbell dt i token ecc s) := by
  unfold execDoorbell
  dsimp only
  repeat' split
  all_goals simp

@[simp] theorem execUdpDatagram_completes (dt : Nat) (port : Fin 2) (peer : BitVec 48) (v4 : Bool) (bytes : Bytes) (s : State) :
    Completes s (execUdpDatagram dt port peer v4 bytes s) := by simp [execUdpDatagram]

@[simp] theorem execSessionOpen_completes (dt : Nat) (who : Sess) (s : State) : Completes s (execSessionOpen dt who s) := by
  unfold execSessionOpen
  refine completes_next.2 (runCmd_otp fun c => ?_)
  repeat' split
  all_goals simp

@[simp] theorem execSessionClose_completes (dt : Nat) (who : Sess) (s : State) : Completes s (execSessionClose dt who s) := by
  unfold execSessionClose
  have hdone : ((s.pass dt).runCmd who 0x0102 (fun c => plain (s.pass dt) c 0 (.done St.ok [] (s.pass dt)))).otp = (s.pass dt).otp :=
    runCmd_otp fun c => by simp
  dsimp only
  split
  · split <;> simp [hdone]
  · simp [hdone]

@[simp] theorem execSessionLease_completes (dt : Nat) (who : Sess) (s : State) : Completes s (execSessionLease dt who s) := by
  unfold execSessionLease
  refine completes_next.2 (runCmd_otp fun c => ?_)
  simp

@[simp] theorem execSessionQueueSetup_completes (dt : Nat) (who : Sess) (s : State) : Completes s (execSessionQueueSetup dt who s) := by
  unfold execSessionQueueSetup
  refine completes_next.2 (runCmd_otp fun c => ?_)
  simp

@[simp] theorem execSessionCompletionAck_completes (dt : Nat) (who : Sess) (s : State) : Completes s (execSessionCompletionAck dt who s) := by
  unfold execSessionCompletionAck
  refine completes_next.2 (runCmd_otp fun c => ?_)
  simp

@[simp] theorem execSessionNop_completes (dt : Nat) (who : Sess) (s : State) : Completes s (execSessionNop dt who s) := by
  unfold execSessionNop
  refine completes_next.2 (runCmd_otp fun c => ?_)
  simp

@[simp] theorem execRemoteCompletionResend_completes (dt : Nat) (i : Fin 64) (s : State) : Completes s (execRemoteCompletionResend dt i s) := by simp [execRemoteCompletionResend]

@[simp] theorem execLeaseExpiry_completes (dt : Nat) (who : Sess) (s : State) : Completes s (execLeaseExpiry dt who s) := by simp [execLeaseExpiry]

@[simp] theorem execLeaseHoldbackEnd_completes (dt : Nat) (who : Sess) (s : State) : Completes s (execLeaseHoldbackEnd dt who s) := by
  unfold execLeaseHoldbackEnd
  dsimp only
  split <;> simp

@[simp] theorem execDmaError_completes (dt : Nat) (who : Sess) (seq : BitVec 32) (addr : BitVec 64) (s : State) :
    Completes s (execDmaError dt who seq addr s) := by simp [execDmaError]

@[simp] theorem execDmaTimeout_completes (dt : Nat) (who : Sess) (seq : BitVec 32) (addr : BitVec 64) (s : State) :
    Completes s (execDmaTimeout dt who seq addr s) := by simp [execDmaTimeout]

@[simp] theorem execFlueTimeout_completes (dt : Nat) (master : BitVec 8) (id : BitVec 32) (access : BitVec 4) (who : Option (Sess × BitVec 32)) (s : State) (waited : Nat) :
    Completes s (execFlueTimeout dt master id access who s waited) := by
  unfold execFlueTimeout
  dsimp only
  repeat' split
  all_goals simp

/-! ### Rows of Machine/Jobs.lean -/

@[simp] theorem execJobLoad_completes (dt : Nat) (who : Sess) (s : State) : Completes s (execJobLoad dt who s) := by
  unfold execJobLoad
  refine completes_next.2 (runCmd_otp fun c => dmaForm_otp fun l arg => ?_)
  simp

@[simp] theorem execJobWindowOpen_completes (dt : Nat) (who : Sess) (s : State) : Completes s (execJobWindowOpen dt who s) := by
  unfold execJobWindowOpen
  refine completes_next.2 (runCmd_otp fun c => ?_)
  repeat' split
  all_goals simp

@[simp] theorem execBar2Write_completes (dt addr : Nat) (bytes : Bytes) (s : State) : Completes s (execBar2Write dt addr bytes s) := by
  unfold execBar2Write
  dsimp only
  repeat' split
  all_goals simp

@[simp] theorem execJobWindowClose_completes (dt : Nat) (who : Sess) (s : State) : Completes s (execJobWindowClose dt who s) := by
  unfold execJobWindowClose
  refine completes_next.2 (runCmd_otp fun c => ?_)
  repeat' split
  all_goals simp

@[simp] theorem execLoadComplete_completes (dt : Nat) (who : Sess) (seq : BitVec 32) (chain : List Bytes) (data : Bytes) (s : State) :
    Completes s (execLoadComplete dt who seq chain data s) := by
  unfold execLoadComplete
  refine completes_next.2 (finish_otp fun p => ?_)
  dsimp only
  repeat' split
  all_goals simp

@[simp] theorem execJobStage_completes (dt : Nat) (who : Sess) (s : State) : Completes s (execJobStage dt who s) := by
  unfold execJobStage
  refine completes_next.2 (runCmd_otp fun c => ?_)
  simp

@[simp] theorem execStageComplete_completes (dt : Nat) (who : Sess) (seq : BitVec 32) (keyOk : Bool) (plain : List (Nat × Option Bytes)) (s : State) :
    Completes s (execStageComplete dt who seq keyOk plain s) := by
  unfold execStageComplete
  refine completes_next.2 (finish_otp fun p => ?_)
  dsimp only
  repeat' split
  all_goals simp

@[simp] theorem execJobUnstage_completes (dt : Nat) (who : Sess) (s : State) : Completes s (execJobUnstage dt who s) := by
  unfold execJobUnstage
  refine completes_next.2 (runCmd_otp fun c => indexForm_otp fun i => ?_)
  simp

@[simp] theorem execJobDelete_completes (dt : Nat) (who : Sess) (s : State) : Completes s (execJobDelete dt who s) := by
  unfold execJobDelete
  refine completes_next.2 (runCmd_otp fun c => indexForm_otp fun i => ?_)
  simp

@[simp] theorem execJobExport_completes (dt : Nat) (who : Sess) (s : State) : Completes s (execJobExport dt who s) := by
  unfold execJobExport
  refine completes_next.2 (runCmd_otp fun c => dmaForm_otp fun l arg => ?_)
  simp

@[simp] theorem execExportComplete_completes (dt : Nat) (who : Sess) (seq : BitVec 32) (chain : List Bytes) (s : State) :
    Completes s (execExportComplete dt who seq chain s) := by
  unfold execExportComplete
  refine completes_next.2 (finish_otp fun p => ?_)
  simp

@[simp] theorem execJobDefects_completes (dt : Nat) (who : Sess) (s : State) : Completes s (execJobDefects dt who s) := by
  unfold execJobDefects
  refine completes_next.2 (runCmd_otp fun c => ?_)
  simp

/-! ### Rows of Machine/Splices.lean -/

@[simp] theorem execHopperForecast_completes (dt : Nat) (s : State) : Completes s (execHopperForecast dt s) := by simp [execHopperForecast]

@[simp] theorem execHopperSetup_completes (dt : Nat) (who : Sess) (s : State) : Completes s (execHopperSetup dt who s) := by
  unfold execHopperSetup
  refine completes_next.2 (runCmd_otp fun c => ?_)
  simp

@[simp] theorem execHopperPush_completes (dt : Nat) (who : Sess) (s : State) : Completes s (execHopperPush dt who s) := by
  unfold execHopperPush
  refine completes_next.2 (runCmd_otp fun c => dmaForm_otp fun l arg => ?_)
  simp

@[simp] theorem execHopperPushComplete_completes (dt : Nat) (who : Sess) (seq : BitVec 32) (chain : List Bytes) (data : Bytes) (s : State) :
    Completes s (execHopperPushComplete dt who seq chain data s) := by
  unfold execHopperPushComplete
  refine completes_next.2 (finish_otp fun p => ?_)
  dsimp only
  repeat' split
  all_goals simp

@[simp] theorem execHopperStatus_completes (dt : Nat) (who : Sess) (s : State) : Completes s (execHopperStatus dt who s) := by
  unfold execHopperStatus
  refine completes_next.2 (runCmd_otp fun c => ?_)
  simp

@[simp] theorem execJobInfo_completes (dt : Nat) (who : Sess) (s : State) : Completes s (execJobInfo dt who s) := by
  unfold execJobInfo
  refine completes_next.2 (runCmd_otp fun c => indexForm_otp fun i => ?_)
  simp

@[simp] theorem execSpliceArm_completes (dt : Nat) (who : Sess) (s : State) : Completes s (execSpliceArm dt who s) := by
  unfold execSpliceArm
  refine completes_next.2 (runCmd_otp fun c => ?_)
  dsimp only
  split
  · simp
  case _ t lam entry harm => simp [State.arm_otp harm]

@[simp] theorem execSpliceDisarm_completes (dt : Nat) (who : Sess) (s : State) : Completes s (execSpliceDisarm dt who s) := by
  unfold execSpliceDisarm
  refine completes_next.2 (runCmd_otp fun c => indexForm_otp fun i => ?_)
  split <;> simp

@[simp] theorem execSpliceEvents_completes (dt : Nat) (who : Sess) (s : State) : Completes s (execSpliceEvents dt who s) := by
  unfold execSpliceEvents
  refine completes_next.2 (runCmd_otp fun c => ?_)
  simp

@[simp] theorem execSpliceStop_completes (dt : Nat) (who : Sess) (s : State) : Completes s (execSpliceStop dt who s) := by
  unfold execSpliceStop
  refine completes_next.2 (runCmd_otp fun c => indexForm_otp fun i => ?_)
  split
  · dsimp only
    split <;> simp
  · simp

/-! ### Rows of Machine/Lines.lean -/

@[simp] theorem execBankLoadDone_completes (dt : Nat) (bar : Fin 8) (s : State) : Completes s (execBankLoadDone dt bar s) := by simp [execBankLoadDone]

@[simp] theorem execBankReloadDone_completes (dt : Nat) (bar : Fin 8) (s : State) : Completes s (execBankReloadDone dt bar s) := by simp [execBankReloadDone]

@[simp] theorem execLineBoundary_completes (dt : Nat) (cmp : DescCompare) (ecc : List (Nat × Bool)) (bad : Bool) (s : State) :
    Completes s (execLineBoundary dt cmp ecc bad s) := by simp [execLineBoundary]

/-! ### Rows of Machine/Ember.lean -/

@[simp] theorem execLineProcess_completes (dt : Nat) (bar : Fin 8) (upsets : List Upset) (s : State) :
    Completes s (execLineProcess dt bar upsets s) := by
  unfold execLineProcess
  dsimp only
  split <;> simp

/-! ### Rows of Machine/Fire.lean -/

@[simp] theorem execTargetFreeze_completes (dt : Nat) (s : State) : Completes s (execTargetFreeze dt s) := by
  unfold execTargetFreeze
  dsimp only
  split <;> simp

@[simp] theorem execScheduledFireLaunch_completes (dt : Nat) (unsent : List (Fin 160)) (s : State) :
    Completes s (execScheduledFireLaunch dt unsent s) := by simp [execScheduledFireLaunch]

@[simp] theorem execHeldFireRelease_completes (dt : Nat) (lane : Fin 36) (unsent : List (Fin 160)) (s : State) :
    Completes s (execHeldFireRelease dt lane unsent s) := by
  unfold execHeldFireRelease
  dsimp only
  split <;> simp

@[simp] theorem execLegacyLatch_completes (dt line : Nat) (s : State) : Completes s (execLegacyLatch dt line s) := by simp [execLegacyLatch]

@[simp] theorem execLegacyStrobe_completes (dt line : Nat) (s : State) : Completes s (execLegacyStrobe dt line s) := by
  unfold execLegacyStrobe
  dsimp only
  repeat' split
  all_goals simp

@[simp] theorem execDraughtDeadlineMiss_completes (dt : Nat) (mon : Fin 64) (line : Nat) (late : List (Fin 20 × Fin 2)) (s : State) :
    Completes s (execDraughtDeadlineMiss dt mon line late s) := by
  unfold execDraughtDeadlineMiss
  dsimp only
  repeat' split
  all_goals simp

@[simp] theorem execDraughtLineClose_completes (dt line : Nat) (mons : List MonRec) (s : State) :
    Completes s (execDraughtLineClose dt line mons s) := by
  unfold execDraughtLineClose
  dsimp only
  split <;> simp

@[simp] theorem execDraughtRecover_completes (dt : Nat) (s : State) : Completes s (execDraughtRecover dt s) := by
  unfold execDraughtRecover
  dsimp only
  split <;> simp

@[simp] theorem execDraughtWindowEnd_completes (dt : Nat) (s : State) : Completes s (execDraughtWindowEnd dt s) := by
  unfold execDraughtWindowEnd
  dsimp only
  repeat' split
  all_goals simp

@[simp] theorem execVcoreReadback_completes (dt : Nat) (ack : Bool) (mv : Nat) (s : State) : Completes s (execVcoreReadback dt ack mv s) := by simp [execVcoreReadback]

/-! ### Rows of Machine/FireboxPair.lean -/

@[simp] theorem execHeartbeatRequest_completes (dt : Nat) (aTog bTog : Bool) (s : State) : Completes s (execHeartbeatRequest dt aTog bTog s) := by
  unfold execHeartbeatRequest
  dsimp only
  repeat' split
  all_goals simp

@[simp] theorem execStateRecordReceive_completes (dt : Nat) (good : Bool) (s : State) : Completes s (execStateRecordReceive dt good s) := by
  unfold execStateRecordReceive
  dsimp only
  repeat' split
  all_goals simp

@[simp] theorem execPrivateLinkTimeout_completes (dt : Nat) (unit : Bool) (s : State) : Completes s (execPrivateLinkTimeout dt unit s) := by
  unfold execPrivateLinkTimeout
  dsimp only
  repeat' split
  all_goals simp

@[simp] theorem execPrivateLinkIdleFrame_completes (dt : Nat) (unit : Bool) (s : State) : Completes s (execPrivateLinkIdleFrame dt unit s) := by simp [execPrivateLinkIdleFrame]

@[simp] theorem execResyncRetry_completes (dt : Nat) (s : State) : Completes s (execResyncRetry dt s) := by simp [execResyncRetry]

@[simp] theorem execResyncComplete_completes (dt : Nat) (s : State) : Completes s (execResyncComplete dt s) := by
  unfold execResyncComplete
  dsimp only
  split <;> simp

@[simp] theorem execFireboxAutoReturn_completes (dt : Nat) (s : State) : Completes s (execFireboxAutoReturn dt s) := by simp [execFireboxAutoReturn]

@[simp] theorem execDiagFireboxStatus_completes (dt : Nat) (who : Sess) (s : State) : Completes s (execDiagFireboxStatus dt who s) := by
  unfold execDiagFireboxStatus
  refine completes_next.2 (runCmd_otp fun c => ?_)
  simp

@[simp] theorem execDiagFireboxSwitch_completes (dt : Nat) (who : Sess) (s : State) : Completes s (execDiagFireboxSwitch dt who s) := by
  unfold execDiagFireboxSwitch
  refine completes_next.2 (runCmd_otp fun c => ?_)
  simp

@[simp] theorem execDiagFireboxLockstep_completes (dt : Nat) (who : Sess) (s : State) : Completes s (execDiagFireboxLockstep dt who s) := by
  unfold execDiagFireboxLockstep
  refine completes_next.2 (runCmd_otp fun c => ?_)
  simp

/-! ### Rows of Machine/Motion.lean -/

@[simp] theorem execEncoderEdge_completes (dt : Nat) (ch : Fin 4) (a b : Bool) (unsent : List (Fin 160)) (s : State) :
    Completes s (execEncoderEdge dt ch a b unsent s) := by
  unfold execEncoderEdge
  dsimp only
  repeat' split
  all_goals simp

@[simp] theorem execEncWire_completes (dt : Nat) (ch : Fin 4) (wire : Fin 3) (s : State) (held : Nat) :
    Completes s (execEncWire dt ch wire s held) := by simp [execEncWire]

@[simp] theorem execWireDisagreementEnd_completes (dt : Nat) (ch : Fin 4) (wire : Fin 3) (s : State) :
    Completes s (execWireDisagreementEnd dt ch wire s) := by simp [execWireDisagreementEnd]

@[simp] theorem execIndexEdge_completes (dt : Nat) (ch : Fin 4) (s : State) : Completes s (execIndexEdge dt ch s) := by
  unfold execIndexEdge
  dsimp only
  repeat' split
  all_goals simp

@[simp] theorem execMarkEdge_completes (dt : Nat) (m : Fin 4) (s : State) (rising : Bool) : Completes s (execMarkEdge dt m s rising) := by simp [execMarkEdge]

@[simp] theorem execMarkWindowEnd_completes (dt : Nat) (m : Fin 4) (s : State) (mark : Bool) : Completes s (execMarkWindowEnd dt m s mark) := by
  unfold execMarkWindowEnd
  dsimp only
  split <;> simp

@[simp] theorem execVelocityStop_completes (dt : Nat) (s : State) : Completes s (execVelocityStop dt s) := by
  unfold execVelocityStop
  dsimp only
  split <;> simp

@[simp] theorem execCeilingMessagePeriod_completes (dt : Nat) (s : State) : Completes s (execCeilingMessagePeriod dt s) := by
  unfold execCeilingMessagePeriod
  dsimp only
  split <;> simp

@[simp] theorem execCeilingIgnored_completes (dt : Nat) (s : State) : Completes s (execCeilingIgnored dt s) := by
  unfold execCeilingIgnored
  dsimp only
  split <;> simp

@[simp] theorem execMotionStatus_completes (dt : Nat) (who : Sess) (s : State) : Completes s (execMotionStatus dt who s) := by
  unfold execMotionStatus
  refine completes_next.2 (runCmd_otp fun c => ?_)
  simp

@[simp] theorem execMotionCeiling_completes (dt : Nat) (who : Sess) (s : State) : Completes s (execMotionCeiling dt who s) := by
  unfold execMotionCeiling
  refine completes_next.2 (runCmd_otp fun c => ?_)
  simp

@[simp] theorem execMotionMarks_completes (dt : Nat) (who : Sess) (s : State) : Completes s (execMotionMarks dt who s) := by
  unfold execMotionMarks
  refine completes_next.2 (runCmd_otp fun c => ?_)
  simp

@[simp] theorem execMotionChannelSelect_completes (dt : Nat) (who : Sess) (s : State) : Completes s (execMotionChannelSelect dt who s) := by
  unfold execMotionChannelSelect
  refine completes_next.2 (runCmd_otp fun c => ?_)
  simp

/-! ### Rows of Machine/Lanes.lean -/

@[simp] theorem execLaneDetectPoll_completes (dt : Nat) (lane : Fin 36) (term signal : Bool) (s : State) :
    Completes s (execLaneDetectPoll dt lane term signal s) := by
  unfold execLaneDetectPoll
  dsimp only
  repeat' split
  all_goals simp

@[simp] theorem execLaneAbsent_completes (dt : Nat) (lane : Fin 36) (s : State) : Completes s (execLaneAbsent dt lane s) := by simp [execLaneAbsent]

@[simp] theorem execBitLock_completes (dt : Nat) (lane : Fin 36) (s : State) : Completes s (execBitLock dt lane s) := by simp [execBitLock]

@[simp] theorem execTrainPeriodEnd_completes (dt : Nat) (lane : Fin 36) (ok : Bool) (s : State) : Completes s (execTrainPeriodEnd dt lane ok s) := by simp [execTrainPeriodEnd]

@[simp] theorem execBlockLock_completes (dt : Nat) (lane : Fin 36) (s : State) : Completes s (execBlockLock dt lane s) := by simp [execBlockLock]

@[simp] theorem execBlockLockTimeout_completes (dt : Nat) (lane : Fin 36) (s : State) : Completes s (execBlockLockTimeout dt lane s) := by simp [execBlockLockTimeout]

@[simp] theorem execCap_completes (dt : Nat) (lane : Fin 36) (block : Bytes) (s : State) : Completes s (execCap dt lane block s) := by
  unfold execCap
  dsimp only
  repeat' split
  all_goals simp

@[simp] theorem execCapAck_completes (dt : Nat) (lane : Fin 36) (block : Bytes) (s : State) : Completes s (execCapAck dt lane block s) := by simp [execCapAck]

@[simp] theorem execCapTimeout_completes (dt : Nat) (lane : Fin 36) (s : State) : Completes s (execCapTimeout dt lane s) := by simp [execCapTimeout]

@[simp] theorem execRetrain_completes (dt : Nat) (lane : Fin 36) (block : Bytes) (s : State) : Completes s (execRetrain dt lane block s) := by simp [execRetrain]

@[simp] theorem execLockLoss_completes (dt : Nat) (lane : Fin 36) (s : State) : Completes s (execLockLoss dt lane s) := by simp [execLockLoss]

@[simp] theorem execRelockTimeout_completes (dt : Nat) (lane : Fin 36) (s : State) : Completes s (execRelockTimeout dt lane s) := by simp [execRelockTimeout]

@[simp] theorem execSpareSwitchTimeout_completes (dt : Nat) (spare : Fin 4) (s : State) : Completes s (execSpareSwitchTimeout dt spare s) := by
  unfold execSpareSwitchTimeout
  dsimp only
  split <;> simp

@[simp] theorem execLaneRetry_completes (dt : Nat) (lane : Fin 36) (s : State) : Completes s (execLaneRetry dt lane s) := by
  unfold execLaneRetry
  dsimp only
  repeat' split
  all_goals simp

@[simp] theorem execSpareCheck_completes (dt : Nat) (spare : Fin 4) (s : State) : Completes s (execSpareCheck dt spare s) := by
  unfold execSpareCheck
  dsimp only
  repeat' split
  all_goals simp

@[simp] theorem execSpareCheckTimeout_completes (dt : Nat) (spare : Fin 4) (s : State) : Completes s (execSpareCheckTimeout dt spare s) := by
  unfold execSpareCheckTimeout
  dsimp only
  split <;> simp

@[simp] theorem execSpareAutoReturn_completes (dt : Nat) (lane : Fin 36) (s : State) : Completes s (execSpareAutoReturn dt lane s) := by
  unfold execSpareAutoReturn
  dsimp only
  split <;> simp

@[simp] theorem execLaneHdrErr_completes (dt : Nat) (lane : Fin 36) (errs : Nat) (s : State) : Completes s (execLaneHdrErr dt lane errs s) := by simp [execLaneHdrErr]

@[simp] theorem execLaneTestEnd_completes (dt : Nat) (lane : Fin 36) (rx : List Bool) (s : State) : Completes s (execLaneTestEnd dt lane rx s) := by
  unfold execLaneTestEnd
  dsimp only
  split <;> simp

@[simp] theorem execTestReport_completes (dt : Nat) (lane : Fin 36) (block : Bytes) (s : State) : Completes s (execTestReport dt lane block s) := by simp [execTestReport]

@[simp] theorem execLinkTimeSend_completes (dt : Nat) (lane : Fin 36) (s : State) : Completes s (execLinkTimeSend dt lane s) := by simp [execLinkTimeSend]

@[simp] theorem execEchoMeasure_completes (dt : Nat) (lane : Fin 36) (s : State) : Completes s (execEchoMeasure dt lane s) := by simp [execEchoMeasure]

@[simp] theorem execLtEcho_completes (dt : Nat) (lane : Fin 36) (block : Bytes) (frac : Fin 256) (s : State) :
    Completes s (execLtEcho dt lane block frac s) := by
  unfold execLtEcho
  dsimp only
  repeat' split
  all_goals simp

@[simp] theorem execLaneStatus_completes (dt : Nat) (who : Sess) (s : State) : Completes s (execLaneStatus dt who s) := by
  unfold execLaneStatus
  refine completes_next.2 (runCmd_otp fun c => ?_)
  simp

@[simp] theorem execLaneRetrain_completes (dt : Nat) (who : Sess) (s : State) : Completes s (execLaneRetrain dt who s) := by
  unfold execLaneRetrain
  refine completes_next.2 (runCmd_otp fun c => laneForm_otp fun l => ?_)
  simp

@[simp] theorem execLaneTestStart_completes (dt : Nat) (who : Sess) (s : State) : Completes s (execLaneTestStart dt who s) := by
  unfold execLaneTestStart
  refine completes_next.2 (runCmd_otp fun c => ?_)
  simp

@[simp] theorem execLaneTestRead_completes (dt : Nat) (who : Sess) (rx : List Bool) (s : State) : Completes s (execLaneTestRead dt who rx s) := by
  unfold execLaneTestRead
  refine completes_next.2 (runCmd_otp fun c => ?_)
  simp

@[simp] theorem execLaneTestStop_completes (dt : Nat) (who : Sess) (rx : List Bool) (s : State) : Completes s (execLaneTestStop dt who rx s) := by
  unfold execLaneTestStop
  refine completes_next.2 (runCmd_otp fun c => laneForm_otp fun l => ?_)
  dsimp only
  split <;> simp

@[simp] theorem execLaneSpareSwitch_completes (dt : Nat) (who : Sess) (s : State) : Completes s (execLaneSpareSwitch dt who s) := by
  unfold execLaneSpareSwitch
  refine completes_next.2 (runCmd_otp fun c => laneForm_otp fun l => ?_)
  simp

@[simp] theorem execLaneSpareReturn_completes (dt : Nat) (who : Sess) (s : State) : Completes s (execLaneSpareReturn dt who s) := by
  unfold execLaneSpareReturn
  refine completes_next.2 (runCmd_otp fun c => laneForm_otp fun l => ?_)
  split <;> simp

/-! ### Rows of Machine/Heads.lean -/

@[simp] theorem execHeadTempStale_completes (dt : Nat) (slot : Fin 160) (s : State) : Completes s (execHeadTempStale dt slot s) := by simp [execHeadTempStale]

@[simp] theorem execInfoData_completes (dt : Nat) (lane : Fin 36) (block data : Bytes) (s : State) :
    Completes s (execInfoData dt lane block data s) := by
  unfold execInfoData
  dsimp only
  repeat' split
  all_goals simp

@[simp] theorem execInfoTimeout_completes (dt : Nat) (lane : Fin 36) (s : State) : Completes s (execInfoTimeout dt lane s) := by
  unfold execInfoTimeout
  dsimp only
  split <;> simp

@[simp] theorem execStatusBlock_completes (dt : Nat) (lane : Fin 36) (block : Bytes) (s : State) : Completes s (execStatusBlock dt lane block s) := by simp [execStatusBlock]

@[simp] theorem execHeadStatus_completes (dt : Nat) (who : Sess) (s : State) : Completes s (execHeadStatus dt who s) := by
  unfold execHeadStatus
  refine completes_next.2 (runCmd_otp fun c => ?_)
  simp

@[simp] theorem execHeadMute_completes (dt : Nat) (who : Sess) (s : State) : Completes s (execHeadMute dt who s) := by
  unfold execHeadMute
  refine completes_next.2 (runCmd_otp fun c => ?_)
  simp

@[simp] theorem execHeadUnmute_completes (dt : Nat) (who : Sess) (s : State) : Completes s (execHeadUnmute dt who s) := by
  unfold execHeadUnmute
  refine completes_next.2 (runCmd_otp fun c => ?_)
  simp

@[simp] theorem execHeadCardRead_completes (dt : Nat) (who : Sess) (s : State) : Completes s (execHeadCardRead dt who s) := by
  unfold execHeadCardRead
  refine completes_next.2 (runCmd_otp fun c => ?_)
  dsimp only
  repeat' split
  all_goals simp

@[simp] theorem execHeadCardRefresh_completes (dt : Nat) (who : Sess) (s : State) : Completes s (execHeadCardRefresh dt who s) := by
  unfold execHeadCardRefresh
  refine completes_next.2 (runCmd_otp fun c => ?_)
  dsimp only
  repeat' split
  all_goals simp

/-! ### Rows of Machine/Sensors.lean -/

@[simp] theorem execSensorConvert_completes (dt : Nat) (tj : List Int) (mv : List Nat) (s : State) : Completes s (execSensorConvert dt tj mv s) := by
  unfold execSensorConvert
  dsimp only
  split <;> simp

@[simp] theorem execBoardSensorRead_completes (dt : Nat) (i : Fin 64) (raw : Option SensorWord) (s : State) :
    Completes s (execBoardSensorRead dt i raw s) := by simp [execBoardSensorRead]

@[simp] theorem execLegacyTempRead_completes (dt : Nat) (slot : Fin 8) (s : State) : Completes s (execLegacyTempRead dt slot s) := by
  unfold execLegacyTempRead
  dsimp only
  repeat' split
  all_goals simp

@[simp] theorem execPmbusPoll_completes (dt : Nat) (reading : Option (Nat × Int)) (s : State) : Completes s (execPmbusPoll dt reading s) := by
  unfold execPmbusPoll
  dsimp only
  repeat' split
  all_goals simp

@[simp] theorem execPmbAlert_completes (dt : Nat) (status : BitVec 16) (s : State) : Completes s (execPmbAlert dt status s) := by simp [execPmbAlert]

@[simp] theorem execDiagSensors_completes (dt : Nat) (who : Sess) (s : State) : Completes s (execDiagSensors dt who s) := by
  unfold execDiagSensors
  refine completes_next.2 (runCmd_otp fun c => ?_)
  simp

/-! ### Rows of Machine/Time.lean -/

@[simp] theorem execTriggerPulse_completes (dt : Nat) (o : Fin 8) (s : State) : Completes s (execTriggerPulse dt o s) := by
  unfold execTriggerPulse
  dsimp only
  repeat' split
  all_goals simp

@[simp] theorem execTriggerPulseEnd_completes (dt : Nat) (o : Fin 8) (s : State) : Completes s (execTriggerPulseEnd dt o s) := by
  unfold execTriggerPulseEnd
  dsimp only
  split <;> simp

@[simp] theorem execScheduleExecute_completes (dt : Nat) (i : Fin 64) (conv : Readings) (s : State) :
    Completes s (execScheduleExecute dt i conv s) := by
  unfold execScheduleExecute
  dsimp only
  split <;> simp

@[simp] theorem execPtpSync_completes (dt : Nat) (port : Fin 2) (offset : Int) (delay : Nat) (conv : Readings) (s : State) :
    Completes s (execPtpSync dt port offset delay conv s) := by
  unfold execPtpSync
  dsimp only
  repeat' split
  all_goals simp

@[simp] theorem execPtpEventMessage_completes (dt : Nat) (port : Fin 2) (tx : Bool) (msg : Bytes) (taken : Nat) (bmca : Bmca) (s : State) (fast : Bool) :
    Completes s (execPtpEventMessage dt port tx msg taken bmca s fast) := by
  unfold execPtpEventMessage
  dsimp only
  repeat' split
  all_goals simp

@[simp] theorem execPtpTimeout_completes (dt : Nat) (s : State) : Completes s (execPtpTimeout dt s) := by
  unfold execPtpTimeout
  dsimp only
  split <;> simp

@[simp] theorem execTimeStatus_completes (dt : Nat) (who : Sess) (s : State) : Completes s (execTimeStatus dt who s) := by
  unfold execTimeStatus
  refine completes_next.2 (runCmd_otp fun c => ?_)
  simp

@[simp] theorem execTimeSet_completes (dt : Nat) (who : Sess) (conv : Readings) (s : State) : Completes s (execTimeSet dt who conv s) := by
  unfold execTimeSet
  refine completes_next.2 (runCmd_otp fun c => ?_)
  simp

@[simp] theorem execTimeStepArm_completes (dt : Nat) (who : Sess) (s : State) : Completes s (execTimeStepArm dt who s) := by
  unfold execTimeStepArm
  refine completes_next.2 (runCmd_otp fun c => ?_)
  simp

@[simp] theorem execTimeScheduleAdd_completes (dt : Nat) (who : Sess) (s : State) : Completes s (execTimeScheduleAdd dt who s) := by
  unfold execTimeScheduleAdd
  refine completes_next.2 (runCmd_otp fun c => ?_)
  dsimp only
  repeat' split
  all_goals simp

@[simp] theorem execTimeScheduleCancel_completes (dt : Nat) (who : Sess) (s : State) : Completes s (execTimeScheduleCancel dt who s) := by
  unfold execTimeScheduleCancel
  refine completes_next.2 (runCmd_otp fun c => ?_)
  dsimp only
  repeat' split
  all_goals simp

@[simp] theorem execTimeScheduleList_completes (dt : Nat) (who : Sess) (s : State) : Completes s (execTimeScheduleList dt who s) := by
  unfold execTimeScheduleList
  refine completes_next.2 (runCmd_otp fun c => ?_)
  simp

/-! ### Rows of Machine/Cameras.lean -/

@[simp] theorem execCsiFrameStart_completes (dt : Nat) (port : Fin 4) (vc : Fin 16) (busy : List (Fin 16)) (s : State) :
    Completes s (execCsiFrameStart dt port vc busy s) := by simp [execCsiFrameStart]

@[simp] theorem execCsiFrameEnd_completes (dt : Nat) (port : Fin 4) (vc : Fin 16) (busy : List (Fin 16)) (s : State) :
    Completes s (execCsiFrameEnd dt port vc busy s) := by simp [execCsiFrameEnd]

@[simp] theorem execCsiLongPacket_completes (dt : Nat) (port : Fin 4) (vc : Fin 16) (pkt : CsiPacket) (drained : List (Fin 16 × Nat)) (busy : List (Fin 16)) (s : State) :
    Completes s (execCsiLongPacket dt port vc pkt drained busy s) := by simp [execCsiLongPacket]

@[simp] theorem execCsiPhyErr_completes (dt : Nat) (port : Fin 4) (s : State) : Completes s (execCsiPhyErr dt port s) := by simp [execCsiPhyErr]

@[simp] theorem execCamNoFrame_completes (dt : Nat) (ctx : Fin 16) (s : State) : Completes s (execCamNoFrame dt ctx s) := by
  unfold execCamNoFrame
  dsimp only
  split <;> simp

@[simp] theorem execCameraStatus_completes (dt : Nat) (who : Sess) (s : State) : Completes s (execCameraStatus dt who s) := by
  unfold execCameraStatus
  refine completes_next.2 (runCmd_otp fun c => ?_)
  simp

@[simp] theorem execCameraDefectLoad_completes (dt : Nat) (who : Sess) (s : State) : Completes s (execCameraDefectLoad dt who s) := by
  unfold execCameraDefectLoad
  refine completes_next.2 (runCmd_otp fun c => dmaForm_otp fun l arg => ?_)
  simp

@[simp] theorem execCameraDefectLoadComplete_completes (dt : Nat) (who : Sess) (seq : BitVec 32) (chain : List Bytes) (data : Bytes) (s : State) :
    Completes s (execCameraDefectLoadComplete dt who seq chain data s) := by
  unfold execCameraDefectLoadComplete
  refine completes_next.2 (finish_otp fun p => ?_)
  dsimp only
  repeat' split
  all_goals simp

@[simp] theorem execCameraShadingLoad_completes (dt : Nat) (who : Sess) (s : State) : Completes s (execCameraShadingLoad dt who s) := by
  unfold execCameraShadingLoad
  refine completes_next.2 (runCmd_otp fun c => dmaForm_otp fun l arg => ?_)
  simp

@[simp] theorem execCameraShadingLoadComplete_completes (dt : Nat) (who : Sess) (seq : BitVec 32) (chain : List Bytes) (data : Bytes) (s : State) :
    Completes s (execCameraShadingLoadComplete dt who seq chain data s) := by
  unfold execCameraShadingLoadComplete
  refine completes_next.2 (finish_otp fun p => ?_)
  dsimp only
  repeat' split
  all_goals simp

@[simp] theorem execCameraPreviewStart_completes (dt : Nat) (who : Sess) (chain : List Bytes) (s : State) :
    Completes s (execCameraPreviewStart dt who chain s) := by
  unfold execCameraPreviewStart
  refine completes_next.2 (runCmd_otp fun c => dmaForm_otp fun l arg => ?_)
  dsimp only
  repeat' split
  all_goals simp

@[simp] theorem execCameraPreviewStop_completes (dt : Nat) (who : Sess) (s : State) : Completes s (execCameraPreviewStop dt who s) := by
  unfold execCameraPreviewStop
  refine completes_next.2 (runCmd_otp fun c => ?_)
  simp

@[simp] theorem execCameraCapture_completes (dt : Nat) (who : Sess) (chain : List Bytes) (s : State) :
    Completes s (execCameraCapture dt who chain s) := by
  unfold execCameraCapture
  refine completes_next.2 (runCmd_otp fun c => dmaForm_otp fun l arg => ?_)
  dsimp only
  repeat' split
  all_goals simp

@[simp] theorem execCameraCaptureTimeout_completes (dt : Nat) (who : Sess) (seq : BitVec 32) (s : State) :
    Completes s (execCameraCaptureTimeout dt who seq s) := by
  unfold execCameraCaptureTimeout
  refine completes_next.2 (finish_otp fun p => ?_)
  dsimp only
  repeat' split
  all_goals simp

@[simp] theorem execCameraNozzleSetup_completes (dt : Nat) (who : Sess) (s : State) : Completes s (execCameraNozzleSetup dt who s) := by
  unfold execCameraNozzleSetup
  refine completes_next.2 (runCmd_otp fun c => ?_)
  simp

/-! ### Rows of Machine/Loop.lean -/

@[simp] theorem execLoopFrameProcess_completes (dt : Nat) (ctx : Fin 16) (nozzle : Bool) (s : State) :
    Completes s (execLoopFrameProcess dt ctx nozzle s) := by
  unfold execLoopFrameProcess
  dsimp only
  repeat' split
  all_goals simp

@[simp] theorem execZoneStale_completes (dt : Nat) (bar : Fin 8) (zone : Fin 400) (s : State) : Completes s (execZoneStale dt bar zone s) := by
  unfold execZoneStale
  dsimp only
  repeat' split
  all_goals simp

@[simp] theorem execZoneRampEnd_completes (dt : Nat) (bar : Fin 8) (zone : Fin 400) (s : State) : Completes s (execZoneRampEnd dt bar zone s) := by
  unfold execZoneRampEnd
  dsimp only
  split <;> simp

@[simp] theorem execLoopStatus_completes (dt : Nat) (who : Sess) (s : State) : Completes s (execLoopStatus dt who s) := by
  unfold execLoopStatus
  refine completes_next.2 (runCmd_otp fun c => ?_)
  simp

@[simp] theorem execLoopMode_completes (dt : Nat) (who : Sess) (s : State) : Completes s (execLoopMode dt who s) := by
  unfold execLoopMode
  refine completes_next.2 (runCmd_otp fun c => ?_)
  simp

@[simp] theorem execLoopZonesRead_completes (dt : Nat) (who : Sess) (s : State) : Completes s (execLoopZonesRead dt who s) := by
  unfold execLoopZonesRead
  refine completes_next.2 (runCmd_otp fun c => ?_)
  simp

@[simp] theorem execLoopZonesWrite_completes (dt : Nat) (who : Sess) (s : State) : Completes s (execLoopZonesWrite dt who s) := by
  unfold execLoopZonesWrite
  refine completes_next.2 (runCmd_otp fun c => ?_)
  simp

@[simp] theorem execLoopEvents_completes (dt : Nat) (who : Sess) (s : State) : Completes s (execLoopEvents dt who s) := by
  unfold execLoopEvents
  refine completes_next.2 (runCmd_otp fun c => ?_)
  simp

@[simp] theorem execLoopMemoryRead_completes (dt : Nat) (who : Sess) (s : State) : Completes s (execLoopMemoryRead dt who s) := by
  unfold execLoopMemoryRead
  refine completes_next.2 (runCmd_otp fun c => dmaForm_otp fun l arg => ?_)
  simp

@[simp] theorem execLoopMemoryReadComplete_completes (dt : Nat) (who : Sess) (seq : BitVec 32) (chain : List Bytes) (s : State) :
    Completes s (execLoopMemoryReadComplete dt who seq chain s) := by
  unfold execLoopMemoryReadComplete
  refine completes_next.2 (finish_otp fun p => ?_)
  simp

@[simp] theorem execLoopMemoryWrite_completes (dt : Nat) (who : Sess) (s : State) : Completes s (execLoopMemoryWrite dt who s) := by
  unfold execLoopMemoryWrite
  refine completes_next.2 (runCmd_otp fun c => dmaForm_otp fun l arg => ?_)
  simp

@[simp] theorem execLoopMemoryWriteComplete_completes (dt : Nat) (who : Sess) (seq : BitVec 32) (chain : List Bytes) (data : Bytes) (s : State) :
    Completes s (execLoopMemoryWriteComplete dt who seq chain data s) := by
  unfold execLoopMemoryWriteComplete
  refine completes_next.2 (finish_otp fun p => ?_)
  dsimp only
  repeat' split
  all_goals simp

/-! ### Rows of Machine/Memory.lean -/

@[simp] theorem execDdrRead_completes (dt : Nat) (port : Option (Fin 12)) (ch : Fin 3) (granule : Nat) (fate : ReadFate) (age : Nat) (master : BitVec 8)
    (who : Option (Sess × BitVec 32)) (win : Option (Fin 160 × Fin 2 × Nat × Nat × Option (Fin 16))) (queued : List DdrReq) (s : State) :
    Completes s (execDdrRead dt port ch granule fate age master who win queued s) := by
  unfold execDdrRead
  dsimp only
  split
  · simp
  split
  all_goals
    rename_i hread
    have hkept := congrArg (fun p => p.1.otp) hread
    simp at hkept
    simp [← hkept]

@[simp] theorem execCaParityAlert_completes (dt : Nat) (ch : Fin 3) (again : Bool) (s : State) : Completes s (execCaParityAlert dt ch again s) := by simp [execCaParityAlert]

@[simp] theorem execWriteCrcAlert_completes (dt : Nat) (ch : Fin 3) (again : Bool) (s : State) : Completes s (execWriteCrcAlert dt ch again s) := by simp [execWriteCrcAlert]

@[simp] theorem execDdrRefreshDue_completes (dt : Nat) (ch : Fin 3) (rank : Fin 2) (arrive : List DdrReq) (s : State) :
    Completes s (execDdrRefreshDue dt ch rank arrive s) := by simp [execDdrRefreshDue]

@[simp] theorem execDdrTempRead_completes (dt : Nat) (s : State) : Completes s (execDdrTempRead dt s) := by
  unfold execDdrTempRead
  dsimp only
  repeat' split
  all_goals simp

@[simp] theorem execDdrZqcs_completes (dt : Nat) (s : State) : Completes s (execDdrZqcs dt s) := by simp [execDdrZqcs]

@[simp] theorem execDdrScrub_completes (dt : Nat) (upsets : List (Fin 3 × Nat × ReadFate)) (s : State) : Completes s (execDdrScrub dt upsets s) := by
  unfold execDdrScrub
  dsimp only
  split <;> simp

@[simp] theorem execDdrInitDone_completes (dt : Nat) (s : State) : Completes s (execDdrInitDone dt s) := by simp [execDdrInitDone]

@[simp] theorem execMemoryStatus_completes (dt : Nat) (who : Sess) (s : State) : Completes s (execMemoryStatus dt who s) := by
  unfold execMemoryStatus
  refine completes_next.2 (runCmd_otp fun c => ?_)
  simp

@[simp] theorem execMemoryTrainingRead_completes (dt : Nat) (who : Sess) (s : State) : Completes s (execMemoryTrainingRead dt who s) := by
  unfold execMemoryTrainingRead
  refine completes_next.2 (runCmd_otp fun c => ?_)
  simp

@[simp] theorem execMemoryCodec_completes (dt : Nat) (who : Sess) (s : State) : Completes s (execMemoryCodec dt who s) := by
  unfold execMemoryCodec
  refine completes_next.2 (runCmd_otp fun c => dmaForm_otp fun l arg => ?_)
  simp

@[simp] theorem execCodecJobComplete_completes (dt : Nat) (comp : Bool) (chain : List Bytes) (data : Bytes) (s : State) :
    Completes s (execCodecJobComplete dt comp chain data s) := by
  unfold execCodecJobComplete
  dsimp only
  repeat' split
  all_goals simp

@[simp] theorem execMemoryScan_completes (dt : Nat) (who : Sess) (s : State) : Completes s (execMemoryScan dt who s) := by
  unfold execMemoryScan
  refine completes_next.2 (runCmd_otp fun c => ?_)
  simp

@[simp] theorem execScanComplete_completes (dt : Nat) (engine : Fin 4) (upsets : List (Nat × ReadFate)) (intruder : Option (BitVec 8 × BitVec 32)) (s : State) :
    Completes s (execScanComplete dt engine upsets intruder s) := by
  unfold execScanComplete
  dsimp only
  repeat' split
  all_goals simp

/-! ### Rows of Machine/Collector.lean -/

@[simp] theorem execFaultHit_completes (dt : Nat) (src : Fin 512) (addr : BitVec 32) (master : BitVec 8) (access : BitVec 4) (s : State) :
    Completes s (execFaultHit dt src addr master access s) := by simp [execFaultHit]

@[simp] theorem execHobWatchdog_completes (dt : Nat) (s : State) : Completes s (execHobWatchdog dt s) := by simp [execHobWatchdog]

@[simp] theorem execGrateWatchdog_completes (dt : Nat) (b : Fin 8) (s : State) : Completes s (execGrateWatchdog dt b s) := by simp [execGrateWatchdog]

@[simp] theorem execDamperWatchdog_completes (dt : Nat) (s : State) : Completes s (execDamperWatchdog dt s) := by simp [execDamperWatchdog]

@[simp] theorem execLoupeWatchdog_completes (dt : Nat) (p : Fin 2) (s : State) : Completes s (execLoupeWatchdog dt p s) := by simp [execLoupeWatchdog]

@[simp] theorem execBlockResetComplete_completes (dt blk : Nat) (s : State) : Completes s (execBlockResetComplete dt blk s) := by simp [execBlockResetComplete]

@[simp] theorem execShadowEnd_completes (dt blk : Nat) (s : State) : Completes s (execShadowEnd dt blk s) := by
  unfold execShadowEnd
  dsimp only
  split <;> simp

@[simp] theorem execFaultStatus_completes (dt : Nat) (who : Sess) (s : State) : Completes s (execFaultStatus dt who s) := by
  unfold execFaultStatus
  refine completes_next.2 (runCmd_otp fun c => ?_)
  simp

@[simp] theorem execFaultClear_completes (dt : Nat) (who : Sess) (s : State) : Completes s (execFaultClear dt who s) := by
  unfold execFaultClear
  refine completes_next.2 (runCmd_otp fun c => ?_)
  simp

@[simp] theorem execFaultRearm_completes (dt : Nat) (who : Sess) (s : State) : Completes s (execFaultRearm dt who s) := by
  unfold execFaultRearm
  refine completes_next.2 (runCmd_otp fun c => ?_)
  simp

@[simp] theorem execFaultReaction_completes (dt : Nat) (who : Sess) (s : State) : Completes s (execFaultReaction dt who s) := by
  unfold execFaultReaction
  refine completes_next.2 (runCmd_otp fun c => ?_)
  simp

@[simp] theorem execFaultInject_completes (dt : Nat) (who : Sess) (s : State) : Completes s (execFaultInject dt who s) := by
  unfold execFaultInject
  refine completes_next.2 (runCmd_otp fun c => ?_)
  simp

/-! ### Rows of Machine/Security.lean -/

@[simp] theorem execLogFlush_completes (dt : Nat) (ok : Bool) (s : State) : Completes s (execLogFlush dt ok s) := by simp [execLogFlush]

@[simp] theorem execLogRead_completes (dt : Nat) (who : Sess) (s : State) : Completes s (execLogRead dt who s) := by
  unfold execLogRead
  refine completes_next.2 (runCmd_otp fun c => ?_)
  simp

@[simp] theorem execLogStatus_completes (dt : Nat) (who : Sess) (s : State) : Completes s (execLogStatus dt who s) := by
  unfold execLogStatus
  refine completes_next.2 (runCmd_otp fun c => ?_)
  simp

@[simp] theorem execLogNote_completes (dt : Nat) (who : Sess) (s : State) : Completes s (execLogNote dt who s) := by
  unfold execLogNote
  refine completes_next.2 (runCmd_otp fun c => ?_)
  simp

@[simp] theorem execUpdateBegin_completes (dt : Nat) (who : Sess) (s : State) : Completes s (execUpdateBegin dt who s) := by
  unfold execUpdateBegin
  refine completes_next.2 (runCmd_otp fun c => ?_)
  simp

@[simp] theorem execUpdateEraseDone_completes (dt : Nat) (who : Sess) (seq : BitVec 32) (s : State) :
    Completes s (execUpdateEraseDone dt who seq s) := by
  unfold execUpdateEraseDone
  refine completes_next.2 (finish_otp fun p => ?_)
  simp

@[simp] theorem execUpdateWrite_completes (dt : Nat) (who : Sess) (s : State) : Completes s (execUpdateWrite dt who s) := by
  unfold execUpdateWrite
  refine completes_next.2 (runCmd_otp fun c => ?_)
  split
  · exact dmaForm_otp fun l arg => by simp
  · simp

@[simp] theorem execUpdateWriteComplete_completes (dt : Nat) (who : Sess) (seq : BitVec 32) (chain : List Bytes) (data : Bytes) (s : State) :
    Completes s (execUpdateWriteComplete dt who seq chain data s) := by
  unfold execUpdateWriteComplete
  refine completes_next.2 (finish_otp fun p => ?_)
  dsimp only
  repeat' split
  all_goals simp

@[simp] theorem execUpdateCommit_completes (dt : Nat) (who : Sess) (s : State) : Completes s (execUpdateCommit dt who s) := by
  unfold execUpdateCommit
  refine completes_next.2 (runCmd_otp fun c => ?_)
  simp

@[simp] theorem execUpdateVerifyDone_completes (dt : Nat) (who : Sess) (seq : BitVec 32) (sigOk hashOk : Bool) (s : State) :
    Completes s (execUpdateVerifyDone dt who seq sigOk hashOk s) := by
  unfold execUpdateVerifyDone
  refine completes_next.2 (finish_otp fun p => ?_)
  simp

@[simp] theorem execUpdateActivate_completes (dt : Nat) (who : Sess) (s : State) (now : Bool) : Completes s (execUpdateActivate dt who s now) := by
  unfold execUpdateActivate
  refine completes_next.2 (runCmd_otp fun c => ?_)
  simp

@[simp] theorem execUpdateAbort_completes (dt : Nat) (who : Sess) (s : State) : Completes s (execUpdateAbort dt who s) := by
  unfold execUpdateAbort
  refine completes_next.2 (runCmd_otp fun c => ?_)
  repeat' split
  all_goals simp

@[simp] theorem execUpdateStatus_completes (dt : Nat) (who : Sess) (s : State) : Completes s (execUpdateStatus dt who s) := by
  unfold execUpdateStatus
  refine completes_next.2 (runCmd_otp fun c => ?_)
  simp

@[simp] theorem execSecureWipeDone_completes (dt : Nat) (s : State) : Completes s (execSecureWipeDone dt s) := by simp [execSecureWipeDone]

@[simp] theorem execUnlockExpiry_completes (dt : Nat) (s : State) : Completes s (execUnlockExpiry dt s) := by
  unfold execUnlockExpiry
  dsimp only
  split <;> simp

@[simp] theorem execSecureStatus_completes (dt : Nat) (who : Sess) (s : State) : Completes s (execSecureStatus dt who s) := by
  unfold execSecureStatus
  refine completes_next.2 (runCmd_otp fun c => ?_)
  simp

@[simp] theorem execSecureChallenge_completes (dt : Nat) (who : Sess) (s : State) : Completes s (execSecureChallenge dt who s) := by
  unfold execSecureChallenge
  refine completes_next.2 (runCmd_otp fun c => ?_)
  simp

@[simp] theorem execSecureUnlock_completes (dt : Nat) (who : Sess) (sigOk : Bool) (s : State) : Completes s (execSecureUnlock dt who sigOk s) := by
  unfold execSecureUnlock
  refine completes_next.2 (runCmd_otp fun c => ?_)
  simp

@[simp] theorem execSecureLock_completes (dt : Nat) (who : Sess) (s : State) : Completes s (execSecureLock dt who s) := by
  unfold execSecureLock
  refine completes_next.2 (runCmd_otp fun c => ?_)
  simp

@[simp] theorem execSecureKeyInstall_completes (dt : Nat) (who : Sess) (tagOk : Bool) (kek : Bytes) (s : State) :
    Completes s (execSecureKeyInstall dt who tagOk kek s) := by
  unfold execSecureKeyInstall
  refine completes_next.2 (runCmd_otp fun c => ?_)
  simp

@[simp] theorem execSecureTamperClear_completes (dt : Nat) (who : Sess) (s : State) : Completes s (execSecureTamperClear dt who s) := by
  unfold execSecureTamperClear
  refine completes_next.2 (runCmd_otp fun c => ?_)
  repeat' split
  all_goals simp

@[simp] theorem execTamperTrip_completes (dt : Nat) (input : Fin 5) (s : State) (level : Bool) (held : Nat) :
    Completes s (execTamperTrip dt input s level held) := by simp [execTamperTrip]

@[simp] theorem execTapInstruction_completes (dt : Nat) (ir : TapInstr) (s : State) : Completes s (execTapInstruction dt ir s) := by simp [execTapInstruction]

/-! ### Rows of Machine/Kindling.lean -/

@[simp] theorem execPorstNFall_completes (dt : Nat) (s : State) : Completes s (execPorstNFall dt s) := by
  unfold execPorstNFall
  dsimp only
  split <;> simp

@[simp] theorem execPowerRailsDown_completes (dt : Nat) (s : State) : Completes s (execPowerRailsDown dt s) := by
  unfold execPowerRailsDown
  dsimp only
  split <;> simp

@[simp] theorem execPowerRailsUp_completes (dt : Nat) (s : State) : Completes s (execPowerRailsUp dt s) := by simp [execPowerRailsUp]

@[simp] theorem execVbatRetentionLoss_completes (dt : Nat) (s : State) : Completes s (execVbatRetentionLoss dt s) := by
  unfold execVbatRetentionLoss
  dsimp only
  split <;> simp

@[simp] theorem execPorstNRise_completes (dt : Nat) (lock : Option Nat) (s : State) : Completes s (execPorstNRise dt lock s) := by
  unfold execPorstNRise
  dsimp only
  repeat' split
  all_goals simp

@[simp] theorem execKindlingStage4Done_completes (dt : Nat) (flashOk sigA sigB : Bool) (s : State) :
    Completes s (execKindlingStage4Done dt flashOk sigA sigB s) := by
  unfold execKindlingStage4Done
  dsimp only
  repeat' split
  all_goals simp

@[simp] theorem execKindlingStage5Done_completes (dt : Nat) (pmb : PmbFate) (mon0 : Nat) (railsOk : Bool) (s : State) :
    Completes s (execKindlingStage5Done dt pmb mon0 railsOk s) := by simp [execKindlingStage5Done]

@[simp] theorem execKindlingStage6Done_completes (dt : Nat) (trained : List TrainFate) (s : State) :
    Completes s (execKindlingStage6Done dt trained s) := by simp [execKindlingStage6Done]

@[simp] theorem execKindlingStage8Done_completes (dt : Nat) (present : BitVec 36) (s : State) :
    Completes s (execKindlingStage8Done dt present s) := by simp [execKindlingStage8Done]

@[simp] theorem execEnterReady_completes (dt : Nat) (s : State) : Completes s (execEnterReady dt s) := by simp [execEnterReady]

@[simp] theorem execTclkUnlock_completes (dt : Nat) (s : State) : Completes s (execTclkUnlock dt s) := by
  unfold execTclkUnlock
  dsimp only
  split <;> simp

@[simp] theorem execTclkLockReturn_completes (dt : Nat) (s : State) : Completes s (execTclkLockReturn dt s) := by simp [execTclkLockReturn]

/-! ### Rows of Machine/ParamCommands.lean -/

@[simp] theorem execParamRead_completes (dt : Nat) (who : Sess) (s : State) : Completes s (execParamRead dt who s) := by
  unfold execParamRead
  refine completes_next.2 (runCmd_otp fun c => ?_)
  dsimp only
  repeat' split
  all_goals simp

@[simp] theorem execParamWrite_completes (dt : Nat) (who : Sess) (busy : List (Fin 16)) (dirOk : Bool) (s : State) :
    Completes s (execParamWrite dt who busy dirOk s) := by
  unfold execParamWrite
  refine completes_next.2 (runCmd_otp fun c => ?_)
  repeat' split
  all_goals simp

@[simp] theorem execParamBulkRead_completes (dt : Nat) (who : Sess) (s : State) : Completes s (execParamBulkRead dt who s) := by
  unfold execParamBulkRead
  refine completes_next.2 (runCmd_otp fun c => dmaForm_otp fun l arg => ?_)
  simp

@[simp] theorem execParamBulkReadComplete_completes (dt : Nat) (who : Sess) (seq : BitVec 32) (chain : List Bytes) (s : State) :
    Completes s (execParamBulkReadComplete dt who seq chain s) := by
  unfold execParamBulkReadComplete
  refine completes_next.2 (finish_otp fun p => ?_)
  dsimp only
  repeat' split
  all_goals simp

@[simp] theorem execParamBulkWrite_completes (dt : Nat) (who : Sess) (s : State) : Completes s (execParamBulkWrite dt who s) := by
  unfold execParamBulkWrite
  refine completes_next.2 (runCmd_otp fun c => dmaForm_otp fun l arg => ?_)
  simp

@[simp] theorem execParamBulkRelease_completes (dt : Nat) (who : Sess) (seq : BitVec 32) (chain : List Bytes) (data : Bytes) (busy : List (Fin 16)) (dirOk : Bool) (s : State) :
    Completes s (execParamBulkRelease dt who seq chain data busy dirOk s) := by
  unfold execParamBulkRelease
  refine completes_next.2 (finish_otp fun p => ?_)
  dsimp only
  repeat' split
  all_goals simp

/-! ### Rows of Machine/LedgerCommands.lean -/

@[simp] theorem execLedgerRead_completes (dt : Nat) (who : Sess) (s : State) : Completes s (execLedgerRead dt who s) := by
  unfold execLedgerRead
  refine completes_next.2 (runCmd_otp fun c => ?_)
  simp

@[simp] theorem execLedgerWrite_completes (dt : Nat) (who : Sess) (s : State) : Completes s (execLedgerWrite dt who s) := by
  unfold execLedgerWrite
  dsimp only
  rw [completes_ite]
  refine ⟨fun _ => completes_next.2 (State.pass_otp ..), fun _ => completes_next.2 (runCmd_otp fun c => ?_)⟩
  split <;> simp

@[simp] theorem execLedgerLoad_completes (dt : Nat) (who : Sess) (s : State) : Completes s (execLedgerLoad dt who s) := by
  unfold execLedgerLoad
  refine completes_next.2 (runCmd_otp fun c => dmaForm_otp fun l arg => ?_)
  simp

@[simp] theorem execLedgerLoadApplied_completes (dt : Nat) (who : Sess) (seq : BitVec 32) (chain : List Bytes) (data : Bytes) (s : State) :
    Completes s (execLedgerLoadApplied dt who seq chain data s) := by
  unfold execLedgerLoadApplied
  refine completes_next.2 (finish_otp fun p => ?_)
  dsimp only
  repeat' split
  all_goals simp

@[simp] theorem execLedgerDump_completes (dt : Nat) (who : Sess) (s : State) : Completes s (execLedgerDump dt who s) := by
  unfold execLedgerDump
  refine completes_next.2 (runCmd_otp fun c => dmaForm_otp fun l arg => ?_)
  simp

@[simp] theorem execLedgerDumpComplete_completes (dt : Nat) (who : Sess) (seq : BitVec 32) (chain : List Bytes) (s : State) :
    Completes s (execLedgerDumpComplete dt who seq chain s) := by
  unfold execLedgerDumpComplete
  refine completes_next.2 (finish_otp fun p => ?_)
  simp

@[simp] theorem execLedgerCheck_completes (dt : Nat) (who : Sess) (s : State) : Completes s (execLedgerCheck dt who s) := by
  unfold execLedgerCheck
  refine completes_next.2 (runCmd_otp fun c => ?_)
  simp

@[simp] theorem execLedgerCheckComplete_completes (dt : Nat) (who : Sess) (seq : BitVec 32) (upsets : List (Nat × Nat)) (s : State) :
    Completes s (execLedgerCheckComplete dt who seq upsets s) := by
  unfold execLedgerCheckComplete
  refine completes_next.2 (finish_otp fun p => ?_)
  simp

@[simp] theorem execLedgerScrub_completes (dt bits : Nat) (s : State) : Completes s (execLedgerScrub dt bits s) := by simp [execLedgerScrub]

end Sys2Proof.Machine
end

section
/-!
The rows that blow fuses, and the two statements about them.
-/
namespace Sys2Proof.Machine

/-- From a legal life cycle the fuses of `o` can be blown to those of `p` (R481, R484 to R486). -/
def Blown (o p : Otp) : Prop :=
  o.lc ≤ 4 → p.lc ≤ 4 ∧ o.lc ≤ p.lc ∧ o.rollback ≤ p.rollback ∧ p = { o with lc := p.lc, lcPart := p.lcPart, rollback := p.rollback }

theorem Blown.refl (o : Otp) : Blown o o := fun h => ⟨h, le_rfl, le_rfl, rfl⟩

theorem Blown.fuses {s t : State} (h : Blown s.otp t.otp) : LegalCycle s → LegalCycle t ∧ FusesBlow s t := h

/-- A fuse half blown at a power cut is blown (R486). -/
theorem finish_blown {o p : Otp} (hp : p = o.finish) : Blown o p := by
  subst hp
  intro h
  unfold Otp.finish
  split
  · exact ⟨by simp, by simp; omega, le_rfl, rfl⟩
  · exact ⟨h, le_rfl, le_rfl, rfl⟩

theorem cycle_blown {o p : Otp} {t : Nat} (hp : p = o) (h : o.lc ≤ 4 → o.lc ≤ t) (h4 : t ≤ 4) : Blown o { p with lc := t } :=
  by
  subst hp
  exact fun hlegal => ⟨h4, h hlegal, le_rfl, rfl⟩

theorem part_blown {o p : Otp} (hp : p = o) (b : Bool) : Blown o { p with lcPart := b } := hp ▸ fun h => ⟨h, le_rfl, le_rfl, rfl⟩

theorem rollback_blown {o p : Otp} {n : Nat} (hp : p = o) (h : p.rollback ≤ n) : Blown o { p with rollback := n } :=
  hp ▸ fun h4 => ⟨h4, le_rfl, hp ▸ h, rfl⟩

theorem runCmd_blown {s : State} {w : Sess} {op : Nat} {f : Cmd → Reply} (h : ∀ c, Blown s.otp (f c).state.otp) : Blown s.otp (s.runCmd w op f).otp := by
  unfold State.runCmd
  split
  · exact .refl _
  case _ c _ =>
    split
    · exact .refl _
    · rcases reply_otp_cases s w c (f c) with hr | hr
      · exact hr ▸ h c
      · exact hr ▸ .refl _

section Checks

variable {s : State} {k : Reply} {o : Otp} (hs : Blown o s.otp) (h : Blown o k.state.otp)
include hs h

theorem plain_blown (c : Cmd) (n : Nat) : Blown o (plain s c n k).state.otp := by
  rw [plain_state]
  repeat' split
  all_goals assumption

theorem vet_blown : Blown o (vet s k).state.otp := by
  rw [vet_state]
  split <;> assumption

theorem updateAllowed_blown : Blown o (updateAllowed s k).state.otp := by
  rw [updateAllowed_otp]
  cases s.otp.lc == 4 <;> assumption

end Checks

theorem need_blown {s : State} {b : Bool} {status : Nat} {k : Reply} {o : Otp} (hs : Blown o s.otp) (h : b = true → Blown o k.state.otp) :
    Blown o (need s b status k).state.otp := by
  rw [need_state]
  split
  · exact h ‹_›
  · exact hs

/-- A life-cycle step that is allowed goes forward (R486). -/
theorem lifecycleOk_forward {s : State} {t n : Nat} (h : s.lifecycleOk t n = true) (hlegal : s.otp.lc ≤ 4) : s.otp.lc ≤ t := by
  unfold State.lifecycleOk at h
  dsimp only at h
  split at h
  · omega
  · omega
  · omega
  · cases h
  · exact hlegal
  · cases h

/-- What a row leaves of the fuses: blown at most. -/
def BlowsOnly (s : State) (o : Next) : Prop := ∃ t, o = .next t ∧ Blown s.otp t.otp

theorem Completes.blowsOnly {s : State} {o : Next} (h : Completes s o) : BlowsOnly s o := by
  obtain ⟨t, ho, ht⟩ := h
  exact ⟨t, ho, ht ▸ .refl _⟩

theorem execUpdateConfirm_blows (dt : Nat) (who : Sess) (s : State) : BlowsOnly s (execUpdateConfirm dt who s) := by
  refine ⟨_, rfl, runCmd_blown (s := s.pass dt) fun c => plain_blown (.refl _) (updateAllowed_blown (.refl _) ?_) c 0⟩
  dsimp only
  split
  · exact .refl _
  · split
    · exact .refl _
    · exact rollback_blown (otp_ite rfl rfl) (le_max_left ..)

theorem execSecureLifecycle_blows (dt : Nat) (who : Sess) (cut : Option Bool) (s : State) : BlowsOnly s (execSecureLifecycle dt who cut s) := by
  refine ⟨_, rfl, runCmd_blown (s := s.pass dt) fun c => plain_blown (.refl _) (need_blown (.refl _) fun hform =>
    vet_blown (.refl _) (need_blown (.refl _) fun hok => ?_)) c 8⟩
  have htarget : u8 c.pay 0 ≤ 4 := (of_decide_eq_true hform).2.1
  dsimp only
  split
  · exact part_blown (by simp) _
  · exact cycle_blown (by simp) (lifecycleOk_forward hok) htarget

theorem State.checkVbat_otp (s : State) : s.checkVbat.otp = s.otp.finish := by
  unfold State.checkVbat
  refine Eq.trans (b := { s with otp := s.otp.finish }.otp) ?_ rfl
  dsimp only
  simp

theorem execKindlingStage7Done_blows (dt : Nat) (testOk : Bool) (ember : List (Nat × Bool)) (s : State) :
    BlowsOnly s (execKindlingStage7Done dt testOk ember s) := by
  unfold execKindlingStage7Done
  dsimp only
  split
  · exact ⟨_, rfl, .refl _⟩
  split
  · exact ⟨_, rfl, by simpa using Blown.refl _⟩
  · have hkept (u : State) (h : u.otp = s.otp) : u.sizeRegions.checkVbat.otp = s.otp.finish := by
      rw [State.checkVbat_otp, State.sizeRegions_otp, h]
    refine ⟨_, rfl, ?_⟩
    exact finish_blown ((State.stageDone_otp ..).trans ((foldl_otp _ (fun _ _ => State.emberError_otp ..) _ _).trans
      (otp_ite (otp_ite (hkept _ rfl) (State.fault_otp ..)) (State.fault_otp ..))))

/-- Every row completes, and blows fuses at most: the confirmation of an update, a life-cycle step and stage 7 do, every other row leaves them. -/
theorem exec_blows (c : Instr) (s : State) : BlowsOnly s (exec c s) := by
  cases c with
  | updateConfirm dt who => exact execUpdateConfirm_blows dt who s
  | secureLifecycle dt who cut => exact execSecureLifecycle_blows dt who cut s
  | kindlingStage7Done dt testOk ember => exact execKindlingStage7Done_blows dt testOk ember s
  | _ =>
    refine Completes.blowsOnly ?_
    unfold exec
    simp

/-- Settles O3: row by row, a step being the row at the front of the queue. -/
theorem fusesOnlyBlow : Obligations.FusesOnlyBlow := by
  unfold Obligations.FusesOnlyBlow
  have hrow (c : Instr) (s : State) : ∃ t, exec c s = .next t ∧ (LegalCycle s → LegalCycle t ∧ FusesBlow s t) := exec_blows c s
  refine ⟨hrow, fun s => ?step⟩
  unfold step
  split
  · exact ⟨s, rfl, (Blown.refl s.otp).fuses⟩
  · exact hrow _ { s with pending := _ }

/-- Settles O2: the fuses of the reset state are a new device's. -/
theorem fusesAreLegalAtReset : Obligations.FusesAreLegalAtReset := by
  unfold Obligations.FusesAreLegalAtReset LegalCycle
  exact Nat.zero_le 4

end Sys2Proof.Machine
end

section
/-!
The address map is one to one (R408, R409).
-/
namespace Sys2Proof.Machine

/-- A number is its quotient and its remainder. -/
theorem eq_of_div_mod {n a b : Nat} (hdiv : a / n = b / n) (hmod : a % n = b % n) : a = b := by
  rw [← Nat.div_add_mod a n, ← Nat.div_add_mod b n, hdiv, hmod]

theorem trainedList_nodup (s : State) : s.trainedList.Nodup := List.nodup_range.filter _

/-- The channels of two places of the interleave are two channels. -/
theorem getD_inj_of_nodup {l : List Nat} (hl : l.Nodup) {i j : Nat} (hi : i < l.length) (hj : j < l.length) (h : (l[i]?).getD 0 = (l[j]?).getD 0) : i = j := by
  rw [List.getElem?_eq_getElem hi, List.getElem?_eq_getElem hj] at h
  exact (hl.getElem_inj_iff).1 h

/-- In order: the channel is the quotient by a channel's capacity. Interleaved: four granules to each trained channel in turn (R408). -/
theorem mapGranule_inj {s : State} {g h : Nat} (htrained : s.trainedList ≠ [])
    (hmap : s.mapGranule g = s.mapGranule h) : g = h := by
  unfold State.mapGranule at hmap
  split at hmap
  · exact eq_of_div_mod (congrArg Prod.fst hmap) (congrArg Prod.snd hmap)
  · obtain ⟨hchan, hindex⟩ := Prod.mk.inj hmap
    have hlen : 0 < s.trainedList.length := List.length_pos_of_ne_nil htrained
    rw [Nat.max_eq_right hlen] at hchan hindex
    have hmod := getD_inj_of_nodup (trainedList_nodup s) (Nat.mod_lt _ hlen) (Nat.mod_lt _ hlen) hchan
    have hblock : g / 4 = h / 4 := eq_of_div_mod (n := s.trainedList.length) (by omega) hmod
    omega

/-- The low bits of two numbers and the field above them, joined. -/
theorem low_bits_join {a b lo n k : Nat} (hk : lo + n = k) (hlow : a % 2 ^ lo = b % 2 ^ lo) (hfield : bits a lo n = bits b lo n) : a % 2 ^ k = b % 2 ^ k := by
  unfold bits at hfield
  rw [← hk, pow_add, Nat.mod_mul, Nat.mod_mul, hlow, hfield]

/-- Order 1 puts the column below the bank group (R409). -/
theorem colFirst_inj {nb nr a b : Nat} (hcol : a % 2 ^ 7 = b % 2 ^ 7) (hbg : bits a 7 nb = bits b 7 nb) (hba : bits a (7 + nb) 2 = bits b (7 + nb) 2)
    (hrank : bits a (9 + nb) nr = bits b (9 + nb) nr) (hrow : a / 2 ^ (9 + nb + nr) = b / 2 ^ (9 + nb + nr)) : a = b :=
  eq_of_div_mod hrow (low_bits_join rfl (low_bits_join (by omega) (low_bits_join rfl hcol hbg) hba) hrank)

/-- The other orders put the bank group below the column. -/
theorem bankFirst_inj {nb nr a b : Nat} (hbg : a % 2 ^ nb = b % 2 ^ nb) (hcol : bits a nb 7 = bits b nb 7) (hba : bits a (nb + 7) 2 = bits b (nb + 7) 2)
    (hrank : bits a (nb + 9) nr = bits b (nb + 9) nr) (hrow : a / 2 ^ (9 + nb + nr) = b / 2 ^ (9 + nb + nr)) : a = b :=
  eq_of_div_mod hrow (low_bits_join (by omega) (low_bits_join (by omega) (low_bits_join rfl hbg hcol) hba) hrank)

/-- The fields of a granule's place under every order; order 2 hides the bank group and the bank behind the row, which is equal (R409). -/
theorem dramFields_inj {order width ranks a b : Nat} (h : dramFields order width ranks a = dramFields order width ranks b) : a = b := by
  unfold dramFields at h
  dsimp only at h
  split at h
  · simp only [DramFields.mk.injEq] at h
    obtain ⟨hbg, hcol, hba, hrank, hrow⟩ := h
    exact colFirst_inj hcol hbg hba hrank hrow
  split at h
  all_goals
    simp only [DramFields.mk.injEq] at h
    obtain ⟨hbg, hcol, hba, hrank, hrow⟩ := h
  · rw [hrow] at hbg hba
    exact bankFirst_inj (Nat.xor_left_inj.1 hbg) hcol (Nat.xor_left_inj.1 hba) hrank hrow
  · exact bankFirst_inj hbg hcol hba hrank hrow

/-- Settles O44: a device granule by its channel and place in it, a place by its fields. -/
theorem addressMapIsOneToOne : Obligations.AddressMapIsOneToOne := by
  unfold Obligations.AddressMapIsOneToOne
  exact ⟨fun s g h htrained _ hmap => mapGranule_inj htrained hmap, fun order width ranks a b h => dramFields_inj h⟩

end Sys2Proof.Machine
end

section
/-!
Re-arming the first-error record (R462).
-/
namespace Sys2Proof.Machine

/-- A write of 1 to FER_REARM frees the record. -/
theorem ferRearm_frees {dt : Nat} {value : BitVec 32} {s : State} (hopen : s.windowOpen = true) (hbit : value.getLsbD 0 = true) :
    exec (.ferRearm dt value) s = .next (s.pass dt).rearm := if_pos ⟨hopen, hbit⟩

/-- FAULT rearm frees the record. -/
theorem faultRearm_frees {dt : Nat} {w : Sess} {s : State} {c : Cmd} (h : Holds s w c 0x0C03 0) (hk : s.pwr.kind ≠ 2) :
    ∃ t, exec (.faultRearm dt w) s = .next t ∧ Answered (s.pass dt).rearm t w c St.ok [] :=
  ⟨_, rfl, runCmd_answered (h.pass dt) (((h.pass dt).plain _ _).trans (vet_ok (s.pass dt) _ hk))⟩

/-- A hit while the record is free is captured by it (R454, R460). -/
theorem faultHit_captures {dt : Nat} {src : Fin 512} {addr : BitVec 32} {master : BitVec 8} {access : BitVec 4} {u : State}
    (hsrc : (fsrc? src.val).isSome = true) (hfree : u.faults.fer.valid = false) (hreact : u.reaction src.val ≠ 0)
    (htakes : Takes u src.val addr.toNat master.toNat) :
    ∃ t, exec (.faultHit dt src addr master access) u = .next t ∧
      t.faults.fer = { valid := true, source := src.val, addr := addr, master := master.toNat, access := access.toNat,
                       t32 := (u.pass dt).t32, atT := (u.pass dt).now } := by
  have hrec := hit_recorded (u.pass dt) src.val addr.toNat master.toNat access.toNat htakes
  refine ⟨(u.pass dt).hit src.val addr.toNat master.toNat access.toNat, ?_, ?_⟩
  · show execFaultHit dt src addr master access u = _
    have hknown : (fsrc? src.val).isNone = false := by simpa using hsrc
    unfold execFaultHit
    simp [hknown, hfree]
  · obtain ⟨-, -, -, -, hcapture, -⟩ := hrec
    simpa using hcapture hreact hfree

/-- Settles O48: the writes by definition, the hit after one by what a free record takes. -/
theorem rearmFreesTheRecord : Obligations.RearmFreesTheRecord := by
  unfold Obligations.RearmFreesTheRecord
  refine ⟨fun dt value s hopen hbit => ferRearm_frees hopen hbit, fun dt w s c h hk => faultRearm_frees h hk, ?captures⟩
  case captures =>
    intro dt value src addr master access s u hopen hbit hexec hsrc hon hreact hcalm hshadow
    rw [ferRearm_frees hopen hbit] at hexec
    cases hexec
    obtain ⟨h6, h7⟩ := hcalm
    exact faultHit_captures hsrc rfl hreact ⟨hon, hshadow, h6, h7⟩

end Sys2Proof.Machine
end

section
/-!
# Entries of the event log, and the keys of a tampered device (R477, R493)
-/
namespace Sys2Proof.Machine

variable {s : State} {w : Sess} {c : Cmd} {dt : Nat}

/-- A logged entry that names no source is the one R477 gives. -/
theorem log_noted (s : State) (kind master : Nat) (addr : Option (BitVec 32)) (count : Option Nat) (data : Option (BitVec 32)) :
    Noted s (s.log kind master 0xFFFF addr count data) kind master addr data := by
  refine ⟨_, rfl, rfl, rfl, rfl, rfl, rfl, rfl, ?_, ?_, rfl⟩
  · rintro a rfl
    rfl
  · rintro d rfl
    rfl

/-- A hit's reaction leaves the flash device. -/
theorem Touched.flash {t : State} (h : Touched s t) : t.flash = s.flash := by
  rw [Touched] at h
  rw [h]

/-- The model's bit test is the library's. -/
theorem bit_eq_testBit (x i : Nat) : bit x i = x.testBit i := by
  simp [bit, Nat.testBit_eq_decide_div_mod_eq, beq_eq_decide]

/-- A tampered device is denied every unwrapping. -/
theorem tampered_encDenied (h : s.vbat.tampered = true) : s.encDenied = true := by
  simp [State.encDenied, h]

/-- A tampered device installs no key (R493). -/
theorem keyInstall_denies (tagOk : Bool) (kek : Bytes) (htampered : s.vbat.tampered = true) (h : Holds s w c 0x0F06 64) (hk : s.pwr.kind ≠ 2)
    (hslot : u8 c.pay 0 < 16) (hz : fld c.pay 1 3 = 0) :
    ∃ t, exec (.secureKeyInstall dt w tagOk kek) s = .next t ∧ Answered (s.pass dt) t w c St.denied [] := by
  refine ⟨_, rfl, runCmd_answered (h.pass dt) ?_⟩
  dsimp only
  rw [h.plain, need_ok _ _ _ _ (by simp [hslot, hz]), vet_ok (s.pass dt) _ hk,
    need_refuses _ _ _ _ (by rw [encDenied_pass, tampered_encDenied htampered]; rfl)]
  rfl

/-- The record is logged before it clears, where the life cycle or the scope lets it clear (R493). -/
theorem tamperClear_clears (h : Holds s w c 0x0F07 0) (hk : s.pwr.kind ≠ 2) (hlc : s.otp.lc ≤ 1 ∨ s.otp.lc = 2 ∧ s.sec.scope.testBit 4 = true) :
    ∃ u t, (if s.vbat.tampered then Noted (s.pass dt) u 5 (Sess.initiator w) none none else u = s.pass dt) ∧
      exec (.secureTamperClear dt w) s = .next t ∧
      Answered { u with vbat := { (s.pass dt).vbat with tampered := false, tInput := 0, tSec := 0 } } t w c St.ok [] := by
  have hallowed : (decide ((s.pass dt).otp.lc ≤ 1) || ((s.pass dt).otp.lc == 2 && bit (s.pass dt).sec.scope 4)) = true := by
    rcases hlc with hlow | ⟨hfield, hscope⟩
    · simp [hlow]
    · simp [hfield, bit_eq_testBit, hscope]
  cases hset : s.vbat.tampered with
  | true =>
    refine ⟨_, _, log_noted (s.pass dt) 5 (Sess.initiator w) none none none, rfl, runCmd_answered (h.pass dt) ?_⟩
    dsimp only
    rw [h.plain, vet_ok (s.pass dt) _ hk, need_ok _ _ _ _ hallowed]
    simp only [show (s.pass dt).vbat.tampered = true from hset, if_true]
    rfl
  | false =>
    refine ⟨_, _, rfl, rfl, runCmd_answered (h.pass dt) ?_⟩
    dsimp only
    rw [h.plain, vet_ok (s.pass dt) _ hk, need_ok _ _ _ _ hallowed]
    simp only [show (s.pass dt).vbat.tampered = false from hset, Bool.false_eq_true, if_false]

/-- Neither life cycle nor scope lets the record clear (R493). -/
theorem tamperClear_denies (h : Holds s w c 0x0F07 0) (hk : s.pwr.kind ≠ 2)
    (hlc : s.otp.lc = 2 ∧ s.sec.scope.testBit 4 = false ∨ s.otp.lc = 3 ∨ s.otp.lc = 4) :
    ∃ t, exec (.secureTamperClear dt w) s = .next t ∧ Answered (s.pass dt) t w c St.denied [] := by
  have hdenied : (decide ((s.pass dt).otp.lc ≤ 1) || ((s.pass dt).otp.lc == 2 && bit (s.pass dt).sec.scope 4)) = false := by
    rcases hlc with ⟨hfield, hscope⟩ | hreturned | hretired
    · simp [hfield, bit_eq_testBit, hscope]
    · simp [hreturned]
    · simp [hretired]
  refine ⟨_, rfl, runCmd_answered (h.pass dt) ?_⟩
  dsimp only
  rw [h.plain, vet_ok (s.pass dt) _ hk, need_refuses _ _ _ _ hdenied]
  rfl

/-- Settles O53: the key install, the staging and the clear of the record. -/
theorem tamperedUnwrapsNoKey : Obligations.TamperedUnwrapsNoKey := by
  refine ⟨fun dt tagOk kek w s c htampered h hk hslot hz => keyInstall_denies tagOk kek htampered h hk hslot hz, ?_,
    fun dt w s c h hk => ⟨tamperClear_clears h hk, tamperClear_denies h hk⟩⟩
  rintro dt i keyOk plain w seq s p htampered hp hop hq rfl henc
  exact stageComplete_denies dt w seq keyOk plain s p hp hq hop henc (tampered_encDenied htampered)

end Sys2Proof.Machine
end

section
/-!
# The event log read, noted and copied (R477, R478, R533)
-/
namespace Sys2Proof.Machine

variable {s : State} {w : Sess} {c : Cmd} {dt : Nat}

/-- LOG_READ answers the entries of the ring it names from a sequence on (R533). -/
theorem logRead_answers {first most next : Nat} {ring l : List LogEntry} (h : Holds s w c 0x0D01 8) (hk : s.pwr.kind ≠ 2) (hfirst : u32 c.pay 0 = first)
    (hring : u8 c.pay 4 ≤ 1) (hmost : u8 c.pay 5 = most) (hlow : 1 ≤ most) (hhigh : most ≤ 7) (hz : u16 c.pay 6 = 0)
    (hr : ring = (if u8 c.pay 4 = 0 then s.mgmt.log else s.flash.log))
    (hl : l = (ring.reverse.filter (fun e => le32 first e.seq.toNat)).take most) (hnext : ∀ e, l.getLast? = some e → next = (e.seq + 1).toNat)
    (hnone : l = [] → next = first) :
    ∃ t, exec (.logRead dt w) s = .next t ∧ Answered (s.pass dt) t w c St.ok (leB 1 l.length ++ leB 3 0 ++ leB 4 next ++ l.flatMap LogEntry.bytes) := by
  have hlast : (match l.getLast? with | some e => (e.seq + 1).toNat | none => first) = next := by
    cases he : l.getLast? with
    | none => exact (hnone (List.getLast?_eq_none_iff.1 he)).symm
    | some e => exact (hnext e he).symm
  refine ⟨_, rfl, runCmd_answered (h.pass dt) ?_⟩
  dsimp only
  rw [h.plain, need_ok _ _ _ _ (by simp [hring, hmost, hlow, hhigh, hz]), vet_ok (s.pass dt) _ hk, hfirst, hmost, State.pass_mgmt, State.pass_flash, ← hr, ← hl]
  exact congrArg (fun n => Reply.done St.ok (leB 1 l.length ++ leB 3 0 ++ leB 4 n ++ l.flatMap LogEntry.bytes) (s.pass dt)) hlast

/-- LOG_STATUS answers the ends of both rings and the entries lost (R533). -/
theorem logStatus_answers {r0 f0 f1 : Nat} (h : Holds s w c 0x0D02 0) (hk : s.pwr.kind ≠ 2) (hr : ∀ e, s.mgmt.log.getLast? = some e → r0 = e.seq.toNat)
    (hr0 : s.mgmt.log = [] → r0 = s.mgmt.nextSeq.toNat) (hf : ∀ e, s.flash.log.getLast? = some e → f0 = e.seq.toNat)
    (hf1 : ∀ e, s.flash.log.head? = some e → f1 = (e.seq + 1).toNat)
    (hf0 : s.flash.log = [] → f0 = (s.mgmt.nextSeq - BitVec.ofNat 32 s.mgmt.uncop).toNat ∧ f1 = f0) :
    ∃ t, exec (.logStatus dt w) s = .next t ∧
      Answered (s.pass dt) t w c St.ok (leB 4 r0 ++ leB 4 s.mgmt.nextSeq.toNat ++ leB 4 f0 ++ leB 4 f1 ++ leB 4 s.mgmt.lostAll) := by
  have hram : (ringEnds s.mgmt.log s.mgmt.nextSeq).1 = r0 := by
    unfold ringEnds
    cases he : s.mgmt.log.getLast? with
    | none => exact (hr0 (List.getLast?_eq_none_iff.1 he)).symm
    | some e => exact (hr e he).symm
  have hflash : ringEnds s.flash.log (s.mgmt.nextSeq - BitVec.ofNat 32 s.mgmt.uncop) = (f0, f1) := by
    unfold ringEnds
    cases hlog : s.flash.log with
    | nil =>
      obtain ⟨h0, h1⟩ := hf0 hlog
      rw [h1, h0]
      rfl
    | cons x xs =>
      rw [hf1 x (by rw [hlog]; rfl), hf _ (by rw [hlog]; exact List.getLast?_eq_some_getLast (List.cons_ne_nil x xs)),
        List.getLast?_eq_some_getLast (List.cons_ne_nil x xs)]
      rfl
  refine ⟨_, rfl, runCmd_answered (h.pass dt) ?_⟩
  dsimp only
  rw [h.plain, vet_ok (s.pass dt) _ hk, State.pass_mgmt, State.pass_flash, hram, hflash]

/-- LOG_NOTE queues the host's entry (R498). -/
theorem logNote_notes (h : Holds s w c 0x0D03 8) (hk : s.pwr.kind ≠ 2) :
    ∃ u t, Noted (s.pass dt) u 7 (Sess.initiator w) (some (BitVec.ofNat 32 (u32 c.pay 0))) (some (BitVec.ofNat 32 (u32 c.pay 4))) ∧
      exec (.logNote dt w) s = .next t ∧ Answered u t w c St.ok (leB 4 s.mgmt.nextSeq.toNat) := by
  refine ⟨_, _, log_noted (s.pass dt) 7 (Sess.initiator w) _ none _, rfl, runCmd_answered (h.pass dt) ?_⟩
  rw [h.plain, vet_ok (s.pass dt) _ hk]
  rfl

/-- No flush goes while an erase runs, nor without an entry to copy (R478, R483). -/
theorem logFlush_waits (hidle : s.mgmt.upd.erasing = true ∨ s.mgmt.uncop = 0) (ok : Bool) : exec (.logFlush dt ok) s = .next (s.pass dt) :=
  if_pos hidle

/-- The hypotheses of a flush that goes. -/
theorem flush_goes (herase : s.mgmt.upd.erasing = false) (hsome : s.mgmt.uncop ≠ 0) :
    ¬((s.pass dt).mgmt.upd.erasing = true ∨ (s.pass dt).mgmt.uncop = 0) := by
  simp [herase, hsome]

/-- A failing flash write registers LOG_FLASH and keeps the entries (R478). -/
theorem logFlush_fails (herase : s.mgmt.upd.erasing = false) (hsome : s.mgmt.uncop ≠ 0) (htakes : Takes s F.logFlash 0 idStoker) :
    ∃ t, exec (.logFlush dt false) s = .next t ∧ Recorded (s.pass dt) t F.logFlash 0 idStoker 2 ∧ t.flash = s.flash := by
  refine ⟨_, if_neg (flush_goes herase hsome), hit_recorded (s.pass dt) _ _ _ _ htakes, ?_⟩
  exact (hit_touched (s.pass dt) F.logFlash 0 idStoker 2 htakes.calm).flash

/-- A flush copies the entries not yet copied, newest first, with the LOST entry behind them (R478). -/
theorem logFlush_copies (herase : s.mgmt.upd.erasing = false) (hsome : s.mgmt.uncop ≠ 0) :
    ∃ t lost, exec (.logFlush dt true) s = .next t ∧
      (s.mgmt.lostNow = 0 → lost = []) ∧
      (s.mgmt.lostNow ≠ 0 → ∃ e, lost = [e] ∧ e.kind = 8 ∧ e.count = sat 16 s.mgmt.lostNow ∧ e.source = 0xFFFF ∧ e.epoch = s.host.epoch) ∧
      t = { s.pass dt with
        flash := { s.flash with log := (s.mgmt.log.take s.mgmt.uncop ++ lost ++ s.flash.log).take 522240 }
        mgmt := { s.mgmt with uncop := 0, lostNow := 0 }
        free := t.free } :=
  ⟨_, if s.mgmt.lostNow = 0 then [] else [(s.pass dt).lostEntry], if_neg (flush_goes herase hsome), fun hnone => if_pos hnone,
    fun hlost => ⟨_, if_neg hlost, rfl, rfl, rfl, rfl⟩, rfl⟩

/-- Settles O49: a lemma for each of the four rows. -/
theorem logCommandsAnswer : Obligations.LogCommandsAnswer := by
  refine ⟨?_, ?_, fun dt w s c h hk => logNote_notes h hk, fun dt s => ⟨fun hidle ok => logFlush_waits hidle ok, logFlush_fails, logFlush_copies⟩⟩
  · intro dt first most next w s c ring l h hk hfirst hring hmost hlow hhigh hz hr hl hnext hnone
    exact logRead_answers h hk hfirst hring hmost hlow hhigh hz hr hl hnext hnone
  · intro dt r0 f0 f1 w s c h hk hr hr0 hf hf1 hf0
    exact logStatus_answers h hk hr hr0 hf hf1 hf0

end Sys2Proof.Machine
end

section
/-!
# The unlock, the wipe and the life cycle (R439, R485 to R488, R494)
-/
namespace Sys2Proof.Machine

variable {s : State} {w : Sess} {c : Cmd} {dt : Nat}

/-! ### The end of an unlock, and the wipe -/

/-- Without a scope there is no unlock to end. -/
theorem unlockEnded_locked (h : s.sec.scope = 0) : unlockEnded s = s := by
  have hsec : ({ s.sec with scope := 0 } : Fender) = s.sec := by rw [← h]
  unfold unlockEnded
  rw [hsec, h]
  rfl

/-- An unlock that ends without an entry of the log (R488). -/
theorem endUnlock_silent (s : State) : s.endUnlock none = unlockEnded s := by
  unfold State.endUnlock
  split
  · rename_i h
    exact (unlockEnded_locked h).symm
  · unfold unlockEnded
    by_cases hopen : s.sec.scope % 2 = 1 <;> simp only [hopen, if_true, if_false]

/-- Without a scope an end is no entry of the log. -/
theorem endUnlock_locked (h : s.sec.scope = 0) (master : Option Nat) : s.endUnlock master = s := if_pos h

/-- The end of an unlock that stands is logged as UNLOCK (R488, R536). -/
theorem endUnlock_noted (h : s.sec.scope ≠ 0) (m : Nat) : Noted (unlockEnded s) (s.endUnlock (some m)) 6 m none none := by
  have hlogged : s.endUnlock (some m) = (unlockEnded s).log 6 m 0xFFFF none none none := by
    rw [← endUnlock_silent]
    simp only [State.endUnlock, if_neg h]
  rw [hlogged]
  exact log_noted _ _ _ _ _ _

/-- The wipe starts, or goes on (R439). -/
theorem wipe_eq (s : State) : s.wipe = wipeStarted s := by
  unfold State.wipe wipeStarted
  cases h : s.chip.wiping with
  | true =>
    have hchip : ({ s.chip with wiping := true } : Chip) = s.chip := by rw [← h]
    simp only [if_true, hchip]
  | false => rfl

/-! ### The commands -/

/-- The deadlines' clock runs whether or not the PLL does. -/
theorem now_pass (s : State) (dt : Nat) : (s.pass dt).now = s.now + dt := by
  simp only [State.now, State.pass_clk, Clock.pass]
  split <;> rfl

/-- A challenge's nonce is fresh and lives 60 s (R487). -/
theorem challenge_answers (h : Holds s w c 0x0F02 0) (hk : s.pwr.kind ≠ 2) :
    ∃ t n, exec (.secureChallenge dt w) s = .next t ∧
      Answered { s.pass dt with sec := { s.sec with nonce := some (n, s.now + dt + 60 * perSecond) }, free := s.free + 1 } t w c St.ok (leB 16 n.toNat) := by
  refine ⟨_, Config.nonce s.free, rfl, runCmd_answered (h.pass dt) ?_⟩
  rw [h.plain, vet_ok (s.pass dt) _ hk, now_pass]
  rfl

/-- The nonce in force, named by the token (R487). -/
theorem nonceOk_named {b : Bytes} {n : BitVec 128} {ends : Nat} (hnonce : s.sec.nonce = some (n, ends)) (hlive : s.now + dt < ends)
    (hnamed : fld b 8 16 = n.toNat) : (s.pass dt).nonceOk b = true := by
  unfold State.nonceOk
  rw [State.pass_sec, hnonce, now_pass]
  exact decide_eq_true ⟨hnamed, hlive⟩

/-- No nonce, one that ended, or another than the token's. -/
theorem nonceOk_other {b : Bytes} (h : ∀ n ends, s.sec.nonce = some (n, ends) → ends ≤ s.now + dt ∨ fld b 8 16 ≠ n.toNat) :
    (s.pass dt).nonceOk b = false := by
  unfold State.nonceOk
  rw [State.pass_sec, now_pass]
  cases hnonce : s.sec.nonce with
  | none => rfl
  | some x =>
    refine decide_eq_false ?_
    rintro ⟨hnamed, hlive⟩
    rcases h x.1 x.2 hnonce with hended | hother
    · exact absurd hlive (Nat.not_lt.2 hended)
    · exact hother hnamed

/-- What a token claims besides its nonce: the device, an expiry to come, a key that is not revoked, a good signature (R487). -/
def TokenHolds (s : State) (b : Bytes) (sigOk : Bool) : Prop :=
  u32 b 0 = s.otp.serial.toNat / 2 ^ 32 ∧ u32 b 4 = s.otp.serial.toNat % 2 ^ 32 ∧ s.devSec < fld b 0x18 6 ∧ u8 b 0x1F < 4 ∧
  s.otp.revoked.getLsbD (u8 b 0x1F) = false ∧ sigOk = true ∧ s.otp.lc ≠ 4

/-- The row's test of a token: what it claims holds, and its nonce is the one in force. -/
theorem token_good {b : Bytes} {sigOk : Bool} :
    (decide (u32 b 0 = s.otp.serial.toNat / 2 ^ 32 ∧ u32 b 4 = s.otp.serial.toNat % 2 ^ 32 ∧ s.devSec < fld b 0x18 6 ∧ u8 b 0x1F < 4) &&
      s.nonceOk b && !s.otp.revoked.getLsbD (u8 b 0x1F) && sigOk && s.otp.lc != 4) = true ↔ TokenHolds s b sigOk ∧ s.nonceOk b = true := by
  simp only [Bool.and_eq_true, decide_eq_true_eq, Bool.not_eq_true', bne_iff_ne, TokenHolds]
  tauto

/-- A token that holds opens its scope until its expiry, and spends the nonce (R487, R488). -/
theorem unlock_opens {sigOk : Bool} (h : Holds s w c 0x0F03 96) (hk : s.pwr.kind ≠ 2) (hscope : u8 c.pay 0x1E < 32) (hnonce : (s.pass dt).nonceOk c.pay = true)
    (htoken : TokenHolds (s.pass dt) c.pay sigOk) :
    ∃ t, exec (.secureUnlock dt w sigOk) s = .next t ∧
      Answered { unlockEnded (s.pass dt) with sec := { s.sec with nonce := none, scope := u8 c.pay 0x1E, expiry := fld c.pay 0x18 6 } } t w c St.ok
        (leB 1 (u8 c.pay 0x1E) ++ leB 3 0) := by
  refine ⟨_, rfl, runCmd_answered (h.pass dt) ?_⟩
  dsimp only
  rw [h.plain, need_ok _ _ _ _ (decide_eq_true hscope), vet_ok (s.pass dt) _ hk, if_pos (token_good.2 ⟨htoken, hnonce⟩), if_pos hnonce, endUnlock_silent]
  rfl

/-- A token that does not hold is UNLOCK_FAIL, and spends the nonce that it names (R487). -/
theorem unlock_fails {sigOk : Bool} (h : Holds s w c 0x0F03 96) (hk : s.pwr.kind ≠ 2) (hscope : u8 c.pay 0x1E < 32)
    (htoken : ¬(TokenHolds (s.pass dt) c.pay sigOk ∧ (s.pass dt).nonceOk c.pay = true)) (htakes : Takes s F.unlockFail 0 idFender) :
    ∃ u t, exec (.secureUnlock dt w sigOk) s = .next t ∧
      Recorded (if (s.pass dt).nonceOk c.pay then { s.pass dt with sec := { s.sec with nonce := none } } else s.pass dt) u F.unlockFail 0 idFender 0 ∧
      Answered u t w c St.denied [] := by
  refine ⟨_, _, rfl, hit_recorded _ _ _ _ _ ?_, runCmd_answered (h.pass dt) ?_⟩
  · split
    · exact takes_frame s _ _ _ _ rfl rfl htakes
    · exact takes_frame s _ _ _ _ rfl rfl htakes
  · dsimp only
    rw [h.plain, need_ok _ _ _ _ (decide_eq_true hscope), vet_ok (s.pass dt) _ hk, if_neg (mt token_good.1 htoken)]
    rfl

/-- Lock ends the unlock (R488). -/
theorem lock_ends (h : Holds s w c 0x0F04 0) (hk : s.pwr.kind ≠ 2) :
    ∃ t, exec (.secureLock dt w) s = .next t ∧ Answered ((s.pass dt).endUnlock (some (Sess.initiator w))) t w c St.ok [] := by
  refine ⟨_, rfl, runCmd_answered (h.pass dt) ?_⟩
  rw [h.plain, vet_ok (s.pass dt) _ hk]

/-- The steps of the life cycle and their authority (R486). -/
theorem lifecycleOk_iff {lc serial : Nat} (hlow : 1 ≤ lc) (hhigh : lc ≤ 4) (hlegal : s.otp.lc ≤ 4) : s.lifecycleOk lc serial = true ↔
    ((lc = s.otp.lc + 1 ∧ lc ≤ 2 ∨ lc = 4 ∧ s.otp.lc ≠ 4) ∧ serial = s.otp.serial.toNat % 2 ^ 32 ∨ lc = 3 ∧ s.otp.lc = 2 ∧ s.sec.scope.testBit 3 = true) := by
  unfold State.lifecycleOk
  generalize s.otp.lc = now at hlegal
  interval_cases now <;> interval_cases lc <;> simp [bit_eq_testBit]

/-- What a life-cycle step leaves before its fuse: the wipe started and logged, the unlock ended, and the key store gone on the way to RETURNED and
RETIRED (R486). -/
def cycleLeft (s : State) (who : Sess) (lc : Nat) : State :=
  { unlockEnded ((wipeStarted s).log 4 (Sess.initiator who) 0xFFFF none none none) with
    flash := if 3 ≤ lc then { s.flash with keys := [] } else s.flash }

/-- The row's way to that state. -/
theorem cycleLeft_eq {lc : Nat} (hhigh : lc ≤ 4) (s : State) (who : Sess) :
    (if lc = 3 ∨ lc = 4 then
      { (s.wipe.log 4 (Sess.initiator who) 0xFFFF none none none).endUnlock none with
        flash := { ((s.wipe.log 4 (Sess.initiator who) 0xFFFF none none none).endUnlock none).flash with keys := [] } }
    else (s.wipe.log 4 (Sess.initiator who) 0xFFFF none none none).endUnlock none) = cycleLeft s who lc := by
  rw [endUnlock_silent, wipe_eq]
  by_cases hend : 3 ≤ lc
  · rw [if_pos (by omega), cycleLeft, if_pos hend]
    rfl
  · rw [if_neg (by omega), cycleLeft, if_neg hend]
    rfl

/-- A life-cycle step with its authority, up to its fuse. -/
theorem lifecycle_steps {lc : Nat} (h : Holds s w c 0x0F05 8) (hk : s.pwr.kind ≠ 2) (hlc : u8 c.pay 0 = lc) (hlow : 1 ≤ lc) (hhigh : lc ≤ 4)
    (hz : fld c.pay 1 3 = 0) (hok : (s.pass dt).lifecycleOk lc (u32 c.pay 4) = true) :
    (∃ t, exec (.secureLifecycle dt w none) s = .next t ∧
      Answered { cycleLeft (s.pass dt) w lc with otp := { s.otp with lc := lc }, vbat := { (s.pass dt).vbat with lcMirror := lc } } t w c St.ok
        (leB 1 lc ++ leB 3 0)) ∧
    (∀ part, ∃ t, exec (.secureLifecycle dt w (some part)) s = .next t ∧
      Answered { cycleLeft (s.pass dt) w lc with otp := { s.otp with lcPart := part } } t w c St.ok (leB 1 s.otp.lc ++ leB 3 0)) := by
  have hform : decide (1 ≤ lc ∧ lc ≤ 4 ∧ fld c.pay 1 3 = 0) = true := decide_eq_true ⟨hlow, hhigh, hz⟩
  constructor
  · refine ⟨_, rfl, runCmd_answered (h.pass dt) ?_⟩
    dsimp only
    rw [h.plain, hlc, need_ok _ _ _ _ hform, vet_ok (s.pass dt) _ hk, need_ok _ _ _ _ hok, cycleLeft_eq hhigh]
    rfl
  · refine fun part => ⟨_, rfl, runCmd_answered (h.pass dt) ?_⟩
    dsimp only
    rw [h.plain, hlc, need_ok _ _ _ _ hform, vet_ok (s.pass dt) _ hk, need_ok _ _ _ _ hok, cycleLeft_eq hhigh]
    rfl

/-- A life-cycle step without its authority (R486). -/
theorem lifecycle_denies {lc : Nat} (h : Holds s w c 0x0F05 8) (hk : s.pwr.kind ≠ 2) (hlc : u8 c.pay 0 = lc) (hlow : 1 ≤ lc) (hhigh : lc ≤ 4)
    (hz : fld c.pay 1 3 = 0) (hno : (s.pass dt).lifecycleOk lc (u32 c.pay 4) = false) (cut : Option Bool) :
    ∃ t, exec (.secureLifecycle dt w cut) s = .next t ∧ Answered (s.pass dt) t w c St.denied [] := by
  refine ⟨_, rfl, runCmd_answered (h.pass dt) ?_⟩
  dsimp only
  rw [h.plain, hlc, need_ok _ _ _ _ (decide_eq_true ⟨hlow, hhigh, hz⟩), vet_ok (s.pass dt) _ hk, need_refuses _ _ _ _ hno]
  rfl

/-- FACTORY and FIELD unwrap keys, unless tampered (R485, R493). -/
theorem keys_allowed (hlc : s.otp.lc = 1 ∨ s.otp.lc = 2) (htampered : s.vbat.tampered = false) : s.encDenied = false := by
  rcases hlc with hlc | hlc <;> simp [State.encDenied, hlc, htampered]

/-- A KEK whose tag holds goes into its slot; one whose tag fails is KEY_UNWRAP (R494). -/
theorem keyInstall_installs {k : Nat} {kek : Bytes} (h : Holds s w c 0x0F06 64) (hk : s.pwr.kind ≠ 2) (hslot : u8 c.pay 0 = k) (hlt : k < 16)
    (hz : fld c.pay 1 3 = 0) (hlc : s.otp.lc = 1 ∨ s.otp.lc = 2) (htampered : s.vbat.tampered = false) :
    (∃ t, exec (.secureKeyInstall dt w true kek) s = .next t ∧
      Answered { s.pass dt with flash := { s.flash with keys := put s.flash.keys k (padTo 32 kek) } } t w c St.ok []) ∧
    (Takes s F.keyUnwrap 0 idFender → ∃ u t, exec (.secureKeyInstall dt w false kek) s = .next t ∧ Recorded (s.pass dt) u F.keyUnwrap 0 idFender 0 ∧
      Answered u t w c St.denied []) := by
  have hallowed : (!(s.pass dt).encDenied) = true := by rw [encDenied_pass, keys_allowed hlc htampered]; rfl
  have hform : decide (k < 16 ∧ fld c.pay 1 3 = 0) = true := decide_eq_true ⟨hlt, hz⟩
  refine ⟨⟨_, rfl, runCmd_answered (h.pass dt) ?_⟩, fun htakes => ⟨_, _, rfl, hit_recorded (s.pass dt) _ _ _ _ htakes, runCmd_answered (h.pass dt) ?_⟩⟩
  · dsimp only
    rw [h.plain, hslot, need_ok _ _ _ _ hform, vet_ok (s.pass dt) _ hk, need_ok _ _ _ _ hallowed]
    rfl
  · dsimp only
    rw [h.plain, hslot, need_ok _ _ _ _ hform, vet_ok (s.pass dt) _ hk, need_ok _ _ _ _ hallowed]
    rfl

/-- Settles O52: a lemma for each row; the unlock by whether the token and its nonce hold, the life cycle by `lifecycleOk_iff`. -/
theorem unlockAndLifeCycle : Obligations.UnlockAndLifeCycle := by
  refine ⟨?_, fun dt w s c => challenge_answers, ?_, ?_, ?_, ?_, ?_⟩
  · intro dt w s c h hk
    refine ⟨_, rfl, runCmd_answered (h.pass dt) ?_⟩
    rw [h.plain, vet_ok (s.pass dt) _ hk]
    rfl
  · intro dt w sigOk s c n ends h hk hscope hnonce hlive hnamed
    have hok : (s.pass dt).nonceOk c.pay = true := nonceOk_named hnonce hlive hnamed
    refine ⟨fun hhigh hlow hexpiry hkey hrevoked hsig hlc => unlock_opens h hk hscope hok ⟨hhigh, hlow, hexpiry, hkey, hrevoked, hsig, hlc⟩,
      fun hbad htakes => ?_⟩
    have htoken : ¬(TokenHolds (s.pass dt) c.pay sigOk ∧ (s.pass dt).nonceOk c.pay = true) := by
      rintro ⟨⟨hhigh, hlow, hexpiry, hkey, hrevoked, hsig, hlc⟩, -⟩
      rcases hbad with hb | hb | hb | hb | hb | hb | hb
      · exact hb hhigh
      · exact hb hlow
      · exact absurd hexpiry (Nat.not_lt.2 hb)
      · exact absurd hkey (Nat.not_lt.2 hb)
      · exact absurd (hb.symm.trans hrevoked) (by decide)
      · exact absurd (hb.symm.trans hsig) (by decide)
      · exact hlc hb
    have hfails := unlock_fails h hk hscope htoken htakes
    rwa [if_pos hok] at hfails
  · intro dt w sigOk s c h hk hscope hnonce htakes
    have hno : (s.pass dt).nonceOk c.pay = false := nonceOk_other hnonce
    have hfails := unlock_fails (sigOk := sigOk) h hk hscope (fun hgood => absurd (hgood.2.symm.trans hno) (by decide)) htakes
    rwa [hno] at hfails
  · intro dt w s c h hk
    obtain ⟨t, hexec, hanswered⟩ := lock_ends (dt := dt) h hk
    refine ⟨fun hlocked => ⟨t, hexec, ?_⟩, fun hopen => ⟨_, t, endUnlock_noted (s := s.pass dt) hopen _, hexec, hanswered⟩⟩
    rwa [endUnlock_locked (s := s.pass dt) hlocked] at hanswered
  · intro dt lc w s c h hk hlc hlow hhigh hz hlegal
    have hiff := lifecycleOk_iff (s := s.pass dt) (serial := u32 c.pay 4) hlow hhigh hlegal
    refine ⟨fun hauth => ⟨_, cycleLeft (s.pass dt) w lc, log_noted _ _ _ _ none _, rfl, lifecycle_steps h hk hlc hlow hhigh hz (hiff.2 hauth)⟩,
      fun hnot => lifecycle_denies h hk hlc hlow hhigh hz (Bool.eq_false_iff.2 (mt hiff.1 hnot))⟩
  · intro dt k kek w s c h hk hslot hlt hz hlc htampered
    exact keyInstall_installs h hk hslot hlt hz hlc htampered

end Sys2Proof.Machine
end

section
/-!
# Trips, the end of an unlock and the TAP (R439, R488, R490 to R492)
-/
namespace Sys2Proof.Machine

variable {s : State} {dt : Nat}

/-! ### The encrypted jobs that a trip returns -/

/-- An encrypted STAGED job returns to LOADED at a trip (R492). -/
def Job.dropped (j : Job) : Job := if j.state = 4 ∧ j.encrypted = true then { j with state := 2, staged := [], stageBytes := 0 } else j

/-- Without a job in staging a trip touches the directory alone. -/
theorem dropEncrypted_idle (h : ∀ p ∈ s.host.pends, p.cmd.op ≠ 0x0204) :
    s.dropEncrypted = { s with lib := { s.lib with dir := s.lib.dir.map (fun e => (e.1, e.2.dropped)) } } := by
  have hentry : (fun e : Nat × Job => if e.2.state = 4 ∧ e.2.encrypted then (e.1, { e.2 with state := 2, staged := [], stageBytes := 0 }) else e) =
      fun e => (e.1, e.2.dropped) := by
    funext e
    unfold Job.dropped
    split <;> rfl
  have hnone : ∀ f : Pend → Bool, s.host.pends.filter (fun p => p.cmd.op == 0x0204 && f p) = [] := by
    intro f
    refine List.filter_eq_nil_iff.2 fun p hp => ?_
    simp [h p hp]
  unfold State.dropEncrypted
  rw [hentry]
  dsimp only
  simp only [hnone, List.foldl_nil]

/-- What the trip leaves of each job. -/
theorem dropEncrypted_job (h : ∀ p ∈ s.host.pends, p.cmd.op ≠ 0x0204) (e : Nat) : s.dropEncrypted.job e = (s.job e).dropped := by
  rw [dropEncrypted_idle h]
  unfold State.job sel
  dsimp only
  rw [look_map]
  cases look s.lib.dir e <;> rfl

/-- The jobs that a trip returns are those of the state before its hit and its entry. -/
theorem dropEncrypted_frame {x : State} (hlib : x.lib = s.lib) (h : ∀ p ∈ x.host.pends, p.cmd.op ≠ 0x0204) :
    (∀ e, x.dropEncrypted.job e = (s.job e).dropped) ∧ x.dropEncrypted = { x with lib := { s.lib with dir := x.dropEncrypted.lib.dir } } := by
  constructor
  · intro e
    rw [dropEncrypted_job h, State.job, hlib]
    rfl
  · rw [dropEncrypted_idle h, hlib]

/-! ### A trip -/

/-- An input that is off, a VBAT domain that is not valid, or a level not held: no trip (R491, R513). -/
theorem tamperTrip_none {held : Nat} {level : Bool} {i : Fin 5} (h : s.tamperOn i.val = false ∨ s.vbat.valid = false ∨ s.tamperTrips i.val level held = false) :
    exec (.tamperTrip dt i level held) s = .next (s.pass dt) := by
  refine if_pos ?_
  rcases h with h | h | h
  · exact Or.inl (by rw [show (s.pass dt).tamperOn i.val = false from h]; rfl)
  · exact Or.inr (Or.inl (by rw [show (s.pass dt).vbat.valid = false from h]; rfl))
  · exact Or.inr (Or.inr (by rw [show (s.pass dt).tamperTrips i.val level held = false from h]; rfl))

/-- An enabled input of a valid VBAT domain has held its level. -/
def Trips (s : State) (i : Fin 5) (level : Bool) (held : Nat) : Prop :=
  s.tamperOn i.val = true ∧ s.vbat.valid = true ∧ s.tamperTrips i.val level held = true

/-- The VBAT domain's record of a trip (R491). -/
def tripRecord (s : State) (i : Fin 5) : Vbat := { s.vbat with tampered := true, tInput := i.val, tSec := s.vbat.sec }

variable {i : Fin 5} {level : Bool} {held : Nat}

theorem Trips.passes (h : Trips s i level held) :
    ¬((!(s.pass dt).tamperOn i.val) = true ∨ (!(s.pass dt).vbat.valid) = true ∨ (!(s.pass dt).tamperTrips i.val level held) = true) := by
  obtain ⟨hon, hvalid, htrips⟩ := h
  rw [show (s.pass dt).tamperOn i.val = true from hon, show (s.pass dt).vbat.valid = true from hvalid,
    show (s.pass dt).tamperTrips i.val level held = true from htrips]
  decide

/-- A trip in BANKED standby waits in the record (R515). -/
theorem tamperTrip_banked (h : Trips s i level held) (hrails : s.pwr.rails = false) :
    exec (.tamperTrip dt i level held) s = .next { s.pass dt with vbat := { tripRecord (s.pass dt) i with banked := true } } :=
  (if_neg h.passes).trans (if_pos (by rw [State.pass_pwr, hrails]; rfl))

/-- A trip while FENDER does not run waits for stage 7 (R492). -/
theorem tamperTrip_deferred (h : Trips s i level held) (hrails : s.pwr.rails = true) (hwait : s.pwr.kind = 0 ∧ s.pwr.stage < 7 ∨ 2 ≤ s.pwr.kind) :
    exec (.tamperTrip dt i level held) s = .next { s.pass dt with vbat := { tripRecord (s.pass dt) i with tripKind := true } } := by
  have hrest : (s.pass dt).fenderRuns = false := by
    unfold State.fenderRuns
    rw [State.pass_pwr]
    rcases hwait with ⟨hkind, hstage⟩ | hkind
    · simp [hkind, hstage]
    · have h0 : s.pwr.kind ≠ 0 := by omega
      have h1 : s.pwr.kind ≠ 1 := by omega
      simp [h0, h1]
  refine (if_neg h.passes).trans ((if_neg ?_).trans (if_pos ?_))
  · rw [State.pass_pwr, hrails]
    decide
  · rw [hrest]
    rfl

/-- A trip in service also wipes, ends the unlock, registers TAMPER, is logged and returns the encrypted jobs (R492). -/
theorem tamperTrip_service (h : Trips s i level held) (hrails : s.pwr.rails = true) (hruns : s.pwr.kind = 1 ∨ s.pwr.kind = 0 ∧ 7 ≤ s.pwr.stage) :
    exec (.tamperTrip dt i level held) s =
      .next (((unlockEnded (wipeStarted { s.pass dt with vbat := tripRecord (s.pass dt) i })).hit F.tamper i.val idFender 0).log 5 idFender 0xFFFF none none
        none).dropEncrypted := by
  have hserves : (s.pass dt).fenderRuns = true := by
    unfold State.fenderRuns
    rw [State.pass_pwr]
    rcases hruns with hkind | ⟨hkind, hstage⟩
    · simp [hkind]
    · simp [hkind, hstage]
  rw [← wipe_eq, ← endUnlock_silent]
  refine (if_neg h.passes).trans ((if_neg ?_).trans (if_neg ?_))
  · rw [State.pass_pwr, hrails]
    decide
  · rw [hserves]
    decide

/-- What a trip in service leaves: the hit, the entry and the jobs, each on the state before. -/
theorem tamperTrip_leaves {v : Vbat} (htakes : Takes s F.tamper i.val idFender) (hpends : ∀ p ∈ s.host.pends, p.cmd.op ≠ 0x0204) :
    ∃ t u x, t = (((unlockEnded (wipeStarted { s.pass dt with vbat := v })).hit F.tamper i.val idFender 0).log 5 idFender 0xFFFF none none none).dropEncrypted ∧
      Recorded (unlockEnded (wipeStarted { s.pass dt with vbat := v })) u F.tamper i.val idFender 0 ∧ Noted u x 5 idFender none none ∧
      (∀ e, t.job e = (s.job e).dropped) ∧ t = { x with lib := { s.lib with dir := t.lib.dir } } := by
  have hfrom : Takes (unlockEnded (wipeStarted { s.pass dt with vbat := v })) F.tamper i.val idFender := takes_frame s _ _ _ _ rfl rfl htakes
  have htouched := hit_touched _ _ i.val idFender 0 hfrom.calm
  obtain ⟨-, -, -, hlib, -⟩ := htouched.fields
  have hqueue : ((unlockEnded (wipeStarted { s.pass dt with vbat := v })).hit F.tamper i.val idFender 0).host.pends = s.host.pends := by
    rw [htouched]
    rfl
  obtain ⟨hjobs, hrest⟩ := dropEncrypted_frame (s := s)
    (x := ((unlockEnded (wipeStarted { s.pass dt with vbat := v })).hit F.tamper i.val idFender 0).log 5 idFender 0xFFFF none none none) hlib
    (by intro p hp; exact hpends p (hqueue ▸ hp))
  exact ⟨_, _, _, rfl, hit_recorded _ _ _ _ _ hfrom, log_noted _ _ _ none none none, hjobs, hrest⟩

/-! ### The expiry and the TAP -/

/-- An unlock ends at its expiry (R488). -/
theorem unlockExpiry_ends (hend : s.sec.expiry ≤ (s.pass dt).devSec) : exec (.unlockExpiry dt) s = .next ((s.pass dt).endUnlock (some idFender)) :=
  if_pos hend

/-- Before its expiry, and without an unlock, nothing ends. -/
theorem unlockExpiry_keeps (h : (s.pass dt).devSec < s.sec.expiry ∨ s.sec.scope = 0) : exec (.unlockExpiry dt) s = .next (s.pass dt) := by
  by_cases hend : s.sec.expiry ≤ (s.pass dt).devSec
  · rw [unlockExpiry_ends hend, endUnlock_locked (s := s.pass dt) (h.resolve_left (Nat.not_lt.2 hend))]
  · exact if_neg hend

/-- A private instruction acts where the life cycle or the scope lets it, else it is BYPASS (R490). -/
theorem tapPrivate_acts (code : BitVec 8) : exec (.tapInstruction dt (.priv code)) s = .next { s.pass dt with
    sec := { s.sec with tap := if s.otp.lc ≤ 1 ∨ s.sec.scope.testBit 2 = true then .priv code else .bypass } } := by
  have hok : (s.pass dt).privateOk = true ↔ s.otp.lc ≤ 1 ∨ s.sec.scope.testBit 2 = true := by
    rw [← bit_eq_testBit]
    exact (Bool.or_eq_true _ _).to_iff.trans (or_congr_left decide_eq_true_iff)
  change execTapInstruction dt (.priv code) s = _
  unfold execTapInstruction
  dsimp only
  by_cases hallowed : s.otp.lc ≤ 1 ∨ s.sec.scope.testBit 2 = true
  · rw [if_pos (hok.2 hallowed), if_pos hallowed]
    rfl
  · rw [if_neg (mt hok.1 hallowed), if_neg hallowed]
    rfl

/-- Settles O54: the trip by the state of the device, then the expiry, the wipe's end and the instructions of the TAP. -/
theorem tampersExpiryAndScan : Obligations.TampersExpiryAndScan := by
  refine ⟨?_, fun dt s => ⟨unlockExpiry_keeps, fun hend hopen => ⟨_, unlockExpiry_ends hend, endUnlock_noted (s := s.pass dt) hopen _⟩⟩, fun _ _ => rfl,
    fun dt s => ⟨?_, rfl, tapPrivate_acts⟩⟩
  · rintro dt held level i s v rfl
    refine ⟨tamperTrip_none, fun hon hvalid htrips hrails => tamperTrip_banked ⟨hon, hvalid, htrips⟩ hrails,
      fun hon hvalid htrips hrails hwait => tamperTrip_deferred ⟨hon, hvalid, htrips⟩ hrails hwait, ?_⟩
    intro hon hvalid htrips hrails hruns htakes hpends
    obtain ⟨t, u, x, ht, hu, hx, hjobs, hlib⟩ := tamperTrip_leaves (dt := dt) (v := tripRecord (s.pass dt) i) htakes hpends
    exact ⟨t, u, x, ht ▸ tamperTrip_service ⟨hon, hvalid, htrips⟩ hrails hruns, hu, hx, hjobs, hlib⟩
  · intro ir hir
    simp only [List.mem_cons, List.not_mem_nil, or_false] at hir
    rcases hir with rfl | rfl | rfl | rfl | rfl <;> rfl

end Sys2Proof.Machine
end

section
/-!
# The boot directory and the confirmed image (R482, R484)
-/
namespace Sys2Proof.Machine

variable {s : State} {w : Sess} {c : Cmd} {dt : Nat}

/-- The directory is the copy of the higher generation; a write goes to the other one. -/
theorem Flash.writeDir_written (f : Flash) (d : BootDir) : DirWritten f (f.writeDir d) d := by
  unfold DirWritten Flash.writeDir
  cases h0 : f.dir0 with
  | none =>
    cases h1 : f.dir1 <;> simp [Flash.dirNow, Flash.dir, h0, h1]
  | some x =>
    cases h1 : f.dir1 with
    | none => simp [Flash.dirNow, Flash.dir, h0, h1]
    | some y => by_cases hg : x.gen < y.gen <;> simp [Flash.dirNow, Flash.dir, h0, h1, hg]

theorem State.headerVerifies_secver {j : Image} (h : s.headerVerifies j = true) : s.otp.rollback ≤ j.secver := by
  unfold State.headerVerifies at h
  simp only [Bool.and_eq_true, decide_eq_true_eq] at h
  obtain ⟨⟨_, _, _, _, hsecver⟩, _⟩ := h
  exact hsecver

/-- An UPDATE command that passes the life cycle's check. -/
theorem updateAllowed_ok (k : Reply) (h : s.otp.lc ≠ 4) : updateAllowed s k = k := notRetired_ok s k h

/-- Settles O51: the three answers of confirm are the three branches of the row. -/
theorem updateConfirmRaisesTheCounter : Obligations.UpdateConfirmRaisesTheCounter := by
  intro dt k v w s c i d h hlc hrun hd hv
  have hallowed := fun k => updateAllowed_ok (s := s.pass dt) k hlc
  have htrial : ((s.pass dt).flash.dirNow.mode == 1 && (s.pass dt).flash.dirNow.preferred == k) = decide (d.mode = 1 ∧ d.preferred = k) := by
    subst hd
    simp [Bool.decide_and, beq_eq_decide]
  have hsecver : i.secver = v := hv
  refine ⟨fun hmode hpref => ?_, fun hnot hlow => ?_, fun hnot hhigh => ?_, fun j hj => State.headerVerifies_secver hj⟩
  · subst hd hpref
    refine ⟨_, s.flash.writeDir { s.flash.dirNow with mode := 0 }, rfl, Flash.writeDir_written _ _, runCmd_answered (h.pass dt) ?_⟩
    dsimp only
    rw [h.plain, hallowed, show (s.pass dt).running = some (s.flash.dirNow.preferred, i) from hrun]
    simp only [htrial, hsecver, hmode, and_self, decide_true, Bool.not_true, Bool.false_eq_true, false_and, if_true, if_false]
    rfl
  · have hno : ¬(d.mode = 1 ∧ d.preferred = k) := fun ⟨hm, hp⟩ => hnot.elim (· hm) (· hp)
    refine ⟨_, rfl, runCmd_answered (h.pass dt) ?_⟩
    dsimp only
    rw [h.plain, hallowed, show (s.pass dt).running = some (k, i) from hrun]
    simp only [htrial, hsecver, hno, State.pass_otp, Nat.not_le.mpr hlow, Nat.max_eq_right hlow.le, decide_false, Bool.false_eq_true, and_false, if_false]
  · have hno : ¬(d.mode = 1 ∧ d.preferred = k) := fun ⟨hm, hp⟩ => hnot.elim (· hm) (· hp)
    refine ⟨_, rfl, runCmd_answered (h.pass dt) ?_⟩
    dsimp only
    rw [h.plain, hallowed, show (s.pass dt).running = some (k, i) from hrun]
    simp only [htrial, hsecver, hno, State.pass_otp, hhigh, decide_false, Bool.not_false, and_self, if_true]
    rfl

end Sys2Proof.Machine
end

section
/-!
# Firmware updates (R480 to R485)
-/
namespace Sys2Proof.Machine

variable {s : State} {w : Sess} {c : Cmd} {dt k : Nat} {seq : BitVec 32} {p : Pend}

/-- A well-formed begin answers by the image and by whether an update is open (R483). -/
theorem updateBegin_answers {n : Nat} (h : Holds s w c 0x0E01 8) (hroom : HasRoom s w) (hlc : s.otp.lc ≠ 4) (himg : u8 c.pay 0 = k) (hk : k ≤ 1)
    (hz : fld c.pay 1 3 = 0) (hlen : u32 c.pay 4 = n) (hlow : 128 ≤ n) (hhigh : n ≤ 7864320) :
    ((s.flash.img k).running = true → ∃ t, exec (.updateBegin dt w) s = .next t ∧ Answered (s.pass dt) t w c St.denied []) ∧
    ((s.flash.img k).running = false → s.mgmt.upd.state = 1 → ∃ t, exec (.updateBegin dt w) s = .next t ∧ Answered (s.pass dt) t w c St.busy []) ∧
    ((s.flash.img k).running = false → s.mgmt.upd.state ≠ 1 → ∃ t, exec (.updateBegin dt w) s = .next t ∧
      Waiting { s.pass dt with
        mgmt := { s.mgmt with upd := { state := 1, img := k, len := n, who := some w, erasing := true } }
        flash := s.flash.setImg k { bytes := [], len := n, verified := 2 } } t w c k [] []) := by
  have hform : decide (k ≤ 1 ∧ fld c.pay 1 3 = 0 ∧ 128 ≤ n ∧ n ≤ imageMax) = true := decide_eq_true ⟨hk, hz, hlow, hhigh⟩
  have hallowed := fun k => updateAllowed_ok (s := s.pass dt) k hlc
  have hqueue := fun k => hasQueue_ok (s.pass dt) w k (hroom.pass dt)
  refine ⟨fun hrun => ?_, fun hrun hopen => ?_, fun hrun hopen => ?_⟩
  · refine ⟨_, rfl, runCmd_answered (h.pass dt) ?_⟩
    dsimp only
    rw [h.plain, himg, hlen, need_ok _ _ _ _ hform, hallowed, hqueue, need_refuses _ _ _ _ (by simp [hrun])]
    rfl
  · refine ⟨_, rfl, runCmd_answered (h.pass dt) ?_⟩
    dsimp only
    rw [h.plain, himg, hlen, need_ok _ _ _ _ hform, hallowed, hqueue, need_ok _ _ _ _ (by simp [hrun]), need_refuses _ _ _ _ (by simp [hopen])]
    rfl
  · obtain ⟨hcmd, hop, -⟩ := h.pass dt
    refine ⟨_, rfl, runCmd_waiting hcmd hop (hroom.pass dt) ?_⟩
    dsimp only
    rw [h.plain, himg, hlen, need_ok _ _ _ _ hform, hallowed, hqueue, need_ok _ _ _ _ (by simp [hrun]), need_ok _ _ _ _ (by simp [hopen])]
    rfl

/-- The erase ends with an empty image (R483). -/
theorem updateEraseDone_empties (hp : s.pend? w seq = some p) (hop : p.cmd.op = 0x0E01) (hq : ∃ q, (s.ses w).cq = some q) (hk : s.mgmt.upd.img = k) :
    ∃ t, exec (.updateEraseDone dt w seq) s = .next t ∧
      Posted { s.pass dt with
        mgmt := { s.mgmt with upd := { s.mgmt.upd with erasing := false } }
        flash := s.flash.setImg k { s.flash.img k with verified := 0 } } t p St.ok p.obj.toNat 0 idStoker := by
  subst hk
  exact ⟨_, rfl, finish_posted dt hp hq (by simp [hop]) (pass_ses s dt w) rfl⟩

/-- Inline bytes inside the length are placed, others are refused (R483). -/
theorem updateWrite_places {n : Nat} (h : Holds s w c 0x0E02 (8 + n)) (hlc : s.otp.lc ≠ 4) (hn : u16 c.pay 4 = n) (hlow : 1 ≤ n) (hhigh : n ≤ 224)
    (hz : u16 c.pay 6 = 0) (hopen : s.mgmt.upd.state = 1) (hk : s.mgmt.upd.img = k) :
    (u32 c.pay 0 + n ≤ s.mgmt.upd.len → ∃ t, exec (.updateWrite dt w) s = .next t ∧
      Answered { s.pass dt with flash := s.flash.setImg k { s.flash.img k with
        bytes := memWriteN (s.flash.img k).bytes (u32 c.pay 0) (slice c.pay 8 n), verified := 2 } } t w c St.ok []) ∧
    (s.mgmt.upd.len < u32 c.pay 0 + n → ∃ t, exec (.updateWrite dt w) s = .next t ∧ Answered (s.pass dt) t w c St.badParam []) := by
  subst hk
  have hinline : ¬(c.dma = true) := Bool.eq_false_iff.1 h.2.2.1
  refine ⟨fun hfits => ⟨_, rfl, runCmd_answered (h.pass dt) ?_⟩, fun hover => ⟨_, rfl, runCmd_answered (h.pass dt) ?_⟩⟩
  · dsimp only
    rw [if_neg hinline, hn, h.plain, need_ok _ _ _ _ (decide_eq_true ⟨hlow, hhigh, hz, hopen, hfits⟩), updateAllowed_ok (s := s.pass dt) _ hlc]
    rfl
  · dsimp only
    rw [if_neg hinline, hn, h.plain, need_refuses _ _ _ _ (decide_eq_false fun ⟨_, _, _, _, hfits⟩ => absurd hfits (Nat.not_le.2 hover))]
    rfl

/-- A DMA write inside the length waits for its data (R483). -/
theorem updateWrite_waits {l : List DmaDesc} {a : Bytes} (h : HoldsDma s w c 0x0E02 16 l a) (hroom : HasRoom s w) (hlc : s.otp.lc ≠ 4) (hkind : s.pwr.kind ≠ 2)
    (hz : fld a 4 12 = 0) (hopen : s.mgmt.upd.state = 1) (hfits : (chainOf l).isNone → u32 a 0 + total l ≤ s.mgmt.upd.len) :
    ∃ t, exec (.updateWrite dt w) s = .next t ∧ Waiting (s.pass dt) t w c s.mgmt.upd.img [] [] := by
  obtain ⟨-, -, hdma, -⟩ := id h
  refine ⟨_, rfl, (h.pass dt).waiting (hroom.pass dt) ?_⟩
  dsimp only
  rw [if_pos hdma, h.dmaForm, need_ok _ _ _ _ (decide_eq_true ⟨hz, hopen, hfits⟩), updateAllowed_ok (s := s.pass dt) _ hlc, vet_ok (s.pass dt) _ hkind,
    hasQueue_ok _ _ _ (hroom.pass dt)]
  rfl

/-- The data of a DMA write is placed where it fits the open update (R483). -/
theorem updateWriteComplete_places {off : Nat} {chain : List Bytes} {data b : Bytes} (hp : s.pend? w seq = some p) (hop : p.cmd.op = 0x0E02)
    (hq : ∃ q, (s.ses w).cq = some q) (hoff : u32 p.cmd.arg 0 = off) (hb : p.dataIn chain data = some b) (hk : s.mgmt.upd.img = k) :
    (s.mgmt.upd.state = 1 → off + b.length ≤ s.mgmt.upd.len → ∃ t, exec (.updateWriteComplete dt w seq chain data) s = .next t ∧
      Posted { s.pass dt with flash := s.flash.setImg k { s.flash.img k with
        bytes := memWriteN (s.flash.img k).bytes off b, verified := 2 } } t p St.ok p.obj.toNat b.length idStoker) ∧
    (s.mgmt.upd.state ≠ 1 ∨ s.mgmt.upd.len < off + b.length → ∃ t, exec (.updateWriteComplete dt w seq chain data) s = .next t ∧
      Posted (s.pass dt) t p St.badParam p.obj.toNat 0 idStoker) := by
  subst hk hoff
  refine ⟨fun hopen hfits => ⟨_, rfl, finish_posted dt hp hq (by simp [hop]) (pass_ses s dt w) ?_⟩,
    fun hbad => ⟨_, rfl, finish_posted dt hp hq (by simp [hop]) (pass_ses s dt w) ?_⟩⟩
  · dsimp only
    rw [hb]
    exact if_neg (not_or.2 ⟨not_not.2 hopen, Nat.not_lt.2 hfits⟩)
  · dsimp only
    rw [hb]
    exact if_pos hbad

/-- A commit waits for the check of an open update (R483). -/
theorem updateCommit_answers (h : Holds s w c 0x0E03 0) (hroom : HasRoom s w) (hlc : s.otp.lc ≠ 4) :
    (s.mgmt.upd.state = 1 → ∃ t, exec (.updateCommit dt w) s = .next t ∧ Waiting (s.pass dt) t w c s.mgmt.upd.img [] []) ∧
    (s.mgmt.upd.state ≠ 1 → ∃ t, exec (.updateCommit dt w) s = .next t ∧ Answered (s.pass dt) t w c St.state []) := by
  obtain ⟨hcmd, hop, -⟩ := h.pass dt
  refine ⟨fun hopen => ⟨_, rfl, runCmd_waiting hcmd hop (hroom.pass dt) ?_⟩, fun hopen => ⟨_, rfl, runCmd_answered (h.pass dt) ?_⟩⟩
  · rw [h.plain, updateAllowed_ok (s := s.pass dt) _ hlc, hasQueue_ok _ _ _ (hroom.pass dt), need_ok _ _ _ _ (by simp [hopen])]
    rfl
  · rw [h.plain, updateAllowed_ok (s := s.pass dt) _ hlc, hasQueue_ok _ _ _ (hroom.pass dt), need_refuses _ _ _ _ (by simp [hopen])]
    rfl

/-- A committed image whose header, signature and hash hold is VERIFIED (R481, R483). -/
theorem updateVerifyDone_verifies {i : Image} (hp : s.pend? w seq = some p) (hop : p.cmd.op = 0x0E03) (hq : ∃ q, (s.ses w).cq = some q)
    (hk : s.mgmt.upd.img = k) (hi : s.flash.img k = i) (hheader : s.headerVerifies i = true) :
    ∃ t, exec (.updateVerifyDone dt w seq true true) s = .next t ∧
      Posted { s.pass dt with
        mgmt := { s.mgmt with upd := { s.mgmt.upd with state := 2, who := none } }
        flash := s.flash.setImg k { i with verified := 1 } } t p St.ok p.obj.toNat (i.version + i.secver * 2 ^ 32) idStoker := by
  subst hk hi
  refine ⟨_, rfl, finish_posted dt hp hq (by simp [hop]) (pass_ses s dt w) (if_pos ?_)⟩
  rw [Bool.and_true, Bool.and_true]
  exact hheader

/-- A committed image that does not hold fails the update with UPDATE_VERIFY (R483). -/
theorem updateVerifyDone_fails {i : Image} {sigOk hashOk : Bool} (hp : s.pend? w seq = some p) (hop : p.cmd.op = 0x0E03) (hq : ∃ q, (s.ses w).cq = some q)
    (hk : s.mgmt.upd.img = k) (hi : s.flash.img k = i) (hbad : s.headerVerifies i = false ∨ sigOk = false ∨ hashOk = false)
    (htakes : Takes s F.updateVerify 0 idStoker) :
    ∃ u t, exec (.updateVerifyDone dt w seq sigOk hashOk) s = .next t ∧
      Recorded { s.pass dt with
        mgmt := { s.mgmt with upd := { s.mgmt.upd with state := 3, who := none } }
        flash := s.flash.setImg k { i with verified := 2 } } u F.updateVerify 0 idStoker 1 ∧
      Posted u t p St.denied p.obj.toNat 0 idStoker := by
  subst hk hi
  have hfrom := takes_frame s { s.pass dt with
    mgmt := { s.mgmt with upd := { s.mgmt.upd with state := 3, who := none } }
    flash := s.flash.setImg s.mgmt.upd.img { s.flash.img s.mgmt.upd.img with verified := 2 } } F.updateVerify 0 idStoker rfl rfl htakes
  refine ⟨_, _, rfl, hit_recorded _ _ _ _ _ hfrom, finish_posted dt hp hq (by simp [hop]) ?_ (if_neg ?_)⟩
  · rw [(hit_touched _ _ _ _ _ hfrom.calm).ses]
    exact pass_ses s dt w
  · rw [show (s.pass dt).headerVerifies ((s.pass dt).flash.img (s.pass dt).mgmt.upd.img) = s.headerVerifies (s.flash.img s.mgmt.upd.img) from rfl]
    rcases hbad with h | h | h <;> simp [h]

/-- The checks of an image's header (R481). -/
theorem headerVerifies_iff (s : State) (i : Image) : s.headerVerifies i = true ↔
    leN (memReadN i.bytes 0 4) = 0x46574741 ∧ leN (memReadN i.bytes 4 2) = 1 ∧ leN (memReadN i.bytes 6 2) < 4 ∧
      s.otp.revoked.getLsbD (leN (memReadN i.bytes 6 2)) = false ∧ 128 + leN (memReadN i.bytes 0x10 4) ≤ 7864320 ∧
      s.otp.rollback ≤ leN (memReadN i.bytes 0x0C 2) := by
  simp only [State.headerVerifies, Bool.and_eq_true, decide_eq_true_eq, Bool.not_eq_true']
  rw [imageMax, Image.secver]
  tauto

/-- Activate prefers a VERIFIED image that does not run, in TRIAL with 3 tries; it refuses every other (R483). -/
theorem updateActivate_answers {now : Bool} (h : Holds s w c 0x0E04 4) (hlc : s.otp.lc ≠ 4) (himg : u8 c.pay 0 = k) (hk : k ≤ 1) (hz : fld c.pay 1 3 = 0) :
    ((s.flash.img k).running = false → ((s.flash.img k).verified = 1 ∨ now = true) → s.headerVerifies (s.flash.img k) = true →
      ∃ t f, exec (.updateActivate dt w now) s = .next t ∧ DirWritten s.flash f { s.flash.dirNow with preferred := k, mode := 1, tries := 3 } ∧
        Answered { s.pass dt with flash := f } t w c St.ok []) ∧
    ((s.flash.img k).running = true ∨ ((s.flash.img k).verified ≠ 1 ∧ now = false) ∨ s.headerVerifies (s.flash.img k) = false →
      ∃ t, exec (.updateActivate dt w now) s = .next t ∧ Answered (s.pass dt) t w c St.state []) := by
  have hform : decide (k ≤ 1 ∧ fld c.pay 1 3 = 0) = true := decide_eq_true ⟨hk, hz⟩
  have hheader : (s.pass dt).headerVerifies ((s.pass dt).flash.img k) = s.headerVerifies (s.flash.img k) := rfl
  refine ⟨fun hrun hver hholds => ⟨_, s.flash.writeDir { s.flash.dirNow with preferred := k, mode := 1, tries := 3 }, rfl, Flash.writeDir_written _ _,
    runCmd_answered (h.pass dt) ?_⟩, fun hbad => ⟨_, rfl, runCmd_answered (h.pass dt) ?_⟩⟩
  · dsimp only
    rw [h.plain, himg, need_ok _ _ _ _ hform, updateAllowed_ok (s := s.pass dt) _ hlc,
      need_ok _ _ _ _ (by rw [hheader, hholds]; rcases hver with hver | hver <;> simp [hrun, hver])]
    rfl
  · dsimp only
    rw [h.plain, himg, need_ok _ _ _ _ hform, updateAllowed_ok (s := s.pass dt) _ hlc,
      need_refuses _ _ _ _ (by rw [hheader]; rcases hbad with hbad | ⟨hver, hnow⟩ | hbad <;> simp [*])]
    rfl

/-- Abort leaves the image of an open update FAILED (R483). -/
theorem updateAbort_answers (h : Holds s w c 0x0E06 0) (hlc : s.otp.lc ≠ 4) (hk : s.mgmt.upd.img = k) :
    (s.mgmt.upd.state = 1 → ∃ t, exec (.updateAbort dt w) s = .next t ∧
      Answered { s.pass dt with
        mgmt := { s.mgmt with upd := { s.mgmt.upd with state := 3, who := none, erasing := false } }
        flash := s.flash.setImg k { s.flash.img k with verified := 2 } } t w c St.ok []) ∧
    (s.mgmt.upd.state ≠ 1 → ∃ t, exec (.updateAbort dt w) s = .next t ∧ Answered (s.pass dt) t w c St.ok []) := by
  subst hk
  refine ⟨fun hopen => ⟨_, rfl, runCmd_answered (h.pass dt) ?_⟩, fun hopen => ⟨_, rfl, runCmd_answered (h.pass dt) ?_⟩⟩
  · rw [h.plain, updateAllowed_ok (s := s.pass dt) _ hlc, if_pos (by exact hopen)]
    rfl
  · rw [h.plain, updateAllowed_ok (s := s.pass dt) _ hlc, if_neg (by exact hopen)]

/-- UPDATE_STATUS answers the directory, the counter, the running image, the update and both images (R534). -/
theorem updateStatus_answers {d : BootDir} {img : Image → Bytes} (h : Holds s w c 0x0E07 0) (hlc : s.otp.lc ≠ 4) (hd : d = s.flash.dirNow)
    (hrun : ∀ i, s.running = some i → k = i.1) (hnone : s.running = none → k = 0)
    (himg : img = (fun i => leB 4 (leN (memReadN i.bytes 8 4)) ++ leB 2 (leN (memReadN i.bytes 0x0C 2)) ++ leB 1 i.verified ++ leB 1 0)) :
    ∃ t, exec (.updateStatus dt w) s = .next t ∧ Answered (s.pass dt) t w c St.ok
      (leB 4 d.gen ++ leB 1 d.preferred ++ leB 1 d.mode ++ leB 1 d.tries ++ leB 1 (b2n d.fallback) ++ beB 4 d.ip.toNat ++
        leB 1 s.otp.rollback ++ leB 1 k ++ leB 1 s.mgmt.upd.state ++ leB 1 0 ++ img s.flash.imgA ++ img s.flash.imgB) := by
  have hk : ((s.pass dt).running.map Prod.fst).getD 0 = k := by
    change (s.running.map Prod.fst).getD 0 = k
    cases hr : s.running with
    | none => exact (hnone hr).symm
    | some i => exact (hrun i hr).symm
  subst hd himg
  refine ⟨_, rfl, runCmd_answered (h.pass dt) ?_⟩
  rw [h.plain, updateAllowed_ok (s := s.pass dt) _ hlc, hk]
  rfl

/-- Settles O50: a lemma for each row. -/
theorem updatesFillAnImage : Obligations.UpdatesFillAnImage := by
  refine ⟨?_, ?_, ?_, ?_, ?_, fun dt w s c h hroom hlc => updateCommit_answers h hroom hlc, ?_, headerVerifies_iff, ?_, ?_, ?_⟩
  · intro dt k n w s c h hroom hlc himg hk hz hlen hlow hhigh
    exact updateBegin_answers h hroom hlc himg hk hz hlen hlow hhigh
  · intro dt k w seq s p hp hop hq hk
    exact updateEraseDone_empties hp hop hq hk
  · intro dt k n w s c h hlc hn hlow hhigh hz hopen hk
    exact updateWrite_places h hlc hn hlow hhigh hz hopen hk
  · intro dt w s c l a h hroom hlc hkind hz hopen hfits
    exact updateWrite_waits h hroom hlc hkind hz hopen hfits
  · intro dt k off chain data b w seq s p hp hop hq hoff hb hk
    exact updateWriteComplete_places hp hop hq hoff hb hk
  · rintro dt k sigOk hashOk w seq s p i hp hop hq hk hi
    refine ⟨?_, updateVerifyDone_fails hp hop hq hk hi⟩
    rintro hheader rfl rfl
    exact updateVerifyDone_verifies hp hop hq hk hi hheader
  · intro dt k now w s c h hlc himg hk hz
    exact updateActivate_answers h hlc himg hk hz
  · intro dt k w s c h hlc hk
    exact updateAbort_answers h hlc hk
  · intro dt k w s c d img h hlc hd hrun hnone himg
    exact updateStatus_answers h hlc hd hrun hnone himg

end Sys2Proof.Machine
end

section
/-!
# The fault collector's hits (R454, R460, R461)
-/
namespace Sys2Proof.Machine

/-- A hit behind the record adds to SIMULTANEOUS in the record's TCLK (R461). -/
theorem react_simultaneous {s : State} {n : Nat} (a master access : Nat) (h : s.reaction n ≠ 0) (hvalid : s.faults.fer.valid = true)
    (hat : s.faults.fer.atT = s.now) : (s.react n a master access).faults.fer = { s.faults.fer with simul := sat 16 (s.faults.fer.simul + 1) } :=
  (react_fer _ _ _ _ _ h).trans ((if_neg (by rw [hvalid]; decide)).trans (if_pos hat))

/-- A later hit behind the record adds to MERGED (R461). -/
theorem react_merged {s : State} {n : Nat} (a master access : Nat) (h : s.reaction n ≠ 0) (hvalid : s.faults.fer.valid = true)
    (hat : s.faults.fer.atT ≠ s.now) : (s.react n a master access).faults.fer = { s.faults.fer with merged := sat 16 (s.faults.fer.merged + 1) } :=
  (react_fer _ _ _ _ _ h).trans ((if_neg (by rw [hvalid]; decide)).trans (if_neg hat))

/-- A hit of a source, where no hit of the same TCLK stands behind it (R454). -/
theorem faultHit_registers {dt : Nat} {src : Fin 512} {addr : BitVec 32} {master : BitVec 8} {access : BitVec 4} {s : State}
    (hsrc : (fsrc? src.val).isSome = true)
    (hfirst : ¬(s.faults.on = true ∧ s.faults.fer.valid = true ∧ s.faults.fer.atT = (s.pass dt).now ∧ src.val < s.faults.fer.source ∧ s.reaction src.val ≠ 0 ∧
      s.shadowed src.val addr.toNat master.toNat = false)) :
    exec (.faultHit dt src addr master access) s = .next ((s.pass dt).hit src.val addr.toNat master.toNat access.toNat) := by
  refine (if_neg (by simpa [Option.isSome_iff_ne_none] using hsrc)).trans (if_neg ?_)
  rw [Bool.not_eq_true']
  exact hfirst

/-- Of two hits in one TCLK the lower source number takes the record (R461). -/
theorem faultHit_takesRecord {dt : Nat} {src : Fin 512} {addr : BitVec 32} {master : BitVec 8} {access : BitVec 4} {s : State}
    (hsrc : (fsrc? src.val).isSome = true)
    (hlower : s.faults.on = true ∧ s.faults.fer.valid = true ∧ s.faults.fer.atT = (s.pass dt).now ∧ src.val < s.faults.fer.source ∧ s.reaction src.val ≠ 0 ∧
      s.shadowed src.val addr.toNat master.toNat = false) :
    ∃ u, u = (s.pass dt).hit src.val addr.toNat master.toNat access.toNat ∧ exec (.faultHit dt src addr master access) s = .next { u with
      faults := { u.faults with fer := { u.faults.fer with source := src.val, addr := addr, master := master.toNat, access := access.toNat } } } := by
  refine ⟨_, rfl, (if_neg (by simpa [Option.isSome_iff_ne_none] using hsrc)).trans (if_pos ?_)⟩
  rw [Bool.not_eq_true']
  exact hlower

/-- Settles O45: the hit of a source by whether it takes the record of its TCLK, then the counts of the record, then the watchdogs. -/
theorem faultHitsAreRegistered : Obligations.FaultHitsAreRegistered := by
  refine ⟨?_, ?_, ?_, ?_, fun dt s hon => ⟨_, rfl, hit_reg' (s.pass dt) _ _ _ _ hon⟩,
    fun dt b s hon => ⟨_, rfl, hit_reg' ((s.pass dt).setGrate b.val { s.grate b.val with stopped := true }) _ _ _ _ hon⟩,
    fun dt s hon => ⟨_, rfl, hit_reg' (s.pass dt) _ _ _ _ hon⟩, fun dt p s hon => ⟨_, rfl, hit_reg' (s.pass dt) _ _ _ _ hon⟩⟩
  · intro dt src addr master access s hsrc hfirst
    exact ⟨_, faultHit_registers hsrc hfirst, hit_reg (s.pass dt) _ _ _ _⟩
  · intro dt src addr master access s hsrc hon hvalid hat hlower hreact hshadow
    obtain ⟨u, rfl, hexec⟩ := faultHit_takesRecord hsrc ⟨hon, hvalid, hat, hlower, hreact, hshadow⟩
    exact ⟨_, _, hexec, hit_reg' (s.pass dt) _ _ _ _ hon, rfl⟩
  · intro dt src addr master access s hsrc
    exact if_pos (by simpa using hsrc)
  · rintro n a master access s t - rfl hreact hvalid
    exact ⟨react_simultaneous a master access hreact hvalid, react_merged a master access hreact hvalid⟩

end Sys2Proof.Machine
end

section
/-!
# The LOOP commands (R382, R386, R387, R393 to R398)
-/
namespace Sys2Proof.Machine

variable {s : State} {w : Sess} {c : Cmd} {dt : Nat}

/-! ### Accepted values -/

/-- Accepting a value leaves the other parameters. -/
theorem look_accept_other (m : SMap Nat) {id j : Nat} (v : Nat) (h : j ≠ id) : look (accept m id v) j = look m j := by
  unfold accept
  split
  · exact look_cut_other _ _ _ h
  · exact look_put_other _ _ _ _ h

/-- LOOP_MODE's values on one bar: a field of 0xFF leaves its parameter (R386). -/
def barModes (m k : Nat) (acc : SMap Nat) (b : Nat) : SMap Nat :=
  let acc := if m = 0xFF then acc else accept acc (P.loopBarMode b).id m
  if k = 0xFF then acc else accept acc (P.loopBarCheckMode b).id k

/-- A bar's values leave every parameter but the two of that bar. -/
theorem barModes_other {m k b id : Nat} (acc : SMap Nat) (hm : m = 0xFF ∨ id ≠ (P.loopBarMode b).id) (hk : k = 0xFF ∨ id ≠ (P.loopBarCheckMode b).id) :
    look (barModes m k acc b) id = look acc id := by
  have hmode : look (if m = 0xFF then acc else accept acc (P.loopBarMode b).id m) id = look acc id := by
    split
    · rfl
    · exact look_accept_other _ _ (hm.resolve_left ‹_›)
  unfold barModes
  dsimp only
  split
  · exact hmode
  · rw [look_accept_other _ _ (hk.resolve_left ‹_›), hmode]

/-- The values of a list of bars leave every parameter that is none of theirs. -/
theorem foldl_barModes_other {m k id : Nat} (l : List Nat) (acc : SMap Nat) (hm : m = 0xFF ∨ ∀ b ∈ l, id ≠ (P.loopBarMode b).id)
    (hk : k = 0xFF ∨ ∀ b ∈ l, id ≠ (P.loopBarCheckMode b).id) : look (l.foldl (barModes m k) acc) id = look acc id := by
  induction l generalizing acc with
  | nil => rfl
  | cons b l ih =>
    rw [List.foldl_cons, ih _ (hm.imp_right fun h x hx => h x (List.mem_cons_of_mem b hx)) (hk.imp_right fun h x hx => h x (List.mem_cons_of_mem b hx))]
    exact barModes_other acc (hm.imp_right fun h => h b List.mem_cons_self) (hk.imp_right fun h => h b List.mem_cons_self)

/-- The identifiers of the bars' parameters differ. -/
theorem loopBar_ids (b d : Nat) : (P.loopBarMode b).id ≠ (P.loopBarCheckMode d).id ∧
    ((P.loopBarMode b).id = (P.loopBarMode d).id → b = d) ∧ ((P.loopBarCheckMode b).id = (P.loopBarCheckMode d).id → b = d) := by
  simp only [P.loopBarMode, P.loopBarCheckMode]
  omega

theorem loopBarMode_default (b : Nat) (hb : b < 8) : pDefault (P.loopBarMode b).id = (P.loopBarMode b).dflt := by
  interval_cases b <;> decide

theorem loopBarCheckMode_default (b : Nat) (hb : b < 8) : pDefault (P.loopBarCheckMode b).id = (P.loopBarCheckMode b).dflt := by
  interval_cases b <;> decide

/-- A bar's mode is the one given. -/
theorem barModes_mode {m k b : Nat} (acc : SMap Nat) (hb : b < 8) (hm : m ≠ 0xFF) :
    sel (barModes m k acc b) (P.loopBarMode b).id (P.loopBarMode b).dflt = m := by
  have hset := accept_sel acc _ m _ (loopBarMode_default b hb)
  unfold barModes
  dsimp only
  rw [if_neg hm]
  split
  · exact hset
  · rw [sel, look_accept_other _ _ (loopBar_ids b b).1]
    exact hset

/-- A bar's check mode is the one given. -/
theorem barModes_check {m k b : Nat} (acc : SMap Nat) (hb : b < 8) (hk : k ≠ 0xFF) :
    sel (barModes m k acc b) (P.loopBarCheckMode b).id (P.loopBarCheckMode b).dflt = k := by
  unfold barModes
  dsimp only
  rw [if_neg hk]
  exact accept_sel _ _ _ _ (loopBarCheckMode_default b hb)

/-- Each bar of a list of bars has the mode given. -/
theorem foldl_barModes_mode {m k b : Nat} (l : List Nat) (acc : SMap Nat) (hl : ∀ x ∈ l, x < 8) (hb : b ∈ l) (hm : m ≠ 0xFF) :
    sel (l.foldl (barModes m k) acc) (P.loopBarMode b).id (P.loopBarMode b).dflt = m := by
  induction l generalizing acc with
  | nil => exact absurd hb List.not_mem_nil
  | cons x l ih =>
    have hl' : ∀ y ∈ l, y < 8 := fun y hy => hl y (List.mem_cons_of_mem x hy)
    by_cases hin : b ∈ l
    · exact ih _ hl' hin
    · obtain rfl : b = x := (List.mem_cons.1 hb).resolve_right hin
      have hb8 := hl b List.mem_cons_self
      rw [List.foldl_cons, sel, foldl_barModes_other l _ (Or.inr fun d hd heq => hin ((loopBar_ids b d).2.1 heq ▸ hd))
        (Or.inr fun d hd => (loopBar_ids b d).1)]
      exact barModes_mode acc hb8 hm

/-- Each bar of a list of bars has the check mode given. -/
theorem foldl_barModes_check {m k b : Nat} (l : List Nat) (acc : SMap Nat) (hl : ∀ x ∈ l, x < 8) (hb : b ∈ l) (hk : k ≠ 0xFF) :
    sel (l.foldl (barModes m k) acc) (P.loopBarCheckMode b).id (P.loopBarCheckMode b).dflt = k := by
  induction l generalizing acc with
  | nil => exact absurd hb List.not_mem_nil
  | cons x l ih =>
    have hl' : ∀ y ∈ l, y < 8 := fun y hy => hl y (List.mem_cons_of_mem x hy)
    by_cases hin : b ∈ l
    · exact ih _ hl' hin
    · obtain rfl : b = x := (List.mem_cons.1 hb).resolve_right hin
      have hb8 := hl b List.mem_cons_self
      rw [List.foldl_cons, sel, foldl_barModes_other l _ (Or.inr fun d hd => (loopBar_ids d b).1.symm)
        (Or.inr fun d hd heq => hin ((loopBar_ids b d).2.2 heq ▸ hd))]
      exact barModes_check acc hb8 hk

/-- LOOP_MODE's fold over bars changes the accepted values alone. -/
theorem foldl_setModes (m k : Nat) (l : List Nat) (s : State) :
    l.foldl (fun (s : State) b =>
        let s := if m = 0xFF then s else s.setNow (P.loopBarMode b) m
        if k = 0xFF then s else s.setNow (P.loopBarCheckMode b) k) s =
      { s with params := { s.params with acc := l.foldl (barModes m k) s.params.acc } } := by
  induction l generalizing s with
  | nil => rfl
  | cons b l ih =>
    rw [List.foldl_cons, ih, List.foldl_cons]
    unfold barModes
    by_cases hm : m = 0xFF
    · by_cases hk : k = 0xFF
      · simp only [hm, hk, if_true]
      · simp only [hm, hk, if_true, if_false]
        rfl
    · by_cases hk : k = 0xFF
      · simp only [hm, hk, if_true, if_false]
        rfl
      · simp only [hm, hk, if_false]
        rfl

/-- LOOP_MODE's effect on the accepted values (R386). -/
theorem loopMode_sets {m k : Nat} (h : Holds s w c 0x0602 4) (hkind : s.pwr.kind ≠ 2) (hm : u8 c.pay 1 = m) (hmode : m ≤ 2 ∨ m = 0xFF) (hk : u8 c.pay 2 = k)
    (hcheck : k ≤ 2 ∨ k = 0xFF) (hz : u8 c.pay 3 = 0) :
    ∃ t, exec (.loopMode dt w) s = .next t ∧
      Answered { s.pass dt with params := { s.params with acc := (unmask 8 (u8 c.pay 0)).foldl (barModes m k) s.params.acc } } t w c St.ok [] := by
  refine ⟨_, rfl, runCmd_answered (h.pass dt) ?_⟩
  dsimp only
  rw [h.plain, hm, hk, need_ok _ _ _ _ (decide_eq_true ⟨hmode, hcheck, hz⟩), vet_ok (s.pass dt) _ hkind, foldl_setModes]
  rfl

/-! ### Zones -/

/-- A zone that is written reads back, and the others stand. -/
theorem zone_setZone (s : State) (k x : Nat) (z : Zone) : (s.setZone k z).zone x = if x = k then z else s.zone x :=
  sel_put s.loop.zones k x z {}

/-- The offset `v` is held for a zone until the next line boundary (R387). -/
def State.holdOffset (s : State) (k : Nat) (v : Int) : State := s.setZone k { s.zone k with pendZ := some v, pendHost := true }

/-- The offsets of `n` zones from zone `k` on, each held for its zone and for no other. -/
theorem foldl_holdOffset (v : Nat → Int) (k n : Nat) (s : State) :
    ∃ zones, (List.range n).foldl (fun (s : State) i => s.holdOffset (k + i) (v i)) s = { s with loop := { s.loop with zones := zones } } ∧
      (∀ i, i < n → sel zones (k + i) {} = { s.zone (k + i) with pendZ := some (v i), pendHost := true }) ∧
      (∀ x, x < k ∨ k + n ≤ x → sel zones x {} = s.zone x) := by
  induction n with
  | zero => exact ⟨s.loop.zones, rfl, fun i hi => absurd hi (Nat.not_lt_zero i), fun _ _ => rfl⟩
  | succ n ih =>
    obtain ⟨zones, hfold, hin, hout⟩ := ih
    have hlast : sel zones (k + n) {} = s.zone (k + n) := hout _ (Or.inr le_rfl)
    refine ⟨put zones (k + n) { sel zones (k + n) {} with pendZ := some (v n), pendHost := true }, ?_, fun i hi => ?_, fun x hx => ?_⟩
    · rw [List.range_succ, List.foldl_append, hfold]
      rfl
    · rw [sel_put]
      by_cases hi' : i = n
      · rw [if_pos (by rw [hi']), hlast, hi']
      · rw [if_neg (by omega), hin i (by omega)]
    · rw [sel_put, if_neg (by omega), hout x (by omega)]

/-- LOOP_ZONES_WRITE holds the new offsets for the next descriptor's line (R387). -/
theorem zonesWrite_holds {b z n : Nat} (h : Holds s w c 0x0604 (4 + 2 * n)) (hk : s.pwr.kind ≠ 2) (hb : u8 c.pay 0 = b) (hb8 : b < 8) (hn : u8 c.pay 1 = n)
    (hlow : 1 ≤ n) (hhigh : n ≤ 19) (hz : u16 c.pay 2 = z) (hend : z + n ≤ 400)
    (hlimit : ∀ i, i < n → (signed 16 (u16 c.pay (4 + 2 * i))).natAbs ≤ s.par P.loopZoneLimit) :
    ∃ t, exec (.loopZonesWrite dt w) s = .next t ∧
      Answered ((List.range n).foldl (fun (s : State) i => s.holdOffset (400 * b + z + i) (signed 16 (u16 c.pay (4 + 2 * i)))) (s.pass dt)) t w c St.ok
        (leB 4 s.fire.next) := by
  have hall : ((List.range n).all fun i => decide ((signed 16 (u16 c.pay (4 + 2 * i))).natAbs ≤ (s.pass dt).par P.loopZoneLimit)) = true :=
    List.all_eq_true.2 fun i hi => decide_eq_true (hlimit i (List.mem_range.1 hi))
  refine ⟨_, rfl, runCmd_answered (h.pass dt) ?_⟩
  dsimp only
  rw [hn, h.plain, hb, hz, need_ok _ _ _ _ (Bool.and_eq_true_iff.2 ⟨decide_eq_true ⟨hb8, hlow, hhigh, hend⟩, hall⟩), vet_ok (s.pass dt) _ hk]
  rfl

/-- LOOP_ZONES_READ answers the records of the zones named (R398). -/
theorem zonesRead_answers {b z n : Nat} (h : Holds s w c 0x0603 8) (hk : s.pwr.kind ≠ 2) (hb : u8 c.pay 0 = b) (hb8 : b < 8) (hz1 : u8 c.pay 1 = 0)
    (hz : u16 c.pay 2 = z) (hn : u8 c.pay 4 = n) (hlow : 1 ≤ n) (hhigh : n ≤ 19) (hend : z + n ≤ 400) (hz5 : fld c.pay 5 3 = 0) :
    ∃ t, exec (.loopZonesRead dt w) s = .next t ∧ Answered (s.pass dt) t w c St.ok
      (leB 1 b ++ leB 1 n ++ leB 2 z ++ (List.range n).flatMap (fun i => s.zoneRecord (400 * b + z + i))) := by
  refine ⟨_, rfl, runCmd_answered (h.pass dt) ?_⟩
  dsimp only
  rw [h.plain, hb, hz, hn, need_ok _ _ _ _ (decide_eq_true ⟨hb8, hz1, hlow, hhigh, hend, hz5⟩), vet_ok (s.pass dt) _ hk]
  rfl

/-- Settles O39: a lemma for each row; the mode by `foldl_barModes_mode` and the zones by `foldl_holdOffset`. -/
theorem loopCommandsAnswer : Obligations.LoopCommandsAnswer := by
  refine ⟨?_, ?_, ?_, ?_, ?_⟩
  · intro dt w s c h hk hz
    refine ⟨_, rfl, runCmd_answered (h.pass dt) ?_⟩
    rw [h.plain, need_ok _ _ _ _ (by simp [hz]), vet_ok (s.pass dt) _ hk]
    rfl
  · intro dt m k w s c h hkind hm hmode hk hcheck hz
    obtain ⟨t, hexec, hanswered⟩ := loopMode_sets (dt := dt) h hkind hm hmode hk hcheck hz
    have hbars : ∀ x ∈ unmask 8 (u8 c.pay 0), x < 8 := fun x hx => ((mem_unmask _ _ _).1 hx).1
    refine ⟨t, _, hexec, rfl, fun hset b hb hbit => ?_, fun hset b hb hbit => ?_, fun id hidm hidk => ?_, hanswered⟩
    · exact foldl_barModes_mode _ _ hbars ((mem_unmask _ _ _).2 ⟨hb, hbit⟩) hset
    · exact foldl_barModes_check _ _ hbars ((mem_unmask _ _ _).2 ⟨hb, hbit⟩) hset
    · exact foldl_barModes_other _ _ (hidm.imp_right fun hid b hb => hid b ((mem_unmask _ _ _).1 hb).1 ((mem_unmask _ _ _).1 hb).2)
        (hidk.imp_right fun hid b hb => hid b ((mem_unmask _ _ _).1 hb).1 ((mem_unmask _ _ _).1 hb).2)
  · intro dt b z n w s c h hk hb hb8 hz1 hz hn hlow hhigh hend hz5
    exact zonesRead_answers h hk hb hb8 hz1 hz hn hlow hhigh hend hz5
  · intro dt b z n w s c h hk hb hb8 hn hlow hhigh hz hend hlimit
    obtain ⟨t, hexec, hanswered⟩ := zonesWrite_holds (dt := dt) h hk hb hb8 hn hlow hhigh hz hend hlimit
    obtain ⟨zones, hfold, hin, hout⟩ := foldl_holdOffset (fun i => signed 16 (u16 c.pay (4 + 2 * i))) (400 * b + z) n (s.pass dt)
    rw [hfold] at hanswered
    exact ⟨t, { s.pass dt with loop := { s.loop with zones := zones } }, hexec, rfl, hin, hout, hanswered⟩
  · intro dt w s c h hk
    refine ⟨_, rfl, runCmd_answered (h.pass dt) ?_⟩
    rw [h.plain, vet_ok (s.pass dt) _ hk]
    rfl

/-! ### The colour memory of a job -/

/-- LOOP_MEMORY_READ waits with the memory as it stands (R393). -/
theorem memoryRead_waits {i : Nat} {l : List DmaDesc} {a : Bytes} (h : HoldsDma s w c 0x0606 16 l a) (hroom : HasRoom s w) (hk : s.pwr.kind ≠ 2)
    (hi : u16 a 0 = i) (hlt : i < 4096) (hz : fld a 2 14 = 0) (hvalid : (s.job i).memValid = true) :
    ∃ t, exec (.loopMemoryRead dt w) s = .next t ∧ Waiting (s.pass dt) t w c i (s.job i).memory [] := by
  refine ⟨_, rfl, (h.pass dt).waiting (hroom.pass dt) ?_⟩
  dsimp only
  rw [h.dmaForm, need_ok _ _ _ _ (by simp [indexArg, indexOk, hi, hlt, hz]), vet_ok (s.pass dt) _ hk, hasQueue_ok _ _ _ (hroom.pass dt), hi, job_pass,
    need_ok _ _ _ _ hvalid]

/-- LOOP_MEMORY_WRITE waits for the bytes of a job neither ARMED nor PRINTING (R395). -/
theorem memoryWrite_waits {i : Nat} {l : List DmaDesc} {a : Bytes} (h : HoldsDma s w c 0x0607 16 l a) (hroom : HasRoom s w) (hk : s.pwr.kind ≠ 2)
    (hi : u16 a 0 = i) (hlt : i < 4096) (hz : fld a 2 14 = 0) (hstate : 2 ≤ (s.job i).state) (harmed : (s.job i).state ≠ 5) (hprinting : (s.job i).state ≠ 6)
    (hlen : chainOf l = none → total l = 12816) : ∃ t, exec (.loopMemoryWrite dt w) s = .next t ∧ Waiting (s.pass dt) t w c i [] [] := by
  refine ⟨_, rfl, (h.pass dt).waiting (hroom.pass dt) ?_⟩
  rw [h.dmaForm, need_ok _ _ _ _ (by simp [indexArg, indexOk, hi, hlt, hz]), vet_ok (s.pass dt) _ hk, hasQueue_ok _ _ _ (hroom.pass dt), hi, job_pass,
    need_ok _ _ _ _ (by simp [Job.memOpen, hstate, harmed, hprinting]), fixedLen_ok _ _ _ _ hlen]

/-- The end of a memory's transfer, by what the memory is and whether the library has the room (R395). -/
theorem memoryWriteComplete_posts {seq : BitVec 32} {chain : List Bytes} {data b : Bytes} {p : Pend} {u : State} {status : Nat}
    (hp : s.pend? w seq = some p) (hq : ∃ q, (s.ses w).cq = some q) (hop : p.cmd.op = 0x0607) (hb : p.dataIn chain data = some b)
    (hses : u.ses w = s.ses w)
    (hend : (if b.length ≠ 12816 ∨ (!memoryOk b) = true then (s.pass dt).complete p St.badParam 0 idLoupe
      else if (!((s.pass dt).job p.obj.toNat).memOpen) = true then (s.pass dt).complete p St.state 0 idLoupe
      else if ((s.pass dt).putMemory p.obj.toNat b).2 = true then ((s.pass dt).putMemory p.obj.toNat b).1.complete p St.ok 0 idLoupe
      else (s.pass dt).complete p St.noSpace 0 idLoupe) = u.complete p status 0 idLoupe) :
    ∃ t, exec (.loopMemoryWriteComplete dt w seq chain data) s = .next t ∧ Posted u t p status p.obj.toNat 0 idLoupe := by
  refine ⟨_, rfl, finish_posted dt hp hq (by simp [hop]) hses ?_⟩
  rw [hb]
  exact hend

/-- A memory that the library has the room for, or the job one already, is the job's. -/
theorem putMemory_puts {i : Nat} {b : Bytes} (hroom : (s.job i).memValid = true ∨ s.libUsed + 12816 ≤ s.libSize) :
    s.putMemory i b = (s.setJob i { s.job i with
      memory := b, memValid := true, stored := (s.job i).stored + (if (s.job i).memValid then 0 else 12816) }, true) := by
  unfold State.putMemory
  dsimp only
  by_cases hvalid : (s.job i).memValid = true
  · rw [if_pos hvalid, if_pos hvalid]
    exact congrArg (fun v => (s.setJob i { s.job i with memory := b, memValid := v }, true)) hvalid
  · rw [if_neg hvalid, if_neg hvalid, if_neg (Nat.not_lt.2 (hroom.resolve_left hvalid))]

/-- Without the room nothing changes. -/
theorem putMemory_full {i : Nat} {b : Bytes} (hvalid : (s.job i).memValid = false) (hfull : s.libSize < s.libUsed + 12816) : s.putMemory i b = (s, false) := by
  unfold State.putMemory
  simp only [hvalid, Bool.false_eq_true, if_false, if_pos hfull]

/-- Settles O40: a lemma for each row; the end of a write by whether the memory is well formed and has its room. -/
theorem colourMemoryTransfers : Obligations.ColourMemoryTransfers := by
  refine ⟨?_, ?_, ?_, ?_, ?_, ?_⟩
  · intro dt i w s c l a h hroom hk hi hlt hz hvalid
    exact memoryRead_waits h hroom hk hi hlt hz hvalid
  · intro dt w seq chain s p l hp hq hop hl hfits
    obtain ⟨o, ho⟩ := emits_frame (s.pass dt) (scatter l p.data)
    refine ⟨_, rfl, finish_posted dt hp hq (by simp [hop]) ?_ (finishOut_fits hl hfits _ _)⟩
    rw [ho]
    exact pass_ses s dt w
  · intro dt i w s c l a h hroom hk hi hlt hz hstate harmed hprinting hlen
    exact memoryWrite_waits h hroom hk hi hlt hz hstate harmed hprinting hlen
  · rintro dt i w seq chain data b s p hp hq hop rfl hb hlen hok hopen hroom
    refine memoryWriteComplete_posts hp hq hop hb (by rw [setJob_ses, pass_ses]) ?_
    rw [if_neg (by simp [hlen, hok]), job_pass, hopen, putMemory_puts (s := s.pass dt) hroom]
    rfl
  · rintro dt i w seq chain data b s p hp hq hop rfl hb hlen hok hopen hvalid hfull
    refine memoryWriteComplete_posts hp hq hop hb (pass_ses s dt w) ?_
    rw [if_neg (by simp [hlen, hok]), job_pass, hopen, putMemory_full (s := s.pass dt) hvalid hfull]
    rfl
  · intro dt w seq chain data b s p hp hq hop hb hbad
    exact memoryWriteComplete_posts hp hq hop hb (pass_ses s dt w) (if_pos (by simpa using hbad))

end Sys2Proof.Machine
end

section
/-!
# Zones and frames in the colour loop (R380, R382 to R385, R388 to R392, R396)
-/
namespace Sys2Proof.Machine

variable {s t : State}

/-! ### What the loop may touch -/

/-- `t` differs from `s` at most in the loop, requests to the Ledger's owners and what hits of the collector touch. -/
def LoopKept (s t : State) : Prop := Touched { s with loop := t.loop, ledger := { s.ledger with pend := t.ledger.pend } } t

/-- The sources that the loop hits order no reset and no fail-over. -/
def LoopCalm (s : State) : Prop := ∀ n ∈ [F.zoneLimit, F.loopConfig, F.nozzleOut, F.nozzleWeak, F.checkAge, F.checkSuspect], Calm s n

theorem LoopKept.refl (s : State) : LoopKept s s := Touched.refl s

theorem LoopKept.trans {u : State} (h : LoopKept s t) (k : LoopKept t u) : LoopKept s u := by
  unfold LoopKept Touched at *
  rw [k, h]

/-- What a hit touches the loop may touch. -/
theorem Touched.loopKept (h : Touched s t) : LoopKept s t := by
  unfold LoopKept Touched at *
  rw [h]

/-- The loop's work leaves the parameters, and with them the reactions. -/
theorem LoopKept.calm (h : LoopKept s t) (hc : LoopCalm s) : LoopCalm t := by
  have hparams : t.params = s.params := by
    unfold LoopKept Touched at h
    rw [h]
  exact fun n hn => (hc n hn).of_params hparams

/-- A fold of the loop's work. -/
theorem LoopKept.foldl {α : Type} {f : State → α → State} (hf : ∀ u a, LoopCalm u → LoopKept u (f u a)) (l : List α) (s : State) (hc : LoopCalm s) :
    LoopKept s (l.foldl f s) := by
  induction l generalizing s with
  | nil => exact .refl s
  | cons a l ih =>
    have hstep := hf s a hc
    exact hstep.trans (ih _ (hstep.calm hc))

/-- A branch of the loop's work. -/
theorem loopKept_ite {u : State} {p : Prop} [Decidable p] (h : LoopKept s t) (k : LoopKept s u) : LoopKept s (if p then t else u) := by
  split <;> assumption

/-! ### The loop's operations -/

theorem loopKept_loop (s : State) (l : LoopSt) : LoopKept s { s with loop := l } := by
  unfold LoopKept Touched
  rfl

theorem loopKept_free (s : State) (n : Nat) : LoopKept s { s with free := n } := by
  unfold LoopKept Touched
  rfl

theorem setZone_kept (s : State) (k : Nat) (x : Zone) : LoopKept s (s.setZone k x) := loopKept_loop s _

theorem setBarLoop_kept (s : State) (b : Nat) (x : BarLoop) : LoopKept s (s.setBarLoop b x) := loopKept_loop s _

theorem ownWrite_kept (s : State) (i : Nat) (e : BitVec 32) (m : BitVec 7) : LoopKept s (s.ownWrite i e m) := by
  unfold LoopKept Touched State.ownWrite
  rfl

theorem loopEvent_kept (s : State) (kind bar item value line : Nat) : LoopKept s (s.loopEvent kind bar item value line) :=
  (loopKept_loop s _).trans (event_touched _ _).loopKept

theorem fault_kept (hc : LoopCalm s) {n : Nat} (a : Nat) (hn : n ∈ [F.zoneLimit, F.loopConfig, F.nozzleOut, F.nozzleWeak, F.checkAge, F.checkSuspect]) :
    LoopKept s (s.fault n a) := (fault_touched s n a (hc n hn)).loopKept

/-- A hit of the loop's with its event. -/
theorem faultEvent_kept (hc : LoopCalm s) {n : Nat} (a kind bar item value line : Nat)
    (hn : n ∈ [F.zoneLimit, F.loopConfig, F.nozzleOut, F.nozzleWeak, F.checkAge, F.checkSuspect]) :
    LoopKept s ((s.fault n a).loopEvent kind bar item value line) :=
  (fault_kept hc a hn).trans (loopEvent_kept _ _ _ _ _ _)

/-! ### Zone measurements -/

theorem updateZone_kept (hc : LoopCalm s) (b z : Nat) : LoopKept s (s.updateZone b z) := by
  unfold State.updateZone
  extract_lets k x d x2 top step lim z0 z1 isCut y s2
  have h2 : LoopKept s s2 := setZone_kept s _ _
  exact loopKept_ite (setZone_kept s _ _) (loopKept_ite (h2.trans (faultEvent_kept (h2.calm hc) _ _ _ _ _ _ (by decide))) h2)

theorem resumeZone_kept (s : State) (b z : Nat) : LoopKept s (s.resumeZone b z) := by
  unfold State.resumeZone
  dsimp only
  have hresumed := (setZone_kept s (400 * b + z) { s.zone (400 * b + z) with stale := false }).trans (loopEvent_kept _ 2 b z 0 s.pos)
  split
  · exact .refl s
  · split
    · exact hresumed
    · exact hresumed.trans (setBarLoop_kept _ _ _)

theorem measureZone_kept (hc : LoopCalm s) (b z : Nat) (delta : Int) (weight printed : Nat) : LoopKept s (s.measureZone b z delta weight printed) := by
  unfold State.measureZone
  extract_lets k x s1 s2 due
  have h2 : LoopKept s s2 := (setZone_kept s _ _).trans (resumeZone_kept _ _ _)
  exact loopKept_ite (.refl s) (loopKept_ite (h2.trans (updateZone_kept (h2.calm hc) b z)) h2)

theorem measureRegion_kept (hc : LoopCalm s) (c : Nat) (m : Stream) (r : Run) (b : Nat) (t : Target) (n : Nat) :
    LoopKept s (s.measureRegion c m r b t n) := by
  unfold State.measureRegion
  refine LoopKept.foldl (fun u z hu => ?_) _ _ hc
  dsimp only
  split
  · exact .refl u
  · exact measureZone_kept hu _ _ _ _ _

/-! ### Nozzle checks -/

theorem changeState_kept (hc : LoopCalm s) (b : Nat) (u : Ink) (cand : Nat) (apply : Bool) : LoopKept s (s.changeState b u cand apply) := by
  unfold State.changeState
  dsimp only
  have hevent := loopEvent_kept s 4 b (20 * b + u.sl) (cand * 2 ^ 30 + ledgerIndex b u.sl u.n) s.fire.next
  have hwritten := hevent.trans (ownWrite_kept _ (ledgerIndex b u.sl u.n) (BitVec.ofNat 32 (cand * 2 ^ 30)) 1)
  have hcalm := hwritten.calm hc
  split
  · exact hevent
  · split
    · exact hwritten.trans (fault_kept hcalm _ (by decide))
    · split
      · exact hwritten.trans (fault_kept hcalm _ (by decide))
      · exact hwritten

theorem checkAge_kept (hc : LoopCalm s) (i : Nat) (evaluated : Bool) : LoopKept s (s.checkAge i evaluated) := by
  unfold State.checkAge
  dsimp only
  generalize (if evaluated = true then 0 else sat 4 (bits (s.entry i).toNat 0 4 + 1)) = new
  have hwritten := ownWrite_kept s i (BitVec.ofNat 32 new) 0x20
  split
  · exact .refl s
  · split
    · exact hwritten.trans (fault_kept (hwritten.calm hc) _ (by decide))
    · exact hwritten

theorem trimNozzle_kept (s : State) (g : Geo) (b : Nat) (u : Ink) (med : Int) : LoopKept s (s.trimNozzle g b u med) := by
  unfold State.trimNozzle
  dsimp only
  exact loopKept_ite (.refl s) (loopKept_ite (.refl s) (loopKept_ite (.refl s) (loopKept_loop s _)))

theorem checkStrip_kept (hc : LoopCalm s) (c : Nat) (m : Stream) (r : Run) (b : Nat) (t : Target) (n : Nat) (fits : Bool) :
    LoopKept s (s.checkStrip c m r b t n fits) := by
  unfold State.checkStrip
  extract_lets j all inks meds judged s1 idx counted outs suspect apply s2 s3
  have h1 : LoopKept s s1 := loopKept_free s _
  have h2 : LoopKept s1 s2 := loopKept_ite (faultEvent_kept (h1.calm hc) _ _ _ _ _ _ (by decide)) (.refl s1)
  have h3 : LoopKept s2 s3 := by
    refine LoopKept.foldl (fun u e hu => ?_) _ _ (h2.calm (h1.calm hc))
    have hput : LoopKept u { u with loop := { u.loop with noz := put u.loop.noz (idx e.1) e.2.2.2.1 } } := loopKept_loop u _
    dsimp only
    split
    · exact (hput.trans (changeState_kept (hput.calm hu) _ _ _ _)).trans (trimNozzle_kept _ _ _ _ _)
    · exact hput.trans (trimNozzle_kept _ _ _ _ _)
  have h13 := (h1.trans h2).trans h3
  exact h13.trans (LoopKept.foldl (fun u e hu => checkAge_kept hu _ _) _ _ (h13.calm hc))

/-! ### A frame -/

theorem useTarget_kept (hc : LoopCalm s) (c : Nat) (m : Stream) (r : Run) (b ix : Nat) (t : Target) (nozzle fits : Bool) :
    LoopKept s (s.useTarget c m r b ix t nozzle fits) := by
  unfold State.useTarget
  extract_lets j used s1
  have h1 : LoopKept s s1 := loopKept_ite (fault_kept hc _ (by decide)) (.refl s)
  refine h1.trans (LoopKept.foldl (fun u n hu => ?_) _ _ (h1.calm hc))
  exact loopKept_ite (checkStrip_kept hu _ _ _ _ _ _ _) (measureRegion_kept hu _ _ _ _ _ _)

theorem enterMode_kept (s : State) (b mode : Nat) : LoopKept s (s.enterMode b mode) := by
  unfold State.enterMode
  dsimp only
  split
  · exact (loopKept_loop s _).trans (setBarLoop_kept _ _ _)
  · exact setBarLoop_kept s _ _

theorem frameOnBar_kept (hc : LoopCalm s) (c : Nat) (m : Stream) (b : Nat) (nozzle : Bool) : LoopKept s (s.frameOnBar c m b nozzle) := by
  unfold State.frameOnBar
  split
  · exact .refl s
  · rename_i r _
    have hmode := enterMode_kept s b (s.par (P.loopBarMode b))
    have hcalm := hmode.calm hc
    dsimp only
    refine loopKept_ite (.refl s) (hmode.trans (loopKept_ite (.refl _) (loopKept_ite (fault_kept hcalm _ (by decide)) ?_)))
    exact LoopKept.foldl (fun u e hu => useTarget_kept hu _ _ _ _ _ _ _ _) _ _ hcalm

/-- A bar without a job takes no frame. -/
theorem frameOnBar_idle {b : Nat} (h : (s.barLoop b).job = none) (c : Nat) (m : Stream) (nozzle : Bool) : s.frameOnBar c m b nozzle = s := by
  unfold State.frameOnBar
  rw [h]
  rfl

/-- The state with the oldest frame of a context's queue gone. -/
def State.frameTaken (s : State) (c : Nat) (nozzle : Bool) (rest : List Stream) : State :=
  s.setCtx c (if nozzle then { s.ctx c with ring := rest } else { s.ctx c with meas := rest })

/-- Bars without a job take no frame. -/
theorem foldl_frameOnBar_idle (c : Nat) (m : Stream) (nozzle : Bool) (l : List Nat) (h : ∀ b ∈ l, (s.barLoop b).job = none) :
    l.foldl (fun s b => s.frameOnBar c m b nozzle) s = s := by
  induction l with
  | nil => rfl
  | cons b l ih =>
    rw [List.foldl_cons, frameOnBar_idle (h b List.mem_cons_self)]
    exact ih fun x hx => h x (List.mem_cons_of_mem b hx)

/-- LOUPE takes the oldest frame of the context's queue, and works within the loop (R367, R368, R380). -/
theorem frameProcess_takes {dt : Nat} {ctx : Fin 16} {nozzle : Bool} {m : Stream} {rest : List Stream} (hon : s.loupeOn ctx.val = true)
    (hframe : (if nozzle then (s.ctx ctx.val).ring else (s.ctx ctx.val).meas) = m :: rest) (hc : LoopCalm s) :
    ∃ t, exec (.loopFrameProcess dt ctx nozzle) s = .next t ∧ LoopKept ((s.pass dt).frameTaken ctx.val nozzle rest) t ∧
      ((∀ b, b < 8 → (s.barLoop b).job = none) → t = (s.pass dt).frameTaken ctx.val nozzle rest) := by
  have hcalm : LoopCalm ((s.pass dt).frameTaken ctx.val nozzle rest) := fun n hn => (hc n hn).of_params rfl
  refine ⟨(List.range 8).foldl (fun s b => s.frameOnBar ctx.val m b nozzle) ((s.pass dt).frameTaken ctx.val nozzle rest), ?_,
    LoopKept.foldl (fun u b hu => frameOnBar_kept hu _ _ _ _) _ _ hcalm,
    fun hidle => foldl_frameOnBar_idle _ _ _ _ fun b hb => hidle b (List.mem_range.1 hb)⟩
  refine (if_neg (by rw [show (s.pass dt).loupeOn ctx.val = true from hon]; decide)).trans ?_
  rw [show (if nozzle = true then ((s.pass dt).ctx ctx.val).ring else ((s.pass dt).ctx ctx.val).meas) = m :: rest from hframe]
  rfl

/-! ### Zones -/

/-- An event leaves the bars' loops. -/
theorem event_barLoop (s : State) (k b : Nat) : (s.event k).barLoop b = s.barLoop b := by
  obtain ⟨e, p, o, h⟩ := event_frame s k
  rw [h]
  rfl

/-- An event of the loop leaves the bars' loops. -/
theorem loopEvent_barLoop (s : State) (kind bar item value line b : Nat) : (s.loopEvent kind bar item value line).barLoop b = s.barLoop b :=
  event_barLoop _ evLoop b

/-- A zone that may go stale: covered, its bar's loop running for a job, and without an eligible measurement for `stale_lines` (R385). -/
def GoesStale (s : State) (bar : Fin 8) (x : Zone) : Prop :=
  x.stale = false ∧ x.notCov = false ∧ (s.barLoop bar.val).job ≠ none ∧ s.zoneMode bar.val = 2 ∧ (s.par P.loopStaleLines : Int) ≤ since s.pos x.lastEl

/-- A zone goes stale, with its event (R385). -/
def State.staleZone (s : State) (b z : Nat) : State :=
  (s.setZone (400 * b + z) { s.zone (400 * b + z) with stale := true }).loopEvent 1 b z 0 s.pos

/-- The web's position does not move with the time that passes before a command. -/
theorem staleZone_pass (s : State) (dt b z : Nat) : (s.pass dt).staleZone b z =
    ((s.pass dt).setZone (400 * b + z) { s.zone (400 * b + z) with stale := true }).loopEvent 1 b z 0 s.pos := by
  rw [State.staleZone, pos_pass]
  rfl

/-- A stale zone leaves what the collector takes. -/
theorem staleZone_takes {n a m : Nat} (h : Takes s n a m) (b z : Nat) : Takes (s.staleZone b z) n a m := by
  have hset : Takes (s.setZone (400 * b + z) { s.zone (400 * b + z) with stale := true }) n a m := takes_frame s _ _ _ _ rfl rfl h
  unfold State.staleZone State.loopEvent
  exact takes_touched _ _ (event_touched _ _) _ _ _ (takes_frame _ _ _ _ _ rfl rfl hset)

/-- A zone that goes stale, with its event; the bar's first is also recorded (R385). -/
theorem zoneStale_goes {dt : Nat} {bar : Fin 8} {zone : Fin 400} (h : GoesStale s bar (s.zone (400 * bar.val + zone.val))) :
    exec (.zoneStale dt bar zone) s =
      if (s.barLoop bar.val).staleRec = true then .next ((s.pass dt).staleZone bar.val zone.val)
      else .next ((((s.pass dt).staleZone bar.val zone.val).setBarLoop bar.val { s.barLoop bar.val with staleRec := true }).fault F.zoneStale bar.val) := by
  obtain ⟨hstale, hcov, hjob, hmode, hlines⟩ := h
  have hbar : ((s.pass dt).staleZone bar.val zone.val).barLoop bar.val = s.barLoop bar.val := loopEvent_barLoop _ _ _ _ _ _ _
  rw [← hbar]
  refine if_neg ?_
  rintro (h | h | h | h | h)
  · exact absurd (hstale.symm.trans h) (by decide)
  · exact absurd (hcov.symm.trans h) (by decide)
  · exact hjob (Option.isNone_iff_eq_none.1 h)
  · exact h hmode
  · exact absurd h (Int.not_lt.2 hlines)

/-- A measurement short of the number for an update is kept with its weight (R383). -/
theorem measureZone_keeps {b z weight printed : Nat} {delta : Int} {x : Zone} (hx : s.zone (400 * b + z) = x) (hstale : x.stale = false)
    (hprinted : 0 ≤ since printed x.pEnd) (hshort : x.acc.length + 1 < (if x.unmeas then 8 else s.par P.loopZoneMeasPerUpdate)) :
    s.measureZone b z delta weight printed =
      s.setZone (400 * b + z) { x with acc := x.acc ++ [(delta, weight)], count := sat 8 (x.count + 1), lastEl := s.pos } := by
  subst hx
  have hresume : ∀ y : Zone, y.stale = false → (s.setZone (400 * b + z) y).resumeZone b z = s.setZone (400 * b + z) y := by
    intro y hy
    unfold State.resumeZone
    dsimp only
    rw [if_pos (by rw [zone_setZone, if_pos rfl, hy]; rfl)]
  unfold State.measureZone
  dsimp only
  rw [if_neg (Int.not_lt.2 hprinted), hresume]
  · exact if_neg (Nat.not_le.2 hshort)
  · exact hstale

/-- A value within a limit is not cut. -/
theorem clamp_within {lim : Nat} {x : Int} (h : x.natAbs ≤ lim) : clamp (-(lim : Int)) lim x = x := by
  unfold clamp
  omega

/-- An update moves the offset toward less deviation, within the step and the limit (R384). -/
theorem updateZone_moves {b z : Nat} {x : Zone} {d step : Int} (hx : s.zone (400 * b + z) = x) (hmode : s.zoneMode b = 2) (hpend : x.pendZ = none)
    (hlimit : x.limit = false)
    (hd : d = roundAway ((x.acc.map (fun (e : Int × Nat) => e.1 * (e.2 : Int))).sum) ((x.acc.map Prod.snd).sum : Nat))
    (hstep : step = (if d.natAbs < s.par P.loopZoneDeadband then 0 else
      clamp (-(s.par P.loopZoneStepMax : Int)) (s.par P.loopZoneStepMax) (roundAway (s.par P.loopZoneKi * d) 256)))
    (hwithin : (x.z + step).natAbs ≤ s.par P.loopZoneLimit) (hhost : x.pendHost = false) :
    s.updateZone b z = s.setZone (400 * b + z) { x with
      acc := [], unmeas := false, lastD := d, lastUp := s.fire.next, pendZ := if step = 0 then none else some (x.z + step), limit := false } := by
  subst hx hd
  unfold State.updateZone
  extract_lets k x d x2 top step' lim z0 z1 isCut y s2
  have hstep' : step' = step := hstep.symm
  have hz0 : z0 = x.z := congrArg (fun p : Option Int => p.getD x.z) hpend
  have hz1 : z1 = x.z + step := by
    change clamp (-lim) lim (z0 + step') = _
    rw [hz0, hstep']
    exact clamp_within hwithin
  have hcut : isCut = false := by
    refine decide_eq_false (not_not.2 ?_)
    rw [hz1, hz0, hstep']
  have hy : y = { x2 with pendZ := if step = 0 then none else some (x.z + step) } := by
    have hmoves : (z1 = z0 ∨ x2.pendHost = true) ↔ step = 0 := by
      rw [hz1, hz0, show x2.pendHost = false from hhost]
      simp
    change (if z1 = z0 ∨ x2.pendHost = true then x2 else { x2 with pendZ := some z1 }) = _
    by_cases h0 : step = 0
    · rw [if_pos (hmoves.2 h0), if_pos h0, ← hpend]
    · rw [if_neg (mt hmoves.1 h0), if_neg h0, hz1]
  rw [if_neg (not_not.2 hmode), if_neg (by rw [hcut, Bool.false_and]; decide)]
  change s.setZone k { y with limit := isCut } = _
  rw [hy, hcut]

/-- Settles O41: stale zones, ramps, frames within the loop, and the measurement and the update of a zone. -/
theorem zonesAndFramesOfTheLoop : Obligations.ZonesAndFramesOfTheLoop := by
  refine ⟨?_, ?_, ?_, ?_, ?_, ?_⟩
  · rintro dt bar zone s x rfl hstale hcov hjob hmode hlines hrec
    exact (zoneStale_goes ⟨hstale, hcov, hjob, hmode, hlines⟩).trans ((if_pos hrec).trans (by rw [staleZone_pass]))
  · rintro dt bar zone s x rfl hstale hcov hjob hmode hlines hrec htakes
    refine ⟨_, _, (zoneStale_goes ⟨hstale, hcov, hjob, hmode, hlines⟩).trans (if_neg (by rw [hrec]; decide)), staleZone_pass _ _ _ _, fault_recorded ?_⟩
    exact takes_frame ((s.pass dt).staleZone bar.val zone.val) _ _ _ _ rfl rfl (staleZone_takes (takes_frame s (s.pass dt) _ _ _ rfl rfl htakes) _ _)
  · rintro dt bar zone s x rfl hramping hend
    exact if_pos ⟨hramping, hend⟩
  · intro dt ctx nozzle s m rest hon hframe hc
    obtain ⟨t, hexec, hkept, hidle⟩ := frameProcess_takes (dt := dt) hon hframe hc
    exact ⟨t, _, hexec, rfl, hkept, hidle⟩
  · intro s b z weight printed delta x hx hstale hprinted hshort
    exact measureZone_keeps hx hstale hprinted hshort
  · intro s b z x d step hx hmode hpend hlimit hd hstep hwithin hhost
    exact updateZone_moves hx hmode hpend hlimit hd hstep hwithin hhost

end Sys2Proof.Machine
end

section
/-!
# The CAMERA commands (R358 to R373, R530)
-/
namespace Sys2Proof.Machine

variable {s : State} {w : Sess} {c : Cmd} {dt i : Nat} {seq : BitVec 32} {p : Pend} {l m : List DmaDesc} {a : Bytes} {chain : List Bytes}

/-- Writing a context leaves the sessions. -/
theorem setCtx_ses (s : State) (i : Nat) (x : Ctx) (w : Sess) : (s.setCtx i x).ses w = s.ses w := by
  cases w <;> rfl

/-- Time leaves the camera contexts. -/
theorem ctx_pass (s : State) (dt i : Nat) : (s.pass dt).ctx i = s.ctx i := rfl

/-- A DMA command whose meaning gives a final answer is answered so. -/
theorem HoldsDma.answered {s u : State} {w : Sess} {c : Cmd} {op n status : Nat} {l : List DmaDesc} {a pay : Bytes} {f : Cmd → Reply}
    (h : HoldsDma s w c op n l a) (hf : f c = .done status pay u) : Answered u (s.runCmd w op f) w c status pay := by
  obtain ⟨hcmd, hop, -⟩ := h
  rw [runCmd_eq s w c op f hcmd hop, hf]
  exact reply_answered s u w c status pay

/-- The argument block that names a context. -/
theorem ctxArg_ok (hlt : u8 a 0 < 16) (hz : fld a 1 15 = 0) : ctxArg a = true := decide_eq_true ⟨hlt, hz⟩

/-- CAMERA_STATUS answers a context's counters and an eighth of its embedded data (R371, R373). -/
theorem cameraStatus_answers {k : Nat} (h : Holds s w c 0x0901 4) (hkind : s.pwr.kind ≠ 2) (hi : u8 c.pay 0 = i) (hlt : i < 16) (hk : u8 c.pay 1 = k)
    (hk8 : k < 8) (hz : u16 c.pay 2 = 0) : ∃ t, exec (.cameraStatus dt w) s = .next t ∧
      Answered (s.pass dt) t w c St.ok (s.ctxHead i k ++ slice (s.ctx i).emb (128 * k) 128) := by
  refine ⟨_, rfl, runCmd_answered (h.pass dt) ?_⟩
  dsimp only
  rw [h.plain, hi, hk, need_ok _ _ _ _ (decide_eq_true ⟨hlt, hk8, hz⟩), vet_ok (s.pass dt) _ hkind]
  rfl

/-! ### Tables -/

/-- A defect load waits for its 65,536 bytes (R358). -/
theorem defectLoad_waits (h : HoldsDma s w c 0x0902 0 l []) (hroom : HasRoom s w) (hk : s.pwr.kind ≠ 2) (hlen : chainOf l = none → total l = 65536) :
    ∃ t, exec (.cameraDefectLoad dt w) s = .next t ∧ Waiting (s.pass dt) t w c 0 [] [] := by
  refine ⟨_, rfl, (h.pass dt).waiting (hroom.pass dt) ?_⟩
  rw [h.dmaForm, vet_ok (s.pass dt) _ hk, hasQueue_ok _ _ _ (hroom.pass dt), fixedLen_ok _ _ _ _ hlen]

/-- A well-formed defect table replaces the table (R358). -/
theorem defectLoad_replaces {data b : Bytes} {d : List (BitVec 32)} (hp : s.pend? w seq = some p) (hq : ∃ q, (s.ses w).cq = some q) (hop : p.cmd.op = 0x0902)
    (hb : p.dataIn chain data = some b) (hlen : b.length = 65536) (hd : parseDefects b = some d) :
    ∃ t, exec (.cameraDefectLoadComplete dt w seq chain data) s = .next t ∧
      Posted { s.pass dt with cam := { s.cam with defs := d } } t p St.ok p.obj.toNat d.length idLoupe := by
  refine ⟨_, rfl, finish_posted dt hp hq (by simp [hop]) (pass_ses s dt w) ?_⟩
  rw [hb]
  refine (if_neg (not_not.2 hlen)).trans ?_
  rw [hd]
  rfl

/-- A defect table that breaks R358 changes nothing. -/
theorem defectLoad_refuses {data b : Bytes} (hp : s.pend? w seq = some p) (hq : ∃ q, (s.ses w).cq = some q) (hop : p.cmd.op = 0x0902)
    (hb : p.dataIn chain data = some b) (hlen : b.length = 65536) (hd : parseDefects b = none) :
    ∃ t, exec (.cameraDefectLoadComplete dt w seq chain data) s = .next t ∧ Posted (s.pass dt) t p St.badParam p.obj.toNat 0 idLoupe := by
  refine ⟨_, rfl, finish_posted dt hp hq (by simp [hop]) (pass_ses s dt w) ?_⟩
  rw [hb]
  refine (if_neg (not_not.2 hlen)).trans ?_
  rw [hd]

/-- A shading load waits for its 10,892 bytes (R360). -/
theorem shadingLoad_waits (h : HoldsDma s w c 0x0903 16 l a) (hroom : HasRoom s w) (hk : s.pwr.kind ≠ 2) (hi : u8 a 0 = i) (hlt : i < 16) (hz : fld a 1 15 = 0)
    (hlen : chainOf l = none → total l = 10892) : ∃ t, exec (.cameraShadingLoad dt w) s = .next t ∧ Waiting (s.pass dt) t w c i [] [] := by
  subst hi
  refine ⟨_, rfl, (h.pass dt).waiting (hroom.pass dt) ?_⟩
  rw [h.dmaForm, need_ok _ _ _ _ (ctxArg_ok hlt hz), vet_ok (s.pass dt) _ hk, hasQueue_ok _ _ _ (hroom.pass dt), fixedLen_ok _ l shadeBytes _ hlen]

/-- A shading table replaces the context's (R360). -/
theorem shadingLoad_replaces {data b : Bytes} (hp : s.pend? w seq = some p) (hq : ∃ q, (s.ses w).cq = some q) (hop : p.cmd.op = 0x0903)
    (hb : p.dataIn chain data = some b) (hlen : b.length = 10892) :
    ∃ t, exec (.cameraShadingLoadComplete dt w seq chain data) s = .next t ∧
      Posted ((s.pass dt).setCtx p.obj.toNat { s.ctx p.obj.toNat with shade := (List.range 5445).map (fun k => u16 b (2 * k)) }) t p St.ok p.obj.toNat 0
        idLoupe := by
  refine ⟨_, rfl, finish_posted dt hp hq (by simp [hop]) (by rw [setCtx_ses, pass_ses]) ?_⟩
  rw [hb]
  exact if_neg (not_not.2 hlen)

/-! ### Preview and capture -/

/-- Preview starts on 2 to 15 buffers, each large enough, while none runs (R369). -/
theorem previewStart_starts (h : HoldsDma s w c 0x0904 16 l a) (hk : s.pwr.kind ≠ 2) (hi : u8 a 0 = i) (hlt : i < 16) (hz : fld a 1 15 = 0)
    (hm : follow l chain = some m) (hlow : 2 ≤ m.length) (hhigh : m.length ≤ 15) (hroom : ∀ d ∈ m, s.streamBytes i 2 ≤ d.bytes) (hidle : (s.ctx i).prev = none) :
    ∃ t, exec (.cameraPreviewStart dt w chain) s = .next t ∧
      Answered ((s.pass dt).setCtx i { s.ctx i with prev := some { who := w, bufs := m.map (fun d => (BitVec.ofNat 64 d.addr, d.bytes)) } }) t w c St.ok [] := by
  subst hi
  have hall : (m.all fun d => decide ((s.pass dt).streamBytes (u8 a 0) 2 ≤ d.bytes)) = true := List.all_eq_true.2 fun d hd => decide_eq_true (hroom d hd)
  refine ⟨_, rfl, (h.pass dt).answered ?_⟩
  dsimp only
  rw [h.dmaForm, need_ok _ _ _ _ (ctxArg_ok hlt hz), vet_ok (s.pass dt) _ hk, hm]
  dsimp only
  rw [need_ok _ _ _ _ (decide_eq_true ⟨hlow, hhigh⟩), need_ok _ _ _ _ (by rw [ctx_pass, hidle]; rfl), need_ok _ _ _ _ hall]
  rfl

/-- A second preview of a context is refused (R369). -/
theorem previewStart_refuses (h : HoldsDma s w c 0x0904 16 l a) (hk : s.pwr.kind ≠ 2) (hi : u8 a 0 = i) (hlt : i < 16) (hz : fld a 1 15 = 0)
    (hm : follow l chain = some m) (hlow : 2 ≤ m.length) (hhigh : m.length ≤ 15) (hruns : (s.ctx i).prev ≠ none) :
    ∃ t, exec (.cameraPreviewStart dt w chain) s = .next t ∧ Answered (s.pass dt) t w c St.state [] := by
  subst hi
  refine ⟨_, rfl, (h.pass dt).answered ?_⟩
  dsimp only
  rw [h.dmaForm, need_ok _ _ _ _ (ctxArg_ok hlt hz), vet_ok (s.pass dt) _ hk, hm]
  dsimp only
  rw [need_ok _ _ _ _ (decide_eq_true ⟨hlow, hhigh⟩), need_refuses _ _ _ _ (by rw [ctx_pass]; exact Option.isNone_eq_false_iff.2 (Option.isSome_iff_ne_none.2 hruns))]
  rfl

/-- Preview stop ends the preview (R369). -/
theorem previewStop_stops (h : Holds s w c 0x0905 4) (hk : s.pwr.kind ≠ 2) (hi : u8 c.pay 0 = i) (hlt : i < 16) (hz : fld c.pay 1 3 = 0) :
    ∃ t, exec (.cameraPreviewStop dt w) s = .next t ∧ Answered ((s.pass dt).setCtx i { s.ctx i with prev := none }) t w c St.ok [] := by
  refine ⟨_, rfl, runCmd_answered (h.pass dt) ?_⟩
  dsimp only
  rw [h.plain, hi, need_ok _ _ _ _ (decide_eq_true ⟨hlt, hz⟩), vet_ok (s.pass dt) _ hk]
  rfl

/-- A capture waits in its context until its frame or its timeout (R370). -/
theorem capture_waits {ms : Nat} (h : HoldsDma s w c 0x0906 16 l a) (hroom : HasRoom s w) (hk : s.pwr.kind ≠ 2) (hi : u8 a 0 = i) (hlt : i < 16)
    (hz1 : u8 a 1 = 0) (hms : u16 a 2 = ms) (hlow : 1 ≤ ms) (hhigh : ms ≤ 60000) (hz4 : fld a 4 12 = 0) (hm : follow l chain = some m)
    (hfits : s.streamBytes i 3 ≤ total m) :
    ∃ t, exec (.cameraCapture dt w chain) s = .next t ∧
      Waiting ((s.pass dt).setCtx i { s.ctx i with capt := (s.ctx i).capt ++
        [{ who := w, seq := c.seq, bufs := m.map (fun d => (BitVec.ofNat 64 d.addr, d.bytes)), ends := (s.pass dt).now + ms * perMs }] }) t w c i [] [] := by
  refine ⟨_, rfl, (h.pass dt).waiting (hroom.pass dt) ?_⟩
  dsimp only
  rw [h.dmaForm, hi, hms, need_ok _ _ _ _ (decide_eq_true ⟨hlt, hz1, hlow, hhigh, hz4⟩), vet_ok (s.pass dt) _ hk, hasQueue_ok _ _ _ (hroom.pass dt), hm]
  dsimp only
  rw [need_ok _ _ _ _ (decide_eq_true (show (s.pass dt).streamBytes i 3 ≤ total m from hfits))]
  rfl

/-- A capture completes TIMEOUT when its time is over, and not before (R370). -/
theorem captureTimeout_ends {q : Capture} (hp : s.pend? w seq = some p) (hq : ∃ q, (s.ses w).cq = some q) (hop : p.cmd.op = 0x0906)
    (hfind : (s.ctx p.obj.toNat).capt.find? (fun q => q.who == w && q.seq == seq) = some q) :
    ((s.pass dt).now < q.ends → exec (.cameraCaptureTimeout dt w seq) s = .next (s.pass dt)) ∧
    (q.ends ≤ (s.pass dt).now → ∃ t, exec (.cameraCaptureTimeout dt w seq) s = .next t ∧
      Posted ((s.pass dt).setCtx p.obj.toNat { s.ctx p.obj.toNat with capt := (s.ctx p.obj.toNat).capt.filter (fun q => !(q.who == w && q.seq == seq)) }) t p
        St.timeout p.obj.toNat 0 (idLoupe + s.parFrame (P.inspectCtxPipe p.obj.toNat))) := by
  have hfind' : ((s.pass dt).ctx p.obj.toNat).capt.find? (fun q => q.who == w && q.seq == seq) = some q := hfind
  refine ⟨fun hearly => congrArg Host.Outcome.next ?_, fun hend => ⟨_, rfl, finish_posted dt hp hq (by simp [hop]) (by rw [setCtx_ses, pass_ses]) ?_⟩⟩
  · have hp' : (s.pass dt).pend? w seq = some p := hp
    rw [finish_some _ _ _ _ _ _ hp' (by simp [hop])]
    dsimp only
    rw [hfind']
    exact if_pos hearly
  · dsimp only
    rw [hfind']
    exact if_neg (Nat.not_lt.2 hend)

/-! ### The NOZZLE ring -/

/-- NOZZLE setup reserves the ring in the stage region, while the stream is off (R368). -/
theorem nozzleSetup_reserves {n b : Nat} (h : Holds s w c 0x0907 8) (hk : s.pwr.kind ≠ 2) (hi : u8 c.pay 0 = i) (hlt : i < 16) (hz : u8 c.pay 1 = 0)
    (hn : u16 c.pay 2 = n) (hb : u32 c.pay 4 = b) (hoff : s.nozzleOn i = false)
    (hroom : n = 0 ∨ 2 ≤ n ∧ n ≤ 1024 ∧ s.stageUsed - (s.ctx i).ringN * (s.ctx i).ringB + n * b ≤ s.stageSize) :
    ∃ t, exec (.cameraNozzleSetup dt w) s = .next t ∧
      Answered ((s.pass dt).setCtx i { s.ctx i with ringN := n, ringB := if n = 0 then 0 else b, ring := [] }) t w c St.ok [] := by
  have hform : n = 0 ∨ 2 ≤ n ∧ n ≤ 1024 := hroom.imp_right fun ⟨hlow, hhigh, _⟩ => ⟨hlow, hhigh⟩
  have hfree : (!(s.pass dt).nozzleOn i) = true := by rw [show (s.pass dt).nozzleOn i = false from hoff]; rfl
  refine ⟨_, rfl, runCmd_answered (h.pass dt) ?_⟩
  dsimp only
  rw [h.plain, hi, hn, hb, need_ok _ _ _ _ (decide_eq_true ⟨hlt, hz, hform⟩), vet_ok (s.pass dt) _ hk, need_ok _ _ _ _ hfree]
  by_cases h0 : n = 0
  · rw [if_pos h0, if_pos h0, h0]
    rfl
  · obtain ⟨-, -, hfits⟩ := hroom.resolve_left h0
    have hfits' : (s.pass dt).stageUsed - ((s.pass dt).ctx i).ringN * ((s.pass dt).ctx i).ringB + n * b ≤ (s.pass dt).stageSize := hfits
    rw [if_neg h0, if_neg h0, need_ok _ _ _ _ (decide_eq_true hfits')]
    rfl

/-- NOZZLE setup is refused while the stream is on, and without the room (R368). -/
theorem nozzleSetup_refuses {n b : Nat} (h : Holds s w c 0x0907 8) (hk : s.pwr.kind ≠ 2) (hi : u8 c.pay 0 = i) (hlt : i < 16) (hz : u8 c.pay 1 = 0)
    (hn : u16 c.pay 2 = n) (hb : u32 c.pay 4 = b) :
    (s.nozzleOn i = true → n = 0 ∨ 2 ≤ n ∧ n ≤ 1024 → ∃ t, exec (.cameraNozzleSetup dt w) s = .next t ∧ Answered (s.pass dt) t w c St.state []) ∧
    (s.nozzleOn i = false → 2 ≤ n → n ≤ 1024 → s.stageSize < s.stageUsed - (s.ctx i).ringN * (s.ctx i).ringB + n * b →
      ∃ t, exec (.cameraNozzleSetup dt w) s = .next t ∧ Answered (s.pass dt) t w c St.noSpace []) := by
  refine ⟨fun hon hform => ⟨_, rfl, runCmd_answered (h.pass dt) ?_⟩, fun hoff hlow hhigh hfull => ⟨_, rfl, runCmd_answered (h.pass dt) ?_⟩⟩
  · dsimp only
    rw [h.plain, hi, hn, hb, need_ok _ _ _ _ (decide_eq_true ⟨hlt, hz, hform⟩), vet_ok (s.pass dt) _ hk,
      need_refuses _ _ _ _ (by rw [show (s.pass dt).nozzleOn i = true from hon]; rfl)]
    rfl
  · have hfull' : (s.pass dt).stageSize < (s.pass dt).stageUsed - ((s.pass dt).ctx i).ringN * ((s.pass dt).ctx i).ringB + n * b := hfull
    dsimp only
    rw [h.plain, hi, hn, hb, need_ok _ _ _ _ (decide_eq_true ⟨hlt, hz, Or.inr ⟨hlow, hhigh⟩⟩), vet_ok (s.pass dt) _ hk,
      need_ok _ _ _ _ (by rw [show (s.pass dt).nozzleOn i = false from hoff]; rfl), if_neg (by omega),
      need_refuses _ _ _ _ (decide_eq_false (Nat.not_le.2 hfull'))]
    rfl

/-- Settles O36: a lemma for each row. -/
theorem cameraCommandsAnswer : Obligations.CameraCommandsAnswer := by
  refine ⟨?_, ?_, ?_, ?_, ?_, ?_, ?_, ?_, ?_, ?_, ?_, ?_, ?_⟩
  · intro dt i k w s c h hkind hi hlt hk hk8 hz
    exact cameraStatus_answers h hkind hi hlt hk hk8 hz
  · intro dt w s c l h hroom hk hlen
    exact defectLoad_waits h hroom hk hlen
  · intro dt w seq chain data b d s p hp hq hop hb hlen hd
    exact defectLoad_replaces hp hq hop hb hlen hd
  · intro dt w seq chain data b s p hp hq hop hb hlen hd
    exact defectLoad_refuses hp hq hop hb hlen hd
  · intro dt i w s c l a h hroom hk hi hlt hz hlen
    exact shadingLoad_waits h hroom hk hi hlt hz hlen
  · rintro dt i w seq chain data b s p hp hq hop rfl hb hlen
    exact shadingLoad_replaces hp hq hop hb hlen
  · intro dt i w chain s c l m a h hk hi hlt hz hm hlow hhigh hroom hidle
    exact previewStart_starts h hk hi hlt hz hm hlow hhigh hroom hidle
  · intro dt i w chain s c l m a h hk hi hlt hz hm hlow hhigh hruns
    exact previewStart_refuses h hk hi hlt hz hm hlow hhigh hruns
  · intro dt i w s c h hk hi hlt hz
    exact previewStop_stops h hk hi hlt hz
  · intro dt i ms w chain s c l m a h hroom hk hi hlt hz1 hms hlow hhigh hz4 hm hfits
    exact capture_waits h hroom hk hi hlt hz1 hms hlow hhigh hz4 hm hfits
  · rintro dt i w seq s p q hp hq hop rfl hfind
    exact captureTimeout_ends hp hq hop hfind
  · intro dt i n b w s c h hk hi hlt hz hn hb hoff hroom
    exact nozzleSetup_reserves h hk hi hlt hz hn hb hoff hroom
  · intro dt i n b w s c h hk hi hlt hz hn hb
    exact nozzleSetup_refuses h hk hi hlt hz hn hb

end Sys2Proof.Machine
end

section
/-!
# Camera frames: the banks, the triggers and the delivery (R346 to R354, R366 to R368)
-/
namespace Sys2Proof.Machine

/-! ### Maps -/

/-- A filter on keys keeps what its keys list. -/
theorem look_filter {α : Type} (m : SMap α) (p : Nat → Bool) (k : Nat) : look (m.filter (fun e => p e.1)) k = if p k = true then look m k else none := by
  induction m with
  | nil => simp [look]
  | cons e m ih =>
    obtain ⟨j, v⟩ := e
    by_cases hj : p j = true
    · rw [List.filter_cons_of_pos (by exact hj)]
      by_cases hjk : j = k
      · subst hjk
        simp [look, hj]
      · simp [look, hjk, ih]
    · rw [List.filter_cons_of_neg (by exact hj), ih]
      by_cases hjk : j = k
      · subst hjk
        simp [hj]
      · simp [look, hjk]

/-- A key below every key listed is not listed. -/
theorem look_none {α : Type} {m : SMap α} {k : Nat} (h : ∀ j ∈ m.map Prod.fst, j ≠ k) : look m k = none := by
  induction m with
  | nil => rfl
  | cons e m ih =>
    obtain ⟨j, v⟩ := e
    have hj : j ≠ k := h j (by simp)
    simp only [look, if_neg hj]
    exact ih fun x hx => h x (List.mem_cons_of_mem j hx)

/-- A map written over another: what it lists, and the other elsewhere. -/
theorem look_foldl_put {α : Type} (l : SMap α) (hl : SMapWf l) (m : SMap α) (k : Nat) :
    look (l.foldl (fun m e => put m e.1 e.2) m) k = (look l k).or (look m k) := by
  induction l generalizing m with
  | nil => rfl
  | cons e l ih =>
    obtain ⟨j, v⟩ := e
    obtain ⟨hlow, hrest⟩ := List.pairwise_cons.1 hl
    rw [List.foldl_cons, ih hrest]
    by_cases hj : j = k
    · subst hj
      rw [look_none fun x hx => (hlow x hx).ne', look_put_same]
      simp [look]
    · rw [look_put_other _ _ _ _ (Ne.symm hj)]
      simp [look, hj]

/-! ### Contexts -/

variable {s t : State} {c : Nat}

theorem setCtx_setCtx (s : State) (c : Nat) (x y : Ctx) : (s.setCtx c x).setCtx c y = s.setCtx c y := by
  unfold State.setCtx
  rw [put_put]

theorem ctx_setCtx_same (s : State) (c : Nat) (x : Ctx) : (s.setCtx c x).ctx c = x := sel_put_same _ _ _ _

/-- A context's streams depend on the parameters and the frame alone. -/
theorem stream_of_params (h : t.params = s.params) (c k : Nat) (f : Frame) : t.stream c k f = s.stream c k f := by
  have hread : t.stream c k f = ({ s with params := t.params } : State).stream c k f := rfl
  rw [hread, h]

/-- A frame whose streams are off goes nowhere. -/
theorem deliverFrame_none (hit : State → Nat → Nat → State) {f : Frame} (h : ∀ k, k < 4 → s.stream c k f = none) (busy : Bool) :
    s.deliverFrame hit c f busy = s := by
  unfold State.deliverFrame
  simp only [h 0 (by decide), h 1 (by decide), h 2 (by decide), h 3 (by decide)]

/-- A frame start takes the pending bank as the active bank of its context (R349). -/
theorem look_latchBank (s : State) (c id : Nat) (h : SMapWf s.params.acc) :
    look (s.latchBank c).params.frame id = (if ctxOfParam id = some c then look s.params.acc id else look s.params.frame id) := by
  have hwf : SMapWf (s.params.acc.filter fun e => ctxOfParam e.1 == some c) := h.sublist (List.Sublist.map _ List.filter_sublist)
  unfold State.latchBank
  dsimp only
  rw [look_foldl_put _ hwf, look_filter _ (fun j => ctxOfParam j == some c), look_filter _ (fun j => ctxOfParam j != some c)]
  by_cases hid : ctxOfParam id = some c
  · simp [hid]
  · simp [hid]

/-! ### A frame starts -/

/-- The trigger record that a frame start takes of a context, and the records left (R354): none while no output is bound. -/
def TriggerTaken (u : State) (c line : Nat) (tr : List (Nat × Nat)) : Prop :=
  (u.parFrame (P.inspectCtxTrig c) = 0xFF ∧ line = 0xFFFFFFFF ∧ tr = (u.ctx c).trigs) ∨
  (u.parFrame (P.inspectCtxTrig c) ≠ 0xFF ∧ (∀ r ∈ (u.ctx c).trigs, u.t32ns ≤ r.2 + u.parFrame (P.inspectCtxTrigLatencyNs c)) ∧
    match (u.ctx c).trigs.find? (fun r => decide (r.2 ≤ u.t32ns)) with
    | some r => line = r.1 ∧ tr = (u.ctx c).trigs.erase r
    | none => line = 0xFFFFFFFF ∧ tr = (u.ctx c).trigs)

/-- With no record too old the match leaves the records but the one found. -/
theorem matchTrigger_takes {line : Nat} {tr : List (Nat × Nat)} (h : TriggerTaken s c line tr) :
    s.matchTrigger c = (s, line) ∧ tr = (s.ctx c).trigs ∨ s.matchTrigger c = (s.setCtx c { s.ctx c with trigs := tr }, line) := by
  unfold State.matchTrigger
  rcases h with ⟨hoff, hline, htr⟩ | ⟨hon, hyoung, hmatch⟩
  · refine Or.inl ⟨?_, htr⟩
    rw [if_pos hoff, hline]
  · refine Or.inr ?_
    have hlive : (s.ctx c).trigs.filter (fun r => !decide (r.2 + s.parFrame (P.inspectCtxTrigLatencyNs c) < s.t32ns)) = (s.ctx c).trigs :=
      List.filter_eq_self.2 fun r hr => by simp [hyoung r hr]
    have hnone : (s.ctx c).trigs.any (fun r => decide (r.2 + s.parFrame (P.inspectCtxTrigLatencyNs c) < s.t32ns)) = false :=
      List.any_eq_false.2 fun r hr => by simp [hyoung r hr]
    rw [if_neg hon]
    dsimp only
    rw [hlive, hnone]
    cases hfind : (s.ctx c).trigs.find? (fun r => decide (r.2 ≤ s.t32ns)) with
    | none =>
      rw [hfind] at hmatch
      obtain ⟨rfl, rfl⟩ := hmatch
      rfl
    | some r =>
      rw [hfind] at hmatch
      obtain ⟨rfl, rfl⟩ := hmatch
      rfl

/-- The context with its new frame (R350, R351, R370). -/
def opened (u : State) (c line : Nat) (tr : List (Nat × Nat)) : Ctx :=
  { u.ctx c with
    trigs := tr
    frame := some { count := (u.ctx c).frames, t0 := u.t32, line := line, flags := if line = 0xFFFFFFFF then flUntrig else 0, shade := (u.ctx c).shade,
                    defs := ctxDefs u.cam.defs c }
    dropping := false
    frames := ((u.ctx c).frames + 1) % 2 ^ 32
    pulseAt := none
    capt := (u.ctx c).capt.map (fun q => { q with armed := true }) }

/-- A frame start closes an open frame, latches the bank and opens a frame (R349 to R351). -/
theorem startFrame_opens {port vc line : Nat} {busy : Bool} {tr : List (Nat × Nat)} {u : State}
    (hu : u = (s.closeFrame State.fault c true busy).latchBank c) (hbound : c ∈ u.ctxsOn port vc) (hruns : u.loupeOn c = true)
    (htrig : TriggerTaken u c line tr) : s.startFrame port vc c busy = u.setCtx c (opened u c line tr) := by
  unfold State.startFrame
  dsimp only
  rw [← hu, if_neg (by simp [hbound, hruns])]
  rcases matchTrigger_takes htrig with ⟨hmatch, rfl⟩ | hmatch
  · rw [hmatch]
    rfl
  · rw [hmatch]
    dsimp only
    rw [ctx_setCtx_same, setCtx_setCtx]
    rfl

/-- The contexts that a frame start concerns, when one alone is bound. -/
theorem startOrder_one {l m : List Nat} (hc : c < 16) (h : ∀ x, x < 16 → ((x ∈ l ∨ x ∈ m) ↔ x = c)) :
    (List.range 16).filter ((l ++ m).eraseDups).contains = [c] :=
  filter_one 16 c _ hc fun k hk => by
    rw [List.contains_iff_mem, List.mem_eraseDups, List.mem_append]
    exact h k hk

/-- A frame start of the one context bound to its port and channel. -/
theorem frameStart_opens {dt line : Nat} {tr : List (Nat × Nat)} {port : Fin 4} {vc : Fin 16} {busy : List (Fin 16)} {u : State} (hport : s.portOn port.val = true)
    (hone : ∀ x, x < 16 → ((x ∈ s.ctxsOn port.val vc.val ∨ x ∈ s.ctxsPending port.val vc.val) ↔ x = c)) (hc : c < 16)
    (hu : u = ((s.pass dt).closeFrame State.fault c true (busy.any (fun b => b.val == c))).latchBank c) (hbound : c ∈ u.ctxsOn port.val vc.val)
    (hruns : u.loupeOn c = true) (htrig : TriggerTaken u c line tr) : exec (.csiFrameStart dt port vc busy) s = .next (u.setCtx c (opened u c line tr)) := by
  refine (if_neg (by rw [show (s.pass dt).portOn port.val = true from hport]; decide)).trans ?_
  rw [show (List.range 16).filter (((s.pass dt).ctxsOn port.val vc.val ++ (s.pass dt).ctxsPending port.val vc.val).eraseDups).contains = [c] from
    startOrder_one hc hone, List.foldl_cons, List.foldl_nil, startFrame_opens hu hbound hruns htrig]

/-- A frame start for no context, or on a port that is off, does nothing. -/
theorem frameStart_ignored {dt : Nat} {port : Fin 4} {vc : Fin 16} {busy : List (Fin 16)}
    (h : s.portOn port.val = false ∨ s.ctxsOn port.val vc.val = [] ∧ s.ctxsPending port.val vc.val = []) :
    exec (.csiFrameStart dt port vc busy) s = .next (s.pass dt) := by
  by_cases hport : s.portOn port.val = true
  · obtain ⟨hon, hpend⟩ := h.resolve_left (by rw [hport]; decide)
    refine (if_neg (by rw [show (s.pass dt).portOn port.val = true from hport]; decide)).trans ?_
    rw [show (s.pass dt).ctxsOn port.val vc.val = [] from hon, show (s.pass dt).ctxsPending port.val vc.val = [] from hpend]
    rfl
  · exact if_pos (by rw [show (s.pass dt).portOn port.val = false from Bool.eq_false_iff.2 hport]; rfl)

/-! ### A frame ends -/

/-- A frame end, by the contexts of its port and channel with a frame open or dropped (R351). -/
theorem frameEnd_ends {dt : Nat} {port : Fin 4} {vc : Fin 16} {busy : List (Fin 16)} (hport : s.portOn port.val = true)
    (hopen : (s.ctxsOn port.val vc.val).filter (fun c => (s.ctx c).frame.isSome || (s.ctx c).dropping) = [c]) :
    exec (.csiFrameEnd dt port vc busy) s = .next (if (s.ctx c).dropping then (s.pass dt).setCtx c { s.ctx c with dropping := false }
      else (s.pass dt).closeFrame State.fault c false (busy.any (fun b => b.val == c))) := by
  refine (if_neg (by rw [show (s.pass dt).portOn port.val = true from hport]; decide)).trans ?_
  rw [show ((s.pass dt).ctxsOn port.val vc.val).filter (fun c => ((s.pass dt).ctx c).frame.isSome || ((s.pass dt).ctx c).dropping) = [c] from hopen]
  rfl

/-- A stray frame end is discarded and counted; none is taken on a port that is off (R346, R351). -/
theorem frameEnd_stray {dt : Nat} {port : Fin 4} {vc : Fin 16} {busy : List (Fin 16)} :
    (s.portOn port.val = false → exec (.csiFrameEnd dt port vc busy) s = .next (s.pass dt)) ∧
    (s.portOn port.val = true → (∀ c ∈ s.ctxsOn port.val vc.val, (s.ctx c).frame = none ∧ (s.ctx c).dropping = false) →
      exec (.csiFrameEnd dt port vc busy) s = .next ((s.pass dt).setPort port.val { s.port port.val with disc := sat 32 ((s.port port.val).disc + 1) })) := by
  refine ⟨fun hoff => if_pos (by rw [show (s.pass dt).portOn port.val = false from hoff]; rfl), fun hport hnone => ?_⟩
  have hclosed : (s.ctxsOn port.val vc.val).filter (fun c => (s.ctx c).frame.isSome || (s.ctx c).dropping) = [] :=
    List.filter_eq_nil_iff.2 fun c hc => by simp [hnone c hc]
  refine (if_neg (by rw [show (s.pass dt).portOn port.val = true from hport]; decide)).trans ?_
  rw [show ((s.pass dt).ctxsOn port.val vc.val).filter (fun c => ((s.pass dt).ctx c).frame.isSome || ((s.pass dt).ctx c).dropping) = [] from hclosed]
  rfl

/-! ### A frame closes -/

/-- A context after its frame closed with flags and end time `g`, and before any stream of it leaves (R351). -/
def closed (x : Ctx) (f g : Frame) (short : Nat) : Ctx := { x with frame := none, lastF := { g with rows := [] }, short := short, emb := f.emb, embF := f.count }

/-- A frame of full height closes without a record, and its streams leave (R351). -/
theorem closeFrame_full {noEnd busy : Bool} {f g : Frame} {x : Ctx} (hx : s.ctx c = x) (hf : x.frame = some f)
    (hfull : s.parFrame (P.inspectCtxHeight c) ≤ f.lines) (hg : g = { f with flags := withExclude (f.flags ||| 0 ||| if noEnd then flNoEnd else 0), t1 := s.t32 }) :
    s.closeFrame State.fault c noEnd busy = (s.setCtx c (closed x f g x.short)).deliverFrame State.fault c g busy := by
  subst hx hg
  unfold State.closeFrame
  dsimp only
  rw [hf]
  simp only [Nat.not_lt.2 hfull, decide_false, Bool.false_eq_true, if_false]
  rfl

/-- What the MEASURE and NOZZLE streams of a frame leave of its context (R367, R368). -/
def delivered (y : Ctx) (m n : Option Stream) : Ctx :=
  { y with
    meas := (match m with | some m => (if 2 ≤ y.meas.length then y.meas.drop 1 else y.meas) ++ [m] | none => y.meas)
    overrun := (match m with | some _ => if 2 ≤ y.meas.length then sat 32 (y.overrun + 1) else y.overrun | none => y.overrun)
    ring := (match n with | some n => if y.ringN = 0 then y.ring else y.ring ++ [n] | none => y.ring) }

/-- The MEASURE memory takes a frame (R367). -/
theorem measure_eq (y : Ctx) (m : Stream) : y.measure m = delivered y (some m) none := by
  unfold Ctx.measure delivered measDepth
  by_cases hfull : 2 ≤ y.meas.length
  · rw [if_pos hfull, if_pos hfull, if_pos hfull]
  · rw [if_neg hfull, if_neg hfull, if_neg hfull]

/-- The NOZZLE ring takes a frame where it has a free buffer (R368). -/
theorem nozzleOut_eq {y : Ctx} {n : Stream} (hroom : y.ringN = 0 ∨ y.ring.length < y.ringN) :
    (s.setCtx c y).nozzleOut State.fault c n = s.setCtx c (delivered y none (some n)) := by
  unfold State.nozzleOut delivered
  simp only [ctx_setCtx_same, setCtx_setCtx]
  by_cases h0 : y.ringN = 0
  · rw [if_pos h0, if_pos h0]
  · rw [if_neg h0, if_neg h0, if_pos (hroom.resolve_left h0)]

/-- The frame's delivery while neither preview nor capture takes it (R367, R368). -/
theorem deliverFrame_measures {g : Frame} {busy : Bool} {y : Ctx} (hpreview : s.stream c 2 g = none) (hcapture : s.stream c 3 g = none)
    (hroom : ∀ m, s.stream c 1 g = some m → y.ringN = 0 ∨ y.ring.length < y.ringN) :
    (s.setCtx c y).deliverFrame State.fault c g busy = s.setCtx c (delivered y (s.stream c 0 g) (s.stream c 1 g)) := by
  have hstream : ∀ k, (s.setCtx c y).stream c k g = s.stream c k g := fun k => stream_of_params rfl c k g
  unfold State.deliverFrame
  simp only [hstream, hpreview, hcapture, ctx_setCtx_same, setCtx_setCtx]
  cases hm : s.stream c 0 g with
  | none =>
    cases hn : s.stream c 1 g with
    | none => rfl
    | some n => exact nozzleOut_eq (hroom n hn)
  | some m =>
    dsimp only
    rw [measure_eq]
    cases hn : s.stream c 1 g with
    | none => rfl
    | some n => exact nozzleOut_eq (y := delivered y (some m) none) (hroom n hn)

/-- A short frame is counted and recorded (R351). -/
theorem closeFrame_short {noEnd busy : Bool} {f g : Frame} {x : Ctx} (hx : s.ctx c = x) (hf : x.frame = some f)
    (hshort : f.lines < s.parFrame (P.inspectCtxHeight c))
    (hg : g = { f with flags := withExclude (f.flags ||| flShort ||| if noEnd then flNoEnd else 0), t1 := s.t32 }) (hnone : ∀ t, t < 4 → s.stream c t g = none)
    (htakes : Takes s F.frameShort c idNone) :
    Recorded (s.setCtx c (closed x f g (sat 32 (x.short + 1)))) (s.closeFrame State.fault c noEnd busy) F.frameShort c idNone 0 := by
  have hfrom : Takes (s.setCtx c (closed x f g (sat 32 (x.short + 1)))) F.frameShort c idNone := takes_frame s _ _ _ _ rfl rfl htakes
  have hparams := (fault_touched _ _ c hfrom.calm).fields.1
  have hclosed : s.closeFrame State.fault c noEnd busy = (s.setCtx c (closed x f g (sat 32 (x.short + 1)))).fault F.frameShort c := by
    subst hx hg
    unfold State.closeFrame
    dsimp only
    rw [hf]
    simp only [hshort, decide_true, if_true]
    exact deliverFrame_none _ (fun k hk => (stream_of_params (hparams.trans rfl) c k _).trans (hnone k hk)) busy
  rw [hclosed]
  exact fault_recorded hfrom

/-! ### What a port counts -/

/-- A D-PHY error is counted and recorded (R346). -/
theorem phyErr_counts {dt : Nat} {port : Fin 4} :
    (s.portOn port.val = false → exec (.csiPhyErr dt port) s = .next (s.pass dt)) ∧
    (s.portOn port.val = true → Takes s F.csiPhyErr port.val idNone → ∃ t, exec (.csiPhyErr dt port) s = .next t ∧
      Recorded ((s.pass dt).setPort port.val { s.port port.val with phy := sat 32 ((s.port port.val).phy + 1) }) t F.csiPhyErr port.val idNone 0) :=
  ⟨fun hoff => if_pos (by rw [show (s.pass dt).portOn port.val = false from hoff]; rfl),
    fun hport htakes => ⟨_, if_neg (by rw [show (s.pass dt).portOn port.val = true from hport]; decide),
      fault_recorded (takes_frame s _ _ _ _ rfl rfl htakes)⟩⟩

/-- A trigger pulse without a frame within the timeout is recorded at most once a second (R353). -/
theorem noFrame_records {dt at' : Nat} {c : Fin 16} (hpulse : (s.ctx c.val).pulseAt = some at') (hms : s.parFrame (P.inspectCtxFrameTimeoutMs c.val) ≠ 0)
    (htrig : s.parFrame (P.inspectCtxTrig c.val) ≠ 0xFF) (hlate : at' + s.parFrame (P.inspectCtxFrameTimeoutMs c.val) * perMs ≤ (s.pass dt).now) :
    ((∃ u, (s.ctx c.val).noFrameAt = some u ∧ (s.pass dt).now < u + perSecond) →
      exec (.camNoFrame dt c) s = .next ((s.pass dt).setCtx c.val { s.ctx c.val with pulseAt := none })) ∧
    ((∀ u, (s.ctx c.val).noFrameAt = some u → u + perSecond ≤ (s.pass dt).now) → Takes s F.camNoFrame c.val idNone →
      ∃ t, exec (.camNoFrame dt c) s = .next t ∧
        Recorded ((s.pass dt).setCtx c.val { s.ctx c.val with pulseAt := none, noFrameAt := some (s.pass dt).now }) t F.camNoFrame c.val idNone 0) := by
  have hdue : ¬((s.pass dt).parFrame (P.inspectCtxFrameTimeoutMs c.val) = 0 ∨ (s.pass dt).parFrame (P.inspectCtxTrig c.val) = 0xFF ∨
      (s.pass dt).now < at' + (s.pass dt).parFrame (P.inspectCtxFrameTimeoutMs c.val) * perMs) := by
    rintro (h | h | h)
    · exact hms h
    · exact htrig h
    · exact absurd h (Nat.not_lt.2 hlate)
  have hexec : exec (.camNoFrame dt c) s = (
      if (match (s.ctx c.val).noFrameAt with | some u => decide ((s.pass dt).now < u + perSecond) | none => false) = true then
        .next ((s.pass dt).setCtx c.val { s.ctx c.val with pulseAt := none })
      else .next (((s.pass dt).setCtx c.val { s.ctx c.val with pulseAt := none, noFrameAt := some (s.pass dt).now }).fault F.camNoFrame c.val)) := by
    change execCamNoFrame dt c s = _
    unfold execCamNoFrame
    simp only [ctx_pass, hpulse, ctx_setCtx_same, setCtx_setCtx]
    rw [if_neg hdue]
    rfl
  rw [hexec]
  refine ⟨?_, fun hold htakes => ⟨_, if_neg ?_, fault_recorded (takes_frame s _ _ _ _ rfl rfl htakes)⟩⟩
  · rintro ⟨u, hu, hrecent⟩
    rw [hu]
    exact if_pos (decide_eq_true hrecent)
  · cases hu : (s.ctx c.val).noFrameAt with
    | none => exact Bool.false_ne_true
    | some u => simpa using hold u hu

/-- Before the timeout nothing is recorded. -/
theorem noFrame_waits {dt : Nat} {c : Fin 16}
    (h : ∀ a, (s.ctx c.val).pulseAt = some a → (s.pass dt).now < a + s.parFrame (P.inspectCtxFrameTimeoutMs c.val) * perMs) :
    exec (.camNoFrame dt c) s = .next (s.pass dt) := by
  change execCamNoFrame dt c s = _
  unfold execCamNoFrame
  simp only [ctx_pass]
  cases hpulse : (s.ctx c.val).pulseAt with
  | none => rfl
  | some a => exact if_pos (Or.inr (Or.inr (h a hpulse)))

/-- Settles O37: the bank, the frame start, the frame end, the close, and what a port counts. -/
theorem framesOpenAndClose : Obligations.FramesOpenAndClose := by
  refine ⟨look_latchBank, ?_, ?_, ?_, ?_, ?_, ?_, ?_, fun dt port s => phyErr_counts, ?_, fun dt c s h => noFrame_waits h⟩
  · intro dt c line tr port vc busy s u hport hone hc hu hbound hruns htrig
    exact frameStart_opens hport hone hc hu hbound hruns htrig
  · intro dt port vc busy s h
    exact frameStart_ignored h
  · intro dt c port vc busy s f hport hopen _ hdropping
    exact (frameEnd_ends hport hopen).trans (congrArg Host.Outcome.next (if_neg (by rw [hdropping]; decide)))
  · intro dt c port vc busy s hport hopen hdropping
    exact (frameEnd_ends hport hopen).trans (congrArg Host.Outcome.next (if_pos hdropping))
  · intro dt port vc busy s
    exact frameEnd_stray
  · intro c noEnd busy s f g x y hx hf hfull hg hpreview hcapture hroom hy
    subst hy
    exact (closeFrame_full hx hf hfull hg).trans (deliverFrame_measures (y := closed x f g x.short) hpreview hcapture hroom)
  · intro c noEnd busy s f g x hx hf hshort hg hnone htakes
    exact closeFrame_short hx hf hshort hg hnone htakes
  · intro dt at' c s hpulse hms htrig hlate
    exact noFrame_records hpulse hms htrig hlate

end Sys2Proof.Machine
end

section
/-!
# Long packets and the lines of a frame (R346, R351, R352, R355 to R357, R371)
-/
namespace Sys2Proof.Machine

variable {s t u : State} {c n : Nat} {x : Ctx} {f : Frame}

/-! ### Ports and pipelines -/

theorem port_setPort_same (s : State) (p : Nat) (y : CamPort) : (s.setPort p y).port p = y := sel_put_same _ _ _ _

theorem setPort_setPort (s : State) (p : Nat) (y z : CamPort) : (s.setPort p y).setPort p z = s.setPort p z := by
  unfold State.setPort
  rw [put_put]

/-- A pipeline that takes a line touches its context and its turn alone. -/
theorem takeLine_frame (s : State) (c n : Nat) : ∃ ctx rr, s.takeLine c n = { s with cam := { s.cam with ctx := ctx, rr := rr } } := by
  unfold State.takeLine
  dsimp only
  split
  · exact ⟨_, _, rfl⟩
  · exact ⟨s.cam.ctx, s.cam.rr, rfl⟩

/-- Draining the FIFOs touches the contexts and the pipelines' turns alone. -/
theorem drain_frame (l : List (Fin 16 × Nat)) (s : State) : ∃ ctx rr, s.drain l = { s with cam := { s.cam with ctx := ctx, rr := rr } } := by
  unfold State.drain
  induction l generalizing s with
  | nil => exact ⟨s.cam.ctx, s.cam.rr, rfl⟩
  | cons e l ih =>
    obtain ⟨ctx, rr, hstep⟩ := takeLine_frame s e.1.val e.2
    obtain ⟨ctx', rr', hrest⟩ := ih (s.takeLine e.1.val e.2)
    exact ⟨ctx', rr', by rw [List.foldl_cons, hrest, hstep]⟩

/-- The context that a pipeline takes a line from has one. -/
theorem nextCtx_holds {pipe : Nat} (h : s.nextCtx pipe = some c) : c < 16 ∧ (s.ctx c).fifoL ≠ [] := by
  have hmem : c ∈ (List.range 16).filter (fun c => s.parFrame (P.inspectCtxPipe c) == pipe && !(s.ctx c).fifoL.isEmpty) := by
    unfold State.nextCtx at h
    dsimp only at h
    split at h
    · rcases (Option.orElse_eq_some _ _ _).1 h with hfind | ⟨-, hhead⟩
      · exact List.mem_of_find?_eq_some hfind
      · exact List.mem_of_head? hhead
    · exact List.mem_of_head? h
  obtain ⟨hrange, hcond⟩ := List.mem_filter.1 hmem
  refine ⟨List.mem_range.1 hrange, fun hempty => ?_⟩
  rw [hempty] at hcond
  simp at hcond

/-! ### A line enters the FIFO and joins its frame -/

/-- Neither FIFO passes a limit: the line enters its FIFO (R356). -/
theorem enterFifo_enters {busy : List Nat} (hx : s.ctx c = x) (hf : x.frame = some f)
    (hcalm : ¬(1000 * x.fifo ≤ s.par P.inspectFifoPressurePm * 65536 ∧ s.par P.inspectFifoPressurePm * 65536 < 1000 * (x.fifo + n)))
    (hfits : x.fifo + n ≤ 65536) : s.enterFifo c n busy = s.setCtx c { x with fifoL := x.fifoL ++ [n] } := by
  have hopen : x.frame.isSome = true := by rw [hf]; rfl
  unfold State.enterFifo
  simp only [fifoSize, hx, hcalm, decide_false, Bool.false_eq_true, if_false, hopen, true_and, if_neg (Nat.not_lt.2 hfits), if_true]

/-- A line that overflows the FIFO drops the frame (R356). -/
theorem enterFifo_overflows {busy : List Nat} (hx : s.ctx c = x) (hf : x.frame = some f)
    (hcalm : ¬(1000 * x.fifo ≤ s.par P.inspectFifoPressurePm * 65536 ∧ s.par P.inspectFifoPressurePm * 65536 < 1000 * (x.fifo + n)))
    (hover : 65536 < x.fifo + n) : s.enterFifo c n busy = s.dropFrame State.fault c (busy.contains c) := by
  have hopen : x.frame.isSome = true := by rw [hf]; rfl
  unfold State.enterFifo
  simp only [fifoSize, hx, hcalm, decide_false, Bool.false_eq_true, if_false, hopen, true_and, if_pos hover]

/-- The frame with a line, cut or padded to the width (R351). -/
def widened (f : Frame) (w : Nat) (l : List Nat) : Frame :=
  { f with
    rows := f.rows ++ [l.take w ++ List.replicate (w - l.length) 0]
    lines := f.lines + 1
    wide := f.wide || decide (l.length ≠ w)
    flags := if l.length = w then f.flags else f.flags ||| flWidth }

/-- The state after a line joined the open frame of its context, before any record (R351, R364). -/
def State.lineJoined (s : State) (c : Nat) (x : Ctx) (f : Frame) (l : List Nat) : State :=
  let z := s.setCtx c { x with frame := some (widened f (s.parFrame (P.inspectCtxWidth c)) l) }
  { z with cam := { z.cam with
    pix := s.cam.pix.filter (fun e => decide (s.now < e.2.1 + perSecond)) ++ [(s.parFrame (P.inspectCtxPipe c), s.now, s.parFrame (P.inspectCtxWidth c))] } }

/-- A line within the height joins the frame; its first wrong width is recorded (R351). -/
theorem addLine_joins (hx : s.ctx c = x) (hf : x.frame = some f) (hlines : f.lines < s.parFrame (P.inspectCtxHeight c)) (l : List Nat) :
    s.addLine c (some l) = if l.length = s.parFrame (P.inspectCtxWidth c) ∨ f.wide = true then s.lineJoined c x f l
      else (s.lineJoined c x f l).fault F.lineWidth c := by
  have hflags : (if decide (l.length ≠ s.parFrame (P.inspectCtxWidth c)) = true then f.flags ||| flWidth else f.flags) =
      if l.length = s.parFrame (P.inspectCtxWidth c) then f.flags else f.flags ||| flWidth := by
    by_cases h : l.length = s.parFrame (P.inspectCtxWidth c) <;> simp [h]
  have hrecord : (decide (l.length ≠ s.parFrame (P.inspectCtxWidth c)) && !f.wide) = true ↔
      ¬(l.length = s.parFrame (P.inspectCtxWidth c) ∨ f.wide = true) := by simp
  unfold State.addLine
  dsimp only
  rw [hx, hf]
  dsimp only
  rw [if_neg (Nat.not_le.2 hlines), hflags]
  by_cases hok : l.length = s.parFrame (P.inspectCtxWidth c) ∨ f.wide = true
  · rw [if_pos hok]
    exact if_neg (mt hrecord.1 (not_not.2 hok))
  · rw [if_neg hok]
    exact if_pos (hrecord.2 hok)

/-- The context with a copy of the line before in the place of a lost one (R352). -/
def lineCopied (x : Ctx) (f : Frame) (w : Nat) : Ctx :=
  { x with
    frame := some { f with rows := f.rows ++ [(f.rows.getLast?).getD (List.replicate w 0)], lines := f.lines + 1, flags := f.flags ||| flLost }
    lost := sat 32 (x.lost + 1) }

/-- A lost line within the height is a copy of the line before (R352). -/
theorem addLine_copies (hx : s.ctx c = x) (hf : x.frame = some f) (hlines : f.lines < s.parFrame (P.inspectCtxHeight c)) :
    s.addLine c none = s.setCtx c (lineCopied x f (s.parFrame (P.inspectCtxWidth c))) := by
  unfold State.addLine
  dsimp only
  rw [hx, hf]
  exact if_neg (Nat.not_le.2 hlines)

/-- A line past the height is discarded; the frame's first is recorded (R351). -/
theorem addLine_long (hx : s.ctx c = x) (hf : x.frame = some f) (hlines : s.parFrame (P.inspectCtxHeight c) ≤ f.lines) (line : Option (List Nat)) :
    s.addLine c line = if f.flags &&& flLong ≠ 0 then s
      else (s.setCtx c { x with frame := some { f with flags := f.flags ||| flLong }, long := sat 32 (x.long + 1) }).fault F.frameLong c := by
  unfold State.addLine
  dsimp only
  rw [hx, hf]
  exact if_pos hlines

/-- Without an open frame a line goes nowhere. -/
theorem addLine_closed (h : (s.ctx c).frame = none) (line : Option (List Nat)) : s.addLine c line = s := by
  unfold State.addLine
  dsimp only
  rw [h]

/-- The context whose frame was dropped (R356). -/
def frameDropped (x : Ctx) (g : Frame) : Ctx :=
  { x with frame := none, dropping := true, fifoL := [], dropped := sat 32 (x.dropped + 1), lastF := { g with rows := [] } }

/-- A dropped frame without streams is counted and recorded (R356). -/
theorem dropFrame_drops {g : Frame} {busy : Bool} (hx : s.ctx c = x) (hf : x.frame = some f)
    (hg : g = { f with flags := withExclude (f.flags ||| flDropped), t1 := s.t32, rows := f.rows.take (f.rows.length - x.fifoL.length) })
    (hnone : ∀ t, t < 4 → s.stream c t g = none) (htakes : Takes s F.frameDropped c idNone) :
    s.dropFrame State.fault c busy = (s.setCtx c (frameDropped x g)).fault F.frameDropped c := by
  have hfrom : Takes (s.setCtx c (frameDropped x g)) F.frameDropped c idNone := takes_frame s _ _ _ _ rfl rfl htakes
  have hparams := (fault_touched _ _ c hfrom.calm).fields.1
  subst hg
  unfold State.dropFrame
  dsimp only
  rw [hx, hf]
  exact deliverFrame_none _ (fun k hk => (stream_of_params (hparams.trans rfl) c k _).trans (hnone k hk)) busy

/-! ### The packet -/

/-- The drained state reads as the state before: its ports, its parameters and its bindings. -/
structure Drained (s u : State) : Prop where
  params : u.params = s.params
  faults : u.faults = s.faults
  ports : u.cam.ports = s.cam.ports

theorem drained (s : State) (dt : Nat) (l : List (Fin 16 × Nat)) : Drained s ((s.pass dt).drain l) := by
  obtain ⟨ctx, rr, h⟩ := drain_frame l (s.pass dt)
  rw [h]
  exact ⟨rfl, rfl, rfl⟩

theorem Drained.par (h : Drained s u) (k : PKey) : u.par k = s.par k := by rw [State.par, h.params, State.par]

theorem Drained.parFrame (h : Drained s u) (k : PKey) : u.parFrame k = s.parFrame k := by rw [State.parFrame, h.params, State.parFrame]

theorem Drained.port (h : Drained s u) (p : Nat) : u.port p = s.port p := by rw [State.port, h.ports, State.port]

theorem Drained.portOn (h : Drained s u) (p : Nat) : u.portOn p = s.portOn p := by
  simp only [State.portOn, h.par, State.inReset, h.faults]

theorem Drained.loupeOn (h : Drained s u) (c : Nat) : u.loupeOn c = s.loupeOn c := by
  simp only [State.loupeOn, h.parFrame, State.inReset, h.faults]

theorem Drained.ctxsOn (h : Drained s u) (p vc : Nat) : u.ctxsOn p vc = s.ctxsOn p vc := by
  simp only [State.ctxsOn, h.parFrame]

theorem Drained.takes (h : Drained s u) {n a m : Nat} (k : Takes s n a m) : Takes u n a m := takes_frame s u n a m h.faults h.params k

theorem Drained.stream (h : Drained s u) (c k : Nat) (f : Frame) : u.stream c k f = s.stream c k f := stream_of_params h.params c k f

/-- The contexts that a packet's line is for (R346). -/
def State.takers (s : State) (port vc : Nat) (k : CsiPacket) : List Nat :=
  (s.ctxsOn port vc).filter (fun c => k.dataType == 0x12 || s.parFrame (P.inspectCtxDataType c) == k.dataType)

/-- The one context of a packet of samples. -/
theorem takers_samples {port vc : Nat} {k : CsiPacket} (hk : k.dataType ≠ 0x12)
    (hone : (s.ctxsOn port vc).filter (fun c => s.parFrame (P.inspectCtxDataType c) == k.dataType) = [c]) : s.takers port vc k = [c] := by
  rw [← hone]
  unfold State.takers
  simp only [beq_eq_false_iff_ne.2 hk, Bool.false_or]

/-- The one context of a packet of embedded data. -/
theorem takers_embedded {port vc : Nat} {k : CsiPacket} (hk : k.dataType = 0x12) (hone : s.ctxsOn port vc = [c]) : s.takers port vc k = [c] := by
  rw [← hone]
  unfold State.takers
  simp only [hk, beq_self_eq_true, Bool.true_or, List.filter_true]

variable {dt : Nat} {port : Fin 4} {vc : Fin 16} {k : CsiPacket} {dr : List (Fin 16 × Nat)} {busy : List (Fin 16)}

/-- A port that is off takes no packet. -/
theorem longPacket_off (hport : s.portOn port.val = false) (hu : u = (s.pass dt).drain dr) : exec (.csiLongPacket dt port vc k dr busy) s = .next u := by
  subst hu
  exact if_pos (by rw [(drained s dt dr).portOn, hport]; rfl)

/-- The counter of corrected headers (R351). -/
def State.headerCounted (s : State) (port : Nat) (k : CsiPacket) : State :=
  if k.hdr = 1 then s.setPort port { s.port port with corr := sat 32 ((s.port port).corr + 1) } else s

/-- A packet of no listed type, or for no context, is discarded and counted (R346, R351). -/
theorem longPacket_discards (hport : s.portOn port.val = true) (hu : u = (s.pass dt).drain dr) (hhdr : k.hdr < 2)
    (hno : ¬(k.dataType = 0x12 ∨ 0x2A ≤ k.dataType ∧ k.dataType ≤ 0x2E) ∨ s.takers port.val vc.val k = []) :
    exec (.csiLongPacket dt port vc k dr busy) s = .next ((u.headerCounted port.val k).discardPacket port.val) := by
  have hd := drained s dt dr
  rw [← hu] at hd
  change execCsiLongPacket dt port vc k dr busy s = _
  unfold execCsiLongPacket
  dsimp only
  rw [← hu, if_neg (by rw [hd.portOn, hport]; decide), if_neg (by omega)]
  refine if_pos ?_
  rcases hno with hno | hno
  · exact Or.inl (by rw [Bool.not_eq_true', decide_eq_false_iff_not]; exact hno)
  · refine Or.inr ?_
    simp only [hd.ctxsOn, hd.parFrame]
    exact List.isEmpty_iff.2 hno

/-- What a packet does in one context: embedded data, or a line (R351, R352, R356, R371). -/
def State.takePacket (s : State) (port c : Nat) (k : CsiPacket) (busy : List (Fin 16)) : State :=
  let s : State :=
    if k.dataType = 0x12 then s.addEmbedded c k.bytes
    else
      let s := if ((s.ctx c).frame.map Frame.lines).getD 0 < s.parFrame (P.inspectCtxHeight c) then s.enterFifo c k.bytes.length (busy.map Fin.val) else s
      s.addLine c (if 3 ≤ k.hdr then none else some (samples k.dataType k.bytes))
  if k.crcOk then s else s.crcFails port c

/-- The one open context of a packet takes it. -/
theorem longPacket_takes (hport : s.portOn port.val = true) (hu : u = (s.pass dt).drain dr) (hhdr : k.hdr ≠ 2)
    (htype : k.dataType = 0x12 ∨ 0x2A ≤ k.dataType ∧ k.dataType ≤ 0x2E) (hone : s.takers port.val vc.val k = [c]) (hruns : s.loupeOn c = true)
    (hopen : (u.ctx c).frame.isSome = true) :
    exec (.csiLongPacket dt port vc k dr busy) s = .next ((u.headerCounted port.val k).takePacket port.val c k busy) := by
  have hd := drained s dt dr
  rw [← hu] at hd
  have hmine : (u.ctxsOn port.val vc.val).filter (fun c => k.dataType == 0x12 || u.parFrame (P.inspectCtxDataType c) == k.dataType) = [c] := by
    simp only [hd.ctxsOn, hd.parFrame]
    exact hone
  change execCsiLongPacket dt port vc k dr busy s = _
  unfold execCsiLongPacket
  dsimp only
  rw [← hu, if_neg (by rw [hd.portOn, hport]; decide), if_neg hhdr, hmine, if_neg (by simp [htype]), List.filter_cons_of_pos (by rw [hopen, hd.loupeOn, hruns]; rfl)]
  rfl

/-- An uncorrectable header is counted and recorded, and a copy of the line before stands in its place (R352). -/
theorem longPacket_uncorrectable (hport : s.portOn port.val = true) (hu : u = (s.pass dt).drain dr) (hhdr : k.hdr = 2) (htype : k.dataType ≠ 0x12)
    (hone : s.takers port.val vc.val k = [c]) (hruns : s.loupeOn c = true) (hopen : (u.ctx c).frame.isSome = true) :
    exec (.csiLongPacket dt port vc k dr busy) s =
      .next (((u.setPort port.val { s.port port.val with hdr := sat 32 ((s.port port.val).hdr + 1) }).fault F.csiHdrEcc port.val).addLine c none) := by
  have hd := drained s dt dr
  rw [← hu] at hd
  have hmine : (u.ctxsOn port.val vc.val).filter (fun c => k.dataType == 0x12 || u.parFrame (P.inspectCtxDataType c) == k.dataType) = [c] := by
    simp only [hd.ctxsOn, hd.parFrame]
    exact hone
  change execCsiLongPacket dt port vc k dr busy s = _
  unfold execCsiLongPacket
  dsimp only
  rw [← hu, if_neg (by rw [hd.portOn, hport]; decide), if_pos hhdr, if_neg htype, hmine, List.filter_cons_of_pos (by rw [hopen, hd.loupeOn, hruns]; rfl), hd.port]
  rfl

/-! ### A packet of samples -/

/-- The counter of corrected headers touches the ports alone. -/
theorem headerCounted_frame (u : State) (p : Nat) (k : CsiPacket) : ∃ ports, u.headerCounted p k = { u with cam := { u.cam with ports := ports } } := by
  unfold State.headerCounted
  split
  · exact ⟨_, rfl⟩
  · exact ⟨u.cam.ports, rfl⟩

theorem headerCounted_crc (u : State) (p : Nat) (k : CsiPacket) : ((u.headerCounted p k).port p).crc = (u.port p).crc := by
  unfold State.headerCounted
  split
  · rw [port_setPort_same]
  · rfl

theorem headerCounted_clean (u : State) (p : Nat) {k : CsiPacket} (h : k.hdr ≠ 1) : u.headerCounted p k = u := if_neg h

/-- A packet of samples enters the FIFO while the frame has lines to come, and its line joins the frame. -/
theorem takePacket_samples (s : State) (p : Nat) (hk : k.dataType ≠ 0x12) (hx : s.ctx c = x) (hf : x.frame = some f)
    (hlines : f.lines < s.parFrame (P.inspectCtxHeight c)) (hcrc : k.crcOk = true) : s.takePacket p c k busy =
      (s.enterFifo c k.bytes.length (busy.map Fin.val)).addLine c (if 3 ≤ k.hdr then none else some (samples k.dataType k.bytes)) := by
  unfold State.takePacket
  dsimp only
  rw [if_neg hk, if_pos hcrc, if_pos (by rw [hx, hf]; exact hlines)]

/-- A packet of samples whose CRC fails counts and flags it (R352). -/
theorem takePacket_crc (s : State) (p : Nat) (hk : k.dataType ≠ 0x12) (hx : s.ctx c = x) (hf : x.frame = some f)
    (hlines : f.lines < s.parFrame (P.inspectCtxHeight c)) (hcrc : k.crcOk = false) : s.takePacket p c k busy =
      ((s.enterFifo c k.bytes.length (busy.map Fin.val)).addLine c (if 3 ≤ k.hdr then none else some (samples k.dataType k.bytes))).crcFails p c := by
  unfold State.takePacket
  dsimp only
  rw [if_neg hk, if_neg (by rw [hcrc]; decide), if_pos (by rw [hx, hf]; exact hlines)]

/-- A context written before its line joins is written once. -/
theorem lineJoined_setCtx (s : State) (c : Nat) (y x : Ctx) (f : Frame) (l : List Nat) : (s.setCtx c y).lineJoined c x f l = s.lineJoined c x f l := by
  unfold State.lineJoined
  dsimp only
  rw [setCtx_setCtx]
  rfl

/-- A line that fits its FIFO and its frame, up to the records. -/
theorem enterFifo_addLine {l : List Nat} (hx : s.ctx c = x) (hf : x.frame = some f) (hlines : f.lines < s.parFrame (P.inspectCtxHeight c))
    (hcalm : ¬(1000 * x.fifo ≤ s.par P.inspectFifoPressurePm * 65536 ∧ s.par P.inspectFifoPressurePm * 65536 < 1000 * (x.fifo + n)))
    (hfits : x.fifo + n ≤ 65536) (busy : List Nat) :
    (s.enterFifo c n busy).addLine c (some l) =
      if l.length = s.parFrame (P.inspectCtxWidth c) ∨ f.wide = true then s.lineJoined c { x with fifoL := x.fifoL ++ [n] } f l
      else (s.lineJoined c { x with fifoL := x.fifoL ++ [n] } f l).fault F.lineWidth c := by
  rw [enterFifo_enters hx hf hcalm hfits]
  have hjoins := addLine_joins (s := s.setCtx c { x with fifoL := x.fifoL ++ [n] }) (ctx_setCtx_same _ _ _) hf hlines l
  rw [lineJoined_setCtx] at hjoins
  exact hjoins

/-- A failed CRC is counted, flags the frame and is recorded (R352). -/
theorem crcFails_records {v : State} {p n : Nat} (hn : (v.port p).crc = n) (htakes : Takes v F.csiCrc c idNone) :
    Recorded ((v.setPort p { v.port p with crc := sat 32 (n + 1) }).setCtx c { v.ctx c with
      frame := (v.ctx c).frame.map (fun f => { f with flags := f.flags ||| flCrc }) }) (v.crcFails p c) F.csiCrc c idNone 0 := by
  subst hn
  exact fault_recorded (takes_frame v _ _ _ _ rfl rfl htakes)

/-- A packet of samples for one open context, with room in its FIFO and its frame: the hypotheses of its line. -/
structure SampleLine (s u : State) (dt c : Nat) (port : Fin 4) (vc : Fin 16) (k : CsiPacket) (dr : List (Fin 16 × Nat)) (x : Ctx) (f : Frame) : Prop where
  on : s.portOn port.val = true
  after : u = (s.pass dt).drain dr
  one : (s.ctxsOn port.val vc.val).filter (fun c => s.parFrame (P.inspectCtxDataType c) == k.dataType) = [c]
  low : 0x2A ≤ k.dataType
  high : k.dataType ≤ 0x2E
  runs : s.loupeOn c = true
  ctx : u.ctx c = x
  frame : x.frame = some f

/-- Such a packet goes to its context. -/
theorem SampleLine.takes (h : SampleLine s u dt c port vc k dr x f) (hhdr : k.hdr ≠ 2) :
    exec (.csiLongPacket dt port vc k dr busy) s = .next ((u.headerCounted port.val k).takePacket port.val c k busy) := by
  have hk : k.dataType ≠ 0x12 := by have := h.low; omega
  exact longPacket_takes h.on h.after hhdr (Or.inr ⟨h.low, h.high⟩) (takers_samples hk h.one) h.runs (by rw [h.ctx, h.frame]; rfl)

theorem SampleLine.embedded (h : SampleLine s u dt c port vc k dr x f) : k.dataType ≠ 0x12 := by have := h.low; omega

theorem SampleLine.reads (h : SampleLine s u dt c port vc k dr x f) : Drained s u := h.after ▸ drained s dt dr

/-- The line of such a packet joins its frame: cut or padded, its first wrong width recorded, a failed CRC counted and recorded (R351, R352). -/
theorem SampleLine.joins {b v : State} {l : List Nat} (h : SampleLine s u dt c port vc k dr x f) (hhdr : k.hdr < 2)
    (hlines : f.lines < s.parFrame (P.inspectCtxHeight c)) (hl : samples k.dataType k.bytes = l)
    (hcalm : ¬(1000 * x.fifo ≤ s.par P.inspectFifoPressurePm * 65536 ∧ s.par P.inspectFifoPressurePm * 65536 < 1000 * (x.fifo + k.bytes.length)))
    (hfits : x.fifo + k.bytes.length ≤ 65536) (hb : b = u.headerCounted port.val k)
    (hv : v = b.lineJoined c { x with fifoL := x.fifoL ++ [k.bytes.length] } f l) :
    (k.crcOk = true → (l.length = s.parFrame (P.inspectCtxWidth c) ∨ f.wide = true) → exec (.csiLongPacket dt port vc k dr busy) s = .next v) ∧
    (k.crcOk = true → l.length ≠ s.parFrame (P.inspectCtxWidth c) → f.wide = false → Takes s F.lineWidth c idNone →
      ∃ t, exec (.csiLongPacket dt port vc k dr busy) s = .next t ∧ Recorded v t F.lineWidth c idNone 0) ∧
    (k.crcOk = false → (l.length = s.parFrame (P.inspectCtxWidth c) ∨ f.wide = true) → Takes s F.csiCrc c idNone →
      ∃ t, exec (.csiLongPacket dt port vc k dr busy) s = .next t ∧
        Recorded ((v.setPort port.val { v.port port.val with crc := sat 32 ((s.port port.val).crc + 1) }).setCtx c { v.ctx c with
          frame := (v.ctx c).frame.map (fun f => { f with flags := f.flags ||| flCrc }) }) t F.csiCrc c idNone 0) := by
  have hd := h.reads
  obtain ⟨ports, hports⟩ := headerCounted_frame u port.val k
  have hparams : b.params = s.params := by rw [hb, hports]; exact hd.params
  have hfaults : b.faults = s.faults := by rw [hb, hports]; exact hd.faults
  have hframe : ∀ q, b.parFrame q = s.parFrame q := fun q => by rw [State.parFrame, hparams, State.parFrame]
  have hx : b.ctx c = x := by rw [hb, hports]; exact h.ctx
  have hline : (b.enterFifo c k.bytes.length (busy.map Fin.val)).addLine c (if 3 ≤ k.hdr then none else some (samples k.dataType k.bytes)) =
      if l.length = s.parFrame (P.inspectCtxWidth c) ∨ f.wide = true then v else v.fault F.lineWidth c := by
    rw [if_neg (by omega), hl, enterFifo_addLine hx h.frame (by rwa [hframe]) (by rwa [State.par, hparams]) hfits, hframe, ← hv]
  have hvtakes : ∀ {n : Nat}, Takes s n c idNone → Takes v n c idNone := fun k => takes_frame s _ _ _ _ (by rw [hv]; exact hfaults) (by rw [hv]; exact hparams) k
  have hcrc : (v.port port.val).crc = (s.port port.val).crc := by
    rw [hv, ← hd.port, ← headerCounted_crc u port.val k, ← hb]
    rfl
  refine ⟨fun hok hwidth => ?_, fun hok hwidth hwide htakes => ?_, fun hbad hwidth htakes => ?_⟩
  · rw [h.takes (by omega), ← hb, takePacket_samples _ _ h.embedded hx h.frame (by rwa [hframe]) hok, hline, if_pos hwidth]
  · refine ⟨v.fault F.lineWidth c, ?_, fault_recorded (hvtakes htakes)⟩
    rw [h.takes (by omega), ← hb, takePacket_samples _ _ h.embedded hx h.frame (by rwa [hframe]) hok, hline,
      if_neg (not_or.2 ⟨hwidth, by rw [hwide]; decide⟩)]
  · refine ⟨v.crcFails port.val c, ?_, crcFails_records hcrc (hvtakes htakes)⟩
    rw [h.takes (by omega), ← hb, takePacket_crc _ _ h.embedded hx h.frame (by rwa [hframe]) hbad, hline, if_pos hwidth]

/-- A line past the height is discarded, the frame's first recorded (R351). -/
theorem SampleLine.long (h : SampleLine s u dt c port vc k dr x f) (hhdr : k.hdr = 0) (hcrc : k.crcOk = true)
    (hlines : s.parFrame (P.inspectCtxHeight c) ≤ f.lines) :
    (f.flags &&& flLong ≠ 0 → exec (.csiLongPacket dt port vc k dr busy) s = .next u) ∧
    (f.flags &&& flLong = 0 → Takes s F.frameLong c idNone → ∃ t, exec (.csiLongPacket dt port vc k dr busy) s = .next t ∧
      Recorded (u.setCtx c { x with frame := some { f with flags := f.flags ||| flLong }, long := sat 32 (x.long + 1) }) t F.frameLong c idNone 0) := by
  have hd := h.reads
  have hline : u.takePacket port.val c k busy = if f.flags &&& flLong ≠ 0 then u
      else (u.setCtx c { x with frame := some { f with flags := f.flags ||| flLong }, long := sat 32 (x.long + 1) }).fault F.frameLong c := by
    unfold State.takePacket
    dsimp only
    rw [if_neg h.embedded, if_pos hcrc, if_neg (by rw [h.ctx, h.frame, hd.parFrame]; exact Nat.not_lt.2 hlines),
      addLine_long h.ctx h.frame (by rwa [hd.parFrame])]
  have hexec := h.takes (busy := busy) (by omega)
  rw [headerCounted_clean u port.val (by omega), hline] at hexec
  exact ⟨fun hflag => hexec.trans (congrArg Host.Outcome.next (if_pos hflag)), fun hflag htakes =>
    ⟨_, hexec.trans (congrArg Host.Outcome.next (if_neg (not_not.2 hflag))), fault_recorded (takes_frame u _ _ _ _ rfl rfl (hd.takes htakes))⟩⟩

/-- A parity error of the FIFO: a copy of the line before joins the frame (R352). -/
theorem SampleLine.copies (h : SampleLine s u dt c port vc k dr x f) (hhdr : k.hdr = 3) (hcrc : k.crcOk = true)
    (hlines : f.lines < s.parFrame (P.inspectCtxHeight c))
    (hcalm : ¬(1000 * x.fifo ≤ s.par P.inspectFifoPressurePm * 65536 ∧ s.par P.inspectFifoPressurePm * 65536 < 1000 * (x.fifo + k.bytes.length)))
    (hfits : x.fifo + k.bytes.length ≤ 65536) : exec (.csiLongPacket dt port vc k dr busy) s =
      .next (u.setCtx c (lineCopied { x with fifoL := x.fifoL ++ [k.bytes.length] } f (s.parFrame (P.inspectCtxWidth c)))) := by
  have hd := h.reads
  have hcopy := addLine_copies (s := u.setCtx c { x with fifoL := x.fifoL ++ [k.bytes.length] }) (ctx_setCtx_same _ _ _) h.frame
    (show f.lines < u.parFrame (P.inspectCtxHeight c) by rwa [hd.parFrame])
  rw [h.takes (by omega), headerCounted_clean u port.val (by omega), takePacket_samples _ _ h.embedded h.ctx h.frame (by rwa [hd.parFrame]) hcrc,
    if_pos (by omega), enterFifo_enters h.ctx h.frame (by rwa [hd.par]) hfits, hcopy, setCtx_setCtx]
  rw [show (u.setCtx c { x with fifoL := x.fifoL ++ [k.bytes.length] }).parFrame (P.inspectCtxWidth c) = s.parFrame (P.inspectCtxWidth c) from hd.parFrame _]

/-- A line that overflows its FIFO drops the frame, and is then for no frame (R356). -/
theorem SampleLine.drops {g : Frame} (h : SampleLine s u dt c port vc k dr x f) (hhdr : k.hdr = 0) (hcrc : k.crcOk = true)
    (hlines : f.lines < s.parFrame (P.inspectCtxHeight c))
    (hcalm : ¬(1000 * x.fifo ≤ s.par P.inspectFifoPressurePm * 65536 ∧ s.par P.inspectFifoPressurePm * 65536 < 1000 * (x.fifo + k.bytes.length)))
    (hover : 65536 < x.fifo + k.bytes.length)
    (hg : g = { f with flags := withExclude (f.flags ||| flDropped), t1 := u.t32, rows := f.rows.take (f.rows.length - x.fifoL.length) })
    (hnone : ∀ t, t < 4 → s.stream c t g = none) (htakes : Takes s F.frameDropped c idNone) :
    ∃ t, exec (.csiLongPacket dt port vc k dr busy) s = .next t ∧ Recorded (u.setCtx c (frameDropped x g)) t F.frameDropped c idNone 0 := by
  have hd := h.reads
  have hfrom : Takes (u.setCtx c (frameDropped x g)) F.frameDropped c idNone := takes_frame u _ _ _ _ rfl rfl (hd.takes htakes)
  have hclosed : (((u.setCtx c (frameDropped x g)).fault F.frameDropped c).ctx c).frame = none := by
    have hcam : ((u.setCtx c (frameDropped x g)).fault F.frameDropped c).cam = (u.setCtx c (frameDropped x g)).cam := by
      rw [fault_touched _ _ c hfrom.calm]
    rw [State.ctx, hcam]
    exact congrArg Ctx.frame (ctx_setCtx_same _ _ _)
  refine ⟨(u.setCtx c (frameDropped x g)).fault F.frameDropped c, ?_, fault_recorded hfrom⟩
  rw [h.takes (by omega), headerCounted_clean u port.val (by omega), takePacket_samples _ _ h.embedded h.ctx h.frame (by rwa [hd.parFrame]) hcrc,
    enterFifo_overflows h.ctx h.frame (by rwa [hd.par]) hover,
    dropFrame_drops h.ctx h.frame hg (fun t ht => (hd.stream c t g).trans (hnone t ht)) (hd.takes htakes), addLine_closed hclosed]

/-- Embedded data is kept to 1,024 bytes (R371). -/
theorem longPacket_embeds (hport : s.portOn port.val = true) (hu : u = (s.pass dt).drain dr) (hhdr : k.hdr = 0) (hcrc : k.crcOk = true)
    (hone : s.ctxsOn port.val vc.val = [c]) (htype : k.dataType = 0x12) (hruns : s.loupeOn c = true) (hx : u.ctx c = x) (hf : x.frame = some f) :
    exec (.csiLongPacket dt port vc k dr busy) s = .next (u.setCtx c { x with frame := some { f with emb := (f.emb ++ k.bytes).take 1024 } }) := by
  rw [longPacket_takes hport hu (by omega) (Or.inl htype) (takers_embedded htype hone) hruns (by rw [hx, hf]; rfl), headerCounted_clean u port.val (by omega)]
  unfold State.takePacket State.addEmbedded
  dsimp only
  rw [if_pos htype, if_pos hcrc, hx, hf]
  rfl

/-- Settles O38: the discard, then the line in its frame by what its header, its frame and its FIFO allow, and the embedded data. -/
theorem longPacketsAreLines : Obligations.LongPacketsAreLines := by
  refine ⟨?_, ?_, ?_, ?_, ?_, ?_, ?_, ?_, ?_⟩
  · intro dt port vc k dr busy s u hport hu
    exact longPacket_off hport hu
  · intro dt port vc k dr busy s u hport hu hhdr hno
    have htakers : ¬(k.dataType = 0x12 ∨ 0x2A ≤ k.dataType ∧ k.dataType ≤ 0x2E) ∨ s.takers port.val vc.val k = [] :=
      hno.imp_right fun hnone => List.filter_eq_nil_iff.2 fun c hc => by simp [hnone c hc]
    rw [longPacket_discards hport hu hhdr htakers]
    have hd : u.port port.val = s.port port.val := hu ▸ (drained s dt dr).port port.val
    unfold State.headerCounted State.discardPacket
    by_cases h1 : k.hdr = 1
    · rw [if_pos h1, if_pos h1, port_setPort_same, setPort_setPort, hd]
    · rw [if_neg h1, if_neg h1, hd]
  · intro dt c port vc k dr busy s u b z v x f l hport hu hhdr hone hlow hhigh hruns hx hf hlines hl hcalm hfits hb hz hv
    have h : SampleLine s u dt c port vc k dr x f := ⟨hport, hu, hone, hlow, hhigh, hruns, hx, hf⟩
    have hb' : b = u.headerCounted port.val k := by rw [hb, State.headerCounted, h.reads.port]
    refine h.joins hhdr hlines hl hcalm hfits hb' ?_
    obtain ⟨ports, hports⟩ := headerCounted_frame u port.val k
    have hframe : ∀ q, b.parFrame q = s.parFrame q := fun q => by rw [hb', hports]; exact h.reads.parFrame q
    unfold State.lineJoined
    dsimp only
    rw [hv, hz, hframe, hframe, hb', hports]
    rfl
  · intro dt c port vc k dr busy s u x f hport hu hhdr hcrc hone hlow hhigh hruns hx hf hlines
    exact SampleLine.long ⟨hport, hu, hone, hlow, hhigh, hruns, hx, hf⟩ hhdr hcrc hlines
  · intro dt c port vc k dr busy s u x f hport hu hhdr hcrc hone hlow hhigh hruns hx hf hlines hcalm hfits
    exact SampleLine.copies ⟨hport, hu, hone, hlow, hhigh, hruns, hx, hf⟩ hhdr hcrc hlines hcalm hfits
  · rintro c n s pipe rfl
    exact ⟨rfl, nextCtx_holds⟩
  · intro dt c port vc k dr busy s u x f hport hu hhdr hcrc hone htype hruns hx hf
    exact longPacket_embeds hport hu hhdr hcrc hone htype hruns hx hf
  · intro dt c port vc k dr busy s u x f hport hu hhdr htype hone hruns hx hf hlines htakes
    have hd : Drained s u := hu ▸ drained s dt dr
    have hfrom : Takes (u.setPort port.val { s.port port.val with hdr := sat 32 ((s.port port.val).hdr + 1) }) F.csiHdrEcc port.val idNone :=
      takes_frame u _ _ _ _ rfl rfl (hd.takes htakes)
    have htouched := fault_touched _ _ port.val hfrom.calm
    refine ⟨_, _, longPacket_uncorrectable hport hu hhdr htype (takers_samples htype hone) hruns (by rw [hx, hf]; rfl), fault_recorded hfrom, ?_⟩
    generalize (u.setPort port.val { s.port port.val with hdr := sat 32 ((s.port port.val).hdr + 1) }).fault F.csiHdrEcc port.val = v at htouched
    have hparams : v.params = u.params := htouched.fields.1
    have hframe : ∀ q, v.parFrame q = s.parFrame q := fun q => by rw [State.parFrame, hparams]; exact hd.parFrame q
    have hctx : v.ctx c = x := by
      rw [htouched]
      exact hx
    rw [addLine_copies hctx hf (by rwa [hframe]), hframe]
    rfl
  · intro dt c port vc k dr busy s u x f g hport hu hhdr hcrc hone hlow hhigh hruns hx hf hlines hcalm hover hg hnone htakes
    exact SampleLine.drops ⟨hport, hu, hone, hlow, hhigh, hruns, hx, hf⟩ hhdr hcrc hlines hcalm hover hg hnone htakes

end Sys2Proof.Machine
end

section
/-!
# Dumping, checking and scrubbing the Ledger (R528, R552 to R555)
-/
namespace Sys2Proof.Machine

variable {s : State} {w : Sess} {c : Cmd} {dt : Nat} {seq : BitVec 32} {p : Pend}

/-- Reading an entry after one is stored: an entry of the value that a missing one reads is dropped from the map. -/
theorem entry_setEntry (s : State) (i k : Nat) (e : BitVec 32) : (s.setEntry i e).entry k = if k = i then e else s.entry k := by
  unfold State.setEntry State.entry
  by_cases he : e = 0x0000FF0F
  · rw [if_pos he, sel, look_cut, he]
    by_cases hk : k = i
    · rw [if_pos hk, if_pos hk]
      rfl
    · rw [if_neg hk, if_neg hk]
      rfl
  · rw [if_neg he, sel_put]

/-- A PENDING command that names its entry's object when it completes posts that object. -/
theorem finish_postedObj {u : State} {ops : List Nat} {f : Pend → State} {status obj result unit : Nat} (dt : Nat)
    (hp : s.pend? w seq = some p) (hq : ∃ q, (s.ses w).cq = some q) (hop : p.cmd.op ∈ ops) (hses : u.ses w = s.ses w)
    (hf : f p = u.completeObj p status obj result unit) : Posted u ((s.pass dt).finish w seq ops f) p status obj result unit := by
  obtain ⟨q, hq⟩ := hq
  obtain ⟨rfl, -⟩ := pend_who _ _ _ _ hp
  have hp' : (s.pass dt).pend? p.who seq = some p := hp
  rw [finish_some _ _ _ _ _ _ hp' hop, hf]
  exact completeObj_posted u p q _ _ _ _ (by rw [hses, hq])

/-- Hits leave the Ledger. -/
theorem Touched.ledger {s t : State} (h : Touched s t) : t.ledger = s.ledger := by
  unfold Touched at h
  rw [h]

/-- Completing with another object in the entry. -/
theorem complete_obj (u : State) (p : Pend) (o : BitVec 32) (status result unit : Nat) :
    u.complete { p with obj := o } status result unit = u.completeObj p status o.toNat result unit := rfl

/-- Output that fits its buffers, with an object of its own in the entry. -/
theorem finishOut_obj {chain : List Bytes} {l : List DmaDesc} {data : Bytes} (o : BitVec 32) (hl : p.descs chain = some l) (hfits : data.length ≤ total l)
    (result unit : Nat) :
    s.finishOut { p with obj := o } chain data result unit = (s.emits (scatter l data)).completeObj p St.ok o.toNat result unit := by
  have hdescs : ({ p with obj := o } : Pend).descs chain = some l := hl
  rw [finishOut_fits hdescs hfits, complete_obj]

/-! ### Dump -/

/-- A dump waits for its entries to be written (R552). -/
theorem ledgerDump_waits {l : List DmaDesc} {a : Bytes} (h : HoldsDma s w c 0x0504 16 l a) (hroom : HasRoom s w) (hk : s.pwr.kind ≠ 2)
    (hfits : u32 a 0 + u32 a 4 ≤ ledgerSize) (hz : fld a 8 8 = 0) :
    ∃ t, exec (.ledgerDump dt w) s = .next t ∧ Waiting (s.pass dt) t w c 0 [] [] := by
  refine ⟨_, rfl, (h.pass dt).waiting (hroom.pass dt) ?_⟩
  rw [h.dmaForm, need_ok _ _ _ _ (decide_eq_true ⟨hfits, hz⟩), vet_ok (s.pass dt) _ hk, hasQueue_ok _ _ _ (hroom.pass dt)]

/-- The entries go over the buffers, and the object names the boundary at which they stand (R552). -/
theorem ledgerDump_writes {n : Nat} {chain : List Bytes} {l : List DmaDesc} {b : Bytes} (hp : s.pend? w seq = some p) (hq : ∃ q, (s.ses w).cq = some q)
    (hop : p.cmd.op = 0x0504) (hl : p.descs chain = some l) (hn : u32 p.cmd.arg 4 = n) (hb : b = s.ledgerBytes (u32 p.cmd.arg 0) n) (hfits : b.length ≤ total l) :
    ∃ t, exec (.ledgerDumpComplete dt w seq chain) s = .next t ∧
      Posted ((s.pass dt).emits (scatter l b)) t p St.ok (BitVec.ofNat 32 s.lastBoundary).toNat (n + 2 ^ 32 * (crc32c b).toNat) idHob := by
  subst hn hb
  refine ⟨_, rfl, finish_postedObj dt hp hq (by simp [hop]) ?_ ?_⟩
  · cases w <;> rfl
  · exact finishOut_obj (s := s.pass dt) (BitVec.ofNat 32 s.lastBoundary) hl hfits _ _

/-- An entry takes 4 bytes. -/
theorem ledgerBytes_length (s : State) (i n : Nat) : (s.ledgerBytes i n).length = 4 * n := by
  simp [State.ledgerBytes, List.length_flatMap, leB_length, Nat.mul_comm]

/-! ### Check -/

/-- A check waits for its bar to be read (R553). -/
theorem ledgerCheck_waits (h : Holds s w c 0x0505 4) (hroom : HasRoom s w) (hk : s.pwr.kind ≠ 2) (hbar : u8 c.pay 0 < 8) (hz : fld c.pay 1 3 = 0) :
    ∃ t, exec (.ledgerCheck dt w) s = .next t ∧ Waiting (s.pass dt) t w c (u8 c.pay 0) [] [] := by
  obtain ⟨hcmd, hop, -⟩ := h.pass dt
  refine ⟨_, rfl, runCmd_waiting hcmd hop (hroom.pass dt) ?_⟩
  rw [h.plain, need_ok _ _ _ _ (decide_eq_true ⟨hbar, hz⟩), vet_ok (s.pass dt) _ hk, hasQueue_ok _ _ _ (hroom.pass dt)]

/-- `t` is `s` with `n` single errors of the Ledger corrected and counted (R554). -/
def Corrected (s t : State) (n : Nat) : Prop :=
  Touched { s with ledger := { s.ledger with corr := t.ledger.corr } } t ∧ (s.ledger.corr + n < 2 ^ 32 → t.ledger.corr = s.ledger.corr + n)

/-- Corrections one after another. -/
theorem Corrected.trans {a b d : State} {m n : Nat} (hab : Corrected a b m) (hbd : Corrected b d n) : Corrected a d (m + n) := by
  obtain ⟨htab, hcab⟩ := hab
  obtain ⟨htbd, hcbd⟩ := hbd
  refine ⟨?_, fun hlt => ?_⟩
  · unfold Touched at htab htbd ⊢
    rw [htbd, htab]
  · rw [hcbd (by rw [hcab (by omega)]; omega), hcab (by omega), Nat.add_assoc]

/-- A single error is corrected and counted (R554). -/
theorem ledgerError_corrects (hcalm : Calm s F.ledgerEccCorr) (i line : Nat) : Corrected s (s.ledgerError i line 1) 1 := by
  have htouch := fault_touched { s with ledger := { s.ledger with corr := sat 32 (s.ledger.corr + 1) } } F.ledgerEccCorr i (hcalm.of_params rfl)
  have hled : (s.ledgerError i line 1).ledger.corr = sat 32 (s.ledger.corr + 1) := congrArg Ledger.corr htouch.ledger
  refine ⟨?_, fun hlt => ?_⟩
  · rw [hled]
    exact htouch
  · rw [hled]
    exact Nat.min_eq_left (by omega)

/-- The single errors that a check meets are corrected and counted (R554). -/
theorem ledgerErrors_correct (f : Nat × Nat → Nat) (line : State → Nat) (l : List (Nat × Nat)) (hone : ∀ x ∈ l, x.2 = 1) :
    ∀ s : State, Calm s F.ledgerEccCorr → Corrected s (l.foldl (fun s u => s.ledgerError (f u) (line s) u.2) s) l.length := by
  induction l with
  | nil => exact fun s _ => ⟨rfl, fun _ => rfl⟩
  | cons x l ih =>
    intro s hcalm
    rw [List.foldl_cons, hone x List.mem_cons_self, List.length_cons, Nat.add_comm]
    have hfirst := ledgerError_corrects hcalm (f x) (line s)
    refine hfirst.trans (ih (fun y hy => hone y (List.mem_cons_of_mem x hy)) _ (hcalm.of_params ?_))
    exact hfirst.1.fields.1

/-- A check's corrections leave the entries. -/
theorem Corrected.entries {s t : State} {n : Nat} (h : Corrected s t n) : t.ledger.ent = s.ledger.ent := by rw [h.1.ledger]

/-- A check of single errors answers the CRC of the bar's entries and their number, and changes no entry (R553, R554). -/
theorem ledgerCheck_answers {upsets : List (Nat × Nat)} (hp : s.pend? w seq = some p) (hq : ∃ q, (s.ses w).cq = some q) (hop : p.cmd.op = 0x0505)
    (hone : ∀ x ∈ upsets, x.2 = 1) (hcalm : Calm s F.ledgerEccCorr) :
    ∃ t u, exec (.ledgerCheckComplete dt w seq upsets) s = .next t ∧ Corrected (s.pass dt) u upsets.length ∧
      Posted u t p St.ok p.obj.toNat ((crc32c (s.ledgerBytes (102400 * p.obj.toNat) 102400)).toNat + 2 ^ 32 * sat 16 upsets.length) idHob := by
  have hcorr := ledgerErrors_correct (fun u => 102400 * p.obj.toNat + u.1 % 102400) State.lastBoundary upsets hone (s.pass dt) hcalm
  have hall : upsets.filter (fun u => u.2 == 1) = upsets := List.filter_eq_self.2 fun x hx => beq_iff_eq.2 (hone x hx)
  refine ⟨_, _, rfl, hcorr, finish_posted dt hp hq (by simp [hop]) (hcorr.1.ses w |>.trans ?_) ?_⟩
  · cases w <;> rfl
  · dsimp only
    have hbytes : ∀ t : State, t.ledger.ent = s.ledger.ent → t.ledgerBytes (102400 * p.obj.toNat) 102400 = s.ledgerBytes (102400 * p.obj.toNat) 102400 := by
      intro t ht
      simp only [State.ledgerBytes, State.entry, ht]
    rw [hall, hbytes _ hcorr.entries]

/-! ### Scrub -/

/-- The scrub has moved on from its entry (R555). -/
def State.scrubbed (s : State) : State :=
  { s with ledger := { s.ledger with scrub := (s.ledger.scrub + 1) % ledgerSize, scrubAt := (if s.ledger.scrub = 0 then some s.now else s.ledger.scrubAt) } }

/-- A read that falls due moves the scrub on and meets what the entry holds (R555). -/
theorem ledgerScrub_reads (bits : Nat) (hready : s.ready = true) (hdue : s.scrubDue ≤ (s.pass dt).now + perUs) :
    exec (.ledgerScrub dt bits) s =
      .next (if bits = 0 then (s.pass dt).scrubbed else (s.pass dt).scrubbed.ledgerError s.ledger.scrub s.lastBoundary bits) := by
  have hnotEarly : ¬(s.pass dt).now + perUs < (s.pass dt).scrubDue := Nat.not_lt.2 hdue
  have hready' : ¬(!(s.pass dt).ready) = true := by
    rw [show (s.pass dt).ready = s.ready from rfl, hready]
    decide
  refine (if_neg hready').trans ((if_neg hnotEarly).trans ?_)
  exact (apply_ite Host.Outcome.next (bits = 0) (s.pass dt).scrubbed ((s.pass dt).scrubbed.ledgerError s.ledger.scrub s.lastBoundary bits)).symm

/-- Nothing is read before its time (R555). -/
theorem ledgerScrub_waits (bits : Nat) (hearly : (s.pass dt).now + perUs < s.scrubDue) : exec (.ledgerScrub dt bits) s = .next (s.pass dt) := by
  by_cases hready : (!(s.pass dt).ready) = true
  · exact if_pos hready
  · exact (if_neg hready).trans (if_pos hearly)

/-- An entry is replaced by its fallback, counted and noted (R554). -/
def State.replaced (s : State) (i line : Nat) : State :=
  { s with ledger := { (s.setEntry i (s.fallback i line true)).ledger with fallb := sat 32 (s.ledger.fallb + 1), lastFb := BitVec.ofNat 32 i } }

/-- The entries after one is replaced. -/
theorem entry_replaced (s : State) (i line k : Nat) : (s.replaced i line).entry k = if k = i then s.fallback i line true else s.entry k :=
  entry_setEntry s i k _

/-- An entry with more wrong bits than one is replaced, and the error recorded (R554). -/
theorem ledgerError_replaces {i line bits : Nat} (hbits : 2 ≤ bits) : s.ledgerError i line bits = (s.replaced i line).fault F.ledgerEcc i := if_neg (by omega)

/-- Recording leaves the entries. -/
theorem entry_fault {n a : Nat} (hcalm : Calm s n) (k : Nat) : (s.fault n a).entry k = s.entry k := by
  unfold State.entry
  rw [(fault_touched s n a hcalm).ledger]

/-- Settles O60, by what each command asks, and by what one wrong entry does to the Ledger. -/
theorem ledgerDumpsChecksAndScrub : Obligations.LedgerDumpsChecksAndScrub := by
  unfold Obligations.LedgerDumpsChecksAndScrub
  refine ⟨?_, ?_, ?_, ?_, ?_, ?_, ?_, ?_⟩
  · intro dt w s c l a h hroom hk hfits hz
    exact ledgerDump_waits h hroom hk hfits hz
  · intro dt n w seq chain s p l b hp hq hop hl hn hb hfits
    refine ledgerDump_writes hp hq hop hl hn hb ?_
    rw [hb]
    exact (ledgerBytes_length s _ n).trans_le hfits
  · intro dt w s c h hroom hk hbar hz
    exact ledgerCheck_waits h hroom hk hbar hz
  · intro dt w seq upsets s p hp hq hop hone hcalm
    obtain ⟨t, u, hexec, hcorr, hpost⟩ := ledgerCheck_answers (dt := dt) hp hq hop hone hcalm
    exact ⟨t, u, hexec, hcorr.entries, hcorr.1, hcorr.2, hpost⟩
  · intro dt bits s hearly
    exact ledgerScrub_waits bits hearly
  · intro dt s hready hdue
    exact ledgerScrub_reads 0 hready hdue
  · intro dt s hready hdue htakes
    exact ⟨_, ledgerScrub_reads 1 hready hdue, fault_recorded (takes_frame s _ F.ledgerEccCorr s.ledger.scrub idNone rfl rfl htakes)⟩
  · intro dt bits s hready hdue hbits htakes
    have htakes' : Takes ((s.pass dt).scrubbed.replaced s.ledger.scrub s.lastBoundary) F.ledgerEcc s.ledger.scrub idNone :=
      takes_frame s _ F.ledgerEcc s.ledger.scrub idNone rfl rfl htakes
    have hexec := ledgerScrub_reads (dt := dt) bits hready hdue
    rw [if_neg (by omega), ledgerError_replaces hbits] at hexec
    refine ⟨_, (s.pass dt).scrubbed, _, hexec, rfl, rfl, ?_, fun k hk => ?_, fault_recorded htakes'⟩
    · rw [entry_fault htakes'.calm, entry_replaced, if_pos rfl]
    · rw [entry_fault htakes'.calm, entry_replaced, if_neg hk]
      rfl

end Sys2Proof.Machine
end

section
/-!
# The MEMORY commands, the codec and the scan engines (R428, R440 to R447, R535)
-/
namespace Sys2Proof.Machine

variable {s : State} {w : Sess} {c : Cmd} {dt i : Nat} {seq : BitVec 32} {p : Pend} {l : List DmaDesc} {chain : List Bytes} {data : Bytes}

/-! ### Status and training read -/

/-- MEMORY_STATUS answers a channel's record (R428). -/
theorem memoryStatus_answers (h : Holds s w c 0x1101 4) (hkind : s.pwr.kind ≠ 2) (hi : u8 c.pay 0 = i) (hlt : i < 3) (hz : fld c.pay 1 3 = 0) :
    ∃ t, exec (.memoryStatus dt w) s = .next t ∧ Answered (s.pass dt) t w c St.ok
      (leB 1 (s.chan i).state ++ leB 1 (s.parReset P.memoryDdrWidth) ++ leB 1 (s.parReset P.memoryDdrDensityGbit) ++
        leB 1 (s.parReset P.memoryDdrRanks) ++ leB 2 (s.parReset P.memoryDdrMts) ++ leB 1 (s.parReset P.memoryDdrMapOrder) ++ leB 1 (b2n (s.chan i).x2) ++
        leB 4 (s.chan i).corr ++ leB 4 (s.chan i).reread ++ leB 4 (s.chan i).pois ++ leB 4 (s.chan i).ca ++ leB 4 (s.chan i).crc ++
        leB 1 (s.chan i).postponed ++ leB 1 (b2n s.ddr.initDone) ++ leB 2 (unsigned 16 (s.ddr.caseC.getD 0)) ++ leB 1 s.dramGb ++ leB 3 0) := by
  subst hi
  refine ⟨_, rfl, runCmd_answered (h.pass dt) ?_⟩
  dsimp only
  rw [h.plain, need_ok _ _ _ _ (decide_eq_true ⟨hlt, hz⟩), vet_ok (s.pass dt) _ hkind]
  rfl

section
variable {r : Nat} (h : Holds s w c 0x1102 4) (hkind : s.pwr.kind ≠ 2) (hi : u8 c.pay 0 = i) (hlt : i < 3) (hr : u8 c.pay 1 = r) (hr2 : r < 2)
  (hz : u16 c.pay 2 = 0)
include h hkind hi hlt hr hr2 hz

/-- MEMORY_TRAINING_READ answers the nine lanes of a rank that trained (R429). -/
theorem trainingRead_answers (htrained : s.trained i = true) (hrank : r < s.parReset P.memoryDdrRanks) :
    ∃ t, exec (.memoryTrainingRead dt w) s = .next t ∧ Answered (s.pass dt) t w c St.ok ((List.range 9).flatMap (fun l =>
      leB 1 (s.trainRes i r l).rd ++ leB 1 (s.trainRes i r l).re ++ leB 2 (s.trainRes i r l).wd ++ leB 1 (s.trainRes i r l).we ++
        leB 1 (s.trainRes i r l).vref)) := by
  have hready : ((s.pass dt).trained i && decide (r < (s.pass dt).parReset P.memoryDdrRanks)) = true := by
    rw [Bool.and_eq_true]
    exact ⟨htrained, decide_eq_true hrank⟩
  refine ⟨_, rfl, runCmd_answered (h.pass dt) ?_⟩
  dsimp only
  rw [h.plain, hi, hr, need_ok _ _ _ _ (decide_eq_true ⟨hlt, hr2, hz⟩), vet_ok (s.pass dt) _ hkind, need_ok _ _ _ _ hready]
  rfl

/-- It is refused for a channel or a rank that has not trained (R429). -/
theorem trainingRead_refuses (hnot : s.trained i = false ∨ s.parReset P.memoryDdrRanks ≤ r) :
    ∃ t, exec (.memoryTrainingRead dt w) s = .next t ∧ Answered (s.pass dt) t w c St.state [] := by
  have hunready : ((s.pass dt).trained i && decide (r < (s.pass dt).parReset P.memoryDdrRanks)) = false := by
    rw [Bool.and_eq_false_iff]
    exact hnot.imp id fun hrank => decide_eq_false (Nat.not_lt.2 hrank)
  refine ⟨_, rfl, runCmd_answered (h.pass dt) ?_⟩
  dsimp only
  rw [h.plain, hi, hr, need_ok _ _ _ _ (decide_eq_true ⟨hlt, hr2, hz⟩), vet_ok (s.pass dt) _ hkind, need_refuses _ _ _ _ hunready]
  rfl

end

/-! ### The codec -/

section
variable {m : Nat} {a : Bytes} {j : CodecJob} (h : HoldsDma s w c 0x1103 32 l a) (hroom : HasRoom s w) (hkind : s.pwr.kind ≠ 2) (hm : u8 a 0 = m) (hm2 : m ≤ 2)
  (hz1 : fld a 1 3 = 0) (hexpect : m ≠ 0 → u32 a 0x10 = 0) (hz2 : fld a 0x14 12 = 0)
  (hj : j = { who := some (w, c.seq), mode := m, inLen := u32 a 4, expect := u32 a 0x10 })
include h hroom hkind hm hm2 hz1 hexpect hz2

include hj in
/-- A decompression waits in its queue (R440). -/
theorem memoryCodec_inflates (hzero : m = 0) (hfree : s.chip.decomp.length < 32) : ∃ t, exec (.memoryCodec dt w) s = .next t ∧
    Waiting { s.pass dt with chip := { s.chip with decomp := s.chip.decomp ++ [j] } } t w c 0 [] [] := by
  subst hj
  refine ⟨_, rfl, (h.pass dt).waiting (hroom.pass dt) ?_⟩
  dsimp only
  rw [h.dmaForm, hm, need_ok _ _ _ _ (decide_eq_true ⟨hm2, hz1, hexpect, hz2⟩), vet_ok (s.pass dt) _ hkind, hasQueue_ok _ _ _ (hroom.pass dt),
    if_pos hzero, if_pos hzero, need_ok _ _ _ _ (decide_eq_true (show (s.pass dt).chip.decomp.length < codecQueue from hfree))]
  rfl

include hj in
/-- A compression waits in its queue (R440). -/
theorem memoryCodec_deflates (hnonzero : m ≠ 0) (hfree : s.chip.comp.length < 32) : ∃ t, exec (.memoryCodec dt w) s = .next t ∧
    Waiting { s.pass dt with chip := { s.chip with comp := s.chip.comp ++ [j] } } t w c 0 [] [] := by
  subst hj
  refine ⟨_, rfl, (h.pass dt).waiting (hroom.pass dt) ?_⟩
  dsimp only
  rw [h.dmaForm, hm, need_ok _ _ _ _ (decide_eq_true ⟨hm2, hz1, hexpect, hz2⟩), vet_ok (s.pass dt) _ hkind, hasQueue_ok _ _ _ (hroom.pass dt),
    if_neg hnonzero, if_neg hnonzero, need_ok _ _ _ _ (decide_eq_true (show (s.pass dt).chip.comp.length < codecQueue from hfree))]
  rfl

/-- A full queue refuses the job (R440). -/
theorem memoryCodec_full (hfull : if m = 0 then 32 ≤ s.chip.decomp.length else 32 ≤ s.chip.comp.length) :
    ∃ t, exec (.memoryCodec dt w) s = .next t ∧ Answered (s.pass dt) t w c St.busy [] := by
  have hlong : ¬(if m = 0 then (s.pass dt).chip.decomp else (s.pass dt).chip.comp).length < codecQueue := by
    by_cases hzero : m = 0
    · rw [if_pos hzero] at hfull ⊢
      exact Nat.not_lt.2 hfull
    · rw [if_neg hzero] at hfull ⊢
      exact Nat.not_lt.2 hfull
  refine ⟨_, rfl, (h.pass dt).answered ?_⟩
  dsimp only
  rw [h.dmaForm, hm, need_ok _ _ _ _ (decide_eq_true ⟨hm2, hz1, hexpect, hz2⟩), vet_ok (s.pass dt) _ hkind, hasQueue_ok _ _ _ (hroom.pass dt),
    need_refuses _ _ _ _ (decide_eq_false hlong)]
  rfl

end

/-- A state whose completion queues are those of the state before posts the completion of a command that waits there. -/
theorem pend_posts {u : State} {status result unit : Nat} (hp : s.pend? w seq = some p) (hq : ∃ q, (s.ses w).cq = some q) (hhost : u.host = s.host) :
    Posted u (u.complete p status result unit) p status p.obj.toNat result unit := by
  obtain ⟨q, hq⟩ := hq
  obtain ⟨rfl, -⟩ := pend_who _ _ _ _ hp
  refine complete_posted u p q _ _ _ ?_
  rw [← hq]
  unfold State.ses
  rw [hhost]

/-- The same of a state that hits have touched. -/
theorem pend_posts_touched {u v : State} {status result unit : Nat} (hp : s.pend? w seq = some p) (hq : ∃ q, (s.ses w).cq = some q) (hhost : u.host = s.host)
    (htouch : Touched u v) : Posted v (v.complete p status result unit) p status p.obj.toNat result unit := by
  obtain ⟨q, hq⟩ := hq
  obtain ⟨rfl, -⟩ := pend_who _ _ _ _ hp
  refine complete_posted v p q _ _ _ ?_
  rw [htouch.ses, ← hq]
  unfold State.ses
  rw [hhost]

/-- A scan engine's record leaves the sessions. -/
theorem setScan_ses (s : State) (e : Nat) (x : Scan) (w : Sess) : (s.setScan e x).ses w = s.ses w := by
  cases w <;> rfl

/-- Hits leave the scratchpads, the codec and the scan engines. -/
theorem Touched.chip {s t : State} (h : Touched s t) : t.chip = s.chip := by
  unfold Touched at h
  rw [h]

/-- Output over the buffers posts what fits (R444). -/
theorem codecOut_posts {u : State} {out : Bytes} {crc : Nat} (hp : s.pend? w seq = some p) (hq : ∃ q, (s.ses w).cq = some q) (hhost : u.host = s.host) :
    Posted (u.emits (scatter l out)) (u.codecOut p l out crc) p (if total l < out.length then St.noSpace else St.ok) p.obj.toNat
      (min (total l) out.length + crc * 2 ^ 32) idCodec :=
  pend_posts (u := u.emits (scatter l out)) hp hq hhost

section
variable {u : State} {j : CodecJob} {rest : List CodecJob} (hwho : j.who = some (w, seq)) (hp : s.pend? w seq = some p) (hq : ∃ q, (s.ses w).cq = some q)
  (hl : p.descs chain = some l)

include hwho hp hl in
/-- The first job of the compressor's queue ends: one that would not shrink is noted, another goes over its buffers (R441, R444). -/
theorem codecJob_compresses {out : Bytes} (hfirst : s.chip.comp = j :: rest)
    (hu : u = { s.pass dt with chip := { s.chip with comp := rest, jobs := sat 32 (s.chip.jobs + 1) } }) (hout : out = u.compressed (padTo j.inLen data)) :
    exec (.codecJobComplete dt true chain data) s = if (padTo j.inLen data).length ≤ out.length ∧ (padTo j.inLen data).length ≤ total l
      then .next (({ u.fresh with chip := { u.chip with noshr := sat 32 (s.chip.noshr + 1) } } : State).complete p St.noshrink
        ((crc32c (padTo j.inLen data)).toNat * 2 ^ 32) idCodec)
      else .next (u.fresh.codecOut p l out (crc32c (padTo j.inLen data)).toNat) := by
  subst hu hout
  show execCodecJobComplete dt true chain data s = _
  unfold execCodecJobComplete
  dsimp only
  rw [if_pos rfl, show (s.pass dt).chip.comp = j :: rest from hfirst]
  dsimp only
  rw [hwho]
  dsimp only [Option.bind_some]
  have hp' : ∀ k, State.pend? { s.pass dt with chip := k } w seq = some p := fun _ => hp
  rw [hp']
  dsimp only
  rw [hl]
  rfl

include hwho hp hl in
/-- The first job of the decompressor's queue ends: its output goes over its buffers, and a bad stream is counted and recorded (R443, R444). -/
theorem codecJob_inflates (hfirst : s.chip.decomp = j :: rest)
    (hu : u = { s.pass dt with chip := { s.chip with decomp := rest, jobs := sat 32 (s.chip.jobs + 1) } }) :
    exec (.codecJobComplete dt false chain data) s = match inflate (padTo j.inLen data) j.expect with
      | some out => .next (u.codecOut p l out (crc32c out).toNat)
      | none =>
        let v := ({ u with chip := { u.chip with strErr := sat 32 (s.chip.strErr + 1) } } : State).hit F.codecStream 0xFFFFFFFF idCodec 0
        .next (v.still p (v.complete p St.faulted 0 idCodec)) := by
  subst hu
  show execCodecJobComplete dt false chain data s = _
  unfold execCodecJobComplete
  dsimp only
  rw [if_neg Bool.false_ne_true, show (s.pass dt).chip.decomp = j :: rest from hfirst]
  dsimp only
  rw [hwho]
  dsimp only [Option.bind_some]
  have hp' : ∀ k, State.pend? { s.pass dt with chip := k } w seq = some p := fun _ => hp
  rw [hp']
  dsimp only
  rw [hl]
  cases inflate (padTo j.inLen data) j.expect <;> rfl

end

/-- Hits leave the list of PENDING commands. -/
theorem Touched.pend {s t : State} (h : Touched s t) (w : Sess) (seq : BitVec 32) : t.pend? w seq = s.pend? w seq := by
  unfold Touched at h
  rw [h]
  rfl

/-- An empty queue ends nothing (R440). -/
theorem codecJob_none {comp : Bool} (hempty : (if comp then s.chip.comp else s.chip.decomp) = []) :
    exec (.codecJobComplete dt comp chain data) s = .next (s.pass dt) := by
  show execCodecJobComplete dt comp chain data s = _
  unfold execCodecJobComplete
  dsimp only
  rw [show (if comp = true then (s.pass dt).chip.comp else (s.pass dt).chip.decomp) = [] from hempty]

/-- A job has left the decompressor's queue with its stream counted as bad (R443, R445). -/
def State.badStream (s : State) (rest : List CodecJob) : State :=
  { s with chip := { s.chip with decomp := rest, jobs := sat 32 (s.chip.jobs + 1), strErr := sat 32 (s.chip.strErr + 1) } }

/-- A stream that does not decode fails its command, once it has been counted and recorded (R443). -/
theorem codecJob_fails {j : CodecJob} {rest : List CodecJob} (hfirst : s.chip.decomp = j :: rest) (hwho : j.who = some (w, seq))
    (hp : s.pend? w seq = some p) (hq : ∃ q, (s.ses w).cq = some q) (hl : p.descs chain = some l)
    (hbad : inflate (padTo j.inLen data) j.expect = none) (htakes : Takes s F.codecStream 0xFFFFFFFF idCodec) :
    ∃ t v, exec (.codecJobComplete dt false chain data) s = .next t ∧ Recorded ((s.pass dt).badStream rest) v F.codecStream 0xFFFFFFFF idCodec 0 ∧
      Posted v t p St.faulted p.obj.toNat 0 idCodec := by
  have hexec := codecJob_inflates (dt := dt) (data := data) hwho hp hl hfirst rfl
  rw [hbad] at hexec
  have htakes' := takes_frame s ((s.pass dt).badStream rest) F.codecStream 0xFFFFFFFF idCodec rfl rfl htakes
  have htouch := hit_touched _ _ 0xFFFFFFFF idCodec 0 htakes'.calm
  have hstill : ((((s.pass dt).badStream rest).hit F.codecStream 0xFFFFFFFF idCodec 0).pend? p.who p.cmd.seq).isSome = true := by
    obtain ⟨hw, hs⟩ := pend_who _ _ _ _ hp
    rw [htouch.pend, hw, hs]
    exact Option.isSome_of_eq_some hp
  exact ⟨_, _, hexec.trans (congrArg Host.Outcome.next (if_pos hstill)), hit_recorded _ _ _ _ 0 htakes',
    pend_posts_touched (u := (s.pass dt).badStream rest) hp hq rfl htouch⟩

/-! ### The scan engines -/

section
variable {e sp poly a n : Nat} (h : Holds s w c 0x1104 20) (hroom : HasRoom s w) (hkind : s.pwr.kind ≠ 2) (he : u8 c.pay 0 = e) (he4 : e < 4)
  (hsp : u8 c.pay 1 = sp) (hsp2 : sp < 2) (hpoly : u8 c.pay 2 = poly) (hpoly2 : poly < 2) (hz : u8 c.pay 3 = 0) (ha : u64 c.pay 4 = a)
  (hn : u64 c.pay 12 = n) (hlow : 1 ≤ n) (hhigh : n ≤ 2 ^ 37) (hfits : a + n ≤ s.spaceSize sp)
include h hroom hkind he he4 hsp hsp2 hpoly hpoly2 hz ha hn hlow hhigh hfits

/-- A scan takes a free engine (R446). -/
theorem memoryScan_starts (hfree : (s.scanEngine e).who = none) : ∃ t, exec (.memoryScan dt w) s = .next t ∧
    Waiting ((s.pass dt).setScan e { who := some (w, c.seq), space := sp, poly := poly, start := a, len := n }) t w c e [] [] := by
  obtain ⟨hcmd, hop, -⟩ := h.pass dt
  have hvalid : e < 4 ∧ sp < 2 ∧ poly < 2 ∧ u8 c.pay 3 = 0 ∧ 1 ≤ n ∧ n ≤ 2 ^ 37 ∧ a + n ≤ (s.pass dt).spaceSize sp :=
    ⟨he4, hsp2, hpoly2, hz, hlow, hhigh, hfits⟩
  have hnone : ((s.pass dt).scanEngine e).who.isNone = true := Option.isNone_iff_eq_none.2 hfree
  refine ⟨_, rfl, runCmd_waiting hcmd hop (hroom.pass dt) ?_⟩
  dsimp only
  rw [h.plain, he, hsp, hpoly, ha, hn, need_ok _ _ _ _ (decide_eq_true hvalid), vet_ok (s.pass dt) _ hkind, hasQueue_ok _ _ _ (hroom.pass dt),
    need_ok _ _ _ _ hnone]

/-- An engine that scans refuses another scan (R446). -/
theorem memoryScan_busy (hbusy : (s.scanEngine e).who ≠ none) : ∃ t, exec (.memoryScan dt w) s = .next t ∧ Answered (s.pass dt) t w c St.busy [] := by
  have hvalid : e < 4 ∧ sp < 2 ∧ poly < 2 ∧ u8 c.pay 3 = 0 ∧ 1 ≤ n ∧ n ≤ 2 ^ 37 ∧ a + n ≤ (s.pass dt).spaceSize sp :=
    ⟨he4, hsp2, hpoly2, hz, hlow, hhigh, hfits⟩
  have hsome : ((s.pass dt).scanEngine e).who.isNone = false := Option.isNone_eq_false_iff.2 (Option.isSome_iff_ne_none.2 hbusy)
  refine ⟨_, rfl, runCmd_answered (h.pass dt) ?_⟩
  dsimp only
  rw [h.plain, he, hsp, hpoly, ha, hn, need_ok _ _ _ _ (decide_eq_true hvalid), vet_ok (s.pass dt) _ hkind, hasQueue_ok _ _ _ (hroom.pass dt),
    need_refuses _ _ _ _ hsome]
  rfl

end

/-- The granule at which a scan stops, of an OFFLINE channel (R419). -/
def State.scanStop (s : State) (x : Scan) : Option Nat := if x.space = 0 then s.offlineIn (x.start / 64) ((x.start + x.len - 1) / 64) else none

/-- What a scan that has read its range answers: the CRC of the bytes the model holds, or a free value (R447, log 11). -/
def State.scanEnds (s : State) (e : Nat) (x : Scan) (p : Pend) : State :=
  match if x.space = 1 then s.scratchBytes x.start x.len else none with
  | some b => s.complete p St.ok (crcCode x.poly b).toNat (idScan + e)
  | none => s.fresh.complete p St.ok (Config.value s.free % 2 ^ 32) (idScan + e)

/-- A scan that no other initiator disturbs reads its range, then fails or answers (R447). -/
theorem scanComplete_eq {e : Fin 4} {x : Scan} (upsets : List (Nat × ReadFate)) (hx : s.scanEngine e.val = x) (hwho : x.who = some (w, seq))
    (hp : s.pend? w seq = some p) :
    exec (.scanComplete dt e upsets none) s = .next (match (s.pass dt).scanReads e.val x ((s.pass dt).scanStop x) upsets with
      | (u, some a) => ((u.setScan e.val {}).hit F.scanPoison e.val (idScan + e.val) 1).complete p St.faulted a (idScan + e.val)
      | (u, none) => (u.setScan e.val {}).scanEnds e.val x p) := by
  show execScanComplete dt e upsets none s = _
  unfold execScanComplete
  dsimp only
  rw [show (s.pass dt).scanEngine e.val = x from hx, hwho]
  dsimp only [Option.bind_some]
  rw [show (s.pass dt).pend? w seq = some p from hp]
  dsimp only
  rw [show (if x.space = 0 then (s.pass dt).offlineIn (x.start / 64) ((x.start + x.len - 1) / 64) else none) = (s.pass dt).scanStop x from rfl]
  rcases (s.pass dt).scanReads e.val x ((s.pass dt).scanStop x) upsets with ⟨u, a | _⟩
  · dsimp only
    unfold State.scanEnds
    cases (if x.space = 1 then (u.setScan e.val {}).scratchBytes x.start x.len else none) <;> rfl
  · rfl

section
variable {e : Fin 4} {x : Scan} (hx : s.scanEngine e.val = x) (hwho : x.who = some (w, seq)) (hp : s.pend? w seq = some p)
  (hq : ∃ q, (s.ses w).cq = some q)
include hx hwho hp hq

/-- A scan that meets no error answers the CRC of its range (R447). -/
theorem scanComplete_answers (honline : x.space = 0 → s.offlineIn (x.start / 64) ((x.start + x.len - 1) / 64) = none) :
    (∀ b, x.space = 1 → ((s.pass dt).setScan e.val {}).scratchBytes x.start x.len = some b → ∃ t, exec (.scanComplete dt e [] none) s = .next t ∧
      Posted ((s.pass dt).setScan e.val {}) t p St.ok p.obj.toNat (crcCode x.poly b).toNat (idScan + e.val)) ∧
    ((x.space ≠ 1 ∨ ((s.pass dt).setScan e.val {}).scratchBytes x.start x.len = none) → ∃ t, exec (.scanComplete dt e [] none) s = .next t ∧
      Posted (((s.pass dt).setScan e.val {}).fresh) t p St.ok p.obj.toNat (Config.value s.free % 2 ^ 32) (idScan + e.val)) := by
  have hstop : (s.pass dt).scanStop x = none := by
    unfold State.scanStop
    split
    · next hzero => exact honline hzero
    · rfl
  have hexec : exec (.scanComplete dt e [] none) s = .next (((s.pass dt).setScan e.val {}).scanEnds e.val x p) := by
    rw [scanComplete_eq [] hx hwho hp, hstop]
    rfl
  unfold State.scanEnds at hexec
  refine ⟨fun b hone hb => ?_, fun hfree => ?_⟩
  · rw [if_pos hone, hb] at hexec
    exact ⟨_, hexec, pend_posts hp hq rfl⟩
  · rw [show (if x.space = 1 then ((s.pass dt).setScan e.val {}).scratchBytes x.start x.len else none) = none from
      hfree.elim (fun h => if_neg h) (fun h => by rw [h, ite_self])] at hexec
    exact ⟨_, hexec, pend_posts (u := ((s.pass dt).setScan e.val {}).fresh) hp hq rfl⟩

/-- A scan of the scratchpad fails at a poisoned granule of its range, which is recorded with the scan's own failure (R436, R447). -/
theorem scanComplete_fails {g : Nat} (hone : x.space = 1) (hlow : x.start / 64 ≤ g) (hhigh : g ≤ (x.start + x.len - 1) / 64)
    (hecc : Takes s F.scratchEcc (64 * g) (idScan + e.val)) (hpoison : Takes s F.scanPoison e.val (idScan + e.val)) :
    ∃ t u v, exec (.scanComplete dt e [(g, .poisoned)] none) s = .next t ∧ Recorded (s.pass dt) u F.scratchEcc (64 * g) (idScan + e.val) 1 ∧
      Recorded (u.setScan e.val {}) v F.scanPoison e.val (idScan + e.val) 1 ∧ Posted v t p St.faulted p.obj.toNat (64 * g) (idScan + e.val) := by
  have hzero : x.space ≠ 0 := by omega
  have hin : ¬(g < x.start / 64 ∨ (x.start + x.len - 1) / 64 < g) := by omega
  have hreads : (s.pass dt).scanReads e.val x ((s.pass dt).scanStop x) [(g, .poisoned)] =
      ((s.pass dt).hit F.scratchEcc (64 * g) (idScan + e.val) 1, some (64 * g)) := by
    rw [show (s.pass dt).scanStop x = none from if_neg hzero]
    unfold State.scanReads
    dsimp only
    rw [if_neg Bool.false_ne_true, if_neg hin, if_neg hzero]
  have hecc' : Takes (s.pass dt) F.scratchEcc (64 * g) (idScan + e.val) := takes_frame s _ _ _ _ rfl rfl hecc
  have htouch := hit_touched _ _ (64 * g) (idScan + e.val) 1 hecc'.calm
  have hpoison' : Takes (((s.pass dt).hit F.scratchEcc (64 * g) (idScan + e.val) 1).setScan e.val {}) F.scanPoison e.val (idScan + e.val) :=
    takes_frame _ _ _ _ _ rfl rfl (takes_touched _ _ htouch _ _ _ (takes_frame s _ _ _ _ rfl rfl hpoison))
  refine ⟨_, _, _, (scanComplete_eq _ hx hwho hp).trans (by rw [hreads]), hit_recorded _ _ _ _ 1 hecc', hit_recorded _ _ _ _ 1 hpoison', ?_⟩
  obtain ⟨q, hq⟩ := hq
  obtain ⟨rfl, -⟩ := pend_who _ _ _ _ hp
  refine complete_posted _ p q _ _ _ ?_
  rw [(hit_touched _ _ _ _ 1 hpoison'.calm).ses, setScan_ses, htouch.ses]
  exact hq

end

/-- An access of the secure scratchpad by another initiator than FENDER is denied and recorded (R438). -/
theorem scanComplete_denies {e : Fin 4} {m : BitVec 8} {a : BitVec 32} (hidle : (s.scanEngine e.val).who = none) (hm : m.toNat ≠ idFender)
    (htakes : Takes s F.secureScratchDenied a.toNat m.toNat) :
    ∃ t, exec (.scanComplete dt e [] (some (m, a))) s = .next t ∧ Recorded (s.pass dt) t F.secureScratchDenied a.toNat m.toNat 1 := by
  have htakes' : Takes (s.pass dt) F.secureScratchDenied a.toNat m.toNat := takes_frame s _ _ _ _ rfl rfl htakes
  refine ⟨_, ?_, hit_recorded _ _ _ _ 1 htakes'⟩
  have hidle' : (((s.pass dt).hit F.secureScratchDenied a.toNat m.toNat 1).scanEngine e.val).who = none := by
    unfold State.scanEngine
    rw [(hit_touched _ _ a.toNat m.toNat 1 htakes'.calm).chip]
    exact hidle
  show execScanComplete dt e [] (some (m, a)) s = _
  unfold execScanComplete
  dsimp only
  rw [if_neg hm, hidle']
  rfl

/-- Settles O42, command by command: the codec's queues in order, and the scans by what their reads meet. -/
theorem memoryCommandsAnswer : Obligations.MemoryCommandsAnswer := by
  unfold Obligations.MemoryCommandsAnswer
  refine ⟨?_, ?_, ?_, ?_, ?_, ?_, ?_, ?_, ?_⟩
  · intro dt i w s c x h hkind hi hlt hz hx
    subst hx
    exact memoryStatus_answers h hkind hi hlt hz
  · intro dt i r w s c h hkind hi hlt hr hr2 hz
    exact ⟨trainingRead_answers h hkind hi hlt hr hr2 hz, trainingRead_refuses h hkind hi hlt hr hr2 hz⟩
  · intro dt m w s c l a j h hroom hkind hm hm2 hz1 hexpect hz2 hj
    exact ⟨memoryCodec_inflates h hroom hkind hm hm2 hz1 hexpect hz2 hj, memoryCodec_deflates h hroom hkind hm hm2 hz1 hexpect hz2 hj,
      memoryCodec_full h hroom hkind hm hm2 hz1 hexpect hz2⟩
  · intro dt chain data input out w seq s u p j rest l hfirst hwho hp hq hl hinput hu hout
    subst hinput
    have hexec := codecJob_compresses hwho hp hl hfirst hu hout
    by_cases hlong : (padTo j.inLen data).length ≤ out.length ∧ (padTo j.inLen data).length ≤ total l
    · rw [if_pos hlong] at hexec
      exact ⟨_, hexec, fun _ _ => pend_posts hp hq (by rw [hu]; rfl), fun hnot => absurd hlong hnot⟩
    · rw [if_neg hlong] at hexec
      exact ⟨_, hexec, fun h1 h2 => absurd ⟨h1, h2⟩ hlong, fun _ => codecOut_posts (u := u.fresh) hp hq (by rw [hu]; rfl)⟩
  · intro dt chain data w seq s u p j rest l hfirst hwho hp hq hl hu
    refine ⟨fun out hout => ?_, fun hbad htakes => ?_⟩
    · have hexec := codecJob_inflates (data := data) hwho hp hl hfirst hu
      rw [hout] at hexec
      exact ⟨_, hexec, codecOut_posts hp hq (by rw [hu]; rfl)⟩
    · subst hu
      exact codecJob_fails hfirst hwho hp hq hl hbad htakes
  · intro dt comp chain data s hempty
    exact codecJob_none hempty
  · intro dt e sp poly a n w s c h hroom hkind he he4 hsp hsp2 hpoly hpoly2 hz ha hn hlow hhigh hfits
    exact ⟨memoryScan_starts h hroom hkind he he4 hsp hsp2 hpoly hpoly2 hz ha hn hlow hhigh hfits,
      memoryScan_busy h hroom hkind he he4 hsp hsp2 hpoly hpoly2 hz ha hn hlow hhigh hfits⟩
  · intro dt e w seq s p x hx hwho hp hq honline
    obtain ⟨hheld, hfree⟩ := scanComplete_answers (dt := dt) hx hwho hp hq honline
    exact ⟨hheld, hfree, fun g hone hlow hhigh => scanComplete_fails hx hwho hp hq hone hlow hhigh⟩
  · intro dt e m a s hidle hm htakes
    exact scanComplete_denies hidle hm htakes

end Sys2Proof.Machine
end

section
/-!
# The choice of a DDR4 channel's next command (R413, R415, R416)
-/
namespace Sys2Proof.Machine

/-- A pair of `withBefore` is an entry of the list with those before it. -/
theorem mem_withBefore (l : List (DdrReq × Nat)) : ∀ (before : List (DdrReq × Nat)) (q : List (DdrReq × Nat) × (DdrReq × Nat)),
    q ∈ withBefore before l ↔ ∃ b a, l = b ++ q.2 :: a ∧ q.1 = before ++ b := by
  induction l with
  | nil => simp [withBefore]
  | cons x t ih =>
    intro before q
    rw [withBefore, List.mem_cons, ih]
    constructor
    · rintro (rfl | ⟨b, a, rfl, hq⟩)
      · exact ⟨[], t, rfl, (List.append_nil before).symm⟩
      · exact ⟨x :: b, a, rfl, by rw [hq, List.append_assoc, List.singleton_append]⟩
    · rintro ⟨b, a, hl, hq⟩
      cases b with
      | nil =>
        obtain ⟨rfl, rfl⟩ := List.cons.inj hl
        exact .inl (Prod.ext (by rw [hq, List.append_nil]) rfl)
      | cons y b =>
        obtain ⟨rfl, rfl⟩ := List.cons.inj hl
        exact .inr ⟨b, a, rfl, by rw [hq, List.append_assoc, List.singleton_append]⟩

/-- A request waits on no other of its granule, but a read on reads. -/
theorem waitsOn_eq_false (before : List (DdrReq × Nat)) (r : DdrReq) :
    waitsOn before r = false ↔ ∀ d ∈ before, d.1.granule = r.granule → d.1.write = false ∧ r.write = false := by
  simp [waitsOn]

/-- A read waits on a write of its granule. -/
theorem waitsOn_read {before : List (DdrReq × Nat)} {r : DdrReq} (hread : r.write = false) :
    waitsOn before r = true ↔ ∃ d ∈ before, d.1.granule = r.granule ∧ d.1.write = true := by
  simp [waitsOn, hread]

/-- When a channel drains its writes (R413). -/
theorem drains_iff (u : State) (c : Nat) : u.drains c = true ↔ 48 ≤ (u.chan c).reqs.countP (fun e => e.1.write) ∨ (∀ e ∈ (u.chan c).reqs, e.1.write = true) ∨
    ∃ b e a, (u.chan c).reqs = b ++ e :: a ∧ e.1.write = false ∧ ∃ d ∈ b, d.1.granule = e.1.granule ∧ d.1.write = true := by
  unfold State.drains
  dsimp only
  rw [Bool.or_eq_true, Bool.or_eq_true, decide_eq_true_iff, List.all_eq_true, or_assoc, List.any_eq_true]
  refine or_congr Iff.rfl (or_congr Iff.rfl ⟨?_, ?_⟩)
  · rintro ⟨⟨b, e⟩, hmem, hwaits⟩
    obtain ⟨b', a, hl, hb⟩ := (mem_withBefore _ _ _).1 hmem
    rw [Bool.and_eq_true, Bool.not_eq_true'] at hwaits
    obtain ⟨hread, hwaits⟩ := hwaits
    obtain rfl : b = b' := hb
    exact ⟨b, e, a, hl, hread, (waitsOn_read hread).1 hwaits⟩
  · rintro ⟨b, e, a, hl, hread, hbefore⟩
    refine ⟨(b, e), (mem_withBefore _ _ _).2 ⟨b, a, hl, rfl⟩, ?_⟩
    rw [Bool.and_eq_true, Bool.not_eq_true']
    exact ⟨hread, (waitsOn_read hread).2 hbefore⟩

/-- The requests that a channel may choose from (R413, R415). -/
theorem mem_reqChoices (u : State) (c : Nat) (e : DdrReq × Nat) : e ∈ u.reqChoices c ↔ ∃ b a, (u.chan c).reqs = b ++ e :: a ∧
    (∀ d ∈ b, d.1.granule = e.1.granule → d.1.write = false ∧ e.1.write = false) ∧
    (e.1.write = true → u.drains c = true ∧ b.countP (fun d => d.1.write) < 64) := by
  have hmay : ∀ b : List (DdrReq × Nat), (!waitsOn b e.1 && (!e.1.write || u.drains c && decide (b.countP (fun e => e.1.write) < 64))) = true ↔
      (∀ d ∈ b, d.1.granule = e.1.granule → d.1.write = false ∧ e.1.write = false) ∧
      (e.1.write = true → u.drains c = true ∧ b.countP (fun d => d.1.write) < 64) := by
    intro b
    rw [Bool.and_eq_true, Bool.not_eq_true', waitsOn_eq_false]
    refine and_congr Iff.rfl ?_
    cases e.1.write <;> simp
  unfold State.reqChoices
  dsimp only
  rw [List.mem_map]
  constructor
  · rintro ⟨⟨b, e'⟩, hmem, rfl⟩
    obtain ⟨hmem, hok⟩ := List.mem_filter.1 hmem
    obtain ⟨b', a, hl, hb⟩ := (mem_withBefore _ _ _).1 hmem
    obtain rfl : b = b' := hb
    exact ⟨b, a, hl, (hmay b).1 hok⟩
  · rintro ⟨b, a, hl, hok⟩
    exact ⟨(b, e), List.mem_filter.2 ⟨(mem_withBefore _ _ _).2 ⟨b, a, hl, rfl⟩, (hmay b).2 hok⟩, rfl⟩

/-- A choice is a request that waits. -/
theorem reqChoices_subset {u : State} {c : Nat} {e : DdrReq × Nat} (h : e ∈ u.reqChoices c) : e ∈ (u.chan c).reqs := by
  obtain ⟨b, a, hl, -⟩ := (mem_reqChoices u c e).1 h
  rw [hl]
  exact List.mem_append_right b List.mem_cons_self

/-- The running maximum is no lower than where it began, nor than any value it met. -/
theorem foldl_max_ge {α : Type} (f : α → Nat) (l : List α) : ∀ m : Nat, m ≤ l.foldl (fun m e => max m (f e)) m ∧ ∀ d ∈ l, f d ≤ l.foldl (fun m e => max m (f e)) m := by
  induction l with
  | nil => exact fun m => ⟨le_rfl, fun _ h => absurd h List.not_mem_nil⟩
  | cons x t ih =>
    intro m
    obtain ⟨hm, ht⟩ := ih (max m (f x))
    refine ⟨(le_max_left m (f x)).trans hm, fun d hd => ?_⟩
    rcases List.mem_cons.1 hd with rfl | hd
    · exact (le_max_right m (f d)).trans hm
    · exact ht d hd

/-- The highest urgency among a channel's choices. -/
def State.topUrgency (u : State) (c : Nat) : Nat := (u.reqChoices c).foldl (fun m e => max m (u.reqUrgency c e)) 0

/-- The choices of the highest urgency, in the order they entered. -/
def State.urgentChoices (u : State) (c : Nat) : List (DdrReq × Nat) := (u.reqChoices c).filter (fun e => u.reqUrgency c e == u.topUrgency c)

/-- The oldest hit of an open row goes next while 4 have not gone ahead in a row, and else the oldest choice (R413). -/
theorem nextReq_of_hit {u : State} {c : Nat} {d : DdrReq × Nat} (hfind : (u.urgentChoices c).find? (fun e => u.rowHit c e.1) = some d) :
    u.nextReq c = if (u.chan c).streak < 4 then some d else (u.urgentChoices c).head? := by
  unfold State.urgentChoices State.topUrgency at hfind ⊢
  unfold State.nextReq
  dsimp only
  rw [hfind]

/-- Without a hit the oldest choice goes next (R413). -/
theorem nextReq_of_none {u : State} {c : Nat} (hfind : (u.urgentChoices c).find? (fun e => u.rowHit c e.1) = none) :
    u.nextReq c = (u.urgentChoices c).head? := by
  unfold State.urgentChoices State.topUrgency at hfind ⊢
  unfold State.nextReq
  dsimp only
  rw [hfind]

/-- The next command is one of the choices of the highest urgency. -/
theorem nextReq_mem {u : State} {c : Nat} {e : DdrReq × Nat} (h : u.nextReq c = some e) : e ∈ u.urgentChoices c := by
  cases hfind : (u.urgentChoices c).find? (fun e => u.rowHit c e.1) with
  | none =>
    rw [nextReq_of_none hfind] at h
    exact List.mem_of_mem_head? h
  | some d =>
    rw [nextReq_of_hit hfind] at h
    by_cases hstreak : (u.chan c).streak < 4
    · rw [if_pos hstreak] at h
      exact Option.some.inj h ▸ List.mem_of_find?_eq_some hfind
    · rw [if_neg hstreak] at h
      exact List.mem_of_mem_head? h

/-- A choice of the highest urgency. -/
theorem mem_urgentChoices {u : State} {c : Nat} {e : DdrReq × Nat} : e ∈ u.urgentChoices c ↔ e ∈ u.reqChoices c ∧ u.reqUrgency c e = u.topUrgency c := by
  unfold State.urgentChoices
  rw [List.mem_filter, beq_iff_eq]

/-- No choice is more urgent than the next command (R413). -/
theorem nextReq_urgent {u : State} {c : Nat} {e d : DdrReq × Nat} (h : u.nextReq c = some e) (hd : d ∈ u.reqChoices c) : u.reqUrgency c d ≤ u.reqUrgency c e := by
  obtain ⟨-, htop⟩ := mem_urgentChoices.1 (nextReq_mem h)
  rw [htop]
  exact (foldl_max_ge (u.reqUrgency c) (u.reqChoices c) 0).2 d hd

/-- Without a hit that may go ahead, the next command is the oldest of its urgency (R413). -/
theorem nextReq_oldest {u : State} {c : Nat} {e : DdrReq × Nat} (h : u.nextReq c = some e)
    (hno : 4 ≤ (u.chan c).streak ∨ ∀ d ∈ u.reqChoices c, u.reqUrgency c d = u.reqUrgency c e → u.rowHit c d.1 = false) :
    (u.reqChoices c).find? (fun d => u.reqUrgency c d == u.reqUrgency c e) = some e := by
  obtain ⟨-, htop⟩ := mem_urgentChoices.1 (nextReq_mem h)
  have hhead : (u.urgentChoices c).head? = some e := by
    cases hfind : (u.urgentChoices c).find? (fun e => u.rowHit c e.1) with
    | none => rwa [nextReq_of_none hfind] at h
    | some d =>
      rw [nextReq_of_hit hfind] at h
      by_cases hstreak : (u.chan c).streak < 4
      · obtain ⟨hchoice, hurgent⟩ := mem_urgentChoices.1 (List.mem_of_find?_eq_some hfind)
        have hhit : u.rowHit c d.1 = true := List.find?_some (p := fun e : DdrReq × Nat => u.rowHit c e.1) hfind
        rcases hno with hfour | hno
        · omega
        · rw [hno d hchoice (hurgent.trans htop.symm)] at hhit
          exact absurd hhit Bool.false_ne_true
      · rwa [if_neg hstreak] at h
  rw [htop, ← List.head?_filter]
  exact hhead

/-- A hit of an open row goes ahead while fewer than 4 have gone in a row (R413). -/
theorem nextReq_hit {u : State} {c : Nat} {e d : DdrReq × Nat} (h : u.nextReq c = some e) (hstreak : (u.chan c).streak < 4) (hd : d ∈ u.reqChoices c)
    (hsame : u.reqUrgency c d = u.reqUrgency c e) (hhit : u.rowHit c d.1 = true) : u.rowHit c e.1 = true := by
  obtain ⟨-, htop⟩ := mem_urgentChoices.1 (nextReq_mem h)
  cases hfind : (u.urgentChoices c).find? (fun e => u.rowHit c e.1) with
  | none => exact absurd hhit (List.find?_eq_none.1 hfind d (mem_urgentChoices.2 ⟨hd, hsame.trans htop⟩))
  | some b =>
    rw [nextReq_of_hit hfind, if_pos hstreak] at h
    rw [← Option.some.inj h]
    exact List.find?_some (p := fun e : DdrReq × Nat => u.rowHit c e.1) hfind

/-- A channel's record after it is written. -/
@[simp] theorem chan_setChan_same (s : State) (c : Nat) (x : DdrChan) : (s.setChan c x).chan c = x := sel_put_same _ _ _ _

/-- A write that is issued makes no read that did not wait. -/
theorem issueReq_reads {u : State} {c : Nat} {e d : DdrReq × Nat} (hwrite : e.1.write = true) (hread : d.1.write = false)
    (hd : d ∈ ((u.issueReq c e).chan c).reqs) : d ∈ (u.chan c).reqs := by
  unfold State.issueReq at hd
  dsimp only at hd
  rw [chan_setChan_same] at hd
  dsimp only at hd
  split at hd
  · obtain ⟨y, hy, hyd⟩ := List.mem_map.1 hd
    by_cases heq : y = e
    · rw [if_pos heq] at hyd
      rw [← hyd] at hread
      exact absurd (hwrite.symm.trans hread) (by decide)
    · rw [if_neg heq] at hyd
      exact hyd ▸ hy
  · exact List.mem_of_mem_erase hd

/-- The command that ends a channel's turn is a read that waited there when it began (R413). -/
theorem issueRead_read (c : Nat) (e : DdrReq × Nat) (n : Nat) : ∀ u v : State, u.issueRead n c = (v, some e) → e.1.write = false ∧ e ∈ (u.chan c).reqs := by
  induction n with
  | zero => exact fun u v h => absurd (congrArg Prod.snd h) (by simp [State.issueRead])
  | succ n ih =>
    intro u v h
    rw [State.issueRead] at h
    cases hnext : u.nextReq c with
    | none =>
      rw [hnext] at h
      exact absurd (congrArg Prod.snd h) (by simp)
    | some d =>
      rw [hnext] at h
      dsimp only at h
      by_cases hwrite : d.1.write = true
      · rw [if_pos hwrite] at h
        obtain ⟨hread, hmem⟩ := ih _ _ h
        exact ⟨hread, issueReq_reads hwrite hread hmem⟩
      · rw [if_neg hwrite] at h
        obtain rfl : d = e := Option.some.inj (congrArg Prod.snd h)
        exact ⟨Bool.eq_false_iff.2 hwrite, reqChoices_subset (mem_urgentChoices.1 (nextReq_mem hnext)).1⟩

end Sys2Proof.Machine
end

section
/-!
# Reads that return from a DDR4 channel (R411, R414, R420 to R422)
-/
namespace Sys2Proof.Machine

variable {s v : State} {ch dt : Nat} {x : DdrChan} {r : DdrReq}

/-- Hits leave the DDR4 channels. -/
theorem Touched.ddr {s t : State} (h : Touched s t) : t.ddr = s.ddr := by
  unfold Touched at h
  rw [h]

/-- Hits leave a channel. -/
theorem Touched.chan {s t : State} (h : Touched s t) (c : Nat) : t.chan c = s.chan c := by
  unfold State.chan
  rw [h.ddr]

/-- Issuing postponed refreshes leaves the sessions. -/
theorem drainRefresh_host (s : State) (c : Nat) : (s.drainRefresh c).host = s.host := by
  unfold State.drainRefresh
  split
  · rfl
  · rfl

/-- The sessions are the host's. -/
theorem ses_of_host {s t : State} (h : t.host = s.host) (w : Sess) : t.ses w = s.ses w := by
  unfold State.ses
  rw [h]

/-- The PENDING commands are the host's. -/
theorem pend_of_host {s t : State} (h : t.host = s.host) (w : Sess) (seq : BitVec 32) : t.pend? w seq = s.pend? w seq := by
  unfold State.pend?
  rw [h]

/-! ### A read past twice its target (R414) -/

/-- A read of ports 0 to 7, or one in time, is not late. -/
theorem qosCheck_inTime {q age : Nat} (h : q < 8 ∨ age ≤ 2 * v.portTarget q) : v.qosCheck q age = v := if_pos h

/-- A late read of a port whose lateness was recorded less than a second before is counted only. -/
theorem qosCheck_again {q age a : Nat} (hq : 8 ≤ q) (hlate : 2 * v.portTarget q < age) (ha : look v.ddr.lateAt q = some a) (hrecent : v.now < a + perSecond) :
    v.qosCheck q age = { v with ddr := { v.ddr with late := put v.ddr.late q (sat 32 (sel v.ddr.late q 0 + 1)) } } := by
  unfold State.qosCheck
  have hnotDue : ¬decide (a + perSecond ≤ v.now) = true := by
    rw [decide_eq_true_iff]
    exact Nat.not_le.2 hrecent
  rw [if_neg (by omega), ha]
  dsimp only
  rw [if_neg hnotDue, if_neg hnotDue]

/-- A late read of a port is counted, at the time it is recorded (R414). -/
def State.lateNoted (v : State) (q : Nat) : State :=
  { v with ddr := { v.ddr with late := put v.ddr.late q (sat 32 (sel v.ddr.late q 0 + 1)), lateAt := put v.ddr.lateAt q v.now } }

/-- A late read of another port is counted and recorded. -/
theorem qosCheck_first {q age : Nat} (hq : 8 ≤ q) (hlate : 2 * v.portTarget q < age) (hold : ∀ a, look v.ddr.lateAt q = some a → a + perSecond ≤ v.now) :
    v.qosCheck q age = (v.lateNoted q).fault F.ddrQosLate q := by
  unfold State.qosCheck
  rw [if_neg (by omega)]
  dsimp only
  cases ha : look v.ddr.lateAt q with
  | none => exact if_pos rfl
  | some a =>
    have hdue : decide (a + perSecond ≤ v.now) = true := decide_eq_true (hold a ha)
    dsimp only
    rw [if_pos hdue, if_pos hdue]
    rfl

/-! ### What a read meets (R420, R421) -/

/-- A clean read of a channel that is not OFFLINE meets nothing. -/
theorem readEcc_clean {g m : Nat} (hx : (v.chan ch).state ≠ 4) : v.readEcc ch g .clean m = (v, false) := if_neg hx

/-- A corrected read is counted and recorded. -/
theorem readEcc_corrected {g m : Nat} (hx : v.chan ch = x) (hon : x.state ≠ 4) :
    v.readEcc ch g .corrected m = ((v.setChan ch { x with corr := sat 32 (x.corr + 1) }).hit F.ddrEccCorr g m 1, false) := by
  subst hx
  exact if_neg hon

/-- A read that a repeat clears is counted and recorded. -/
theorem readEcc_cleared {g m : Nat} (hx : v.chan ch = x) (hon : x.state ≠ 4) :
    v.readEcc ch g .cleared m = ((v.setChan ch { x with reread := sat 32 (x.reread + 1) }).hit F.ddrEccReread g m 1, false) := by
  subst hx
  exact if_neg hon

/-- A poisoned read is counted, recorded and delivered poisoned. -/
theorem readEcc_poisoned {g m : Nat} (hx : v.chan ch = x) (hon : x.state ≠ 4) :
    v.readEcc ch g .poisoned m = ((v.setChan ch { x with pois := sat 32 (x.pois + 1) }).hit F.ddrEccPoison g m 1, true) := by
  subst hx
  exact if_neg hon

/-- A read that is not poisoned goes to its port. -/
theorem readReturns_good {a : State} {age : Nat} {fate : ReadFate} (h : (v.qosCheck r.port.val age).readEcc ch r.granule fate r.master.toNat = (a, false)) :
    v.readReturns ch r age fate = a.drainRefresh ch := by
  unfold State.readReturns
  rw [h]
  rfl

/-- The unit of a failing read's completion: the codec, HOB, or the engine that read. -/
def failUnit (r : DdrReq) : Nat := if r.port.val = 9 then idCodec else if r.port.val = 10 then idHob else r.master.toNat

/-- What a poisoned read does at its port (R411). -/
def State.poisonTo (b : State) (r : DdrReq) : State :=
  if r.port.val < 8 then
    match r.win with
    | some (slot, rg, line, g, ring) => b.poisonGranule slot.val rg.val line g (ring.map Fin.val)
    | none => b
  else if r.port.val = 8 then b else b.failCommand r.who (failUnit r)

/-- A poisoned read goes to its port. -/
theorem readReturns_poisoned {a : State} {age : Nat} {fate : ReadFate} (h : (v.qosCheck r.port.val age).readEcc ch r.granule fate r.master.toNat = (a, true)) :
    v.readReturns ch r age fate = (a.drainRefresh ch).poisonTo r := by
  unfold State.readReturns
  rw [h]
  rfl

/-- A poisoned read that serves no window and no command fails none. -/
theorem poisonTo_none {b : State} (h : r.port.val = 8 ∨ r.port.val < 8 ∧ r.win = none ∨ 8 < r.port.val ∧ r.who = none) : b.poisonTo r = b := by
  unfold State.poisonTo
  rcases h with h | ⟨hport, hwin⟩ | ⟨hport, hwho⟩
  · rw [if_neg (by omega), if_pos h]
  · rw [if_pos hport, hwin]
  · rw [if_neg (by omega), if_neg (by omega), hwho]
    rfl

/-- A poisoned read of a fetch port poisons its granule in the window. -/
theorem poisonTo_window {b : State} {slot : Fin 160} {rg : Fin 2} {line g : Nat} {ring : Option (Fin 16)} (hport : r.port.val < 8)
    (hwin : r.win = some (slot, rg, line, g, ring)) : b.poisonTo r = b.poisonGranule slot.val rg.val line g (ring.map Fin.val) := by
  unfold State.poisonTo
  rw [if_pos hport, hwin]

/-- A poisoned read fails the PENDING codec or scan command that it serves (R444, R447). -/
theorem poisonTo_pending {b : State} {w : Sess} {seq : BitVec 32} {p : Pend} (hport : 8 < r.port.val) (hwho : r.who = some (w, seq))
    (hp : b.pend? w seq = some p) (hop : p.cmd.op = 0x1103 ∨ p.cmd.op = 0x1104) : b.poisonTo r = (b.undo p).complete p St.faulted 0 (failUnit r) := by
  have hnotStage : p.cmd.op ≠ 0x0204 := by
    rcases hop with hop | hop <;> rw [hop] <;> decide
  unfold State.poisonTo State.failCommand
  rw [if_neg (by omega), if_neg (by omega), hwho]
  dsimp only
  rw [hp]
  exact if_neg hnotStage

/-- A poisoned read fails the command in its slot that it serves (R89). -/
theorem poisonTo_slot {b : State} {w : Sess} {c : Cmd} (hport : 8 < r.port.val) (hwho : r.who = some (w, c.seq)) (hp : b.pend? w c.seq = none)
    (hcmd : (b.ses w).cmd = some c) : b.poisonTo r = b.deliver w c St.faulted [] := by
  unfold State.poisonTo State.failCommand
  rw [if_neg (by omega), if_neg (by omega), hwho]
  dsimp only
  rw [hp]
  dsimp only
  rw [hcmd]
  exact if_pos rfl

/-! ### DDR_READ -/

section
variable {port : Option (Fin 12)} {c : Fin 3} {granule age : Nat} {fate : ReadFate} {master : BitVec 8} {who : Option (Sess × BitVec 32)}
  {win : Option (Fin 160 × Fin 2 × Nat × Nat × Option (Fin 16))} {queued : List DdrReq} {u : State}

/-- A channel that has not trained reads nothing. -/
theorem ddrRead_untrained (h : s.trained c.val = false) : exec (.ddrRead dt port c granule fate age master who win queued) s = .next (s.pass dt) := by
  have hnot : (!(s.pass dt).trained c.val) = true := congrArg Bool.not h
  exact if_pos hnot

/-- A trained channel issues its commands, and the read among them returns (R413). -/
theorem ddrRead_issues (h : s.trained c.val = true) (hu : u = (s.pass dt).enter c.val (queued ++ readOf port granule age master who win)) :
    exec (.ddrRead dt port c granule fate age master who win queued) s = .next (match u.issueRead (2 * (u.chan c.val).reqs.length) c.val with
      | (v, some e) => v.readReturns c.val e.1 (v.reqAge e) fate
      | (v, none) => v.drainRefresh c.val) := by
  have hyes : ¬(!(s.pass dt).trained c.val) = true := by
    rw [show (s.pass dt).trained c.val = true from h]
    decide
  subst hu
  refine (if_neg hyes).trans ?_
  rcases State.issueRead _ _ _ with ⟨v, e | _⟩ <;> rfl

end

end Sys2Proof.Machine
end

section
/-!
# What a returning read leaves, by what it met (R411, R414, R420 to R422)
-/
namespace Sys2Proof.Machine

variable {v : State} {ch age : Nat} {x : DdrChan} {r : DdrReq}

section
variable (hx : v.chan ch = x) (hon : x.state ≠ 4) (hintime : r.port.val < 8 ∨ age ≤ 2 * v.portTarget r.port.val)
include hx hon hintime

/-- A clean read in time leaves the channel to its refreshes. -/
theorem readReturns_clean : v.readReturns ch r age .clean = v.drainRefresh ch := by
  refine readReturns_good ?_
  rw [qosCheck_inTime hintime]
  exact readEcc_clean (hx ▸ hon)

/-- A corrected read in time is counted and recorded (R420). -/
theorem readReturns_corrected (htakes : Takes v F.ddrEccCorr r.granule r.master.toNat) :
    ∃ a, Recorded (v.setChan ch { x with corr := sat 32 (x.corr + 1) }) a F.ddrEccCorr r.granule r.master.toNat 1 ∧
      v.readReturns ch r age .corrected = a.drainRefresh ch := by
  refine ⟨_, hit_recorded _ _ _ _ 1 (takes_frame v _ _ _ _ rfl rfl htakes), readReturns_good ?_⟩
  rw [qosCheck_inTime hintime]
  exact readEcc_corrected hx hon

/-- A read that a repeat clears is counted and recorded (R420). -/
theorem readReturns_cleared (htakes : Takes v F.ddrEccReread r.granule r.master.toNat) :
    ∃ a, Recorded (v.setChan ch { x with reread := sat 32 (x.reread + 1) }) a F.ddrEccReread r.granule r.master.toNat 1 ∧
      v.readReturns ch r age .cleared = a.drainRefresh ch := by
  refine ⟨_, hit_recorded _ _ _ _ 1 (takes_frame v _ _ _ _ rfl rfl htakes), readReturns_good ?_⟩
  rw [qosCheck_inTime hintime]
  exact readEcc_cleared hx hon

/-- A poisoned read is counted, recorded and goes to its port, and the sessions stand as they did (R421). -/
theorem readReturns_poisons (htakes : Takes v F.ddrEccPoison r.granule r.master.toNat) :
    ∃ a b, Recorded (v.setChan ch { x with pois := sat 32 (x.pois + 1) }) a F.ddrEccPoison r.granule r.master.toNat 1 ∧ b = a.drainRefresh ch ∧
      v.readReturns ch r age .poisoned = b.poisonTo r ∧ (∀ w, b.ses w = v.ses w) ∧ ∀ w seq, b.pend? w seq = v.pend? w seq := by
  have htakes' : Takes (v.setChan ch { x with pois := sat 32 (x.pois + 1) }) F.ddrEccPoison r.granule r.master.toNat := takes_frame v _ _ _ _ rfl rfl htakes
  have htouch := hit_touched _ _ r.granule r.master.toNat 1 htakes'.calm
  refine ⟨_, _, hit_recorded _ _ _ _ 1 htakes', rfl, readReturns_poisoned ?_, fun w => ?_, fun w seq => ?_⟩
  · rw [qosCheck_inTime hintime]
    exact readEcc_poisoned hx hon
  · rw [ses_of_host (drainRefresh_host _ ch), htouch.ses]
    exact ses_of_host rfl w
  · rw [pend_of_host (drainRefresh_host _ ch), htouch.pend]
    exact pend_of_host rfl w seq

end

section
variable (hx : v.chan ch = x) (hon : x.state ≠ 4) (hport : 8 ≤ r.port.val) (hlate : 2 * v.portTarget r.port.val < age)
include hx hon hport hlate

/-- A late read is only counted in the second after one was recorded (R414). -/
theorem readReturns_lateAgain {a : Nat} (ha : look v.ddr.lateAt r.port.val = some a) (hrecent : v.now < a + perSecond) :
    v.readReturns ch r age .clean = State.drainRefresh { v with ddr := { v.ddr with
      late := put v.ddr.late r.port.val (sat 32 (sel v.ddr.late r.port.val 0 + 1)) } } ch := by
  refine readReturns_good ?_
  rw [qosCheck_again hport hlate ha hrecent]
  exact readEcc_clean (hx ▸ hon)

/-- A late read is counted and recorded otherwise (R414). -/
theorem readReturns_lateFirst (hold : ∀ a, look v.ddr.lateAt r.port.val = some a → a + perSecond ≤ v.now) (htakes : Takes v F.ddrQosLate r.port.val idNone) :
    ∃ a, Recorded (v.lateNoted r.port.val) a F.ddrQosLate r.port.val idNone 0 ∧ v.readReturns ch r age .clean = a.drainRefresh ch := by
  have htakes' : Takes (v.lateNoted r.port.val) F.ddrQosLate r.port.val idNone := takes_frame v _ _ _ _ rfl rfl htakes
  refine ⟨_, fault_recorded htakes', readReturns_good ?_⟩
  rw [qosCheck_first hport hlate hold]
  refine readEcc_clean ?_
  rw [(fault_touched _ _ _ htakes'.calm).chan]
  exact hx ▸ hon

end

section
variable {b : State} (hport : 8 < r.port.val) (hses : ∀ w, b.ses w = v.ses w) (hpend : ∀ w seq, b.pend? w seq = v.pend? w seq)
include hport hses hpend

/-- The PENDING codec or scan command that a poisoned read serves completes FAULTED (R444, R447). -/
theorem poisonTo_posts {w : Sess} {seq : BitVec 32} {p : Pend} (hwho : r.who = some (w, seq)) (hp : v.pend? w seq = some p) (hq : ∃ q, (v.ses w).cq = some q)
    (hop : p.cmd.op = 0x1103 ∨ p.cmd.op = 0x1104) : Posted (b.undo p) (b.poisonTo r) p St.faulted p.obj.toNat 0 (failUnit r) := by
  have hp' : b.pend? w seq = some p := (hpend w seq).trans hp
  rw [poisonTo_pending hport hwho hp' hop]
  exact pend_posts hp' ((hses w).symm ▸ hq) (undo_host b p)

/-- The command in its slot that a poisoned read serves is answered FAULTED (R89). -/
theorem poisonTo_answers {w : Sess} {c : Cmd} (hwho : r.who = some (w, c.seq)) (hp : v.pend? w c.seq = none) (hcmd : (v.ses w).cmd = some c) :
    Answered b (b.poisonTo r) w c St.faulted [] := by
  rw [poisonTo_slot hport hwho ((hpend w c.seq).trans hp) ((congrArg Session.cmd (hses w)).trans hcmd)]
  exact deliver_answered b w c St.faulted []

end

end Sys2Proof.Machine
end

section
/-!
# Replays, refresh, temperature and scrub of the DDR4 channels (R417 to R426), and O43
-/
namespace Sys2Proof.Machine

variable {s t u v : State} {dt : Nat} {ch : Fin 3} {x : DdrChan}

/-- Two writes of a channel are the second. -/
theorem setChan_setChan (s : State) (c : Nat) (x y : DdrChan) : (s.setChan c x).setChan c y = s.setChan c y := by
  unfold State.setChan
  dsimp only
  rw [put_put]

/-- Reading a channel after one is written. -/
theorem chan_setChan (s : State) (c d : Nat) (x : DdrChan) : (s.setChan c x).chan d = if d = c then x else s.chan d := sel_put _ _ _ _ _

/-! ### Replays -/

/-- A channel that enters OFFLINE as it is written (R419). -/
theorem chanOffline_setChan (s : State) (c : Nat) (y : DdrChan) :
    (s.setChan c y).chanOffline c = (s.setChan c { y with state := 4 }).raise F.ddrChannelOffline c := by
  unfold State.chanOffline
  rw [chan_setChan_same, setChan_setChan]

/-- A channel's entry into OFFLINE is recorded (R419). -/
theorem chanOffline_recorded {c : Nat} (y : DdrChan) (htakes : Takes s F.ddrChannelOffline c idNone)
    (hnew : (s.src F.ddrChannelOffline).conds.contains (BitVec.ofNat 32 c) = false) :
    Recorded (s.setChan c { y with state := 4 }) ((s.setChan c y).chanOffline c) F.ddrChannelOffline c idNone 0 := by
  have hnew' : ((s.setChan c { y with state := 4 }).src F.ddrChannelOffline).conds.contains (BitVec.ofNat 32 c) = false := hnew
  rw [chanOffline_setChan, raise_new hnew']
  exact fault_recorded (takes_frame s _ _ _ _ rfl rfl htakes)

section
variable {n : Nat} {again : Bool}

/-- A CA parity error of a channel that is not ONLINE does nothing. -/
theorem caParity_idle (hx : s.chan ch.val = x) (h : x.state ≠ 2) : exec (.caParityAlert dt ch again) s = .next (s.pass dt) := by
  subst hx
  exact if_pos h

/-- A CA parity error is counted and recorded, and the channel replays (R417). -/
theorem caParity_replays (hx : s.chan ch.val = x) (hn : n = if again then x.caFails + 1 else 0) (hon : x.state = 2) (hfew : n < 3)
    (htakes : Takes s F.ddrCaParity ch.val idNone) : ∃ t, exec (.caParityAlert dt ch again) s = .next t ∧
      Recorded ((s.pass dt).setChan ch.val { x with caFails := n, ca := sat 32 (x.ca + 1), rows := [] }) t F.ddrCaParity ch.val idNone 0 := by
  subst hx hn
  exact ⟨_, (if_neg (not_not.2 hon)).trans (if_neg (Nat.not_le.2 hfew)), fault_recorded (takes_frame s _ _ _ _ rfl rfl htakes)⟩

/-- The third failure in a row takes the channel OFFLINE (R419). -/
theorem caParity_offline (hx : s.chan ch.val = x) (hn : n = if again then x.caFails + 1 else 0) (hon : x.state = 2) (hmany : 3 ≤ n)
    (htakes : Takes s F.ddrChannelOffline ch.val idNone) (hnew : (s.src F.ddrChannelOffline).conds.contains (BitVec.ofNat 32 ch.val) = false) :
    ∃ t, exec (.caParityAlert dt ch again) s = .next t ∧
      Recorded ((s.pass dt).setChan ch.val { x with caFails := 0, state := 4, rows := [] }) t F.ddrChannelOffline ch.val idNone 0 := by
  subst hx hn
  exact ⟨_, (if_neg (not_not.2 hon)).trans (if_pos hmany), chanOffline_recorded (s := s.pass dt) _ (takes_frame s _ _ _ _ rfl rfl htakes) hnew⟩

/-- A write CRC error of a channel that is not ONLINE, or without the check, does nothing. -/
theorem writeCrc_idle (hx : s.chan ch.val = x) (h : x.state ≠ 2 ∨ s.parReset P.memoryDdrWriteCrc = 0) :
    exec (.writeCrcAlert dt ch again) s = .next (s.pass dt) := by
  subst hx
  exact if_pos h

/-- A write CRC error is counted and recorded, and the write replayed (R418). -/
theorem writeCrc_replays (hx : s.chan ch.val = x) (hn : n = if again then x.crcFails + 1 else 0) (hon : x.state = 2)
    (hcheck : s.parReset P.memoryDdrWriteCrc ≠ 0) (hfew : n < 3) (htakes : Takes s F.ddrWriteCrc ch.val idNone) :
    ∃ t, exec (.writeCrcAlert dt ch again) s = .next t ∧
      Recorded ((s.pass dt).setChan ch.val { x with crcFails := n, crc := sat 32 (x.crc + 1) }) t F.ddrWriteCrc ch.val idNone 0 := by
  subst hx hn
  have hacts : ¬(((s.pass dt).chan ch.val).state ≠ 2 ∨ (s.pass dt).parReset P.memoryDdrWriteCrc = 0) := not_or.2 ⟨not_not.2 hon, hcheck⟩
  exact ⟨_, (if_neg hacts).trans (if_neg (Nat.not_le.2 hfew)), fault_recorded (takes_frame s _ _ _ _ rfl rfl htakes)⟩

/-- The third failure in a row takes the channel OFFLINE (R419). -/
theorem writeCrc_offline (hx : s.chan ch.val = x) (hn : n = if again then x.crcFails + 1 else 0) (hon : x.state = 2)
    (hcheck : s.parReset P.memoryDdrWriteCrc ≠ 0) (hmany : 3 ≤ n) (htakes : Takes s F.ddrChannelOffline ch.val idNone)
    (hnew : (s.src F.ddrChannelOffline).conds.contains (BitVec.ofNat 32 ch.val) = false) :
    ∃ t, exec (.writeCrcAlert dt ch again) s = .next t ∧
      Recorded ((s.pass dt).setChan ch.val { x with crcFails := 0, state := 4 }) t F.ddrChannelOffline ch.val idNone 0 := by
  subst hx hn
  have hacts : ¬(((s.pass dt).chan ch.val).state ≠ 2 ∨ (s.pass dt).parReset P.memoryDdrWriteCrc = 0) := not_or.2 ⟨not_not.2 hon, hcheck⟩
  exact ⟨_, (if_neg hacts).trans (if_pos hmany), chanOffline_recorded (s := s.pass dt) _ (takes_frame s _ _ _ _ rfl rfl htakes) hnew⟩

end

/-! ### Refresh -/

/-- Requests that enter a channel leave its state. -/
theorem enter_state (s : State) (c : Nat) (l : List DdrReq) : ((s.enter c l).chan c).state = (s.chan c).state := by
  unfold State.enter
  split
  · rfl
  · rw [chan_setChan_same]

section
variable {rank : Fin 2} {arrive : List DdrReq} {y : DdrChan} (hu : u = (s.pass dt).enter ch.val arrive) (hx : u.chan ch.val = x)
include hu hx

/-- A rank of a channel that is not ONLINE, or that is not there, has no refresh. -/
theorem refreshDue_idle (h : x.state ≠ 2 ∨ s.parReset P.memoryDdrRanks ≤ rank.val) : exec (.ddrRefreshDue dt ch rank arrive) s = .next (s.pass dt) := by
  rw [← hx, hu, enter_state] at h
  exact if_pos h

variable (hy : y = { x with refDue := put x.refDue rank.val (16 * u.now + if x.x2 then 39000 else 78000) }) (hon : x.state = 2)
  (hrank : rank.val < s.parReset P.memoryDdrRanks)
include hon hrank

/-- An ONLINE channel's rank waits, postpones its refresh, or issues it with the postponed ones (R425). -/
theorem refreshDue_eq : exec (.ddrRefreshDue dt ch rank arrive) s =
    if 16 * u.now < sel x.refDue rank.val 0 then .next u
    else if (u.setChan ch.val { x with refDue := put x.refDue rank.val (16 * u.now + refreshGap x.x2) }).urgentQueued ch.val
      then .next ((u.setChan ch.val { x with refDue := put x.refDue rank.val (16 * u.now + refreshGap x.x2) }).setChan ch.val
        { x with refDue := put x.refDue rank.val (16 * u.now + refreshGap x.x2), post := put x.post rank.val (min 8 (sel x.post rank.val 0 + 1)) })
      else .next ((u.setChan ch.val { x with refDue := put x.refDue rank.val (16 * u.now + refreshGap x.x2) }).refreshNow ch.val) := by
  have hacts : ¬(((s.pass dt).chan ch.val).state ≠ 2 ∨ (s.pass dt).parReset P.memoryDdrRanks ≤ rank.val) := by
    rw [← enter_state (s.pass dt) ch.val arrive, ← hu, hx]
    exact not_or.2 ⟨not_not.2 hon, Nat.not_le.2 hrank⟩
  subst hu hx
  exact if_neg hacts

/-- A refresh that is not due waits. -/
theorem refreshDue_waits (hearly : 16 * u.now < sel x.refDue rank.val 0) : exec (.ddrRefreshDue dt ch rank arrive) s = .next u := by
  rw [refreshDue_eq hu hx hon hrank, if_pos hearly]

include hy

/-- A refresh is postponed while an urgent request waits, up to 8 (R425). -/
theorem refreshDue_postpones (hdue : sel x.refDue rank.val 0 ≤ 16 * u.now) (hurgent : ∃ e ∈ x.reqs, 2 ≤ u.urgency e.1.port.val (u.reqAge e)) :
    exec (.ddrRefreshDue dt ch rank arrive) s = .next (u.setChan ch.val { y with post := put x.post rank.val (min 8 (sel x.post rank.val 0 + 1)) }) := by
  obtain ⟨e, he, hage⟩ := hurgent
  have hqueued : (u.setChan ch.val { x with refDue := put x.refDue rank.val (16 * u.now + refreshGap x.x2) }).urgentQueued ch.val = true := by
    unfold State.urgentQueued
    rw [chan_setChan_same]
    exact List.any_eq_true.2 ⟨e, he, decide_eq_true hage⟩
  subst hy
  rw [refreshDue_eq hu hx hon hrank, if_neg (Nat.not_lt.2 hdue), if_pos hqueued, setChan_setChan]
  rfl

/-- A refresh that no urgent request postpones issues, and the postponed ones with it (R425). -/
theorem refreshDue_issues (hdue : sel x.refDue rank.val 0 ≤ 16 * u.now) (hcalm : ∀ e ∈ x.reqs, u.urgency e.1.port.val (u.reqAge e) < 2) :
    exec (.ddrRefreshDue dt ch rank arrive) s = .next (u.setChan ch.val { y with post := [], rows := [] }) := by
  have hqueued : ¬(u.setChan ch.val { x with refDue := put x.refDue rank.val (16 * u.now + refreshGap x.x2) }).urgentQueued ch.val = true := by
    unfold State.urgentQueued
    rw [chan_setChan_same, List.any_eq_true]
    rintro ⟨e, he, hage⟩
    exact absurd (of_decide_eq_true hage) (Nat.not_le.2 (hcalm e he))
  subst hy
  rw [refreshDue_eq hu hx hon hrank, if_neg (Nat.not_lt.2 hdue), if_neg hqueued, State.refreshNow, chan_setChan_same, setChan_setChan]
  rfl

end

end Sys2Proof.Machine
end

section
/-!
# The DDR4 case temperature, the scrub and the initialisation (R407, R423 to R426), and O43
-/
namespace Sys2Proof.Machine

variable {s t u v : State} {dt : Nat} {ch : Fin 3} {x : DdrChan}

/-! ### A channel changes, and what hits touch -/

/-- `t` is `s` but for its DDR4 channels and what hits touch. -/
def ChansOnly (s t : State) : Prop := Touched { s with ddr := { s.ddr with ch := t.ddr.ch } } t

/-- One such change after another. -/
theorem ChansOnly.trans (h : ChansOnly s t) (k : ChansOnly t u) : ChansOnly s u := by
  unfold ChansOnly Touched at h k ⊢
  rw [k, h]

/-- Nothing but the channels of the DDR4 changes. -/
theorem ChansOnly.ddr (h : ChansOnly s t) : t.ddr = { s.ddr with ch := t.ddr.ch } := by
  unfold ChansOnly Touched at h
  rw [h]

/-- The parameters stay. -/
theorem ChansOnly.params (h : ChansOnly s t) : t.params = s.params := by
  unfold ChansOnly Touched at h
  rw [h]

/-- The time stays. -/
theorem ChansOnly.now (h : ChansOnly s t) : t.now = s.now := by
  unfold ChansOnly Touched at h
  rw [h]
  rfl

/-- `t` is `s` with channel `c` as `y`, and what hits touch. -/
def ChanBecomes (s t : State) (c : Nat) (y : DdrChan) : Prop := ChansOnly s t ∧ ∀ d, t.chan d = if d = c then y else s.chan d

/-- Hits leave the channel as it is. -/
theorem ChanBecomes.of_touched (c : Nat) (h : Touched s t) : ChanBecomes s t c (s.chan c) := by
  refine ⟨?_, fun d => ?_⟩
  · have hddr := h.ddr
    unfold ChansOnly
    rw [hddr]
    exact h
  · rw [h.chan]
    by_cases hd : d = c
    · rw [if_pos hd, hd]
    · rw [if_neg hd]

/-- One change of a channel after another. -/
theorem ChanBecomes.trans {c : Nat} {y z : DdrChan} (h : ChanBecomes s t c y) (k : ChanBecomes t u c z) : ChanBecomes s u c z := by
  refine ⟨h.1.trans k.1, fun d => ?_⟩
  rw [k.2, h.2]
  by_cases hd : d = c
  · rw [if_pos hd, if_pos hd]
  · rw [if_neg hd, if_neg hd, if_neg hd]

/-- Hits after a change of a channel. -/
theorem ChanBecomes.touched {c : Nat} {y : DdrChan} (h : ChanBecomes s t c y) (k : Touched t u) : ChanBecomes s u c y := by
  have hy : t.chan c = y := by rw [h.2, if_pos rfl]
  exact h.trans (hy ▸ .of_touched c k)

/-- A channel is written. -/
theorem ChanBecomes.setChan (s : State) (c : Nat) (y : DdrChan) : ChanBecomes s (s.setChan c y) c y := ⟨rfl, fun d => chan_setChan s c d y⟩

/-! ### The refresh rate doubles (R424, R426) -/

/-- A channel's record at the doubled rate, its postponed refreshes issued at a time. -/
def doubledAt (now : Nat) (x : DdrChan) : DdrChan :=
  if x.x2 then x else
    { x with x2 := true, post := [], refDue := put (put x.refDue 0 (16 * now + 39000)) 1 (16 * now + 39000) }

/-- An ONLINE channel doubles its rate without a crossing of the temperature. -/
theorem doubleRefresh_plain {c : Nat} (hon : (s.chan c).state = 2) : ChanBecomes s (s.doubleRefresh c false) c { s.chan c with x2 := true } := by
  unfold State.doubleRefresh
  dsimp only
  by_cases hx2 : (s.chan c).x2 = true
  · rw [if_pos (.inr hx2)]
    have heta : { s.chan c with x2 := true } = s.chan c := by rw [← hx2]
    rw [heta]
    exact .of_touched c (.refl s)
  · rw [if_neg (not_or.2 ⟨not_not.2 hon, hx2⟩), if_neg (fun h => Bool.false_ne_true h.1)]
    exact .setChan s c _

/-- An ONLINE channel doubles its rate as the temperature crosses: its postponed refreshes issue at once (R426). -/
theorem doubleRefresh_crossing {c : Nat} (hon : (s.chan c).state = 2) (hcalm : Calm s F.ddrRefreshDouble) :
    ChanBecomes s (s.doubleRefresh c true) c (doubledAt s.now (s.chan c)) := by
  unfold State.doubleRefresh doubledAt
  dsimp only
  by_cases hx2 : (s.chan c).x2 = true
  · rw [if_pos (.inr hx2), if_pos hx2]
    exact .of_touched c (.refl s)
  · rw [if_neg (not_or.2 ⟨not_not.2 hon, hx2⟩), if_neg hx2]
    exact ChanBecomes.touched (.setChan s c _) (touched_if (fault_touched _ _ _ (hcalm.of_params rfl)) (.refl _))

/-! ### Over the ONLINE channels -/

/-- A change of each ONLINE channel, one after another: the parameters and the time stay, so each depends on the channel alone. -/
theorem foldl_chanBecomes (f : State → Nat → State) (g : DdrChan → DdrChan) (u : State)
    (hstep : ∀ s c, s.params = u.params → s.now = u.now → (s.chan c).state = 2 → ChanBecomes s (f s c) c (g (s.chan c))) (l : List Nat) (hl : l.Nodup) :
    ∀ s : State, s.params = u.params → s.now = u.now → (∀ c ∈ l, (s.chan c).state = 2) →
      ChansOnly s (l.foldl f s) ∧ ∀ d, (l.foldl f s).chan d = if d ∈ l then g (s.chan d) else s.chan d := by
  induction l with
  | nil => exact fun s _ _ _ => ⟨rfl, fun d => (if_neg List.not_mem_nil).symm⟩
  | cons c l ih =>
    intro s hparams hnow hon
    obtain ⟨hc, hl⟩ := List.nodup_cons.1 hl
    obtain ⟨hfirst, hchan⟩ := hstep s c hparams hnow (hon c List.mem_cons_self)
    have hother : ∀ d ∈ l, (f s c).chan d = s.chan d := fun d hd => by rw [hchan, if_neg (fun h : d = c => hc (h ▸ hd))]
    obtain ⟨hrest, hrestChan⟩ := ih hl (f s c) (hfirst.params.trans hparams) (hfirst.now.trans hnow)
      (fun d hd => by rw [hother d hd]; exact hon d (List.mem_cons_of_mem c hd))
    refine ⟨hfirst.trans hrest, fun d => ?_⟩
    rw [List.foldl_cons, hrestChan]
    by_cases hd : d ∈ l
    · rw [if_pos hd, if_pos (List.mem_cons_of_mem c hd), hother d hd]
    · rw [if_neg hd, hchan]
      by_cases hdc : d = c
      · rw [if_pos hdc, if_pos (hdc ▸ List.mem_cons_self), hdc]
      · rw [if_neg hdc, if_neg (fun h => (List.mem_cons.1 h).elim hdc hd)]

/-- The ONLINE channels are the first three that are ONLINE. -/
theorem mem_online (s : State) (c : Nat) : c ∈ s.online ↔ c < 3 ∧ (s.chan c).state = 2 := by
  unfold State.online
  rw [List.mem_filter, List.mem_range, beq_iff_eq]

/-- A change of every ONLINE channel. -/
theorem online_chanBecomes (f : State → Nat → State) (g : DdrChan → DdrChan) (u : State)
    (hstep : ∀ s c, s.params = u.params → s.now = u.now → (s.chan c).state = 2 → ChanBecomes s (f s c) c (g (s.chan c))) :
    ChansOnly u (u.online.foldl f u) ∧ ∀ d, (u.online.foldl f u).chan d = if d < 3 ∧ (u.chan d).state = 2 then g (u.chan d) else u.chan d := by
  obtain ⟨hframe, hchan⟩ := foldl_chanBecomes f g u hstep u.online (List.nodup_range.filter _) u rfl rfl (fun c hc => ((mem_online u c).1 hc).2)
  exact ⟨hframe, fun d => (hchan d).trans (if_congr (mem_online u d) rfl rfl)⟩

/-! ### The case temperature -/

/-- The reading of the case temperature has been taken (R424). -/
def State.caseRead (s : State) (temp : Option Int) (since : Nat) : State :=
  { s with ddr := { s.ddr with caseC := temp, caseAt := since, tempNext := s.now + 10 * perMs } }

/-- What every reading of the case temperature leaves: the reading, and the ONLINE channels changed by it. -/
def CaseRead (s t : State) (temp : Option Int) (since : Nat) (g : DdrChan → DdrChan) : Prop :=
  ChansOnly (s.caseRead temp since) t ∧ ∀ d, t.chan d = if d < 3 ∧ (s.chan d).state = 2 then g (s.chan d) else s.chan d

/-- Without a sensor the ONLINE channels refresh at the doubled rate (R424). -/
theorem tempRead_unsensed (hdue : s.ddr.tempNext ≤ (s.pass dt).now) (hnone : s.par P.memoryDdrTempSensor = 0xFF) :
    ∃ t, exec (.ddrTempRead dt) s = .next t ∧ CaseRead (s.pass dt) t none (s.pass dt).now (fun x => { x with x2 := true }) := by
  have hnone' : (s.pass dt).par P.memoryDdrTempSensor = 0xFF := hnone
  refine ⟨_, (if_neg (Nat.not_lt.2 hdue)).trans (if_pos hnone'), ?_⟩
  exact online_chanBecomes _ (fun x => { x with x2 := true }) ((s.pass dt).caseRead none (s.pass dt).now) fun s c _ _ hon =>
    ((doubleRefresh_plain hon).touched (lower_touched _ _ _)).touched (lower_touched _ _ _)

/-- A reading that fails leaves the channels for 100 ms, and then doubles the rate of the ONLINE ones (R424). -/
theorem tempRead_fails (hdue : s.ddr.tempNext ≤ (s.pass dt).now) (hsensor : s.par P.memoryDdrTempSensor ≠ 0xFF)
    (hfail : (s.pass dt).boardTemp (s.par P.memoryDdrTempSensor) = none) (hcalm : Calm s F.ddrTempStale) :
    ∃ t, exec (.ddrTempRead dt) s = .next t ∧ CaseRead (s.pass dt) t s.ddr.caseC s.ddr.caseAt
      (fun x => if (s.pass dt).now < s.ddr.caseAt + 100 * perMs then x else { x with x2 := true }) := by
  have hsensor' : (s.pass dt).par P.memoryDdrTempSensor ≠ 0xFF := hsensor
  have hexec : exec (.ddrTempRead dt) s = if (s.pass dt).now < s.ddr.caseAt + 100 * perMs then .next ((s.pass dt).caseRead s.ddr.caseC s.ddr.caseAt)
      else .next (((s.pass dt).caseRead s.ddr.caseC s.ddr.caseAt).online.foldl (fun (s : State) c => (s.doubleRefresh c false).raise F.ddrTempStale c)
        ((s.pass dt).caseRead s.ddr.caseC s.ddr.caseAt)) := by
    refine (if_neg (Nat.not_lt.2 hdue)).trans ((if_neg hsensor').trans ?_)
    rw [show ∀ d, State.boardTemp { s.pass dt with ddr := d } ((s.pass dt).par P.memoryDdrTempSensor) = none from fun _ => hfail]
    rfl
  by_cases hrecent : (s.pass dt).now < s.ddr.caseAt + 100 * perMs
  · rw [if_pos hrecent] at hexec
    refine ⟨_, hexec, rfl, fun d => ?_⟩
    dsimp only
    rw [if_pos hrecent, ite_self]
    rfl
  · rw [if_neg hrecent] at hexec
    refine ⟨_, hexec, ?_⟩
    unfold CaseRead
    rw [show (fun x : DdrChan => if (s.pass dt).now < s.ddr.caseAt + 100 * perMs then x else { x with x2 := true }) = (fun x => { x with x2 := true }) from
      funext fun x => if_neg hrecent]
    exact online_chanBecomes _ (fun x => { x with x2 := true }) ((s.pass dt).caseRead s.ddr.caseC s.ddr.caseAt) fun s' c hparams _ hon =>
      (doubleRefresh_plain hon).touched (raise_touched _ _ _ (hcalm.of_params ((doubleRefresh_plain hon).1.params.trans hparams)))

/-- What a case temperature makes of an ONLINE channel (R424, R426). -/
def refreshAt (temp : Int) (now : Nat) (x : DdrChan) : DdrChan := if 850 < temp then doubledAt now x else if temp < 830 then { x with x2 := false } else x

/-- One ONLINE channel follows the case temperature (R424, R426). -/
def State.followTemp (s : State) (temp : Int) (c : Nat) : State :=
  let s := s.lower F.ddrTempStale c
  let s := if 850 < temp then s.doubleRefresh c true else if temp < 830 then s.setChan c { s.chan c with x2 := false } else s
  if 950 < temp then s.raise F.ddrOvertemp c else s.lower F.ddrOvertemp c

/-- Its record follows the temperature. -/
theorem followTemp_becomes {temp : Int} {c : Nat} (hon : (s.chan c).state = 2) (hover : Calm s F.ddrOvertemp) (hdouble : Calm s F.ddrRefreshDouble) :
    ChanBecomes s (s.followTemp temp c) c (refreshAt temp s.now (s.chan c)) := by
  have hlow := lower_touched s F.ddrTempStale c
  have hlowered := ChanBecomes.of_touched c hlow
  have hlowChan := hlow.chan c
  have hrate : ChanBecomes s (if 850 < temp then (s.lower F.ddrTempStale c).doubleRefresh c true
      else if temp < 830 then (s.lower F.ddrTempStale c).setChan c { (s.lower F.ddrTempStale c).chan c with x2 := false } else s.lower F.ddrTempStale c) c
      (refreshAt temp s.now (s.chan c)) := by
    unfold refreshAt
    by_cases hhot : 850 < temp
    · rw [if_pos hhot, if_pos hhot]
      have hcross := doubleRefresh_crossing (hlowChan ▸ hon) (hdouble.of_params hlow.fields.1)
      rw [hlowChan, hlowered.1.now] at hcross
      exact hlowered.trans hcross
    · rw [if_neg hhot, if_neg hhot]
      by_cases hcool : temp < 830
      · rw [if_pos hcool, if_pos hcool, hlowChan]
        exact hlowered.trans (.setChan _ c _)
      · rw [if_neg hcool, if_neg hcool]
        exact hlowered
  exact hrate.touched (touched_if (raise_touched _ _ _ (hover.of_params hrate.1.params)) (lower_touched _ _ _))

/-- A reading makes every ONLINE channel follow it (R424, R426). -/
theorem tempRead_follows {temp : Int} (hdue : s.ddr.tempNext ≤ (s.pass dt).now) (hsensor : s.par P.memoryDdrTempSensor ≠ 0xFF)
    (htemp : (s.pass dt).boardTemp (s.par P.memoryDdrTempSensor) = some temp) (hover : Calm s F.ddrOvertemp) (hdouble : Calm s F.ddrRefreshDouble) :
    ∃ t, exec (.ddrTempRead dt) s = .next t ∧ CaseRead (s.pass dt).fresh t (some temp) (s.pass dt).now (refreshAt temp (s.pass dt).now) := by
  have hsensor' : (s.pass dt).par P.memoryDdrTempSensor ≠ 0xFF := hsensor
  have hexec : exec (.ddrTempRead dt) s = .next (((s.pass dt).fresh.caseRead (some temp) (s.pass dt).now).online.foldl
      (fun s c => s.followTemp temp c) ((s.pass dt).fresh.caseRead (some temp) (s.pass dt).now)) := by
    refine (if_neg (Nat.not_lt.2 hdue)).trans ((if_neg hsensor').trans ?_)
    rw [show ∀ d, State.boardTemp { s.pass dt with ddr := d } ((s.pass dt).par P.memoryDdrTempSensor) = some temp from fun _ => htemp]
    rfl
  refine ⟨_, hexec, online_chanBecomes _ (refreshAt temp (s.pass dt).now) ((s.pass dt).fresh.caseRead (some temp) (s.pass dt).now) fun s' c hparams hnow hon => ?_⟩
  have hbecomes := followTemp_becomes (temp := temp) hon (hover.of_params hparams) (hdouble.of_params hparams)
  rw [hnow] at hbecomes
  exact hbecomes

/-- The channels that a reading leaves alone. -/
theorem CaseRead.other {temp : Option Int} {since : Nat} {g : DdrChan → DdrChan} (h : CaseRead s t temp since g) (c : Nat) (hoff : (s.chan c).state ≠ 2) :
    t.chan c = s.chan c := by
  rw [h.2, if_neg (fun hc => hoff hc.2)]

/-- The channels that follow a reading. -/
theorem CaseRead.online {temp : Option Int} {since : Nat} {g : DdrChan → DdrChan} (h : CaseRead s t temp since g) (c : Nat) (hlt : c < 3)
    (hon : (s.chan c).state = 2) : t.chan c = g (s.chan c) := by
  rw [h.2, if_pos ⟨hlt, hon⟩]

/-- The reading stands. -/
theorem CaseRead.temp {temp : Option Int} {since : Nat} {g : DdrChan → DdrChan} (h : CaseRead s t temp since g) : t.ddr.caseC = temp ∧ t.ddr.caseAt = since := by
  rw [h.1.ddr]
  exact ⟨rfl, rfl⟩

/-- The frame of a reading, whether or not it took a free value. -/
theorem CaseRead.frame {temp : Option Int} {since fr : Nat} {g : DdrChan → DdrChan} (h : CaseRead { s with free := fr } t temp since g) :
    Touched { s with ddr := { s.ddr with ch := t.ddr.ch, caseC := t.ddr.caseC, caseAt := t.ddr.caseAt, tempNext := s.now + 10 * perMs } } t := by
  obtain ⟨hc, ha⟩ := h.temp
  rw [hc, ha]
  exact h.1

end Sys2Proof.Machine
end

section
/-!
# The scrub and the initialisation (R407, R423), and O43
-/
namespace Sys2Proof.Machine

variable {s : State} {dt : Nat} {ch : Fin 3} {x : DdrChan}

/-- The scrub's next pass is set (R423). -/
def State.scrubSet (s : State) (n : Nat) : State := { s with ddr := { s.ddr with scrubNext := n } }

/-- What a pass of the scrub met of one granule (R423). -/
def State.scrubMeets (s : State) (m : Fin 3 × Nat × ReadFate) : State :=
  if (s.chan m.1.val).state = 2 then (s.readEcc m.1.val m.2.1 m.2.2 idNone).1 else s

/-- A scrub that is off, or whose pass has not ended, does nothing. -/
theorem ddrScrub_idle (l : List (Fin 3 × Nat × ReadFate)) (h : s.par P.memoryDdrScrubHours = 0 ∨ (s.pass dt).now < s.ddr.scrubNext) :
    exec (.ddrScrub dt l) s = .next (s.pass dt) := if_pos h

/-- A pass that ends sets the next one, and what it met is counted (R423). -/
theorem ddrScrub_ends {n : Nat} (l : List (Fin 3 × Nat × ReadFate)) (hn : n = (s.pass dt).now + s.par P.memoryDdrScrubHours * 3600 * perSecond)
    (hhours : s.par P.memoryDdrScrubHours ≠ 0) (hdue : s.ddr.scrubNext ≤ (s.pass dt).now) :
    exec (.ddrScrub dt l) s = .next (l.foldl State.scrubMeets ((s.pass dt).scrubSet n)) := by
  rw [show s.par P.memoryDdrScrubHours = (s.pass dt).par P.memoryDdrScrubHours from rfl] at hn
  subst hn
  have hacts : ¬((s.pass dt).par P.memoryDdrScrubHours = 0 ∨ (s.pass dt).now < (s.pass dt).ddr.scrubNext) := not_or.2 ⟨hhours, Nat.not_lt.2 hdue⟩
  exact if_neg hacts

/-- An error that an ONLINE channel's scrub corrects is counted and recorded (R420, R423). -/
theorem scrubMeets_corrected {g : Nat} (hx : s.chan ch.val = x) (hon : x.state = 2) (htakes : Takes s F.ddrEccCorr g idNone) :
    Recorded (s.setChan ch.val { x with corr := sat 32 (x.corr + 1) }) (s.scrubMeets (ch, g, .corrected)) F.ddrEccCorr g idNone 1 := by
  unfold State.scrubMeets
  dsimp only
  rw [hx, if_pos hon, readEcc_corrected hx (by omega)]
  exact hit_recorded _ _ _ _ 1 (takes_frame s _ _ _ _ rfl rfl htakes)

/-- One that it cannot is counted and recorded as poison (R421, R423). -/
theorem scrubMeets_poisoned {g : Nat} (hx : s.chan ch.val = x) (hon : x.state = 2) (htakes : Takes s F.ddrEccPoison g idNone) :
    Recorded (s.setChan ch.val { x with pois := sat 32 (x.pois + 1) }) (s.scrubMeets (ch, g, .poisoned)) F.ddrEccPoison g idNone 1 := by
  unfold State.scrubMeets
  dsimp only
  rw [hx, if_pos hon, readEcc_poisoned hx (by omega)]
  exact hit_recorded _ _ _ _ 1 (takes_frame s _ _ _ _ rfl rfl htakes)

/-- The initialisation ends when a channel has trained (R407). -/
theorem ddrInitDone_ends {c : Nat} (hc : c < 3) (htrained : s.trained c = true) :
    exec (.ddrInitDone dt) s = .next { s.pass dt with ddr := { s.ddr with initDone := true } } := by
  have hmem : c ∈ (s.pass dt).trainedList := List.mem_filter.2 ⟨List.mem_range.2 hc, htrained⟩
  have hsome : ¬(s.pass dt).trainedList.isEmpty = true := fun h => List.not_mem_nil (List.isEmpty_iff.1 h ▸ hmem)
  exact if_neg hsome

/-- Settles O43, by the list of requests for the choice of a command, by what a read met for its return, and over the ONLINE channels for
the temperature. -/
theorem ddrChannelsWork : Obligations.DdrChannelsWork := by
  unfold Obligations.DdrChannelsWork
  refine ⟨?_, ?_, ?_, ?_, ?_, ?_, ?_, ?_, ?_, ?_, ?_, ?_⟩
  · intro dt granule age port ch fate master who win queued s u hu
    have hread : u = (s.pass dt).enter ch.val (queued ++ readOf port granule age master who win) := by
      rw [hu]
      cases port <;> rfl
    refine ⟨ddrRead_untrained, fun v htrained hissue => ?_, fun v r at_ x htrained hissue hx hon => ?_⟩
    · rw [ddrRead_issues htrained hread, hissue]
    · have hexec := ddrRead_issues (fate := fate) htrained hread
      rw [hissue] at hexec
      rw [hexec]
      refine ⟨fun hintime => ⟨?_, ?_, ?_, ?_⟩, ?_⟩
      · rintro rfl
        exact congrArg Host.Outcome.next (readReturns_clean hx hon hintime)
      · rintro rfl htakes
        obtain ⟨a, hrec, hto⟩ := readReturns_corrected hx hon hintime htakes
        exact ⟨a, hrec, congrArg Host.Outcome.next hto⟩
      · rintro rfl htakes
        obtain ⟨a, hrec, hto⟩ := readReturns_cleared hx hon hintime htakes
        exact ⟨a, hrec, congrArg Host.Outcome.next hto⟩
      · rintro rfl htakes
        obtain ⟨a, b, hrec, hb, hto, hses, hpend⟩ := readReturns_poisons hx hon hintime htakes
        dsimp only
        rw [hto]
        exact ⟨a, b, hrec, hb, fun hno => congrArg Host.Outcome.next (poisonTo_none hno),
          fun slot rg line k ring hport hwin => congrArg Host.Outcome.next (poisonTo_window hport hwin),
          fun w seq p hport hwho hp hq hop => ⟨_, rfl, poisonTo_posts hport hses hpend hwho hp hq hop⟩,
          fun w c hport hwho hp hcmd => ⟨_, rfl, poisonTo_answers hport hses hpend hwho hp hcmd⟩⟩
      · rintro hport hlate rfl
        refine ⟨fun ⟨a, ha, hrecent⟩ => congrArg Host.Outcome.next (readReturns_lateAgain hx hon hport hlate ha hrecent), fun hold htakes => ?_⟩
        obtain ⟨a, hrec, hto⟩ := readReturns_lateFirst hx hon hport hlate hold htakes
        exact ⟨a, hrec, congrArg Host.Outcome.next hto⟩
  · intro n ch u v e x hissue hx
    subst hx
    exact issueRead_read ch.val e n u v hissue
  · intro c u l hl
    subst hl
    exact ⟨drains_iff u c, mem_reqChoices u c⟩
  · intro c u e hnext
    refine ⟨(mem_urgentChoices.1 (nextReq_mem hnext)).1, fun d => nextReq_urgent hnext, nextReq_oldest hnext, fun hstreak ⟨d, hd, hsame, hhit⟩ => ?_⟩
    exact nextReq_hit hnext hstreak hd hsame hhit
  · intro dt n ch again s x hx hn
    exact ⟨caParity_idle hx, caParity_replays hx hn, caParity_offline hx hn⟩
  · intro dt n ch again s x hx hn
    exact ⟨writeCrc_idle hx, writeCrc_replays hx hn, writeCrc_offline hx hn⟩
  · intro dt ch rank arrive s u x y hu hx hy
    exact ⟨refreshDue_waits hu hx, refreshDue_idle hu hx, refreshDue_postpones hu hx hy, refreshDue_issues hu hx hy⟩
  · intro dt s hearly
    exact if_pos hearly
  · intro dt s hdue hstale hover hdouble
    by_cases hsensor : s.par P.memoryDdrTempSensor = 0xFF
    · obtain ⟨t, hexec, hread⟩ := tempRead_unsensed hdue hsensor
      exact ⟨t, hexec, hread.frame, hread.other, fun _ => ⟨hread.temp.1, hread.online⟩, fun _ h => absurd hsensor h, fun h => absurd hsensor h⟩
    · cases htemp : (s.pass dt).boardTemp (s.par P.memoryDdrTempSensor) with
      | none =>
        obtain ⟨t, hexec, hread⟩ := tempRead_fails hdue hsensor htemp hstale
        exact ⟨t, hexec, hread.frame, hread.other, fun h => absurd h hsensor, fun _ _ h => absurd h (by simp), fun _ _ => ⟨hread.temp.1, hread.online⟩⟩
      | some temp =>
        obtain ⟨t, hexec, hread⟩ := tempRead_follows hdue hsensor htemp hover hdouble
        refine ⟨t, hexec, hread.frame, hread.other, fun h => absurd h hsensor, fun v _ hv => ?_, fun _ h => absurd h (by simp)⟩
        obtain rfl : temp = v := Option.some.inj hv
        refine ⟨hread.temp.1, hread.temp.2, fun c hc hon => ⟨fun hhot => ?_, fun hcool => ?_, fun hlow hhigh => ?_⟩⟩
        · exact (hread.online c hc hon).trans (if_pos hhot)
        · exact (hread.online c hc hon).trans ((if_neg (by omega)).trans (if_pos hcool))
        · exact (hread.online c hc hon).trans ((if_neg (by omega)).trans (if_neg (by omega)))
  · intro dt s
    rfl
  · intro dt g n ch s x hx hn
    refine ⟨ddrScrub_idle _, ddrScrub_ends [] hn, fun hhours hdue hon htakes => ⟨_, ddrScrub_ends _ hn hhours hdue, ?_⟩,
      fun hhours hdue hon htakes => ⟨_, ddrScrub_ends _ hn hhours hdue, ?_⟩⟩
    · exact scrubMeets_corrected (s := (s.pass dt).scrubSet n) hx hon (takes_frame s _ _ _ _ rfl rfl htakes)
    · exact scrubMeets_poisoned (s := (s.pass dt).scrubSet n) hx hon (takes_frame s _ _ _ _ rfl rfl htakes)
  · rintro dt s ⟨c, hc, htrained⟩
    exact ddrInitDone_ends hc htrained

end Sys2Proof.Machine
end

section
/-!
# The lanes of a channel's training results (R404, R429, R511)

The results of channel `c` begin at `18 * c`, for two ranks of nine lanes. The statement asks for every lane of every channel under any value
of `memory.ddr.ranks`, and with three ranks the nineteenth lane of one channel and the first of the next have one place.
-/
namespace Sys2Proof.Machine

/-- A sweep that passes at 32 steps, at a VrefDQ code. -/
def wideSweep (vref : Nat) : Sweep := { read := List.replicate 32 true, write := List.replicate 32 true, vref := vref }

/-- KINDLING waits for stage 6 with the RESET value of `memory.ddr.ranks` 3. -/
def threeRanks : State :=
  { State.reset with pwr := { rails := true, porst := true, stage := 5 }, params := { State.reset.params with reset := [(P.memoryDdrRanks.id, 3)] } }

/-- Each channel's 27 lanes pass, with the channel's number for their code. -/
def threeRanksTrained : List TrainFate := (List.range 3).map (fun c => .trained (List.replicate 27 (wideSweep c)))

/-- The sweeps of a channel. -/
theorem threeRanksTrained_at {c : Nat} (hc : c < 3) : threeRanksTrained[c]? = some (.trained (List.replicate 27 (wideSweep c))) := by
  simp [threeRanksTrained, List.getElem?_range hc]

/-- 32 steps that pass are one eye. -/
theorem eyeOf_wide : eyeOf (List.replicate 32 true) = (0, 32) := by decide

/-- An eye of 32 steps at any code. -/
theorem wideSweep_res (vref : Nat) : Sweep.res (wideSweep vref) = { rd := 15, re := 32, wd := 15, we := 32, vref := vref } := by
  simp only [Sweep.res, wideSweep, eyeOf_wide, eyeDelay]

/-- Every channel of the three ranks trains with margin. -/
theorem threeRanks_trains (c : Nat) : threeRanks.trainsOk (.trained (List.replicate 27 (wideSweep c))) = true ∧
    ∀ x ∈ (List.replicate 27 (wideSweep c)).map Sweep.res,
      2 * threeRanks.parReset P.memoryDdrMinEyeSteps ≤ x.re ∧ 2 * threeRanks.parReset P.memoryDdrMinEyeSteps ≤ x.we := by
  have hmin : threeRanks.parReset P.memoryDdrMinEyeSteps = 16 := by decide
  have hranks : threeRanks.parReset P.memoryDdrRanks = 3 := by decide
  refine ⟨?_, fun x hx => ?_⟩
  · simp [State.trainsOk, hmin, hranks, wideSweep_res]
  · rw [List.map_replicate, wideSweep_res] at hx
    rw [List.eq_of_mem_replicate hx, hmin]
    exact ⟨le_rfl, le_rfl⟩

/-- Refutes O56: with three ranks lane 18 of channel 0 and lane 0 of channel 1 have one place in the training results, which cannot hold both. -/
theorem not_kindlingStagesComplete : ¬ Obligations.KindlingStagesComplete := by
  unfold Obligations.KindlingStagesComplete
  rintro ⟨-, -, -, -, hstage6, -⟩
  have henabled : ∀ c < 3, threeRanks.parReset (P.memoryChEnable c) ≠ 0 := by decide
  obtain ⟨t, -, -, -, -, -, hlanes, -⟩ := hstage6 0 threeRanksTrained threeRanks (by decide) ⟨0, by omega, henabled 0 (by omega)⟩
    fun c hc _ => ⟨_, threeRanksTrained_at hc, threeRanks_trains c⟩
  have hlast : look t.ddr.train 18 = some (Sweep.res (wideSweep 0)) :=
    hlanes 0 18 _ _ (by omega) (henabled 0 (by omega)) (threeRanksTrained_at (by omega)) rfl
  have hfirst : look t.ddr.train 18 = some (Sweep.res (wideSweep 1)) :=
    hlanes 1 0 _ _ (by omega) (henabled 1 (by omega)) (threeRanksTrained_at (by omega)) rfl
  rw [hlast, wideSweep_res, wideSweep_res] at hfirst
  exact absurd hfirst (by decide)

end Sys2Proof.Machine
end
